-- ==== Sys2Proof/Word.lean ====
section
/-! DEFINITION. The plain types that the whole model shares: bytes, words, sparse tables and the numbers of units.
A unit's number is a `Fin` where it names a unit in a command (00 R2, 01 R21) and a plain `Nat` as a table key. -/
namespace Sys2Proof

/-- One byte. -/
abbrev Byte := BitVec 8
/-- A 32-bit word of a descriptor, register or command entry (00 R5, R6). -/
abbrev Word := BitVec 32
/-- A register pair or 64-bit field (00 R6). -/
abbrev DWord := BitVec 64

/-- A sparse table keyed by number: keys strictly rising, no entry equal to the table's default. -/
abbrev Tbl (α : Type) := List (Nat × α)

/-- Function number: 0 the PF, 1-32 the VFs (00 R2). -/
abbrev FnId := Fin 33
/-- Partition number (00 R2). -/
abbrev PtnId := Fin 32
/-- Quarter number Q0-Q31 (01 R21). -/
abbrev QtrId := Fin 32
/-- Die number D0-D7 (01 R21). -/
abbrev DieId := Fin 8
/-- Context number (00 R2). -/
abbrev CtxId := Fin 4096
/-- Ring number (00 R2). -/
abbrev RingId := Fin 32768
/-- Figure slot number (02). -/
abbrev SlotId := Fin 8
/-- Fabric port index 0-17 (10 R297). -/
abbrev PortId := Fin 18
/-- Event source number (12 R362). -/
abbrev SrcId := Fin 4096
/-- Object id (07 R205). -/
abbrev ObjId := Fin 65536
/-- Set number within the module (01 R21). -/
abbrev SetId := Fin 640

end Sys2Proof
end

