-- ==== Sys2Proof/Syntax.lean ====
section
/-! DEFINITION. The commands: one constructor of `Instr` per row of spec/opcode_table.json, with the row's operands.
The table gives no bits and no operands; an operand here is what the row's event brings from outside the block (which
function accessed what, which unit finished, what was measured, which bytes arrived). Log 13. -/
namespace Sys2Proof

/-- A 64 B command-ring entry as the ring's front-end reads it (08 R244): the ring, the reserved header bits
[31:9] of word 0, NOTIFY, TAG, and words 2-15. -/
structure Entry where
  ring   : RingId
  hdr    : Nat
  notify : Bool
  tag    : Word
  ops    : List Word
  deriving DecidableEq, Repr

/-- What built-in self-test finds in one set (01 R32): physical cores with a failed part other than a lane, and per
dot unit (physical core × 8 + unit) the number of newly failed lanes. -/
structure SelfTest where
  set   : Nat
  cores : List Nat
  lanes : List (Nat × Nat)
  deriving DecidableEq, Repr

/-- A memory part that training may fail on (14 R403). -/
inductive TrainPart where
  | hbm (stack : DieId)
  | lpddr (package : Fin 24)
  deriving DecidableEq, Repr

/-- The side-band tags of a flit (09 R271, R272). -/
structure RowTag where
  row  : Nat
  pass : Nat
  pos  : Nat
  live : Bool
  deriving DecidableEq, Repr

/-- A stream flit: 64 B, poison mark, figure epoch, context tag and row tag (02 R68, 04 R138, 07 R228). -/
structure Flit where
  data   : List Byte
  poison : Bool
  epoch  : Nat
  ctx    : Nat
  tag    : RowTag
  deriving DecidableEq, Repr

/-- Where a flit arrives: a core's step input (0: PAT_A, 1: PAT_B), a partner unit's reducer (05 R157, R169), an attention pipe's ATT_Q
(0) or ATT_KV (1) for a step (06 R199), or the sampler of a die, with the producing core and step (09 R272). -/
inductive FlitPort where
  | core (core step input : Nat)
  | partner (set : Nat)
  | attention (set step kind : Nat)
  | sampler (die : DieId) (core step : Nat)
  deriving DecidableEq, Repr

/-- What a partner unit's gather brings (05 R161, R167). -/
inductive GatherKind where
  | piece (adapter piece : Nat)
  | steering (id layer : Nat)
  deriving DecidableEq, Repr

/-- A fetch whose deadline can pass (07 R222): one round's flits of a read-port stream, a gather of a
piece or a vector, or an attention-pipe read of a row's slot and block, with the bytes of the fetch that had come when it passed. -/
inductive FetchKind where
  | port (port : Nat) (draft : Bool) (arrived : Nat)
  | gather (set adapter piece arrived : Nat)
  | steering (set id layer arrived : Nat)
  | page (row slot block arrived : Nat)
  deriving DecidableEq, Repr

/-- A memory tier (07 R203). -/
inductive Tier where
  | t0 | t1 | t2
  deriving DecidableEq, Repr

/-- Which KV-pool register is written (06 R201). -/
inductive PoolReg where
  | baseLo | baseHi | pages
  deriving DecidableEq, Repr

/-- The bytes of one 64 B line that a DMA read brought, and whether it came poisoned (07 R224). -/
structure DmaLine where
  line   : Nat
  data   : List Byte
  poison : Bool
  deriving DecidableEq, Repr

/-- An engine of the module (08 R250, 11 R340). -/
inductive EngineSel where
  | figure (p : PtnId)
  | mover (d : DieId)
  | sampler (d : DieId)
  | mask (d : DieId)
  | exchange (d : DieId)
  deriving DecidableEq, Repr

/-- The scope of a reset whose limit expires (11 R336); for a context, the engines that have not released it. -/
inductive ResetScope where
  | context (c : CtxId) (stuck : List EngineSel)
  | engine (e : EngineSel)
  | partition (p : PtnId)
  | module
  deriving DecidableEq, Repr

/-- How a ring or INTAKE DMA ends wrongly (08 R243, 11 R333). -/
structure DmaFail where
  status  : Nat
  timeout : Bool
  deriving DecidableEq, Repr

/-- A slot of a fabric frame (10 R299). -/
structure FrameSlot where
  kind   : Nat
  vl     : Nat
  poison : Bool
  data   : List Byte
  deriving DecidableEq, Repr

/-- What the 544 bytes of an intact fabric frame say (10 R299). -/
structure Frame where
  seq     : Nat
  ack     : Nat
  nak     : Bool
  slots   : List FrameSlot
  credits : List Nat
  deriving DecidableEq, Repr

/-- A fabric packet: the head flit's fields and the data flits (10 R302). -/
structure Packet where
  dest    : Nat
  mcast   : Bool
  vl      : Nat
  src     : Nat
  type    : Nat
  channel : Nat
  epoch   : Nat
  ctx     : Nat
  body    : List Word
  flits   : List Flit
  deriving DecidableEq, Repr

/-- An expert-dispatch unit (10 R324) with the coordinate it came from and, for ACT and ANSWER, the data that follow. -/
structure XUnit where
  src        : Nat
  exch       : Nat
  step       : Nat
  epoch      : Nat
  generation : Nat
  batch      : Nat
  srcPtn     : Nat
  dstPtn     : Nat
  row        : Nat
  pos        : Nat
  expert     : Nat
  value      : Word
  data       : List Byte
  poison     : Bool
  deriving DecidableEq, Repr

/-- A temperature sensor (13 R394). -/
inductive Sensor where
  | quarter (q : QtrId) (k : Fin 4)
  | baseDie (d : DieId) (k : Fin 2)
  | hbm (h : DieId)
  | lpddr (p : Fin 24)
  | regulator (r : Fin 73)
  deriving DecidableEq, Repr

/-- What the module measures over the last millisecond (13 R383): input power, volts and amps in 1/16 units, and the
core-rail output of the running partitions' quarters in W; and each quarter's current. -/
structure Measure where
  inputW  : Nat
  volts   : Nat
  amps    : Nat
  coreW   : Nat
  qtrAmps : List Nat
  deriving DecidableEq, Repr

/-- A signed key message (14 R411): the slot acted on, the key to write (X then Y), the signing slot, the nonce it
carries and the signature. -/
structure KeyMsg where
  slot   : Nat
  keyX   : Nat
  keyY   : Nat
  signer : Nat
  nonce  : Nat
  sigR   : Nat
  sigS   : Nat
  deriving DecidableEq, Repr

/-- The transport of an SPDM request (14 R414). -/
inductive Transport where
  | doe | mctp
  deriving DecidableEq, Repr

/-- A supported SPDM request other than GET_MEASUREMENTS (14 R414). -/
inductive SpdmReq where
  | getVersion | getCapabilities | negotiateAlgorithms | getDigests | getCertificate (slot : Nat) | challenge (slot : Nat)
  deriving DecidableEq, Repr

/-- What a configuration-space write changes (12 R370, 15 R432, R436). -/
inductive CfgChange where
  | msixEnable (b : Bool)
  | functionMask (b : Bool)
  | vfEnable (b : Bool)
  | memorySpace (b : Bool)
  deriving DecidableEq, Repr

/-- What the die controllers measured in one round of a mirror run (11 R349): per figure quarter the measured round and the
QTR_STALL increase, and per sample of the REPORT the depth of its buffer when its core reached CYCLE. -/
structure MirrorRound where
  quarters : List (Nat × Nat)
  depths   : List Nat
  deriving DecidableEq, Repr

/-- A BAR whose reads a command can bring (00 R15): the registers, or the doorbells. -/
inductive HostBar where
  | registers | doorbells
  deriving DecidableEq, Repr

/-- Where a read of a BAR lies. -/
structure BarAddr where
  bar : HostBar
  off : Nat
  deriving DecidableEq, Repr

/-- Where an access to the doorbells lies, and how many bytes it takes (00 R7). -/
structure BarSpan where
  off  : Nat
  size : Nat
  deriving DecidableEq, Repr

/-- A barrier message of a partition, with the figure epoch that it carries (02 R68; 07 R221). -/
structure BarrierMsg where
  ptn   : PtnId
  epoch : Fin 65536
  deriving DecidableEq, Repr

/-- A receive channel, at the module that returns its credits (10 R311). -/
structure ChanEnd where
  coord   : Nat
  channel : Nat
  deriving DecidableEq, Repr

/-- Why the host link was lost (15 R436). -/
inductive LinkCause where
  | perst | hotReset | linkDown
  deriving DecidableEq, Repr

/-- Result of an engine's built-in self-test (11 R340). -/
inductive SelfTestResult where
  | passed | failed
  deriving DecidableEq, Repr

/-- One constructor per row of spec/opcode_table.json, in its order. -/
inductive Instr where
  | registerWrite (fn : FnId) (off size : Nat) (val : DWord)
  | rcRead (fn : FnId) (addr : BarAddr) (size : Nat)
  | modTimeLoRead (fn : FnId) (wide : Bool)
  | figRoundsLoRead (fn : FnId) (p : PtnId) (wide : Bool)
  | ctxRunLoRead (fn : FnId) (c : CtxId) (wide : Bool)
  | aonPowerUp (slotId : Fin 16)
  | bootVerify
  | powerUp
  | powerUpComplete
  | repairDone (found : List SelfTest)
  | trainingDone (failed : Option TrainPart)
  | initDone
  | hardRstN
  | pwrEnDeasserted
  | coolantLost
  | flashWriteDone
  | install (fn : FnId) (p : PtnId) (slot : SlotId)
  | installDone (p : PtnId)
  | remove (fn : FnId) (p : PtnId) (slot : SlotId)
  | load (fn : FnId) (p : PtnId) (slot : SlotId)
  | loadDone (p : PtnId)
  | start (fn : FnId) (p : PtnId)
  | drain (fn : FnId) (p : PtnId)
  | switch (fn : FnId) (p : PtnId) (slot : SlotId)
  | drainComplete (p : PtnId)
  | drainTimeout (p : PtnId) (buffers : Nat)
  | partitionRoundBoundary (p : PtnId)
  | figCommit (fn : FnId) (p : PtnId)
  | attCommit (fn : FnId) (p : PtnId)
  | ctxCommit (fn : FnId) (c : CtxId)
  | ringCommit (fn : FnId) (r : RingId) (val : Word)
  | joinImbalance (p : PtnId) (core join : Nat)
  | streamFlit (p : PtnId) (port : FlitPort) (flit : Flit)
  | partitionBarrier (m : BarrierMsg)
  | planBind (fn : FnId) (p : PtnId) (slot : SlotId)
  | planUnbind (fn : FnId) (p : PtnId) (slot : SlotId)
  | planBindDone (p : PtnId)
  | mapBind (fn : FnId) (p : PtnId) (slot : SlotId)
  | mapUnbind (fn : FnId) (p : PtnId) (slot : SlotId)
  | mapBindDone (p : PtnId)
  | adapterSet (e : Entry)
  | adapterClear (e : Entry)
  | steerSet (e : Entry)
  | steerClear (e : Entry)
  | gatherDone (p : PtnId) (set : Nat) (what : GatherKind)
  | fetchDeadline (p : PtnId) (obj : ObjId) (what : FetchKind)
  | recompute (e : Entry)
  | recomputeChunkDone (p : PtnId)
  | kvRelease (e : Entry)
  | objSet (e : Entry)
  | objClear (e : Entry)
  | objClearDone (p : PtnId) (obj : ObjId)
  | objQuery (e : Entry)
  | migrate (e : Entry)
  | migratePageDone (p : PtnId) (obj : ObjId) (page : Nat)
  | evict (e : Entry)
  | intake (e : Entry)
  | intakeShardDone (p : PtnId) (obj : ObjId) (shard : Nat) (data : List DmaLine)
  | verify (e : Entry)
  | verifyShardDone (p : PtnId) (obj : ObjId) (shard : Nat)
  | scrubPassStart
  | scrubShardDone (p : PtnId) (obj : ObjId) (shard : Nat)
  | recheckShardDone (p : PtnId) (obj : ObjId) (shard : Nat)
  | eccError (tier : Tier) (phys : Nat) (line : Fin 1024) (uncorrectable : Bool)
  | bar4Read (fn : FnId) (addr len : Nat)
  | bar4Write (fn : FnId) (addr : Nat) (data : List Byte) (ep : Bool)
  | quotaWrite (fn : FnId) (p : PtnId) (t2 : Bool) (pages : Word)
  | poolWrite (fn : FnId) (p : PtnId) (reg : PoolReg) (val : Word)
  | reserveWrite (fn : FnId) (c : CtxId) (val : Word)
  | create (fn : FnId) (p : PtnId)
  | grow (fn : FnId) (p : PtnId)
  | shrink (fn : FnId) (p : PtnId)
  | destroy (fn : FnId) (p : PtnId)
  | bindVf (fn : FnId) (p : PtnId) (vf : Nat)
  | unbindVf (fn : FnId) (p : PtnId)
  | modPtnDone
  | enable (fn : FnId) (c : CtxId) (p : PtnId)
  | disable (fn : FnId) (c : CtxId)
  | reset (fn : FnId) (c : CtxId)
  | contextResetDone (c : CtxId)
  | doorbellWrite (fn : FnId) (span : BarSpan) (val : DWord)
  | nop (e : Entry)
  | fence (e : Entry)
  | reservedOpcode (e : Entry) (opcode : Byte)
  | figInstall (e : Entry)
  | figRemove (e : Entry)
  | figLoad (e : Entry)
  | figStart (e : Entry)
  | figDrain (e : Entry)
  | figSwitch (e : Entry)
  | figRun (e : Entry)
  | routeSet (e : Entry)
  | completionWrite (r : RingId)
  | sliceEnd (p : PtnId)
  | preemptStop (p : PtnId) (leftover : Option Nat)
  | saveDone (p : PtnId)
  | switchGapEnd (p : PtnId)
  | restoreDone (p : PtnId)
  | cmdTimeout (r : RingId) (index : Word) (engineClass : Fin 4)
  | ringDma (r : RingId) (index : Word) (intake : Bool) (fail : DmaFail)
  | batchOpen (e : Entry)
  | batchRun (e : Entry)
  | rowSet (e : Entry)
  | batchClose (e : Entry)
  | batchStepBoundary (p : PtnId)
  | pendingRecordWrite (r : RingId)
  | maskSet (e : Entry)
  | maskClear (e : Entry)
  | portEnable (fn : FnId) (n : PortId) (on : Bool)
  | retrain (fn : FnId) (n : PortId)
  | signalDetect (n : PortId)
  | equaliseDone (n : PortId) (reversed : Bool)
  | equaliseTimeout (n : PortId)
  | alignDone (n : PortId)
  | alignTimeout (n : PortId)
  | exchangeDone (n : PortId) (peerCoord peerPort : Nat) (peerValid : Bool) (peerBuffers : List Nat)
  | signalLoss (n : PortId)
  | retrainDone (n : PortId)
  | retrainTimeout (n : PortId)
  | frameReceive (n : PortId) (bytes : List Byte)
  | replayTimeout (n : PortId)
  | leavingPacket (n : PortId)
  | lostNotice (n : PortId) (coord : Nat)
  | returnNotice (n : PortId) (coord : Nat)
  | channelPacket (n : PortId) (pk : Packet)
  | channelCredit (n : PortId) (from_ : ChanEnd) (credits : Nat)
  | exchangeStep (p : PtnId) (x : Fin 16)
  | score (u : XUnit)
  | end_ (u : XUnit)
  | grant (u : XUnit)
  | grantEnd (u : XUnit)
  | act (u : XUnit)
  | answer (u : XUnit)
  | cancel (u : XUnit)
  | void (u : XUnit)
  | evcPendSet (fn : FnId) (k : Fin 128) (val : Word)
  | evcPendClr (fn : FnId) (k : Fin 128) (val : Word)
  | evcMaskSet (fn : FnId) (k : Fin 128) (val : Word)
  | evcMaskClr (fn : FnId) (k : Fin 128) (val : Word)
  | evcSrcCfg (fn : FnId) (n : SrcId) (val : Word)
  | evcSrcDest (fn : FnId) (n : SrcId) (val : Word)
  | evcVfVectors (fn : FnId) (v : Fin 32) (val : Word)
  | filterExpiry (n : SrcId) (level : Bool)
  | eventDelivery (target : Fin 16)
  | wfiWake (target : Fin 16)
  | handlerReturn (target : Fin 16)
  | moderationGapEnd (target : Fin 16)
  | holdIntervalEnd (e : Fin 4096)
  | setCap (capW : Nat)
  | budgetRecompute (m : Measure)
  | clampStart (q : QtrId)
  | clampEnd (q : QtrId) (gated : Nat)
  | brake
  | brakeRelease
  | brakeReturn
  | sensorSample (sensor : Sensor) (temp : Nat)
  | thermalRowLeave (p : PtnId)
  | neighbourStep (q1 q2 : QtrId)
  | neighbourStepLift (p : PtnId)
  | thermalTrip (sensor temp : Nat)
  | coolantSample (inlet outlet : Nat)
  | coolantLift
  | railFault (rail amps : Nat)
  | breakerOpen (amps : Nat)
  | pllUnlock (d : DieId)
  | pllLost (d : DieId)
  | moduleReset (fn : FnId)
  | moduleResetDone
  | snapshot (fn : FnId)
  | snapRelease (fn : FnId)
  | engineReset (fn : FnId) (engine : Nat) (d : DieId) (p : PtnId)
  | engineResetDone (e : EngineSel) (r : SelfTestResult)
  | partitionReset (fn : FnId) (p : PtnId)
  | partitionResetDone (p : PtnId)
  | policyWrite (fn : FnId) (group number : Nat) (val : Word)
  | resetTimeout (sc : ResetScope)
  | dieWatchdog (d : DieId) (missed : Nat)
  | callerWdogWarn
  | callerRestart (pc : Word)
  | qsSample (p : PtnId)
  | mirrorStart (p : PtnId)
  | mirrorDone (p : PtnId) (rounds : List MirrorRound)
  | mirrorTimeout (p : PtnId)
  | presenceLost
  | getTelemetry (inst : Nat)
  | getLog (inst first count : Nat)
  | getSnapshot (inst offset len : Nat)
  | mctpSnapRelease (inst : Nat)
  | fwTransfer (inst offset : Nat) (data : List Byte)
  | fwCommit (inst size : Nat)
  | getNonce (inst : Nat)
  | keyProvision (inst : Nat) (m : KeyMsg)
  | keyRevoke (inst : Nat) (m : KeyMsg)
  | vendorDisable (inst : Nat) (m : KeyMsg)
  | setCoord (inst coord : Nat)
  | getMeasurements (t : Transport) (indices : List Nat)
  | spdmRequest (t : Transport) (r : SpdmReq)
  | setEndpointId (eid : Byte)
  | setdasa (static_ dyn : Nat)
  | entdaa (dyn : Nat)
  | rstdaa
  | fwInfo
  | repairMap
  | flr (vf : FnId)
  | linkLoss (cause : LinkCause)
  | linkUp
  | busMasterEnable (fn : FnId)
  | configurationWrite (fn : FnId) (ch : CfgChange)
  | pllRelock (d : DieId)
  | alwaysOnLoss
  | voltageReached (q : QtrId)
  | coreMemUe (p : PtnId) (core addr : Nat)
  | engineError (e : EngineSel) (queueEntry : Nat)
  deriving DecidableEq, Repr

end Sys2Proof
end

