-- ==== Sys2Proof/Decode.lean ====
section
/-! DEFINITION. spec/opcode_table.json gives none of its rows any bits (every row's fields are empty): the block takes
events, not encoded instructions, so no word spells a command. -/
namespace Sys2Proof

/-- The command that a word spells by the table's bits: none, for the table gives no row bits. -/
def decodeTableWord (_nbits _w : Nat) : Option Instr := none

end Sys2Proof
end

