-- ==== Sys2Proof/Machine/Bits.lean ====
section
/-! DEFINITION. Bit fields, little-endian bytes and saturating counters: the helpers every register view, record and
descriptor is read and written with (00 R5, R6). A word is a `Nat` below 2^32 where it is only taken apart. -/
namespace Sys2Proof.Machine

/-- Bits [lo + w - 1 : lo] of a number. -/
def bits (n lo w : Nat) : Nat := n / 2 ^ lo % 2 ^ w

/-- Bit `i` of a number. -/
def bit (n i : Nat) : Bool := n / 2 ^ i % 2 == 1

/-- A flag as a one-bit field. -/
def b2n (b : Bool) : Nat := if b then 1 else 0

/-- A word from its fields (low bit, width, value); each value is cut to its width. -/
def pack : List (Nat × Nat × Nat) → Nat
  | [] => 0
  | (lo, w, v) :: rest => v % 2 ^ w * 2 ^ lo + pack rest

/-- A number cut to 32 bits. -/
def w32 (n : Nat) : Nat := n % 2 ^ 32

/-- Two words as a 64-bit number, the low half first (00 R6). -/
def pair (lo hi : Nat) : Nat := w32 lo + 2 ^ 32 * w32 hi

/-- The value of little-endian bytes (00 R5). -/
def leNat : List Byte → Nat
  | [] => 0
  | b :: bs => b.toNat + 256 * leNat bs

/-- `k` little-endian bytes of a number. -/
def leBytes : Nat → Nat → List Byte
  | 0, _ => []
  | k + 1, n => BitVec.ofNat 8 n :: leBytes k (n / 256)

/-- The value of big-endian bytes. -/
def beNat (bs : List Byte) : Nat := bs.foldl (fun a b => a * 256 + b.toNat) 0

/-- `k` big-endian bytes of a number. -/
def beBytes (k n : Nat) : List Byte := (leBytes k n).reverse

/-- The bytes of a list of 32-bit words (00 R5). -/
def wordsBytes (ws : List Nat) : List Byte := ws.flatMap (leBytes 4)

/-- Word `n` of a byte list; absent bytes read 0. -/
def wordAt (bs : List Byte) (n : Nat) : Nat := leNat ((bs.drop (4 * n)).take 4)

/-- The 64-bit value of words `n` and `n + 1`. -/
def dwordAt (bs : List Byte) (n : Nat) : Nat := leNat ((bs.drop (4 * n)).take 8)

/-- `n` bytes from offset `o`, padded with zeros to `n`. -/
def slice (bs : List Byte) (o n : Nat) : List Byte :=
  let t := (bs.drop o).take n
  t ++ List.replicate (n - t.length) 0

/-- Bytes cut or padded with zeros to a length. -/
def padTo (n : Nat) (bs : List Byte) : List Byte := slice bs 0 n

/-- All bytes are 0. -/
def allZero (bs : List Byte) : Bool := bs.all (· == 0)

/-- The least multiple of `a` at or above `n`. -/
def alignUp (n a : Nat) : Nat := (n + a - 1) / a * a

/-- Quotient rounded up. -/
def ceilDiv (n d : Nat) : Nat := (n + d - 1) / d

/-- A counter of `w` bits that saturates. -/
def satAdd (w n k : Nat) : Nat := min (n + k) (2 ^ w - 1)

/-- Set bits of a mask below `n`, ascending. -/
def maskBits (m n : Nat) : List Nat := (List.range n).filter (bit m)

/-- The mask of a list of bit numbers. -/
def bitsMask (l : List Nat) : Nat := l.foldl (fun m i => if bit m i then m else m + 2 ^ i) 0

/-- The mask `m` with bit `i` set. -/
def setBit (m i : Nat) : Nat := if bit m i then m else m + 2 ^ i

/-- The mask `m` with bit `i` clear. -/
def clrBit (m i : Nat) : Nat := if bit m i then m - 2 ^ i else m

/-- A `w`-bit two's-complement field as an integer. -/
def sext (w n : Nat) : Int := if bit n (w - 1) then (n % 2 ^ w : Nat) - (2 : Int) ^ w else (n % 2 ^ w : Nat)

/-- An integer as a `w`-bit two's-complement field. -/
def toField (w : Nat) (i : Int) : Nat := (i % (2 : Int) ^ w).toNat

/-- The text's bytes in ASCII. -/
def ascii (s : String) : List Byte := s.toList.map fun c => BitVec.ofNat 8 c.toNat

/-- The elements of a list in pieces of `k`. -/
def chunks {α : Type} (k : Nat) : Nat → List α → List (List α)
  | 0, _ => []
  | n + 1, l => l.take k :: chunks k n (l.drop k)

/-- The number a ring index difference stands for, modulo 2^32 (08 R241). -/
def diff32 (a b : Nat) : Nat := (a + 2 ^ 32 - b % 2 ^ 32) % 2 ^ 32

end Sys2Proof.Machine
end

