-- ==== Sys2Proof/Config.lean ====
section
/-! DEFINITION. What one part's silicon and fuses fix, and the free values: constants without a body, so that no
proof can see their values (logs 1, 4, 6, 14). -/
namespace Sys2Proof.Config

/-- Free 32-bit values: the `n`-th value drawn (log 1). -/
opaque freeValue : Nat → Word
/-- Free choice among `n` candidates at the `k`-th draw, read modulo `n` (07 R204: the choice of a free page; log 1). -/
opaque freeChoice : Nat → Nat → Nat
/-- The ordering code: TOM9-6T or TOM9-3T (00 R1, 01 R39). -/
opaque is6T : Bool
/-- Silicon stepping, from fuses (01 R39). -/
opaque stepping : Nat
/-- Physical cores of a set that the fuse map records as failed (01 R31; at most four are read). -/
opaque fusedCores : Nat → List Nat
/-- Dot units (physical core × 8 + unit) of a set whose spare lane a fuse has used (01 R31). -/
opaque fusedLanes : Nat → List Nat
/-- Burwidra's public key VENDOR_KEY (14 R409). -/
opaque vendorKeyX : Nat
opaque vendorKeyY : Nat
/-- The unique device secret (14 R409). -/
opaque uds : List Byte
/-- HKDF's salt and the labels of the two keys (14 R412; log 5). -/
opaque hkdfSalt : List Byte
opaque deviceLabel : List Byte
opaque aliasLabel : List Byte
/-- The boot ROM's digest, measurement 0x01 (14 R413). -/
opaque bootRomDigest : List Byte
/-- The certificate store's chain, root and DeviceID, whose last certificate holds a DeviceID public key (14 R404, R412; log 5). -/
opaque certStore : List Byte → List Byte
/-- What the DeviceID key signs of the alias certificate that names a public key and a measurement, the certificate of those bytes with
a signature, and the number that the signature draws (14 R412; log 5). -/
opaque aliasTbs : List Byte → List Byte → List Byte
opaque certOf : List Byte → List Byte → List Byte
opaque certNonce : List Byte → Nat
/-- Errors of the rotary encoding's cosine and sine for (position, pair index, D, ROPE_BASE), free within the manual's bound (06 R180;
log 14). -/
opaque ropeCosErr : Nat → Nat → Nat → Word → Nat
opaque ropeSinErr : Nat → Nat → Nat → Word → Nat
/-- The cosine and sine themselves, where ROPE_BASE is not a positive number and gives no angle (06 R180; log 14). -/
opaque ropeCos : Nat → Nat → Nat → Word → Word
opaque ropeSin : Nat → Nat → Nat → Word → Word
/-- The 16 parity bytes of a frame's first 528, and a frame's data as its code may correct them (10 R299; log 28). -/
opaque frameParity : List Byte → List Byte
opaque frameFix : List Byte → Option (List Byte)
/-- What the frame's CRC-24 starts from (10 R299; log 28). -/
opaque crc24Init : Nat
/-- Which half of FAB_PORT_ERR counts a discarded packet: the lower (10 R302; log 28). -/
opaque discardsLow : Bool
/-- The 32-byte digest of the transcript that the `n`-th signed response ends with some contents, and the number that its signature
draws (14 R414, R415; log 5). -/
opaque spdmDigest : Nat → List Byte → List Byte
opaque signNonce : Nat → Nat
/-- Program counters of the die controllers at the `n`-th look (11 R353). -/
opaque dieProgramCounter : Nat → Word

end Sys2Proof.Config
end

