-- ==== Sys2Proof/Machine/State.lean ====
section
/-! DEFINITION. The whole state of the module as plain data, its reset, and the reasons a step could stop.
A structure's field defaults are its reset values; `{}` is the reset of each unit. -/
namespace Sys2Proof.Machine

/-- A set of numbers, strictly rising. -/
abbrev NSet := List Nat

/-- Sparse byte memory: addresses strictly rising, no entry equal to 0, which is what an unlisted address reads as. -/
abbrev Memory := List Host.Cell

/-- No command of this module ends in a fault: the manual's faults are records and actions (11 R329, R332), which are
effects on State. The type is closed and has no constructor. -/
inductive Fault where
  deriving DecidableEq, Repr

/-- Reasons for a refusal. -/
inductive Refusal where
  /-- Raised by an arm of `exec` whose command has no meaning yet; safe (the machine stops). No arm raises it now. -/
  | notModelled (mnemonic : String)
  deriving DecidableEq, Repr

/-! ### Functions and the host link -/

/-- One MSI-X table entry (15 R433). -/
structure MsixEntry where
  addr   : Nat := 0
  data   : Nat := 0
  masked : Bool := true
  deriving DecidableEq, Repr

/-- What a function's AER registers have logged (15 R434): Poisoned TLP Received, Unsupported Request, Completer Abort and
Completion Timeout. -/
structure Aer where
  poisoned : Bool := false
  ur       : Bool := false
  ca       : Bool := false
  timeout  : Bool := false
  deriving DecidableEq, Repr

/-- One PCI Express function: MOD_ERR (00 R13), the MOD_TIME_HI holding register (01 R444), and the configuration-space
bits that the module heeds or sets (12 R370, 15 R434, R436, R449). -/
structure Fn where
  cfgWrIgnored : Bool := false
  accessSize   : Bool := false
  unmapped     : Bool := false
  timeHi       : Nat := 0
  bme          : Bool := false
  msixEnable   : Bool := false
  fnMask       : Bool := false
  memSpace     : Bool := false
  aer          : Aer := {}
  msix         : Tbl MsixEntry := []
  pba          : NSet := []
  deriving DecidableEq, Repr

/-! ### Start-up, keys, management -/

/-- MOD_BOOT.STAGE (14 R422). -/
inductive Stage where
  | rom | verify | recoveryWait | standby | powerUp | repair | training | init | ready | failed | resetting
  deriving DecidableEq, Repr

/-- Boot state and firmware (14 R400-R408, R422). -/
structure Boot where
  aon        : Bool := false
  stage      : Stage := .rom
  failCode   : Nat := 0
  recovered  : Bool := false
  keySlot    : Nat := 0
  version    : Nat := 0
  imgSvn     : Nat := 0
  raiseSvn   : Bool := false
  imgDigest  : List Byte := []
  flash      : Memory := []
  flashSize  : Nat := 0
  sram       : Memory := []
  sramSize   : Nat := 0
  upload     : Memory := []
  flashBusy  : Bool := false
  slotId     : Nat := 15
  deriving DecidableEq, Repr

/-- The key fuses (14 R409) as bit masks of owner slots 1-4 (bit k-1), and the owner keys. -/
structure Fuses where
  vendorOff   : Bool := false
  provisioned : Nat := 0
  revoked     : Nat := 0
  svn         : Nat := 0
  ownerX      : Tbl Nat := []
  ownerY      : Tbl Nat := []
  deriving DecidableEq, Repr

/-- The firmware mailbox (14 R421). -/
structure Mbox where
  req  : Tbl Nat := []
  rsp  : Tbl Nat := []
  busy : Bool := false
  code : Nat := 0
  op   : Nat := 0
  deriving DecidableEq, Repr

/-- Management-bus state: MCTP endpoint, I3C address, nonce, measurements, the measurement from which the alias key derives, SPDM
connections (14 R411-R414; 15 R429, R430). -/
structure Mgmt where
  eid       : Option Nat := none
  dynAddr   : Option Nat := none
  nonce     : Option Nat := none
  meas      : Tbl (List Byte) := []
  aliasBase : List Byte := []
  spdmDoe   : Bool := false
  spdmMctp  : Bool := false
  deriving DecidableEq, Repr

/-! ### Physical units -/

/-- MOD_SET_REPAIR and the logical-to-physical core map of one set (01 R32, R42); an empty map is the identity. -/
structure SetRepair where
  fused    : Nat := 0
  soft     : Nat := 0
  lanes    : Nat := 0
  withheld : Bool := false
  valid    : Bool := false
  map      : List Nat := []
  deriving DecidableEq, Repr

/-- One quarter: its QTR_ and PWR_QTR registers, rail and junction sensors (02 R85, 13 R381-R399); `selfTest` while the
built-in self-test runs its C1 at ÷8 (01 R32). -/
structure Qtr where
  epoch       : Nat := 0
  ticket      : Nat := 0
  budget      : Nat := 2560
  nextBudget  : Option Nat := none
  stall       : Nat := 0
  syncWait    : Nat := 0
  joinEvents  : Nat := 0
  roundMax    : Nat := 0
  railOn      : Bool := false
  mv          : Nat := 540
  mvTarget    : Nat := 540
  temps       : Tbl Nat := []
  current     : Nat := 0
  clamping    : Bool := false
  clampCycles : Nat := 0
  selfTest    : Bool := false
  deriving DecidableEq, Repr

/-- One page copy or shard waiting on a mover, or a command that its home mover has yet to serve (07 R213, R451; 08 R250). -/
structure MoverItem where
  ctx  : Nat
  ptn  : Nat
  ring : Nat
  idx  : Nat
  obj  : Nat
  unit : Nat
  whole : Bool := false
  deriving DecidableEq, Repr

/-- One die: PLL, the C0 time from which its controller signals heartbeats, base-die sensors, its mover's queue with the page or shard in
progress first, and the partition and, per partition, the context last served (01 R29, R37; 08 R250; 11 R353-R355). -/
structure Die where
  pll         : Bool := false
  unlockAged  : Bool := false
  hbFrom      : Nat := 0
  temps       : Tbl Nat := []
  moverQ      : List MoverItem := []
  lastP       : Nat := 0
  lastC       : Tbl Nat := []
  deriving DecidableEq, Repr

/-! ### A decoded Calob image (02 R53-R63) -/

/-- A step descriptor (02 R58). -/
structure Step where
  runLen      : Nat := 1
  mode        : Nat := 0
  fmtW        : Nat := 0
  fmtX        : Nat := 0
  chain       : List Nat := []
  patA        : Nat := 0xFFFF
  patB        : Nat := 0xFFFF
  patW        : Nat := 0xFFFF
  patOut      : Nat := 0xFFFF
  streamFirst : Nat := 0
  streamCount : Nat := 0
  bow         : Bool := false
  layerEnd    : Bool := false
  adapter     : Bool := false
  attn        : Bool := false
  deriving DecidableEq, Repr

/-- An access pattern (02 R59). -/
structure Pattern where
  base     : Nat := 0
  space    : Nat := 0
  loops    : Nat := 1
  bufLines : Nat := 1
  counts   : List Nat := []
  strides  : List Int := []
  deriving DecidableEq, Repr

/-- A stream entry (02 R60). -/
structure Stream where
  dstCore     : Nat := 0
  dstStep     : Nat := 0
  dstInput    : Nat := 0
  dstEndpoint : Bool := false
  flits       : Nat := 1
  joinId      : Nat := 0xFFFF
  endpoint    : Nat := 0
  route       : Nat := 0
  tree        : Nat := 0
  deriving DecidableEq, Repr

/-- A join entry (02 R62). -/
structure Join where
  id    : Nat
  slack : Nat
  core  : Nat
  step  : Nat
  latA  : Nat
  latB  : Nat
  deriving DecidableEq, Repr

/-- A curve table (04 R133): FP32 values as their bits. -/
structure Curve where
  mode    : Nat
  outside : Nat
  scaleS  : Int
  lo      : Word
  hi      : Word
  outLo   : Word
  outHi   : Word
  atZero  : Word
  coef    : List Word
  deriving DecidableEq, Repr

/-- A CODEBOOK SELECT entry (03 R98). -/
structure CbSelect where
  core       : Nat
  step       : Nat
  base       : Nat
  unitStride : Nat
  loop       : Nat
  loopStride : Nat
  deriving DecidableEq, Repr

/-- A bow point and its ranges (08 R254). -/
structure BowPoint where
  position : Nat
  first    : Nat
  count    : Nat
  deriving DecidableEq, Repr

/-- A BOW range (08 R254). -/
structure BowRange where
  core  : Nat
  kind  : Nat
  start : Nat
  len   : Nat
  deriving DecidableEq, Repr

/-- The REPORT section (11 R348). -/
structure Report where
  mirrorDiv : Nat
  rounds    : Nat
  quarters  : List (Nat × Nat × Nat)
  samples   : List (Nat × Nat × Nat × Nat)
  deriving DecidableEq, Repr

/-- A loaded or installed image, decoded. LOAD entries are (core, position, first, count); PRELOAD entries (core, line,
first, count); the directory holds (step count, index of step 0). -/
structure Figure where
  origin4    : Bool := false
  mirrorTest : Bool := false
  quarters   : Nat := 1
  roundLen   : Nat := 1
  divFastest : Nat := 0
  width      : Nat := 1
  height     : Nat := 1
  dir        : List (Nat × Nat) := []
  steps      : List Step := []
  patterns   : List Pattern := []
  streams    : List Stream := []
  tickets    : List (List Nat) := []
  joins      : List Join := []
  curves     : List Curve := []
  curveLoads : List (Nat × Nat × Nat) := []
  preloads   : List (Nat × Nat × Nat × Nat) := []
  ocData     : List Word := []
  books      : List (List Byte) := []
  bookLoads  : List (Nat × Nat × Nat × Nat) := []
  selects    : List CbSelect := []
  bowPoints  : List BowPoint := []
  bowRanges  : List BowRange := []
  saveLines  : Nat := 0
  report     : Option Report := none
  keySlot    : Nat := 0
  digest     : List Byte := []
  deriving DecidableEq, Repr

/-- Column and share ranges of an adapter plan's piece (05 R149). -/
structure ShareRange where
  access : Nat
  count  : Nat
  slice  : Nat
  deriving DecidableEq, Repr

structure ColRange where
  handoff  : Nat
  firstCol : Nat
  count    : Nat
  proj     : Nat
  projCol  : Nat
  deriving DecidableEq, Repr

/-- A piece of an adapter plan (05 R149). -/
structure Piece where
  set        : Nat
  step       : Nat
  group      : Nat
  shares     : List ShareRange
  cols       : List ColRange
  offset     : Nat
  steerLayer : Nat
  deriving DecidableEq, Repr

/-- A column group (05 R149). -/
structure ColGroup where
  kSlices  : Nat
  projMask : Nat
  members  : List Nat
  deriving DecidableEq, Repr

/-- A bound adapter plan (05 R149). -/
structure Plan where
  tag       : Nat
  maxRank   : Nat
  projs     : Nat
  pieces    : List Piece
  groups    : List ColGroup
  bodyUnits : Nat
  addr      : Nat
  size      : Nat
  deriving DecidableEq, Repr

/-- An attention-map entry (06 R178). -/
structure MapEntry where
  set       : Nat
  step      : Nat
  rows      : Nat
  slotFirst : Nat
  slotCount : Nat
  deriving DecidableEq, Repr

/-- A bound attention map (06 R178). -/
structure AttMap where
  layers    : Nat
  kvHeads   : Nat
  d         : Nat
  g         : Nat
  qpos      : Nat
  kvFmt     : Nat
  qFmt      : Nat
  outFmt    : Nat
  scaleLog2 : Word
  kInv      : Word
  vInv      : Word
  vScale    : Word
  ropeBase  : Word
  window    : Nat
  entries   : List MapEntry
  addr      : Nat
  size      : Nat
  deriving DecidableEq, Repr

/-! ### Figure execution -/

/-- A 64 B core-store line: data (empty: zeros), poison, and the context tag (`none`: the loader's) (04 R138, R139). -/
structure CoreLine where
  data   : List Byte := []
  poison : Bool := false
  tag    : Option Nat := none
  deriving DecidableEq, Repr

/-- An operand-cache word (04 R130-R132). -/
structure OcWord where
  val    : Word := 0
  poison : Bool := false
  tag    : Option Nat := none
  deriving DecidableEq, Repr

/-- The dynamic state of one figure core (01 R16): local memories, its stream buffers by pattern (02 R59) — on a lead core also
the attention pipe's ATT_Q and ATT_KV queues, at 65,536 and 65,544 + step (06 R174) — and the step of its current round, with the
flits that this step has taken at inputs 0 and 1; `fired` once the step has computed and only its output is left to drain (02 R50). -/
structure Core where
  store  : Tbl CoreLine := []
  oc     : Tbl OcWord := []
  curves : Tbl Nat := []
  books  : Tbl (List Byte) := []
  bufs   : Tbl (List Flit) := []
  step   : Nat := 0
  taken  : Tbl (List Flit) := []
  fired  : Bool := false
  deriving DecidableEq, Repr

/-- Flits of a partition between their source and their stream buffer (01 R24; 02 R50). Keys are stream × 131,072 + place: the
producing core, or 131,071 for an endpoint, in `outq` (produced, held back by the crossing) and `xOut` (the producing set's
crossing); 128 × set in `xIn` (the consuming set's crossing). `moved` counts, by stream, the flits of the round that an endpoint
has issued or taken. -/
structure Flow where
  outq  : Tbl (List Flit) := []
  xOut  : Tbl (List Flit) := []
  xIn   : Tbl (List Flit) := []
  moved : Tbl Nat := []
  deriving DecidableEq, Repr

/-- A partner unit's adapter cache and steering region (05 R160, R167): pieces held as (adapter, piece, rank), least recently
used first, vectors as (steering id, layer); `shadowed` and `shadowVec` name the pieces and vectors whose gather took the shadow, with the
bytes that had come from the body or set before (07 R222); `seg` is the segment that the unit works on, and `begun` holds the steps of the round for which the
set's gathers have begun. -/
structure Partner where
  pieces   : List (Nat × Nat × Nat) := []
  vectors  : List (Nat × Nat) := []
  shadowed : List (Nat × Nat × Nat) := []
  shadowVec : List (Nat × Nat × Nat) := []
  seg      : Nat := 0
  begun    : NSet := []
  deriving DecidableEq, Repr

/-- A port-table entry (07 R219). -/
structure PortEnt where
  base    : Nat
  advance : Nat
  wrap    : Nat
  deriving DecidableEq, Repr

/-- Figure slot state (02 R84). -/
inductive SlotState where
  | empty | verifying | valid | invalid
  deriving DecidableEq, Repr

/-- A figure slot and what INSTALL pinned in it (02 R64, R84). -/
structure Slot where
  st   : SlotState := .empty
  err  : Nat := 0
  addr : Nat := 0
  size : Nat := 0
  fig  : Option Figure := none
  deriving DecidableEq, Repr

/-- FIG_STATE.STATE (02 R78). -/
inductive FigSt where
  | empty | loading | ready | running | draining | faulted | mirror
  deriving DecidableEq, Repr

/-- The six figure operations (02 R77). -/
inductive FigOp where
  | install | remove | load | start | drain | switch
  deriving DecidableEq, Repr

/-- A figure command in progress: its operation, slot, the state to return to when a load check fails, and the ring
command that issued it (none: FIG_CMD). -/
structure FigCmd where
  op   : FigOp
  slot : Nat
  back : FigSt
  by_  : Option (Nat × Nat)
  deriving DecidableEq, Repr

/-- SH fields of the FIG_ block (02 R81). -/
structure FigSh where
  div   : Nat := 0
  watch : Nat := 0x0100
  deriving DecidableEq, Repr

/-- The loader's registers of one partition (02 R75-R84). -/
structure Fig where
  st         : FigSt := .empty
  cmd        : Option FigCmd := none
  slot       : Nat := 0
  epoch      : Nat := 0
  errCode    : Nat := 0
  errSlot    : Nat := 0
  errInfo    : Nat := 0
  sh         : FigSh := {}
  staged     : Option FigSh := none
  cur        : FigSh := {}
  drainLimit : Nat := 1000
  chainEpoch : Nat := 0
  useChain   : Bool := false
  epochDrops : Nat := 0
  rounds     : Nat := 0
  roundsHi   : Nat := 0
  instAddr   : Nat := 0
  instSize   : Nat := 0
  slots      : Tbl Slot := []
  deriving DecidableEq, Repr

/-- A BIND (`bind`) or UNBIND in progress (05 R148; 06 R177): its slot, the address and size that its registers held when it was
written, and whether the command or that address met a STATE condition then (05 R151). -/
structure Binding where
  slot    : Nat
  bind    : Bool
  addr    : Nat
  size    : Nat
  refused : Bool
  deriving DecidableEq, Repr

/-- The PTN_ block of one partition (05 R172): bound plans by slot, and the BIND or UNBIND in progress. -/
structure Ptnu where
  addr       : Nat := 0
  size       : Nat := 0
  code       : Nat := 0
  info       : Nat := 0
  binding    : Option Binding := none
  plans      : Tbl (Option Plan) := []
  stall      : Nat := 0
  remote     : Nat := 0
  fbRows     : Nat := 0
  hot        : Nat := 0
  deriving DecidableEq, Repr

/-- The ATT_ block of one partition (06 R201): pool, map, and the sequences that hold pages as (context, page table). -/
structure Att where
  poolBase    : Nat := 0
  poolPages   : Nat := 0
  poolUsed    : NSet := []
  poolBad     : Bool := false
  poolBusy    : Bool := false
  resRefused  : Bool := false
  pending     : Bool := false
  drops       : Nat := 0
  mapAddr     : Nat := 0
  mapSize     : Nat := 0
  code        : Nat := 0
  info        : Nat := 0
  binding     : Option Binding := none
  maps        : Tbl (Option AttMap) := []
  seqs        : List (Nat × Nat) := []
  deriving DecidableEq, Repr

/-- Object-entry state (07 R205). -/
inductive ObjSt where
  | free | valid | clearing
  deriving DecidableEq, Repr

/-- Shard state (07 R224). -/
inductive ShardSt where
  | pending | verified | failed
  deriving DecidableEq, Repr

/-- One shard of a digest manifest (07 R223). -/
structure Shard where
  first  : Nat
  pages  : Nat
  digest : List Byte
  st     : ShardSt
  deriving DecidableEq, Repr

/-- An object-table entry (07 R205); `recheck` marks a retained object that returned and is being rechecked (07 R230). -/
structure Obj where
  st         : ObjSt := .free
  home       : Nat := 0
  pin        : Bool := false
  shared     : Bool := false
  readOnly   : Bool := false
  copyUp     : Bool := false
  placeMode  : Nat := 0
  place      : Nat := 0
  ctx        : Nat := 0
  fbKind     : Nat := 0
  fbDeadline : Nat := 0
  base       : Nat := 0
  pages      : Nat := 0
  fbShadow   : Nat := 0
  manifest   : Nat := 0
  lastUse    : Nat := 0
  shards     : List Shard := []
  recheck    : Bool := false
  deriving DecidableEq, Repr

/-- A page-map entry (07 R210); `transit` names the target tier of a MOVE in progress. -/
structure PageEnt where
  t0      : Option Nat := none
  t0Repl  : Bool := false
  zero    : Bool := true
  transit : Option Nat := none
  t1      : Option Nat := none
  t2      : Option Nat := none
  deriving DecidableEq, Repr

/-- The MEM_ block, object table and page map of one partition (07 R205, R210, R232). Pages are keyed by
object id × 2^26 + page index. `unver` lists (command ring, index, object, shard) already reported under R225. -/
structure PMem where
  t1Quota     : Nat := 0
  t2Quota     : Nat := 0
  bar4Ro      : Bool := false
  bar4Unmapped : Bool := false
  bar4Poison  : Bool := false
  quotaRefused : Bool := false
  evictions   : Nat := 0
  fbShadow    : Nat := 0
  fbRecompute : Nat := 0
  fbSkipDraft : Nat := 0
  fbNoAdapter : Nat := 0
  barrierWait : Nat := 0
  digestFail  : Nat := 0
  objs        : Tbl Obj := []
  pages       : Tbl PageEnt := []
  unver       : List (Nat × Nat × Nat × Nat) := []
  deriving DecidableEq, Repr

/-! ### Fault records -/

/-- A fault record (11 R330). -/
structure FaultRec where
  code      : Nat := 0
  action    : Nat := 0
  escalated : Bool := false
  scope     : Nat := 0
  count     : Nat := 0
  seq       : Nat := 0
  ctx       : Option Nat := none
  ptn       : Option Nat := none
  qtr       : Option Nat := none
  die       : Option Nat := none
  ring      : Option Nat := none
  row       : Option Nat := none
  engine    : Nat := 0
  index     : Nat := 0
  detail    : Nat := 0
  time      : Nat := 0
  deriving DecidableEq, Repr

/-- FLT_QS_WATCH (11 R360). -/
structure QsWatch where
  core    : Nat := 0
  pattern : Nat := 0
  valid   : Bool := false
  deriving DecidableEq, Repr

/-- The FLT_ registers of a partition that PF writes change at a round boundary (11 R360). -/
structure FltSh where
  mirrorSlot  : Nat := 0
  mirrorNamed : Bool := false
  qsObj       : Nat := 0
  watch       : Tbl QsWatch := []
  deriving DecidableEq, Repr

/-- The FLT_ block and log of one partition (11 R331, R360); newest record first. -/
structure PFlt where
  slotRejected : Bool := false
  snapFull     : Bool := false
  qsStopped    : Bool := false
  mirrorWait   : Bool := false
  log          : List FaultRec := []
  seq          : Nat := 0
  cur          : FltSh := {}
  staged       : Option FltSh := none
  snapObj      : Nat := 0
  snapNamed    : Bool := false
  qsEnable     : Bool := false
  qsPeriod     : Nat := 0x0100
  qsIndex      : Nat := 0
  qsNext       : Nat := 0
  deriving DecidableEq, Repr

/-! ### Commands, batches, the figure engine -/

/-- How far a started command has come (08 R244, R250, R255). -/
inductive Phase where
  | queued | running | waiting | saved | done
  deriving DecidableEq, Repr

/-- A started ring command without a written completion (08 R244, R247). `todo` holds the pages or shards it still has
to do; `progress` the units completed. -/
structure Cmd where
  ring     : Nat
  idx      : Nat
  ctx      : Nat
  ptn      : Nat
  opcode   : Nat
  tag      : Nat
  notify   : Bool
  ops      : List Word
  phase    : Phase := .queued
  status   : Nat := 0
  detail   : Nat := 0
  result   : Nat := 0
  info     : Nat := 0
  progress : Nat := 0
  failed   : Nat := 0
  todo     : List Nat := []
  gone     : Bool := false
  deriving DecidableEq, Repr

/-- A RESET completion waiting for ring space or a doorbell (11 R345). -/
structure ResetComp where
  level  : Nat
  cause  : Nat
  count  : Nat
  first  : Nat
  needDb : Bool
  deriving DecidableEq, Repr

/-- A token record (09 R289) without PHASE and TIME, which its write adds. -/
structure TokRec where
  request : Nat
  seq     : Nat
  type    : Nat
  flags   : Nat
  batch   : Nat
  row     : Nat
  value   : Nat
  pos     : Nat
  detail  : Nat
  needDb  : Bool := false
  deriving DecidableEq, Repr

/-- A row's state (09 R265). -/
inductive RowSt where
  | empty | active | sitting | dead
  deriving DecidableEq, Repr

/-- A row descriptor (09 R268). -/
structure RowDesc where
  request   : Nat := 0
  ring      : Nat := 0
  adapter   : Nat := 0
  steer     : Nat := 0
  mask      : Nat := 0
  aNone     : Bool := true
  sNone     : Bool := true
  mNone     : Bool := true
  empty     : Bool := true
  maskState : Nat := 0
  invTemp   : Word := 0
  topP      : Word := 0
  topK      : Nat := 0
  draft     : Nat := 0
  retire    : Nat := 0
  seed      : Nat := 0
  deadline  : Nat := 0
  pageTable : Nat := 0
  maxNew    : Nat := 0
  seqStart  : Nat := 0
  deriving DecidableEq, Repr

/-- A batch row (09 R265, R279, R284, R288, R291); `sat` while it sits out for its pages, `parked` for lack of
ring space. -/
structure BRow where
  st        : RowSt := .empty
  desc      : RowDesc := {}
  maskState : Nat := 0
  zeroSteps : Nat := 0
  retired   : Bool := false
  seq       : Nat := 0
  finished  : Bool := true
  emitted   : Nat := 0
  missNoted : Bool := false
  exhNoted  : Bool := false
  parked    : Bool := false
  sat       : Bool := false
  deriving DecidableEq, Repr

/-- A vocabulary-map entry (09 R267). -/
structure VMap where
  core  : Nat
  step  : Nat
  pass  : Nat
  first : Nat
  count : Nat
  deriving DecidableEq, Repr

/-- A batch descriptor's header (09 R267). -/
structure BDesc where
  rows     : Nat := 1
  perRound : Nat := 1
  vocab    : Nat := 1
  bf16     : Bool := false
  maxDraft : Nat := 0
  samplers : Nat := 1
  vmap     : List VMap := []
  stop     : List Nat := []
  deriving DecidableEq, Repr

/-- A segment entry (05 R154); `none` is A_NONE or S_NONE. -/
structure Segment where
  first   : Nat
  count   : Nat
  adapter : Option Nat
  aFault  : Bool
  steer   : Option Nat
  sFault  : Bool
  aNext   : Nat
  sNext   : Nat
  deriving DecidableEq, Repr

/-- A flit that reached a sampler: tags, bytes, poison, producing core and step (09 R272). -/
structure LogitFlit where
  row    : Nat
  pass   : Nat
  pos    : Nat
  core   : Nat
  step   : Nat
  data   : List Byte
  poison : Bool
  deriving DecidableEq, Repr

/-- A drawn draft token with the list that drew it (09 R281, R282): (token, weight bits) and the sum. -/
structure DraftTok where
  token  : Nat
  list   : List (Nat × Word)
  sum    : Word
  poison : Bool
  none_  : Bool
  deriving DecidableEq, Repr

/-- A batch step in progress (09 R264): passes counted 1 … MAX_DRAFT then 0 for verify; `skips` holds the (group, row) pairs
without an adapter term under R163, `late` the (row, slot, block) triples under 07 R222 kind 2. -/
structure BStep where
  passNo   : Nat := 0
  round    : Nat := 0
  computed : Bool := false
  drafts   : Tbl (List DraftTok) := []
  logits   : List LogitFlit := []
  fallback : NSet := []
  skipDraft : Bool := false
  late     : List (Nat × Nat × Nat) := []
  skips    : List (Nat × Nat) := []
  deriving DecidableEq, Repr

/-- A batch number of a partition (09 R263): its generation outlives its closing. `closing` and `cancel` name the BATCH_CLOSE
that waits for a boundary or a bow point (08 R246). -/
structure Batch where
  open_    : Bool := false
  ctx      : Nat := 0
  gen      : Nat := 0
  desc     : BDesc := {}
  rows     : Tbl BRow := []
  segs     : List Segment := []
  ports    : List PortEnt := []
  rowSets  : List (Nat × Nat × List (Nat × RowDesc)) := []
  closing  : Option (Nat × Nat) := none
  cancel   : Option (Nat × Nat) := none
  step     : Option BStep := none
  deriving DecidableEq, Repr

/-- A fallback in force for the present round (07 R222), from the byte of the fetch on that had not come: a read port that reads its
shadows or delivers zeros, or a page of a row, slot and block that is read from its shadow. -/
inductive RoundFb where
  | portShadow (port from_ : Nat)
  | portZero (port from_ : Nat)
  | pageShadow (row slot block from_ : Nat)
  deriving DecidableEq, Repr

/-- Figure work (08 R250): the command, its target (rounds, steps), its port table (07 R219), the rounds it has run in the
present unit (`round`) and in all (`base`), its result so far (`done`: rounds, steps or positions), its batch, for RECOMPUTE the chunk in
progress as (first position, count) and the chunks completed (`units`), the fallbacks that the present round's fetches took, and the late (row, slot, block) triples of the chunk
(07 R222). -/
structure Running where
  ring   : Nat
  idx    : Nat
  ctx    : Nat
  opcode : Nat
  target : Nat
  ports  : List PortEnt
  round  : Nat
  base   : Nat
  done   : Nat
  batch  : Nat
  chunk  : Option (Nat × Nat)
  fb     : List RoundFb := []
  late   : List (Nat × Nat × Nat) := []
  units  : Nat := 0
  deriving DecidableEq, Repr

/-- What the module keeps of one core beside its lines in the save area: its step, and the context tags, epochs and row tags, which the
lines do not hold (08 R254, R255; log 62). -/
structure CoreSave where
  core  : Nat
  lines : List (Nat × CoreLine)
  oc    : List (Nat × OcWord)
  bufs  : List (Nat × List Flit)
  step  : Nat
  deriving DecidableEq, Repr

/-- A saved command (08 R255-R257); `area` is the save-area object that holds its live ranges, if it was stopped inside a round, with what
the round's endpoints had moved and the barriers it had completed. -/
structure Saved where
  run   : Running
  epoch : Nat
  point : Nat
  area  : Option Nat
  cores : List CoreSave
  moved : Tbl Nat := []
  barrier : Nat := 0
  deriving DecidableEq, Repr

/-- What the figure engine is doing between commands (08 R251, R255). -/
inductive FeMode where
  | idle | run | stopping (park : Bool) | saving (point : Nat) (park : Bool) | gap | restoring
  deriving DecidableEq, Repr

/-- One partition's figure engine (08 R250-R257): figure work waiting, saved commands, the running
command, the context last served, the context whose turn is not over (R251), the figure command that follows at a boundary (06 R197), and the C0 time at which a slice
ended whose command still runs (R252). -/
structure Fe where
  mode   : FeMode := .idle
  queue  : List Running := []
  saved  : List Saved := []
  run    : Option Running := none
  last   : Nat := 0
  turn   : Option Nat := none
  resume : Option Saved := none
  noSave : Bool := false
  next   : Option (Nat × Nat) := none
  sliceEnd : Option Nat := none
  deriving DecidableEq, Repr

/-! ### The expert exchange (10 R313-R325) -/

/-- A routing table (10 R314). Replicas are (home coordinate, partition, card). -/
structure RouteTbl where
  epoch    : Nat
  arrival  : Bool
  senders  : List (Nat × Nat)
  experts  : List (Nat × Nat × Nat)
  replicas : List (Nat × Nat × Nat)
  fromStep : Nat
  actFmt   : Nat
  ansFmt   : Nat
  combFmt  : Nat
  width    : Nat
  deriving DecidableEq, Repr

/-- A candidate of a card, in the total order's terms (10 R317). -/
structure Cand where
  score : Word
  src   : Nat
  ptn   : Nat
  row   : Nat
  pos   : Nat
  expert : Nat
  gen   : Nat
  batch : Nat
  data  : Option (List Byte × Bool)
  gone  : Bool
  deriving DecidableEq, Repr

/-- One card of one exchange step at its home (10 R316-R318): `cap` is C, cut to the intake when the card closes; `fed` and
`drawn` count the slots delivered on EXPERT_IN and taken from EXPERT_OUT. -/
structure Card where
  step   : Nat
  card   : Nat
  cap    : Nat
  intake : Nat
  cands  : List Cand
  closed : Bool
  fed    : Nat
  drawn  : Nat
  deriving DecidableEq, Repr

/-- The counts a home holds of one sender for one step (10 R316): SCOREs received, the END count, CANCELled. -/
structure HomeCount where
  step   : Nat
  src    : Nat
  ptn    : Nat
  scores : Nat
  ended  : Option Nat
  gen    : Nat
  batch  : Nat
  gone   : Bool
  deriving DecidableEq, Repr

/-- One candidate of a token at its sender (10 R316, R320). -/
structure TokCand where
  expert  : Nat
  gate    : Nat
  replica : Option (Nat × Nat × Nat)
  grant   : Option Nat
  void    : Bool
  answer  : Option (List Byte × Bool)
  deriving DecidableEq, Repr

/-- One token of an exchange step at its sender (10 R316). -/
structure XTok where
  step    : Nat
  batch   : Nat
  gen     : Nat
  row     : Nat
  pos     : Nat
  live    : Bool
  act     : List Byte
  poison  : Bool
  actBad  : Bool
  cands   : List TokCand
  arrived : List Nat
  out     : Bool
  deriving DecidableEq, Repr

/-- Grants that one home has announced to this sender for one step (10 R316, R324). -/
structure SendCount where
  step   : Nat
  home   : Nat
  ptn    : Nat
  grants : Nat
  ended  : Option Nat
  deriving DecidableEq, Repr

/-- One exchange of a partition: the tables in force, staged, and in force for the step before; the step counter. -/
structure Exch where
  cur     : Option RouteTbl := none
  prev    : Option RouteTbl := none
  staged  : Option RouteTbl := none
  step    : Nat := 0
  cards   : List Card := []
  counts  : List HomeCount := []
  toks    : List XTok := []
  sends   : List SendCount := []
  scoreIn : List Flit := []
  actIn   : List Flit := []
  comb    : List Flit := []
  expertIn : List (Nat × Flit) := []
  expertOut : List (Nat × Flit) := []
  deriving DecidableEq, Repr

/-- FAB_XCH_ registers and exchanges of one partition (10 R328). -/
structure PXch where
  bufAddr   : Nat := 0
  bufPages  : Nat := 0
  ungranted : Nat := 0
  stale     : Nat := 0
  cardCut   : Nat := 0
  voided    : Nat := 0
  exchs     : Tbl Exch := []
  deriving DecidableEq, Repr

/-! ### Partitions, contexts, rings -/

/-- Power and thermal limits of one partition (13 R383-R399). Dividers are positions 0-3 of R386; `junction` is the row of
R394 (4: gated); `brakePos` is the C0 time of the next step of a stepwise return (R393); `mirrorWant` is the divider of a
mirror run that waits to be loaded (11 R350). -/
structure PPwr where
  prio      : Nat := 0
  weight    : Nat := 1
  parked    : Bool := false
  parkWant  : Bool := false
  refCode   : Nat := 0
  refQtr    : Nat := 0
  junction  : Nat := 0
  nbr       : Nat := 0
  nbrLimit  : Bool := false
  brakePos  : Option Nat := none
  mirrorWant : Option Nat := none
  divActive : Nat := 0
  deriving DecidableEq, Repr

/-- One partition (08 R233). `reset` is a partition reset in progress: its cause and how far it is (0 clearing, 1 before the
mirror run, 2 in the mirror run); `mirrorRounds` counts the rounds that the mirror run has run (11 R349). -/
structure Ptn where
  exists_ : Bool := false
  qtrs    : Nat := 0
  vf      : Nat := 0
  fig     : Fig := {}
  figure  : Option Figure := none
  cores   : Tbl Core := []
  partner : Tbl Partner := []
  barrier : Nat := 0
  flow    : Flow := {}
  units   : Ptnu := {}
  att     : Att := {}
  mem     : PMem := {}
  flt     : PFlt := {}
  pwr     : PPwr := {}
  fe      : Fe := {}
  batches : Tbl Batch := []
  xch     : PXch := {}
  reset   : Option (Nat × Nat) := none
  mirrorRounds : Nat := 0
  deriving DecidableEq, Repr

/-- SH fields of a context block (08 R237). -/
structure CtxSh where
  prio     : Nat := 0
  slice    : Nat := 1000
  figOps   : Bool := false
  baseNoAd : Bool := false
  saveObj  : Nat := 0
  saveVal  : Bool := false
  tmo0     : Nat := 0x0F4240
  tmo1     : Nat := 0x0F4240
  tmo2     : Nat := 0x002710
  tmo3     : Nat := 0x002710
  deriving DecidableEq, Repr

/-- SH attention fields of a context (06 R201): LIMIT and the victim classes' register words. -/
structure AttSh where
  limit  : Nat := 0
  victim : Tbl Nat := []
  deriving DecidableEq, Repr

/-- CTX_STATUS.STATE (08 R237). -/
inductive CtxSt where
  | disabled | enabled | resetting
  deriving DecidableEq, Repr

/-- A context reset in progress: level and cause code, whether its RESET entries wait for a doorbell, and the engines that held
work of the context when it began (11 R335, R336, R339; 15 R435). -/
structure CtxReset where
  level : Nat
  cause : Nat
  db    : Bool := false
  engs  : List EngineSel := []
  deriving DecidableEq, Repr

/-- One context (08 R236, R237; 06 R201). -/
structure Ctx where
  st         : CtxSt := .disabled
  ptn        : Nat := 0
  code       : Nat := 0
  saveUnus   : Bool := false
  sh         : CtxSh := {}
  staged     : Option CtxSh := none
  cur        : CtxSh := {}
  overrun    : Nat := 0
  preempts   : Nat := 0
  timeouts   : Nat := 0
  run        : Nat := 0
  runHi      : Nat := 0
  debt       : Nat := 0
  reserve    : Nat := 0
  attSh      : AttSh := {}
  attStaged  : Option AttSh := none
  attCur     : AttSh := {}
  held       : Nat := 0
  drops      : Nat := 0
  reset      : Option CtxReset := none
  deriving DecidableEq, Repr

/-- SH fields of a ring descriptor (08 R239). -/
structure RingSh where
  type   : Nat := 0
  enable : Bool := false
  notify : Bool := false
  size   : Nat := 6
  ctx    : Nat := 0
  base   : Nat := 0
  wb     : Nat := 0
  comp   : Nat := 0
  vector : Nat := 0
  deriving DecidableEq, Repr

/-- One ring (08 R238-R249; 09 R294). `resetEnts` holds the RESET entries that the host has not yet consumed, by ring index: their bytes, and
whether their DMA has failed (11 R345); `made` the records of the change in progress, which reach the ring at its end (09 R291). -/
structure Ring where
  sh         : RingSh := {}
  staged     : Option RingSh := none
  cur        : RingSh := {}
  head       : Nat := 0
  tail       : Nat := 0
  refused    : Bool := false
  dbBad      : Bool := false
  dbDisabled : Bool := false
  dmaErr     : Bool := false
  ptn        : Nat := 0
  assigned   : Bool := false
  started    : List Cmd := []
  fullNoted  : Bool := false
  parkNoted  : Bool := false
  resets     : List ResetComp := []
  resetEnts  : List (Nat × List Byte × Bool) := []
  recs       : List TokRec := []
  made       : List TokRec := []
  deriving DecidableEq, Repr

/-! ### Module-wide units -/

/-- A directory entry's state (05 R144, R165). -/
inductive DirSt where
  | free | valid | retiring
  deriving DecidableEq, Repr

/-- An adapter-directory entry (05 R144). `oldAlpha` holds the scales still in force for the batches of the context that have not
passed a batch step boundary since ALPHA changed (R146). -/
structure Adapter where
  st       : DirSt := .free
  rank     : Nat := 1
  fmt      : Nat := 0
  ctx      : Nat := 0
  planTag  : Nat := 0
  refs     : Nat := 0
  body     : Nat := 0
  bodySize : Nat := 0
  cold     : Nat := 0
  alpha    : List Nat := []
  oldAlpha : Tbl (List Nat) := []
  deriving DecidableEq, Repr

/-- A steering-directory entry (05 R165). -/
structure Steer where
  st     : DirSt := .free
  layers : Nat := 1
  fmt    : Nat := 0
  ctx    : Nat := 0
  refs   : Nat := 0
  base   : Nat := 0
  width  : Nat := 0
  deriving DecidableEq, Repr

/-- A mask table in the store (09 R277, R278). States are (first edge, edge count, default next); `bad` lists the states whose bitmap
came from poisoned lines (07 R228; 09 R287). -/
structure Mask where
  set       : Bool := false
  ctx       : Nat := 0
  automaton : Bool := false
  vocab     : Nat := 0
  size      : Nat := 0
  tokens    : List Nat := []
  states    : List (Nat × Nat × Nat) := []
  bitmaps   : List (List Byte) := []
  edges     : List (Nat × Nat) := []
  bad       : NSet := []
  deriving DecidableEq, Repr

/-- A retained object in the deep catalogue (07 R230). -/
structure Retained where
  ptn   : Nat
  id    : Nat
  obj   : Obj
  pages : List (Nat × PageEnt)
  deriving DecidableEq, Repr

/-- The memory tiers and the MEM_ module registers (07 R203, R227-R232). Memory keys are physical page × 65,536 + byte;
poison keys are physical page × 1,024 + line. -/
structure MemUnit where
  t0        : Memory := []
  t1        : Memory := []
  t2        : Memory := []
  bad0      : NSet := []
  bad1      : NSet := []
  bad2      : NSet := []
  used0     : NSet := []
  used1     : NSet := []
  used2     : NSet := []
  retired0  : NSet := []
  retired1  : NSet := []
  retired2  : NSet := []
  unlisted  : NSet := []
  ceCount   : Tbl (List Nat) := []
  scrubInt  : Nat := 0x015180
  scrubRate : Nat := 0x03E8
  scrubPasses : Nat := 0
  scrubLate : Bool := false
  scrubLeft : List (Nat × Nat × Nat) := []
  scrubOn   : Bool := false
  scrubDue  : Bool := false
  ce0       : Nat := 0
  ce1       : Nat := 0
  ce2       : Nat := 0
  ue        : Nat := 0
  bar4Sel   : Nat := 0
  retained  : List Retained := []
  deriving DecidableEq, Repr

/-- Fabric-port state (10 R304). -/
inductive PortSt where
  | off | detect | equalise | align | exchange | active | retrain | fenced | failed
  deriving DecidableEq, Repr

/-- A frame that a port holds for retry: its contents, the contexts of this module with a flit in it, and how often it was replayed
(10 R300, R308). -/
structure HeldFrame where
  seq     : Nat
  slots   : List FrameSlot
  credits : List Nat
  owners  : NSet
  tries   : Nat
  deriving DecidableEq, Repr

/-- A packet that waits to leave, with the context of this module whose flits it carries (10 R308). -/
structure Sending where
  pkt   : Packet
  owner : Option Nat
  deriving DecidableEq, Repr

/-- A packet in a port's receive buffer (10 R301): its lane, the flits of buffer it takes, the ports on which a multicast copy has still
to leave, and whether it has still to be delivered here or sent onward. -/
structure RxPacket where
  pkt    : Packet
  lane   : Nat
  places : Nat
  hops   : List Nat
  here   : Bool
  onward : Bool
  deriving DecidableEq, Repr

/-- One fabric port with its link layer (10 R297-R305, R328). `ackDue` is an accepted frame that no sent frame has acknowledged; `rr` is
the lane of VL1-VL3 that sent last. -/
structure Port where
  enable      : Bool := true
  st          : PortSt := .off
  peerPort    : Nat := 0
  reversed    : Bool := false
  peerCoord   : Nat := 0
  replays     : Nat := 0
  trainFails  : Nat := 0
  txSeq       : Nat := 0
  rxAck       : Nat := 0
  expect      : Nat := 1
  nak         : Bool := false
  ackDue      : Bool := false
  held        : List HeldFrame := []
  credits     : List Nat := []
  freed       : List Nat := []
  partial_    : Tbl (List FrameSlot) := []
  rxq         : List RxPacket := []
  txq         : List Sending := []
  rr          : Nat := 0
  byPeer      : Bool := false
  discards    : Nat := 0
  deriving DecidableEq, Repr

/-- A channel's dynamic state (10 R311): credits of a send channel, flits waiting to be sent, and flits received. -/
structure Chan where
  credits : Nat := 0
  txq     : List Flit := []
  rxq     : List Flit := []
  drops   : Nat := 0
  deriving DecidableEq, Repr

/-- The FAB_ window (10 R328); route, channel and multicast entries are their register words. `fenced`: the module has fenced itself;
`wait`: packets whose route has no ACTIVE port; `here`: packets from this module to itself; `parts`: ACT and ANSWER units whose data have
not come whole, with their KIND. -/
structure Fab where
  coord     : Nat := 0
  valid     : Bool := false
  kept      : Option Nat := none
  lostLast  : Nat := 0
  lostCount : Nat := 0
  lostSet   : NSet := []
  noted     : NSet := []
  drops     : Nat := 0
  fenced    : Bool := false
  wait      : List Sending := []
  here      : List Packet := []
  parts     : List (Nat × XUnit) := []
  ports     : Tbl Port := []
  near      : Tbl Nat := []
  far       : Tbl Nat := []
  tx0       : Tbl Nat := []
  tx1       : Tbl Nat := []
  rx        : Tbl Nat := []
  mcast     : Tbl Nat := []
  chans     : Tbl Chan := []
  deriving DecidableEq, Repr

/-- An engine reset in progress (11 R340): the engine, its affected contexts and the cause. -/
structure EngReset where
  eng   : EngineSel
  ctxs  : NSet
  cause : Nat
  deriving DecidableEq, Repr

/-- The FLT_ module registers, log and resets in progress (11 R331, R334, R342, R352, R359); newest record first. -/
structure Flt where
  log        : List FaultRec := []
  seq        : Nat := 0
  resetting  : Bool := false
  snapValid  : Bool := false
  snapLock   : Bool := false
  snapMissed : Bool := false
  recsInc    : Bool := false
  polRefused : Bool := false
  n1         : Nat := 0
  n2         : Nat := 0
  n3         : Nat := 0
  n4         : Nat := 0
  policy     : Tbl Nat := []
  snap       : Memory := []
  engResets  : List EngReset := []
  cycleReq   : Bool := false
  deriving DecidableEq, Repr

/-- A source's configuration (12 R378). -/
structure SrcCfg where
  filter : Nat := 1
  edge   : Bool := false
  prio   : Nat := 0
  target : Nat := 0
  index  : Nat := 0
  fn     : Nat := 0
  deriving DecidableEq, Repr

/-- A delivery target and, for targets 1-9, its processor (12 R367-R369, R377; 14 R419). `levels` is the stack of
running handlers' priorities, innermost first; `cause` is EVCAUSE. -/
structure Tgt where
  base     : Nat := 0
  gap      : Nat := 0
  count    : Nat := 0
  mie      : Bool := false
  levels   : List Nat := []
  cause    : Nat := 0
  handler  : Nat := 0
  sleeping : Bool := false
  inGap    : Bool := false
  deriving DecidableEq, Repr

/-- A host vector's moderation (12 R371, R379). -/
structure HVec where
  interval : Nat := 0
  held     : Bool := false
  running  : Bool := false
  deriving DecidableEq, Repr

/-- The event controller (12). -/
structure Evc where
  pend       : NSet := []
  unmasked   : NSet := []
  filt       : NSet := []
  src        : Tbl SrcCfg := []
  cfgUnm     : Bool := false
  owned      : Bool := false
  cfgInv     : Bool := false
  vfRef      : Bool := false
  vecRange   : Bool := false
  tgts       : Tbl Tgt := []
  hvec       : Tbl HVec := []
  vfVec      : Tbl Nat := []
  deriving DecidableEq, Repr

/-- Power, brake and coolant of the module (13 R380-R399). -/
structure Pwr where
  cap       : Nat := 0x12C0
  tray      : Nat := 0x12C0
  hostCap   : Nat := 0x12C0
  notice    : Bool := false
  brake     : Bool := false
  brakeWait : Bool := false
  marginal  : Bool := false
  capUnmet  : Bool := false
  coolHot   : Bool := false
  coolDiv   : Nat := 0
  volts     : Nat := 0
  amps      : Nat := 0
  inputW    : Nat := 0
  otherW    : Nat := 0
  inlet     : Nat := 0
  outlet    : Nat := 0
  hbm       : Tbl Nat := []
  lpddr     : Tbl Nat := []
  regs      : Tbl Nat := []
  overTemp  : NSet := []
  refreshed : Nat := 0
  tele      : List Byte := []
  breaker   : Bool := false
  railsOn   : Bool := false
  deriving DecidableEq, Repr

/-- A partition command in progress (08 R234): operation, partition, VF, mask and the result it will report. -/
structure PtnCmd where
  arg  : Nat := 0
  code : Nat := 0
  info : Nat := 0
  busy : Bool := false
  resCode : Nat := 0
  resInfo : Nat := 0
  deriving DecidableEq, Repr

/-- An MSI-X message sent: function, table entry, address and data (12 R370). -/
structure MsixMsg where
  fn   : Nat
  vec  : Nat
  addr : Nat
  data : Nat
  deriving DecidableEq, Repr

/-- A management message sent over MCTP (14 R416): command code, status, instance, payload. -/
structure MctpMsg where
  code    : Nat
  status  : Nat
  inst    : Nat
  payload : List Byte
  deriving DecidableEq, Repr

/-- What has left the block: host memory as DMA wrote it, the data of the last host read (and its EP bit), messages, frames and
the packets in them by port, and the dispatch units that exchanges have issued as (destination, KIND, unit) (the model's own fields,
log 11); newest first. -/
structure Out where
  hostMem : Memory := []
  read    : List Byte := []
  readEp  : Bool := false
  msix    : List MsixMsg := []
  mctp    : List MctpMsg := []
  spdm    : List (Transport × List Byte) := []
  fabric  : List (Nat × Packet) := []
  frames  : List (Nat × List Byte) := []
  units   : List (Nat × Nat × XUnit) := []
  deriving DecidableEq, Repr

/-- The whole state of the module. -/
structure State where
  time     : Nat := 0
  fns      : Tbl Fn := []
  vfEnable : Bool := false
  linkUp   : Bool := false
  boot     : Boot := {}
  fuses    : Fuses := {}
  mbox     : Mbox := {}
  mgmt     : Mgmt := {}
  qtrAvail : Nat := 0
  sets     : Tbl SetRepair := []
  qtrs     : Tbl Qtr := []
  dies     : Tbl Die := []
  ptnCmd   : PtnCmd := {}
  ptns     : Tbl Ptn := []
  ctxs     : Tbl Ctx := []
  rings    : Tbl Ring := []
  mem      : MemUnit := {}
  adapters : Tbl Adapter := []
  steers   : Tbl Steer := []
  masks    : Tbl Mask := []
  fab      : Fab := {}
  flt      : Flt := {}
  evc      : Evc := {}
  pwr      : Pwr := {}
  out      : Out := {}
  free     : Nat := 0
  pending  : List Instr := []
  deriving DecidableEq, Repr

/-- The module before the always-on domain first powers up: every register at the reset value the manual gives it,
every other field at the value its log names (logs 2-11), and an empty command queue. -/
def State.reset : State := {}

end Sys2Proof.Machine
end

