-- ==== Sys2Proof/Machine/Store.lean ====
section
/-! DEFINITION. Sparse tables, sets of numbers and byte memory, each in one canonical form: keys strictly rising, and no
entry equal to what an unlisted key reads as. -/
namespace Sys2Proof.Machine

/-- The value a table holds at a key; an unlisted key reads as the default. -/
def tget {α : Type} (d : α) : Tbl α → Nat → α
  | [], _ => d
  | (k, v) :: rest, n => if k = n then v else tget d rest n

/-- A table with one key put at its place; the caller keeps defaults out. -/
def tput {α : Type} (n : Nat) (v : α) : Tbl α → Tbl α
  | [] => [(n, v)]
  | (k, w) :: rest => if n < k then (n, v) :: (k, w) :: rest else if k = n then (n, v) :: rest else (k, w) :: tput n v rest

/-- A table without a key. -/
def tdel {α : Type} (n : Nat) : Tbl α → Tbl α
  | [] => []
  | (k, w) :: rest => if k = n then tdel n rest else (k, w) :: tdel n rest

/-- A table with a key set to a value: an entry equal to the default is not listed. -/
def tset {α : Type} [DecidableEq α] (d : α) (n : Nat) (v : α) (t : Tbl α) : Tbl α :=
  if v = d then tdel n t else tput n v t

/-- A table with the value at a key changed. -/
def tmod {α : Type} [DecidableEq α] (d : α) (n : Nat) (f : α → α) (t : Tbl α) : Tbl α := tset d n (f (tget d t n)) t

/-- A table with every value changed; values that become the default leave it. -/
def tmap {α : Type} [DecidableEq α] (d : α) (f : α → α) (t : Tbl α) : Tbl α := (t.map fun e => (e.1, f e.2)).filter fun e => decide (e.2 ≠ d)

/-- Keys strictly rising from a bound. -/
def keysFrom {α : Type} : Nat → Tbl α → Bool
  | _, [] => true
  | b, (k, _) :: rest => decide (b ≤ k) && keysFrom (k + 1) rest

/-- The canonical form of a table. -/
def twf {α : Type} [DecidableEq α] (d : α) (t : Tbl α) : Bool := keysFrom 0 t && t.all fun e => decide (e.2 ≠ d)

/-- A set with a number in it. -/
def nadd (n : Nat) : NSet → NSet
  | [] => [n]
  | k :: rest => if n < k then n :: k :: rest else if k = n then k :: rest else k :: nadd n rest

/-- A set without a number. -/
def ndel (n : Nat) : NSet → NSet
  | [] => []
  | k :: rest => if k = n then ndel n rest else k :: ndel n rest

/-- Membership as a Bool. -/
def nhas (s : NSet) (n : Nat) : Bool := s.any (· == n)

/-- A set with several numbers in it. -/
def naddAll (l : List Nat) (s : NSet) : NSet := l.foldl (fun t n => nadd n t) s

/-- The byte at an address; an unlisted byte reads 0 (log 4). -/
def mget (m : Memory) (a : Nat) : Byte := tget 0 m a

/-- Memory with one byte written; a zero is not listed. -/
def mset (a : Nat) (b : Byte) (m : Memory) : Memory := tset 0 a b m

/-- The canonical form of a byte memory. -/
def Memory.wf (m : Memory) : Bool := twf (0 : Byte) m

/-- Entries with keys below a bound, and from it on. -/
def splitAtKey {α : Type} (n : Nat) (t : Tbl α) : Tbl α × Tbl α := (t.takeWhile fun e => decide (e.1 < n), t.dropWhile fun e => decide (e.1 < n))

/-- `n` bytes from an address, upward. -/
def mread (m : Memory) : Nat → Nat → List Byte
  | _, 0 => []
  | a, n + 1 => mget m a :: mread m (a + 1) n

/-- Memory with bytes written from an address, upward. -/
def mwrite (m : Memory) (a : Nat) : List Byte → Memory
  | [] => m
  | b :: bs => mwrite (mset a b m) (a + 1) bs

/-- Memory with `n` bytes from `a` zeroed. -/
def mzero (m : Memory) (a n : Nat) : Memory := m.filter fun c => !(decide (a ≤ c.1) && decide (c.1 < a + n))

/-- The entry at a position of a list, or a default. -/
def lget {α : Type} (d : α) (l : List α) (n : Nat) : α := l.getD n d

/-- The first element satisfying a test. -/
def lfind {α : Type} (p : α → Bool) (l : List α) : Option α := l.find? p

/-- The list with the first element that satisfies a test changed. -/
def lmodFirst {α : Type} (p : α → Bool) (f : α → α) : List α → List α
  | [] => []
  | x :: xs => if p x then f x :: xs else x :: lmodFirst p f xs

/-- The list with every element that satisfies a test changed. -/
def lmodAll {α : Type} (p : α → Bool) (f : α → α) (l : List α) : List α := l.map fun x => if p x then f x else x

/-- Position of the first element satisfying a test. -/
def lpos {α : Type} (p : α → Bool) : List α → Option Nat
  | [] => none
  | x :: xs => if p x then some 0 else (lpos p xs).map (· + 1)

/-- The list without its first element that satisfies a test. -/
def ldelFirst {α : Type} (p : α → Bool) : List α → List α
  | [] => []
  | x :: xs => if p x then xs else x :: ldelFirst p xs

/-- Insertion sort by a boolean order. -/
def insertBy {α : Type} (le : α → α → Bool) (x : α) : List α → List α
  | [] => [x]
  | y :: ys => if le x y then x :: y :: ys else y :: insertBy le x ys

def sortBy {α : Type} (le : α → α → Bool) (l : List α) : List α := l.foldr (insertBy le) []

/-- All pairwise distinct. -/
def distinct {α : Type} [DecidableEq α] : List α → Bool
  | [] => true
  | x :: xs => !xs.contains x && distinct xs

end Sys2Proof.Machine
end

