-- ==== Sys2Proof/Machine/Ops.lean ====
section
/-! DEFINITION. The named operations over the state's units: reading and changing one function, partition, context, ring,
quarter or die; the clock; free draws; host DMA; messages that leave the block. -/
namespace Sys2Proof.Machine

/-! ### One unit at a time -/

def getFn (s : State) (f : Nat) : Fn := tget {} s.fns f
def modFn (f : Nat) (g : Fn → Fn) (s : State) : State := { s with fns := tmod {} f g s.fns }
def getPtn (s : State) (p : Nat) : Ptn := tget {} s.ptns p
def modPtn (p : Nat) (g : Ptn → Ptn) (s : State) : State := { s with ptns := tmod {} p g s.ptns }
def getCtx (s : State) (c : Nat) : Ctx := tget {} s.ctxs c
def modCtx (c : Nat) (g : Ctx → Ctx) (s : State) : State := { s with ctxs := tmod {} c g s.ctxs }
def getRing (s : State) (r : Nat) : Ring := tget {} s.rings r
def modRing (r : Nat) (g : Ring → Ring) (s : State) : State := { s with rings := tmod {} r g s.rings }
def getQtr (s : State) (q : Nat) : Qtr := tget {} s.qtrs q
def modQtr (q : Nat) (g : Qtr → Qtr) (s : State) : State := { s with qtrs := tmod {} q g s.qtrs }
def getDie (s : State) (d : Nat) : Die := tget {} s.dies d
def modDie (d : Nat) (g : Die → Die) (s : State) : State := { s with dies := tmod {} d g s.dies }
def getSet (s : State) (n : Nat) : SetRepair := tget {} s.sets n
def getAdapter (s : State) (a : Nat) : Adapter := tget {} s.adapters a
def modAdapter (a : Nat) (g : Adapter → Adapter) (s : State) : State := { s with adapters := tmod {} a g s.adapters }
def getSteer (s : State) (a : Nat) : Steer := tget {} s.steers a
def modSteer (a : Nat) (g : Steer → Steer) (s : State) : State := { s with steers := tmod {} a g s.steers }
def getMask (s : State) (m : Nat) : Mask := tget {} s.masks m
def getPort (s : State) (n : Nat) : Port := tget {} s.fab.ports n
def modPort (n : Nat) (g : Port → Port) (s : State) : State := { s with fab := { s.fab with ports := tmod {} n g s.fab.ports } }

/-- Changes to the loader, engine, batch and other parts of one partition. -/
def modFig (p : Nat) (g : Fig → Fig) : State → State := modPtn p fun x => { x with fig := g x.fig }
def modFe (p : Nat) (g : Fe → Fe) : State → State := modPtn p fun x => { x with fe := g x.fe }
def modAtt (p : Nat) (g : Att → Att) : State → State := modPtn p fun x => { x with att := g x.att }
def modPMem (p : Nat) (g : PMem → PMem) : State → State := modPtn p fun x => { x with mem := g x.mem }
def modPFlt (p : Nat) (g : PFlt → PFlt) : State → State := modPtn p fun x => { x with flt := g x.flt }
def modPPwr (p : Nat) (g : PPwr → PPwr) : State → State := modPtn p fun x => { x with pwr := g x.pwr }
def modXch (p : Nat) (g : PXch → PXch) : State → State := modPtn p fun x => { x with xch := g x.xch }
def modFlow (p : Nat) (g : Flow → Flow) : State → State := modPtn p fun x => { x with flow := g x.flow }
def getBatch (s : State) (p b : Nat) : Batch := tget {} (getPtn s p).batches b
def modBatch (p b : Nat) (g : Batch → Batch) : State → State := modPtn p fun x => { x with batches := tmod {} b g x.batches }
def getRow (b : Batch) (r : Nat) : BRow := tget {} b.rows r
def modRow (p b r : Nat) (g : BRow → BRow) : State → State := modBatch p b fun x => { x with rows := tmod {} r g x.rows }
def getObj (s : State) (p o : Nat) : Obj := tget {} (getPtn s p).mem.objs o
def modObj (p o : Nat) (g : Obj → Obj) : State → State := modPMem p fun m => { m with objs := tmod {} o g m.objs }
def getSlot (s : State) (p k : Nat) : Slot := tget {} (getPtn s p).fig.slots k
def modSlot (p k : Nat) (g : Slot → Slot) : State → State := modFig p fun f => { f with slots := tmod {} k g f.slots }
def modMem (g : MemUnit → MemUnit) (s : State) : State := { s with mem := g s.mem }
def modFlt (g : Flt → Flt) (s : State) : State := { s with flt := g s.flt }
def modEvc (g : Evc → Evc) (s : State) : State := { s with evc := g s.evc }
def modPwr (g : Pwr → Pwr) (s : State) : State := { s with pwr := g s.pwr }
def modFab (g : Fab → Fab) (s : State) : State := { s with fab := g s.fab }
def modBoot (g : Boot → Boot) (s : State) : State := { s with boot := g s.boot }
def modOut (g : Out → Out) (s : State) : State := { s with out := g s.out }
def modMgmt (g : Mgmt → Mgmt) (s : State) : State := { s with mgmt := g s.mgmt }

/-- Page key of an object's page in its partition's page map (07 R205, R210). -/
def pageKey (o k : Nat) : Nat := o * 2 ^ 26 + k

/-! ### Numbers of existing things -/

/-- A partition's and a die's number as the types that commands carry. -/
def ptnId (n : Nat) : PtnId := Fin.ofNat 32 n
def dieId (n : Nat) : DieId := Fin.ofNat 8 n

/-- Partitions that exist, ascending. -/
def livePtns (s : State) : List Nat := (s.ptns.filter fun e => e.2.exists_).map (·.1)

/-- Contexts that are not DISABLED, ascending. -/
def liveCtxs (s : State) : List Nat := (s.ctxs.filter fun e => decide (e.2.st ≠ .disabled)).map (·.1)

/-- Contexts bound to a partition and not DISABLED (08 R236). -/
def ctxsOf (s : State) (p : Nat) : List Nat := (s.ctxs.filter fun e => decide (e.2.st ≠ .disabled) && e.2.ptn == p).map (·.1)

/-- Enabled rings, ascending. -/
def enabledRings (s : State) : List Nat := (s.rings.filter fun e => e.2.cur.enable).map (·.1)

/-- Enabled rings of one type owned by a context (08 R239). -/
def ringsOfCtx (s : State) (c ty : Nat) : List Nat :=
  (s.rings.filter fun e => e.2.cur.enable && e.2.cur.type == ty && e.2.cur.ctx == c).map (·.1)

/-- Quarters of a partition in quarter order; figure quarter k is the k-th (02). -/
def qtrsOf (s : State) (p : Nat) : List Nat := maskBits (getPtn s p).qtrs 32

/-- The partition that holds a quarter. -/
def ptnOfQtr (s : State) (q : Nat) : Option Nat := (s.ptns.find? fun e => e.2.exists_ && bit e.2.qtrs q).map (·.1)

/-- Partitions that hold a quarter of a die (01 R20). -/
def ptnsOfDie (s : State) (d : Nat) : List Nat :=
  (s.ptns.filter fun e => e.2.exists_ && (List.range 4).any fun k => bit e.2.qtrs (4 * d + k)).map (·.1)

/-- A quarter's place in the quarter grid (01 R25; 02 R56). -/
def qtrCol (q : Nat) : Nat := 2 * (q / 4 % 4) + q % 2
def qtrRow (q : Nat) : Nat := 2 * (q / 16) + q % 4 / 2

/-- Two quarters share an edge. -/
def adjacent (a b : Nat) : Bool :=
  (qtrRow a == qtrRow b && (qtrCol a == qtrCol b + 1 || qtrCol b == qtrCol a + 1)) ||
  (qtrCol a == qtrCol b && (qtrRow a == qtrRow b + 1 || qtrRow b == qtrRow a + 1))

/-- A partition's quarters in row-major order: figure quarter k is the k-th (02 R56). -/
def figQtrs (s : State) (p : Nat) : List Nat :=
  sortBy (fun a b => decide (qtrRow a * 8 + qtrCol a ≤ qtrRow b * 8 + qtrCol b)) (qtrsOf s p)

/-- The die of the partition's lowest-numbered quarter: its home mover and home mask engine (08 R245). -/
def homeDie (s : State) (p : Nat) : Nat := ((qtrsOf s p).headD 0) / 4

/-- The context's partition. -/
def ptnOfCtx (s : State) (c : Nat) : Nat := (getCtx s c).ptn

/-- Module in service (14 R400). -/
def isReady (s : State) : Bool := decide (s.boot.stage = .ready)

/-- The switched domains are up (14 R400). -/
def switchedUp (s : State) : Bool :=
  match s.boot.stage with
  | .powerUp | .repair | .training | .init | .ready | .resetting => true
  | _ => false

/-- A mirror run is in progress: its figure is loaded and its rounds run (11 R349). -/
def mirroring (x : Ptn) : Bool := decide (x.fig.st = .mirror) && match x.reset with | some (_, 2) => true | _ => false

/-- The rounds that the mirror figure's REPORT asks for (11 R348). -/
def mirrorTarget (x : Ptn) : Nat := ((x.figure.bind fun f => f.report).map fun r => r.rounds).getD 0

/-- A partition runs, as RWL and SH fields mean it (00 R9, R10): from its figure's first round until the drain that stops the
figure completes; the figure of a mirror run is its figure too (11 R349). -/
def ptnRuns (x : Ptn) : Bool :=
  match x.fig.st with
  | .running | .draining => true
  | .mirror => mirroring x
  | _ => false

/-- A partition's C1 is gated by parking or heat (13 R391, R394). -/
def c1Gated (x : Ptn) : Bool := x.pwr.parked || x.pwr.junction == 4

/-- A partition's cores are clocked: no gating, and the PLL of every die that holds one of its quarters is locked (01 R37; 13 R391,
R394). -/
def c1Runs (s : State) (p : Nat) : Bool := !c1Gated (getPtn s p) && (qtrsOf s p).all fun q => (getDie s (q / 4)).pll

def anyPtnRuns (s : State) : Bool := s.ptns.any fun e => e.2.exists_ && ptnRuns e.2

/-- No flit is on its way to a stream buffer: crossings are empty and no output waits for one. -/
def flowEmpty (w : Flow) : Bool := w.outq.isEmpty && w.xOut.isEmpty && w.xIn.isEmpty

/-- A core before step 0 of a round. -/
def restCore (c : Core) : Core := { c with step := 0, taken := [], fired := false }

/-! ### Time and free draws -/

/-- The figure engine executes a command's rounds. -/
def feRuns (f : Fe) : Bool := match f.mode with | .run => true | .stopping _ => true | _ => false

/-- One C0 cycle of the always-on domain (01 R41; log 12); a context whose command runs counts it (08 R237). -/
def tick (s : State) : State :=
  if s.boot.aon then
    (livePtns s).foldl (fun s p =>
      match (getPtn s p).fe.run with
      | some r => if feRuns (getPtn s p).fe then modCtx r.ctx (fun c => { c with run := c.run + 1 }) s else s
      | none => s) { s with time := s.time + 1 }
  else s

/-- A fresh free 32-bit value (log 1). -/
def drawFree (s : State) : Word × State := (Config.freeValue s.free, { s with free := s.free + 1 })

/-- A fresh free choice below `n`; 0 when there is nothing to choose from (log 1). -/
def drawChoice (n : Nat) (s : State) : Nat × State := (Config.freeChoice s.free n % n, { s with free := s.free + 1 })

/-! ### The host link -/

/-- The function that serves a partition: its VF, or the PF (08 R235). -/
def ptnFn (s : State) (p : Nat) : Nat := (getPtn s p).vf

/-- A function may perform DMA and send messages (15 R436, R449). -/
def canDma (s : State) (f : Nat) : Bool := s.linkUp && (getFn s f).bme && (f == 0 || s.vfEnable)

/-- The module writes host memory at a bus address (15 R432). -/
def hostWrite (a : Nat) (bs : List Byte) : State → State := modOut fun o => { o with hostMem := mwrite o.hostMem a bs }

/-- Entries of a function's MSI-X table (12 R370). -/
def tableSize (s : State) (f : Nat) : Nat := if f == 0 then 2048 else tget 0x40 s.evc.vfVec f

/-- Host vector number of a function's table entry (12 R370). -/
def vecNo (s : State) (f i : Nat) : Nat :=
  if f == 0 then i else 2048 + ((List.range (f - 1)).map fun v => tableSize s (v + 1)).sum + i

/-- Bump a saturating EVC_TGT_COUNT (12 R377). -/
def countTgt (t : Nat) : State → State := modEvc fun e => { e with tgts := tmod {} t (fun x => { x with count := satAdd 32 x.count 1 }) e.tgts }

/-- A function's message goes out, or waits in the PBA until it may (12 R370). -/
def sendMsix (f i : Nat) (s : State) : State :=
  let x := getFn s f
  let m := tget {} x.msix i
  if canDma s f && x.msixEnable && !x.fnMask && !m.masked then
    countTgt 10 (modOut (fun o => { o with msix := ⟨f, i, m.addr, m.data⟩ :: o.msix }) s)
  else modFn f (fun x => { x with pba := nadd i x.pba }) s

/-- Messages of a function's PBA that may go out now go out, in vector order (12 R370). -/
def flushPba (f : Nat) (s : State) : State :=
  (getFn s f).pba.foldl (fun s i => sendMsix f i (modFn f (fun x => { x with pba := ndel i x.pba }) s)) s

/-- A management message leaves over MCTP (14 R416). -/
def mctpOut (code status inst : Nat) (payload : List Byte) : State → State :=
  modOut fun o => { o with mctp := ⟨code, status, inst, payload⟩ :: o.mctp }

/-- The data of a host read. -/
def readOut (bs : List Byte) (ep : Bool) : State → State := modOut fun o => { o with read := bs, readEp := ep }

end Sys2Proof.Machine
end

