-- ==== Sys2Proof/Machine/EventCtl.lean ====
section
/-! DEFINITION. The event controller's shared operations (12): sources, pending and mask bits, signals to host vectors with
their moderation, ALERT_N, and the firmware's routing. -/
namespace Sys2Proof.Machine

/-! ### Sources (12 R362) -/

def srcModuleFault : Nat := 0x000
def srcPtnDone : Nat := 0x001
def srcThermalTrip : Nat := 0x009
def srcMctpRx : Nat := 0x00A
def srcMctpTxDone : Nat := 0x00B
def srcCapMsg : Nat := 0x00C
def srcModuleResetDone : Nat := 0x00D
def srcSnapshotTaken : Nat := 0x00E
def srcWdogWarn : Nat := 0x00F
def srcScrubPassDone : Nat := 0x010
def srcScrubLate : Nat := 0x011
def srcPageRetired : Nat := 0x012
def srcHostLink : Nat := 0x013
def srcFunctionChange : Nat := 0x014
def srcAlertRequest : Nat := 0x015
/-- Die sources: k = 0 HEARTBEAT_MISSED, 1 PLL_UNLOCK, 2 THROTTLE, 3 SETTING_REFUSED, 4 REPAIR_DONE, 5 DIE_MAILBOX, 6 ENGINE_ERROR. -/
def srcDie (d k : Nat) : Nat := 0x040 + 8 * d + k
def srcPort (n : Nat) : Nat := 0x080 + n
def srcPeerLost : Nat := 0x0A0
def srcCoordSet : Nat := 0x0A1
/-- Partition sources: k = 0 FIG_DONE, 1 PTN_FAULT, 2 PLAN_BIND_DONE, 3 MAP_BIND_DONE, 4 COMMIT_APPLIED, 5 MIRROR_DONE,
6 QS_WRAP, 7 JOIN_SNAP_WRITTEN. -/
def srcPtn (p k : Nat) : Nat := 0x100 + 32 * p + k

/-- Condition sources follow a level; every other listed source is a pulse source. -/
def isCondition (n : Nat) : Bool := decide (2 ≤ n) && decide (n ≤ 8)

def isSoftware (n : Nat) : Bool := decide (0x800 ≤ n) && decide (n < 0x1000)

/-- The source number is listed, not reserved (12 R362). -/
def isListed (n : Nat) : Bool :=
  decide (n ≤ 0x015) || (decide (0x040 ≤ n) && decide (n < 0x080) && decide (n % 8 ≤ 6)) ||
  (decide (0x080 ≤ n) && decide (n < 0x092)) || n == 0x0A0 || n == 0x0A1 ||
  (decide (0x100 ≤ n) && decide (n < 0x500) && decide (n % 32 ≤ 7)) || isSoftware n

def srcCfg (s : State) (n : Nat) : SrcCfg := tget {} s.evc.src n

/-- A pulse source reads EDGE = 1 (12 R378). -/
def srcEdge (s : State) (n : Nat) : Bool := !isCondition n || (srcCfg s n).edge

def isPending (s : State) (n : Nat) : Bool := nhas s.evc.pend n
def isUnmasked (s : State) (n : Nat) : Bool := nhas s.evc.unmasked n

def getTgt (s : State) (t : Nat) : Tgt := tget {} s.evc.tgts t
def modTgt (t : Nat) (g : Tgt → Tgt) : State → State := modEvc fun e => { e with tgts := tmod {} t g e.tgts }

/-! ### Host vectors (12 R370, R371) -/

/-- Every notifying completion or token ring of the vector has HEAD equal to TAIL. -/
def vecRingsIdle (s : State) (f i : Nat) : Bool :=
  s.rings.all fun e =>
    !(e.2.cur.enable && e.2.cur.notify && (e.2.cur.type == 1 || e.2.cur.type == 2) && e.2.cur.vector == i && ptnFn s e.2.ptn == f) ||
    e.2.head == e.2.tail

/-- A source other than `src` is pending for the vector. -/
def otherPending (s : State) (f i : Nat) (src : Option Nat) : Bool :=
  s.evc.pend.any fun n => decide (some n ≠ src) && (srcCfg s n).target == 10 && (srcCfg s n).fn == f && (srcCfg s n).index == i

def getHVec (s : State) (e : Nat) : HVec := tget {} s.evc.hvec e
def modHVec (e : Nat) (g : HVec → HVec) : State → State := modEvc fun x => { x with hvec := tmod {} e g x.hvec }

/-- A message of host vector (f, i): its interval starts again (12 R371). -/
def vecMessage (f i : Nat) (s : State) : State :=
  sendMsix f i (modHVec (vecNo s f i) (fun v => { v with held := false, running := decide (v.interval ≠ 0) }) s)

/-- A signal to host vector (f, i); `ringsIdle` is the ring half of idleness, judged when the rule says (12 R370, R371). -/
def signalHost (f i : Nat) (ringsIdle : Bool) (src : Option Nat) (s : State) : State :=
  if tableSize s f ≤ i then modEvc (fun e => { e with vecRange := true }) s
  else
    let v := getHVec s (vecNo s f i)
    if v.interval = 0 ∨ (v.held = false ∧ (v.running = false ∨ (ringsIdle && !otherPending s f i src) = true)) then vecMessage f i s
    else modHVec (vecNo s f i) (fun v => { v with held := true }) s

/-! ### Pending bits and delivery (12 R363, R364) -/

/-- ALERT_N is driven low (12 R372). -/
def alertLow (s : State) : Bool := s.evc.pend.any fun n => isUnmasked s n && (srcCfg s n).target == 11

/-- An assertion of ALERT_N between two states is counted (12 R377). -/
def countAlert (before after : State) : State := if !alertLow before && alertLow after then countTgt 11 after else after

/-- A source becomes deliverable: a host source signals its vector, a processor source waits for EVENT_DELIVERY, and
ALERT_N follows its sources. -/
def deliver (n : Nat) (s : State) : State :=
  let c := srcCfg s n
  if c.target = 10 then signalHost c.fn c.index (vecRingsIdle s c.fn c.index) (some n) s else s

/-- A pending bit is set (12 R364). -/
def setPend (n : Nat) (s : State) : State :=
  if isListed n && !isPending s n then
    let t := modEvc (fun e => { e with pend := nadd n e.pend }) s
    countAlert s (if isUnmasked t n then deliver n t else t)
  else s

/-- A pulse of a source (12 R363). -/
def pulse (n : Nat) (s : State) : State := setPend n s

/-- A pending bit is cleared (12 R364). -/
def dropPend (n : Nat) : State → State := modEvc fun e => { e with pend := ndel n e.pend }

/-- A level source that is still asserted is pending again (12 R363, R364). -/
def reassert (n : Nat) (s : State) : State := if isCondition n && !(srcCfg s n).edge && nhas s.evc.filt n then setPend n s else s

/-- A condition source's filtered level (12 R363). -/
def setLevel (n : Nat) (level : Bool) (s : State) : State :=
  let t := modEvc (fun e => { e with filt := if level then nadd n e.filt else ndel n e.filt }) s
  if level then (if nhas s.evc.filt n && (srcCfg s n).edge then t else setPend n t)
  else if (srcCfg s n).edge then t else modEvc (fun e => { e with pend := ndel n e.pend }) t

/-- A source is unmasked: a pending one is deliverable at once (12 R364). -/
def unmask (n : Nat) (s : State) : State :=
  if isUnmasked s n then s
  else
    let t := modEvc (fun e => { e with unmasked := nadd n e.unmasked }) s
    countAlert s (if isPending t n then deliver n t else t)

/-- A source is masked: its pending bit stays (12 R364). -/
def mask (n : Nat) : State → State := modEvc fun e => { e with unmasked := ndel n e.unmasked }

/-- A management message goes out, and MCTP_TX_DONE pulses (12 R362; 14 R416). -/
def mctpSend (code status inst : Nat) (payload : List Byte) (s : State) : State :=
  pulse srcMctpTxDone (mctpOut code status inst payload s)

/-- A management message is received: MCTP_RX pulses (12 R362). -/
def mctpGot (s : State) : State := pulse srcMctpRx s

/-! ### Delivery to a processor (12 R367-R369) -/

/-- Pending, unmasked sources of a target. -/
def ready (s : State) (t : Nat) : List Nat := s.evc.pend.filter fun n => isUnmasked s n && (srcCfg s n).target == t

/-- The source the controller chooses: highest PRIORITY, then lowest number. -/
def chosen (s : State) (t : Nat) : Option Nat :=
  (ready s t).foldl (fun best n =>
    match best with
    | none => some n
    | some m => if (srcCfg s m).prio < (srcCfg s n).prio then some n else some m) none

/-- The chosen source may be delivered now: interrupt enable on, priority above LEVEL, and no moderation gap in its way. -/
def deliverable (s : State) (t : Nat) : Option Nat :=
  match chosen s t with
  | none => none
  | some n =>
    let x := getTgt s t
    let p := (srcCfg s n).prio
    if x.mie && (match x.levels with | [] => true | l :: _ => decide (l < p)) && (!x.inGap || x.sleeping || decide (4 ≤ p)) then some n else none

/-! ### The firmware's routing (12 R445) -/

def route (n target fn index prio filter : Nat) (edge unm : Bool) (s : State) : State :=
  let t := modEvc (fun e => { e with src := tset {} n { filter := filter, edge := edge, prio := prio, target := target, index := index, fn := fn } e.src }) s
  if unm then unmask n t else t

/-- Sources that the firmware routes to the Caller, with their priority. -/
def callerRoutes : List (Nat × Nat) :=
  [(0x002, 7), (0x003, 6), (0x004, 7), (0x005, 6), (0x006, 6), (0x007, 7), (0x008, 5), (0x009, 7), (0x00A, 5), (0x00B, 3),
   (0x00C, 5), (0x00F, 6), (0x013, 5), (0x014, 5)] ++
  (List.range 8).flatMap (fun d => [(srcDie d 0, 5), (srcDie d 1, 5), (srcDie d 2, 3), (srcDie d 3, 3), (srcDie d 4, 3), (srcDie d 5, 3), (srcDie d 6, 5)]) ++
  (List.range 18).map (fun n => (srcPort n, 3)) ++ [(0x0A1, 3)]

/-- The routing and target registers that the Caller firmware writes when it first runs. -/
def firmwareRouting (s : State) : State :=
  let s := [0x000, 0x001, 0x00D, 0x00E, 0x011, 0x012, 0x0A0].foldl (fun s n => route n 10 0 0 0 1 false false s) s
  let s := callerRoutes.foldl (fun s (n, p) => route n 1 0 n p (if isCondition n then 10 else 1) (isCondition n) true s) s
  let s := route 0x015 11 0 0 0 1 false true s
  let s := modTgt 1 (fun t => { t with base := 0x0800, gap := 100, mie := true, sleeping := true }) s
  (List.range 8).foldl (fun s d => modTgt (d + 2) (fun t => { t with base := 0x0007, gap := 100 }) s) s

end Sys2Proof.Machine
end

