-- ==== Sys2Proof/Machine/FaultRec.lean ====
section
/-! DEFINITION. Fault codes, policies and records (11 R329-R334, R446): what a fault writes into the logs. -/
namespace Sys2Proof.Machine

/-- The codes of 11 R333 with their default action and SCOPE. -/
def faultTable : List (Nat × Nat × Nat) :=
  [(0x0101, 0, 1), (0x0102, 3, 2), (0x0103, 4, 0), (0x0104, 4, 1), (0x0105, 0, 0), (0x0106, 3, 2),
   (0x0201, 0, 2), (0x0202, 0, 2), (0x0203, 3, 2), (0x0204, 3, 2), (0x0205, 1, 3), (0x0206, 4, 2),
   (0x0301, 6, 5), (0x0302, 6, 5), (0x0303, 6, 5), (0x0304, 6, 5), (0x0305, 6, 5),
   (0x0401, 1, 3), (0x0402, 1, 3), (0x0403, 1, 3), (0x0404, 0, 3), (0x0405, 0, 3), (0x0406, 0, 0), (0x0407, 0, 0),
   (0x0501, 1, 3), (0x0502, 1, 3), (0x0503, 0, 3), (0x0504, 7, 0), (0x0505, 2, 1), (0x0506, 0, 0),
   (0x0601, 6, 5), (0x0602, 6, 5), (0x0603, 0, 3),
   (0x0701, 0, 4), (0x0702, 1, 4), (0x0703, 1, 3), (0x0704, 0, 2), (0x0705, 0, 2), (0x0706, 0, 2), (0x0707, 1, 3), (0x0708, 1, 3)] ++
  [(0x0801, 0, 1), (0x0802, 0, 1), (0x0803, 5, 0), (0x0804, 0, 2), (0x0805, 0, 0), (0x0806, 0, 1), (0x0807, 5, 0), (0x0808, 5, 0),
   (0x0901, 7, 0), (0x0902, 4, 0), (0x0903, 4, 0)]

/-- A code's default action; 0 for a number that is no code. -/
def defaultAction (code : Nat) : Nat := ((faultTable.find? fun e => e.1 == code).map fun e => e.2.1).getD 0

/-- A code's SCOPE. -/
def codeScope (code : Nat) : Nat := ((faultTable.find? fun e => e.1 == code).map fun e => e.2.2).getD 0

def isFaultCode (code : Nat) : Bool := faultTable.any fun e => e.1 == code

/-- FLT_POLICY of a code: its action in force (11 R334). -/
def policyOf (s : State) (code : Nat) : Nat := tget (defaultAction code) s.flt.policy code

/-- Rank of an action: LOG, ROW, CONTEXT, ENGINE, PARTITION, MODULE, then POWER (11 R334). -/
def actionRank (a : Nat) : Nat :=
  match a with
  | 0 => 0
  | 6 => 1
  | 1 => 2
  | 2 => 3
  | 3 => 4
  | 4 => 5
  | _ => 6

/-- ENGINE of a record by code, where the code alone fixes it (11 R446). -/
def codeEngine (code : Nat) : Nat :=
  if [0x0201, 0x0202, 0x0203, 0x0204, 0x0205, 0x0106, 0x0301, 0x0302, 0x0303, 0x0304, 0x0305].contains code then 1
  else if code == 0x0404 then 2
  else if code == 0x0601 then 3
  else if code == 0x0602 then 4
  else if [0x0704, 0x0705, 0x0706, 0x0707, 0x0708].contains code then 5
  else 0

/-- A record of a code with its defaults: SCOPE, action in force and ENGINE. -/
def faultRec (s : State) (code index detail : Nat) : FaultRec :=
  { code := code, action := policyOf s code, scope := codeScope code, engine := codeEngine code, index := w32 index, detail := w32 detail }

/-- The record with a context, and with the context's partition, in scope. -/
def FaultRec.withCtx (r : FaultRec) (s : State) (c : Nat) : FaultRec := { r with ctx := some c, ptn := some (ptnOfCtx s c) }
def FaultRec.withPtn (r : FaultRec) (p : Nat) : FaultRec := { r with ptn := some p }
def FaultRec.withDie (r : FaultRec) (d : Nat) : FaultRec := { r with die := some d }
/-- QTR_VALID brings DIE_VALID (11 R330). -/
def FaultRec.withQtr (r : FaultRec) (q : Nat) : FaultRec := { r with qtr := some q, die := some (q / 4) }
def FaultRec.withRing (r : FaultRec) (n : Nat) : FaultRec := { r with ring := some n }
def FaultRec.withRow (r : FaultRec) (n : Nat) : FaultRec := { r with row := some n }
def FaultRec.withEngine (r : FaultRec) (e : Nat) : FaultRec := { r with engine := e }

/-- Two records name the same thing (11 R331); QUARTER_WITHHELD of two sets never does (01 R33). -/
def sameFault (a b : FaultRec) : Bool :=
  a.code == b.code && (a.code != 0x0101 || a.index == b.index) && a.scope == b.scope && a.ctx == b.ctx && a.ptn == b.ptn && a.qtr == b.qtr &&
    a.die == b.die && a.ring == b.ring && a.row == b.row

/-- A log, newest first, of at most `cap` records, with a record added or coalesced into the newest one within 1 ms, which
is 100,000 C0 cycles (11 R331); answers the log and whether a new record was written. -/
def addRecord (cap seq now : Nat) (r : FaultRec) (log : List FaultRec) : List FaultRec × Bool :=
  match log with
  | n :: rest =>
    if r.action == 0 && sameFault n r && decide (now - n.time ≤ 100000) then ({ n with count := satAdd 8 n.count 1 } :: rest, false)
    else (({ r with seq := w32 seq, time := now } :: log).take cap, true)
  | [] => ([{ r with seq := w32 seq, time := now }], true)

/-- The module log's entry. -/
def logModule (r : FaultRec) (s : State) : State :=
  let x := addRecord 4096 s.flt.seq s.time r s.flt.log
  modFlt (fun f => { f with log := x.1, seq := if x.2 then f.seq + 1 else f.seq }) s

/-- A partition log's entry. -/
def logPtn (p : Nat) (r : FaultRec) (s : State) : State :=
  let f := (getPtn s p).flt
  let x := addRecord 256 f.seq s.time r f.log
  modPFlt p (fun f => { f with log := x.1, seq := if x.2 then f.seq + 1 else f.seq }) s

/-- A fault is recorded and signalled (11 R329): in the module log, in its partition's log unless it is VF_ACCESS, and at
the partition's fault source or the module's. -/
def recordFault (r : FaultRec) (s : State) : State :=
  let s := logModule r s
  match r.ptn with
  | some p => if r.code == 0x0506 then pulse srcModuleFault s else pulse (srcPtn p 1) (logPtn p r s)
  | none => pulse srcModuleFault s

/-- The fault's context, if valid, as a field (11 R330). -/
def optField (o : Option Nat) : Nat := o.getD 0

/-- A record's eight words (11 R330). -/
def faultWords (r : FaultRec) : List Nat :=
  [pack [(0, 16, r.code), (16, 3, r.action), (19, 1, b2n r.escalated), (20, 3, r.scope), (24, 8, r.count)],
   r.seq,
   pack [(0, 12, optField r.ctx), (12, 5, optField r.ptn), (17, 5, optField r.qtr), (22, 3, optField r.die), (25, 1, b2n r.ctx.isSome),
         (26, 1, b2n r.ptn.isSome), (27, 1, b2n r.qtr.isSome), (28, 1, b2n r.die.isSome)],
   pack [(0, 15, optField r.ring), (15, 1, b2n r.ring.isSome), (16, 12, optField r.row), (28, 1, b2n r.row.isSome), (29, 3, r.engine)],
   r.index, r.detail, w32 r.time, r.time / 2 ^ 32]

end Sys2Proof.Machine
end

