-- ==== Sys2Proof/Machine/Operands.lean ====
section
/-! DEFINITION. The operands of a ring-command entry (08 R244, R246): words 2-15 and their fields, and the checks that
unused words and reserved bits are 0. Word numbers are those of the 16-word entry. -/
namespace Sys2Proof.Machine

/-- Word `n` (2-15) of an entry's operands; an absent word reads 0. -/
def opw (ops : List Word) (n : Nat) : Nat := (ops.getD (n - 2) 0).toNat

/-- A bit field of operand word `n`. -/
def opf (ops : List Word) (n lo w : Nat) : Nat := bits (opw ops n) lo w

/-- The 64-bit operand in words `n` and `n + 1`. -/
def opd (ops : List Word) (n : Nat) : Nat := opw ops n + 2 ^ 32 * opw ops (n + 1)

/-- Every operand bit outside the listed (word, low bit, width) fields is 0 (08 R244: unused words must be 0). -/
def opsOnly (ops : List Word) (fields : List (Nat × Nat × Nat)) : Bool :=
  (List.range 14).all fun k =>
    let n := k + 2
    let used := (fields.filter fun f => f.1 == n).foldl (fun m f => m ||| ((2 ^ f.2.2 - 1) * 2 ^ f.2.1)) 0
    opw ops n &&& (2 ^ 32 - 1 - used) == 0

/-- The fields of each opcode's operands (08 R246), for `opsOnly`. -/
def opFields (opcode : Nat) : List (Nat × Nat × Nat) :=
  match opcode with
  | 0x10 => [(2, 0, 3), (4, 0, 32), (5, 0, 32), (6, 0, 32)]
  | 0x11 | 0x12 | 0x15 => [(2, 0, 3)]
  | 0x16 => [(2, 0, 32), (4, 0, 32), (5, 0, 32)]
  | 0x18 => [(4, 0, 32), (5, 0, 32), (6, 0, 32)]
  | 0x20 => [(2, 0, 6), (4, 0, 32), (5, 0, 32), (6, 0, 32), (7, 0, 32)]
  | 0x21 => [(2, 0, 6), (3, 0, 16)]
  | 0x22 => [(2, 0, 6), (3, 0, 13), (4, 0, 32), (5, 0, 32)]
  | 0x23 => [(2, 0, 6), (2, 8, 1)]
  | 0x28 => [(2, 0, 32), (3, 0, 32), (4, 0, 32), (5, 0, 32)]
  | 0x29 => [(2, 0, 32), (3, 0, 32)]
  | 0x30 => [(2, 0, 16), (3, 0, 32), (4, 0, 32), (6, 0, 32), (7, 0, 32), (8, 0, 32), (9, 0, 32), (10, 0, 32), (11, 0, 32), (12, 0, 32)]
  | 0x31 | 0x33 | 0x41 | 0x46 | 0x51 => [(2, 0, 16)]
  | 0x32 => [(2, 0, 16), (3, 0, 32), (4, 0, 32), (5, 0, 32), (6, 0, 32)]
  | 0x40 => [(2, 0, 16), (3, 0, 32), (4, 0, 32), (6, 0, 32), (7, 0, 32), (8, 0, 32), (9, 0, 32), (10, 0, 32), (11, 0, 32)]
  | 0x42 => [(2, 0, 16), (3, 0, 26), (4, 0, 13), (6, 0, 32), (7, 0, 32)]
  | 0x43 => [(2, 0, 16), (3, 0, 26), (4, 0, 27), (5, 0, 9)]
  | 0x44 => [(2, 0, 16), (3, 0, 26), (4, 0, 27), (5, 0, 2)]
  | 0x45 => [(2, 0, 16), (3, 0, 16), (4, 0, 17), (6, 0, 32), (7, 0, 32)]
  | 0x50 => [(2, 0, 16), (4, 0, 32), (5, 0, 32), (6, 0, 32)]
  | _ => []

/-- The operands hold nothing outside their opcode's fields (08 R244, R248 FORMAT). -/
def opsClean (opcode : Nat) (ops : List Word) : Bool := opsOnly ops (opFields opcode)

end Sys2Proof.Machine
end

