-- ==== Sys2Proof/Machine/RingOps.lean ====
section
/-! DEFINITION. Rings (08 R238-R249, 09 R289-R294): starting commands, writing completions, records and indices, and
signalling the rings' vectors. -/
namespace Sys2Proof.Machine

/-- Entries of a ring. -/
def ringSize (x : Ring) : Nat := 2 ^ x.cur.size

/-- Entries in a ring. -/
def ringUsed (x : Ring) : Nat := diff32 x.tail x.head

/-- A ring is full when its indices differ by its size. -/
def ringFull (x : Ring) : Bool := decide (ringSize x ≤ ringUsed x)

def ringFree (x : Ring) : Nat := ringSize x - ringUsed x

/-- The function through which a ring is reached (08 R235). -/
def ringFn (s : State) (r : Nat) : Nat := ptnFn s (getRing s r).ptn

/-- The module can reach a ring: it is enabled and its function may perform DMA. -/
def ringReach (s : State) (r : Nat) : Bool := (getRing s r).cur.enable && canDma s (ringFn s r)

/-- The PHASE bit of an index (08 R242). -/
def phaseOf (x : Ring) (i : Nat) : Nat := 1 - i / ringSize x % 2

/-- The module's index of a ring goes to its write-back address, if one is set (08 R242). -/
def writeBack (r idx : Nat) (s : State) : State :=
  let x := getRing s r
  if x.cur.wb = 0 then s else hostWrite x.cur.wb (leBytes 4 idx) s

/-- One 32 B entry at a ring's TAIL, which then advances; the entry is written before the index (08 R242). -/
def putEntry (r : Nat) (bytes : List Byte) (s : State) : State :=
  let x := getRing s r
  let s := hostWrite (x.cur.base + x.tail % ringSize x * 32) bytes s
  let s := modRing r (fun x => { x with tail := w32 (x.tail + 1) }) s
  writeBack r (w32 (x.tail + 1)) s

/-- A ring with NOTIFY signals its vector; `idle` is judged just before its entries (12 R371). -/
def signalRing (r : Nat) (idle : Bool) (s : State) : State :=
  let x := getRing s r
  if x.cur.notify then signalHost (ringFn s r) x.cur.vector idle none s else s

/-- Idleness of a ring's vector now. -/
def ringIdleNow (s : State) (r : Nat) : Bool := vecRingsIdle s (ringFn s r) (getRing s r).cur.vector

/-! ### Completions -/

/-- A completion's bytes (08 R247). -/
def compBytes (tag status detail opcode result info idx ring phase time : Nat) : List Byte :=
  wordsBytes [tag, pack [(0, 8, status), (8, 8, detail), (16, 8, opcode)], w32 result, w32 info, w32 idx,
    pack [(0, 15, ring), (31, 1, phase)], w32 time, time / 2 ^ 32]

/-- The completion of a finished command goes into its completion ring, which has room; the ring signals when the
command had NOTIFY set (08 R242, R247). -/
def putCompletion (r : Nat) (c : Cmd) (s : State) : State :=
  let cr := (getRing s r).cur.comp
  let x := getRing s cr
  let idle := ringIdleNow s cr
  let s := putEntry cr (compBytes c.tag c.status c.detail c.opcode c.result c.info c.idx r (phaseOf x x.tail) s.time) s
  if c.notify then signalRing cr idle s else s

/-- An entry of a ring that the host has not consumed. -/
def ringHas (x : Ring) (idx : Nat) : Bool := decide (diff32 idx x.head < ringUsed x)

/-- A RESET entry at a ring's TAIL, which the module keeps until the host has consumed it, to write it again when its DMA fails (11 R345). -/
def putResetEntry (r : Nat) (bytes : List Byte) (s : State) : State :=
  let at_ := (getRing s r).tail
  modRing r (fun x => { x with resetEnts := (x.resetEnts.filter fun e => ringHas x e.1) ++ [(at_, bytes, false)] }) (putEntry r bytes s)

/-- RESET entries whose DMA has failed are written again (11 R345). -/
def retryResets (r : Nat) (s : State) : State :=
  let x := getRing s r
  if x.dmaErr then (x.resetEnts.filter fun e => e.2.2 && ringHas x e.1).foldl (fun s e => hostWrite (x.cur.base + e.1 % ringSize x * 32) e.2.1 s) s else s

/-- The one RESET completion of a ring and reset (08 R247, R262). -/
def putReset (r : Nat) (c : ResetComp) (s : State) : State :=
  let cr := (getRing s r).cur.comp
  let x := getRing s cr
  let idle := ringIdleNow s cr
  let s := putResetEntry cr (compBytes 0 0x1F c.level 0 c.count c.cause c.first r (phaseOf x x.tail) s.time) s
  signalRing cr idle s

/-- RESET completions held for a command ring go out while its completion ring can take them (11 R345). -/
def flushResets (r : Nat) (doorbell : Bool) (s : State) : State :=
  (getRing s r).resets.foldl (fun s c =>
    let cr := (getRing s r).cur.comp
    let x := getRing s r
    if x.resets.head? = some c ∧ ringReach s cr = true ∧ ringFull (getRing s cr) = false ∧ (c.needDb = false ∨ doorbell = true) then
      putReset r c (modRing r (fun x => { x with resets := x.resets.tail }) s)
    else s) s

/-- A RESET completion for a command ring: written, or held (11 R345). -/
def addReset (r : Nat) (c : ResetComp) (s : State) : State :=
  flushResets r false (modRing r (fun x => { x with resets := x.resets ++ [c] }) s)

/-! ### Starting and ending commands (08 R244, R249, R260) -/

/-- A fence of the ring has not completed. -/
def fenceOpen (x : Ring) : Bool := x.started.any fun c => c.opcode == 1 && !c.gone

/-- The ring's front-end may start the entry at HEAD. -/
def canStart (s : State) (r : Nat) : Bool :=
  let x := getRing s r
  isReady s && x.cur.enable && x.cur.type == 0 && decide (x.head ≠ x.tail) && decide (x.started.length < 64) && !fenceOpen x &&
    !ringFull (getRing s x.cur.comp) && canDma s (ringFn s r) && decide ((getCtx s x.cur.ctx).st = .enabled) &&
    decide ((getPtn s x.ptn).reset = none)

/-- The command at the ring's HEAD, as it starts. -/
def newCmd (s : State) (e : Entry) (opcode : Nat) : Cmd :=
  let x := getRing s e.ring.val
  { ring := e.ring.val, idx := x.head, ctx := x.cur.ctx, ptn := ptnOfCtx s x.cur.ctx, opcode := opcode, tag := e.tag.toNat,
    notify := e.notify, ops := e.ops }

/-- A command starts: the front-end reads its entry and advances HEAD (08 R242, R244). -/
def startCmd (c : Cmd) (s : State) : State :=
  let s := modRing c.ring (fun x => { x with started := x.started ++ [c], head := w32 (x.head + 1) }) s
  writeBack c.ring (getRing s c.ring).head s

/-- A started command of a ring. -/
def getCmd (s : State) (r idx : Nat) : Option Cmd := (getRing s r).started.find? fun c => c.idx == idx && !c.gone

def modCmd (r idx : Nat) (g : Cmd → Cmd) : State → State :=
  modRing r fun x => { x with started := lmodFirst (fun c => c.idx == idx && !c.gone) g x.started }

/-- A command's work ends with a status and a result; its completion is written in ring order later (08 R248, OP-2). -/
def endCmd (r idx status result : Nat) : State → State :=
  modCmd r idx fun c => { c with phase := .done, status := status, result := w32 result, todo := [] }

/-- A figure command that fails a loader check: DETAIL and INFO as in FIG_ERR (08 R247, R248). -/
def endFigure (r idx code info : Nat) : State → State :=
  modCmd r idx fun c => { c with phase := .done, status := 0x0F, detail := code, info := info }

/-- Run the meaning `go` of a command if the ring can start it, after its header and operand words are checked. -/
def runEntry (e : Entry) (opcode : Nat) (s : State) (go : Cmd → State → State) : State :=
  if canStart s e.ring.val then
    let c := newCmd s e opcode
    let s := startCmd c s
    if e.hdr ≠ 0 then endCmd c.ring c.idx 0x01 0 s
    else if opsClean opcode e.ops then go c s
    else endCmd c.ring c.idx 0x02 0 s
  else s

/-- Commands of a context that have started and are neither written nor removed, as (ring, command). -/
def cmdsOfCtx (s : State) (c : Nat) : List Cmd := s.rings.flatMap fun e => e.2.started.filter fun x => x.ctx == c && !x.gone

/-- All started commands that are neither written nor removed. -/
def allCmds (s : State) : List Cmd := s.rings.flatMap fun e => e.2.started.filter fun x => !x.gone

/-! ### Token records (09 R289-R294) -/

/-- A token record's bytes (09 R289). -/
def recBytes (k : TokRec) (phase time : Nat) : List Byte :=
  wordsBytes [w32 k.request, w32 k.seq, pack [(0, 4, k.type), (4, 8, k.flags), (12, 6, k.batch), (18, 12, k.row), (31, 1, phase)],
    w32 k.value, pack [(0, 24, k.pos)], w32 k.detail, w32 time, time / 2 ^ 32]

/-- A record goes into its token ring, which has room. -/
def putRec (r : Nat) (k : TokRec) (s : State) : State :=
  let x := getRing s r
  let bs := recBytes k (phaseOf x x.tail) s.time
  if k.type = 7 then putResetEntry r bs s else putEntry r bs s

/-- A token ring can take a record now. -/
def recRoom (s : State) (r : Nat) : Bool := ringReach s r && !ringFull (getRing s r)

/-- A row's record of this type is pending, so that a second one is not made (09 R294); tokens always fit (R293), and each RESET record
is promised (08 OP-7; log 63). -/
def recHeld (x : Ring) (k : TokRec) : Bool := k.type != 1 && k.type != 7 && x.recs.any fun j => j.type == k.type && j.batch == k.batch && j.row == k.row

/-- A record of a row: written, or held pending behind the row's earlier pending records (09 R294). Signals are the caller's. -/
def makeRec (r : Nat) (k : TokRec) (s : State) : State :=
  let x := getRing s r
  if x.recs.all (fun j => !(j.batch == k.batch && j.row == k.row)) && recRoom s r && !k.needDb then putRec r k s
  else modRing r (fun x => { x with recs := x.recs ++ [k] }) s

/-- The ring's oldest pending record, written once there is room; it signals, as every record outside a boundary does. -/
def flushOneRec (r : Nat) (s : State) : State :=
  match (getRing s r).recs with
  | [] => s
  | k :: _ =>
    if recRoom s r && !k.needDb then
      let idle := ringIdleNow s r
      signalRing r idle (putRec r k (modRing r (fun x => { x with recs := x.recs.tail }) s))
    else s

/-- A record outside a batch step boundary: made, and signalled when it was written (09 R292). -/
def makeRecNow (r : Nat) (k : TokRec) (s : State) : State :=
  let idle := ringIdleNow s r
  let t := makeRec r k s
  if (getRing t r).tail = (getRing s r).tail then t else signalRing r idle t

/-- Rings for which the change in progress has made records. -/
def madeRings (s : State) : List Nat := (s.rings.filter fun e => !e.2.made.isEmpty).map (·.1)

def clearMade (r : Nat) : State → State := modRing r fun x => { x with made := [] }

/-- A boundary's records reach a ring in ascending row order, and its vector is signalled once, after the last (09 R291, R292). -/
def boundaryRecs (r : Nat) (s : State) : State :=
  let idle := ringIdleNow s r
  let t := (sortBy (fun (a b : TokRec) => decide (a.row ≤ b.row)) (getRing s r).made).foldl (fun t k => makeRec r k t) (clearMade r s)
  if (getRing t r).tail = (getRing s r).tail then t else signalRing r idle t

/-- A batch step boundary's phases, and then its records (09 R291, R292). -/
def withRingSignals (act : State → State) (s : State) : State := let t := act s; (madeRings t).foldl (fun t r => boundaryRecs r t) t

/-- A change outside a boundary, and then its records, each of which signals (09 R292). -/
def eachSignals (act : State → State) (s : State) : State :=
  let t := act s
  (madeRings t).foldl (fun t r => (getRing t r).made.foldl (fun t k => makeRecNow r k t) (clearMade r t)) t

end Sys2Proof.Machine
end

