-- ==== Sys2Proof/Machine/MemOps.lean ====
section
/-! DEFINITION. The three tiers (07): physical pages and lines, page maps, placement, allocation, access checks, and reads
and writes of the object-addressed range. -/
namespace Sys2Proof.Machine

def pageBytes : Nat := 65536

/-! ### Physical pages (07 R203) -/

/-- Pages of one LPDDR5X package (00 R1, 07 R203). -/
def t2Pkg : Nat := if Config.is6T then 4194304 else 2097152

/-- First allocatable page of a unit of a tier, and how many the unit has: quarters of T0, stacks of T1, packages of T2. -/
def unitBase (t u : Nat) : Nat := if t = 0 then 8192 * u else if t = 1 then 1179648 * u + 8192 else t2Pkg * u + 2048
def unitCount (t : Nat) : Nat := if t = 0 then 8176 else if t = 1 then 1171456 else t2Pkg - 2048

/-- The unit that holds a physical page. -/
def unitOfPhys (t phys : Nat) : Nat := if t = 0 then phys / 8192 else if t = 1 then phys / 1179648 else phys / t2Pkg

/-- First spare page of a unit and the number of spares (07 R203); T0 has none. -/
def spareBase (t u : Nat) : Nat := if t = 1 then 1179648 * u + 7168 else t2Pkg * u + 1536
def spareCount (t : Nat) : Nat := if t = 1 then 1024 else if t = 2 then 512 else 0

def tierMem (m : MemUnit) (t : Nat) : Memory := if t = 0 then m.t0 else if t = 1 then m.t1 else m.t2
def tierBad (m : MemUnit) (t : Nat) : NSet := if t = 0 then m.bad0 else if t = 1 then m.bad1 else m.bad2
def tierUsedSet (m : MemUnit) (t : Nat) : NSet := if t = 0 then m.used0 else if t = 1 then m.used1 else m.used2
def tierRetired (m : MemUnit) (t : Nat) : NSet := if t = 0 then m.retired0 else if t = 1 then m.retired1 else m.retired2
def setTierMem (t : Nat) (x : Memory) (m : MemUnit) : MemUnit := if t = 0 then { m with t0 := x } else if t = 1 then { m with t1 := x } else { m with t2 := x }
def setTierBad (t : Nat) (x : NSet) (m : MemUnit) : MemUnit := if t = 0 then { m with bad0 := x } else if t = 1 then { m with bad1 := x } else { m with bad2 := x }
def setTierUsed (t : Nat) (x : NSet) (m : MemUnit) : MemUnit := if t = 0 then { m with used0 := x } else if t = 1 then { m with used1 := x } else { m with used2 := x }
def setTierRetired (t : Nat) (x : NSet) (m : MemUnit) : MemUnit := if t = 0 then { m with retired0 := x } else if t = 1 then { m with retired1 := x } else { m with retired2 := x }

/-- Pages on the retired list (07 R229). -/
def retiredCount (m : MemUnit) : Nat := m.retired0.length + m.retired1.length + m.retired2.length - m.unlisted.length

/-- Pages that are not free: in use or retired. -/
def unavailable (m : MemUnit) (t : Nat) : NSet := naddAll (tierRetired m t) (tierUsedSet m t)

/-- Free pages of a unit. -/
def unitFree (m : MemUnit) (t u : Nat) : Nat :=
  unitCount t - ((unavailable m t).filter fun p => decide (unitBase t u ≤ p) && decide (p < unitBase t u + unitCount t)).length

/-- The k-th number from `base` on that is not in a rising list. -/
def kthFree (base k : Nat) (busy : NSet) : Nat := busy.foldl (fun i u => if base ≤ u ∧ u ≤ i then i + 1 else i) (base + k)

/-- Bytes of a physical page. -/
def readPhys (m : MemUnit) (t phys off n : Nat) : List Byte := mread (tierMem m t) (phys * pageBytes + off) n

/-- A line of the byte range is poisoned. -/
def badPhys (m : MemUnit) (t phys off n : Nat) : Bool :=
  (tierBad m t).any fun l => decide (phys * 1024 + off / 64 ≤ l) && decide (l ≤ phys * 1024 + (off + n - 1) / 64)

/-- Bytes written into a physical page: poisoned data poison their lines, a clean write of a whole line clears its mark,
and a partial write leaves it (07 R228). -/
def writePhys (t phys off : Nat) (bs : List Byte) (poison : Bool) (m : MemUnit) : MemUnit :=
  if bs.isEmpty then m
  else
    let m := setTierMem t (mwrite (tierMem m t) (phys * pageBytes + off) bs) m
    let lines := (List.range 1024).filter fun l => decide (off / 64 ≤ l) && decide (l ≤ (off + bs.length - 1) / 64)
    if poison then setTierBad t (naddAll (lines.map fun l => phys * 1024 + l) (tierBad m t)) m
    else
      let whole := lines.filter fun l => decide (off ≤ 64 * l) && decide (64 * l + 64 ≤ off + bs.length)
      setTierBad t ((tierBad m t).filter fun l => !(whole.any fun k => phys * 1024 + k == l)) m

/-- A physical page cleared of data and marks. -/
def clearPhys (t phys : Nat) (m : MemUnit) : MemUnit :=
  setTierBad t ((tierBad m t).filter fun l => decide (l / 1024 ≠ phys)) (setTierMem t (mzero (tierMem m t) (phys * pageBytes) pageBytes) m)

/-- A page copied with its marks (07 R228). -/
def copyPhys (t phys t' phys' : Nat) (m : MemUnit) : MemUnit :=
  let cells := (tierMem m t).filter fun c => c.1 / pageBytes == phys
  let marks := (tierBad m t).filter fun l => l / 1024 == phys
  let m := clearPhys t' phys' m
  let m := setTierMem t' (cells.foldl (fun x c => mset (phys' * pageBytes + c.1 % pageBytes) c.2 x) (tierMem m t')) m
  setTierBad t' (naddAll (marks.map fun l => phys' * 1024 + l % 1024) (tierBad m t')) m

/-- A page leaves use; its contents go with it. -/
def releasePhys (t phys : Nat) (m : MemUnit) : MemUnit := clearPhys t phys (setTierUsed t (ndel phys (tierUsedSet m t)) m)

/-! ### Page maps (07 R210, R211) -/

def getPage (s : State) (p key : Nat) : PageEnt := tget {} (getPtn s p).mem.pages key
def modPage (p key : Nat) (g : PageEnt → PageEnt) : State → State := modPMem p fun m => { m with pages := tmod {} key g m.pages }

/-- Physical T0 pages of an entry: one, or one beneath every quarter under REPLICATE (07 R204). -/
def t0Phys (s : State) (p : Nat) (e : PageEnt) : List Nat :=
  match e.t0 with
  | none => []
  | some i => if e.t0Repl then (qtrsOf s p).map fun q => 8192 * q + i else [i]

/-- All copies of a page as (tier, physical page). -/
def allCopies (s : State) (p : Nat) (e : PageEnt) : List (Nat × Nat) :=
  (t0Phys s p e).map (fun i => (0, i)) ++ (e.t1.toList.map fun i => (1, i)) ++ (e.t2.toList.map fun i => (2, i))

/-- The copy a read takes (07 R211): beneath the reader's own quarter, the home or single T0 copy, T1, T2. -/
def readCopy (s : State) (p : Nat) (e : PageEnt) (q : Option Nat) : Option (Nat × Nat) :=
  let own := (t0Phys s p e).find? fun i => some (i / 8192) == q
  match own with
  | some i => some (0, i)
  | none => (allCopies s p e).head?

/-- Pages of a partition's copies in a tier, each replicated copy counted (07 R209). -/
def tierUse (s : State) (p t : Nat) : Nat :=
  ((getPtn s p).mem.pages.map fun e => if t = 0 then (t0Phys s p e.2).length else if t = 1 then e.2.t1.toList.length else e.2.t2.toList.length).sum

/-! ### Objects (07 R205, R206) -/

/-- Objects that hold addresses: VALID or CLEARING, as (id, entry). -/
def mappedObjs (s : State) (p : Nat) : List (Nat × Obj) := (getPtn s p).mem.objs.filter fun e => decide (e.2.st ≠ .free)

/-- The object at an address of a partition's range; addresses above 4 TiB are unmapped (07 R202). -/
def objAt (s : State) (p a : Nat) : Option (Nat × Obj) :=
  if 2 ^ 42 ≤ a then none
  else (mappedObjs s p).find? fun e => decide (e.2.base ≤ a) && decide (a < e.2.base + e.2.pages * pageBytes)

/-- Address ranges that hold VALID slot images, bound plans and maps, and bodies of VALID or RETIRING adapter and steering
entries of the partition's contexts (07 R206). -/
def lockedRanges (s : State) (p : Nat) : List (Nat × Nat) :=
  let x := getPtn s p
  (x.fig.slots.filter fun e => decide (e.2.st = .valid) || decide (e.2.st = .verifying)).map (fun e => (e.2.addr, e.2.size)) ++
  x.units.plans.flatMap (fun e => e.2.toList.map fun k => (k.addr, k.size)) ++
  x.att.maps.flatMap (fun e => e.2.toList.map fun k => (k.addr, k.size)) ++
  (s.adapters.filter fun e => decide (e.2.st ≠ .free) && ptnOfCtx s e.2.ctx == p).map (fun e => (e.2.body, e.2.bodySize)) ++
  (s.steers.filter fun e => decide (e.2.st ≠ .free) && ptnOfCtx s e.2.ctx == p).map (fun e => (e.2.base, e.2.layers * alignUp (e.2.width * (if e.2.fmt = 1 then 1 else 2)) 64))

/-- A page-aligned page is held by one of the ranges. -/
def pageLocked (s : State) (p a : Nat) : Bool :=
  let b := a / pageBytes * pageBytes
  (lockedRanges s p).any fun r => decide (r.1 < b + pageBytes) && decide (b < r.1 + r.2)

/-- A page is read-only (07 R206). -/
def pageRO (s : State) (p : Nat) (o : Obj) (a : Nat) : Bool := o.readOnly || decide (o.manifest ≠ 0) || pageLocked s p a

/-- Why an engine access of a context is refused: OBJ_ACCESS, OBJ_READ_ONLY or OBJ_UNMAPPED (07 R206). -/
def accessFault (s : State) (p c a : Nat) (write : Bool) : Option Nat :=
  match objAt s p a with
  | none => some 0x0403
  | some (_, o) =>
    if write then (if o.ctx ≠ c then some 0x0402 else if pageRO s p o a then some 0x0402 else none)
    else if o.ctx = c ∨ o.shared = true then none else some 0x0401

/-- The shard of an object that holds a page (07 R223). -/
def shardOf (o : Obj) (k : Nat) : Option (Nat × Shard) :=
  ((List.range o.shards.length).zip o.shards).find? fun e => decide (e.2.first ≤ k) && decide (k < e.2.first + e.2.pages)

/-- Tile-page number of an address, as a fault's DETAIL (11 R333). -/
def tilePage (a : Nat) : Nat := a / pageBytes

/-! ### Reading and writing the range -/

/-- The part of a range that lies in one page, page by page: (address, length), at most `fuel` pages. -/
def pageParts : Nat → Nat → Nat → List (Nat × Nat)
  | 0, _, _ => []
  | fuel + 1, a, n =>
    if n = 0 then []
    else
      let k := min n (pageBytes - a % pageBytes)
      (a, k) :: pageParts fuel (a + k) (n - k)

def rangeParts (a n : Nat) : List (Nat × Nat) := pageParts (n / pageBytes + 2) a n

/-- Data and poison of bytes within one mapped page. -/
def readPart (s : State) (p : Nat) (q : Option Nat) (a n : Nat) : List Byte × Bool :=
  match objAt s p a with
  | none => (List.replicate n 0, true)
  | some (o, x) =>
    let e := getPage s p (pageKey o ((a - x.base) / pageBytes))
    match readCopy s p e q with
    | none => (List.replicate n 0, false)
    | some (t, i) => if e.zero then (List.replicate n 0, false) else (readPhys s.mem t i (a % pageBytes) n, badPhys s.mem t i (a % pageBytes) n)

/-- Data and poison of a range, without access checks: what the host and the loader read (07 R211, R217). -/
def readRange (s : State) (p : Nat) (q : Option Nat) (a n : Nat) : List Byte × Bool :=
  (rangeParts a n).foldl (fun acc x => let y := readPart s p q x.1 x.2; (acc.1 ++ y.1, acc.2 || y.2)) ([], false)

/-- Every byte of a range lies in a mapped object. -/
def rangeMapped (s : State) (p a n : Nat) : Bool := (rangeParts a n).all fun x => (objAt s p x.1).isSome

/-- Every byte of a range lies in pages with a copy in T0 or T1. -/
def rangeNear (s : State) (p a n : Nat) : Bool :=
  (rangeParts a n).all fun x =>
    match objAt s p x.1 with
    | none => false
    | some (o, y) => let e := getPage s p (pageKey o ((x.1 - y.base) / pageBytes)); e.t0.isSome || e.t1.isSome

/-- A range holds a page in TRANSIT: a write to it waits until the page's map switches (07 R215). -/
def inTransit (s : State) (p a n : Nat) : Bool :=
  (rangeParts a n).any fun x => match objAt s p x.1 with | some (o, y) => (getPage s p (pageKey o ((x.1 - y.base) / pageBytes))).transit.isSome | none => false

/-- What an engine read finds: data, poison, refusals as (code, tile page), and shards that are not VERIFIED as
(object, shard). -/
structure Got where
  data   : List Byte
  poison : Bool
  refuse : List (Nat × Nat)
  unver  : List (Nat × Nat)
  objs   : List Nat
  deriving DecidableEq, Repr

/-- An engine's read for a context (07 R206, R225). -/
def engineRead (s : State) (p c : Nat) (q : Option Nat) (a n : Nat) : Got :=
  (rangeParts a n).foldl (fun g x =>
    match accessFault s p c x.1 false with
    | some f => { g with data := g.data ++ List.replicate x.2 0, poison := true, refuse := g.refuse ++ [(f, tilePage x.1)] }
    | none =>
      let y := readPart s p q x.1 x.2
      match objAt s p x.1 with
      | none => g
      | some (o, b) =>
        match shardOf b ((x.1 - b.base) / pageBytes) with
        | some (k, sh) =>
          if sh.st = .verified then { g with data := g.data ++ y.1, poison := g.poison || y.2, objs := nadd o g.objs }
          else { g with data := g.data ++ y.1, poison := true, unver := if g.unver.contains (o, k) then g.unver else g.unver ++ [(o, k)], objs := nadd o g.objs }
        | none => { g with data := g.data ++ y.1, poison := g.poison || y.2, objs := nadd o g.objs }) ⟨[], false, [], [], []⟩

/-- LAST_USE of the objects an engine read (07 R205). -/
def touchObjs (p : Nat) (os : List Nat) (s : State) : State := os.foldl (fun s o => modObj p o (fun x => { x with lastUse := s.time }) s) s

/-- Bytes written within one page, to every copy; a ZERO page is zero-filled first (07 R212, R217). -/
def writePart (p a : Nat) (bs : List Byte) (poison : Bool) (s : State) : State :=
  match objAt s p a with
  | none => s
  | some (o, x) =>
    let key := pageKey o ((a - x.base) / pageBytes)
    let e := getPage s p key
    let cs := allCopies s p e
    let m := if e.zero then cs.foldl (fun m c => clearPhys c.1 c.2 m) s.mem else s.mem
    let m := cs.foldl (fun m c => writePhys c.1 c.2 (a % pageBytes) bs poison m) m
    modPage p key (fun e => { e with zero := false }) { s with mem := m }

/-- Bytes written over a range, page by page, without access checks. -/
def writeRange (p a : Nat) (bs : List Byte) (poison : Bool) (s : State) : State :=
  (rangeParts a bs.length).foldl (fun s x => writePart p x.1 ((bs.drop (x.1 - a)).take x.2) poison s) s

/-- An engine's write for a context: refused parts are discarded and reported (07 R206). -/
def engineWrite (p c a : Nat) (bs : List Byte) (poison : Bool) (s : State) : State × List (Nat × Nat) :=
  (rangeParts a bs.length).foldl (fun (acc : State × List (Nat × Nat)) x =>
    match accessFault acc.1 p c x.1 true with
    | some f => (acc.1, acc.2 ++ [(f, tilePage x.1)])
    | none => (writePart p x.1 ((bs.drop (x.1 - a)).take x.2) poison acc.1, acc.2)) (s, [])

/-! ### Placement and allocation (07 R204, R209) -/

/-- A placement is valid for a tier (07 R204). -/
def placeValid (s : State) (p t mode place : Nat) : Bool :=
  match mode with
  | 0 => decide (t ≤ 2)
  | 1 => (t == 1 || t == 2) && decide (place < 8)
  | 2 => t == 0 && bit (getPtn s p).qtrs place
  | 3 => t == 0
  | _ => false

/-- The unit in which a page of an object lies, for the modes other than REPLICATE. -/
def placeUnit (s : State) (p t mode place k : Nat) : Nat :=
  let qs := qtrsOf s p
  if mode = 2 then place
  else if mode = 1 then (if t = 1 then place else 3 * place + k % 3)
  else if t = 0 then qs.getD (k % max 1 qs.length) 0
  else if t = 1 then k % 8 else k % 24

/-- Quarter-local T0 indices that are not free beneath some quarter of the partition. -/
def replBusy (s : State) (p : Nat) : NSet :=
  (unavailable s.mem 0).foldl (fun b i => if (qtrsOf s p).contains (i / 8192) then nadd (i % 8192) b else b) []

/-- Quota of a tier left to a partition, in pages; T0 has none of its own. -/
def quotaLeft (s : State) (p t : Nat) : Nat :=
  let m := (getPtn s p).mem
  if t = 1 then m.t1Quota - tierUse s p 1 else if t = 2 then m.t2Quota - tierUse s p 2 else 8176 * 32

/-- The tier has room for the pages `ks` of an object under the placement and the partition's quota. -/
def canPlace (s : State) (p t mode place : Nat) (ks : List Nat) : Bool :=
  if mode = 3 then decide (ks.length + ((replBusy s p).filter fun i => decide (i < 8176)).length ≤ 8176)
  else
    decide (ks.length ≤ quotaLeft s p t) &&
    (List.range 32).all fun u =>
      let n := (ks.filter fun k => placeUnit s p t mode place k == u).length
      n == 0 || decide (n ≤ unitFree s.mem t u)

/-- A free page of a unit is taken; which one is free (07 R204; log 1). -/
def takePage (t u : Nat) (s : State) : Nat × State :=
  let (k, s) := drawChoice (unitFree s.mem t u) s
  let i := kthFree (unitBase t u) k ((unavailable s.mem t).filter fun x => decide (unitBase t u ≤ x))
  (i, modMem (fun m => setTierUsed t (nadd i (tierUsedSet m t)) m) s)

/-- One quarter-local index is taken beneath every quarter of the partition. -/
def takeRepl (p : Nat) (s : State) : Nat × State :=
  let busy := (replBusy s p).filter fun i => decide (i < 8176)
  let (k, s) := drawChoice (8176 - busy.length) s
  let i := kthFree 0 k busy
  (i, modMem (fun m => setTierUsed 0 (naddAll ((qtrsOf s p).map fun q => 8192 * q + i) m.used0) m) s)

/-- A page of an object receives a copy in a tier under a placement. -/
def addCopy (p o t mode place k : Nat) (s : State) : State :=
  if mode = 3 then
    let (i, s) := takeRepl p s
    modPage p (pageKey o k) (fun e => { e with t0 := some i, t0Repl := true }) s
  else
    let (i, s) := takePage t (placeUnit s p t mode place k) s
    modPage p (pageKey o k) (fun e =>
      if t = 0 then { e with t0 := some i, t0Repl := false } else if t = 1 then { e with t1 := some i } else { e with t2 := some i }) s

/-- A page's copies in a tier are released. -/
def dropCopies (p key t : Nat) (s : State) : State :=
  let cs := (allCopies s p (getPage s p key)).filter fun c => c.1 == t
  let s := modMem (fun m => cs.foldl (fun m c => releasePhys c.1 c.2 m) m) s
  modPage p key (fun e => if t = 0 then { e with t0 := none, t0Repl := false } else if t = 1 then { e with t1 := none } else { e with t2 := none }) s

/-- All copies of an object's page are released and its entry with them. -/
def freePage (p key : Nat) (s : State) : State :=
  let cs := allCopies s p (getPage s p key)
  let s := modMem (fun m => cs.foldl (fun m c => releasePhys c.1 c.2 m) m) s
  modPage p key (fun _ => {}) s

/-- Copies of a page in a tier. -/
def hasCopy (e : PageEnt) (t : Nat) : Bool := if t = 0 then e.t0.isSome else if t = 1 then e.t1.isSome else e.t2.isSome

/-- The page's copy in a tier stands under a placement (07 R213). -/
def placedAs (s : State) (p t mode place k : Nat) (e : PageEnt) : Bool :=
  if t = 0 then
    (match e.t0 with
     | none => false
     | some i => if mode = 3 then e.t0Repl else !e.t0Repl && i / 8192 == placeUnit s p 0 mode place k)
  else if t = 1 then (match e.t1 with | none => false | some i => unitOfPhys 1 i == placeUnit s p 1 mode place k)
  else (match e.t2 with | none => false | some i => unitOfPhys 2 i == placeUnit s p 2 mode place k)

/-- An object's DIGEST field (07 R205, R224). -/
def digestOf (o : Obj) : Nat :=
  if o.shards.isEmpty then 0
  else if o.shards.any fun h => h.st == .failed then 3
  else if o.shards.all fun h => h.st == .verified then 2 else 1

/-- An object entry's sixteen words (07 R205). -/
def objWords (o : Obj) : List Nat :=
  [pack [(0, 2, match o.st with | .free => 0 | .valid => 1 | .clearing => 2), (2, 2, o.home), (4, 1, b2n o.pin), (5, 1, b2n o.shared),
      (6, 1, b2n o.readOnly), (7, 1, b2n o.copyUp), (8, 2, o.placeMode), (10, 5, o.place)],
   pack [(0, 12, o.ctx), (12, 3, o.fbKind), (16, 16, o.fbDeadline)],
   w32 o.base, o.base / 2 ^ 32, pack [(0, 26, o.pages - 1)], pack [(0, 16, o.fbShadow)], w32 o.manifest, o.manifest / 2 ^ 32,
   pack [(0, 2, digestOf o), (16, 16, min 65535 (o.shards.filter fun h => h.st == .failed).length)],
   w32 o.lastUse, o.lastUse / 2 ^ 32, 0, 0, 0, 0, 0]

/-- A page-map entry's four words (07 R210). -/
def pageWords (e : PageEnt) (ro : Bool) : List Nat :=
  [pack [(0, 18, e.t0.getD 0), (18, 1, b2n e.t0.isSome), (19, 1, b2n e.t0Repl), (20, 1, b2n e.zero), (21, 1, b2n e.transit.isSome), (22, 1, b2n ro)],
   pack [(0, 24, e.t1.getD 0), (24, 1, b2n e.t1.isSome)], pack [(0, 27, e.t2.getD 0), (27, 1, b2n e.t2.isSome)], 0]

end Sys2Proof.Machine
end

