-- ==== Sys2Proof/Machine/KvOps.lean ====
section
/-! DEFINITION. Page tables, token logs and the KV page pool (06 R186-R198). -/
namespace Sys2Proof.Machine

/-- A page table's header (06 R188). -/
structure KvTab where
  ctx        : Nat
  vclass     : Nat
  hasDrop    : Bool
  recomputing : Bool
  lh         : Nat
  blocks     : Nat
  fill       : Nat
  dropFrom   : Nat
  logAddr    : Nat
  logCap     : Nat
  logLen     : Nat
  lastUse    : Nat
  drops      : Nat
  deriving DecidableEq, Repr

/-- The header of the page table at a range address. -/
def readTab (s : State) (p a : Nat) : KvTab :=
  let h := (readRange s p none a 64).1
  { ctx := bits (wordAt h 0) 0 12, vclass := bits (wordAt h 0) 12 3, hasDrop := bit (wordAt h 0) 16, recomputing := bit (wordAt h 0) 17,
    lh := bits (wordAt h 1) 0 13, blocks := bits (wordAt h 1) 16 13, fill := bits (wordAt h 2) 0 24, dropFrom := bits (wordAt h 3) 0 13,
    logAddr := dwordAt h 4, logCap := bits (wordAt h 6) 0 24, logLen := bits (wordAt h 7) 0 24, lastUse := dwordAt h 8,
    drops := bits (wordAt h 10) 0 16 }

/-- The header written back; the module's fields change, the host's are rewritten as read. -/
def writeTab (p a : Nat) (t : KvTab) : State → State :=
  writeRange p a (wordsBytes
    [pack [(0, 12, t.ctx), (12, 3, t.vclass), (16, 1, b2n t.hasDrop), (17, 1, b2n t.recomputing)], pack [(0, 13, t.lh), (16, 13, t.blocks)],
     pack [(0, 24, t.fill)], pack [(0, 13, t.dropFrom)], w32 t.logAddr, t.logAddr / 2 ^ 32, pack [(0, 24, t.logCap)], pack [(0, 24, t.logLen)],
     w32 t.lastUse, t.lastUse / 2 ^ 32, min 65535 t.drops]) false

def modTab (p a : Nat) (g : KvTab → KvTab) (s : State) : State := writeTab p a (g (readTab s p a)) s

/-- Entry `e` of a page table as its word (06 R188). -/
def readEnt (s : State) (p a e : Nat) : Nat := leNat (readRange s p none (a + 64 + 4 * e) 4).1
def writeEnt (p a e w : Nat) : State → State := writeRange p (a + 64 + 4 * e) (leBytes 4 w) false
def entPage (w : Nat) : Nat := bits w 0 24
def entValid (w : Nat) : Bool := bit w 24
def entPoisoned (w : Nat) : Bool := bit w 26

/-- Token `y` of a log, and a token written to it (06 R189). -/
def readLog (s : State) (p la y : Nat) : Nat := leNat (readRange s p none (la + 4 * y) 4).1
/-- A log token lies in a poisoned line (07 R228). -/
def logBad (s : State) (p la y : Nat) : Bool := (readRange s p none (la + 4 * y) 4).2
def writeLog (p la y tok : Nat) : State → State := writeRange p (la + 4 * y) (leBytes 4 tok) false

/-- Positions of a KV page for a map's geometry (06 R186). -/
def kvP (d kvFmt : Nat) : Nat := 65536 / (2 * d * (if kvFmt = 4 then 2 else 1))

/-- Free pages of the pool (06 R201). -/
def poolFree (x : Att) : Nat := x.poolPages - x.poolUsed.length

/-- Pages promised to the partition's other contexts and not yet held by them (06 R192). -/
def promised (s : State) (p c : Nat) : Nat :=
  ((s.ctxs.filter fun e => e.1 != c && e.2.ptn == p && decide (e.2.st ≠ .disabled)).map fun e => e.2.reserve - e.2.held).sum

/-- An allocation of `n` pages for a context is permitted (06 R192). -/
def kvPermitted (s : State) (p c n : Nat) : Bool :=
  let x := getCtx s c
  decide (x.held + n ≤ max x.attCur.limit x.reserve) && decide (n + promised s p c ≤ poolFree (getPtn s p).att)

/-- A context's victim class as (eligible, order, keep first) (06 R201). -/
def victimClass (x : Ctx) (k : Nat) : Bool × Nat × Nat :=
  let w := tget 0 x.attCur.victim k
  (bit w 0, bits w 1 3, bits w 4 12)

/-- The entries of a block that are VALID, as entry numbers. -/
def validEnts (s : State) (p a : Nat) (t : KvTab) (b : Nat) : List Nat :=
  ((List.range t.lh).map fun k => b * t.lh + k).filter fun e => entValid (readEnt s p a e)

/-- The highest block at or above `keep` that holds pages. -/
def topBlock (s : State) (p a : Nat) (t : KvTab) (keep : Nat) : Option Nat :=
  ((List.range t.blocks).reverse.find? fun b => decide (keep ≤ b) && !(validEnts s p a t b).isEmpty)

/-- An entry that was taken from its sequence: DROPPED, without VALID and POISONED (06 R194, R195). -/
def dropMark (w : Nat) : Nat := setBit (clrBit (clrBit w 24) 26) 25

/-- Pages of entries return to the pool, and each entry becomes `mark` of itself (06 R194, R195, R198). -/
def returnPages (p c a : Nat) (es : List Nat) (mark : Nat → Nat) (s : State) : State :=
  es.foldl (fun s e =>
    let w := readEnt s p a e
    let s := modAtt p (fun x => { x with poolUsed := ndel (entPage w) x.poolUsed }) s
    let s := modCtx c (fun x => { x with held := x.held - 1 }) s
    writeEnt p a e (mark w) s) s

/-- A sequence that holds no page any more leaves its context's list (06 R194). -/
def leaveList (p a : Nat) (s : State) : State :=
  if (topBlock s p a (readTab s p a) 0).isSome then s else modAtt p (fun x => { x with seqs := x.seqs.filter fun e => e.2 != a }) s

/-- A victim's block is dropped (06 R194). -/
def dropBlock (p c a b : Nat) (s : State) : State :=
  let t := readTab s p a
  let s := leaveList p a (returnPages p c a (validEnts s p a t b) dropMark s)
  let s := modTab p a (fun t => { t with hasDrop := true, dropFrom := if t.hasDrop then min t.dropFrom b else b, drops := min 65535 (t.drops + 1) }) s
  let s := modCtx c (fun x => { x with drops := satAdd 32 x.drops 1 }) s
  modAtt p (fun x => { x with drops := satAdd 32 x.drops 1 }) s

/-- The victim for a context's allocation: lowest ORDER, oldest LAST_USE, lowest address (06 R194). -/
def victim (s : State) (p c a : Nat) (fresh : List Nat) : Option (Nat × Nat) :=
  let x := getCtx s c
  let cands := (getPtn s p).att.seqs.filterMap fun e =>
    if e.1 = c ∧ e.2 ≠ a ∧ ¬ fresh.contains e.2 then
      let t := readTab s p e.2
      let v := victimClass x t.vclass
      if v.1 && !t.recomputing then (topBlock s p e.2 t v.2.2).map fun b => (v.2.1, t.lastUse, e.2, b) else none
    else none
  let best := cands.foldl (fun m e =>
    match m with
    | none => some e
    | some f => if e.1 < f.1 ∨ (e.1 = f.1 ∧ (e.2.1 < f.2.1 ∨ (e.2.1 = f.2.1 ∧ e.2.2.1 < f.2.2.1))) then some e else m) none
  best.map fun e => (e.2.2.1, e.2.2.2)

/-- The partition's lists of sequences can take one (06 R194: at most 65,536 a partition). -/
def listRoom (s : State) (p c a : Nat) : Bool := let l := (getPtn s p).att.seqs; l.contains (c, a) || decide (l.length < 65536)

/-- Blocks are dropped until the allocation is permitted and its sequence can be listed; false when no candidate remains (06 R193, R194;
log 47). -/
def makeRoom : Nat → Nat → Nat → Nat → Nat → List Nat → State → Bool × State
  | 0, _, _, _, _, _, s => (false, s)
  | fuel + 1, p, c, a, n, fresh, s =>
    if kvPermitted s p c n && listRoom s p c a then (true, s)
    else
      match victim s p c a fresh with
      | none => (false, s)
      | some (va, b) => makeRoom fuel p c a n fresh (dropBlock p c va b s)

/-- Entries of a block without a VALID page. -/
def blockGaps (s : State) (p a b : Nat) : List Nat :=
  let t := readTab s p a
  ((List.range t.lh).map fun k => b * t.lh + k).filter fun e => !entValid (readEnt s p a e)

/-- An entry receives a free page of the pool; which one, log 1. -/
def takeKvPage (p a : Nat) (s : State) (e : Nat) : State :=
  let x := (getPtn s p).att
  let (k, s) := drawChoice (poolFree x) s
  let i := kthFree 0 k x.poolUsed
  writeEnt p a e (2 ^ 24 + i) (modAtt p (fun x => { x with poolUsed := nadd i x.poolUsed }) s)

/-- The entries of block `b` without a VALID page receive pages; the pages that could not be had, or 0 (06 R193, R197). -/
def allocBlock (p c a b : Nat) (fresh : List Nat) (s : State) : Nat × State :=
  let es := blockGaps s p a b
  if es.isEmpty then (0, s)
  else
    match makeRoom ((getPtn s p).att.poolUsed.length + 1) p c a es.length fresh s with
    | (false, s) => (es.length, s)
    | (true, s) =>
      let s := es.foldl (takeKvPage p a) s
      let s := modCtx c (fun x => { x with held := x.held + es.length }) s
      (0, modAtt p (fun x => { x with seqs := if x.seqs.contains (c, a) then x.seqs else x.seqs ++ [(c, a)] }) s)

/-- First missing position of a sequence, `P` positions a block (06 R196). -/
def missingFrom (t : KvTab) (P : Nat) : Nat := if t.hasDrop then t.dropFrom * P else t.fill

/-- The missing range is not empty (06 R196). -/
def hasMissing (t : KvTab) (P : Nat) : Bool := decide (missingFrom t P + 1 < t.logLen)

/-- RECOMPUTING of the sequences that a context's removed RECOMPUTE commands rebuilt is cleared (06 R200). -/
def clearRecomputing (c : Nat) (s : State) : State :=
  (cmdsOfCtx s c).foldl (fun s k =>
    if k.opcode = 0x28 ∧ k.phase ≠ .done then modTab k.ptn (opd k.ops 2) (fun t => { t with recomputing := false }) s else s) s

/-- Pages of a sequence all return to the pool; its entries, FILL and HAS_DROP clear (06 R198). -/
def releaseSeq (p c a : Nat) (s : State) : Nat × State :=
  let t := readTab s p a
  let es := (List.range (t.lh * t.blocks)).filter fun e => entValid (readEnt s p a e)
  let s := returnPages p c a es (fun _ => 0) s
  let s := (List.range (t.lh * t.blocks)).foldl (fun s e => writeEnt p a e 0 s) s
  let s := modTab p a (fun t => { t with fill := 0, hasDrop := false }) s
  (es.length, modAtt p (fun x => { x with seqs := x.seqs.filter fun e => e.2 != a }) s)

end Sys2Proof.Machine
end

