-- ==== Sys2Proof/Machine/ObjOps.lean ====
section
/-! DEFINITION. What the movers' commands do when their home mover serves them (07 R205-R210, R213, R223, R450; 08 R250): OBJ_SET,
OBJ_CLEAR and OBJ_QUERY as a whole; MIGRATE, EVICT, INTAKE and VERIFY check and deal their pages or shards to the movers. -/
namespace Sys2Proof.Machine

/-! ### Movers and their items -/

/-- The die whose mover handles a copy (07 R213 step 1). -/
def dieOfCopy (t phys : Nat) : Nat := if t = 0 then unitOfPhys 0 phys / 4 else if t = 1 then unitOfPhys 1 phys else unitOfPhys 2 phys / 3

/-- Pages a command names, as (tier, PLACE_MODE, PLACE) of MIGRATE or the tier of EVICT. -/
def migTarget (k : Cmd) : Nat × Nat × Nat := (opf k.ops 5 0 2, opf k.ops 5 2 2, opf k.ops 5 4 5)

/-- The command that an item serves, unless a reset removed it. -/
def itemCmd (s : State) (i : MoverItem) : Option Cmd := getCmd s i.ring i.idx

/-- A mover item's page no longer waits for its copy (07 R230). -/
def dropTransit (i : MoverItem) : State → State :=
  modPMem i.ptn fun m => { m with pages := if nhas (m.pages.map (·.1)) (pageKey i.obj i.unit) then tmod {} (pageKey i.obj i.unit) (fun e => { e with transit := none }) m.pages else m.pages }

/-! ### Checks before a command's own (07 R450) -/

/-- ACCESS or BUSY of a command other than OBJ_SET, after its FORMAT. -/
def objGate (s : State) (c : Cmd) (o : Nat) : Option Nat :=
  let x := getObj s c.ptn o
  if x.st = .free ∨ x.ctx ≠ c.ctx then some 3 else if x.st = .clearing then some 7 else none

/-- A command whose FORMAT, ACCESS and BUSY checks pass goes on with the named object. -/
def objCmd (bad : Cmd → Bool) (go : Cmd → Nat → State → State) (c : Cmd) (s : State) : State :=
  let o := opf c.ops 2 0 16
  if bad c then endCmd c.ring c.idx 2 0 s
  else match objGate s c o with
    | some st => endCmd c.ring c.idx st 0 s
    | none => go c o s

/-! ### Manifests (07 R223) -/

/-- Shards of a manifest's entries, or `none` when they break a rule. -/
def manifestShards (body : List Byte) (n pages : Nat) : Option (List Shard) :=
  let es := (List.range n).map fun i => slice body (48 * i) 48
  let r := es.foldl (fun (acc : Option (Nat × List Shard)) e =>
    acc.bind fun a =>
      let k := bits (wordAt e 1) 0 12 + 1
      if bits (wordAt e 0) 0 26 = a.1 ∧ bits (wordAt e 0) 26 6 = 0 ∧ bits (wordAt e 1) 12 20 = 0 ∧ wordAt e 2 = 0 ∧ wordAt e 3 = 0 then
        some (a.1 + k, a.2 ++ [⟨a.1, k, slice e 16 32, .pending⟩])
      else none) (some (0, []))
  r.bind fun a => if a.1 = pages then some a.2 else none

/-- The manifest at an address, as the owner may read it, unpoisoned; a failing one is a FORMAT (07 R208; log 22). -/
def readManifest (s : State) (p c a pages : Nat) : Option (List Shard) :=
  if a % 64 ≠ 0 ∨ rangeNear s p a 64 = false then none
  else
    let h := engineRead s p c none a 64
    let n := bits (wordAt h.data 1) 0 16 + 1
    if h.poison || wordAt h.data 0 != 0x54534E4D || bits (wordAt h.data 1) 16 16 != 0 || bits (wordAt h.data 2) 0 26 + 1 != pages ||
        bits (wordAt h.data 2) 26 6 != 0 || !allZero (h.data.drop 12) || !rangeNear s p a (64 + 48 * n) then none
    else
      let b := engineRead s p c none (a + 64) (48 * n)
      if b.poison then none else manifestShards b.data n pages

/-- Shards in the module's digest store. -/
def shardsHeld (s : State) : Nat :=
  (s.ptns.flatMap fun e => e.2.mem.objs.map fun o => o.2.shards.length).sum + (s.mem.retained.map fun r => r.obj.shards.length).sum

/-! ### OBJ_SET -/

/-- The entry that an OBJ_SET describes. -/
def objOfOps (c : Cmd) : Obj :=
  let w := opf c.ops
  { st := .valid, home := w 3 2 2, pin := bit (opw c.ops 3) 4, shared := bit (opw c.ops 3) 5, readOnly := bit (opw c.ops 3) 6, copyUp := bit (opw c.ops 3) 7,
    placeMode := w 3 8 2, place := w 3 10 5, ctx := c.ctx, fbKind := w 4 12 3, fbDeadline := w 4 16 16, base := opd c.ops 6, pages := w 8 0 26 + 1,
    fbShadow := w 9 0 16, manifest := opd c.ops 10 }

/-- Reserved bits and operands out of range of an OBJ_SET (07 R205, R450 step 1). -/
def objSetBad (c : Cmd) : Bool :=
  let x := objOfOps c
  decide (opf c.ops 3 15 17 ≠ 0) || decide (opf c.ops 4 15 1 ≠ 0) || decide (opf c.ops 8 26 6 ≠ 0) || decide (opf c.ops 9 16 16 ≠ 0) || x.home == 3 ||
    decide (x.base % 65536 ≠ 0) || decide (4 < x.fbKind)

/-- R208's FORMAT cases of the operands, which are checked last (R450 step 4). -/
def objRuleBad (s : State) (p : Nat) (x : Obj) : Bool :=
  !placeValid s p x.home x.placeMode x.place || decide (2 ^ 42 < x.base + x.pages * pageBytes) || (x.fbKind != 0 && x.fbDeadline == 0) ||
    (x.copyUp && !x.readOnly && x.manifest == 0)

/-- FORMAT of a FB_SHADOW (07 R208). -/
def shadowBad (s : State) (c : Cmd) (x : Obj) : Bool :=
  let y := getObj s c.ptn x.fbShadow
  x.fbKind == 1 && (decide (y.st ≠ .valid) || y.pages != x.pages || !y.pin || !(y.ctx == c.ctx || y.shared))

/-- A field other than PIN, SHARED and the fallback fields differs (07 R208). -/
def objChanged (x y : Obj) : Bool :=
  x.home != y.home || x.readOnly != y.readOnly || x.copyUp != y.copyUp || x.placeMode != y.placeMode || x.place != y.place ||
    x.base != y.base || x.pages != y.pages || x.manifest != y.manifest

/-- A range overlaps another object of the partition. -/
def objOverlap (s : State) (p : Nat) (x : Obj) : Bool :=
  (mappedObjs s p).any fun e => decide (e.2.base < x.base + x.pages * pageBytes) && decide (x.base < e.2.base + e.2.pages * pageBytes)

/-- OBJ_SET after its first checks (07 R208). -/
def objSetGo (c : Cmd) (o : Nat) (s : State) : State :=
  let p := c.ptn
  let x := objOfOps c
  let y := getObj s p o
  let fresh := decide (y.st = .free)
  let newMan := decide (x.manifest ≠ 0) && (fresh || x.manifest != y.manifest)
  let man := if newMan then readManifest s p c.ctx x.manifest x.pages else some []
  match man with
  | none => endCmd c.ring c.idx 2 0 s
  | some sh =>
    if objRuleBad s p x || shadowBad s c x then endCmd c.ring c.idx 2 0 s
    else if fresh then
      if objOverlap s p x then endCmd c.ring c.idx 4 0 s
      else if !canPlace s p x.home x.placeMode x.place (List.range x.pages) || decide (1048576 < shardsHeld s + sh.length) then endCmd c.ring c.idx 6 0 s
      else
        let s := modObj p o (fun _ => { x with shards := sh }) s
        endCmd c.ring c.idx 0 0 ((List.range x.pages).foldl (fun s k => addCopy p o x.home x.placeMode x.place k s) s)
    else if objChanged x y then endCmd c.ring c.idx 5 0 s
    else endCmd c.ring c.idx 0 0 (modObj p o (fun y => { y with pin := x.pin, shared := x.shared, fbKind := x.fbKind, fbDeadline := x.fbDeadline, fbShadow := x.fbShadow }) s)

/-- OBJ_SET (07 R207, R208, R450). -/
def objSet (c : Cmd) (s : State) : State :=
  let o := opf c.ops 2 0 16
  let y := getObj s c.ptn o
  if objSetBad c then endCmd c.ring c.idx 2 0 s
  else if y.st ≠ .free ∧ y.ctx ≠ c.ctx then endCmd c.ring c.idx 3 0 s
  else if y.st = .clearing then endCmd c.ring c.idx 7 0 s
  else objSetGo c o s

/-! ### MIGRATE and EVICT -/

/-- FORMAT of MIGRATE's and EVICT's operands alone. -/
def rangeBad (c : Cmd) : Bool := decide (opf c.ops 4 0 27 = 0 ∨ 67108864 < opf c.ops 4 0 27 ∨ opf c.ops 5 0 2 = 3)

/-- Pages a command names, ascending. -/
def pagesOf (c : Cmd) : List Nat := (List.range (opf c.ops 4 0 27)).map fun i => opf c.ops 3 0 26 + i

/-- Items join the queues of their movers, in order. -/
def putItems (is : List (Nat × MoverItem)) (s : State) : State := is.foldl (fun s e => modDie e.1 (fun x => { x with moverQ := x.moverQ ++ [e.2] }) s) s

/-- Items leave the movers' queues, without a page half-switched. -/
def takeItems (sel : MoverItem → Bool) (s : State) : State :=
  (List.range 8).foldl (fun s d =>
    let q := (getDie s d).moverQ
    (q.filter sel).foldl (fun s i => dropTransit i s) (modDie d (fun x => { x with moverQ := q.filter fun i => !sel i }) s)) s

/-- A command's pages or shards are handed to the movers; with none it ends. -/
def dealUnits (c : Cmd) (o : Nat) (us : List (Nat × Nat)) (s : State) : State :=
  if us.isEmpty then endCmd c.ring c.idx 0 0 s
  else putItems (us.map fun u => (u.1, ⟨c.ctx, c.ptn, c.ring, c.idx, o, u.2, false⟩)) (modCmd c.ring c.idx (fun k => { k with phase := .running, todo := us.map (·.2) }) s)

/-- MIGRATE: each page goes to the mover that holds the copy it is read from (07 R213). -/
def migrate (c : Cmd) (s : State) : State :=
  let t := migTarget c
  objCmd (fun c => rangeBad c || !placeValid s c.ptn t.1 t.2.1 t.2.2) (fun c o s =>
    if (getObj s c.ptn o).pages < opf c.ops 3 0 26 + opf c.ops 4 0 27 then endCmd c.ring c.idx 2 0 s
    else dealUnits c o ((pagesOf c).map fun k =>
      ((match readCopy s c.ptn (getPage s c.ptn (pageKey o k)) none with | some x => dieOfCopy x.1 x.2 | none => homeDie s c.ptn), k)) s) c s

/-- EVICT (07 R213). -/
def evict (c : Cmd) (s : State) : State :=
  objCmd rangeBad (fun c o s =>
    let t := opf c.ops 5 0 2
    let last (k : Nat) : Bool := let e := getPage s c.ptn (pageKey o k); hasCopy e t && ([0, 1, 2].all fun u => u == t || !hasCopy e u)
    if (getObj s c.ptn o).pages < opf c.ops 3 0 26 + opf c.ops 4 0 27 ∨ (pagesOf c).any last = true then endCmd c.ring c.idx 2 0 s
    else dealUnits c o ((pagesOf c).map fun k =>
      ((match (allCopies s c.ptn (getPage s c.ptn (pageKey o k))).find? fun x => x.1 == t with | some x => dieOfCopy x.1 x.2 | none => homeDie s c.ptn), k)) s) c s

/-! ### INTAKE and VERIFY -/

def modShard (p o i : Nat) (g : Shard → Shard) : State → State :=
  modObj p o fun x => { x with shards := ((List.range x.shards.length).zip x.shards).map fun e => if e.1 = i then g e.2 else e.2 }

def getShard (s : State) (p o i : Nat) : Option Shard := (getObj s p o).shards[i]?

/-- INTAKE (07 R207, R224, R451). -/
def intake (c : Cmd) (s : State) : State :=
  let f := opf c.ops 3 0 16
  let n := opf c.ops 4 0 17
  objCmd (fun c => decide (opd c.ops 6 % 4096 ≠ 0 ∨ n = 0)) (fun c o s =>
    let x := getObj s c.ptn o
    let mine := (List.range n).map fun i => f + i
    if x.shards.length < f + n then endCmd c.ring c.idx 2 0 s
    else if mine.any (fun i => match x.shards[i]? with | some h => decide (h.st = .verified) | none => false) then endCmd c.ring c.idx 3 0 s
    else dealUnits c o (mine.map fun i => (i % 8, i)) (mine.foldl (fun s i => modShard c.ptn o i (fun h => { h with st := .pending }) s) s)) c s

/-- VERIFY: every shard, ahead of other rechecks (07 R207, R230, R451). -/
def verify (c : Cmd) (s : State) : State :=
  objCmd (fun _ => false) (fun c o s =>
    let n := (getObj s c.ptn o).shards.length
    if n = 0 then endCmd c.ring c.idx 2 0 s else dealUnits c o ((List.range n).map fun i => (i % 8, i)) s) c s

/-! ### OBJ_CLEAR -/

/-- A saved command lies in the object (08 R256). -/
def holdsSave (s : State) (p o : Nat) : Bool :=
  (getPtn s p).fe.saved.any (fun v => v.area == some o) || (match (getPtn s p).fe.resume with | some v => v.area == some o | none => false)

/-- OBJ_CLEAR's BUSY: pages read-only for another reason, a shadow in use, or a save area that holds a command (07 R215; 08 R256). -/
def clearBusy (s : State) (p o : Nat) : Bool :=
  let x := getObj s p o
  ((lockedRanges s p).any fun r => decide (r.1 < x.base + x.pages * pageBytes) && decide (x.base < r.1 + r.2)) ||
  ((mappedObjs s p).any fun e => e.1 != o && decide (e.2.st = .valid) && e.2.fbKind == 1 && e.2.fbShadow == o) || holdsSave s p o

/-- Commands on the object that wait or run end with CANCELLED (07 R207). -/
def cancelObj (p o : Nat) (s : State) : State :=
  let mine := (allCmds s).filter fun k => k.ptn == p && decide (k.phase ≠ .done) && decide (0x43 ≤ k.opcode) && decide (k.opcode ≤ 0x46) && opf k.ops 2 0 16 == o
  takeItems (fun i => i.ptn == p && i.obj == o && !i.whole) (mine.foldl (fun s k => endCmd k.ring k.idx 9 k.progress s) s)

/-- OBJ_CLEAR: CLEARING until every page is released (07 R207). -/
def objClear (c : Cmd) (s : State) : State :=
  objCmd (fun _ => false) (fun c o s =>
    if clearBusy s c.ptn o then endCmd c.ring c.idx 7 0 s
    else modCmd c.ring c.idx (fun k => { k with phase := .running }) (cancelObj c.ptn o (modObj c.ptn o (fun x => { x with st := .clearing }) s))) c s

/-! ### OBJ_QUERY -/

/-- The destination is writable by the context, in T0 or T1 (07 R207). -/
def destOk (s : State) (p c a n : Nat) : Bool := rangeNear s p a n && (rangeParts a n).all fun x => (accessFault s p c x.1 true).isNone

/-- OBJ_QUERY: the entry, then one page-map entry per page (07 R207, R210). -/
def objQuery (c : Cmd) (s : State) : State :=
  objCmd (fun c => decide (opf c.ops 4 0 13 = 0 ∨ 4096 < opf c.ops 4 0 13 ∨ opd c.ops 6 % 64 ≠ 0))
    (fun c o s =>
      let x := getObj s c.ptn o
      let first := opf c.ops 3 0 26
      let n := opf c.ops 4 0 13
      if x.pages < first + n ∨ destOk s c.ptn c.ctx (opd c.ops 6) (64 + 16 * n) = false then endCmd c.ring c.idx 2 0 s
      else
        let ws := (List.range n).flatMap fun i => pageWords (getPage s c.ptn (pageKey o (first + i))) (pageRO s c.ptn x (x.base + (first + i) * pageBytes))
        endCmd c.ring c.idx 0 n (writeRange c.ptn (opd c.ops 6) (wordsBytes (objWords x ++ ws)) false s)) c s

/-! ### Service (08 R250) -/

/-- A command as its home mover serves it. -/
def serveObj (c : Cmd) (s : State) : State :=
  match c.opcode with
  | 0x40 => objSet c s
  | 0x41 => objClear c s
  | 0x42 => objQuery c s
  | 0x43 => migrate c s
  | 0x44 => evict c s
  | 0x45 => intake c s
  | 0x46 => verify c s
  | _ => s

/-- An OBJ_QUERY whose destination holds a page in TRANSIT waits for the page (07 R215). -/
def queryWaits (s : State) (c : Cmd) : Bool := c.opcode == 0x42 && inTransit s c.ptn (opd c.ops 6) (64 + 16 * opf c.ops 4 0 13)

end Sys2Proof.Machine
end

