-- ==== Sys2Proof/Machine/MoverOps.lean ====
section
/-! DEFINITION. The movers' queues (07 R213-R215, R250, R451): items, the page or shard in progress at the head of each queue,
copies and evictions. The items of EVICT, and pages that already stand as requested, are done when a mover reaches them;
the other items end with their own commands (log 22). -/
namespace Sys2Proof.Machine

/-- A page of a VALID or VERIFYING slot's image, which INSTALL pins (02 R64). -/
def slotPinned (s : State) (p a : Nat) : Bool :=
  (getPtn s p).fig.slots.any fun e => (decide (e.2.st = .valid) || decide (e.2.st = .verifying)) && decide (e.2.addr < a + pageBytes) && decide (a < e.2.addr + e.2.size)

/-- Copies of a page beneath the units that an eviction must relieve, which are not its only ones and not pinned (02 R64; 07 R214). -/
def evictable (s : State) (p t mode place k o key : Nat) : Bool :=
  let e := getPage s p key
  let x := getObj s p o
  decide (x.st = .valid) && x.copyUp && !x.pin && !slotPinned s p (x.base + key % 2 ^ 26 * pageBytes) && hasCopy e t && decide (e.transit = none) &&
  ([0, 1, 2].any fun u => u != t && hasCopy e u) &&
  (t != 0 || mode == 3 || (t0Phys s p e).any fun i => i / 8192 == placeUnit s p 0 mode place k)

/-- Pages of the partition's other unpinned COPY_UP objects, oldest LAST_USE first, object by object. -/
def evictOrder (s : State) (p own : Nat) : List (Nat × Nat) :=
  let os := sortBy (fun (a b : Nat × Obj) => decide (a.2.lastUse < b.2.lastUse) || (a.2.lastUse == b.2.lastUse && decide (a.1 ≤ b.1)))
    ((mappedObjs s p).filter fun e => e.1 != own && e.2.copyUp && !e.2.pin)
  os.flatMap fun e => (((getPtn s p).mem.pages.filter fun g => g.1 / 2 ^ 26 == e.1).map fun g => (e.1, g.1))

/-- Room for one page of an object in a tier, after evictions if they are needed (07 R214). -/
def evictFor (p own t mode place k : Nat) (s : State) : State :=
  (evictOrder s p own).foldl (fun s e =>
    if canPlace s p t mode place [k] then s
    else if evictable s p t mode place k e.1 e.2 then
      let n := ((allCopies s p (getPage s p e.2)).filter fun c => c.1 == t).length
      modPMem p (fun m => { m with evictions := satAdd 32 m.evictions n }) (dropCopies p e.2 t s)
    else s) s

/-- One page copied or moved into a tier under a placement, with its marks; false when no room could be made, the evictions made for
it standing (07 R205, R213, R214, R228). -/
def migratePage (p o t mode place k : Nat) (s : State) : Bool × State :=
  let key := pageKey o k
  let s := evictFor p o t mode place k s
  if !canPlace s p t mode place [k] then (false, s)
  else
    let e := getPage s p key
    match readCopy s p e none with
    | none => (false, s)
    | some src =>
      let old := (allCopies s p e).filter fun c => c.1 == t
      let s := addCopy p o t mode place k (modPage p key (fun e => if t = 0 then { e with t0 := none, t0Repl := false } else if t = 1 then { e with t1 := none } else { e with t2 := none }) s)
      let new := (allCopies s p (getPage s p key)).filter fun c => c.1 == t
      let s := modMem (fun m => old.foldl (fun m c => releasePhys c.1 c.2 m) (new.foldl (fun m c => copyPhys src.1 src.2 c.1 c.2 m) m)) s
      let s := if !(getObj s p o).copyUp && src.1 != t then dropCopies p key src.1 s else s
      (true, touchObjs p [o] (modPage p key (fun e => { e with transit := none }) s))

/-- A page or shard of a command is finished: it leaves the command's list, and the last one ends the command (07 R213 step 7). -/
def unitDone (i : MoverItem) (count : Nat) (s : State) : State :=
  let s := modCmd i.ring i.idx (fun k => { k with todo := k.todo.erase i.unit, progress := k.progress + count }) s
  match itemCmd s i with
  | some k =>
    if k.todo.isEmpty && decide (k.phase ≠ .done) then
      endCmd i.ring i.idx (if k.status ≠ 0 then k.status else if k.failed ≠ 0 then 0x08 else 0) (if k.opcode = 0x45 ∨ k.opcode = 0x46 then k.failed else k.progress) s
    else s
  | none => s

/-- The next item of a mover: round robin over partitions, then over the contexts of each, in start order (08 R250). -/
def pickNext (x : Die) (q : List MoverItem) : Option MoverItem :=
  let ps := naddAll (q.map fun i => i.ptn) []
  let p := ((ps.find? fun n => decide (x.lastP < n)).getD (ps.headD 0))
  let cs := naddAll ((q.filter fun i => i.ptn == p).map fun i => i.ctx) []
  let c := ((cs.find? fun n => decide (tget 0 x.lastC p < n)).getD (cs.headD 0))
  q.find? fun i => i.ptn == p && i.ctx == c

/-- The item at a mover's head leaves its queue and the next one comes to the front. -/
def advanceMover (d : Nat) : State → State :=
  modDie d fun x =>
    match x.moverQ with
    | [] => x
    | h :: q =>
      let x := { x with lastP := h.ptn, lastC := tset 0 h.ptn h.ctx x.lastC }
      match pickNext x q with
      | none => { x with moverQ := q }
      | some n => { x with moverQ := n :: q.erase n }

/-- An engine is in reset and takes no work (11 R340). -/
def engStopped (s : State) (e : EngineSel) : Bool := s.flt.engResets.any fun r => decide (r.eng = e)

/-- A mover that serves its queue. -/
def moverServes (s : State) (d : Nat) : Bool := !engStopped s (.mover (dieId d))

/-- The head of a mover's queue is done at once: a command that waited for its turn, an EVICT page, or a page that already stands as its
MIGRATE asks. -/
def headAtOnce (s : State) (d : Nat) : Option MoverItem :=
  match (getDie s d).moverQ with
  | [] => none
  | i :: _ =>
    let now : Bool := match itemCmd s i with
      | none => i.whole
      | some k =>
        let t := migTarget k
        if i.whole then decide (k.phase = .done) || !queryWaits s k
        else k.opcode == 0x44 || (k.opcode == 0x43 && placedAs s i.ptn t.1 t.2.1 t.2.2 i.unit (getPage s i.ptn (pageKey i.obj i.unit)))
    if now then some i else none

/-- One page of EVICT: a copy in the tier is discarded and counted, unless it is the page's last (07 R213). -/
def evictPage (i : MoverItem) (t : Nat) (s : State) : State :=
  let e := getPage s i.ptn (pageKey i.obj i.unit)
  if hasCopy e t && [0, 1, 2].any (fun u => u != t && hasCopy e u) then unitDone i 1 (dropCopies i.ptn (pageKey i.obj i.unit) t s) else unitDone i 0 s

/-- What a head that is done at once does. -/
def doneAtOnce (i : MoverItem) (s : State) : State :=
  match itemCmd s i with
  | none => s
  | some k =>
    if i.whole then (if k.phase = .done then s else serveObj k s)
    else if k.opcode = 0x44 then evictPage i (migTarget k).1 s else unitDone i 1 s

/-- The movers work off every head that is done at once. -/
def settleFuel : Nat → State → State
  | 0, s => s
  | n + 1, s =>
    match (List.range 8).find? fun d => moverServes s d && (headAtOnce s d).isSome with
    | none => s
    | some d => settleFuel n (advanceMover d (match headAtOnce s d with | some i => doneAtOnce i s | none => s))

/-- Enough steps for an item, and for the pages or shards that it may add to the queues. -/
def itemFuel (s : State) (i : MoverItem) : Nat :=
  if i.whole then (match itemCmd s i with | some k => opf k.ops 4 0 27 + 65537 | none => 1) else 1

/-- A page that a mover is copying under MOVE is in TRANSIT (07 R210). -/
def markTransit (d : Nat) (s : State) : State :=
  match (getDie s d).moverQ with
  | [] => s
  | i :: _ =>
    match itemCmd s i with
    | some k => if i.whole = false ∧ k.opcode = 0x43 ∧ (getObj s i.ptn i.obj).copyUp = false then modPage i.ptn (pageKey i.obj i.unit) (fun e => { e with transit := some (migTarget k).1 }) s else s
    | none => s

/-- After a change of the queues. -/
def settleMovers (s : State) : State :=
  ((List.range 8).filter (moverServes s)).foldl (fun s d => markTransit d s) (settleFuel (((List.range 8).map fun d => ((getDie s d).moverQ.map (itemFuel s)).sum).sum) s)

/-- A command waits for its home mover: while that is in reset (11 R340), behind an earlier command of its context, and, where the home
mover does all its work, behind what the mover already holds (08 R250). -/
def heldBack (s : State) (c : Cmd) : Bool :=
  let d := homeDie s c.ptn
  let q := (getDie s d).moverQ
  !moverServes s d || q.any (fun i => i.whole && i.ctx == c.ctx) || ((c.opcode == 0x40 || c.opcode == 0x42) && !q.isEmpty) || queryWaits s c

/-- A command comes to its home mover. -/
def toMover (c : Cmd) (s : State) : State :=
  if heldBack s c then settleMovers (putItems [(homeDie s c.ptn, ⟨c.ctx, c.ptn, c.ring, c.idx, opf c.ops 2 0 16, 0, true⟩)] s)
  else let t := serveObj c s; if t.dies = s.dies then t else settleMovers t

/-- The head of a serving mover's queue for a partition's object and unit, with its die. -/
def headItem (s : State) (p o u : Nat) : Option (Nat × MoverItem) :=
  (List.range 8).findSome? fun d =>
    match (getDie s d).moverQ with
    | i :: _ => if i.ptn = p ∧ i.obj = o ∧ i.unit = u ∧ i.whole = false ∧ moverServes s d = true then some (d, i) else none
    | [] => none

/-- A head leaves its mover. -/
def finishHead (d : Nat) (s : State) : State := settleMovers (advanceMover d s)

end Sys2Proof.Machine
end

