-- ==== Sys2Proof/Machine/FabricOps.lean ====
section
/-! DEFINITION. Frames, the link layer's sending half, routes, the fence, and the dispatch units that resets send (10 R299-R309, R324,
R325; logs 13, 28). -/
namespace Sys2Proof.Machine

/-- Frames a port may hold for retry (10 R300). -/
def heldMax (n : Nat) : Nat := if n < 16 then 256 else 2048

/-- Flits per virtual lane that a port's receiver holds (10 R301). -/
def rxBuffer (n : Nat) : Nat := if n < 16 then 2048 else 16384

/-! ### Frames (10 R299) -/

/-- One bit into the CRC-24 register, most significant bit first. -/
def crc24Bit (c : Nat) (b : Bool) : Nat := if bit c 23 != b then (2 * c % 2 ^ 24) ^^^ 0x864CFB else 2 * c % 2 ^ 24

/-- CRC-24 of bytes, most significant bit first (log 28). -/
def crc24 (bs : List Byte) : Nat :=
  bs.foldl (fun c b => (List.range 8).foldl (fun c i => crc24Bit c (bit b.toNat (7 - i))) c) (Config.crc24Init % 2 ^ 24)

/-- The 16 parity bytes of a frame's first 528. -/
def frameParity (d : List Byte) : List Byte := padTo 16 (Config.frameParity d)

/-- Slot `i` of a frame; an absent one is idle. -/
def slotAt (f : Frame) (i : Nat) : FrameSlot := f.slots.getD i ⟨0, 0, false, []⟩

/-- Bytes 0-523 of a frame: the slots, SEQ and ACK, the slots' kinds and lanes, and the credits. -/
def frameBody (f : Frame) : List Byte :=
  ((List.range 8).flatMap fun i => padTo 64 (slotAt f i).data) ++
  wordsBytes [pack [(0, 12, f.seq), (12, 12, f.ack), (24, 1, b2n f.nak)],
    pack ((List.range 8).map (fun i => (2 * i, 2, (slotAt f i).kind)) ++ (List.range 8).map fun i => (16 + 2 * i, 2, (slotAt f i).vl)),
    pack ((List.range 4).map fun v => (8 * v, 8, f.credits.getD v 0))]

/-- The 528 bytes that the code protects. -/
def frameData (f : Frame) : List Byte :=
  frameBody f ++ wordsBytes [pack ((0, 24, crc24 (frameBody f)) :: (List.range 8).map fun i => (24 + i, 1, b2n (slotAt f i).poison))]

/-- A frame's 544 bytes. -/
def frameBytes (f : Frame) : List Byte := frameData f ++ frameParity (frameData f)

/-- Bytes at which two frames differ. -/
def symbolErrors (a b : List Byte) : Nat := ((a.zip b).filter fun e => decide (e.1 ≠ e.2)).length

/-- The data of a received frame: as they came when the parity fits, else as corrected with at most eight bytes changed. -/
def frameDecode (b : List Byte) : Option (List Byte) :=
  let d := padTo 528 b
  if frameParity d = slice b 528 16 then some d
  else match Config.frameFix b with
    | some d => if d.length = 528 ∧ symbolErrors (d ++ frameParity d) b ≤ 8 then some d else none
    | none => none

/-- The frame that bytes hold, if they decode and the CRC matches. -/
def readFrame (b : List Byte) : Option Frame :=
  match frameDecode b with
  | none => none
  | some d =>
    if leNat (slice d 524 3) ≠ crc24 (slice d 0 524) then none
    else
      let w (i : Nat) : Nat := leNat (slice d (512 + 4 * i) 4)
      some { seq := bits (w 0) 0 12, ack := bits (w 0) 12 12, nak := bit (w 0) 24,
             slots := (List.range 8).map fun i => ⟨bits (w 1) (2 * i) 2, bits (w 1) (16 + 2 * i) 2, bit (w 3) (24 + i), slice d (64 * i) 64⟩,
             credits := (List.range 4).map fun v => bits (w 2) (8 * v) 8 }

/-- A frame leaves a port with the port's acknowledgement, and a replay request if one is due. -/
def putFrame (n seq : Nat) (slots : List FrameSlot) (credits : List Nat) (s : State) : State :=
  let x := getPort s n
  let b := frameBytes ⟨seq, (x.expect + 4095) % 4096, x.nak, slots, credits⟩
  modOut (fun o => { o with frames := (n, b) :: o.frames }) (modPort n (fun x => { x with nak := false, ackDue := false }) s)

/-- The next frame of a port: with slots it takes the next SEQ and is held, without it repeats the last; the places freed in the receive
buffer go with it, at most 255 of a lane (10 R299-R301). -/
def sendFrame (n : Nat) (slots : List FrameSlot) (owners : NSet) (s : State) : State :=
  let x := getPort s n
  let seq := if slots.isEmpty then x.txSeq else (x.txSeq + 1) % 4096
  let cs := (List.range 4).map fun v => min 255 (x.freed.getD v 0)
  let s := modPort n (fun x => { x with
    txSeq := seq, freed := (List.range 4).map fun v => x.freed.getD v 0 - cs.getD v 0,
    held := if slots.isEmpty then x.held else x.held ++ [⟨seq, slots, cs, owners, 0⟩] }) s
  putFrame n seq slots cs s

/-- A port owes its peer an acknowledgement, a replay request or credits. -/
def owesFrame (x : Port) : Bool := x.nak || x.ackDue || x.freed.any fun k => decide (0 < k)

/-- Every ACTIVE port that owes its peer something sends a frame without slots. -/
def sendOwed (s : State) : State :=
  (List.range 18).foldl (fun s n => if (getPort s n).st = .active ∧ owesFrame (getPort s n) = true then sendFrame n [] [] s else s) s

/-! ### Packets (10 R299-R302) -/

/-- A head flit's bytes (10 R302). -/
def headFlit (k : Packet) : List Byte :=
  padTo 64 (wordsBytes ([pack [(0, 16, k.dest), (16, 1, b2n k.mcast), (17, 2, k.vl)], pack [(0, 16, k.src), (16, 4, k.type)],
    pack [(0, 12, k.channel), (12, 16, k.epoch)], pack [(0, 12, k.ctx)]] ++ k.body.map BitVec.toNat))

/-- A packet's slots: head, data, last; a one-flit packet is a single slot of kind 3 (10 R299). -/
def packetSlots (k : Packet) : List FrameSlot :=
  if k.flits.isEmpty then [⟨3, k.vl, false, headFlit k⟩]
  else ⟨1, k.vl, false, headFlit k⟩ ::
    ((List.range k.flits.length).zip k.flits).map fun e => ⟨if e.1 + 1 = k.flits.length then 3 else 2, k.vl, e.2.poison, e.2.data⟩

/-- A port can send a packet now: ACTIVE, a credit of its VL for each flit, and room for its frames (10 R300, R301). -/
def canSend (s : State) (n : Nat) (k : Packet) : Bool :=
  let x := getPort s n
  let need := k.flits.length + 1
  decide (x.st = .active) && decide (need ≤ x.credits.getD k.vl 0) && decide (x.held.length + ceilDiv need 8 ≤ heldMax n)

/-- A packet leaves on a port: its frames are held for retry and its credits are spent. -/
def emitPacket (n : Nat) (j : Sending) (s : State) : State :=
  let slots := packetSlots j.pkt
  let s := modPort n (fun x => { x with credits := x.credits.set j.pkt.vl (x.credits.getD j.pkt.vl 0 - slots.length),
                                        rr := if j.pkt.vl = 0 then x.rr else j.pkt.vl }) s
  let s := (chunks 8 (ceilDiv slots.length 8) slots).foldl (fun s c => sendFrame n c j.owner.toList s) s
  modOut (fun o => { o with fabric := (n, j.pkt) :: o.fabric }) s

/-- No packet of a lane waits at a port. -/
def laneFree (s : State) (n vl : Nat) : Bool := !(getPort s n).txq.any fun j => j.pkt.vl == vl

/-- A packet is sent, or waits at the port behind those of its virtual lane. -/
def sendPacket (n : Nat) (j : Sending) (s : State) : State :=
  if canSend s n j.pkt && laneFree s n j.pkt.vl then emitPacket n j s else modPort n (fun x => { x with txq := x.txq ++ [j] }) s

/-- The lane a port serves next: VL0 first, then VL1-VL3 in turn, and only one whose first packet can be sent (10 R301). -/
def nextSend (s : State) (n : Nat) : Option Sending :=
  let r := (getPort s n).rr
  [0, r % 3 + 1, (r + 1) % 3 + 1, (r + 2) % 3 + 1].findSome? fun v => ((getPort s n).txq.find? fun j => j.pkt.vl == v).filter fun j => canSend s n j.pkt

/-- A port's waiting packets leave as far as they may. -/
def drainPort (n : Nat) : Nat → State → State
  | 0, s => s
  | k + 1, s =>
    match nextSend s n with
    | none => s
    | some j => drainPort n k (emitPacket n j (modPort n (fun x => { x with txq := ldelFirst (fun i => decide (i = j)) x.txq }) s))

/-- Ports in ACTIVE, ascending. -/
def activePorts (s : State) : List Nat := (List.range 18).filter fun n => decide ((getPort s n).st = .active)

/-- A one-flit link-control packet on VL0 (10 R301, R302). -/
def linkPacket (s : State) (type coord : Nat) : Packet :=
  { dest := 0, mcast := false, vl := 0, src := s.fab.coord, type := type, channel := 0, epoch := 0, ctx := 0,
    body := [BitVec.ofNat 32 coord], flits := [] }

/-- A port's state changes and its source pulses (12 R362). -/
def setPort (n : Nat) (st : PortSt) (s : State) : State :=
  if (getPort s n).st = st then s else pulse (srcPort n) (modPort n (fun x => { x with st := st }) s)

/-- The fabric fence: a leaving packet on every ACTIVE port, then no transmission (10 R304, R305). -/
def fence (s : State) : State :=
  let j : Sending := ⟨linkPacket s 4 0, none⟩
  let s := (activePorts s).foldl (fun s n => emitPacket n j s) s
  let s := modFab (fun f => { f with fenced := true, wait := [] }) s
  (List.range 18).foldl (fun s n =>
    if (getPort s n).st = .off then s else modPort n (fun x => { x with byPeer := false, txq := [] }) (setPort n .fenced s)) s

/-! ### Routes (10 R308) -/

/-- The route entry of a coordinate: of the own block, or of another. -/
def routeWord (s : State) (coord : Nat) : Nat :=
  if coord / 64 = s.fab.coord / 64 then tget 0 s.fab.near (coord % 64) else tget 0 s.fab.far (coord / 64)

/-- The port a packet takes now: PRIMARY, or ALTERNATE while PRIMARY is not ACTIVE; none when neither is. -/
def routePort (s : State) (coord : Nat) : Option Nat :=
  let w := routeWord s coord
  let open_ (n : Nat) : Bool := decide ((getPort s n).st = .active)
  if !bit w 11 then none else if open_ (bits w 0 5) then some (bits w 0 5) else if bit w 10 && open_ (bits w 5 5) then some (bits w 5 5) else none

def dropPackets (m : Nat) : State → State := modFab fun f => { f with drops := f.drops + m }

/-- A module that has fenced itself sends nothing until a port is ACTIVE again (10 R305, R306). -/
def muted (s : State) : Bool := s.fab.fenced && (activePorts s).isEmpty

/-- A packet goes toward a coordinate: to this module itself, to the port of its route, or it waits until the route has an ACTIVE port; one
for a lost coordinate is discarded and counted (10 R305, R308). -/
def sendTo (coord : Nat) (j : Sending) (s : State) : State :=
  if muted s then s
  else if coord = s.fab.coord then modFab (fun f => { f with here := f.here ++ [j.pkt] }) s
  else if nhas s.fab.lostSet coord then dropPackets 1 s
  else match routePort s coord with
    | none => modFab (fun f => { f with wait := f.wait ++ [j] }) s
    | some n => sendPacket n j s

/-- A packet whose way a route decides. -/
def routed (k : Packet) : Bool := !k.mcast && decide (k.type ≤ 2)

/-- Packets that wait for a route, and routed ones at a port that is not ACTIVE, are sent again. -/
def reroute (s : State) : State :=
  let idle := (List.range 18).filter fun n => decide ((getPort s n).st ≠ .active)
  let js := s.fab.wait ++ idle.flatMap fun n => (getPort s n).txq.filter fun j => routed j.pkt
  let s := idle.foldl (fun s n => if (getPort s n).txq.isEmpty then s else modPort n (fun x => { x with txq := x.txq.filter fun j => !routed j.pkt }) s) s
  js.foldl (fun s j => sendTo j.pkt.dest j s) (modFab (fun f => { f with wait := [] }) s)

/-! ### Dispatch units (10 R302, R324): KIND 1 SCORE, 2 END, 3 GRANT, 4 GRANT_END, 5 ACT, 6 ANSWER, 7 CANCEL, 8 VOID -/

/-- Word 0 of a unit. -/
def unitWord0 (kind : Nat) (u : XUnit) : Nat := pack [(0, 4, kind), (4, 4, u.exch), (8, 8, u.step), (16, 16, u.epoch)]

/-- The four words of a unit. -/
def unitWords (kind : Nat) (u : XUnit) : List Nat :=
  [unitWord0 kind u, pack [(0, 16, u.generation), (16, 6, u.batch), (22, 5, u.srcPtn), (27, 5, u.dstPtn)],
   pack [(0, 12, u.row), (12, 4, u.pos), (16, 10, u.expert)], u.value.toNat]

/-- Requests travel on VL1 and responses on VL2 (10 R301). -/
def unitLane (kind : Nat) : Nat := if [3, 4, 6, 8].contains kind then 2 else 1

/-- ACT and ANSWER are alone with their data. -/
def unitAlone (kind : Nat) : Bool := [5, 6].contains kind

/-- Flits of bytes that carry no stream. -/
def bareFlits (poison : Bool) (bs : List Byte) : List Flit :=
  (chunks 64 (ceilDiv bs.length 64) bs).map fun b => { data := padTo 64 b, poison := poison, epoch := 0, ctx := 0, tag := ⟨0, 0, 0, true⟩ }

/-- A dispatch packet: words in the head flit, and further flits. -/
def dispatchPacket (s : State) (coord vl : Nat) (ws : List Nat) (fs : List Flit) : Packet :=
  { dest := coord, mcast := false, vl := vl, src := s.fab.coord, type := 1, channel := 0, epoch := 0, ctx := 0, body := ws.map (BitVec.ofNat 32), flits := fs }

/-- Units of one lane for one destination, in order, as runs that one packet holds: 3 in its head flit and 4 in each of 63 more. -/
def unitRuns (us : List (Nat × XUnit)) : List (List (Nat × XUnit)) :=
  us.foldl (fun rs u => match rs.getLast? with
    | some r => if unitAlone u.1 || (r.any fun v => unitAlone v.1) || decide (255 ≤ r.length) then rs ++ [[u]] else rs.dropLast ++ [r ++ [u]]
    | none => [[u]]) []

/-- The packets of a run. An ACT or ANSWER whose data exceed 63 flits repeats its unit at the head of further packets (log 13). -/
def runPackets (s : State) (coord : Nat) (r : List (Nat × XUnit)) : List Packet :=
  match r with
  | [] => []
  | (kind, u) :: _ =>
    if unitAlone kind then
      let fs := bareFlits u.poison u.data
      (chunks 63 (max 1 (ceilDiv fs.length 63)) fs).map fun c => dispatchPacket s coord (unitLane kind) (unitWords kind u) c
    else
      [dispatchPacket s coord (unitLane kind) ((r.take 3).flatMap fun v => unitWords v.1 v.2)
        (bareFlits false ((r.drop 3).flatMap fun v => wordsBytes (unitWords v.1 v.2)))]

/-- The packets of units for several destinations. -/
def unitPackets (s : State) (us : List (Nat × Nat × XUnit)) : List Packet :=
  (us.map (·.1)).eraseDups.flatMap fun coord => [1, 2].flatMap fun vl =>
    (unitRuns ((us.filter fun u => u.1 == coord && unitLane u.2.1 == vl).map (·.2))).flatMap (runPackets s coord)

/-- Units of a context leave toward their coordinates as (coordinate, KIND, unit), in order (10 R324). -/
def sendUnits (owner : Option Nat) (us : List (Nat × Nat × XUnit)) (s : State) : State :=
  if muted s then s
  else
    let s := (unitPackets s us).foldl (fun s k => sendTo k.dest ⟨k, owner⟩ s) s
    modOut (fun o => { o with units := (us.filter fun u => !nhas s.fab.lostSet u.1).reverse ++ o.units }) s

/-- Bytes and poison of `n` flits. -/
def flitBytes (fs : List Flit) : List Byte × Bool := (fs.flatMap fun f => f.data, fs.any fun f => f.poison)

/-- The KIND and unit that four words hold, with the data that follow an ACT or ANSWER (10 R324). -/
def unitOf (src : Nat) (ws : List Nat) (data : List Byte) (poison : Bool) : Nat × XUnit :=
  let w (i : Nat) : Nat := ws.getD i 0
  (bits (w 0) 0 4,
   { src := src, exch := bits (w 0) 4 4, step := bits (w 0) 8 8, epoch := bits (w 0) 16 16, generation := bits (w 1) 0 16, batch := bits (w 1) 16 6, srcPtn := bits (w 1) 22 5,
     dstPtn := bits (w 1) 27 5, row := bits (w 2) 0 12, pos := bits (w 2) 12 4, expert := bits (w 2) 16 10, value := BitVec.ofNat 32 (w 3), data := data, poison := poison })

/-- The units of a dispatch packet: an ACT or ANSWER alone with its data, or three in the head and four a flit. -/
def packetUnits (k : Packet) : List (Nat × XUnit) :=
  let head := (k.body.map BitVec.toNat).take 12
  let y := flitBytes k.flits
  if unitAlone (bits (head.getD 0 0) 0 4) then [unitOf k.src head y.1 y.2]
  else
    let ws := head ++ List.replicate (12 - head.length) 0 ++ (List.range (y.1.length / 4)).map fun i => wordAt y.1 i
    (chunks 4 (ws.length / 4) ws).map fun u => unitOf k.src u [] false

/-- Dispatch units that wait for a die's exchange unit: in packets to this module itself and in the receive buffers (11 R353). -/
def unitsWaiting (s : State) (d : Nat) : Nat :=
  let ks := s.fab.here ++ (List.range 18).flatMap fun n => ((getPort s n).rxq.filter fun h => h.here).map fun h => h.pkt
  (((ks.filter fun k => k.type == 1).flatMap packetUnits).filter fun u => decide (u.1 ≠ 0) && homeDie s u.2.dstPtn == d).length

/-- A unit without row, expert, value or data: END, GRANT_END, CANCEL, VOID before their value is set. -/
def bareUnit (s : State) (x step epoch gen batch srcPtn dstPtn : Nat) : XUnit :=
  { src := s.fab.coord, exch := x, step := step % 256, epoch := epoch, generation := gen, batch := batch,
    srcPtn := srcPtn, dstPtn := dstPtn, row := 0, pos := 0, expert := 0, value := 0, data := [], poison := false }

/-! ### Exchanges that resets end (10 R325) -/

/-- The distinct homes of a table as (coordinate, partition). -/
def homesOf (t : RouteTbl) : List (Nat × Nat) :=
  t.replicas.foldl (fun l r => if l.contains (r.1, r.2.1) then l else l ++ [(r.1, r.2.1)]) []

def getExch (s : State) (p x : Nat) : Exch := tget {} (getPtn s p).xch.exchs x
def modExch (p x : Nat) (g : Exch → Exch) : State → State := modXch p fun y => { y with exchs := tmod {} x g y.exchs }

/-- The table in force for an exchange step. -/
def tableFor (e : Exch) (n : Nat) : Option RouteTbl :=
  match e.staged.filter (fun t => decide (t.fromStep ≤ n)) with
  | some t => some t
  | none => match e.cur.filter (fun t => decide (t.fromStep ≤ n)) with | some t => some t | none => e.prev

/-- The senders with a grant on a closed card: the candidates in its first `cap` slots. -/
def granted (k : Card) : List Cand := k.cands.take k.cap

/-- The context whose work a partition's home does: the running command's. -/
def homeOwner (s : State) (p : Nat) : Option Nat := (getPtn s p).fe.run.map fun r => r.ctx

/-- The sender side of removed work: CANCEL to every home of each removed step, under the step's own table, and its tokens dropped. -/
def cancelSender (p x : Nat) (sel : XTok → Bool) (s : State) : State :=
  let e := getExch s p x
  let mine := ((e.toks.filter sel).map fun k => (k.step, k.batch, k.gen)).eraseDups
  let s := mine.foldl (fun s k => match tableFor e k.1 with
    | none => s
    | some t => sendUnits (some (getBatch s p k.2.1).ctx) ((homesOf t).map fun h => (h.1, 7, bareUnit s x k.1 t.epoch k.2.2 k.2.1 p h.2)) s) s
  modExch p x (fun e =>
    let left := e.toks.filter fun k => !sel k
    { e with toks := left, sends := e.sends.filter fun c => left.any fun k => k.step == c.step }) s

/-- The home side of removed steps: VOID for each card of theirs to every sender with a grant on it. -/
def voidHome (p x : Nat) (sel : Nat → Bool) (s : State) : State :=
  let e := getExch s p x
  let us := (e.cards.filter fun k => sel k.step && k.closed).flatMap fun k =>
    let gs := (((granted k).filter fun c => !c.gone).map fun c => (c.src, c.ptn, c.gen, c.batch)).eraseDups
    match tableFor e k.step with
    | none => []
    | some t => gs.map fun g => (g.1, 8, bareUnit s x k.step t.epoch g.2.2.1 g.2.2.2 p g.2.1)
  let s := sendUnits (homeOwner s p) us s
  modExch p x (fun e => { e with cards := e.cards.filter fun k => !sel k.step, counts := e.counts.filter fun k => !sel k.step, expertIn := [], expertOut := [] }) s

/-- A reset removes a partition's exchange work on both sides. -/
def abortExch (p x : Nat) (s : State) : State :=
  modExch p x (fun e => { e with scoreIn := [], actIn := [], comb := [] }) (voidHome p x (fun _ => true) (cancelSender p x (fun _ => true) s))

/-- All exchanges of a partition are aborted. -/
def abortAllExch (p : Nat) (s : State) : State := ((getPtn s p).xch.exchs.map (·.1)).foldl (fun s x => abortExch p x s) s

/-- A context's work leaves an exchange: its tokens, running or saved, and when its command runs the flits on the exchange's streams and
the home's cards of steps that no other context's token is in (10 R325; 11 R339 step 3). -/
def dropExch (p c x : Nat) (run : Bool) (s : State) : State :=
  let s := cancelSender p x (fun k => (getBatch s p k.batch).ctx == c) s
  if !run then s
  else
    let left := (getExch s p x).toks
    modExch p x (fun e => { e with scoreIn := [], actIn := [], comb := [] }) (voidHome p x (fun n => !left.any fun k => k.step == n) s)

/-- Partitions whose contexts span a coordinate (10 R306): it is a sender or replica home of a table in force or staged,
or named by an enabled channel of the partition. -/
def spansPtn (s : State) (p coord : Nat) : Bool :=
  let inTbl (t : RouteTbl) : Bool := (t.senders.any fun e => e.1 == coord) || t.replicas.any fun r => r.1 == coord
  ((getPtn s p).xch.exchs.any fun e => (e.2.cur.any inTbl) || e.2.staged.any inTbl) ||
  (s.fab.tx0.any fun e => bit e.2 17 && bits e.2 18 5 == p && !bit e.2 16 && bits e.2 0 16 == coord) ||
  s.fab.rx.any fun e => bit e.2 16 && bits e.2 17 5 == p && bits e.2 0 16 == coord

end Sys2Proof.Machine
end

