-- ==== Sys2Proof/Machine/BatchOps.lean ====
section
/-! DEFINITION. Batch rows, their records and the closing of batches (09 R263, R265, R288-R295). -/
namespace Sys2Proof.Machine

/-- Rows of a batch that hold a request that is not finished, ascending (09 R288, R295). -/
def unfinishedRows (b : Batch) : List Nat := (b.rows.filter fun e => decide (e.2.st ≠ .empty) && !e.2.finished).map (·.1)

/-- The POSITION of a row's records: FILL of its page table (09 R290). -/
def rowFill (s : State) (p : Nat) (d : RowDesc) : Nat := (readTab s p d.pageTable).fill

/-- A row's next record with its fields; the caller decides how it is written. -/
def rowRec (s : State) (p b r type value pos detail flags : Nat) : TokRec :=
  let x := getRow (getBatch s p b) r
  { request := x.desc.request, seq := w32 (x.desc.seqStart + x.seq), type := type, flags := flags, batch := b, row := r, value := value, pos := pos, detail := detail }

/-- A row's record is made, and its sequence advances; it reaches the ring with the others of the change in progress (09 R291, R294). -/
def emitRec (p b r type value pos detail flags : Nat) (s : State) : State :=
  let n := (getRow (getBatch s p b) r).desc.ring
  let k := rowRec s p b r type value pos detail flags
  if recHeld (getRing s n) k then s else modRow p b r (fun y => { y with seq := y.seq + 1 }) (modRing n (fun x => { x with made := x.made ++ [k] }) s)

/-- A row's record outside a boundary; one that a reset makes within a boundary follows the boundary's earlier records of its ring. -/
def emitRecNow (p b r type value pos detail flags : Nat) (s : State) : State :=
  let go := emitRec p b r type value pos detail flags
  if (getRing s (getRow (getBatch s p b) r).desc.ring).made.isEmpty then eachSignals go s else go s

/-- A request ends with its record: nothing more is written for it (09 R288). -/
def finishRow (p b r : Nat) : State → State := modRow p b r fun x => { x with finished := true }

/-- A batch number becomes free; its generation stays (09 R263). -/
def freeBatch (p b : Nat) : State → State := modBatch p b fun x => { gen := x.gen }

/-- The generation advances, modulo 65,536 (09 R263). -/
def bumpGen (p b : Nat) : State → State := modBatch p b fun x => { x with gen := (x.gen + 1) % 65536 }

/-- Open batches of a partition, ascending. -/
def openBatches (s : State) (p : Nat) : List Nat := ((getPtn s p).batches.filter fun e => e.2.open_).map (·.1)

/-- Open batches of a context in its partition. -/
def batchesOfCtx (s : State) (c : Nat) : List Nat := ((getPtn s (ptnOfCtx s c)).batches.filter fun e => e.2.open_ && e.2.ctx == c).map (·.1)

/-- Every unfinished row receives a record and its request is finished. -/
def closeRows (p b type value detail : Nat) (s : State) : State :=
  (unfinishedRows (getBatch s p b)).foldl (fun s r =>
    let d := (getRow (getBatch s p b) r).desc
    finishRow p b r (emitRecNow p b r type value (rowFill s p d) detail 0 s)) s

/-- A context's batches end with RESET records of a level and cause, and their generations advance (09 R263, R295). -/
def resetBatches (c level cause : Nat) (records : Bool) (s : State) : State :=
  let p := ptnOfCtx s c
  (batchesOfCtx s c).foldl (fun s b =>
    let s := if records then closeRows p b 7 cause level s else s
    freeBatch p b (bumpGen p b s)) s

/-- The die whose sampler serves a row (09 R272). -/
def samplerDie (d : BDesc) (r : Nat) : Nat :=
  let ds := maskBits d.samplers 8
  ds.getD (r % max 1 ds.length) 0

/-- A page table is named by a standing row of the partition (06 R198). -/
def rowNames (s : State) (p a : Nat) : Bool :=
  (getPtn s p).batches.any fun e => e.2.open_ && e.2.rows.any fun r => decide (r.2.st ≠ .empty) && r.2.desc.pageTable == a

end Sys2Proof.Machine
end

