-- ==== Sys2Proof/Machine/ResetOps.lean ====
section
/-! DEFINITION. The beginning of every reset level, the crash snapshot, the power-down sequence, and raising a fault with its
action (11 R329-R345, R352, R353; 13 R397). -/
namespace Sys2Proof.Machine

/-! ### Words that the snapshot and the registers share -/

def portStNo : PortSt → Nat
  | .off => 0 | .detect => 1 | .equalise => 2 | .align => 3 | .exchange => 4 | .active => 5 | .retrain => 6 | .fenced => 7 | .failed => 8

def figStNo : FigSt → Nat
  | .empty => 0 | .loading => 1 | .ready => 2 | .running => 3 | .draining => 4 | .faulted => 5 | .mirror => 6

def stageNo : Stage → Nat
  | .rom => 0 | .verify => 1 | .recoveryWait => 2 | .standby => 3 | .powerUp => 4 | .repair => 5 | .training => 6 | .init => 7
  | .ready => 8 | .failed => 9 | .resetting => 10

/-- FAB_PORT_STATUS and FAB_PORT_ERR (10 R328). -/
def portStatus (x : Port) : Nat := pack [(0, 4, portStNo x.st), (4, 5, x.peerPort), (9, 1, b2n x.reversed), (16, 16, x.peerCoord)]
def portErr (x : Port) : Nat := pack [(0, 16, x.replays), (16, 16, x.trainFails)]

/-- MOD_ID (01 R39). -/
def modId : Nat := pack [(0, 16, 0x0D09), (16, 4, Config.stepping), (20, 4, if Config.is6T then 6 else 3)]

/-- MOD_BOOT (14 R422). -/
def modBootWord (s : State) : Nat :=
  pack [(0, 4, stageNo s.boot.stage), (8, 8, s.boot.failCode), (16, 1, b2n s.boot.recovered), (17, 3, s.boot.keySlot)]

/-! ### The crash snapshot (11 R352, R353) -/

/-- A current entry's four words. -/
def curEntry (ctx ptn ring idx prog : Nat) : List Nat := [pack [(0, 12, ctx), (12, 5, ptn), (17, 1, 1)], ring, w32 idx, w32 prog]

/-- The rows a die's sampler has row-positions of, in steps in progress, as (partition, batch, row). -/
def samplerItems (s : State) (d : Nat) : List (Nat × Nat × Nat) :=
  s.ptns.flatMap fun e => e.2.batches.flatMap fun b =>
    match b.2.step with
    | none => []
    | some st => (st.logits.filter fun l => samplerDie b.2.desc l.row == d).map fun l => (e.1, b.1, l.row)

/-- The figure engine's running command as a current entry. -/
def figCur (s : State) (p : Nat) : List Nat :=
  match (getPtn s p).fe.run with
  | none => [0, 0, 0, 0]
  | some r => curEntry r.ctx p r.ring r.idx (r.base + r.round)

/-- A sampler's or mask engine's current entry: the first row of its work, for the command that runs the batch. -/
def samplerCur (s : State) (items : List (Nat × Nat × Nat)) : List Nat :=
  match items with
  | [] => [0, 0, 0, 0]
  | (p, b, r) :: _ =>
    match (getPtn s p).fe.run with
    | some x => curEntry x.ctx p x.ring x.idx r
    | none => curEntry (getBatch s p b).ctx p 0 0 r

/-- DC_STATE of a die controller. -/
def dcState (s : State) (d : Nat) : Nat :=
  if !switchedUp s then 3
  else
    let t := getTgt s (d + 2)
    if t.sleeping then 1 else if t.levels.isEmpty then 0 else 2

/-- A die's block. -/
def dieBlock (s : State) (d : Nat) : List Nat :=
  let x := getDie s d
  let items := samplerItems s d
  let masked := items.filter fun e => !(getRow (getBatch s e.1 e.2.1) e.2.2).desc.mNone
  let homes := (livePtns s).filter fun p => homeDie s p == d && (getPtn s p).xch.exchs.any fun e => !e.2.toks.isEmpty
  [ (Config.dieProgramCounter (s.time + d)).toNat, dcState s d, (s.time - x.hbFrom) / 100000, b2n x.pll, x.moverQ.length, items.length, masked.length, unitsWaiting s d] ++
  (match x.moverQ with | [] => [0, 0, 0, 0] | m :: _ => curEntry m.ctx m.ptn m.ring m.idx m.unit) ++
  samplerCur s items ++ samplerCur s masked ++
  (match homes with
   | [] => [0, 0, 0, 0]
   | p :: _ =>
     match (getPtn s p).fe.run, ((getPtn s p).xch.exchs.flatMap fun e => e.2.toks).head? with
     | some r, some k => curEntry r.ctx p r.ring r.idx k.step
     | _, _ => [0, 0, 0, 0])

/-- A partition's block. -/
def ptnBlock (s : State) (p : Nat) : List Nat :=
  let x := getPtn s p
  [pack [(0, 3, figStNo x.fig.st), (3, 1, b2n x.exists_), (16, 16, x.fig.epoch)], w32 x.fig.rounds, x.fig.rounds / 2 ^ 32, x.qtrs] ++ figCur s p ++
  [pack [(0, 1, b2n x.pwr.parked), (1, 2, x.pwr.divActive)]]

/-- A port's block. -/
def portBlock (s : State) (n : Nat) : List Nat :=
  let x := getPort s n
  [portStatus x, portErr x, pack [(0, 12, x.txSeq), (12, 12, x.rxAck)], pack [(0, 12, x.held.length)]] ++ (List.range 4).map fun v => x.credits.getD v 0

/-- A quarter's block. -/
def qtrBlock (s : State) (q : Nat) : List Nat :=
  let x := getQtr s q
  [x.stall, x.syncWait, x.joinEvents, pack [(0, 5, optField (ptnOfQtr s q)), (5, 1, b2n (ptnOfQtr s q).isSome)]]

/-- The snapshot's bytes as sparse memory; a cause of 0 is FLT_CMD SNAPSHOT's. -/
def snapshotOf (cause : Nat) (s : State) : Memory :=
  let newest := match s.flt.log with | [] => 0xFFFFFFFF | r :: _ => r.seq
  let m := mwrite [] 0 (wordsBytes [0x50414E53, pack [(0, 16, cause)], w32 s.time, s.time / 2 ^ 32, modId, s.qtrAvail, s.boot.version, newest])
  let m := (List.range 8).foldl (fun m d => mwrite m (0x40 + 256 * d) (wordsBytes (dieBlock s d))) m
  let m := (List.range 32).foldl (fun m p => mwrite m (0x840 + 128 * p) (wordsBytes (ptnBlock s p))) m
  let m := (List.range 18).foldl (fun m n => mwrite m (0x1840 + 32 * n) (wordsBytes (portBlock s n))) m
  let m := (List.range 32).foldl (fun m q => mwrite m (0x1A80 + 16 * q) (wordsBytes (qtrBlock s q))) m
  let m := (s.flt.log.take 1024).foldl (fun m r => mwrite m (0x2000 + 32 * (r.seq % 1024)) (wordsBytes (faultWords r))) m
  s.rings.foldl (fun m r => mwrite m (0x10000 + 8 * r.1) (wordsBytes [r.2.head, r.2.tail])) m

/-- An occasion for a crash snapshot: a held one stays, and the missed occasion is noted. -/
def takeSnapshot (cause : Nat) (s : State) : State :=
  if s.flt.snapLock then modFlt (fun f => { f with snapMissed := true }) s
  else
    let snap := snapshotOf cause s
    pulse srcSnapshotTaken (modFlt (fun f => { f with snap := snap, snapValid := true, snapLock := true }) s)

/-! ### Power-down (13 R397) and the power-cycle request (11 R344) -/

/-- The switched domains go down: everything outside the always-on domain is lost (13 R397, 11 R344). Kept are the clock,
the functions and the configuration space, firmware, fuses, management state, the event controller, the fault registers
and logs, the caps, the coordinate and what has left the block. -/
def switchOff (stage : Stage) (s : State) : State :=
  let s := fence s
  { s with
    boot := { s.boot with stage := stage },
    qtrAvail := 0, sets := [], qtrs := [], dies := [], ptnCmd := {}, ptns := [], ctxs := [], rings := [], mem := {},
    adapters := [], steers := [], masks := [],
    fab := { coord := s.fab.coord, valid := s.fab.valid, kept := s.fab.kept },
    flt := { s.flt with resetting := false, engResets := [] },
    evc := { s.evc with tgts := (List.range 8).foldl (fun t d => tmod {} (d + 2) (fun x : Tgt => { x with mie := false, levels := [], sleeping := false, inGap := false }) t) s.evc.tgts },
    pwr := { s.pwr with railsOn := false, overTemp := [], coolDiv := 0, coolHot := false, brakeWait := false } }

/-- The Caller requests a power cycle by message and by ALERT_N (11 R344). -/
def requestCycle (cause : Nat) (s : State) : State :=
  pulse srcAlertRequest (mctpSend 0x10 0 0 (leBytes 2 cause) (modFlt (fun f => { f with cycleReq := true }) s))

/-! ### Removing work (11 R339 steps 1-3) -/

/-- Movers drop the items that a test selects, but finish the page in progress at the head of a queue (11 R339). -/
def dropMoverItems (sel : MoverItem → Bool) (s : State) : State :=
  (List.range 8).foldl (fun s d =>
    let q := (getDie s d).moverQ
    let gone := (q.drop 1).filter sel
    gone.foldl (fun s i => dropTransit i s) (modDie d (fun x => { x with moverQ := q.take 1 ++ (q.drop 1).filter fun i => !sel i }) s)) s

/-- Items left of removed work are abandoned, without a page half-switched. -/
def purgeMoverItems (sel : MoverItem → Bool) (s : State) : State :=
  settleMovers (takeItems sel s)

/-- A context's started commands are removed: they receive no completion of their own. -/
def markGone (c : Nat) (s : State) : State :=
  { s with rings := s.rings.map fun e => if e.2.cur.type = 0 ∧ e.2.cur.ctx = c then (e.1, { e.2 with started := e.2.started.map fun k => { k with gone := true } }) else e }

/-- The commands of one context leave the figure engine; a running one leaves an empty run behind it (11 R339 step 2). -/
def figDropCtx (c : Nat) (f : Fe) : Fe :=
  let runs := match f.run with | some r => r.ctx == c | none => false
  let resumes := match f.resume with | some r => r.run.ctx == c | none => false
  { f with queue := f.queue.filter (fun x => x.ctx != c), saved := f.saved.filter (fun x => x.run.ctx != c), run := if runs then none else f.run,
           resume := if resumes then none else f.resume, mode := if runs || resumes then .gap else f.mode, sliceEnd := none, noSave := if runs then false else f.noSave }

/-- The figure engine runs a command of the context, or restores one. -/
def figRuns (f : Fe) (c : Nat) : Bool := match f.run with | some r => r.ctx == c | none => false

/-- Flits and partials of a partition's removed work are discarded. -/
def clearStreams (p : Nat) : State → State :=
  modPtn p fun x => { x with cores := tmap {} (fun e : Core => { restCore e with bufs := [] }) x.cores, barrier := 0, flow := {} }

/-- All work of a context on every engine is removed (11 R339 steps 2-3). -/
def removeWork (c : Nat) (s : State) : State :=
  let p := ptnOfCtx s c
  let run := figRuns (getPtn s p).fe c
  let s := clearRecomputing c s
  let s := if run then clearStreams p s else s
  let s := ((getPtn s p).xch.exchs.map (·.1)).foldl (fun s x => dropExch p c x run s) s
  let s := modFe p (figDropCtx c) s
  let s := dropMoverItems (fun i => i.ctx == c) s
  let s := modPtn p (fun x => { x with batches := x.batches.map fun e => if e.2.ctx = c then (e.1, { e.2 with step := none, rowSets := [], closing := none, cancel := none }) else e }) s
  markGone c s

/-! ### Beginning resets (11 R335-R342) -/

/-- Contexts with work on an engine, queued, running or saved. -/
def working (s : State) (e : EngineSel) : NSet :=
  match e with
  | .figure p =>
    let cmds := (allCmds s).filter fun k => k.ptn == p.val && decide (k.phase ≠ .done) && decide (0x10 ≤ k.opcode) && decide (k.opcode < 0x40)
    naddAll (((getPtn s p.val).fe.saved.map fun x => x.run.ctx) ++ (openBatches s p.val).filterMap fun b => if (getBatch s p.val b).step.isSome then some (getBatch s p.val b).ctx else none) (naddAll (cmds.map fun k => k.ctx) [])
  | .mover d =>
    let home := (allCmds s).filter fun k => homeDie s k.ptn == d.val && decide (k.phase ≠ .done) && (k.opcode == 0x40 || k.opcode == 0x41 || k.opcode == 0x42)
    naddAll ((getDie s d.val).moverQ.map fun i => i.ctx) (naddAll (home.map fun k => k.ctx) [])
  | .sampler d => naddAll ((samplerItems s d.val).map fun e => (getBatch s e.1 e.2.1).ctx) []
  | .mask d =>
    naddAll (((samplerItems s d.val).filter fun e => !(getRow (getBatch s e.1 e.2.1) e.2.2).desc.mNone).map fun e => (getBatch s e.1 e.2.1).ctx)
      (naddAll (((allCmds s).filter fun k => homeDie s k.ptn == d.val && decide (k.phase ≠ .done) && (k.opcode == 0x50 || k.opcode == 0x51)).map fun k => k.ctx) [])
  | .exchange d =>
    naddAll ((livePtns s).flatMap fun p =>
      if homeDie s p = d.val then (getPtn s p).xch.exchs.flatMap fun x => x.2.toks.map fun t => (getBatch s p t.batch).ctx else []) []

/-- The engines that hold work of a context: its partition's figure engine and every die's (11 R335). -/
def enginesOf (s : State) (c : Nat) : List EngineSel :=
  (EngineSel.figure (ptnId (ptnOfCtx s c)) :: (List.range 8).flatMap fun d => [.mover (dieId d), .sampler (dieId d), .mask (dieId d), .exchange (dieId d)]).filter
    fun e => nhas (working s e) c

/-- Contexts affected by an engine's reset (11 R335): those with work on it, and those whose own reset it has not released (R336). -/
def affected (s : State) (e : EngineSel) : NSet :=
  naddAll ((s.ctxs.filter fun x => match x.2.reset with | some r => r.engs.contains e | none => false).map (·.1)) (working s e)

/-- A context enters RESETTING, or a lower reset of it is taken over (11 R337, R339). -/
def beginCtxReset (c level cause : Nat) (db : Bool) (s : State) : State :=
  let x := getCtx s c
  match x.st with
  | .disabled => s
  | .enabled =>
    let engs := enginesOf s c
    let s := modCtx c (fun x => { x with st := .resetting, reset := some { level := level, cause := cause, db := db, engs := engs } }) s
    removeWork c (if level = 1 then modFlt (fun f => { f with n1 := satAdd 32 f.n1 1 }) s else s)
  | .resetting =>
    match x.reset with
    | some r => if r.level < level then modCtx c (fun x => { x with reset := some { level := level, cause := cause, db := db, engs := r.engs } }) s else s
    | none => s

/-- Partitions that are in reset. -/
def ptnInReset (s : State) (p : Nat) : Bool := (getPtn s p).reset.isSome

/-- An engine reset begins: its affected contexts enter RESETTING and the engine drops its queue (11 R340). -/
def beginEngReset (e : EngineSel) (cause : Nat) (s : State) : State :=
  if s.flt.engResets.any (fun r => decide (r.eng = e)) || (match e with | .figure p => ptnInReset s p.val | _ => false) then s
  else
    let cs := affected s e
    let s := modFlt (fun f => { f with n2 := satAdd 32 f.n2 1, engResets := f.engResets ++ [⟨e, cs, cause⟩] }) s
    let s := cs.foldl (fun s c => beginCtxReset c 2 cause false s) s
    match e with
    | .mover d => (getDie s d.val).moverQ.foldl (fun s i => dropTransit i s) (modDie d.val (fun x => { x with moverQ := [] }) s)
    | .figure p => modFe p.val (fun f => { f with queue := [], saved := [], run := none, resume := none, mode := .gap }) (clearStreams p.val s)
    | .exchange d => (livePtns s).foldl (fun s p => if homeDie s p = d.val then abortAllExch p s else s) s
    | _ => s

/-- A partition's figure engine stops and holds nothing. -/
def stopFe (p : Nat) : State → State := modFe p fun f => { f with mode := .idle, queue := [], saved := [], run := none, resume := none, sliceEnd := none, next := none }

/-- Flits of a partition that wait in its fabric channels are discarded. -/
def clearChans (p : Nat) : State → State := modFab fun f =>
  { f with chans := (List.range 4096).foldl (fun t c =>
      let tx := bits (tget 0 f.tx0 c) 18 5 == p
      let rx := bits (tget 0 f.rx c) 17 5 == p
      if (tx || rx) && nhas (t.map (·.1)) c then tmod {} c (fun x : Chan => { x with txq := if tx then [] else x.txq, rxq := if rx then [] else x.rxq }) t else t) f.chans }

/-- A figure command in progress ends with its partition: BUSY clears and the figure-done source pulses (02 R77). -/
def cutFig (p : Nat) (s : State) : State :=
  if (getPtn s p).fig.cmd.isSome then pulse (srcPtn p 0) (modFig p (fun f => { f with cmd := none }) s) else s

/-- A partition reset begins: FAULTED, cores stopped, its contexts' work removed; it takes over a reset of its figure engine (11 R337,
R341 steps 1-2). -/
def beginPtnReset (p cause : Nat) (s : State) : State :=
  if !(getPtn s p).exists_ || ptnInReset s p then s
  else
    let s := modFlt (fun f => { f with n3 := satAdd 32 f.n3 1, engResets := f.engResets.filter fun r => decide (r.eng ≠ .figure (ptnId p)) }) s
    let s := modPtn p (fun x => { x with reset := some (cause, 0), pwr := { x.pwr with mirrorWant := none },
                                         fig := { x.fig with st := .faulted, slots := x.fig.slots.map fun e => if e.2.st = .verifying then (e.1, {}) else e } }) s
    let s := clearChans p (clearStreams p (cutFig p s))
    let s := (ctxsOf s p).foldl (fun s c => beginCtxReset c 3 cause false s) s
    stopFe p (abortAllExch p s)

/-! ### RESET entries (11 R339 steps 5-6; 08 R262) -/

/-- The one RESET completion of a command ring; its HEAD becomes its TAIL and no command stays started. -/
def resetRing (r level cause : Nat) (db : Bool) (s : State) : State :=
  let x := getRing s r
  let n := x.started.length + ringUsed x
  let first := match x.started with | [] => x.head | k :: _ => k.idx
  let s := modRing r (fun x => { x with head := x.tail, started := [] }) s
  addReset r ⟨level, cause, n, first, db⟩ (if canDma s (ringFn s r) then writeBack r x.tail s else s)

/-- Core rails of every quarter on at 0.54 V and its C1 at ÷8, for self-test (01 R32; 13 R381). -/
def railsForRepair (s : State) : State :=
  (List.range 32).foldl (fun s q => modQtr q (fun x => { x with railOn := true, mv := 540, mvTarget := 540, selfTest := true }) s) s

/-- Step 3 of a module reset for one context: RESET records and completions with the level that serves it (11 R342). -/
def moduleEntries (s : State) (c : Nat) : State :=
  match (getCtx s c).reset with
  | some r =>
    let s := resetBatches c r.level r.cause true s
    let s := (ringsOfCtx s c 0).foldl (fun s n => resetRing n r.level r.cause false s) s
    modCtx c (fun x => { x with reset := none }) s
  | none => s

/-- A fault beyond partition reset: a figure that is loading, running or draining is FAULTED (02 R67). -/
def faultFig (p : Nat) (s : State) : State :=
  match (getPtn s p).fig.st with
  | .loading | .running | .draining => modFig p (fun f => { f with st := .faulted }) (cutFig p s)
  | _ => s

/-- A module reset begins: snapshot, fence, every engine stops, and the RESET entries are written, except for PRESENCE_LOST; a reset
in progress absorbs it (11 R337, R342 steps 1-3; 15 R439). -/
def beginModReset (cause : Nat) (s : State) : State :=
  if !isReady s then s
  else
    let s := takeSnapshot cause s
    let s := fence s
    let s := (liveCtxs s).foldl (fun s c => beginCtxReset c 4 cause false s) s
    let s := (livePtns s).foldl (fun s p => stopFe p (abortAllExch p (clearStreams p (faultFig p s)))) s
    let s := (List.range 8).foldl (fun s d => (getDie s d).moverQ.foldl (fun s i => dropTransit i s) (modDie d (fun x => { x with moverQ := [] }) s)) s
    let s := if cause = 0x0903 then modFlt (fun f => { f with recsInc := true }) s else (liveCtxs s).foldl moduleEntries s
    modFlt (fun f => { f with resetting := true, n4 := satAdd 32 f.n4 1, engResets := [] })
      { railsForRepair (modBoot (fun b => { b with stage := .resetting }) s) with sets := [], qtrAvail := 0 }

/-- The engine in a record's scope (11 R446). -/
def recEngine (r : FaultRec) : Option EngineSel :=
  match r.engine, r.ptn, r.die with
  | 1, some p, _ => some (.figure (ptnId p))
  | 6, some p, _ => some (.figure (ptnId p))
  | 7, some p, _ => some (.figure (ptnId p))
  | 2, _, some d => some (.mover (dieId d))
  | 3, _, some d => some (.sampler (dieId d))
  | 4, _, some d => some (.mask (dieId d))
  | 5, _, some d => some (.exchange (dieId d))
  | _, _, _ => none

/-- The action of a recorded fault is taken (11 R332); while a module reset runs, only POWER takes effect (R337). -/
def takeAction (r : FaultRec) (s : State) : State :=
  match r.action with
  | 1 => match r.ctx with | some c => if isReady s then beginCtxReset c 1 r.code false s else s | none => s
  | 2 => match recEngine r with | some e => if isReady s then beginEngReset e r.code s else s | none => s
  | 3 => match r.ptn with | some p => if isReady s then beginPtnReset p r.code s else s | none => s
  | 4 => beginModReset r.code s
  | 5 => if switchedUp s then requestCycle r.code (switchOff .standby (takeSnapshot r.code s)) else requestCycle r.code (takeSnapshot r.code s)
  | _ => s

/-- A fault is recorded, signalled, and its action taken (11 R329, R332). -/
def raisePlain (r : FaultRec) (s : State) : State := takeAction r (recordFault r s)

/-- The mirror figure leaves the cores; a partition without a figure has no ticket (11 R351). -/
def dropMirror (p : Nat) (st : FigSt) (s : State) : State :=
  let s := modPtn p (fun x => { x with figure := none, cores := [], partner := [], barrier := 0, flow := {}, reset := none, mirrorRounds := 0, fig := { x.fig with st := st, slot := 0 },
                                       flt := { x.flt with mirrorWait := false }, pwr := { x.pwr with mirrorWant := none } }) s
  (qtrsOf s p).foldl (fun s q => modQtr q (fun x => { x with ticket := 0 }) s) s

/-- A failure of mirror mode: FAULTED, and MIRROR_FAIL with the figure quarter and kind (11 R349, R351). -/
def mirrorFail (p quarter kind : Nat) (s : State) : State :=
  raisePlain ((faultRec s 0x0206 quarter kind).withPtn p) (pulse (srcPtn p 5) (dropMirror p .faulted s))

/-- The figure quarter that a fault's record names: by its figure core, its quarter, or else quarter 0 (log 56). -/
def faultFigQtr (s : State) (p : Nat) (r : FaultRec) : Nat :=
  match r.qtr with
  | some q => ((figQtrs s p).takeWhile fun n => n != q).length
  | none => if [0x0106, 0x0201, 0x0202, 0x0204].contains r.code then r.index / 2560 else 0

/-- The module raises a fault; one raised in a partition during its mirror run fails that run, kind 5 (11 R329, R332, R349). -/
def raise (r : FaultRec) (s : State) : State :=
  let t := raisePlain r s
  match r.ptn with
  | some p => if mirroring (getPtn s p) && mirroring (getPtn t p) then mirrorFail p (faultFigQtr s p r) 5 t else t
  | none => t

/-- A fault of a code against a context; its record names the context and its partition. -/
def raiseCtx (code c index detail : Nat) (s : State) : State := raise ((faultRec s code index detail).withCtx s c) s

/-- A fault of a code against a partition. -/
def raisePtn (code p index detail : Nat) (s : State) : State := raise ((faultRec s code index detail).withPtn p) s

/-- A fault of a code with the whole module in scope. -/
def raiseMod (code index detail : Nat) (s : State) : State := raise (faultRec s code index detail) s

/-- COMPLETION_RING_FULL, once per period of a completion ring's fullness (08 R249). -/
def noteFull (r : Nat) (s : State) : State :=
  let x := getRing s r
  if x.cur.enable && x.cur.type == 1 && ringFull x && !x.fullNoted then
    raise (((faultRec s 0x0503 0 0).withCtx s x.cur.ctx).withRing r) (modRing r (fun y => { y with fullNoted := true }) s)
  else s

/-- A VF access outside its partition's subset is counted in the module log only (00 R7, 11 R329). -/
def vfAccess (fn off : Nat) (s : State) : State := raise (faultRec s 0x0506 off fn) s

/-- MOD_ERR flags of a function (00 R13). -/
def flagLocked (fn : Nat) : State → State := modFn fn fun x => { x with cfgWrIgnored := true }
def flagSize (fn : Nat) : State → State := modFn fn fun x => { x with accessSize := true }
def flagUnmapped (fn : Nat) : State → State := modFn fn fun x => { x with unmapped := true }

end Sys2Proof.Machine
end

