-- ==== Sys2Proof/Machine/PowerOps.lean ====
section
/-! DEFINITION. Dividers, voltages, tickets and budgets (01 R25, R26, R36; 13 R382-R393): the divider in force of a
partition, the neighbour limits, and how a change of either is made. -/
namespace Sys2Proof.Machine

/-! ### Neighbours (01 R25) -/

/-- Neighbour pairs of a partition: its quarter, the neighbouring quarter, and the other partition that holds it. -/
def nbrPairs (s : State) (p : Nat) : List (Nat × Nat × Nat) :=
  (qtrsOf s p).flatMap fun q => (List.range 32).filterMap fun n =>
    if adjacent q n then match ptnOfQtr s n with | some o => if o = p then none else some (q, n, o) | none => none else none

/-! ### Positions and voltages (13 R386) -/

/-- Core voltage of a divider position, mV. -/
def mvOf (d : Nat) : Nat := if d = 0 then 650 else if d = 1 then 620 else if d = 2 then 580 else 540

/-- A loaded image's ticket of a figure quarter at a position (02 R61). -/
def ticketOf (f : Figure) (k d : Nat) : Nat := (f.tickets.getD k []).getD d 0

/-- The budget that a LOAD or commit check compares with: the newest one computed (13 R383). -/
def budgetOf (s : State) (q : Nat) : Nat := let x := getQtr s q; x.nextBudget.getD x.budget

/-- Every figure quarter's ticket at a position is at most its budget. -/
def ticketsFit (s : State) (p : Nat) (f : Figure) (d : Nat) : Bool :=
  ((List.range 32).zip (figQtrs s p)).all fun e => decide (ticketOf f e.1 d ≤ budgetOf s e.2)

/-- The cap divider (13 R384). -/
def capDivOf (s : State) (p : Nat) : Nat :=
  match (getPtn s p).figure with
  | none => 0
  | some f => ((List.range 4).find? fun d => decide (f.divFastest ≤ d) && ticketsFit s p f d).getD 3

/-- FIG_DIV, or in mirror mode the divider of the image's REPORT, also while its load waits (11 R350). -/
def baseDiv (x : Ptn) : Nat :=
  if x.fig.st = .mirror then ((x.figure.bind fun f => f.report).map fun r => r.mirrorDiv).getD (x.pwr.mirrorWant.getD x.fig.cur.div)
  else x.fig.cur.div

/-- The thermal divider: the slower of the junction step and the neighbour step (13 R394). -/
def thermDiv (x : Ptn) : Nat := max (min 3 x.pwr.junction) x.pwr.nbr

/-- The forced limits of a partition without the brake (13 R384). -/
def limitDiv (s : State) (p : Nat) : Nat := max (capDivOf s p) (max (thermDiv (getPtn s p)) s.pwr.coolDiv)

/-- A partition's own divider: the slowest of FIG_DIV and the limits; ÷8 under the brake. -/
def ownDiv (s : State) (p : Nat) : Nat := if s.pwr.brake then 3 else max (baseDiv (getPtn s p)) (limitDiv s p)

/-- The divider a partition moves to: its own, or slower to stay within two positions of a neighbour's (13 R388). -/
def divTarget (s : State) (p : Nat) : Nat :=
  max (ownDiv s p) (if (nbrPairs s p).any fun e => ownDiv s e.2.2 == 3 then 1 else 0)

/-! ### Moving -/

/-- A core rail's range while it moves: the regulator's voltage and the target it is aimed at. -/
def railLow (s : State) (q : Nat) : Nat := min (getQtr s q).mv (getQtr s q).mvTarget
def railHigh (s : State) (q : Nat) : Nat := max (getQtr s q).mv (getQtr s q).mvTarget

/-- A position keeps the limits of R25 toward every neighbour's setting in force. -/
def nbrsAllow (s : State) (p d : Nat) : Bool :=
  (nbrPairs s p).all fun e =>
    decide ((getPtn s e.2.2).pwr.divActive ≤ d + 2) && decide (mvOf d ≤ railLow s e.2.1 + 80)

/-- A position keeps both limits of R25 with every neighbour, in either direction. -/
def nbrsFit (s : State) (p d : Nat) : Bool :=
  nbrsAllow s p d && (nbrPairs s p).all fun e => decide (d ≤ (getPtn s e.2.2).pwr.divActive + 2) && decide (railHigh s e.2.1 ≤ mvOf d + 80)

/-- The fastest position at or slower than `t` that the neighbours allow now; the present one when there is none. -/
def fasterPos (s : State) (p t cur : Nat) : Nat := ((List.range cur).find? fun d => decide (t ≤ d) && nbrsAllow s p d).getD cur

/-- The slowest position toward `t` that the neighbours' dividers and raised rails allow now; the present one when there is none. -/
def slowerPos (s : State) (p t cur : Nat) : Nat :=
  (((List.range (t + 1)).filter fun d => decide (cur < d) &&
    (nbrPairs s p).all fun e => decide (d ≤ (getPtn s e.2.2).pwr.divActive + 2) && decide (railHigh s e.2.1 ≤ mvOf d + 80)).getLast?).getD cur

/-- Voltage targets of a partition's quarters. -/
def aimVolts (p mv : Nat) (s : State) : State := (qtrsOf s p).foldl (fun s q => modQtr q (fun x => { x with mvTarget := mv }) s) s

/-- Every quarter of the partition has reached a voltage. -/
def voltsReach (s : State) (p mv : Nat) : Bool := (qtrsOf s p).all fun q => decide (mv ≤ (getQtr s q).mv)

/-- QTR_CURRENT.TICKET of a partition's quarters follows its figure and divider (02 R85). -/
def setTickets (p : Nat) (s : State) : State :=
  let x := getPtn s p
  ((List.range 32).zip (figQtrs s p)).foldl (fun s e =>
    modQtr e.2 (fun y => { y with ticket := match x.figure with | some f => ticketOf f e.1 x.pwr.divActive | none => 0 }) s) s

/-- A partition's budgets that waited for its divider take effect (13 R383). -/
def takeBudgets (p : Nat) (s : State) : State :=
  (qtrsOf s p).foldl (fun s q => modQtr q (fun x => { x with budget := x.nextBudget.getD x.budget, nextBudget := none }) s) s

/-- A partition's divider changes to `d` (13 R386, R387). -/
def setDivider (p d : Nat) (s : State) : State :=
  let s := modPPwr p (fun x => { x with divActive := d }) s
  aimVolts p (mvOf d) (takeBudgets p (setTickets p s))

/-- The position a partition may take now on its way to a faster one, with the stepwise return after the brake (13 R393). -/
def wantFaster (s : State) (p t : Nat) : Nat :=
  let x := (getPtn s p).pwr
  match x.brakePos with
  | none => fasterPos s p t x.divActive
  | some at_ => if s.time < at_ then x.divActive else fasterPos s p (x.divActive - 1) x.divActive

/-- The partition's stepwise return has ended or its next step waits 50 µs, 5,000 C0 cycles (13 R393). -/
def afterReturnStep (p t : Nat) (s : State) : State :=
  modPPwr p (fun x => { x with brakePos := match x.brakePos with
    | none => none
    | some _ => if x.divActive ≤ t then none else some (s.time + 5000) }) s

/-- A partition's divider at its round boundary, or at any time when it has no rounds: a slower one at once, a faster one
once the voltage is there (13 R384, R387, R388). -/
def takeDivider (p : Nat) (s : State) : State :=
  let cur := (getPtn s p).pwr.divActive
  let t := divTarget s p
  if s.pwr.brake || s.pwr.brakeWait then s
  else if cur < t then
    let d := slowerPos s p t cur
    if cur < d then setDivider p d s else aimVolts p (mvOf cur) s
  else if t < cur then
    let d := wantFaster s p t
    if d = cur then s
    else if voltsReach s p (mvOf d) then afterReturnStep p t (setDivider p d s)
    else aimVolts p (mvOf d) s
  else aimVolts p (mvOf cur) (takeBudgets p (afterReturnStep p t s))

/-- A limit changed: faster targets let the voltages rise, and partitions without rounds move at once. -/
def retargetOne (s : State) (p : Nat) : State :=
  let x := getPtn s p
  if !ptnRuns x && decide (x.fig.st ≠ .mirror) then takeDivider p s
  else if s.pwr.brake || s.pwr.brakeWait then s
  else
    let t := divTarget s p
    if t < x.pwr.divActive then
      let d := wantFaster s p t
      if d < x.pwr.divActive && !voltsReach s p (mvOf d) then aimVolts p (mvOf d) s else s
    else s

def retarget (s : State) : State := (livePtns s).foldl retargetOne s

/-! ### Mirror mode's conditions (11 R350) -/

/-- A mirror run of a figure at a divider may not start or go on. -/
def mirrorBlocked (s : State) (p : Nat) (f : Figure) (d : Nat) : Bool :=
  let x := getPtn s p
  !ticketsFit s p f d || x.pwr.parked || x.pwr.parkWant || s.pwr.brake || s.pwr.brakeWait || x.pwr.junction == 4 || decide (d < max (thermDiv x) s.pwr.coolDiv) ||
  (x.pwr.brakePos.isSome && decide (d < x.pwr.divActive))

/-- A mirror run whose conditions fail is abandoned without a failure, and waits for its next load. -/
def guardOne (s : State) (p : Nat) : State :=
  let x := getPtn s p
  match x.reset, x.figure with
  | some (c, 2), some f =>
    if mirrorBlocked s p f (baseDiv x) || (qtrsOf s p).any fun q => (getQtr s q).clamping then
      setTickets p (modPtn p (fun x => { x with reset := some (c, 1), figure := none, cores := [], partner := [], barrier := 0, flow := {}, mirrorRounds := 0, flt := { x.flt with mirrorWait := true } }) s)
    else s
  | _, _ => s

def mirrorGuard (s : State) : State := (livePtns s).foldl guardOne s

/-- A limit changed: dividers, voltages and mirror runs follow. -/
def limitsChanged (s : State) : State := mirrorGuard (retarget s)

/-- The position at which rails come on: the target, or the nearest slower, else faster, one that keeps the neighbour limits
(01 R25, R26; log 18). -/
def railPos (s : State) (p t : Nat) : Nat := (((List.range 4).filter fun d => decide (t ≤ d)) ++ (List.range t).reverse).find? (nbrsFit s p) |>.getD t

/-- A partition's rails come on with it: divider and voltages stand together (13 R381; log 18). -/
def railsTo (p : Nat) (s : State) : State :=
  let t := railPos s p (if s.pwr.brakeWait then 3 else divTarget s p)
  let s := modPPwr p (fun x => { x with divActive := t }) s
  (qtrsOf s p).foldl (fun s q => modQtr q (fun x => { x with mv := mvOf t, mvTarget := mvOf t }) s) s

/-! ### Requests (13 R388) -/

/-- A neighbour quarter's voltage: nominal for its accepted position, or the regulator's while it stands above or below the
nominal voltage of the divider in force without the brake. -/
def nbrVolts (s : State) (n o : Nat) : List Nat :=
  let x := (getPtn s o).pwr
  let v := (getQtr s n).mv
  mvOf (max (baseDiv (getPtn s o)) (limitDiv s o)) :: (if s.pwr.brake || s.pwr.brakeWait || x.brakePos.isSome || v == mvOf x.divActive then [] else [v])

/-- The refusal of a commit to divider `d`: code and quarter. -/
def settingRefused (s : State) (p d : Nat) : Option (Nat × Nat) :=
  let x := getPtn s p
  if d < x.fig.cur.div ∧ d < max (thermDiv x) s.pwr.coolDiv then some (3, (qtrsOf s p).headD 0)
  else
    let new := max d (limitDiv s p)
    (nbrPairs s p).findSome? fun e =>
      let nd := max (baseDiv (getPtn s e.2.2)) (limitDiv s e.2.2)
      if nd + 2 < new ∨ new + 2 < nd then some (1, e.1)
      else if (nbrVolts s e.2.1 e.2.2).any fun v => decide (v + 80 < mvOf new) || decide (mvOf new + 80 < v) then some (2, e.1)
      else none

/-- A refused setting is reported (13 R388; 12 R362). -/
def refuseSetting (p code q : Nat) (s : State) : State :=
  let s := modPPwr p (fun x => { x with refCode := code, refQtr := q }) s
  raise ((faultRec s 0x0806 q code).withQtr q) (pulse (srcDie (q / 4) 3) s)

/-! ### Register views (13 R399; 02 R85) -/

/-- QTR_STATUS.DIV_ACTIVE: ÷8 during self-test (01 R32), otherwise the partition's divider in force. -/
def divShown (s : State) (q : Nat) : Nat :=
  if (getQtr s q).selfTest then 3 else match ptnOfQtr s q with | some p => (getPtn s p).pwr.divActive | none => 0

/-- PWR_PTN_STATUS. -/
def ptnStatusWord (s : State) (p : Nat) : Nat :=
  let x := getPtn s p
  let lim := if s.pwr.brake then 3 else limitDiv s p
  let binds (d : Nat) : Bool := decide (baseDiv x < d) && d == ownDiv s p
  pack [(0, 1, b2n x.pwr.parked), (1, 2, lim), (4, 1, b2n (binds (capDivOf s p))), (5, 1, b2n (binds (thermDiv x))),
    (6, 1, b2n (binds s.pwr.coolDiv)), (7, 1, b2n s.pwr.brake), (8, 1, b2n ((qtrsOf s p).any fun q => (getQtr s q).clamping)),
    (12, 4, x.pwr.refCode), (16, 5, x.pwr.refQtr)]

/-- PWR_QTR. -/
def pwrQtrWord (s : State) (q : Nat) : Nat :=
  let x := getQtr s q
  let hot := (List.range 4).foldl (fun m k => max m (tget 0 x.temps k)) 0
  let y := (ptnOfQtr s q).map (getPtn s)
  pack [(0, 12, hot), (12, 12, x.current), (24, 1, b2n (y.any fun y => decide (y.fig.cur.div < thermDiv y))), (25, 1, b2n (y.any c1Gated)), (26, 1, b2n x.clamping)]

end Sys2Proof.Machine
end

