-- ==== Sys2Proof/Machine/Float.lean ====
section
/-! DEFINITION. Floating-point values as exact dyadic numbers, their binary32 rounding, and the binary32 operations of the
vector unit (03 R94, R103; 04 R125). A binary32 number is held as its 32 bits in a `Nat`. -/
namespace Sys2Proof.Machine

/-- A floating-point value: (-1)^neg × m × 2^e, an infinity, or NaN. -/
inductive Fp where
  | nan
  | inf (neg : Bool)
  | fin (neg : Bool) (m : Nat) (e : Int)
  deriving DecidableEq, Repr

namespace Fp

def zero : Fp := .fin false 0 0
def ofInt (i : Int) : Fp := .fin (decide (i < 0)) i.natAbs 0

def isZero : Fp → Bool
  | .fin _ m _ => m == 0
  | _ => false

def isNan : Fp → Bool
  | .nan => true
  | _ => false

/-- Multiplication by 2^k, exact. -/
def scale (k : Int) : Fp → Fp
  | .fin s m e => .fin s m (e + k)
  | x => x

def neg : Fp → Fp
  | .nan => .nan
  | .inf s => .inf !s
  | .fin s m e => .fin (!s) m e

def abs : Fp → Fp
  | .nan => .nan
  | .inf _ => .inf false
  | .fin _ m e => .fin false m e

/-- floor(log2 |x|) of a finite non-zero value. -/
def log2 : Fp → Int
  | .fin _ m e => (m.log2 : Int) + e
  | _ => 0

/-- The exact product (03 R101). -/
def mul : Fp → Fp → Fp
  | .nan, _ | _, .nan => .nan
  | .inf s, .inf t => .inf (s != t)
  | .inf s, .fin t m _ | .fin t m _, .inf s => if m = 0 then .nan else .inf (s != t)
  | .fin s m e, .fin t n f => .fin (s != t) (m * n) (e + f)

/-- A signed integer multiple of 2^e as a value; an exact zero is +0. -/
def ofScaled (i : Int) (e : Int) : Fp := .fin (decide (i < 0)) i.natAbs e

/-- The significand of a finite value as a signed multiple of 2^f, for f not above its exponent. -/
def atExp (neg : Bool) (m : Nat) (e f : Int) : Int :=
  let n : Int := (m * 2 ^ (e - f).toNat : Nat)
  if neg then -n else n

/-- The exact sum; opposite values give +0, and two negative zeros -0. -/
def add : Fp → Fp → Fp
  | .nan, _ | _, .nan => .nan
  | .inf s, .inf t => if s = t then .inf s else .nan
  | .inf s, _ | _, .inf s => .inf s
  | .fin s m e, .fin t n f =>
    if m = 0 ∧ n = 0 then .fin (s && t) 0 0
    else if m = 0 then .fin t n f
    else if n = 0 then .fin s m e
    else ofScaled (atExp s m e (min e f) + atExp t n f (min e f)) (min e f)

/-- x < y for values that are not NaN. -/
def lt (x y : Fp) : Bool :=
  match x, y with
  | .nan, _ | _, .nan => false
  | .inf s, .inf t => s && !t
  | .inf s, _ => s
  | _, .inf t => !t
  | .fin s m e, .fin t n f => decide (atExp s m e (min e f) < atExp t n f (min e f))

/-- floor of a finite value. -/
def floor : Fp → Int
  | .fin s m e => if 0 ≤ e then atExp s m e 0 else (if s then -(m : Int) else (m : Int)).fdiv ((2 ^ (-e).toNat : Nat) : Int)
  | _ => 0

end Fp

/-- m × 2^e rounded to a multiple of 2^q, to nearest with ties to even, as that multiple. -/
def rneShift (m : Nat) (e q : Int) : Nat :=
  if q ≤ e then m * 2 ^ (e - q).toNat
  else
    let d := 2 ^ (q - e).toNat
    let h := m / d
    let r := m % d
    if 2 * r < d then h else if d < 2 * r then h + 1 else h + h % 2

/-- A finite non-zero magnitude rounded to a significand of `mb` fraction bits with least exponent `qmin` of the last place:
the significand and its exponent (03 R107: ties to even). -/
def roundMag (mb : Nat) (qmin : Int) (m : Nat) (e : Int) : Nat × Int :=
  let q := max ((m.log2 : Int) + e - mb) qmin
  if q - e > 4096 then (0, qmin)
  else
    let n := rneShift m e q
    if n = 2 ^ (mb + 1) then (2 ^ mb, q + 1) else (n, q)

/-- The canonical binary32 NaN (04 R125). -/
def nan32 : Nat := 0x7FC00000

/-- A value as binary32 bits, rounded to nearest even; overflow gives infinity. -/
def toF32 : Fp → Nat
  | .nan => nan32
  | .inf s => b2n s * 2 ^ 31 + 0x7F800000
  | .fin s m e =>
    if m = 0 then b2n s * 2 ^ 31
    else if 200 < (m.log2 : Int) + e then b2n s * 2 ^ 31 + 0x7F800000
    else
      let r := roundMag 23 (-149) m e
      if r.1 < 2 ^ 23 then b2n s * 2 ^ 31 + r.1
      else if 104 < r.2 then b2n s * 2 ^ 31 + 0x7F800000
      else b2n s * 2 ^ 31 + (r.2 + 150).toNat * 2 ^ 23 + (r.1 - 2 ^ 23)

/-- A number with IEEE-like fields: sign bit `eb + mb`, `eb` exponent bits, `mb` fraction bits, a bias; no special values
(03 R94). -/
def ofFields (eb mb bias n : Nat) : Fp :=
  let s := bit n (eb + mb)
  let x := bits n mb eb
  let f := bits n 0 mb
  if x = 0 then .fin s f (1 - (bias : Int) - mb) else .fin s (2 ^ mb + f) ((x : Int) - bias - mb)

/-- A format with IEEE infinities and NaN at the top exponent. -/
def ofIeee (eb mb bias n : Nat) : Fp :=
  if bits n mb eb = 2 ^ eb - 1 then (if bits n 0 mb = 0 then .inf (bit n (eb + mb)) else .nan) else ofFields eb mb bias n

/-- Binary32 bits as a value. -/
def ofF32 (n : Nat) : Fp := ofIeee 8 23 127 n

/-! ### Binary32 operations (04 R125) -/

def fadd (a b : Nat) : Nat := toF32 ((ofF32 a).add (ofF32 b))
def fneg (a : Nat) : Nat := if bit a 31 then a - 2 ^ 31 else a + 2 ^ 31
def fabs (a : Nat) : Nat := if bit a 31 then a - 2 ^ 31 else a
def fsub (a b : Nat) : Nat := toF32 ((ofF32 a).add (ofF32 b).neg)
def fmul (a b : Nat) : Nat := toF32 ((ofF32 a).mul (ofF32 b))

/-- Fused multiply-add: one rounding. -/
def ffma (a b c : Nat) : Nat := toF32 (((ofF32 a).mul (ofF32 b)).add (ofF32 c))

/-- Division with one rounding. -/
def fdiv (a b : Nat) : Nat :=
  match ofF32 a, ofF32 b with
  | .nan, _ | _, .nan => nan32
  | .inf _, .inf _ => nan32
  | .inf s, .fin t _ _ => toF32 (.inf (s != t))
  | .fin s _ _, .inf t => toF32 (.fin (s != t) 0 0)
  | .fin s m e, .fin t n f =>
    if n = 0 then (if m = 0 then nan32 else toF32 (.inf (s != t)))
    else
      let q := m * 2 ^ 80 / n
      toF32 (.fin (s != t) (2 * q + (if m * 2 ^ 80 % n = 0 then 0 else 1)) (e - f - 81))

def fisNan (a : Nat) : Bool := (ofF32 a).isNan
def flt (a b : Nat) : Bool := (ofF32 a).lt (ofF32 b)
def feq (a b : Nat) : Bool := !fisNan a && !fisNan b && !flt a b && !flt b a
def fle (a b : Nat) : Bool := flt a b || feq a b

/-- MAX: NaN if either is; +0 for zeros of opposite sign. -/
def fmax (a b : Nat) : Nat :=
  if fisNan a || fisNan b then nan32
  else if flt a b then b else if flt b a then a
  else if bit a 31 then b else a

/-- MIN: NaN if either is; -0 for zeros of opposite sign. -/
def fmin (a b : Nat) : Nat :=
  if fisNan a || fisNan b then nan32
  else if flt a b then a else if flt b a then b
  else if bit a 31 then a else b

/-- An unsigned integer rounded to binary32. -/
def fofNat (n : Nat) : Nat := toF32 (.fin false n 0)

end Sys2Proof.Machine
end

