-- ==== Sys2Proof/Machine/Angle.lean ====
section
/-! DEFINITION. The cosine and sine of the rotary encoding (06 R180 step 2): the angle x × ROPE_BASE^(-2i/D) worked out in fixed point
with 512 fraction bits, far finer than the manual's bound, and a free error within that bound (log 14). -/
namespace Sys2Proof.Machine

/-- Fixed-point one. -/
def fxOne : Nat := 2 ^ 512

/-- The integer square root, bit by bit from bit `k` - 1 of the root down. -/
def rootBits : Nat → Nat → Nat → Nat
  | 0, _, r => r
  | k + 1, n, r => rootBits k n (if (r + 2 ^ k) * (r + 2 ^ k) ≤ n then r + 2 ^ k else r)

/-- A fixed-point square root of a value below 2^130. -/
def fxSqrt (x : Nat) : Nat := rootBits 640 (x * fxOne) 0

/-- `b`^(i / 2^k) in fixed point, for i < 2^k: the roots of `b`, one for each bit of i from the top. -/
def fxRootPow : Nat → Nat → Nat → Nat
  | 0, _, _ => fxOne
  | k + 1, i, b => let r := fxSqrt b; if bit i k then r * fxRootPow k i r / fxOne else fxRootPow k i r

/-- arctan(1 / k) in fixed point. -/
def fxArctan (k : Nat) : Int := ((List.range 128).map fun n => (if n % 2 = 0 then 1 else -1) * ((fxOne / (k ^ (2 * n + 1) * (2 * n + 1)) : Nat) : Int)).sum

/-- 2π in fixed point. -/
def fxTwoPi : Nat := (8 * (4 * fxArctan 5 - fxArctan 239)).toNat

/-- Cosine and sine of a fixed-point angle below 2π, by their series from term `n` on. -/
def fxCosSin (t : Nat) : Nat → Nat → Nat → Int × Int
  | 0, _, _ => (0, 0)
  | fuel + 1, n, term =>
    let r := fxCosSin t fuel (n + 1) (term * t / fxOne / (n + 1))
    let y : Int := if n / 2 % 2 = 0 then term else -(term : Int)
    if n % 2 = 0 then (r.1 + y, r.2) else (r.1, r.2 + y)

/-- The angle of pair `i` of a D-element vector at position `x`, for a positive ROPE_BASE of significand `m` and exponent `e`, less whole
turns. -/
def ropeAngle (x i d m : Nat) (e : Int) : Nat :=
  let b := if 0 ≤ e then m * 2 ^ e.toNat * fxOne else m * fxOne / 2 ^ (-e).toNat
  x * fxOne * fxOne / max 1 (fxRootPow (Nat.log2 (d / 2)) i b) % fxTwoPi

/-- A fixed-point value on a grid of 2^-60, with a free error of at most 2^-20. -/
def withErr (v : Int) (free : Nat) : Fp := .ofScaled (v / 2 ^ 452 + ((free % (2 ^ 41 + 1) : Nat) : Int) - 2 ^ 40) (-60)

/-- Cosine and sine for a position, a pair, D and ROPE_BASE. A ROPE_BASE that is not a positive number gives no angle: its values are
free. -/
def ropeCosSin (x i d : Nat) (base : Word) : Fp × Fp :=
  match ofF32 base.toNat with
  | .fin false (m + 1) e =>
    let r := fxCosSin (ropeAngle x i d (m + 1) e) 80 0 fxOne
    (withErr r.1 (Config.ropeCosErr x i d base), withErr r.2 (Config.ropeSinErr x i d base))
  | _ => (ofF32 (Config.ropeCos x i d base).toNat, ofF32 (Config.ropeSin x i d base).toNat)

end Sys2Proof.Machine
end

