-- ==== Sys2Proof/Machine/Formats.lean ====
section
/-! DEFINITION. Element formats, MX blocks, codebooks, access layouts and conversions out of FP32 (03 R92-R108). -/
namespace Sys2Proof.Machine

/-- One element of a format code (03 R92, R94, R95) as an exact value; codebook indices are looked up elsewhere. -/
def ofElem (fmt n : Nat) : Fp :=
  match fmt with
  | 0x0 => ofF32 n
  | 0x1 | 0x5 => if n % 128 = 127 then .nan else ofFields 4 3 7 n
  | 0x2 | 0x6 => ofIeee 5 2 15 n
  | 0x3 => Fp.ofInt (sext 8 n)
  | 0x4 => ofIeee 8 7 127 n
  | 0x7 => ofFields 2 3 1 n
  | 0x8 => ofFields 3 2 3 n
  | 0x9 => ofFields 2 1 1 n
  | 0xB => Fp.ofInt (sext 4 n)
  | _ => Fp.zero

/-- Bits of an element of a format (03 R92); FP32 where the code is 0 in chains. -/
def elemBits (fmt : Nat) : Nat :=
  match fmt with
  | 0x0 => 32
  | 0x4 => 16
  | 0x7 | 0x8 => 6
  | 0x9 | 0xA | 0xB => 4
  | _ => 8

/-- The format carries an MX block scale (03 R92). -/
def isMx (fmt : Nat) : Bool := decide (5 ≤ fmt) && decide (fmt ≤ 9)

/-- Elements of a packed word (03 R99): `n` elements of `w` bits, element i in bits [w i + w - 1 : w i] of the
little-endian bytes. -/
def unpackElems (w n : Nat) (bs : List Byte) : List Nat :=
  let v := leNat bs
  (List.range n).map fun i => bits v (w * i) w

/-- The packed word of elements (03 R99). -/
def packElems (w : Nat) (xs : List Nat) : List Byte :=
  leBytes ((w * xs.length + 7) / 8) (((List.range xs.length).zip xs).foldl (fun v e => v + e.2 % 2 ^ w * 2 ^ (w * e.1)) 0)

/-- An E8M0 scale as an exponent; `none` is NaN (03 R96). -/
def mxScale (b : Nat) : Option Int := if b = 0xFF then none else some ((b : Int) - 127)

/-! ### Array modes (03 R86, R93) -/

inductive ArrayMode where
  | single | dual | half
  deriving DecidableEq, Repr

/-- The permitted pairs of FMT_W and FMT_X and the mode each sets (03 R93). -/
def arrayMode (w x : Nat) : Option ArrayMode :=
  if [0x1, 0x2, 0x5, 0x6, 0x7, 0x8, 0x9, 0xA].contains w && [0x1, 0x2, 0x5, 0x6, 0x7, 0x8].contains x then some .single
  else if (w == 0x9 || w == 0xA) && x == 0x9 then some .dual
  else if (w == 0x3 || w == 0xB) && x == 0x3 then some .single
  else if w == 0xB && x == 0xB then some .dual
  else if w == 0x4 && x == 0x4 then some .half
  else none

/-- Output columns of a core (03 R86). -/
def modeCols : ArrayMode → Nat
  | .dual => 16
  | _ => 8

/-- Elements of one column or row in one access (03 R86). -/
def modeElems : ArrayMode → Nat
  | .half => 16
  | _ => 32

/-- Bytes of one PAT_W access (03 R100). -/
def wAccess (m : ArrayMode) (w : Nat) : Nat := modeCols m * modeElems m * elemBits w / 8 + (if isMx w then 16 else 0)

/-- Bytes of one PAT_A access in a matrix mode (03 R100). -/
def aAccess (m : ArrayMode) (x : Nat) : Nat :=
  if x = 0x7 ∨ x = 0x8 then 48 else modeElems m * elemBits x / 8 + (if isMx x then 16 else 0)

/-- Bytes of one PAT_A access in VECTOR mode, and the beat width (04 R117). -/
def vAccess (x : Nat) : Option (Nat × Nat) :=
  match x with
  | 0x0 => some (64, 16)
  | 0x1 | 0x2 | 0x3 => some (32, 32)
  | 0x4 => some (64, 32)
  | 0x5 | 0x6 => some (48, 32)
  | _ => none

/-- Bytes of one PUT access of `w` lanes (04 R128). -/
def putAccess (fmt w : Nat) : Nat :=
  match fmt with
  | 0x0 => 4 * w
  | 0x1 | 0x2 | 0x3 => w
  | 0x4 => 2 * w
  | 0x5 | 0x6 | 0x7 | 0x8 => 48
  | 0x9 => 32
  | 0xB => 16
  | _ => 0

/-- Position of the codebook that an access of output column `c` uses (03 R98). A CB_LOOP that PAT_W does not have counts as index 0
(log 21). -/
def codebookPos (base unitStride loop loopStride c : Nat) (i : List Nat) : Nat :=
  (base + c * unitStride + (if loop = 7 then 0 else i.getD loop 0 * loopStride)) % 64

/-! ### Products, sums and accumulation (03 R101-R103) -/

/-- A finite product truncated toward zero to a multiple of 2^q, as that signed multiple. -/
def truncTo (q : Int) : Fp → Int
  | .fin s m e =>
    let n := if q ≤ e then m * 2 ^ (e - q).toNat else m / 2 ^ (q - e).toNat
    if s then -(n : Int) else (n : Int)
  | _ => 0

/-- The access sum of one output column (03 R101, R102). -/
def accessSum (ps : List Fp) : Fp :=
  if ps.any Fp.isNan then .nan
  else
    let pos := ps.any fun p => p == .inf false
    let neg := ps.any fun p => p == .inf true
    if pos && neg then .nan
    else if pos then .inf false
    else if neg then .inf true
    else
      match (ps.filter fun p => !p.isZero).map Fp.log2 with
      | [] => Fp.zero
      | x :: xs =>
        let q := xs.foldl max x - 48
        Fp.ofScaled ((ps.map (truncTo q)).foldl (· + ·) 0) q

/-- One accumulation, with its one rounding (03 R103). -/
def accumulate (acc : Nat) (sum : Fp) (sw sx : Option Int) : Nat :=
  match sw, sx with
  | some a, some b => toF32 ((ofF32 acc).add (sum.scale (a + b)))
  | _, _ => nan32

/-! ### Conversion out of FP32 (03 R107, R108) -/

/-- A value rounded into a format of `eb`, `mb` and a bias whose largest finite code is `top`: its code without sign. -/
def narrowMag (mb bias top ovf : Nat) (m : Nat) (e : Int) : Nat :=
  if m = 0 then 0
  else if 4096 < (m.log2 : Int) + e then ovf
  else
    let r := roundMag mb (1 - (bias : Int) - mb) m e
    let c := if r.1 < 2 ^ mb then r.1 else (r.2 + bias + mb).toNat * 2 ^ mb + (r.1 - 2 ^ mb)
    if top < c then ovf else c

/-- An integer rounded to nearest even and saturated to `w` bits. -/
def narrowInt (w : Nat) : Fp → Nat
  | .nan => 0
  | .inf s => if s then 2 ^ (w - 1) else 2 ^ (w - 1) - 1
  | .fin s m e =>
    let n := if 64 < (m.log2 : Int) + e then 2 ^ 64 else if e < -4096 then 0 else rneShift m e 0
    if s then toField w (-(min n (2 ^ (w - 1)) : Nat)) else min n (2 ^ (w - 1) - 1)

/-- An exact value converted into a format code's element (03 R107). FP6 and FP4 have no NaN; their blocks become NaN. -/
def toElem (fmt : Nat) (x : Fp) : Nat :=
  let go (eb mb bias top ovf infv nanv : Nat) : Nat :=
    match x with
    | .nan => nanv
    | .inf s => b2n s * 2 ^ (eb + mb) + infv
    | .fin s m e => b2n s * 2 ^ (eb + mb) + narrowMag mb bias top ovf m e
  match fmt with
  | 0x0 => toF32 x
  | 0x1 | 0x5 => go 4 3 7 0x7E 0x7E 0x7E 0x7F
  | 0x2 | 0x6 => go 5 2 15 0x7B 0x7B 0x7C 0x7E
  | 0x3 => narrowInt 8 x
  | 0x4 => go 8 7 127 0x7F7F 0x7F80 0x7F80 0x7FC0
  | 0x7 => go 2 3 1 0x1F 0x1F 0x1F 0
  | 0x8 => go 3 2 3 0x1F 0x1F 0x1F 0
  | 0x9 => go 2 1 1 0x7 0x7 0x7 0
  | 0xB => narrowInt 4 x
  | _ => 0

/-- Exponent of an MX element type's largest normal (03 R108). -/
def mxEmax (fmt : Nat) : Int :=
  match fmt with
  | 0x5 => 8
  | 0x6 => 15
  | 0x7 => 2
  | 0x8 => 4
  | _ => 2

/-- The largest magnitude of finite values. -/
def maxMag (xs : List Fp) : Fp := xs.foldl (fun a x => if a.abs.lt x.abs then x.abs else a) Fp.zero

/-- A 32-element block quantised into an MX format: scale byte and elements (03 R108). -/
def quantMx (fmt : Nat) (vs : List Fp) : Nat × List Nat :=
  if vs.any (fun v => match v with | .fin .. => false | _ => true) then (0xFF, vs.map fun _ => 0)
  else
    let a := maxMag vs
    if a.isZero then (0x7F, vs.map fun _ => 0)
    else
      let x := max (-127) (min 127 (a.log2 - mxEmax fmt))
      ((x + 127).toNat, vs.map fun v => toElem fmt (v.scale (-x)))

end Sys2Proof.Machine
end

