-- ==== Sys2Proof/Machine/Chain.lean ====
section
/-! DEFINITION. The vector chain (04 R117-R137): stages, curve tables, reductions, the operand cache and PUT. -/
namespace Sys2Proof.Machine

/-- A binary32 value with its poison mark (04 R126). -/
structure Lane where
  v : Nat
  p : Bool
  deriving DecidableEq, Repr

/-! ### Stage encoding (04 R120-R123) -/

/-- A stage's OP, SRC and ARG. -/
def stOp (e : Nat) : Nat := bits e 0 6
def stSrc (e : Nat) : Nat := bits e 6 2
def stArg (e : Nat) : Nat := bits e 8 8

/-- The stages before the first END. -/
def stagesOf (chain : List Nat) : List Nat := chain.takeWhile (· != 0)

def isBinary (op : Nat) : Bool := decide (1 ≤ op) && decide (op ≤ 6)
def isReduce (op : Nat) : Bool := op == 0x20 || op == 0x21

/-- ARG of the chain's INB stages, if it has one (04 R121). -/
def inbArg (chain : List Nat) : Option Nat := ((stagesOf chain).find? fun e => isBinary (stOp e) && stSrc e == 3).map stArg

/-- The chain's PUT format, and whether it stands after a reduction (04 R128). -/
def putOf (chain : List Nat) : Option (Nat × Bool) :=
  let ss := stagesOf chain
  (ss.find? fun e => stOp e == 0x30).map fun e =>
    (bits (stArg e) 0 4, (ss.takeWhile fun x => stOp x != 0x30).any fun x => isReduce (stOp x))

/-! ### Curve tables (04 R133-R135) -/

def curveCoef (c : Curve) (i k : Nat) : Nat := (c.coef.getD (4 * i + k) 0).toNat

/-- fma(fma(fma(C3, t, C2), t, C1), t, C0) of a segment. -/
def curvePoly (c : Curve) (i t : Nat) : Nat :=
  ffma (ffma (ffma (curveCoef c i 3) t (curveCoef c i 2)) t (curveCoef c i 1)) t (curveCoef c i 0)

/-- A binary32 value times 2^s, with one rounding. -/
def fscale (y : Nat) (s : Int) : Nat := toF32 ((ofF32 y).scale s)

/-- min(floor(u), 255), which is 255 for an infinite u; a NaN u gives a NaN t, and so a NaN result, with any coefficients. -/
def segment (u : Nat) : Nat :=
  match ofF32 u with
  | .inf false => 255
  | x => (min (Fp.floor x) 255).toNat

/-- CURVE in the modes' order (04 R135). The parts marked exact in the rule are exact; t is rounded to binary32 (log 19). -/
def curveEval (c : Curve) (x : Nat) : Nat :=
  let v := ofF32 x
  match v with
  | .nan => nan32
  | .inf true => c.outLo.toNat
  | .inf false => c.outHi.toNat
  | .fin neg m _ =>
    if c.mode = 0 then
      let lo := c.lo.toNat
      let rs := fdiv 0x43800000 (fsub c.hi.toNat lo)
      let below := flt x lo
      let above := !below && fle c.hi.toNat x
      if (below || above) && c.outside == 2 then (if below then c.outLo.toNat else c.outHi.toNat)
      else
        let u := fmul (fsub x lo) rs
        if below || above then
          let i := if below then 0 else 255
          curvePoly c i (if c.outside = 0 then (if below then 0 else 0x3F800000) else fsub u (fofNat i))
        else
          let i := segment u
          curvePoly c i (fsub u (fofNat i))
    else if c.mode = 1 then
      if m = 0 then c.atZero.toNat
      else if neg then nan32
      else
        let n := v.log2.fdiv 2
        let u := fmul (toF32 ((v.scale (-2 * n)).add (.fin true 1 0))) (fdiv 0x43800000 0x40400000)
        let i := segment u
        fscale (curvePoly c i (fsub u (fofNat i))) (c.scaleS * n)
    else if c.mode = 2 then
      let n := v.floor
      let f := (v.add (Fp.ofInt (-n))).scale 8
      let i := f.floor.toNat
      fscale (curvePoly c i (toF32 (f.add (Fp.ofInt (-(i : Int)))))) n
    else
      if m = 0 then c.atZero.toNat
      else if neg then nan32
      else
        let e := v.log2
        let f := ((v.scale (-e)).add (.fin true 1 0)).scale 8
        let i := f.floor.toNat
        fadd (curvePoly c i (toF32 (f.add (Fp.ofInt (-(i : Int)))))) (toF32 (Fp.ofInt e))

/-! ### The operand cache (04 R130-R132) -/

/-- The word at an operand-cache byte address, for a step of a context's command. -/
def ocRead (oc : Tbl OcWord) (ctx byte : Nat) : Lane :=
  let n := byte % 4096 / 4
  let w := tget {} oc n
  if 512 ≤ n ∧ w.tag ≠ none ∧ w.tag ≠ some ctx then ⟨0, false⟩ else ⟨w.val.toNat, w.poison⟩

/-- OCPUT writes one lane (04 R131). -/
def ocPut (ctx arg elem : Nat) (l : Lane) (oc : Tbl OcWord) : Tbl OcWord :=
  tset {} ((2048 + (16 * arg + 4 * elem - 2048) % 2048) / 4) { val := BitVec.ofNat 32 l.v, poison := l.p, tag := some ctx } oc

/-! ### A row through the chain -/

/-- What a row's stages read: the context, beat width, curve positions, steering element of the row (by element number), and
input B: its elements for the row in beat order, or its row scalar first. -/
structure ChainIn where
  ctx    : Nat
  w      : Nat
  curves : List (Option Curve)
  steer  : List Lane
  inb    : List Lane
  deriving DecidableEq, Repr

/-- What a row changes: the operand cache as the present beat reads it and as it stands after the beat's writes (04 R131), the
reduction in progress, accesses written through PAT_OUT, and free draws. -/
structure ChainSt where
  oc   : Tbl OcWord
  next : Tbl OcWord
  red  : Option Lane
  outs : List (List Byte × Bool)
  free : Nat
  deriving DecidableEq, Repr

/-- The second operand for lane `j` of beat `b`. -/
def operandB (c : ChainIn) (st : ChainSt) (src arg b j : Nat) : Lane :=
  match src with
  | 0 => ⟨toF32 (ofElem 1 arg), false⟩
  | 1 => ocRead st.oc c.ctx (16 * arg)
  | 2 => ocRead st.oc c.ctx (16 * arg + 4 * (c.w * b + j))
  | _ => if bit arg 0 then c.inb.headD ⟨0, false⟩ else c.inb.getD (c.w * b + j) ⟨0, false⟩

/-- A binary stage (04 R123). -/
def binOp (op v b : Nat) : Nat :=
  match op with
  | 1 => fadd v b
  | 2 => fsub v b
  | 3 => fsub b v
  | 4 => fmul v b
  | 5 => fmax v b
  | _ => fmin v b

/-- The pairwise tree over lanes (04 R127). -/
def pairUp (f : Lane → Lane → Lane) : List Lane → List Lane
  | a :: b :: rest => f a b :: pairUp f rest
  | l => l

def tree (f : Lane → Lane → Lane) : Nat → List Lane → Lane
  | 0, l => l.headD ⟨0, false⟩
  | n + 1, l => tree f n (pairUp f l)

def redOp (op : Nat) (a b : Lane) : Lane := ⟨if op = 0x20 then fadd a.v b.v else fmax a.v b.v, a.p || b.p⟩

/-- The value of a poisoned lane is unspecified: a free value takes its place where it is written (03 R106; log 1). -/
def settle (free : Nat) (ls : List Lane) : List Lane :=
  ((List.range ls.length).zip ls).map fun e => if e.2.p then ⟨(Config.freeValue (free + e.1)).toNat, true⟩ else e.2

/-- Bytes of lanes in an output format; an MX block whose scale is NaN has free elements (03 R108, 04 R128; log 1). -/
def putBytes (fmt free : Nat) (ls : List Lane) : List Byte :=
  let vs := ls.map fun l => ofF32 l.v
  if isMx fmt then
    let q := quantMx fmt vs
    let es := if q.1 = 0xFF then (List.range ls.length).map (fun i => (Config.freeValue (free + ls.length + i)).toNat) else q.2
    padTo (putAccess fmt ls.length - 16) (packElems (elemBits fmt) es) ++ padTo 16 [BitVec.ofNat 8 q.1]
  else packElems (elemBits fmt) (vs.map (toElem fmt))

/-- PUT writes one access (04 R128). -/
def doPut (fmt : Nat) (afterRed : Bool) (ls : List Lane) (st : ChainSt) : ChainSt :=
  let bs := putBytes fmt st.free (settle st.free ls)
  { st with outs := st.outs ++ [(if afterRed then padTo 64 bs else bs, ls.any fun l => l.p)], free := st.free + 2 * ls.length }

/-- Stages of beat `b` from the first not yet applied on; `last` marks the row's last beat, `afterRed` the tail after a
reduction, which runs once per row in lane 0. -/
def runStages (c : ChainIn) (b : Nat) (last : Bool) : List Nat → Bool → List Lane → List Lane → ChainSt → ChainSt
  | [], _, _, _, st => st
  | e :: rest, afterRed, vs, tap, st =>
    let op := stOp e
    let arg := stArg e
    let ix := List.range vs.length
    if isBinary op then
      let vs := (ix.zip vs).map fun x => let o := operandB c st (stSrc e) arg b x.1; (⟨binOp op x.2.v o.v, x.2.p || o.p⟩ : Lane)
      runStages c b last rest afterRed vs tap st
    else if op = 0x08 then runStages c b last rest afterRed vs vs st
    else if op = 0x09 ∨ op = 0x0A then
      let vs := (vs.zip tap).map fun x => (⟨if op = 0x09 then fmul x.1.v x.2.v else fadd x.1.v x.2.v, x.1.p || x.2.p⟩ : Lane)
      runStages c b last rest afterRed vs tap st
    else if op = 0x10 then runStages c b last rest afterRed (vs.map fun l => ⟨fneg l.v, l.p⟩) tap st
    else if op = 0x11 then runStages c b last rest afterRed (vs.map fun l => ⟨fabs l.v, l.p⟩) tap st
    else if op = 0x12 then runStages c b last rest afterRed (vs.map fun l => ⟨fmul l.v l.v, l.p⟩) tap st
    else if op = 0x18 then
      match c.curves.getD (bits arg 0 2) none with
      | some t => runStages c b last rest afterRed (vs.map fun l => ⟨curveEval t l.v, l.p⟩) tap st
      | none => runStages c b last rest afterRed vs tap st
    else if isReduce op then
      let t := tree (redOp op) 5 vs
      let r := match st.red with | none => t | some r => redOp op r t
      if last then runStages c b last rest true [r] [] { st with red := none } else { st with red := some r }
    else if op = 0x28 then
      let vs := (ix.zip vs).map fun x =>
        match c.steer[64 * arg + c.w * b + x.1]? with
        | some o => (⟨fadd x.2.v o.v, x.2.p || o.p⟩ : Lane)
        | none => ⟨fadd x.2.v 0, x.2.p⟩
      runStages c b last rest afterRed vs tap st
    else if op = 0x30 then runStages c b last rest afterRed vs tap (doPut (bits arg 0 4) afterRed vs st)
    else if op = 0x31 then
      let w := settle st.free vs
      runStages c b last rest afterRed vs tap
        { st with next := (ix.zip w).foldl (fun oc x => ocPut c.ctx arg (c.w * b + x.1) x.2 oc) st.next, free := st.free + vs.length }
    else runStages c b last rest afterRed vs tap st

/-- All beats of a row (04 R118); what one writes to the operand cache the next one reads. -/
def chainRow (c : ChainIn) (chain : List Nat) (beats : List (List Lane)) (st : ChainSt) : ChainSt :=
  ((List.range beats.length).zip beats).foldl (fun st x =>
    let st := runStages c x.1 (x.1 + 1 == beats.length) (stagesOf chain) false x.2 [] st
    { st with oc := st.next }) { st with red := none, outs := [] }

/-- A VECTOR step's beat from one PAT_A access (04 R117, R119). -/
def vectorBeat (fmtX : Nat) (bs : List Byte) (poison : Bool) : List Lane :=
  let n := match vAccess fmtX with | some a => a.2 | none => 0
  let sc := if isMx fmtX then mxScale ((bs.getD 32 0).toNat) else some 0
  (unpackElems (elemBits fmtX) n bs).map fun x =>
    match sc with
    | none => ⟨nan32, poison⟩
    | some k => ⟨toF32 ((ofElem fmtX x).scale k), poison⟩

end Sys2Proof.Machine
end

