-- ==== Sys2Proof/Machine/Array.lean ====
section
/-! DEFINITION. The ensemble array's row (03 R86-R109), the partner unit's adapter term (05 R142, R159), and the attention
pipe's arithmetic (06 R180-R183, R443), over data already read from their stores. -/
namespace Sys2Proof.Machine

/-- One operand of an access: its elements, MX scale exponent (`none`: NaN), and poison. -/
structure Opnd where
  xs    : List Fp
  scale : Option Int
  p     : Bool
  deriving DecidableEq, Repr

/-- A broadcast activation access (03 R99, R100). -/
def actOpnd (m : ArrayMode) (fmtX : Nat) (bs : List Byte) (poison : Bool) : Opnd :=
  let n := modeElems m
  { xs := (unpackElems (elemBits fmtX) n bs).map (ofElem fmtX),
    scale := if isMx fmtX then mxScale (bs.getD (aAccess m fmtX - 16) 0).toNat else some 0, p := poison }

/-- One column of a weight access: its word, its scale byte, its codebook (03 R97, R99). -/
def colOpnd (m : ArrayMode) (fmtW : Nat) (word : List Byte) (scaleByte : Nat) (book : List Byte) (poison : Bool) : Opnd :=
  let es := unpackElems (elemBits fmtW) (modeElems m) word
  { xs := es.map fun x => if fmtW = 0xA then ofElem 1 (book.getD x 0).toNat else ofElem fmtW x,
    scale := if isMx fmtW then mxScale scaleByte else some 0, p := poison }

/-- The exact products of one output column in one access (03 R101). -/
def products (a b : Opnd) : List Fp := (a.xs.zip b.xs).map fun e => e.1.mul e.2

/-- One access added into a column's accumulator (03 R103, R106). -/
def dotStep (acc : Lane) (x w : Opnd) : Lane := ⟨accumulate acc.v (accessSum (products x w)) w.scale x.scale, acc.p || x.p || w.p⟩

/-- A column's K loop: the accumulator starts at +0 and takes the accesses in order (03 R90, R105). -/
def kLoop (xs ws : List Opnd) : Lane := (xs.zip ws).foldl (fun a e => dotStep a e.1 e.2) ⟨0, false⟩

/-! ### The adapter term (05 R142) -/

/-- A member's down value of one projection and rank, over its share accesses: activation and 32 elements of A each. -/
def downValue (fmt : Nat) (acc : List (Opnd × List Byte × Bool)) : Lane :=
  acc.foldl (fun d e =>
    let w : Opnd := { xs := (unpackElems 8 32 e.2.1).map (ofElem fmt), scale := some 0, p := e.2.2 }
    dotStep d e.1 w) ⟨0, false⟩

/-- The reducer's sum of the members' down values, narrowed to BF16 (as the element code). -/
def reduceDown (ds : List Lane) : Lane :=
  match ds with
  | [] => ⟨0, false⟩
  | d :: rest => let t := rest.foldl (fun a e => (⟨fadd a.v e.v, a.p || e.p⟩ : Lane)) d; ⟨toElem 4 (ofF32 t.v), t.p⟩

/-- One column's term: up-projection over chunks of 32 ranks, times ALPHA. -/
def adapterTerm (fmt alpha : Nat) (h : List Lane) (b : List Byte) (poison : Bool) : Lane :=
  let n := ceilDiv h.length 32
  let hs := chunks 32 n h
  let bs := chunks 32 n b
  let u := (hs.zip bs).foldl (fun u e =>
    let s := accessSum ((e.1.zip e.2).map fun x => (ofElem 4 x.1.v).mul (ofElem fmt x.2.toNat))
    toF32 ((ofF32 u).add s)) 0
  ⟨toF32 ((ofElem 4 alpha).mul (ofF32 u)), poison || h.any fun l => l.p⟩

/-! ### exp2 (06 R443) -/

/-- ln 2 in 192 fraction bits, from its series. -/
def ln2Fix : Nat := ((List.range 200).map fun k => 2 ^ 192 / ((k + 1) * 2 ^ (k + 1))).sum

/-- e^y for y in 192 fraction bits below 1, in 192 fraction bits. -/
def expFix (y : Nat) : Nat := ((List.range 64).foldl (fun (acc : Nat × Nat) k => (acc.1 + acc.2, acc.2 * y / 2 ^ 192 / (k + 1))) (0, 2 ^ 192)).1

/-- 2^x correctly rounded: exact where x is an integer, 1 where |x| is below 2^-30, and otherwise from a 192-bit evaluation,
far beyond the binary32 rounding boundary. -/
def exp2f (x : Nat) : Nat :=
  match ofF32 x with
  | .nan => nan32
  | .inf s => if s then 0 else 0x7F800000
  | .fin s m e =>
    let n := Fp.floor (.fin s m e)
    if m = 0 ∨ (Fp.fin s m e).log2 < -30 then 0x3F800000
    else if 130 < n then 0x7F800000
    else if n < -160 then 0
    else
      let f := (Fp.atExp s m e (-192) - n * 2 ^ 192).toNat
      if f = 0 then toF32 (.fin false 1 n) else toF32 (.fin false (expFix (f * ln2Fix / 2 ^ 192)) (n - 192))

/-! ### The attention pipe's arithmetic (06 R180, R181) -/

/-- A vector of elements with one poison mark, as binary32 values. -/
structure Vec where
  xs : List Nat
  p  : Bool
  deriving DecidableEq, Repr

/-- Elements of a format as binary32. -/
def vecOfBytes (fmt n : Nat) (bs : List Byte) (poison : Bool) : Vec := ⟨(unpackElems (elemBits fmt) n bs).map fun x => toF32 (ofElem fmt x), poison⟩

/-- The rotation of position `x` over pairs (i, i + D/2), each element rounded once (06 R180 step 2). -/
def rotate (base : Word) (x : Nat) (v : Vec) : Vec :=
  if base = 0 then v
  else
    let d := v.xs.length
    let h := d / 2
    let g (i : Nat) : Fp := ofF32 (v.xs.getD i 0)
    let cs := (List.range h).map fun i => ropeCosSin x i d base
    let c (i : Nat) : Fp := (cs.getD i (.zero, .zero)).1
    let s (i : Nat) : Fp := (cs.getD i (.zero, .zero)).2
    { v with xs := (List.range h).map (fun i => toF32 (((g i).mul (c i)).add ((g (i + h)).mul (s i)).neg)) ++
                   (List.range h).map (fun i => toF32 (((g i).mul (s i)).add ((g (i + h)).mul (c i)))) }

/-- A vector narrowed to a format, as element codes. -/
def vecNarrow (fmt : Nat) (v : Vec) : List Nat := v.xs.map fun x => toElem fmt (ofF32 x)

/-- Accumulate access sums of `k` products each (32, or 16 in BF16) (06 R181). -/
def dotAcc (k : Nat) (acc : Nat) (ps : List Fp) : Nat := (chunks k (ceilDiv ps.length k) ps).foldl (fun a w => toF32 ((ofF32 a).add (accessSum w))) acc

/-- A key position as the pipe holds it: attended, key and value as exact element values, poison. -/
structure KvPos where
  att : Bool
  k   : List Fp
  v   : List Fp
  p   : Bool
  deriving DecidableEq, Repr

/-- Negative infinity in binary32. -/
def ninf : Nat := 0xFF800000

/-- Running state of one head and query position. -/
structure AttAcc where
  m : Nat
  l : Nat
  o : List Nat
  p : Bool
  deriving DecidableEq, Repr

/-- One chunk of 32 positions (06 R181); `k` products an access sum. -/
def attChunk (k : Nat) (scale : Word) (q : List Fp) (a : AttAcc) (ys : List KvPos) : AttAcc :=
  if !(ys.any fun y => y.att) then a
  else
    let sc := ys.map fun y => if y.att then fmul (dotAcc k 0 ((q.zip y.k).map fun e => e.1.mul e.2)) scale.toNat else ninf
    let mc := sc.foldl fmax a.m
    let f := if a.m = ninf then 0 else exp2f (fsub a.m mc)
    let p := sc.map fun s => if s = ninf then 0 else exp2f (fsub s mc)
    let tr := tree (fun x y => ⟨fadd x.v y.v, false⟩) 5 (p.map fun x => ⟨x, false⟩)
    { m := mc, l := fadd (fmul a.l f) tr.v, p := a.p || ys.any (fun y => y.att && y.p),
      o := ((List.range a.o.length).zip a.o).map fun e =>
        dotAcc k (fmul e.2 f) ((p.zip ys).map fun x => if x.2.att then (ofF32 x.1).mul (x.2.v.getD e.1 Fp.zero) else Fp.zero) }

/-- The output of one head and query position over its chunks, in ascending position order. -/
def attOut (k : Nat) (scale vScale : Word) (d : Nat) (q : List Fp) (cs : List (List KvPos)) : List Nat × Bool :=
  let a := cs.foldl (attChunk k scale q) ⟨ninf, 0, List.replicate d 0, false⟩
  (a.o.map fun o => fmul (fdiv o a.l) vScale.toNat, a.p)

end Sys2Proof.Machine
end

