-- ==== Sys2Proof/Machine/Sampler.lean ====
section
/-! DEFINITION. The sampler's and the mask engine's arithmetic (09 R273, R274, R278, R279, R282): masks, candidate lists, draws
and the acceptance of drafts. Values are binary32 bits. -/
namespace Sys2Proof.Machine

/-! ### Masks (09 R278, R279) -/

/-- Tokens that a mask allows in a state. -/
def maskAllows (k : Mask) (st t : Nat) : Bool :=
  if k.automaton then (match k.bitmaps[st]? with | some b => bit (b.getD (t / 8) 0).toNat (t % 8) | none => false) else k.tokens.contains t

/-- The state after an emitted token. -/
def maskNext (k : Mask) (st t : Nat) : Nat :=
  if k.automaton then
    match k.states[st]? with
    | some (first, count, dflt) => match ((k.edges.drop first).take count).find? fun e => e.1 == t with | some e => e.2 | none => dflt
    | none => st
  else 0

/-- States of a mask, for the check of MASK_STATE. -/
def maskStates (k : Mask) : Nat := if k.automaton then k.states.length else k.tokens.length

/-! ### Draws (09 R274) -/

def mix (x : Nat) : Nat :=
  let x := (x ^^^ (x / 2 ^ 30)) * 0xBF58476D1CE4E5B9 % 2 ^ 64
  let x := (x ^^^ (x / 2 ^ 27)) * 0x94D049BB133111EB % 2 ^ 64
  x ^^^ (x / 2 ^ 31)

/-- u(SEED, y, s), exact in binary32. -/
def drawU (seed y st : Nat) : Nat := toF32 (.fin false (mix ((seed + 0x9E3779B97F4A7C15 * (4 * y + st + 1)) % 2 ^ 64) / 2 ^ 40) (-24))

/-- draw(L, S, u). -/
def drawFrom (l : List (Nat × Nat)) (sum u : Nat) : Nat :=
  let target := fmul u sum
  let r := l.foldl (fun (acc : Nat × Option Nat) e =>
    match acc.2 with
    | some t => (acc.1, some t)
    | none => let c := fadd acc.1 e.2; (c, if flt target c then some e.1 else none)) (0, none)
  r.2.getD ((l.getLast?.map (·.1)).getD 0)

/-! ### Candidate lists (09 R273) -/

/-- A candidate list with its sum; `none` when the position has no candidate. -/
abbrev CandList := Option (List (Nat × Nat) × Nat)

/-- Descending by value, ties by lower token. -/
def candLe (a b : Nat × Nat) : Bool := flt b.2 a.2 || (!flt a.2 b.2 && decide (a.1 ≤ b.1))

/-- The `n` best entries of a list, kept sorted as the tokens pass. -/
def topN (n : Nat) (zs : List (Nat × Nat)) : List (Nat × Nat) := zs.foldl (fun l z => (insertBy candLe z l).take n) []

/-- The prefix of weights whose running sum reaches a bound. -/
def prefixSum (bound : Nat) : List (Nat × Nat) → Nat → List (Nat × Nat) × Nat
  | [], c => ([], c)
  | e :: es, c =>
    let c := fadd c e.2
    if fle bound c then ([e], c) else let r := prefixSum bound es c; (e :: r.1, r.2)

/-- The candidate list of a position from its logits. -/
def candidates (zs : List Nat) (allowed : Nat → Bool) (invTemp topP topK : Nat) : CandList :=
  let z := ((List.range zs.length).zip zs).filter fun e => !fisNan e.2 && allowed e.1 && e.2 != 0xFF800000
  if z.isEmpty then none
  else if invTemp = 0 ∨ invTemp = 0x80000000 then (topN 1 z).head?.map fun e => ([(e.1, 0x3F800000)], 0x3F800000)
  else
    let c := topN (if topK = 0 then 64 else min topK 64) z
    let k := fmul invTemp 0x3FB8AA3B
    let w := c.map fun e => (e.1, exp2f (fmul (fsub e.2 ((c.head?.map (·.2)).getD 0)) k))
    let t := w.foldl (fun a e => fadd a e.2) 0
    some (prefixSum (fmul topP t) w 0)

def weightOf (l : List (Nat × Nat)) (t : Nat) : Nat := ((l.find? fun e => e.1 == t).map (·.2)).getD 0

/-! ### Emission (09 R282) -/

/-- residual(Lp, Lq). -/
def residual (lp lq : List (Nat × Nat) × Nat) : List (Nat × Nat) × Nat :=
  let r := lp.1.foldl (fun (acc : List (Nat × Nat) × Nat) e =>
    let v := fsub (fdiv e.2 lp.2) (fdiv (weightOf lq.1 e.1) lq.2)
    if flt 0 v then (acc.1 ++ [(e.1, v)], fadd acc.2 v) else acc) ([], 0)
  if r.1.isEmpty then lp else r

/-- A draft is accepted at position `y`. -/
def acceptDraft (greedy : Bool) (seed y t : Nat) (lp lq : List (Nat × Nat) × Nat) : Bool :=
  if greedy then (lp.1.head?.map (·.1)) == some t
  else fle (fmul (fmul (drawU seed y 1) (weightOf lq.1 t)) lp.2) (fmul (weightOf lp.1 t) lq.2)

/-- What a row emits: tokens, the accepted count, and whether a needed position had no candidate. `drafts` holds each draft
with its list; `mains` the main lists from position 0 on. -/
def decideRow (greedy : Bool) (seed fill : Nat) : Nat → List (Nat × (List (Nat × Nat) × Nat)) → List CandList → List Nat × Nat × Bool
  | j, (t, lq) :: ds, some lp :: ms =>
    let y := fill + j + 1
    if acceptDraft greedy seed y t lp lq then
      let r := decideRow greedy seed fill (j + 1) ds ms
      (t :: r.1, r.2.1 + 1, r.2.2)
    else let q := residual lp lq; ([drawFrom q.1 q.2 (drawU seed y 0)], 0, false)
  | j, [], some lp :: _ => ([drawFrom lp.1 lp.2 (drawU seed (fill + j + 1) 0)], 0, false)
  | _, _, _ => ([], 0, true)

end Sys2Proof.Machine
end

