-- ==== Sys2Proof/Machine/RowOps.lean ====
section
/-! DEFINITION. The phases of a batch step boundary that follow the records (09 R266 phases 2-6; 05 R146, R153-R155; 06
R193-R196, R199), and the start of a batch step (R264). -/
namespace Sys2Proof.Machine

/-! ### Records of rows -/

/-- Rows of a batch that a test selects, ascending. -/
def rowsIn (b : Batch) (sel : BRow → Bool) : List Nat := (b.rows.filter fun e => sel e.2).map (·.1)

/-- A row that holds a request which takes part in boundaries: ACTIVE or SITTING (09 R265). -/
def rowLive (x : BRow) : Bool := decide (x.st = .active) || decide (x.st = .sitting)

/-- A row's draft count for a step (09 R281, R284). -/
def rowD (x : BRow) : Nat := if x.retired then 0 else x.desc.draft

/-- A record of an unfinished row within a boundary, at the FILL of its page table (09 R288-R291). -/
def rowRecord (p b r type value detail flags : Nat) (s : State) : State :=
  let x := getRow (getBatch s p b) r
  if x.finished then s else emitRec p b r type value (rowFill s p x.desc) detail flags s

def killRow (p b r : Nat) : State → State := modRow p b r fun x => { x with st := .dead, sat := false, parked := false }

/-- A row fault (05 R155; 06 R199; 09 R272, R279): the record, and with the action ROW one FAULT record; `kill` makes the row
DEAD. A raised action takes the place of the row handling (11 R446). -/
def rowFault (p b r code index detail : Nat) (die : Option Nat) (kill : Bool) (s : State) : State :=
  let x := getRow (getBatch s p b) r
  let f := (((faultRec s code index detail).withCtx s (getBatch s p b).ctx).withRing x.desc.ring).withRow r
  let act := policyOf s code
  let s := raise { f with die := die } s
  if act = 6 then
    let s := rowRecord p b r 3 0 code 0 s
    if kill then killRow p b r s else s
  else s

/-! ### Phase 2: replacements, ALPHA, closing -/

/-- A row takes a new descriptor in full (09 R270). -/
def newRow (d : RowDesc) : BRow := { st := if d.empty then .empty else .active, desc := d, maskState := d.maskState, finished := d.empty }

/-- A row is replaced: an unfinished request first receives CLOSED (09 R295). -/
def replaceRow (p b r : Nat) (d : RowDesc) (s : State) : State :=
  let s := if (getRow (getBatch s p b) r).st = .empty then s else rowRecord p b r 6 0 1 0 s
  modRow p b r (fun _ => newRow d) s

/-- Pending ROW_SET lists apply, and their commands end with the rows replaced (08 R246; 09 R266). -/
def applyRowSets (p b : Nat) (s : State) : State :=
  let l := (getBatch s p b).rowSets
  let s := modBatch p b (fun x => { x with rowSets := [] }) s
  l.foldl (fun s e => endCmd e.1 e.2.1 0 e.2.2.length (e.2.2.foldl (fun s d => replaceRow p b d.1 d.2 s) s)) s

/-- The waiting ADAPTER_SET, ADAPTER_CLEAR, STEER_SET or STEER_CLEAR commands of an entry end with OK. -/
def endWaiting (opcode id : Nat) (s : State) : State :=
  ((allCmds s).filter fun k => k.opcode == opcode && decide (k.phase = .waiting) && opf k.ops 2 0 16 == id).foldl (fun s k => endCmd k.ring k.idx 0 0 s) s

/-- A batch of a context has passed a boundary or closed: changed scales apply to it, and an ADAPTER_SET that no batch holds up
any more ends (05 R146). -/
def passAlpha (c b : Nat) (s : State) : State :=
  (s.adapters.filter fun e => e.2.ctx == c && !e.2.oldAlpha.isEmpty).foldl (fun s e =>
    let s := modAdapter e.1 (fun x => { x with oldAlpha := tdel b x.oldAlpha }) s
    if (getAdapter s e.1).oldAlpha.isEmpty then endWaiting 0x30 e.1 s else s) s

/-- Descriptors of the standing rows of the module. -/
def standing (s : State) : List RowDesc :=
  s.ptns.flatMap fun e => e.2.batches.flatMap fun b => if b.2.open_ then (b.2.rows.filter fun r => decide (r.2.st ≠ .empty)).map fun r => r.2.desc else []

/-- REFS recounted; RETIRING entries that no standing row names become FREE and their CLEAR commands end (05 R146, R165). -/
def recountRefs (s : State) : State :=
  let ds := standing s
  let s := (s.adapters.filter fun e => decide (e.2.st ≠ .free)).foldl (fun (s : State) (e : Nat × Adapter) =>
    let n := (ds.filter fun d => !d.aNone && d.adapter == e.1).length
    if n = 0 ∧ e.2.st = .retiring then endWaiting 0x31 e.1 (modAdapter e.1 (fun _ => {}) s) else modAdapter e.1 (fun x => { x with refs := n }) s) s
  (s.steers.filter fun e => decide (e.2.st ≠ .free)).foldl (fun (s : State) (e : Nat × Steer) =>
    let n := (ds.filter fun d => !d.sNone && d.steer == e.1).length
    if n = 0 ∧ e.2.st = .retiring then endWaiting 0x33 e.1 (modSteer e.1 (fun _ => {}) s) else modSteer e.1 (fun x => { x with refs := n }) s) s

/-- The BATCH_RUNs of a batch that wait or are set aside end with a status and the steps that they completed (08 R246; 09 R295). -/
def dropRuns (p b status : Nat) (queued : Bool) (s : State) : State :=
  let f := (getPtn s p).fe
  let mine (r : Running) : Bool := r.opcode == 0x21 && r.batch == b
  let runs := (f.saved.filter fun v => mine v.run).map (fun v => v.run) ++ (if queued then f.queue.filter mine else [])
  runs.foldl (fun s r => endCmd r.ring r.idx status r.done s)
    (modFe p (fun f => { f with saved := f.saved.filter fun v => !mine v.run, queue := if queued then f.queue.filter fun r => !mine r else f.queue }) s)

/-- A batch closes: CLOSED records with a DETAIL, and its number is free; pending ROW_SETs and waiting BATCH_RUNs end with STATE (09
R295). -/
def closeBatch (p b detail : Nat) (s : State) : State :=
  let x := getBatch s p b
  let s := dropRuns p b 0x11 true s
  let s := (unfinishedRows x).foldl (fun s r => finishRow p b r (rowRecord p b r 6 0 detail 0 s)) s
  let s := x.rowSets.foldl (fun s e => endCmd e.1 e.2.1 0x11 0 s) s
  let s := match x.closing with | some e => endCmd e.1 e.2 0 0 s | none => s
  recountRefs (passAlpha x.ctx b (freeBatch p b (if detail = 2 then bumpGen p b s else s)))

/-! ### Phase 3: deadlines (09 R266) -/

def deadlines (p b tb : Nat) (s : State) : State :=
  (rowsIn (getBatch s p b) fun x => rowLive x && decide (x.desc.deadline ≠ 0) && decide (x.desc.deadline ≤ tb)).foldl
    (fun s r => killRow p b r (rowRecord p b r 2 0 0 0 s)) s

/-! ### Phase 4: segments and references (05 R153-R155; 09 R279) -/

/-- The plan and the map bound to the loaded slot. -/
def loadedPlan (s : State) (p : Nat) : Option Plan := let x := getPtn s p; if x.figure.isSome then tget none x.units.plans x.fig.slot else none
def loadedMap (s : State) (p : Nat) : Option AttMap := let x := getPtn s p; if x.figure.isSome then tget none x.att.maps x.fig.slot else none

/-- An adapter that a row of a context may not use now (05 R155). -/
def adapterBad (s : State) (p c a : Nat) : Bool :=
  let e := getAdapter s a
  decide (e.st ≠ .valid) || e.ctx != c || (match loadedPlan s p with | none => true | some k => e.planTag != k.tag || decide (k.maxRank < e.rank))

def steerBad (s : State) (c a : Nat) : Bool := let e := getSteer s a; decide (e.st ≠ .valid) || e.ctx != c

/-- A mask that a row may not use (09 R279). -/
def maskBad (s : State) (c vocab : Nat) (x : BRow) : Bool :=
  let k := getMask s x.desc.mask
  !x.desc.mNone && (!k.set || k.ctx != c || k.vocab != vocab || decide (maskStates k ≤ x.maskState))

/-- One row as a segment of its own. -/
def rowSegment (s : State) (p c : Nat) (x : BRow) (r : Nat) : Segment :=
  let live := rowLive x
  let a := if live && !x.desc.aNone then some x.desc.adapter else none
  let t := if live && !x.desc.sNone then some x.desc.steer else none
  let ab := match a with | some i => adapterBad s p c i | none => false
  let sb := match t with | some i => steerBad s c i | none => false
  { first := r, count := 1, adapter := a, aFault := ab, steer := t, sFault := sb, aNext := 0, sNext := 0 }

/-- A row joins the last segment when both references agree; `l` is newest first. -/
def joinSegment (l : List Segment) (g : Segment) : List Segment :=
  match l with
  | h :: rest => if h.adapter = g.adapter ∧ h.steer = g.steer ∧ h.aFault = g.aFault ∧ h.sFault = g.sFault then { h with count := h.count + 1 } :: rest else g :: l
  | [] => [g]

/-- A_NEXT and S_NEXT: the index of the next segment with the same reference, or 0. -/
def linkSegments (l : List Segment) : List Segment :=
  ((List.range l.length).zip l).map fun e =>
    let next (f : Segment → Bool) : Nat := (((List.range l.length).zip l).find? fun g => decide (e.1 < g.1) && f g.2).elim 0 (·.1)
    { e.2 with aNext := if e.2.adapter.isSome then next (fun g => decide (g.adapter = e.2.adapter)) else 0,
               sNext := if e.2.steer.isSome then next (fun g => decide (g.steer = e.2.steer)) else 0 }

/-- The segment table of a batch. -/
def segmentsOf (s : State) (p b : Nat) : List Segment :=
  let x := getBatch s p b
  linkSegments (((List.range x.desc.rows).map fun r => rowSegment s p x.ctx (getRow x r) r).foldl joinSegment []).reverse

/-- The segment build with its faults: ADAPTER_REF before STEER_REF; a row receives one FAULT record (05 R155). -/
def buildSegments (p b : Nat) (s : State) : State :=
  let c := (getBatch s p b).ctx
  let segs := segmentsOf s p b
  let s := recountRefs (modBatch p b (fun x => { x with segs := segs }) s)
  (rowsIn (getBatch s p b) rowLive).foldl (fun s r =>
    let d := (getRow (getBatch s p b) r).desc
    if !d.aNone && adapterBad s p c d.adapter then rowFault p b r 0x0301 0 d.adapter none true s
    else if !d.sNone && steerBad s c d.steer then rowFault p b r 0x0302 0 d.steer none true s
    else s) s

/-- MASK_REF of rows, at the boundary before their step (09 R279). -/
def checkMasks (p b : Nat) (s : State) : State :=
  let x := getBatch s p b
  (rowsIn x rowLive).foldl (fun s r =>
    let y := getRow (getBatch s p b) r
    if maskBad s x.ctx x.desc.vocab y then rowFault p b r 0x0602 0 y.desc.mask (some (samplerDie x.desc r)) true s else s) s

/-! ### Phase 5: the allocation pass (06 R193-R196, R199) -/

/-- What the pass finds for a row. -/
inductive KvOut where
  | ok
  | missing
  | exhausted (pages : Nat)
  | fault (code detail : Nat)
  deriving DecidableEq, Repr

/-- The header of a row's table is usable: owner, LH, table and log in T0 and T1. -/
def tableOk (s : State) (p c a : Nat) (m : Option AttMap) : Bool :=
  a % 64 == 0 && rangeNear s p a 64 &&
  (let t := readTab s p a
   match m with
   | none => false
   | some k => t.ctx == c && t.lh == k.layers * k.kvHeads && rangeNear s p a (64 + 4 * t.lh * t.blocks) && t.logAddr % 64 == 0 && rangeNear s p t.logAddr (4 * t.logCap))

/-- The first block that a query at FILL attends to (06 R181). -/
def firstAttended (k : AttMap) (fill : Nat) : Nat := if k.window = 0 then 0 else fill + 1 - k.window

/-- Poisoned pages among a row's entries leave the sequence, and their lowest block is missing (06 R195). -/
def dropPoisoned (p c a : Nat) (es : List Nat) (s : State) : State :=
  let bad := es.filter fun e => let w := readEnt s p a e; entValid w && entPoisoned w
  match bad.head? with
  | none => s
  | some e => modTab p a (fun t => { t with hasDrop := true, dropFrom := if t.hasDrop then min t.dropFrom (e / t.lh) else e / t.lh }) (returnPages p c a bad dropMark s)

/-- The first entry whose PAGE lies beyond the pool, and the first without VALID below the missing range within the attended
positions (06 R199). -/
def pageBad (s : State) (p a : Nat) (es : List Nat) : Option Nat :=
  es.find? fun e => let w := readEnt s p a e; entValid w && decide ((getPtn s p).att.poolPages ≤ entPage w)

def gapBad (s : State) (p a P lo top : Nat) (es : List Nat) : Option Nat :=
  let t := readTab s p a
  es.find? fun e => !entValid (readEnt s p a e) && decide (e / t.lh * P < top) && decide (lo < e / t.lh * P + P)

/-- Blocks allocated one after another for a row; the pages that could not be had, or 0. -/
def allocBlocks (p c a : Nat) (fresh : List Nat) : List Nat → State → Nat × State
  | [], s => (0, s)
  | b :: bs, s => match allocBlock p c a b fresh s with | (0, s) => allocBlocks p c a fresh bs s | (n, s) => (n, s)

/-- The pass for one row; `fresh` lists the sequences that have allocated in it. -/
def allocRow (p c a : Nat) (dup : Bool) (fresh : List Nat) (s : State) : KvOut × List Nat × State :=
  match loadedMap s p with
  | none => (.fault 0x0304 0xFFFFFFFF, fresh, s)
  | some k =>
    if dup || !tableOk s p c a (some k) then (.fault 0x0304 0xFFFFFFFF, fresh, s)
    else
      let t := readTab s p a
      let P := kvP k.d k.kvFmt
      if t.blocks * P < t.fill + k.qpos ∨ t.logCap < t.fill + k.qpos then (.fault 0x0303 t.fill, fresh, s)
      else
        let lo := firstAttended k t.fill
        let last := (t.fill + k.qpos - 1) / P
        let es := (List.range ((last + 1 - lo / P) * t.lh)).map fun i => lo / P * t.lh + i
        match pageBad s p a es with
        | some e => (.fault 0x0304 e, fresh, s)
        | none =>
          let s := dropPoisoned p c a es s
          let t := readTab s p a
          match gapBad s p a P lo (min (missingFrom t P) t.fill) es with
          | some e => (.fault 0x0304 e, fresh, s)
          | none =>
            if hasMissing t P || t.recomputing then (.missing, fresh, s)
            else match allocBlocks p c a fresh ((List.range (last + 1 - t.fill / P)).map fun i => t.fill / P + i) s with
              | (n, t) => (if n = 0 then .ok else .exhausted n, if t.free = s.free then fresh else fresh ++ [a], t)

/-- A page table is named by an earlier standing row of the partition: of a lower batch number, or of the batch itself (06 R199; log 47). -/
def tableTaken (s : State) (p b r : Nat) : Bool :=
  let a := (getRow (getBatch s p b) r).desc.pageTable
  (getPtn s p).batches.any fun x => x.2.open_ && x.2.rows.any fun e =>
    (decide (x.1 < b) || (x.1 == b && decide (e.1 < r))) && decide (e.2.st ≠ .empty) && e.2.desc.pageTable == a

/-- What follows for a row: it takes part, sits out with one record a period, or is faulted (06 R196, R199). -/
def rowOutcome (p b r : Nat) (o : KvOut) (s : State) : State :=
  let x := getRow (getBatch s p b) r
  let t := readTab s p x.desc.pageTable
  let miss := match loadedMap s p with | some k => hasMissing t (kvP k.d k.kvFmt) || t.recomputing | none => false
  let from_ := match loadedMap s p with | some k => missingFrom t (kvP k.d k.kvFmt) | none => 0
  match o with
  | .fault code det => rowFault p b r code 0 det none true s
  | .exhausted n =>
    let s := if x.exhNoted then s else rowFault p b r 0x0305 0 n none false s
    modRow p b r (fun x => { x with sat := true, missNoted := false, exhNoted := true }) s
  | _ =>
    if miss then
      let s := if x.missNoted then s else rowRecord p b r 4 0 from_ 0 s
      modRow p b r (fun x => { x with sat := true, missNoted := true, exhNoted := false }) s
    else modRow p b r (fun x => { x with sat := false, missNoted := false, exhNoted := false }) s

/-- The allocation pass, and after it the sit-outs it decides. -/
def allocPass (p b : Nat) (s : State) : State :=
  let x := getBatch s p b
  let r := (rowsIn x rowLive).foldl (fun (acc : List (Nat × KvOut) × List Nat × State) r =>
    let y := allocRow p x.ctx (getRow x r).desc.pageTable (tableTaken s p b r) acc.2.1 acc.2.2
    (acc.1 ++ [(r, y.1)], y.2.1, y.2.2)) ([], [], s)
  r.1.foldl (fun s e => rowOutcome p b e.1 e.2 s) r.2.2

/-! ### Phase 6: admission (09 R293) -/

/-- Rows of the open batches but one that name a token ring, as the module's (partition, batch) pairs order them. -/
def ringRows (s : State) (p b ring : Nat) : List BRow :=
  s.ptns.flatMap fun e => e.2.batches.flatMap fun x =>
    if x.2.open_ && !(e.1 == p && x.1 == b) then (x.2.rows.map (·.2)).filter fun y => y.desc.ring == ring else []

/-- One token ring's rows are admitted in ascending order, beside what the rows of its other batches have been admitted for; the parked
ones are counted. A parking period lasts while a row of the ring is parked. -/
def admitRing (p b ring : Nat) (s : State) : State :=
  let x := getBatch s p b
  let rows := rowsIn x fun y => rowLive y && !y.sat && y.desc.ring == ring
  let others := ringRows s p b ring
  let taken := ((others.filter fun y => decide (y.st = .active)).map fun y => 1 + rowD y).sum
  let free := ringFree (getRing s ring) - ((getRing s ring).recs.length + (getRing s ring).made.length + taken)
  let period := others.any (fun y => y.parked) || rows.any fun r => (getRow x r).parked
  let r := rows.foldl (fun (acc : Nat × List Nat) r =>
    let need := 1 + rowD (getRow x r)
    if acc.1 + need ≤ free then (acc.1 + need, acc.2) else (acc.1, acc.2 ++ [r])) (0, [])
  let s := rows.foldl (fun s i => modRow p b i (fun y => { y with parked := r.2.contains i }) s) s
  if r.2.isEmpty then modRing ring (fun y => { y with parkNoted := y.parkNoted && others.any fun y => y.parked }) s
  else if (getRing s ring).parkNoted && period then s
  else modRing ring (fun y => { y with parkNoted := true }) (raise (((faultRec s 0x0603 0 r.2.length).withCtx s x.ctx).withRing ring) s)

/-- Rows that sit out are SITTING, the others ACTIVE (09 R265). -/
def seatRows (p b : Nat) (s : State) : State :=
  modBatch p b (fun x => { x with rows := x.rows.map fun e => if rowLive e.2 then (e.1, { e.2 with st := if e.2.sat || e.2.parked then .sitting else .active }) else e }) s

def admitRows (p b : Nat) (s : State) : State :=
  let x := getBatch s p b
  seatRows p b ((naddAll ((rowsIn x rowLive).map fun r => (getRow x r).desc.ring) []).foldl (fun s ring => admitRing p b ring s) s)

/-- Phases 3-6 (09 R266). -/
def rowPhases (p b tb : Nat) (replaced : Bool) (s : State) : State :=
  let s := deadlines p b tb s
  let s := checkMasks p b (if replaced then buildSegments p b s else s)
  if (getBatch s p b).open_ then admitRows p b (allocPass p b s) else s

/-! ### Steps (09 R264) -/

/-- Rounds of one pass. -/
def passRounds (d : BDesc) : Nat := ceilDiv d.rows d.perRound

/-- A batch step begins: the first draft pass, or the verify pass when there are no drafts. -/
def startStep (p b : Nat) (s : State) : State :=
  let s := eachSignals (deadlines p b s.time) s
  modBatch p b (fun x => { x with step := some { passNo := if x.desc.maxDraft = 0 then 0 else 1 } })
    (modPtn p (fun x => { x with partner := tmap {} (fun w => { w with seg := 0 }) x.partner }) s)

end Sys2Proof.Machine
end

