-- ==== Sys2Proof/Machine/FeOps.lean ====
section
/-! DEFINITION. The figure engine's service of its queue (08 R250-R257): ready contexts, turns and debts, beginning, stopping and
ending figure work, parking (13 R391), and the save area (R256). -/
namespace Sys2Proof.Machine

/-! ### Save areas (08 R256) -/

/-- Pages that a save area needs for a loaded figure. -/
def savePages (s : State) (p : Nat) (f : Figure) : Nat := (qtrsOf s p).length * ceilDiv ((f.saveLines + 1) * 64) pageBytes

/-- The context's usable save area. -/
def saveArea (s : State) (p c : Nat) : Option Nat :=
  let k := (getCtx s c).cur
  match (getPtn s p).figure with
  | none => none
  | some f =>
    let o := getObj s p k.saveObj
    let held := (getPtn s p).fe.saved.any fun v => v.area == some k.saveObj
    if k.saveVal && decide (o.st = .valid) && o.ctx == c && o.home == 0 && o.placeMode == 0 && !o.readOnly && decide (savePages s p f ≤ o.pages) && !held
    then some k.saveObj else none

/-- The loaded figure has bow positions. -/
def hasBows (s : State) (p : Nat) : Bool := match (getPtn s p).figure with | some f => !f.bowPoints.isEmpty | none => false

/-! ### Ready work and turns (08 R251, R252) -/

/-- A context's SLICE_US in C0 cycles; 0 acts as 1 µs. -/
def sliceCycles (s : State) (c : Nat) : Nat := 100 * max 1 (getCtx s c).cur.slice

/-- Contexts with waiting or saved figure work that may run, ascending. -/
def readyCtxs (s : State) (p : Nat) : List Nat :=
  let f := (getPtn s p).fe
  (naddAll (f.saved.map fun v => v.run.ctx) (naddAll (f.queue.map fun r => r.ctx) [])).filter fun c => decide ((getCtx s c).st = .enabled)

/-- The engine may serve figure work (08 R250; 13 R391). -/
def canServe (s : State) (p : Nat) : Bool :=
  let x := getPtn s p
  x.exists_ && decide (x.fig.st = .running) && !x.pwr.parked && !x.pwr.parkWant && x.reset.isNone && isReady s &&
    !(s.flt.engResets.any fun r => decide (r.eng = .figure (ptnId p)))

/-- The highest PRIORITY among contexts. -/
def topPrio (s : State) (cs : List Nat) : Nat := cs.foldl (fun m c => max m (getCtx s c).cur.prio) 0

/-- The context whose turn it is: of the highest PRIORITY, the one whose turn is not over, else in round robin after the last; a debt of a slice or more gives up whole
turns while another context of that priority can take them (08 R251, R252). -/
def pickCtx : Nat → Nat → State → Option Nat × State
  | 0, _, s => (none, s)
  | n + 1, p, s =>
    let all := readyCtxs s p
    let cs := all.filter fun c => (getCtx s c).cur.prio == topPrio s all
    let last := (getPtn s p).fe.last
    match (cs.find? fun c => (getPtn s p).fe.turn == some c) <|> cs.find? (fun c => decide (last < c)) <|> cs.head? with
    | none => (none, s)
    | some c =>
      let s := modFe p (fun f => { f with last := c }) s
      let debt := (getCtx s c).debt
      if (getPtn s p).fe.turn ≠ some c ∧ sliceCycles s c ≤ debt ∧ 1 < cs.length then pickCtx n p (modCtx c (fun x => { x with debt := x.debt - sliceCycles s c }) s)
      else (some c, s)

/-- Enough turns for every debt to be worked off. -/
def pickFuel (s : State) (p : Nat) : Nat := ((readyCtxs s p).map fun c => (getCtx s c).debt / sliceCycles s c + 1).sum + 1

/-! ### Beginning -/

/-- The positions of one RECOMPUTE chunk: at most the figure's rows a batch step, 4,096 (06 R197; log 25). -/
def chunkRows : Nat := 4096

/-- RECOMPUTE ends: RECOMPUTING is cleared (06 R197). -/
def endRecompute (p a : Nat) : State → State := modTab p a fun t => { t with recomputing := false }

/-- The next chunk of a RECOMPUTE and the blocks it needs: the chunk, or the end of the command (06 R197 steps 2-3). -/
def nextChunk (p : Nat) (k : Cmd) (s : State) : Option (Nat × Nat) × Bool × State :=
  let a := opd k.ops 2
  match loadedMap s p with
  | none => (none, false, s)
  | some m =>
    let P := kvP m.d m.kvFmt
    let t := readTab s p a
    let first := missingFrom t P
    if t.logLen ≤ first + 1 then (none, true, s)
    else
      let n := min chunkRows (t.logLen - 1 - first)
      match allocBlocks p k.ctx a [a] ((List.range ((first + n - 1) / P + 1 - first / P)).map fun i => first / P + i) s with
      | (0, s) => (some (first, n), true, s)
      | (_, s) => (none, false, s)

/-- A slice begins, shortened by the debt, or goes on with the context's next command (08 R251, R252). -/
def beginTurn (p : Nat) (r : Running) (s : State) : State :=
  let s := if (getPtn s p).fe.turn = some r.ctx then s else modCtx r.ctx (fun x => { x with debt := x.debt - sliceCycles s r.ctx }) s
  modCmd r.ring r.idx (fun k => { k with phase := .running })
    (modFe p (fun f => { f with mode := .run, run := some r, turn := some r.ctx, sliceEnd := none, noSave := false, next := none }) s)

/-- A partition is parked; a mirror run in it is abandoned, not failed (11 R350; 13 R391). -/
def parkDone (p : Nat) (s : State) : State :=
  let s := mirrorGuard (modPPwr p (fun x => { x with parked := true, parkWant := false }) s)
  raisePtn 0x0804 p 0 s.pwr.cap s

/-- Figure work that is over leaves the engine: the rest of the drain, parking, or the switch gap follows (08 R251; 02 R69; 13 R391). -/
def leaveEngine (p : Nat) (s : State) : State :=
  let s := modFe p (fun f => { f with run := none, resume := none, sliceEnd := none, noSave := false, mode := .idle }) s
  if (getPtn s p).pwr.parkWant then parkDone p s
  else if decide ((getPtn s p).fig.st = .running) && !(readyCtxs s p).isEmpty then modFe p (fun f => { f with mode := .gap }) s
  else s

/-- What one step of service leaves to do: nothing more, or another look at the queue. -/
def beginWork (p : Nat) (r : Running) (s : State) : State × Bool :=
  match getCmd s r.ring r.idx with
  | none => (s, true)
  | some k =>
    if r.opcode = 0x21 then
      let b := getBatch s p r.batch
      if b.open_ && b.ctx == r.ctx then
        (beginTurn p r (if b.step.isSome then s else startStep p r.batch s), false)
      else (endCmd r.ring r.idx 0x11 r.done s, true)
    else if r.opcode = 0x28 ∧ r.chunk = none then
      match nextChunk p k s with
      | (some ch, _, s) => (beginTurn p { r with chunk := some ch, round := 0 } s, false)
      | (none, ok, s) => (endCmd r.ring r.idx (if ok then 0 else 0x0E) r.done (endRecompute p (opd k.ops 2) s), true)
    else (beginTurn p r s, false)

/-- A saved command met another figure epoch: it ends with EPOCH and its completed progress units; a RECOMPUTE leaves its sequence (08
R245, R257; 06 R197). -/
def endEpoch (p : Nat) (r : Running) (s : State) : State :=
  let s := match getCmd s r.ring r.idx with | some k => if r.opcode = 0x28 then endRecompute p (opd k.ops 2) s else s | none => s
  endCmd r.ring r.idx 0x12 (if r.opcode = 0x28 then r.units else r.done) s

/-- A saved command comes back: under another epoch it ends; a stop inside a round is first restored (08 R255, R257). -/
def beginSaved (p : Nat) (v : Saved) (s : State) : State × Bool :=
  let s := modFe p (fun f => { f with saved := f.saved.filter fun w => decide (w ≠ v) }) s
  if v.epoch ≠ (getPtn s p).fig.epoch then (endEpoch p v.run s, true)
  else if v.area.isSome then (modFe p (fun f => { f with mode := .restoring, resume := some v }) s, false)
  else beginWork p v.run s

/-- The next figure work begins, if any may (08 R250, R251). -/
def serveFuel : Nat → Nat → State → State
  | 0, _, s => s
  | n + 1, p, s =>
    if !canServe s p then s
    else
      let f := (getPtn s p).fe
      let pref := match f.next with | some e => f.queue.find? (fun (r : Running) => (r.ring, r.idx) == e) | none => none
      let prefSaved := match f.next with | some e => f.saved.find? (fun (v : Saved) => (v.run.ring, v.run.idx) == e) | none => none
      match pref, prefSaved with
      | some r, _ =>
        let x := beginWork p r (modFe p (fun f => { f with next := none, queue := f.queue.filter fun q => decide (q ≠ r) }) s)
        if x.2 then serveFuel n p x.1 else x.1
      | none, some v =>
        let x := beginSaved p v (modFe p (fun f => { f with next := none }) s)
        if x.2 then serveFuel n p x.1 else x.1
      | none, none =>
        match pickCtx (pickFuel s p) p (modFe p (fun f => { f with next := none }) s) with
        | (none, s) => s
        | (some c, s) =>
          match (getPtn s p).fe.saved.find? fun (v : Saved) => v.run.ctx == c with
          | some v => let x := beginSaved p v s; if x.2 then serveFuel n p x.1 else x.1
          | none =>
            match (getPtn s p).fe.queue.find? fun (r : Running) => r.ctx == c with
            | none => s
            | some r =>
              let x := beginWork p r (modFe p (fun f => { f with queue := f.queue.filter fun q => decide (q ≠ r) }) s)
              if x.2 then serveFuel n p x.1 else x.1

def serve (p : Nat) (s : State) : State :=
  serveFuel ((getPtn s p).fe.queue.length + (getPtn s p).fe.saved.length + 1) p (modFe p (fun f => { f with mode := .idle }) s)

/-! ### Stopping (08 R251, R255, R256) -/

/-- The running command is asked to stop at its next bow point. Inside a round that needs the save area; without a usable
one it runs to its end, and SAVE_UNUSABLE is set. -/
def requestStop (p : Nat) (park : Bool) (s : State) : State :=
  let f := (getPtn s p).fe
  match f.mode, f.run with
  | .run, some r =>
    if f.noSave then s
    else if hasBows s p && (saveArea s p r.ctx).isNone then
      modCtx r.ctx (fun x => { x with saveUnus := true }) (modFe p (fun f => { f with noSave := true }) s)
    else modFe p (fun f => { f with mode := .stopping park }) s
  | .stopping false, some _ => if park then modFe p (fun f => { f with mode := .stopping true }) s else s
  | _, _ => s

/-- The figure engine looks for work: an idle one begins it, and a context of higher PRIORITY pre-empts (08 R251). -/
def kick (p : Nat) (s : State) : State :=
  let f := (getPtn s p).fe
  match f.mode, f.run with
  | .idle, _ => serve p s
  | .run, some r => if (getCtx s r.ctx).cur.prio < topPrio s (readyCtxs s p) then requestStop p false s else s
  | _, _ => s

/-- Figure work joins the engine's queue. -/
def enqueueWork (p : Nat) (r : Running) (s : State) : State := kick p (modFe p (fun f => { f with queue := f.queue ++ [r] }) s)

/-- The running command's overrun since its slice ended (08 R252). -/
def bookOverrun (p : Nat) (s : State) : State :=
  match (getPtn s p).fe.sliceEnd, (getPtn s p).fe.run with
  | some t, some r =>
    let ov := s.time - t
    modFe p (fun f => { f with sliceEnd := none }) (modCtx r.ctx (fun x => { x with overrun := satAdd 32 x.overrun (ov / 100), debt := x.debt + ov }) s)
  | _, _ => s

/-- A command stopped where nothing is saved: at a batch step boundary or between chunks. -/
def setAside (p : Nat) (r : Running) (s : State) : State :=
  let s := bookOverrun p s
  let v : Saved := { run := r, epoch := (getPtn s p).fig.epoch, point := 0, area := none, cores := [] }
  leaveEngine p (modCmd r.ring r.idx (fun k => { k with phase := .saved }) (modFe p (fun f => { f with saved := f.saved ++ [v] }) s))

/-- The running command ends. -/
def endWork (p : Nat) (r : Running) (status result : Nat) (s : State) : State :=
  leaveEngine p (endCmd r.ring r.idx status result (bookOverrun p s))

/-- A partition begins to park (13 R391). -/
def startPark (p : Nat) (s : State) : State :=
  let s := modPPwr p (fun x => { x with parkWant := true }) s
  match (getPtn s p).fe.mode with
  | .idle | .gap => parkDone p (modFe p (fun f => { f with mode := .idle }) s)
  | .restoring =>
    match (getPtn s p).fe.resume with
    | some v => parkDone p (modFe p (fun f => { f with mode := .idle, resume := none, saved := f.saved ++ [v] }) s)
    | none => s
  | _ => requestStop p true s

/-- A partition unparks, or is no longer to park (13 R391). -/
def unpark (p : Nat) (s : State) : State :=
  let s := modPPwr p (fun x => { x with parked := false, parkWant := false }) s
  match (getPtn s p).fe.mode with
  | .stopping true => modFe p (fun f => { f with mode := .run }) s
  | _ => kick p s

/-! ### What the save area holds (08 R256) -/

/-- A save-area header's sixteen words. -/
def saveHeader (epoch ctx ring idx pos round point lines : Nat) : List Nat :=
  [0x45564153, pack [(0, 16, epoch)], pack [(0, 12, ctx)], pack [(0, 15, ring)], w32 idx, pack [(0, 20, pos)], w32 round, w32 (round / 2 ^ 32),
   pack [(0, 3, point)], lines, 0, 0, 0, 0, 0, 0]

end Sys2Proof.Machine
end

