-- ==== Sys2Proof/Machine/Crypto.lean ====
section
/-! DEFINITION. SHA-256, HMAC and HKDF, CRC-32C, and ECDSA P-256, which the spec names and does not define: they are taken from
FIPS 180-4, RFC 2104, RFC 5869, RFC 3720 and FIPS 186-4 (PRESUMED, log 15). -/
namespace Sys2Proof.Machine

/-! ### SHA-256 -/

def shaK : List Word :=
  [0x428A2F98, 0x71374491, 0xB5C0FBCF, 0xE9B5DBA5, 0x3956C25B, 0x59F111F1, 0x923F82A4, 0xAB1C5ED5] ++
  [0xD807AA98, 0x12835B01, 0x243185BE, 0x550C7DC3, 0x72BE5D74, 0x80DEB1FE, 0x9BDC06A7, 0xC19BF174] ++
  [0xE49B69C1, 0xEFBE4786, 0x0FC19DC6, 0x240CA1CC, 0x2DE92C6F, 0x4A7484AA, 0x5CB0A9DC, 0x76F988DA] ++
  [0x983E5152, 0xA831C66D, 0xB00327C8, 0xBF597FC7, 0xC6E00BF3, 0xD5A79147, 0x06CA6351, 0x14292967] ++
  [0x27B70A85, 0x2E1B2138, 0x4D2C6DFC, 0x53380D13, 0x650A7354, 0x766A0ABB, 0x81C2C92E, 0x92722C85] ++
  [0xA2BFE8A1, 0xA81A664B, 0xC24B8B70, 0xC76C51A3, 0xD192E819, 0xD6990624, 0xF40E3585, 0x106AA070] ++
  [0x19A4C116, 0x1E376C08, 0x2748774C, 0x34B0BCB5, 0x391C0CB3, 0x4ED8AA4A, 0x5B9CCA4F, 0x682E6FF3] ++
  [0x748F82EE, 0x78A5636F, 0x84C87814, 0x8CC70208, 0x90BEFFFA, 0xA4506CEB, 0xBEF9A3F7, 0xC67178F2]

def shaInit : List Word := [0x6A09E667, 0xBB67AE85, 0x3C6EF372, 0xA54FF53A, 0x510E527F, 0x9B05688C, 0x1F83D9AB, 0x5BE0CD19]

def rotr (x : Word) (n : Nat) : Word := (x >>> n) ||| (x <<< (32 - n))

/-- The message schedule, newest word first, from its last sixteen words. -/
def shaSchedule : Nat → List Word → List Word
  | 0, ws => ws
  | n + 1, ws =>
    let w2 := ws.getD 1 0
    let w15 := ws.getD 14 0
    let s1 := rotr w2 17 ^^^ rotr w2 19 ^^^ (w2 >>> 10)
    let s0 := rotr w15 7 ^^^ rotr w15 18 ^^^ (w15 >>> 3)
    shaSchedule n ((s1 + ws.getD 6 0 + s0 + ws.getD 15 0) :: ws)

/-- One round over the eight working words. -/
def shaRound (v : List Word) (kw : Word × Word) : List Word :=
  match v with
  | [a, b, c, d, e, f, g, h] =>
    let t1 := h + (rotr e 6 ^^^ rotr e 11 ^^^ rotr e 25) + ((e &&& f) ^^^ (~~~ e &&& g)) + kw.1 + kw.2
    let t2 := (rotr a 2 ^^^ rotr a 13 ^^^ rotr a 22) + ((a &&& b) ^^^ (a &&& c) ^^^ (b &&& c))
    [t1 + t2, a, b, c, d + t1, e, f, g]
  | _ => v

/-- A block of 64 bytes into the state. -/
def shaBlock (h : List Word) (block : List Byte) : List Word :=
  let ws := (List.range 16).map fun i => BitVec.ofNat 32 (beNat ((block.drop (4 * i)).take 4))
  let sched := (shaSchedule 48 ws.reverse).reverse
  List.zipWith (· + ·) h ((shaK.zip sched).foldl shaRound h)

/-- The SHA-256 digest of bytes, its first byte first. -/
def sha256 (m : List Byte) : List Byte :=
  let z := (119 - m.length % 64) % 64
  let padded := m ++ [0x80] ++ List.replicate z 0 ++ beBytes 8 (8 * m.length)
  let out := (chunks 64 (padded.length / 64) padded).foldl shaBlock shaInit
  out.flatMap fun w => beBytes 4 w.toNat

/-! ### HMAC-SHA256 and HKDF-SHA256 -/

/-- HMAC-SHA256 of a message under a key. -/
def hmac (key msg : List Byte) : List Byte :=
  let k := if 64 < key.length then sha256 key else key
  let pad (c : Byte) : List Byte := (List.range 64).map fun i => k.getD i 0 ^^^ c
  sha256 (pad 0x5C ++ sha256 (pad 0x36 ++ msg))

/-- The first `32 n` bytes that HKDF expands from a pseudorandom key, from block `i + 1` on after block `t`. -/
def hkdfBlocks (prk info : List Byte) : Nat → Nat → List Byte → List Byte
  | 0, _, _ => []
  | n + 1, i, t => let b := hmac prk (t ++ info ++ leBytes 1 (i + 1)); b ++ hkdfBlocks prk info n (i + 1) b

/-- `n` bytes of HKDF-SHA256. -/
def hkdf (salt secret info : List Byte) (n : Nat) : List Byte := (hkdfBlocks (hmac salt secret) info ((n + 31) / 32) 0 []).take n

/-! ### CRC-32C -/

/-- One bit of the reflected Castagnoli polynomial division. -/
def crcBit (c : Word) : Word := if c &&& 1 = 1 then (c >>> 1) ^^^ 0x82F63B78 else c >>> 1

def crcByte (c : Word) (b : Byte) : Word := (List.range 8).foldl (fun c _ => crcBit c) (c ^^^ b.zeroExtend 32)

def crc32c (bs : List Byte) : Nat := ((bs.foldl crcByte 0xFFFFFFFF) ^^^ 0xFFFFFFFF).toNat

/-! ### P-256 -/

def p256p : Nat := 2 ^ 256 - 2 ^ 224 + 2 ^ 192 + 2 ^ 96 - 1
def p256n : Nat := 0xFFFFFFFF00000000FFFFFFFFFFFFFFFFBCE6FAADA7179E84F3B9CAC2FC632551
def p256b : Nat := 0x5AC635D8AA3A93E7B3EBBD55769886BC651D06B0CC53B0F63BCE3C3E27D2604B
def p256Gx : Nat := 0x6B17D1F2E12C4247F8BCE6E563A440F277037D812DEB33A0F4A13945D898C296
def p256Gy : Nat := 0x4FE342E2FE1A7F9B8EE7EB4A7C0F9E162BCE33576B315ECECBB6406837BF51F5

/-- Modular power by squaring over `fuel` exponent bits. -/
def powMod (m : Nat) : Nat → Nat → Nat → Nat
  | 0, _, _ => 1 % m
  | fuel + 1, b, e => let r := powMod m fuel (b * b % m) (e / 2); if e % 2 = 1 then r * b % m else r

/-- Modular inverse for a prime modulus of 256 bits. -/
def invMod (m a : Nat) : Nat := powMod m 256 (a % m) (m - 2)

/-- A sum of two points; `none` is the point at infinity. -/
def ecAdd (a b : Option (Nat × Nat)) : Option (Nat × Nat) :=
  match a, b with
  | none, q => q
  | p, none => p
  | some (x1, y1), some (x2, y2) =>
    if x1 = x2 ∧ (y1 + y2) % p256p = 0 then none
    else
      let l := if x1 = x2 then (3 * x1 * x1 + (p256p - 3)) * invMod p256p (2 * y1) % p256p
               else (y2 + p256p - y1) * invMod p256p (x2 + p256p - x1) % p256p
      let x3 := (l * l + 2 * p256p - x1 - x2) % p256p
      some (x3, (l * (x1 + p256p - x3) + p256p - y1) % p256p)

/-- A multiple of a point, over `fuel` bits of the factor. -/
def ecMul : Nat → Nat → Option (Nat × Nat) → Option (Nat × Nat)
  | 0, _, _ => none
  | fuel + 1, k, p => let r := ecMul fuel (k / 2) (ecAdd p p); if k % 2 = 1 then ecAdd r p else r

/-- A point lies on the curve. -/
def onCurve (x y : Nat) : Bool := decide (x < p256p) && decide (y < p256p) && decide (y * y % p256p = (x * x * x + (p256p - 3) * x + p256b) % p256p)

/-- The public key of a private scalar, X then Y. -/
def ecPublic (d : Nat) : List Byte := match ecMul 256 d (some (p256Gx, p256Gy)) with | some (x, y) => beBytes 32 x ++ beBytes 32 y | none => []

/-- The ECDSA P-256 signature of a digest with a private scalar and a drawn number, r then s. -/
def ecdsaSign (d : Nat) (digest : List Byte) (draw : Nat) : List Byte :=
  let k := 1 + draw % (p256n - 1)
  let r := match ecMul 256 k (some (p256Gx, p256Gy)) with | some (x, _) => x % p256n | none => 0
  beBytes 32 r ++ beBytes 32 (invMod p256n k * (beNat digest + r * d) % p256n)

/-- ECDSA P-256 verification of a 32-byte digest. -/
def ecdsaVerify (qx qy : Nat) (digest : List Byte) (r s : Nat) : Bool :=
  if r = 0 ∨ p256n ≤ r ∨ s = 0 ∨ p256n ≤ s ∨ onCurve qx qy = false then false
  else
    let w := invMod p256n s
    match ecAdd (ecMul 256 (beNat digest * w % p256n) (some (p256Gx, p256Gy))) (ecMul 256 (r * w % p256n) (some (qx, qy))) with
    | none => false
    | some (x, _) => x % p256n == r

end Sys2Proof.Machine
end

