-- ==== Sys2Proof/Machine/HostOps.lean ====
section
/-! DEFINITION. How a host access to a BAR is let through, turned away or counted (00 R7, R15; 01 R444; 14 R402; 15 R433, R436). -/
namespace Sys2Proof.Machine

/-- A function's BARs accept accesses: the link is up, Memory Space Enable is set, and a VF is enabled (15 R436). -/
def barOpen (s : State) (fn : Nat) : Bool := s.linkUp && (getFn s fn).memSpace && (fn == 0 || s.vfEnable)

/-- The partition that a VF is bound to. -/
def ptnOfFn (s : State) (fn : Nat) : Option Nat := (s.ptns.find? fun e => e.2.exists_ && decide (fn ≠ 0) && e.2.vf == fn).map (·.1)

/-- A function sees a partition's registers: the PF every one, a VF its own (00 R15). -/
def seesPtn (s : State) (fn p : Nat) : Bool := fn == 0 || ptnOfFn s fn == some p

/-- A function sees a context's registers: those of its partition's contexts. -/
def seesCtx (s : State) (fn c : Nat) : Bool := fn == 0 || (decide ((getCtx s c).st ≠ .disabled) && ptnOfFn s fn == some (ptnOfCtx s c))

/-- A function sees a ring: a VF those assigned to its partition (08 R239). -/
def seesRing (s : State) (fn r : Nat) : Bool := fn == 0 || ((getRing s r).assigned && ptnOfFn s fn == some (getRing s r).ptn)

/-- A host write or read of a BAR0 register: closed BARs take nothing; a VF access outside its subset is counted; before
READY and in a module reset only the `early` registers are mapped; otherwise the access acts. -/
def hostAccess (fn off : Nat) (seen early : Bool) (go : State → State) (s : State) : State :=
  if !barOpen s fn then s
  else if !seen then vfAccess fn off s
  else if !early && !isReady s then flagUnmapped fn s
  else go s

/-- An access is an aligned 32-bit or 64-bit one (00 R7). -/
def wordAccess (off size : Nat) : Bool := (size == 4 && off % 4 == 0) || (size == 8 && off % 8 == 0)

/-! ### Management messages (14 R416) -/

/-- Stages in which ROM-and-above messages are served: RECOVERY_WAIT serves FW_TRANSFER and FW_COMMIT only (14 R407). -/
def romUp (t : Stage) : Bool := decide (t ≠ .recoveryWait)

/-- STANDBY and above. -/
def standbyUp (t : Stage) : Bool := decide (3 ≤ stageNo t)

/-- A management message is received and answered with a status and a payload; before an endpoint ID is assigned none is served (15
R430), and outside its stages it is answered STATE. -/
def mgmtServe (code inst : Nat) (ok : Stage → Bool) (go : State → Nat × List Byte × State) (s : State) : State :=
  if !s.boot.aon || s.mgmt.eid.isNone then s
  else
    let s := mctpGot s
    if ok s.boot.stage then
      let r := go s
      mctpSend code r.1 inst r.2.1 r.2.2
    else mctpSend code 2 inst [] s

end Sys2Proof.Machine
end

