-- ==== Sys2Proof/Machine/Objects.lean ====
section
/-! DEFINITION. Objects (07 R205-R210, R223, R450): OBJ_SET, OBJ_CLEAR and its end, and OBJ_QUERY. -/
namespace Sys2Proof.Machine

/-! ### Refused and unverified reads (07 R206, R225) -/

/-- A fault of an engine access for a ring command. -/
def accessRec (s : State) (c ring idx eng die : Nat) (e : Nat × Nat) : FaultRec :=
  let r := (((faultRec s e.1 idx e.2).withCtx s c).withRing ring).withEngine eng
  if eng = 2 ∨ eng = 3 ∨ eng = 4 then r.withDie die else r

/-- The refusals of an access are raised, once for each code and page. -/
def raiseRefused (c ring idx eng die : Nat) (l : List (Nat × Nat)) (s : State) : State :=
  l.eraseDups.foldl (fun s e => raise (accessRec s c ring idx eng die e) s) s

/-- SHARD_UNVERIFIED, once per shard and ring command (07 R225). -/
def raiseUnver (p c ring idx eng die : Nat) (l : List (Nat × Nat)) (s : State) : State :=
  l.foldl (fun s e =>
    let m := (getPtn s p).mem
    if m.unver.contains (ring, idx, e.1, e.2) then s
    else
      let r := ((faultRec s 0x0405 e.1 e.2).withCtx s c).withEngine eng
      raise (if eng = 2 then r.withDie die else r) (modPMem p (fun m => { m with unver := m.unver ++ [(ring, idx, e.1, e.2)] }) s)) s

/-- What an engine's read has beside its data: LAST_USE, SHARD_UNVERIFIED and the refusals. -/
def afterRead (p c ring idx eng : Nat) (g : Got) (s : State) : State :=
  raiseRefused c ring idx eng (homeDie s p) g.refuse (raiseUnver p c ring idx eng (homeDie s p) g.unver (touchObjs p g.objs s))

/-! ### OBJ_SET -/

def execObjSet (e : Entry) (s : State) : Host.Outcome State Fault Refusal := .next (runEntry e 0x40 s toMover)

/-! ### OBJ_CLEAR -/

def execObjClear (e : Entry) (s : State) : Host.Outcome State Fault Refusal := .next (runEntry e 0x41 s toMover)

/-- Every page of an object is released and its entry is FREE. -/
def releaseObj (p o : Nat) (s : State) : State :=
  modObj p o (fun _ => {}) (((getPtn s p).mem.pages.filter fun e => e.1 / 2 ^ 26 == o).foldl (fun s e => freePage p e.1 s) s)

/-- The last page of a CLEARING object is released, and its command ends with the number of pages (07 R207; 08 R245). -/
def execObjClearDone (p : PtnId) (obj : ObjId) (s : State) : Host.Outcome State Fault Refusal :=
  .next (let x := getObj s p.val obj.val
    if x.st = .clearing then
      let t := releaseObj p.val obj.val s
      match (allCmds s).find? fun k => k.ptn == p.val && k.opcode == 0x41 && decide (k.phase = .running) && opf k.ops 2 0 16 == obj.val with
      | some k => endCmd k.ring k.idx 0 x.pages t
      | none => t
    else s)

/-! ### OBJ_QUERY -/

def execObjQuery (e : Entry) (s : State) : Host.Outcome State Fault Refusal := .next (runEntry e 0x42 s toMover)

end Sys2Proof.Machine
end

