-- ==== Sys2Proof/Machine/Firmware.lean ====
section
/-! DEFINITION. Key slots, signed images' section tables and signatures, the firmware image's checks, and measurements
(02 R55, R63; 14 R405-R413). -/
namespace Sys2Proof.Machine

/-- A section-table entry (02 R55). -/
structure Section where
  type : Nat
  rsvd : Nat
  off  : Nat
  size : Nat
  crc  : Nat
  deriving DecidableEq, Repr

/-- Section-table entries of an image: the table stands at byte 64. -/
def sectionsOf (img : List Byte) (n : Nat) : List Section :=
  (List.range n).map fun i =>
    let e := slice img (64 + 16 * i) 16
    { type := bits (wordAt e 0) 0 8, rsvd := bits (wordAt e 0) 8 24, off := wordAt e 1, size := wordAt e 2, crc := wordAt e 3 }

def sectionBytes (img : List Byte) (x : Section) : List Byte := slice img x.off x.size

/-- The signature section's fields (02 R63). -/
structure Sig where
  slot   : Nat
  rsvd   : Bool
  digest : List Byte
  r      : Nat
  s      : Nat
  deriving DecidableEq, Repr

def sigOf (b : List Byte) : Sig :=
  { slot := bits (wordAt b 0) 0 3, rsvd := decide (bits (wordAt b 0) 3 29 = 0) && allZero (slice b 100 28), digest := slice b 4 32,
    r := leNat (slice b 36 32), s := leNat (slice b 68 32) }

/-- A key slot is accepted now (14 R410). -/
def slotAccepted (f : Fuses) (k : Nat) : Bool :=
  if k = 0 then !f.vendorOff else decide (k ≤ 4) && bit f.provisioned (k - 1) && !bit f.revoked (k - 1)

/-- A slot's public key (14 R409). -/
def slotKey (f : Fuses) (k : Nat) : Nat × Nat := if k = 0 then (Config.vendorKeyX, Config.vendorKeyY) else (tget 0 f.ownerX k, tget 0 f.ownerY k)

/-- The digest matches the bytes before the signature section and the signature verifies with the slot's key. -/
def sigValid (f : Fuses) (img : List Byte) (sigOff : Nat) (g : Sig) : Bool :=
  let k := slotKey f g.slot
  decide (sha256 (img.take sigOff) = g.digest) && ecdsaVerify k.1 k.2 g.digest g.r g.s

/-- Two sections overlap. -/
def overlap (a b : Section) : Bool := decide (a.off < b.off + b.size) && decide (b.off < a.off + a.size)

/-- No two of a list of sections overlap. -/
def noOverlap : List Section → Bool
  | [] => true
  | x :: xs => xs.all (fun y => !overlap x y) && noOverlap xs

/-- A verified firmware image (14 R405). -/
structure FwInfo where
  svn     : Nat
  raise   : Bool
  version : Nat
  slot    : Nat
  digest  : List Byte
  deriving DecidableEq, Repr

/-- The header and section table of a firmware image are in range (14 R405, R406 check 0x01). -/
def fwFormat (img : List Byte) (size : Nat) : Bool :=
  let h := slice img 0 64
  let ss := sectionsOf img 4
  wordAt h 0 == 0x39574642 && bits (wordAt h 1) 0 8 == 1 && decide (bits (wordAt h 1) 8 7 ≤ 64) && bits (wordAt h 1) 16 16 == 0 &&
  wordAt h 3 == size && decide (size % 64 = 0) && decide (size ≤ 0x800000) && bits (wordAt h 4) 0 4 == 4 && bits (wordAt h 4) 4 28 == 0 &&
  allZero (slice h 20 44) && ss.all (fun x => x.rsvd == 0 && decide (128 ≤ x.off) && decide (x.off + x.size ≤ size)) &&
  [1, 2, 3, 0x0F].all (fun t => ss.any fun x => x.type == t) && (ss.getD 3 ⟨0, 0, 0, 0, 0⟩).type == 0x0F && noOverlap ss &&
  ss.all (fun x => (x.type != 1 || decide (x.size ≤ 0x200000)) && (x.type != 2 || decide (x.size ≤ 0x80000)) &&
    (x.type != 0x0F || (x.size == 128 && x.off + 128 == size && x.crc == 0 && (sigOf (sectionBytes img x)).rsvd)))

/-- The checks of 14 R406 in their order: the first FAIL_CODE, or what the image says. -/
def fwCheck (f : Fuses) (img : List Byte) (size : Nat) : Except Nat FwInfo :=
  if !fwFormat img size then .error 1
  else
    let ss := sectionsOf img 4
    if !(ss.all fun x => x.type == 0x0F || crc32c (sectionBytes img x) == x.crc) then .error 2
    else
      let g := sigOf (slice img (size - 128) 128)
      if !slotAccepted f g.slot then .error 3
      else if !sigValid f img (size - 128) g then .error 4
      else
        let svn := bits (wordAt img 1) 8 7
        if svn < f.svn then .error 5
        else .ok { svn := svn, raise := bit (wordAt img 1) 15, version := wordAt img 2, slot := g.slot, digest := g.digest }

/-- Measurement of some words: the digest of their bytes; the spec names what is measured, not the bytes hashed (log 5). -/
def measureWords (ws : List Nat) : List Byte := sha256 (wordsBytes ws)

/-- Measurement 0x04: the fuse key state (14 R413). -/
def measureKeys (f : Fuses) : List Byte :=
  sha256 (leBytes 32 Config.vendorKeyX ++ leBytes 32 Config.vendorKeyY ++
    [1, 2, 3, 4].flatMap (fun k => leBytes 32 (tget 0 f.ownerX k) ++ leBytes 32 (tget 0 f.ownerY k)) ++
    leBytes 4 (pack [(0, 1, b2n f.vendorOff), (1, 4, f.provisioned), (5, 4, f.revoked)]))

/-- Measurement 0x05: MOD_QTR_AVAIL and the repair map (14 R413). -/
def measureRepair (s : State) : List Byte :=
  sha256 (leBytes 4 s.qtrAvail ++ s.sets.flatMap fun e => leBytes 4 e.1 ++ e.2.map.flatMap fun c => leBytes 1 c)

def setMeas (i : Nat) (d : List Byte) : State → State := modMgmt fun m => { m with meas := tput i d m.meas }

/-! ### Attestation keys (14 R412) -/

/-- A private scalar: 1 + the 320-bit HKDF output modulo n − 1. -/
def privateScalar (secret label : List Byte) : Nat := 1 + beNat (hkdf Config.hkdfSalt secret label 40) % (p256n - 1)

/-- The DeviceID key derives from UDS alone; the alias key from UDS and the measurement that the DICE layering takes in (log 5). -/
def deviceScalar : Nat := privateScalar Config.uds Config.deviceLabel
def aliasScalar (meas : List Byte) : Nat := privateScalar (hmac Config.uds meas) Config.aliasLabel

/-- The alias certificate: the alias public key and the measurement, signed by the DeviceID key. -/
def aliasCert (meas : List Byte) : List Byte :=
  let tbs := Config.aliasTbs (ecPublic (aliasScalar meas)) meas
  Config.certOf tbs (ecdsaSign deviceScalar (sha256 tbs) (Config.certNonce tbs))

/-- The certificate chain of slot 0: Burwidra root, DeviceID, alias (14 R414). -/
def certChain (s : State) : List Byte := Config.certStore (ecPublic deviceScalar) ++ aliasCert s.mgmt.aliasBase

/-- The alias key derives from measurement 2 as it stands (14 R400, R412). -/
def deriveAlias : State → State := modMgmt fun m => { m with aliasBase := tget (List.replicate 32 0) m.meas 2 }

/-- The firmware runs: its fields, its measurements, its alias key and its event routing (14 R400, R412, R413; 12 R445). -/
def runFirmware (i : FwInfo) (recovered : Bool) (s : State) : State :=
  let s := modBoot (fun b => { b with stage := .standby, failCode := 0, recovered := recovered, keySlot := i.slot, version := i.version, imgSvn := i.svn, raiseSvn := i.raise, imgDigest := i.digest }) s
  let s := setMeas 1 Config.bootRomDigest s
  let s := setMeas 2 i.digest s
  let s := setMeas 3 (measureWords [i.svn, i.version, i.slot]) s
  firmwareRouting (deriveAlias (setMeas 4 (measureKeys s.fuses) s))

/-- The BOOT_STATE notice (14 R416). -/
def bootNotice (s : State) : State := mctpSend 0x0E 0 0 (leBytes 4 (modBootWord s)) s

end Sys2Proof.Machine
end

