-- ==== Sys2Proof/Machine/Image.lean ====
section
/-! DEFINITION. Calob images: decoding (02 R53-R63; 03 R98; 04 R133; 08 R254; 11 R348) and the install checks of 02 R65, each in
the order of its table. Where a check names no order among several failures, cores ascend, then steps (log 21). -/
namespace Sys2Proof.Machine

/-- The word at a byte offset. -/
def wordB (bs : List Byte) (off : Nat) : Nat := leNat (slice bs off 4)

/-- The first offset whose condition fails. -/
def firstBad (l : List (Bool × Nat)) : Option Nat := (l.find? fun e => e.1).map (·.2)

/-- A word has a bit set outside the listed (low bit, width) fields. -/
def resv (bs : List Byte) (off : Nat) (fields : List (Nat × Nat)) : Bool × Nat :=
  (decide (wordB bs off &&& (2 ^ 32 - 1 - fields.foldl (fun m f => m ||| ((2 ^ f.2 - 1) * 2 ^ f.1)) 0) ≠ 0), off)

def secOf (ss : List Section) (t : Nat) : Option Section := ss.find? fun x => x.type == t

/-- Section's bytes, empty when absent. -/
def secBody (img : List Byte) (ss : List Section) (t : Nat) : List Byte := match secOf ss t with | some x => sectionBytes img x | none => []

/-- Records of `k` bytes in a body. -/
def records (k : Nat) (b : List Byte) : List (List Byte) := chunks k (b.length / k) b

/-- The sections of an image as its header counts them. -/
def imgSections (img : List Byte) : List Section := sectionsOf img (bits (wordB img 12) 0 5)

/-! ### Decoding -/

def decStep (b : List Byte) : Step :=
  let w := wordAt b
  { runLen := bits (w 0) 0 16 + 1, mode := bits (w 0) 16 4, fmtW := bits (w 0) 20 4, fmtX := bits (w 0) 24 4,
    chain := (List.range 8).map (fun k => bits (w (1 + k / 2)) (16 * (k % 2)) 16),
    patA := bits (w 5) 0 16, patB := bits (w 5) 16 16, patW := bits (w 6) 0 16, patOut := bits (w 6) 16 16,
    streamFirst := bits (w 7) 0 20, streamCount := bits (w 7) 20 4,
    bow := bit (w 8) 0, layerEnd := bit (w 8) 1, adapter := bit (w 8) 2, attn := bit (w 8) 3 }

def decPattern (b : List Byte) : Pattern :=
  let w := wordAt b
  let n := bits (w 0) 17 3
  { base := bits (w 0) 0 16, space := bits (w 0) 16 1, loops := n, bufLines := bits (w 1) 0 11,
    counts := (List.range (min n 6)).map (fun k => bits (w (2 + k)) 0 16 + 1),
    strides := (List.range (min n 6)).map (fun k => sext 16 (bits (w (2 + k)) 16 16)) }

def decStream (b : List Byte) : Stream :=
  let w := wordAt b
  { dstCore := bits (w 0) 0 17, dstStep := bits (w 0) 17 3, dstInput := bits (w 0) 20 1, dstEndpoint := bit (w 0) 21,
    flits := bits (w 1) 0 20, joinId := bits (w 2) 0 16, endpoint := bits (w 2) 16 16, route := bits (w 3) 0 2, tree := bits (w 3) 2 10 }

def decJoin (b : List Byte) : Join :=
  let w := wordAt b
  { id := bits (w 0) 0 16, slack := bits (w 0) 16 11, core := bits (w 1) 0 17, step := bits (w 1) 17 3, latA := bits (w 2) 0 20, latB := bits (w 3) 0 20 }

/-- Parts of the CURVE section: (table offset, LOAD offset, PRELOAD offset, data offset, end) (04 R133). -/
def curveParts (b : List Byte) : Nat × Nat × Nat × Nat × Nat :=
  let t := bits (wordAt b 0) 0 8
  let l := 16 + t * 4160
  let p := alignUp (l + 8 * bits (wordAt b 1) 0 20) 16
  let d := alignUp (p + 8 * bits (wordAt b 2) 0 20) 16
  (16, l, p, d, d + 16 * bits (wordAt b 3) 0 20)

def decCurve (b : List Byte) : Curve :=
  let w (n : Nat) : Word := BitVec.ofNat 32 (wordAt b n)
  { mode := bits (wordAt b 0) 0 2, outside := bits (wordAt b 0) 2 2, scaleS := sext 8 (bits (wordAt b 0) 8 8), lo := w 1, hi := w 2,
    outLo := w 3, outHi := w 4, atZero := w 5, coef := (List.range 1024).map fun i => w (16 + i) }

/-- Parts of the CODEBOOK section: LOAD offset, SELECT offset, end (03 R98). -/
def bookParts (b : List Byte) : Nat × Nat × Nat :=
  let l := 16 + 16 * bits (wordAt b 0) 0 16
  let t := alignUp (l + 8 * bits (wordAt b 1) 0 20) 16
  (l, t, t + 8 * bits (wordAt b 2) 0 20)

/-- Parts of the BOW section: range offset and end (08 R254). -/
def bowParts (b : List Byte) : Nat × Nat := let r := 16 + 16 * bits (wordAt b 0) 0 4; (r, r + 8 * bits (wordAt b 1) 0 20)

/-- Parts of the REPORT section: sample offset and end (11 R348). -/
def reportParts (b : List Byte) : Nat × Nat := let r := 32 + 16 * bits (wordAt b 3) 0 6; (r, r + 16 * bits (wordAt b 2) 0 20)

/-- `n` records of `k` bytes from an offset. -/
def recsAt (b : List Byte) (off n k : Nat) : List (List Byte) := (List.range n).map fun i => slice b (off + k * i) k

def decReport (b : List Byte) : Report :=
  { mirrorDiv := bits (wordAt b 0) 0 2, rounds := bits (wordAt b 1) 0 16,
    quarters := (recsAt b 32 (bits (wordAt b 3) 0 6) 16).map (fun e => (bits (wordAt e 0) 0 20, bits (wordAt e 1) 0 20, bits (wordAt e 2) 0 20)),
    samples := (recsAt b (reportParts b).1 (bits (wordAt b 2) 0 20) 16).map fun e => (bits (wordAt e 0) 0 17, bits (wordAt e 1) 0 16, bits (wordAt e 2) 0 19, bits (wordAt e 3) 0 11) }

/-- An image's figure. Where a STEP_OFFSET is off 64, every core's descriptors follow the section's own, eight to a core, so that each
check reads the descriptors that the directory names. -/
def decFigure (img : List Byte) : Figure :=
  let ss := imgSections img
  let body := secBody img ss
  let pl := wordAt (body 1) 0
  let q := bits (wordB img 12) 5 6
  let cv := body 8
  let cb := body 9
  let bw := body 0xA
  let g := sigOf (body 0xF)
  let dir := recsAt (body 2) 0 (2560 * q) 8
  let aligned := records 64 (body 3)
  let odd := dir.any fun e => wordAt e 1 % 64 != 0
  { origin4 := bits (wordB img 4) 16 8 == 4, mirrorTest := bit (wordB img 20) 2, quarters := q, roundLen := bits (wordB img 16) 0 19 + 1,
    divFastest := bits (wordB img 20) 0 2, width := bits pl 0 4, height := bits pl 4 4,
    dir := ((List.range dir.length).zip dir).map (fun e =>
      (bits (wordAt e.2 0) 0 4, if wordAt e.2 1 % 64 = 0 then wordAt e.2 1 / 64 else aligned.length + 8 * e.1)),
    steps := (aligned ++ (if odd then dir.flatMap fun e => recsAt (body 3) (wordAt e 1) 8 64 else [])).map decStep, patterns := (records 32 (body 4)).map decPattern, streams := (records 16 (body 5)).map decStream,
    tickets := (records 8 (body 6)).map (fun e => [bits (wordAt e 0) 0 16, bits (wordAt e 0) 16 16, bits (wordAt e 1) 0 16, bits (wordAt e 1) 16 16]),
    joins := (records 16 (body 7)).map decJoin,
    curves := (recsAt cv 16 (bits (wordAt cv 0) 0 8) 4160).map decCurve,
    curveLoads := (recsAt cv (curveParts cv).2.1 (bits (wordAt cv 1) 0 20) 8).map (fun e => (bits (wordAt e 0) 0 17, bits (wordAt e 0) 17 2, bits (wordAt e 1) 0 8)),
    preloads := (recsAt cv (curveParts cv).2.2.1 (bits (wordAt cv 2) 0 20) 8).map (fun e => (bits (wordAt e 0) 0 17, bits (wordAt e 0) 17 7, bits (wordAt e 1) 0 20, bits (wordAt e 1) 20 8)),
    ocData := (List.range (4 * bits (wordAt cv 3) 0 20)).map (fun i => BitVec.ofNat 32 (wordB cv ((curveParts cv).2.2.2.1 + 4 * i))),
    books := recsAt cb 16 (bits (wordAt cb 0) 0 16) 16,
    bookLoads := (recsAt cb (bookParts cb).1 (bits (wordAt cb 1) 0 20) 8).map (fun e => (bits (wordAt e 0) 0 17, bits (wordAt e 0) 17 6, bits (wordAt e 1) 0 16, bits (wordAt e 1) 16 7)),
    selects := (recsAt cb (bookParts cb).2.1 (bits (wordAt cb 2) 0 20) 8).map (fun e =>
      { core := bits (wordAt e 0) 0 17, step := bits (wordAt e 0) 17 3, base := bits (wordAt e 0) 20 6, unitStride := bits (wordAt e 1) 0 6,
        loop := bits (wordAt e 1) 6 3, loopStride := bits (wordAt e 1) 9 6 }),
    bowPoints := (recsAt bw 16 (bits (wordAt bw 0) 0 4) 16).map (fun e => ⟨bits (wordAt e 0) 0 20, bits (wordAt e 1) 0 20, bits (wordAt e 2) 0 20⟩),
    bowRanges := (recsAt bw (bowParts bw).1 (bits (wordAt bw 1) 0 20) 8).map (fun e => ⟨bits (wordAt e 0) 0 17, bits (wordAt e 0) 17 2, bits (wordAt e 1) 0 16, bits (wordAt e 1) 16 16⟩),
    saveLines := bits (wordAt bw 2) 0 20,
    report := if (secOf ss 0xB).isSome then some (decReport (body 0xB)) else none,
    keySlot := g.slot, digest := g.digest }

/-! ### Figure queries -/

/-- The steps of a figure core; STEP_COUNT above 8 is refused at install. -/
def coreSteps (f : Figure) (c : Nat) : List Step := let d := f.dir.getD c (0, 0); (List.range (min d.1 8)).map fun i => f.steps.getD (d.2 + i) {}
def coreStep (f : Figure) (c i : Nat) : Step := (coreSteps f c).getD i {}
def stepCount (f : Figure) (c : Nat) : Nat := (f.dir.getD c (0, 0)).1
def figCores (f : Figure) : List Nat := (List.range (2560 * f.quarters)).filter fun c => stepCount f c != 0
def patternOf (f : Figure) (n : Nat) : Option Pattern := f.patterns[n]?
def isMatrix (t : Step) : Bool := t.mode == 1 || t.mode == 3
def leadOf (c : Nat) : Nat := c / 128 * 128
def isLead (c : Nat) : Bool := c % 128 == 0

/-- Accesses of a pattern: the product of its counts. -/
def accesses (p : Pattern) : Nat := p.counts.foldl (· * ·) 1

/-- The step's array mode (03 R93). -/
def stepMode (t : Step) : Option ArrayMode := if isMatrix t then arrayMode t.fmtW t.fmtX else none

/-- Beat width of a step (04 R117); a MATRIX step hands off its columns. -/
def beatW (t : Step) : Nat :=
  match stepMode t with
  | some m => modeCols m
  | none => if t.mode = 2 then (match vAccess t.fmtX with | some a => a.2 | none => 0) else 0

/-- Bytes of one access through PAT_A, PAT_B, PAT_W and PAT_OUT (03 R100; 04 R117, R121, R128). A RELAY step moves whole 64 B
lines and a MATRIX step hands FP32 accumulators to PAT_OUT (log 21). -/
def sizeA (t : Step) : Nat :=
  if t.mode = 4 then 64 else match stepMode t with
    | some m => aAccess m t.fmtX
    | none => if t.mode = 2 then (match vAccess t.fmtX with | some a => a.1 | none => 0) else 0
def sizeW (t : Step) : Nat := match stepMode t with | some m => wAccess m t.fmtW | none => 0
def sizeB (t : Step) : Nat :=
  match inbArg t.chain with
  | none => 0
  | some a => if bit a 0 then 64 else beatW t * elemBits (a / 16) / 8
def sizeOut (t : Step) : Nat :=
  if t.mode = 4 then 64
  else match putOf t.chain with
    | some (fmt, after) => if after then 64 else putAccess fmt (beatW t)
    | none => 4 * beatW t

/-- The step's patterns with their access sizes: A, B, W, OUT. -/
def stepPats (t : Step) : List (Nat × Nat) := ([(t.patA, sizeA t), (t.patB, sizeB t), (t.patW, sizeW t), (t.patOut, sizeOut t)]).filter fun e => e.1 != 0xFFFF

/-- FIG_ERR_INFO of a core and step. -/
def infoOf (c i : Nat) : Nat := pack [(0, 17, c), (17, 3, i)]

/-- The first core and step, in ascending order, that fails a test. -/
def firstStep (f : Figure) (bad : Nat → Nat → Step → Bool) : Option Nat :=
  (figCores f).findSome? fun c =>
    ((List.range (coreSteps f c).length).zip (coreSteps f c)).findSome? fun e => if bad c e.1 e.2 then some (infoOf c e.1) else none

/-! ### Check 0x02: format -/

/-- Header (02 R53, R54, R64). -/
def headerBad (img : List Byte) (size : Nat) : Option Nat :=
  let w1 := wordB img 4
  let n := bits (wordB img 12) 0 5
  let q := bits (wordB img 12) 5 6
  firstBad [(decide (¬((bits w1 0 8 = 2 ∧ bits w1 16 8 = 9) ∨ (bits w1 0 8 = 1 ∧ bits w1 16 8 = 4)) ∨ bits w1 24 8 ≠ 0), 4),
    (decide (wordB img 8 ≠ size ∨ size % 64 ≠ 0 ∨ 2 ^ 29 < size), 8),
    (decide (n = 0 ∨ 16 < n ∨ q = 0 ∨ 32 < q ∨ bits (wordB img 12) 11 21 ≠ 0), 12),
    resv img 16 [(0, 19)], resv img 20 [(0, 3)]] <|> firstBad ((List.range 8).map fun k => resv img (32 + 4 * k) [])

/-- Section table (02 R53, R55). -/
def tableBad (img : List Byte) (size : Nat) : Option Nat :=
  let ss := imgSections img
  let n := ss.length
  let ix := (List.range n).zip ss
  firstBad (ix.flatMap (fun e =>
    let at_ := 64 + 16 * e.1
    let x := e.2
    [(!([1, 2, 3, 4, 5, 6, 7, 8, 9, 0xA, 0xB, 0xF].contains x.type) || decide (x.rsvd ≠ 0) || (ss.take e.1).any (fun y => y.type == x.type) ||
        (x.type == 0xF && decide (e.1 + 1 ≠ n)), at_),
     (decide (x.off % 64 ≠ 0 ∨ x.off < 64 + 16 * n ∨ size < x.off + x.size) || (ss.take e.1).any (fun y => overlap x y), at_ + 4),
     (x.type == 0xF && decide (x.size ≠ 128 ∨ x.off + x.size ≠ size), at_ + 8),
     (x.type == 0xF && decide (x.crc ≠ 0), at_ + 12)]) ++
    [([1, 2, 3, 4, 6, 0xF].any (fun t => !ss.any fun x => x.type == t), 12)])

/-- The plain tables' reserved fields, at image offsets. -/
def plainBad (img : List Byte) : Option Nat :=
  let ss := imgSections img
  let q := bits (wordB img 12) 5 6
  let ents (t k : Nat) : List Nat := match secOf ss t with | some x => (List.range (x.size / k)).map fun i => x.off + k * i | none => []
  let place := match secOf ss 1 with
    | some x => let w := wordB img x.off
                [(decide (x.size < 4 ∨ bits w 0 4 = 0 ∨ 8 < bits w 0 4 ∨ bits w 4 4 = 0 ∨ 4 < bits w 4 4 ∨ bits w 8 24 ≠ 0 ∨ bits w 0 4 * bits w 4 4 ≠ q), x.off)]
    | none => []
  let dir := match lpos (fun x : Section => x.type == 2) ss, secOf ss 2 with
    | some i, some x => [(decide (x.size < 8 * 2560 * q), 64 + 16 * i + 8)]
    | _, _ => []
  firstBad (place ++ dir ++ (ents 2 8).map (fun o => resv img o [(0, 4)]) ++
    (ents 4 32).flatMap (fun o => [resv img o [(0, 20)], resv img (o + 4) [(0, 11)]]) ++
    (ents 5 16).flatMap (fun o => [resv img o [(0, 22)], resv img (o + 4) [(0, 20)], resv img (o + 12) [(0, 12)]]) ++
    (ents 7 16).flatMap (fun o => [resv img o [(0, 27)], resv img (o + 4) [(0, 20)], resv img (o + 8) [(0, 20)], resv img (o + 12) [(0, 20)]]) ++
    (match secOf ss 0xF with
     | some x => [resv img x.off [(0, 3)]] ++ (List.range 7).map fun k => resv img (x.off + 100 + 4 * k) []
     | none => []))

/-- Two ranges of one core overlap. -/
def rangesClash (l : List (Nat × Nat × Nat)) : Bool :=
  match l with
  | [] => false
  | x :: xs => xs.any (fun y => y.1 == x.1 && decide (x.2.1 < y.2.1 + y.2.2) && decide (y.2.1 < x.2.1 + x.2.2)) || rangesClash xs

/-- CURVE (04 R133, R134). A part that overruns SIZE is named at the header word that counts it. -/
def curveBad (b : List Byte) (off cores : Nat) : Option Nat :=
  let (_, lo, po, _, e) := curveParts b
  let nt := bits (wordAt b 0) 0 8
  let loads := (List.range (bits (wordAt b 1) 0 20)).map fun i => lo + 8 * i
  let pres := (List.range (bits (wordAt b 2) 0 20)).map fun i => po + 8 * i
  let pre (o : Nat) : Nat × Nat × Nat := (bits (wordB b o) 0 17, bits (wordB b o) 17 7, bits (wordB b (o + 4)) 20 8)
  let head := firstBad [(decide (nt = 0 ∨ b.length < lo) || (resv b 0 [(0, 8)]).1, 0), (decide (b.length < lo + 8 * loads.length) || (resv b 4 [(0, 20)]).1, 4),
    (decide (b.length < po + 8 * pres.length) || (resv b 8 [(0, 20)]).1, 8), (decide (b.length < e) || (resv b 12 [(0, 20)]).1, 12)]
  let rest := firstBad (
    (List.range nt).flatMap (fun k =>
      let o := 16 + 4160 * k
      let m := bits (wordB b o) 0 2
      let lo := wordB b (o + 4)
      let hi := wordB b (o + 8)
      let fin (x : Nat) : Bool := decide (bits x 23 8 ≠ 255)
      [(decide (bits (wordB b o) 4 4 ≠ 0 ∨ bits (wordB b o) 16 16 ≠ 0 ∨ (m = 0 ∧ bits (wordB b o) 2 2 = 3) ∨ (m ≠ 0 ∧ bits (wordB b o) 2 2 ≠ 0) ∨
          (m ≠ 1 ∧ bits (wordB b o) 8 8 ≠ 0) ∨ sext 8 (bits (wordB b o) 8 8) < -4 ∨ 4 < sext 8 (bits (wordB b o) 8 8)), o),
       (m == 0 && !fin lo, o + 4), (m == 0 && (!fin hi || fle hi lo), o + 8), resv b (o + 24) [(0, 16)]] ++ (List.range 9).map fun i => resv b (o + 28 + 4 * i) []) ++
    loads.flatMap (fun o => [((resv b o [(0, 19)]).1 || decide (cores ≤ bits (wordB b o) 0 17) ||
      (loads.filter fun x => decide (x < o) && decide (bits (wordB b x) 0 19 = bits (wordB b o) 0 19)).length != 0, o), ((resv b (o + 4) [(0, 8)]).1 || decide (nt ≤ bits (wordB b (o + 4)) 0 8), o + 4)]) ++
    (if loads.length % 2 = 1 then [resv b (lo + 8 * loads.length) [], resv b (lo + 8 * loads.length + 4) []] else []) ++
    pres.flatMap (fun o => let x := pre o
      [((resv b o [(0, 24)]).1 || decide (cores ≤ x.1) || decide (128 < x.2.1 + x.2.2) || rangesClash (((pres.filter fun y => decide (y ≤ o)).map pre)), o),
       ((resv b (o + 4) [(0, 28)]).1 || decide (x.2.2 = 0 ∨ 128 < x.2.2 ∨ bits (wordAt b 3) 0 20 < bits (wordB b (o + 4)) 0 20 + x.2.2), o + 4)]) ++
    (if pres.length % 2 = 1 then [resv b (po + 8 * pres.length) [], resv b (po + 8 * pres.length + 4) []] else []))
  ((match head with | some o => some o | none => rest).map (· + off))

/-- CODEBOOK (03 R98). A part that overruns SIZE is named at the header word that counts it; an entry whose CORE lies beyond the figure
is refused at its word 0 (log 21). -/
def bookBad (b : List Byte) (off cores : Nat) : Option Nat :=
  let (l, t, e) := bookParts b
  let n := bits (wordAt b 0) 0 16
  let loads := (List.range (bits (wordAt b 1) 0 20)).map fun i => l + 8 * i
  let sels := (List.range (bits (wordAt b 2) 0 20)).map fun i => t + 8 * i
  let head := firstBad [(decide (n = 0 ∨ b.length < l) || (resv b 0 [(0, 16)]).1, 0), (decide (b.length < l + 8 * loads.length) || (resv b 4 [(0, 20)]).1, 4),
    (decide (b.length < e) || (resv b 8 [(0, 20)]).1, 8), resv b 12 []]
  let rest := firstBad (
    loads.flatMap (fun o => let c := bits (wordB b (o + 4)) 16 7
      [((resv b o [(0, 23)]).1 || decide (cores ≤ bits (wordB b o) 0 17) || decide (64 < bits (wordB b o) 17 6 + c), o),
       ((resv b (o + 4) [(0, 23)]).1 || decide (c = 0 ∨ 64 < c ∨ n < bits (wordB b (o + 4)) 0 16 + c), o + 4)]) ++
    sels.flatMap (fun o =>
      [((resv b o [(0, 26)]).1 || decide (cores ≤ bits (wordB b o) 0 17) || (sels.filter fun x => decide (x < o) && decide (bits (wordB b x) 0 20 = bits (wordB b o) 0 20)).length != 0, o),
       ((resv b (o + 4) [(0, 15)]).1 || bits (wordB b (o + 4)) 6 3 == 6, o + 4)]))
  ((match head with | some o => some o | none => rest).map (· + off))

/-- Lines that a BOW range saves besides a stream buffer's flits (08 R254). -/
def rangeLines (g : BowRange) : Nat := if g.kind = 0 then g.len else if g.kind = 1 then ceilDiv g.len 4 else 1

/-- BOW (08 R254). A part that overruns SIZE is named at the header word that counts it. -/
def bowBad (b : List Byte) (off : Nat) (f : Figure) : Option Nat :=
  let n := bits (wordAt b 0) 0 4
  let m := bits (wordAt b 1) 0 20
  let (r, e) := bowParts b
  let head := firstBad [((resv b 0 [(0, 4)]).1 || decide (n = 0 ∨ 8 < n ∨ b.length < r), 0), ((resv b 4 [(0, 20)]).1 || decide (b.length < e), 4), resv b 8 [(0, 20)], resv b 12 []]
  let qsum (g : List BowRange) (q : Nat) : Nat := ((g.filter fun x => x.core / 2560 == q).map rangeLines).sum
  let rest := firstBad (
    ((List.range n).zip f.bowPoints).flatMap (fun e =>
      let o := 16 + 16 * e.1
      [((resv b o [(0, 20)]).1 || decide (e.2.position = 0 ∨ f.roundLen < e.2.position), o), ((resv b (o + 4) [(0, 20)]).1 || decide (m < e.2.first + e.2.count), o + 4),
       resv b (o + 8) [(0, 20)], resv b (o + 12) [],
       ((List.range f.quarters).any fun q => decide (f.saveLines < qsum ((f.bowRanges.drop e.2.first).take e.2.count) q), 8)]) ++
    ((List.range m).zip f.bowRanges).flatMap fun e =>
      let o := r + 8 * e.1
      let g := e.2
      let ok := if g.kind = 0 then decide (g.start % 64 = 0 ∧ 1 ≤ g.len ∧ g.len ≤ 1024 ∧ g.start + 64 * g.len ≤ 65536)
        else if g.kind = 1 then decide (128 ≤ g.start ∧ 1 ≤ g.len ∧ g.start + g.len ≤ 256)
        else if g.kind = 2 then decide (g.start < f.patterns.length ∧ g.len = 0) else false
      [((resv b o [(0, 19)]).1 || decide (2560 * f.quarters ≤ g.core) || !ok, o)])
  ((match head with | some o => some o | none => rest).map (· + off))

/-- REPORT (11 R348). A part that overruns SIZE is named at the header word that counts it. -/
def reportBad (b : List Byte) (off quarters : Nat) : Option Nat :=
  let (r, e) := reportParts b
  let nq := bits (wordAt b 3) 0 6
  let head := firstBad ([((resv b 0 [(0, 2)]).1, 0), ((resv b 4 [(0, 16)]).1 || decide (bits (wordAt b 1) 0 16 < 2), 4), ((resv b 8 [(0, 20)]).1 || decide (b.length < e), 8),
    ((resv b 12 [(0, 6)]).1 || decide (nq ≠ quarters ∨ b.length < r), 12)] ++ (List.range 4).map fun k => resv b (16 + 4 * k) [])
  let rest := firstBad ((List.range nq).flatMap (fun i => let o := 32 + 16 * i
      [resv b o [(0, 20)], resv b (o + 4) [(0, 20)], resv b (o + 8) [(0, 20)], resv b (o + 12) []]) ++
    (List.range (bits (wordAt b 2) 0 20)).flatMap fun i => let o := r + 16 * i
      [resv b o [(0, 17)], resv b (o + 4) [(0, 16)], resv b (o + 8) [(0, 19)], resv b (o + 12) [(0, 11)]])
  ((match head with | some o => some o | none => rest).map (· + off))

/-- The whole of check 0x02: the header, the section table, the plain sections, CURVE, CODEBOOK, BOW, REPORT, in that order; a section out
of bounds or overlapping is named at its OFFSET word (log 21). -/
def formatBad (img : List Byte) (size : Nat) (f : Figure) : Option Nat :=
  let ss := imgSections img
  let body := secBody img ss
  let off (t : Nat) : Nat := match secOf ss t with | some x => x.off | none => 0
  let has (t : Nat) (go : Option Nat) : Option Nat := if (secOf ss t).isSome then go else none
  match headerBad img size with
  | some o => some o
  | none => match tableBad img size with
    | some o => some o
    | none => match plainBad img with
      | some o => some o
      | none => match has 8 (curveBad (body 8) (off 8) (2560 * f.quarters)) with
        | some o => some o
        | none => match has 9 (bookBad (body 9) (off 9) (2560 * f.quarters)) with
          | some o => some o
          | none => match has 0xA (bowBad (body 0xA) (off 0xA) f) with
            | some o => some o
            | none => has 0xB (reportBad (body 0xB) (off 0xB) f.quarters)

end Sys2Proof.Machine
end

