-- ==== Sys2Proof/Machine/ImageChecks.lean ====
section
/-! DEFINITION. The install checks 0x06-0x0F over a decoded image (02 R49-R51, R57-R62, R65; 03 R87, R88, R93, R98; 04 R117-R124;
05 R141; 06 R174; 07 R218, R220, R221; 08 R253; 10 R310), and the whole of INSTALL's checking. -/
namespace Sys2Proof.Machine

/-! ### 0x06 STEP_CHECKSUM -/

/-- Descriptors of a core, as byte offsets in STEP. -/
def stepOffs (dir : List Byte) (c : Nat) : List Nat := let e := slice dir (8 * c) 8; (List.range (min (bits (wordAt e 0) 0 4) 8)).map fun i => wordAt e 1 + 64 * i

/-- Check 0x06: every descriptor of the section, named by a core or not; one that a core names beyond the section fails too (log 21). -/
def checksumBad (img : List Byte) (f : Figure) : Option Nat :=
  let ss := imgSections img
  let dir := secBody img ss 2
  let st := secBody img ss 3
  (((List.range (st.length / 64)).map (64 * ·)).find? fun o => crc32c (slice st o 60) != wordB st (o + 60)) <|>
    (figCores f).findSome? fun c => (stepOffs dir c).find? fun o => o % 64 == 0 && decide (st.length < o + 64)

/-! ### 0x07 STEP_FIELD -/

/-- Chain state while its stages are checked in order. -/
structure ChainChk where
  ok : Bool := true
  puts : Nat := 0
  ocputs : Nat := 0
  reds : Nat := 0
  tap : Bool := false
  inb : Option Nat := none
  deriving DecidableEq, Repr

/-- One stage (04 R120-R124). -/
def chainStage (mode : Nat) (adapter : Bool) (w : Nat) (filled : Nat → Bool) (k : ChainChk) (e : Nat) : ChainChk :=
  let op := stOp e
  let src := stSrc e
  let arg := stArg e
  let red := decide (0 < k.reds)
  let bad : ChainChk := { k with ok := false }
  if isBinary op then
    if (src == 0 && arg % 128 == 127) || (src == 2 && red) then bad
    else if src = 3 then
      if bits arg 1 3 ≠ 0 ∨ 4 < arg / 16 ∨ (red = true ∧ bit arg 0 = false) ∨ (k.inb ≠ none ∧ k.inb ≠ some arg) then bad else { k with inb := some arg }
    else k
  else if src ≠ 0 then bad
  else match op with
    | 0x08 => if arg ≠ 0 ∨ red = true then bad else { k with tap := true }
    | 0x09 | 0x0A => if arg ≠ 0 ∨ red = true ∨ k.tap = false then bad else k
    | 0x10 | 0x11 | 0x12 => if arg ≠ 0 then bad else k
    | 0x18 => if bits arg 2 6 ≠ 0 ∨ filled (bits arg 0 2) = false then bad else k
    | 0x20 | 0x21 => if arg ≠ 0 then bad else { k with reds := k.reds + 1 }
    | 0x28 => if mode ≠ 2 ∨ adapter = false ∨ red = true then bad else k
    | 0x30 =>
      let fmt := arg % 16
      if 15 < arg ∨ fmt = 0xA ∨ 0xB < fmt ∨ ((isMx fmt || fmt == 0xB) && (decide (w ≠ 32) || red)) = true then bad else { k with puts := k.puts + 1 }
    | 0x31 => if arg < 128 ∨ red = true then bad else { k with ocputs := k.ocputs + 1 }
    | _ => bad

/-- A step's chain (04 R117, R120-R124). -/
def chainBad (t : Step) (filled : Nat → Bool) : Bool :=
  if t.mode ≠ 2 ∧ t.mode ≠ 3 then t.chain.any (· != 0)
  else
    let ss := stagesOf t.chain
    let k := ss.foldl (chainStage t.mode t.adapter (beatW t) filled) {}
    (t.chain.drop ss.length).any (· != 0) || !k.ok || k.puts + k.ocputs == 0 || decide (1 < k.puts) || decide (1 < k.ocputs) || decide (1 < k.reds) ||
      ((t.patOut == 0xFFFF) == decide (k.puts = 1)) || (k.inb.isSome && t.patB == 0xFFFF)

/-- FMT_W and FMT_X fit MODE (03 R93; 04 R117). -/
def fmtBad (t : Step) : Bool :=
  match t.mode with
  | 1 | 3 => (arrayMode t.fmtW t.fmtX).isNone
  | 2 => t.fmtW != 0 || (vAccess t.fmtX).isNone
  | _ => t.fmtW != 0 || t.fmtX != 0

/-- A step beyond the limits of a split segment: FP8, INT8 and BF16 only, and ADAPTER 0 (02 R73; log 21). -/
def segmentBad (t : Step) : Bool :=
  let in_ (n : Nat) : Bool := [1, 2, 3, 4].contains n
  t.adapter || match t.mode with
    | 1 | 3 => !(in_ t.fmtW && in_ t.fmtX)
    | 2 => !in_ t.fmtX
    | _ => false

/-- Loop counts of PAT_W, for lockstep (03 R88). -/
def wLoops (f : Figure) (t : Step) : Option (List Nat) := (patternOf f t.patW).map fun p => p.counts

/-- Round cycles at which a core's steps end. -/
def stepEnds (ts : List Step) : List Nat := (List.range ts.length).map fun i => ((ts.take (i + 1)).map fun t => t.runLen).sum

/-- Check 0x07 of one core: the first step at fault (02 R44, R65; 03 R87, R88, R98; 04 R124; 05 R141; 06 R174; 07 R221; 08 R253). A
pattern or stream index beyond its table, a matrix step without PAT_W, or a lead without PAT_A is counted here (log 21). -/
def coreFieldBad (img : List Byte) (f : Figure) (layers : Nat) (c : Nat) : Option Nat :=
  let ss := imgSections img
  let st := secBody img ss 3
  let offs := stepOffs (secBody img ss 2) c
  let ts := coreSteps f c
  let ls := coreSteps f (leadOf c)
  let follow := ts.any isMatrix
  let bows := f.bowPoints.map fun b => b.position
  let ends := stepEnds ts
  let filled (k : Nat) : Bool := f.curveLoads.any fun e => e.1 == c && e.2.1 == k
  if 8 < stepCount f c then some (infoOf c 0)
  else
    let at_ := ((List.range ts.length).zip ts).find? fun e =>
      let i := e.1
      let t := e.2
      let l := ls.getD i {}
      let o := offs.getD i 0
      decide (4 < t.mode) || fmtBad t || (f.origin4 && segmentBad t) || (resv st (o + 28) [(0, 24)]).1 || (resv st o [(0, 28)]).1 || (resv st (o + 32) [(0, 4)]).1 || !allZero (slice st (o + 36) 24) ||
      ([t.patA, t.patB, t.patW, t.patOut].any fun n => n != 0xFFFF && decide (f.patterns.length ≤ n)) ||
      decide (8 < t.streamCount) || (t.streamCount != 0 && decide (f.streams.length < t.streamFirst + t.streamCount)) ||
      (t.attn && !isLead c) || (t.adapter && !(t.mode == 2 || (t.mode == 3 && [1, 2, 5, 6, 7, 8, 9].contains t.fmtX))) ||
      (isMatrix t && ((!isLead c && t.patA != 0xFFFF) || (isLead c && t.patA == 0xFFFF) || t.patW == 0xFFFF)) ||
      (t.fmtW == 0xA && !(f.selects.any fun e => e.core == c && e.step == i)) || chainBad t filled ||
      (follow && !isLead c && (decide (ls.length ≤ i) || l.runLen != t.runLen || (isMatrix t && (!isMatrix l || l.fmtW != t.fmtW || l.fmtX != t.fmtX || l.adapter != t.adapter || wLoops f l != wLoops f t)))) ||
      (t.bow && !bows.contains (ends.getD i 0)) || (!t.bow && bows.contains (ends.getD i 0))
    match at_ with
    | some e => some (infoOf c e.1)
    | none =>
      if follow ∧ ls.length ≠ ts.length then some (infoOf c ts.length)
      else if (ts.map fun t => t.runLen).sum ≠ f.roundLen then some (infoOf c (ts.length - 1))
      else if bows.any (fun b => !ends.contains b) then some (infoOf c (ts.length - 1))
      else
        let n := (ts.filter fun t => t.layerEnd).length
        if n ≠ 0 ∧ n ≠ layers then some (infoOf c ((lpos (fun t : Step => t.layerEnd) ts).getD 0)) else none

def fieldBad (img : List Byte) (f : Figure) : Option Nat :=
  let layers := ((figCores f).map fun c => ((coreSteps f c).filter fun t => t.layerEnd).length).find? (· != 0)
  (figCores f).findSome? (coreFieldBad img f (layers.getD 0))

/-! ### 0x08 ALIGNMENT, 0x09 BUFFER, 0x0A LOOP_COUNT -/

def alignBad (img : List Byte) (f : Figure) : Option Nat :=
  let dir := secBody img (imgSections img) 2
  (List.range (2560 * f.quarters)).findSome? fun c =>
    if wordB dir (8 * c + 4) % 64 ≠ 0 then some (infoOf c 0)
    else ((List.range (coreSteps f c).length).zip (coreSteps f c)).findSome? fun e =>
      if (stepPats e.2).any fun x => ((patternOf f x.1).map fun p => p.base % 64 != 0).getD false then some (infoOf c e.1) else none

/-- Byte span of a pattern's buffer. -/
def bufSpan (f : Figure) (n : Nat) : Option (Nat × Nat) := (patternOf f n).map fun p => (p.base, p.base + 64 * p.bufLines)

def bufferBad (f : Figure) : Option Nat :=
  firstStep f fun _ _ t =>
    (stepPats t).any (fun x => match patternOf f x.1 with | some p => decide (p.bufLines = 0 ∨ 1024 < p.bufLines ∨ 65536 < p.base + 64 * p.bufLines) | none => false) ||
    (match bufSpan f t.patOut with
     | some o => [t.patA, t.patB, t.patW].any fun n => match bufSpan f n with | some b => decide (b.1 < o.2 ∧ o.1 < b.2) | none => false
     | none => false)

/-- Least and greatest byte offsets of a pattern's accesses from BASE, without their size (02 R59). -/
def patReach (p : Pattern) : Int × Int :=
  (p.counts.zip p.strides).foldl (fun r e => let d := 16 * ((e.1 : Int) - 1) * e.2; if d < 0 then (r.1 + d, r.2) else (r.1, r.2 + d)) (0, 0)

def loopsBad (img : List Byte) (f : Figure) : Option Nat :=
  let pats := secBody img (imgSections img) 4
  firstStep f fun _ _ t => (stepPats t).any fun x =>
    match patternOf f x.1 with
    | none => false
    | some p =>
      decide (p.loops = 0 ∨ 6 < p.loops) || !allZero (slice pats (32 * x.1 + 8 + 4 * p.loops) (24 - 4 * p.loops)) ||
      decide (t.runLen < accesses p) ||
      (if p.space = 1 then decide (p.loops ≠ 1 ∨ p.strides ≠ [4])
       else decide ((patReach p).1 < 0 ∨ 64 * (p.bufLines : Int) < (patReach p).2 + x.2))

/-! ### 0x0B STREAM_TARGET (02 R60; 07 R218, R220; 10 R310) -/

/-- An endpoint's direction: some true a source, some false a destination, none a reserved number or a set outside the figure. -/
def endpointDir (sets n : Nat) : Option Bool :=
  if n < 0x100 then some true
  else if n < 0x200 then some false
  else if n < 0x208 then some false
  else if n < 0x210 then some true
  else if 0x4000 ≤ n ∧ n < 0x8000 then
    let k := (n - 0x4000) % 4
    if sets ≤ (n - 0x4000) / 4 ∨ k = 3 then none else some (k == 2)
  else if 0x8000 ≤ n ∧ n < 0x9000 then some false
  else if 0x9000 ≤ n ∧ n < 0xA000 then some true
  else if 0xA000 ≤ n ∧ n < 0xA040 then (if n % 4 = 3 then none else some (n % 4 == 2))
  else if 0xB000 ≤ n ∧ n < 0xB400 then some true
  else if 0xC000 ≤ n ∧ n < 0xC400 then some false
  else none

/-- Core-steps that list a stream among their entries. -/
def listers (f : Figure) (k : Nat) : List (Nat × Nat) :=
  (figCores f).flatMap fun c => ((List.range (coreSteps f c).length).zip (coreSteps f c)).filterMap fun e =>
    if e.2.streamFirst ≤ k ∧ k < e.2.streamFirst + e.2.streamCount then some (c, e.1) else none

/-- The promenade rectangle's destination cores (07 R220); `none` when it leaves the set grid or starts outside the figure. -/
def treeCores (f : Figure) (core tree : Nat) : Option (List Nat) :=
  let j := core / 2560
  let s := core % 2560 / 128
  let x := 4 * (j % f.width) + s % 4
  let y := 5 * (j / f.width) + s / 4
  let cols := bits tree 0 5 + 1
  let rows := bits tree 5 5 + 1
  if 2560 * f.quarters ≤ core ∨ 4 * f.width < x + cols ∨ 5 * f.height < y + rows then none
  else some ((List.range rows).flatMap fun r => (List.range cols).map fun c =>
    let gx := x + c
    let gy := y + r
    2560 * (gy / 5 * f.width + gx / 4) + 128 * (gy % 5 * 4 + gx % 4) + core % 128)

/-- Endpoints of the expert exchange (10 R310), which a split segment may not name (02 R73, 10 R312; log 21). -/
def isExpert (n : Nat) : Bool := decide (0xA000 ≤ n) && decide (n < 0xC400)

/-- The stream's source is an endpoint. -/
def fromEndpoint (f : Figure) (x : Stream) : Bool := x.dstEndpoint && endpointDir (20 * f.quarters) x.endpoint == some true

/-- Consumer inputs of a stream as (core, step, input); `none` when it leaves the figure. A stream from an endpoint belongs to the
step that lists it, or, on the promenade, to DST_CORE's rectangle (02 R60; log 21). -/
def streamEnds (f : Figure) (k : Nat) (x : Stream) : Option (List (Nat × Nat × Nat)) :=
  if x.route = 2 then (treeCores f x.dstCore x.tree).map fun cs => cs.map fun c => (c, x.dstStep, x.dstInput)
  else if !x.dstEndpoint then (if 2560 * f.quarters ≤ x.dstCore then none else some [(x.dstCore, x.dstStep, x.dstInput)])
  else if fromEndpoint f x then some ((listers f k).map fun e => (e.1, e.2, x.dstInput))
  else some []

/-- Pattern index of a step's stream input. -/
def inputPat (t : Step) (input : Nat) : Nat := if input = 0 then t.patA else t.patB

/-- A consumer input exists and is a stream buffer. -/
def inputOk (f : Figure) (e : Nat × Nat × Nat) : Bool :=
  decide (e.2.1 < stepCount f e.1) && (match patternOf f (inputPat (coreStep f e.1 e.2.1) e.2.2) with | some p => p.space == 1 | none => false)

/-- Check 0x0B. A destination endpoint listed by a step that produces no output is named as a source (07 R218). -/
def targetBad (f : Figure) : Option Nat :=
  let ix := (List.range f.streams.length).zip f.streams
  let ends := ix.map fun e => (streamEnds f e.1 e.2).getD []
  (ix.find? fun e =>
    let x := e.2
    let mine := ends.getD e.1 []
    x.route == 3 || (x.dstEndpoint && ((endpointDir (20 * f.quarters) x.endpoint).isNone || (f.origin4 && isExpert x.endpoint))) || (x.dstEndpoint && x.route == 2 && !fromEndpoint f x) ||
    (x.dstEndpoint && !fromEndpoint f x && (listers f e.1).any fun l => (coreStep f l.1 l.2).patOut == 0xFFFF) ||
    (streamEnds f e.1 x).isNone || mine.any (fun t => !inputOk f t) || !distinct mine ||
    mine.any (fun t => (ends.take e.1).any fun l => l.contains t)).map (·.1)

/-! ### 0x0C RATE_BALANCE (02 R49) -/

/-- Flits that a pattern moves in a round. -/
def patFlits (f : Figure) (n size : Nat) : Nat := match patternOf f n with | some p => ceilDiv (accesses p * size) 64 | none => 0

def rateBad (f : Figure) : Option Nat :=
  let ix := (List.range f.streams.length).zip f.streams
  (ix.find? fun e =>
    let x := e.2
    let prods := if fromEndpoint f x then [] else listers f e.1
    let cons := (streamEnds f e.1 x).getD []
    x.flits == 0 || (prods.isEmpty && !fromEndpoint f x) || (cons.isEmpty && (!x.dstEndpoint || fromEndpoint f x)) ||
    prods.any (fun c => let t := coreStep f c.1 c.2; patFlits f t.patOut (sizeOut t) != x.flits || decide (t.runLen < x.flits)) ||
    cons.any (fun c => let t := coreStep f c.1 c.2.1; patFlits f (inputPat t c.2.2) (if c.2.2 = 0 then sizeA t else sizeB t) != x.flits || decide (t.runLen < x.flits))).map (·.1)

/-! ### 0x0D JOIN_TABLE, 0x0E JOIN_SLACK, 0x0F TICKET_TABLE -/

/-- Streams that carry a JOIN_ID, with their ends. -/
def joinFeeds (f : Figure) (id : Nat) : List (Stream × List (Nat × Nat × Nat)) :=
  ((List.range f.streams.length).zip f.streams).filterMap fun e => if e.2.joinId = id then some (e.2, (streamEnds f e.1 e.2).getD []) else none

def joinTableBad (f : Figure) : Option Nat :=
  let bad := f.joins.find? fun j =>
    let es := (joinFeeds f j.id).map (·.2)
    (f.joins.filter fun k => k.id == j.id).length != 1 ||
    !(es == [[(j.core, j.step, 0)], [(j.core, j.step, 1)]] || es == [[(j.core, j.step, 1)], [(j.core, j.step, 0)]])
  match bad with
  | some j => some j.id
  | none => (f.streams.find? fun x => x.joinId != 0xFFFF && !(f.joins.any fun j => j.id == x.joinId)).map fun x => x.joinId

/-- The slack that a join requires (02 R51). -/
def slackReq (latA latB flits roundLen : Nat) : Nat := let dl := max latA latB - min latA latB; min dl (flits * ceilDiv dl roundLen) + 2

/-- Check 0x0E (02 R51). With equal latencies no input is the early one; input A is taken for it (log 21). -/
def joinSlackBad (f : Figure) : Option Nat :=
  (f.joins.find? fun (j : Join) =>
    let early := if j.latA ≤ j.latB then 0 else 1
    let flits := (((joinFeeds f j.id).find? fun e => e.2.any fun t => t.2.2 == early).map fun e => e.1.flits).getD 0
    let buf : Nat := ((patternOf f (inputPat (coreStep f j.core j.step) early)).map fun p => p.bufLines).getD 0
    decide (j.slack < slackReq j.latA j.latB flits f.roundLen) || decide (buf < j.slack)).map fun j => j.id

/-- Check 0x0F (02 R61). Where the count of entries differs from QUARTERS the first quarter without an entry, or the first entry without a
quarter, is named (log 21). -/
def ticketBad (f : Figure) : Option Nat :=
  if f.tickets.length ≠ f.quarters then some (min f.tickets.length f.quarters)
  else lpos (fun t : List Nat => (List.range 4).any fun k => let v := t.getD k 0; if f.divFastest ≤ k then decide (v = 0 ∨ 2560 < v) else v != 0) f.tickets

/-! ### INSTALL's checks in the table's order (02 R65) -/

def firstFail (l : List (Nat × Option Nat)) : Option (Nat × Nat) := l.findSome? fun e => e.2.map fun i => (e.1, i)

/-- The checks 0x01-0x0F of an image: the first failing code and its detail, or the figure. -/
def installCheck (fu : Fuses) (img : List Byte) (size : Nat) : Except (Nat × Nat) Figure :=
  if wordB img 0 ≠ 0x39424C43 then .error (1, 0)
  else
    let f := decFigure img
    match formatBad img size f with
    | some o => .error (2, o)
    | none =>
      let ss := imgSections img
      let g := sigOf (secBody img ss 0xF)
      let sigOff := match secOf ss 0xF with | some x => x.off | none => 0
      if !slotAccepted fu g.slot then .error (3, g.slot)
      else if !sigValid fu img sigOff g then .error (4, 0)
      else match lpos (fun x : Section => x.type != 0xF && crc32c (sectionBytes img x) != x.crc) ss with
        | some i => .error (5, i)
        | none =>
          match firstFail [(6, checksumBad img f), (7, fieldBad img f), (8, alignBad img f), (9, bufferBad f), (0xA, loopsBad img f), (0xB, targetBad f),
              (0xC, rateBad f), (0xD, joinTableBad f), (0xE, joinSlackBad f), (0xF, ticketBad f)] with
          | some e => .error e
          | none => .ok f

/-- INSTALL's verdict on the image that a slot pins; one with a poisoned line cannot be trusted and is SIGNATURE (log 21). The loader reads a
whole header however small the install size is. -/
def installVerdict (s : State) (p : Nat) (x : Slot) : Except (Nat × Nat) Figure :=
  let r := readRange s p none x.addr (max 64 x.size)
  if r.2 then .error (4, 0) else installCheck s.fuses r.1 x.size

end Sys2Proof.Machine
end

