-- ==== Sys2Proof/Machine/Plans.lean ====
section
/-! DEFINITION. Adapter plans (05 R148-R151) and attention maps (06 R177-R179): decoding, the checks at BIND, and the commands
that bind and unbind them. Where a table leaves a reading open, log 29. -/
namespace Sys2Proof.Machine

/-! ### Rows of a step (02 R59; 03 R90; 05 R149) -/

/-- Rows of a matrix step's weight pattern: the iterations of its batch/head loop, one when that loop is the K loop. -/
def patRows (q : Pattern) : Nat := if 2 ≤ q.counts.length then q.counts.getLastD 1 else 1

/-- Array accesses of one row, and K-loop completions of one row. -/
def rowAccesses (f : Figure) (t : Step) : Nat := match patternOf f t.patW with | some q => accesses q / patRows q | none => 0
def rowHandoffs (f : Figure) (t : Step) : Nat := match patternOf f t.patW with | some q => rowAccesses f t / q.counts.headD 1 | none => 0

/-! ### Adapter plans -/

/-- Parts of a plan: offsets of pieces, groups, members, share ranges, column ranges, and the end. The members table reaches as
far as the groups' lists do. -/
def planParts (b : List Byte) : List Nat :=
  let w := wordAt b
  let go := alignUp (64 + 16 * bits (w 3) 0 13) 16
  let mo := alignUp (go + 8 * bits (w 4) 0 12) 16
  let ms := ((recsAt b go (bits (w 4) 0 12) 8).map fun e => bits (wordAt e 1) 0 20 + bits (wordAt e 1) 20 8).foldl max 0
  let so := alignUp (mo + 2 * ms) 16
  let co := alignUp (so + 8 * bits (w 5) 0 20) 16
  [64, go, mo, so, co, alignUp (co + 8 * bits (w 6) 0 20) 16, ms]

def decShare (e : List Byte) : ShareRange := { access := bits (wordAt e 0) 0 16, count := bits (wordAt e 0) 16 16, slice := bits (wordAt e 1) 0 16 }
def decCol (e : List Byte) : ColRange :=
  { handoff := bits (wordAt e 0) 0 8, firstCol := bits (wordAt e 0) 8 11, count := bits (wordAt e 0) 19 12, proj := bits (wordAt e 1) 0 3, projCol := bits (wordAt e 1) 3 16 }

def decPiece (b : List Byte) (so co : Nat) (e : List Byte) : Piece :=
  let w := wordAt e
  { set := bits (w 0) 0 10, step := bits (w 0) 10 3, group := bits (w 0) 13 12,
    shares := (recsAt b (so + 8 * bits (w 1) 0 20) (bits (w 1) 20 8) 8).map decShare,
    cols := (recsAt b (co + 8 * bits (w 2) 0 20) (bits (w 2) 20 8) 8).map decCol, offset := bits (w 3) 0 24, steerLayer := bits (w 3) 24 8 }

def decGroup (b : List Byte) (mo : Nat) (e : List Byte) : ColGroup :=
  { kSlices := bits (wordAt e 0) 0 16, projMask := bits (wordAt e 0) 16 8,
    members := (recsAt b (mo + 2 * bits (wordAt e 1) 0 20) (bits (wordAt e 1) 20 8) 2).map leNat }

/-- A plan's tables. -/
def decPlan (b : List Byte) (addr size : Nat) : Plan :=
  let w := wordAt b
  let o := planParts b
  { tag := w 1, maxRank := bits (w 2) 0 7 + 1, projs := bits (w 2) 8 4,
    pieces := (recsAt b 64 (bits (w 3) 0 13) 16).map (decPiece b (o.getD 3 0) (o.getD 4 0)),
    groups := (recsAt b (o.getD 1 0) (bits (w 4) 0 12) 8).map (decGroup b (o.getD 2 0)),
    bodyUnits := w 7, addr := addr, size := size }

/-- Entries from an offset that rise by (SET, STEP). -/
def piecesRise : List Piece → Bool
  | a :: b :: rest => (decide (a.set < b.set) || (a.set == b.set && decide (a.step ≤ b.step))) && piecesRise (b :: rest)
  | _ => true

/-- Check 0x02: the word number at fault. -/
def planFormatBad (b : List Byte) (size : Nat) : Option Nat :=
  let w := wordAt b
  let o := planParts b
  let k := decPlan b 0 0
  let ent (i n : Nat) (part : Nat) : List Nat := (List.range n).map fun j => o.getD part 0 + i * j
  (firstBad (
    [(decide (size < 64 ∨ 2 ^ 24 < size), 0), (decide (bits (w 2) 8 4 = 0 ∨ 8 < bits (w 2) 8 4) || (resv b 8 [(0, 7), (8, 4)]).1, 8),
     (decide (bits (w 3) 0 13 = 0 ∨ 5120 < bits (w 3) 0 13 ∨ size < o.getD 1 0) || (resv b 12 [(0, 13)]).1, 12),
     (decide (size < o.getD 3 0) || (resv b 16 [(0, 12)]).1, 16), (decide (size < o.getD 4 0) || (resv b 20 [(0, 20)]).1, 20),
     (decide (size < o.getD 5 0) || (resv b 24 [(0, 20)]).1, 24)] ++
    (ent 16 (bits (w 3) 0 13) 0).flatMap (fun a =>
      [((resv b a [(0, 25)]).1 || decide (bits (wordB b a) 13 12 ≠ 0xFFF ∧ bits (w 4) 0 12 ≤ bits (wordB b a) 13 12), a),
       ((resv b (a + 4) [(0, 28)]).1 || decide (bits (w 5) 0 20 < bits (wordB b (a + 4)) 0 20 + bits (wordB b (a + 4)) 20 8), a + 4),
       ((resv b (a + 8) [(0, 28)]).1 || decide (bits (w 6) 0 20 < bits (wordB b (a + 8)) 0 20 + bits (wordB b (a + 8)) 20 8), a + 8)]) ++
    [(!piecesRise k.pieces, 64)] ++
    (ent 8 (bits (w 4) 0 12) 1).flatMap (fun a =>
      [((resv b a [(0, 24)]).1 || decide (bits (wordB b a) 0 16 = 0) || decide (2 ^ k.projs ≤ bits (wordB b a) 16 8), a),
       ((resv b (a + 4) [(0, 28)]).1 || decide (bits (wordB b (a + 4)) 20 8 = 0 ∨ 128 < bits (wordB b (a + 4)) 20 8), a + 4)]) ++
    (ent 2 (o.getD 6 0) 2).map (fun a => (decide (bits (w 3) 0 13 ≤ leNat (slice b a 2)), a)) ++
    (ent 8 (bits (w 5) 0 20) 3).flatMap (fun a => [(decide (bits (wordB b a) 16 16 = 0), a), resv b (a + 4) [(0, 16)]]) ++
    (ent 8 (bits (w 6) 0 20) 4).flatMap (fun a =>
      [((resv b a [(0, 31)]).1 || decide (bits (wordB b a) 19 12 = 0 ∨ 2048 < bits (wordB b a) 19 12), a), resv b (a + 4) [(0, 19)]]))).map (· / 4)

/-- Projections of a piece's group, ascending. -/
def pieceProjs (k : Plan) (x : Piece) : List Nat := match k.groups[x.group]? with | some g => maskBits g.projMask 8 | none => []

/-- Units of a piece (05 R150). -/
def pieceUnits (k : Plan) (x : Piece) : Nat := 32 * (pieceProjs k x).length * (x.shares.map fun h => h.count).sum + (x.cols.map fun c => c.count).sum

/-- The lead core's step of a piece. -/
def pieceStep (f : Figure) (x : Piece) : Option Step := if x.set < 20 * f.quarters ∧ x.step < stepCount f (128 * x.set) then some (coreStep f (128 * x.set) x.step) else none

/-- Set-steps whose lead core has a flag. -/
def leadSteps (f : Figure) (flag : Step → Bool) : List (Nat × Nat) :=
  (List.range (20 * f.quarters)).flatMap fun n => (((List.range 8).zip (coreSteps f (128 * n))).filter fun e => flag e.2).map fun e => (n, e.1)

/-- The first index at which a test of the list so far and the element fails. -/
def firstIx {α : Type} (bad : List α → α → Bool) (l : List α) : Option Nat :=
  (((List.range l.length).zip l).find? fun e => bad (l.take e.1) e.2).map (·.1)

/-- Check 0x04. -/
def pieceStepBad (f : Figure) (k : Plan) : Option Nat :=
  let bad := firstIx (fun (before : List Piece) (x : Piece) =>
    (match pieceStep f x with
     | none => true
     | some t => !t.adapter || (t.mode == 2 && (!x.shares.isEmpty || !x.cols.isEmpty || x.steerLayer == 0xFF)) || (t.mode == 3 && x.steerLayer != 0xFF)) ||
    before.any (fun y => y.set == x.set && y.step == x.step) || (!x.cols.isEmpty && x.group == 0xFFF)) k.pieces
  match bad with
  | some i => some i
  | none => if (leadSteps f fun t => t.adapter).any fun e => !k.pieces.any fun x => x.set == e.1 && x.step == e.2 then some k.pieces.length else none

/-- Ranges laid end to end cover 0 … n once. -/
def covers (l : List (Nat × Nat)) (n : Nat) : Bool :=
  (sortBy (fun a b => decide (a.1 ≤ b.1)) l).foldl (fun (acc : Option Nat) e => if acc = some e.1 then some (e.1 + e.2) else none) (some 0) == some n

/-- Check 0x05. -/
def shareBad (f : Figure) (k : Plan) : Option Nat :=
  firstIx (fun _ (g : ColGroup) =>
    let ms := g.members.filterMap fun m => k.pieces[m]?
    !covers (ms.flatMap fun x => x.shares.map fun h => (h.slice, h.count)) g.kSlices ||
    ms.any fun x => x.shares.any fun h => match pieceStep f x with | some t => decide (rowAccesses f t < h.access + h.count) | none => true) k.groups

/-- Two ranges meet. -/
def meets (a n b m : Nat) : Bool := decide (a < b + m) && decide (b < a + n)

/-- No two elements of a list are related. -/
def noneRelated {α : Type} (r : α → α → Bool) : List α → Bool
  | [] => true
  | x :: xs => xs.all (fun y => !r x y) && noneRelated r xs

/-- Check 0x06. -/
def columnBad (f : Figure) (k : Plan) : Option Nat :=
  firstIx (fun (before : List Piece) (x : Piece) =>
    let t := (pieceStep f x).getD {}
    let width := match stepMode t with | some m => 128 * modeCols m | none => 0
    x.cols.any (fun c => decide (rowHandoffs f t ≤ c.handoff ∨ width < c.firstCol + c.count) || !(pieceProjs k x).contains c.proj) ||
    !noneRelated (fun a b => (a.handoff == b.handoff && meets a.firstCol a.count b.firstCol b.count) || (a.proj == b.proj && meets a.projCol a.count b.projCol b.count)) x.cols ||
    (x.group != 0xFFF && before.any fun y => y.group == x.group && y.cols.any fun a => x.cols.any fun b => a.proj == b.proj && meets a.projCol a.count b.projCol b.count)) k.pieces

/-- Check 0x07. -/
def pieceSizeBad (k : Plan) : Option Nat :=
  match firstIx (fun before (x : Piece) =>
    decide (114688 < k.maxRank * pieceUnits k x ∨ 1024 < k.maxRank * (pieceProjs k x).length ∨ x.offset ≠ (before.map (pieceUnits k)).sum)) k.pieces with
  | some i => some i
  | none => if (k.pieces.map (pieceUnits k)).sum = k.bodyUnits then none else some (k.pieces.length - 1)

/-- BIND's checks 0x01 to 0x07 in order: code and index, or the plan. A slot without an image has nothing to compare the plan with
and fails with STATE once its format has passed (log 29). -/
def planCheck (fig : Option Figure) (slot : Nat) (b : List Byte) (addr size : Nat) : Except (Nat × Nat) Plan :=
  if wordAt b 0 ≠ 0x4E414C50 then .error (1, 0)
  else match planFormatBad b size, fig with
    | some i, _ => .error (2, i)
    | none, none => .error (8, slot)
    | none, some f =>
      if slice b 32 32 ≠ f.digest then .error (3, 0)
      else
        let k := decPlan b addr size
        match firstFail [(4, pieceStepBad f k), (5, shareBad f k), (6, columnBad f k), (7, pieceSizeBad k)] with
        | some e => .error e
        | none => .ok k

/-! ### Attention maps -/

/-- Bytes per row and slot on ATT_Q, ATT_KV and ATT_O (06 R175). -/
def mapBytes (m : AttMap) (k : Nat) : Nat :=
  if k = 0 then m.g * m.qpos * m.d * elemBits m.qFmt / 8 else if k = 1 then m.qpos * 2 * m.d * 2 else m.g * m.qpos * m.d * elemBits m.outFmt / 8

def decMap (b : List Byte) (addr size : Nat) : AttMap :=
  let w := wordAt b
  let f (n : Nat) : Word := BitVec.ofNat 32 (w n)
  { layers := bits (w 1) 0 9, kvHeads := bits (w 1) 9 12, d := 64 * 2 ^ bits (w 3) 0 2, g := bits (w 3) 2 4 + 1, qpos := bits (w 3) 6 4 + 1,
    kvFmt := bits (w 3) 10 4, qFmt := bits (w 3) 14 4, outFmt := bits (w 3) 18 4, scaleLog2 := f 4, kInv := f 5, vInv := f 6, vScale := f 7,
    ropeBase := f 8, window := bits (w 9) 0 24,
    entries := (recsAt b 128 (bits (w 2) 0 13) 8).map (fun e =>
      { set := bits (wordAt e 0) 0 10, step := bits (wordAt e 0) 10 3, rows := bits (wordAt e 0) 13 13, slotFirst := bits (wordAt e 1) 0 12, slotCount := bits (wordAt e 1) 12 4 + 1 }),
    addr := addr, size := size }

def mapFormatBad (b : List Byte) (size : Nat) : Option Nat :=
  let w := wordAt b
  let lh := bits (w 1) 0 9 * bits (w 1) 9 12
  let n := bits (w 2) 0 13
  (firstBad (
    [(decide (size < 128 ∨ 2 ^ 20 < size), 0), (decide (lh = 0 ∨ 256 < bits (w 1) 0 9 ∨ 4096 < lh) || (resv b 4 [(0, 21)]).1, 4),
     (decide (n = 0 ∨ 5120 < n ∨ size < 128 + 8 * n) || (resv b 8 [(0, 13)]).1, 8),
     (decide (bits (w 3) 0 2 = 3 ∨ 8 < bits (w 3) 6 4) || !List.contains [1, 2, 4] (bits (w 3) 10 4) || !List.contains [1, 4] (bits (w 3) 14 4) ||
       !List.contains [0, 1, 4] (bits (w 3) 18 4) || (resv b 12 [(0, 22)]).1, 12), resv b 36 [(0, 24)]] ++
    (List.range 6).map (fun i => resv b (40 + 4 * i) []) ++ (List.range 8).map (fun i => resv b (96 + 4 * i) []) ++
    (List.range n).flatMap (fun i => let a := 128 + 8 * i
      [((resv b a [(0, 26)]).1 || decide (bits (wordB b a) 13 13 = 0 ∨ 4096 < bits (wordB b a) 13 13), a), resv b (a + 4) [(0, 16)]]))).map (· / 4)

/-- Endpoint of a set's pipe: 0 ATT_Q, 1 ATT_KV, 2 ATT_O (07 R218). -/
def attEndpoint (set k : Nat) : Nat := 0x4000 + 4 * set + k

/-- Streams at an endpoint, as (index, stream), in stream order. -/
def streamsAt (f : Figure) (ep : Nat) : List (Nat × Stream) := ((List.range f.streams.length).zip f.streams).filter fun e => e.2.dstEndpoint && e.2.endpoint == ep

/-- Position of a step among the attention steps of its set: its pipe streams have that position at their endpoints (log 30). -/
def attPos (f : Figure) (set step : Nat) : Nat := ((leadSteps f fun t => t.attn).filter fun e => e.1 == set && decide (e.2 < step)).length

/-- The stream of a set-step at one of its pipe's endpoints. -/
def attStream (f : Figure) (set step k : Nat) : Option (Nat × Stream) := (streamsAt f (attEndpoint set k))[attPos f set step]?

/-- Check 0x05. -/
def entryStepBad (f : Figure) (m : AttMap) : Option Nat :=
  let need := leadSteps f fun t => t.attn
  match firstIx (fun before (x : MapEntry) => !need.contains (x.set, x.step) || before.any fun y => y.set == x.set && y.step == x.step) m.entries with
  | some i => some i
  | none => if need.any fun e => !m.entries.any fun x => x.set == e.1 && x.step == e.2 then some m.entries.length else none

/-- Check 0x07. -/
def attStreamBad (f : Figure) (m : AttMap) : Option Nat :=
  firstIx (fun _ (x : MapEntry) => [0, 1, 2].any fun k =>
    (streamsAt f (attEndpoint x.set k)).length != ((leadSteps f fun t => t.attn).filter fun e => e.1 == x.set).length ||
    (match attStream f x.set x.step k with | some e => decide (e.2.flits * 64 ≠ x.rows * x.slotCount * mapBytes m k) | none => true)) m.entries

/-- BIND's checks 0x01 to 0x07 of a map in order. -/
def mapCheck (fig : Option Figure) (slot : Nat) (b : List Byte) (addr size : Nat) : Except (Nat × Nat) AttMap :=
  if wordAt b 0 ≠ 0x504D5441 then .error (1, 0)
  else match mapFormatBad b size, fig with
    | some i, _ => .error (2, i)
    | none, none => .error (8, slot)
    | none, some f =>
      if slice b 64 32 ≠ f.digest then .error (3, 0)
      else
        let m := decMap b addr size
        if (m.qFmt = 1 ∧ m.kvFmt = 4) ∨ (m.qFmt = 4 ∧ m.kvFmt ≠ 4) then .error (4, 0)
        else match firstFail [(5, entryStepBad f m), (6, firstIx (fun _ (x : MapEntry) => decide (m.layers * m.kvHeads < x.slotFirst + x.slotCount)) m.entries), (7, attStreamBad f m)] with
          | some e => .error e
          | none => .ok m

/-! ### BIND and UNBIND (05 R148; 06 R177) -/

/-- The slot's figure is in the cores. -/
def slotLoaded (s : State) (p slot : Nat) : Bool := (getPtn s p).figure.isSome && (getPtn s p).fig.slot == slot

/-- BIND and UNBIND of a slot are refused with STATE; a BIND only after its other checks (05 R151; 06 R179). -/
def bindRefused (s : State) (p slot : Nat) : Bool :=
  decide ((getSlot s p slot).st ≠ .valid) || slotLoaded s p slot || decide ((getPtn s p).fig.st = .loading) || decide ((getPtn s p).fig.st = .draining)

/-- The object at a bound or bindable address is on 64 B and in T0 and T1. -/
def bindAddrBad (s : State) (p addr size : Nat) : Bool := decide (addr % 64 ≠ 0) || !rangeNear s p addr size

def modUnits (p : Nat) (g : Ptnu → Ptnu) : State → State := modPtn p fun x => { x with units := g x.units }

/-- A plan command ends: CODE and INFO, and BUSY clears. -/
def planEnd (p code info : Nat) (s : State) : State := pulse (srcPtn p 2) (modUnits p (fun u => { u with code := code, info := info, binding := none }) s)
def mapEnd (p code info : Nat) (s : State) : State := pulse (srcPtn p 3) (modAtt p (fun u => { u with code := code, info := info, binding := none }) s)

/-- The binding that a command begins: what its registers hold, and STATE as it stands now. -/
def newBinding (s : State) (p slot : Nat) (bind : Bool) (addr size : Nat) : Binding :=
  ⟨slot, bind, addr, size, bindRefused s p slot || bindAddrBad s p addr size⟩

/-- PTN_PLAN_CMD and ATT_MAP_CMD with OP BIND (`true`) or UNBIND: ignored while one is in progress. An UNBIND has no checks but STATE. -/
def planCmd (p slot : Nat) (bind : Bool) (s : State) : State :=
  let u := (getPtn s p).units
  if u.binding.isSome then s
  else if !bind && bindRefused s p slot then planEnd p 8 slot s
  else modUnits p (fun u => { u with binding := some (newBinding s p slot bind u.addr u.size) }) s

def mapCmd (p slot : Nat) (bind : Bool) (s : State) : State :=
  let u := (getPtn s p).att
  if u.binding.isSome then s
  else if !bind && bindRefused s p slot then mapEnd p 8 slot s
  else modAtt p (fun u => { u with binding := some (newBinding s p slot bind u.mapAddr u.mapSize) }) s

/-- The verdict on a plan or map in the tiers: one that no object holds is STATE, one with a poisoned line BAD_FORMAT (log 29), and one
that passes its checks is STATE all the same where the command met STATE, or the slot does now (05 R151; 06 R179). -/
def tableVerdict {α : Type} (check : List Byte → Except (Nat × Nat) α) (s : State) (p : Nat) (b : Binding) : Except (Nat × Nat) α :=
  let r := readRange s p none b.addr b.size
  if !rangeMapped s p b.addr b.size then .error (8, b.slot)
  else if r.2 then .error (2, 0)
  else match check r.1 with
    | .error e => .error e
    | .ok k => if b.refused || bindRefused s p b.slot then .error (8, b.slot) else .ok k

/-- A BIND or UNBIND ends with its checks; a failed BIND leaves the previous plan or map bound. -/
def planBindEnd (p : Nat) (s : State) : State :=
  match (getPtn s p).units.binding with
  | none => s
  | some b =>
    if !b.bind then
      if bindRefused s p b.slot then planEnd p 8 b.slot s else planEnd p 0 0 (modUnits p (fun u => { u with plans := tset none b.slot none u.plans }) s)
    else match tableVerdict (fun t => planCheck (getSlot s p b.slot).fig b.slot t b.addr b.size) s p b with
      | .error (c, i) => planEnd p c i s
      | .ok k => planEnd p 0 0 (modUnits p (fun u => { u with plans := tset none b.slot (some k) u.plans }) s)

def mapBindEnd (p : Nat) (s : State) : State :=
  match (getPtn s p).att.binding with
  | none => s
  | some b =>
    if !b.bind then
      if bindRefused s p b.slot then mapEnd p 8 b.slot s else mapEnd p 0 0 (modAtt p (fun u => { u with maps := tset none b.slot none u.maps }) s)
    else match tableVerdict (fun t => mapCheck (getSlot s p b.slot).fig b.slot t b.addr b.size) s p b with
      | .error (c, i) => mapEnd p c i s
      | .ok k => mapEnd p 0 0 (modAtt p (fun u => { u with maps := tset none b.slot (some k) u.maps }) s)

def planOff (p : Nat) : Nat := 0x0140100C + 0x1000 * p
def mapOff (p : Nat) : Nat := 0x0180102C + 0x1000 * p

def execPlanBind (fn : FnId) (p : PtnId) (slot : SlotId) (s : State) : Host.Outcome State Fault Refusal :=
  .next (hostAccess fn.val (planOff p.val) (seesPtn s fn.val p.val) false (planCmd p.val slot.val true) s)

def execPlanUnbind (fn : FnId) (p : PtnId) (slot : SlotId) (s : State) : Host.Outcome State Fault Refusal :=
  .next (hostAccess fn.val (planOff p.val) (seesPtn s fn.val p.val) false (planCmd p.val slot.val false) s)

def execPlanBindDone (p : PtnId) (s : State) : Host.Outcome State Fault Refusal := .next (if isReady s then planBindEnd p.val s else s)

def execMapBind (fn : FnId) (p : PtnId) (slot : SlotId) (s : State) : Host.Outcome State Fault Refusal :=
  .next (hostAccess fn.val (mapOff p.val) (seesPtn s fn.val p.val) false (mapCmd p.val slot.val true) s)

def execMapUnbind (fn : FnId) (p : PtnId) (slot : SlotId) (s : State) : Host.Outcome State Fault Refusal :=
  .next (hostAccess fn.val (mapOff p.val) (seesPtn s fn.val p.val) false (mapCmd p.val slot.val false) s)

def execMapBindDone (p : PtnId) (s : State) : Host.Outcome State Fault Refusal := .next (if isReady s then mapBindEnd p.val s else s)

end Sys2Proof.Machine
end

