-- ==== Sys2Proof/Machine/Directory.lean ====
section
/-! DEFINITION. The adapter and steering directories (05 R144-R147, R165, R166), gathers into the partner units (R160, R161,
R164, R167), and the fallback paths of late fetches (05 R163; 07 R222). -/
namespace Sys2Proof.Machine

/-! ### ADAPTER_SET and ADAPTER_CLEAR -/

/-- The entry that an ADAPTER_SET carries. -/
def adapterOf (c : Cmd) : Adapter :=
  { st := .valid, rank := opf c.ops 3 8 7 + 1, fmt := opf c.ops 3 16 4, ctx := c.ctx, planTag := opw c.ops 4, body := opd c.ops 6, bodySize := opw c.ops 8,
    alpha := (List.range 8).map fun i => opf c.ops (9 + i / 2) (16 * (i % 2)) 16 }

/-- Every field but ALPHA is the same. -/
def sameAdapter (x y : Adapter) : Bool := x.rank == y.rank && x.fmt == y.fmt && x.planTag == y.planTag && x.body == y.body && x.bodySize == y.bodySize

/-- Plans bound in a partition with a tag. -/
def plansTagged (s : State) (p tag : Nat) : List Plan := (getPtn s p).units.plans.filterMap fun e => e.2.bind fun k => if k.tag = tag then some k else none

/-- The first reason of R145 that refuses an ADAPTER_SET. -/
def adapterRefused (s : State) (c : Cmd) (o n : Adapter) : Option Nat :=
  if opf c.ops 3 2 6 ≠ 0 ∨ opf c.ops 3 15 1 ≠ 0 ∨ opf c.ops 3 20 12 ≠ 0 ∨ (n.fmt ≠ 1 ∧ n.fmt ≠ 2) then some 0x02
  else if o.st = .retiring ∨ (o.st = .valid ∧ o.ctx ≠ c.ctx) then some 0x0A
  else if o.st = .valid ∧ sameAdapter o n = false then some 0x05
  else match (plansTagged s c.ptn n.planTag).find? fun k => decide (n.rank ≤ k.maxRank) with
    | none => some 0x0B
    | some k => if n.body % 64 ≠ 0 ∨ n.bodySize < n.rank * k.bodyUnits ∨ 2 ^ 42 < n.body + n.bodySize then some 0x0C else none

/-- ALPHA of a VALID entry changes: each open batch of the context keeps the scales it has until its next boundary (R146, R147). -/
def changeAlpha (c : Cmd) (a : Nat) (n : Adapter) (s : State) : State :=
  let bs := batchesOfCtx s c.ctx
  let s := modAdapter a (fun x => { x with alpha := n.alpha, oldAlpha := bs.foldl (fun t b => if t.any (fun e => e.1 == b) then t else tput b x.alpha t) x.oldAlpha }) s
  if bs.isEmpty then endCmd c.ring c.idx 0 0 s else modCmd c.ring c.idx (fun k => { k with phase := .waiting }) s

def adapterSet (c : Cmd) (s : State) : State :=
  let a := opf c.ops 2 0 16
  let o := getAdapter s a
  let n := adapterOf c
  match adapterRefused s c o n with
  | some st => endCmd c.ring c.idx st 0 s
  | none => if o.st = .valid then changeAlpha c a n s else endCmd c.ring c.idx 0 0 (modAdapter a (fun _ => n) s)

def execAdapterSet (e : Entry) (s : State) : Host.Outcome State Fault Refusal := .next (runEntry e 0x30 s adapterSet)

/-- A CLEAR waits in RETIRING until no standing row names the entry, and is not timed (R146). -/
def adapterClear (c : Cmd) (s : State) : State :=
  let a := opf c.ops 2 0 16
  let o := getAdapter s a
  if o.st ≠ .valid then endCmd c.ring c.idx 0x0A 0 s
  else if o.ctx ≠ c.ctx then endCmd c.ring c.idx 0x03 0 s
  else recountRefs (modCmd c.ring c.idx (fun k => { k with phase := .waiting }) (modAdapter a (fun x => { x with st := .retiring }) s))

def execAdapterClear (e : Entry) (s : State) : Host.Outcome State Fault Refusal := .next (runEntry e 0x31 s adapterClear)

/-! ### STEER_SET and STEER_CLEAR -/

def steerOf (c : Cmd) : Steer :=
  { st := .valid, layers := opf c.ops 3 8 8 + 1, fmt := opf c.ops 3 16 4, ctx := c.ctx, base := opd c.ops 4, width := opw c.ops 6 }

/-- Bytes of a steering set's element and of its vectors (R166). -/
def steerElem (x : Steer) : Nat := if x.fmt = 1 then 1 else 2
def steerVec (x : Steer) : Nat := alignUp (x.width * steerElem x) 64

def steerRefused (c : Cmd) (o n : Steer) : Option Nat :=
  if opf c.ops 3 2 6 ≠ 0 ∨ opf c.ops 3 20 12 ≠ 0 ∨ (n.fmt ≠ 1 ∧ n.fmt ≠ 4) ∨ n.width = 0 ∨ 16384 < n.width * steerElem n then some 0x02
  else if o.st = .retiring ∨ (o.st = .valid ∧ o.ctx ≠ c.ctx) then some 0x0A
  else if o.st = .valid ∧ { o with refs := 0 } ≠ n then some 0x05
  else if n.base % 64 ≠ 0 ∨ 2 ^ 42 < n.base + n.layers * steerVec n then some 0x0C
  else none

def steerSet (c : Cmd) (s : State) : State :=
  let a := opf c.ops 2 0 16
  let o := getSteer s a
  match steerRefused c o (steerOf c) with
  | some st => endCmd c.ring c.idx st 0 s
  | none => endCmd c.ring c.idx 0 0 (if o.st = .valid then s else modSteer a (fun _ => steerOf c) s)

def execSteerSet (e : Entry) (s : State) : Host.Outcome State Fault Refusal := .next (runEntry e 0x32 s steerSet)

def steerClear (c : Cmd) (s : State) : State :=
  let a := opf c.ops 2 0 16
  let o := getSteer s a
  if o.st ≠ .valid then endCmd c.ring c.idx 0x0A 0 s
  else if o.ctx ≠ c.ctx then endCmd c.ring c.idx 0x03 0 s
  else recountRefs (modCmd c.ring c.idx (fun k => { k with phase := .waiting }) (modSteer a (fun x => { x with st := .retiring }) s))

def execSteerClear (e : Entry) (s : State) : Host.Outcome State Fault Refusal := .next (runEntry e 0x33 s steerClear)

/-! ### Gathers -/

/-- The quarter that holds a figure set. -/
def setQuarter (s : State) (p set : Nat) : Nat := (figQtrs s p).getD (set / 20) 0

/-- The batch step in progress in a partition: its number. -/
def stepBatch (s : State) (p : Nat) : Option Nat :=
  match (getPtn s p).fe.run with
  | some r => if r.opcode = 0x21 ∧ (getBatch s p r.batch).step.isSome = true then some r.batch else none
  | none => none

/-- Segments of the batch step in progress. -/
def runSegs (s : State) (p : Nat) : List Segment := match stepBatch s p with | some b => (getBatch s p b).segs | none => []

/-- The first segment from `cur` on with a property; past every segment when there is none. -/
def nextUse (l : List Segment) (cur : Nat) (uses : Segment → Bool) : Nat := (((l.drop cur).findIdx? uses).map fun i => cur + i).getD 65536

/-- The next segment, from `cur` on, that uses an adapter or a steering set (R160). -/
def adapterUse (s : State) (p cur a : Nat) : Nat := nextUse (runSegs s p) cur fun g => g.adapter == some a && !g.aFault
def steerUse (s : State) (p cur t : Nat) : Nat := nextUse (runSegs s p) cur fun g => g.steer == some t && !g.sFault

/-- The element to evict: the first with the furthest next use. -/
def furthest {α : Type} (use : α → Nat) : List α → Option α
  | [] => none
  | x :: xs => match furthest use xs with | none => some x | some y => if use x < use y then some y else some x

/-- One more element of size `need` fits a region of `cap` bytes and `count` places. -/
def fits {α : Type} (size : α → Nat) (cap count need : Nat) (l : List α) : Bool := decide ((l.map size).sum + need ≤ cap) && decide (l.length < count)

/-- Elements leave a region, furthest next use first, until one more fits; those with a next use at or before `keep` never do. -/
def evictTo {α : Type} [DecidableEq α] (use size : α → Nat) (cap count need keep : Nat) : Nat → List α → List α
  | 0, l => l
  | n + 1, l =>
    if fits size cap count need l then l
    else match furthest use l with
      | none => l
      | some x => if use x ≤ keep then l else evictTo use size cap count need keep n (l.erase x)

/-- A region with room for one more element, which segment `at_` uses while segment `cur` is worked on: what segments `cur` to `cur` + 3
use stays (R160). Where that leaves the segment worked on no room, the furthest next use leaves all the same: it could never start (log 61). -/
def makeFit {α : Type} [DecidableEq α] (use size : α → Nat) (cap count need cur at_ : Nat) (l : List α) : Option (List α) :=
  let kept := evictTo use size cap count need (cur + 3) (l.length + 1) l
  if fits size cap count need kept then some kept
  else if at_ = cur then some (evictTo (fun x => use x + 1) size cap count need 0 (l.length + 1) kept)
  else none

/-- Bytes that a piece takes in the adapter region. -/
def pieceBytes (k : Plan) (rank i : Nat) : Nat := match k.pieces[i]? with | some x => alignUp (rank * pieceUnits k x) 64 | none => 0

def modPartner (p set : Nat) (g : Partner → Partner) : State → State := modPtn p fun x => { x with partner := tmod {} set g x.partner }
def getPartner (s : State) (p set : Nat) : Partner := tget {} (getPtn s p).partner set

/-- A range lies in the stage tier beneath a quarter, and in the stage tier at all. -/
def rangeT0 (s : State) (p a n : Nat) (q : Option Nat) : Bool :=
  (rangeParts a n).all fun x =>
    match objAt s p x.1 with
    | none => false
    | some (o, y) => (t0Phys s p (getPage s p (pageKey o ((x.1 - y.base) / pageBytes)))).any fun i => match q with | some q => i / 8192 == q | none => true

/-- What a gather's source counts (R161, R164, R172). -/
def countGather (p set a n : Nat) (cold : State → State) (hot : Bool) (s : State) : State :=
  let q := setQuarter s p set
  let s := if rangeT0 s p a n none then s else cold s
  modUnits p (fun u => if rangeT0 s p a n (some q) then (if hot then { u with hot := satAdd 32 u.hot 1 } else u) else { u with remote := satAdd 32 u.remote 1 }) s

/-- The access checks of a gather for the context of its directory entry (07 R206, R225). -/
def gatherRead (p c set a n : Nat) (s : State) : State :=
  match (getPtn s p).fe.run with
  | some r => afterRead p c r.ring r.idx 6 (engineRead s p c (some (setQuarter s p set)) a n) s
  | none => s

/-- A piece of an adapter comes into its set's adapter region, if there is room (R160, R161); one already present is only used again. -/
def gatherPiece (p set a i : Nat) (s : State) : State :=
  let e := getAdapter s a
  match loadedPlan s p with
  | none => s
  | some k =>
    match k.pieces[i]? with
    | none => s
    | some x =>
      let ent := (a, i, e.rank)
      let w := getPartner s p set
      if x.set ≠ set ∨ e.st = .free ∨ e.planTag ≠ k.tag then s
      else if w.pieces.contains ent then modPartner p set (fun w => { w with pieces := w.pieces.erase ent ++ [ent] }) s
      else
        let size (y : Nat × Nat × Nat) : Nat := pieceBytes k y.2.2 y.2.1
        match makeFit (fun y : Nat × Nat × Nat => adapterUse s p w.seg y.1) size 229376 32 (size ent) w.seg (adapterUse s p w.seg a) w.pieces with
        | none => s
        | some kept =>
          let at_ := e.body + e.rank * x.offset
          let n := e.rank * pieceUnits k x
          let s := gatherRead p e.ctx set at_ n s
          let s := countGather p set at_ n (modAdapter a fun x => { x with cold := satAdd 32 x.cold 1 }) true s
          modPartner p set (fun w => { w with pieces := kept ++ [ent], shadowed := w.shadowed.filter fun y => !(y.1 == a && y.2.1 == i) }) s

/-- The plan has a steering piece for a set and layer. -/
def steersSet (s : State) (p set l : Nat) : Bool := match loadedPlan s p with | some k => k.pieces.any fun x => x.set == set && x.steerLayer == l | none => false

/-- A vector of a steering set comes into the steering region, at most two at a time, if there is room (R167). -/
def gatherVector (p set t l : Nat) (s : State) : State :=
  let e := getSteer s t
  let w := getPartner s p set
  if e.st = .free ∨ e.layers ≤ l ∨ steersSet s p set l = false then s
  else if w.vectors.contains (t, l) then modPartner p set (fun w => { w with vectors := w.vectors.erase (t, l) ++ [(t, l)] }) s
  else
    match makeFit (fun y : Nat × Nat => steerUse s p w.seg y.1) (fun _ => 16384) 32768 2 16384 w.seg (steerUse s p w.seg t) w.vectors with
    | none => s
    | some kept =>
      let at_ := e.base + l * steerVec e
      let s := countGather p set at_ (e.width * steerElem e) id false (gatherRead p e.ctx set at_ (e.width * steerElem e) s)
      modPartner p set (fun w => { w with vectors := kept ++ [(t, l)], shadowVec := w.shadowVec.filter fun y => !(y.1 == t && y.2.1 == l) }) s

/-- A gather is complete: one that segment `seg` of the batch step in progress, or one of the three after it, calls for (R160). -/
def execGatherDone (p : PtnId) (set : Nat) (what : GatherKind) (s : State) : Host.Outcome State Fault Refusal :=
  .next (if (stepBatch s p.val).isNone || !isReady s then s
    else
      let cur := (getPartner s p.val set).seg
      match what with
      | .piece a i => if adapterUse s p.val cur a ≤ cur + 3 then gatherPiece p.val set a i s else s
      | .steering t l => if steerUse s p.val cur t ≤ cur + 3 then gatherVector p.val set t l s else s)

/-! ### Late fetches (07 R222) -/

/-- Rows of a batch that a round of a pass moves. -/
def roundRows (d : BDesc) (round : Nat) : List Nat := ((List.range d.perRound).map fun i => round * d.perRound + i).filter fun r => decide (r < d.rows)

/-- Rows marked as changed by a fallback. -/
def markRows (p : Nat) (rows : List Nat) (s : State) : State :=
  match stepBatch s p with
  | some b => modBatch p b (fun x => { x with step := x.step.map fun t => { t with fallback := naddAll rows t.fallback } }) s
  | none => s

def modRun (p : Nat) (g : Running → Running) : State → State := modFe p fun f => { f with run := f.run.map g }
def modStep (p b : Nat) (g : BStep → BStep) : State → State := modBatch p b fun x => { x with step := x.step.map g }

/-- An object's shadow is usable: its pages have copies in T0 or T1. -/
def shadowReady (s : State) (p : Nat) (o : Obj) : Bool := let x := getObj s p o.fbShadow; decide (x.st = .valid) && rangeNear s p x.base (x.pages * pageBytes)

/-- An object is another object's shadow. -/
def isShadow (s : State) (p o : Nat) : Bool := (getPtn s p).mem.objs.any fun e => decide (e.2.st ≠ .free) && e.2.fbKind == 1 && e.2.fbShadow == o

/-- Rows of the running round. -/
def rowsNow (s : State) (p : Nat) : List Nat :=
  match stepBatch s p with
  | some b => let x := getBatch s p b; roundRows x.desc ((x.step.map fun t => t.round).getD 0)
  | none => []

/-- The rows of the segment for which a set gathers an adapter: its next use from the segment that the set works on. -/
def rowsOfGather (s : State) (p set a : Nat) : List Nat :=
  match (runSegs s p)[adapterUse s p (getPartner s p set).seg a]? with
  | some g => (List.range g.count).map fun i => g.first + i
  | none => []

/-- A gather that is still under way: what it brings is not in the set's cache. -/
def fetchOpen (s : State) (p : Nat) (what : FetchKind) : Bool :=
  match what with
  | .gather set a i _ => !((getPartner s p set).pieces.any fun y => y.1 == a && y.2.1 == i) && !(rowsOfGather s p set a).isEmpty
  | .steering set t l _ => !(getPartner s p set).vectors.contains (t, l)
  | _ => true

/-- SHADOW: the rest of the fetch reads the shadow. The rows that a shadow's values reach are marked as they use them (R290). -/
def takeShadow (p : Nat) (what : FetchKind) (s : State) : State :=
  let s := modPMem p (fun m => { m with fbShadow := satAdd 32 m.fbShadow 1 }) s
  match what with
  | .port n _ k => markRows p (rowsNow s p) (modRun p (fun r => { r with fb := r.fb ++ [.portShadow n k] }) s)
  | .gather set a i k => modPartner p set (fun w => { w with shadowed := w.shadowed ++ [(a, i, k)] }) (gatherPiece p set a i s)
  | .steering set t l k => modPartner p set (fun w => { w with shadowVec := w.shadowVec ++ [(t, l, k)] }) (gatherVector p set t l s)
  | .page r n b k => markRows p [r] (modRun p (fun x => { x with fb := x.fb ++ [.pageShadow r n b k] }) s)

/-- BASE_NO_ADAPTER: every row of the segment whose gather is late goes without its term in the piece's group (05 R163). -/
def takeBase (p b set a i : Nat) (s : State) : State :=
  match (loadedPlan s p).bind fun k => k.pieces[i]? with
  | none => s
  | some x =>
    let old := match (getBatch s p b).step with | some t => t.skips | none => []
    let new := (rowsOfGather s p set a).filter fun r => !old.contains (x.group, r)
    let s := modPMem p (fun m => { m with fbNoAdapter := satAdd 32 m.fbNoAdapter 1 }) s
    let s := modUnits p (fun u => { u with fbRows := satAdd 32 u.fbRows new.length }) s
    markRows p new (modStep p b (fun t => { t with skips := t.skips ++ new.map fun r => (x.group, r) }) s)

/-- An object holds the partition's page pool (06 R201). -/
def holdsPool (s : State) (p : Nat) (x : Obj) : Bool :=
  let y := (getPtn s p).att
  decide (x.base ≤ y.poolBase) && decide (y.poolBase + y.poolPages * pageBytes ≤ x.base + x.pages * pageBytes)

/-- RECOMPUTE: the row-slot ends as for a dead row, and its block is dropped at the next boundary: of the batch step, or of the chunk of a
RECOMPUTE command (log 61). -/
def takeRecompute (p r n b : Nat) (s : State) : State :=
  let s := modPMem p (fun m => { m with fbRecompute := satAdd 32 m.fbRecompute 1 }) s
  match stepBatch s p with
  | some k => modStep p k (fun t => { t with late := t.late ++ [(r, n, b)] }) s
  | none => modRun p (fun x => { x with late := x.late ++ [(r, n, b)] }) s

/-- The path of a late fetch of an object; a kind that does not apply changes nothing. -/
def lateFetch (p o : Nat) (what : FetchKind) (s : State) : State :=
  let x := getObj s p o
  if x.st ≠ .valid ∨ isShadow s p o = true ∨ (getPtn s p).fe.run.isNone = true ∨ fetchOpen s p what = false then s
  else
    match x.fbKind, what, stepBatch s p with
    | 1, _, _ => if shadowReady s p x then takeShadow p what s else s
    | 2, .page r n b _, _ => if holdsPool s p x then takeRecompute p r n b s else s
    | 3, .port n true k, some b =>
      modStep p b (fun t => { t with skipDraft := true })
        (modRun p (fun r => { r with fb := r.fb ++ [.portZero n k] }) (modPMem p (fun m => { m with fbSkipDraft := satAdd 32 m.fbSkipDraft 1 }) s))
    | 4, .gather set a i _, some n => if (getCtx s (getBatch s p n).ctx).cur.baseNoAd then takeBase p n set a i s else s
    | _, _, _ => s

def execFetchDeadline (p : PtnId) (obj : ObjId) (what : FetchKind) (s : State) : Host.Outcome State Fault Refusal :=
  .next (if isReady s then lateFetch p.val obj.val what s else s)

end Sys2Proof.Machine
end

