-- ==== Sys2Proof/Machine/Exchange.lean ====
section
/-! DEFINITION. The expert exchange (10 R313-R325): routing tables, the exchange step at its sender, cards at their home, and
every dispatch unit. Units leave in packets and arrive in packets or one by one (log 13). -/
namespace Sys2Proof.Machine

/-! ### Descriptors that commands name -/

/-- A list that the command's context may read, wherever it lies: ACCESS when it may not, FORMAT when a line is poisoned (log 26). -/
def readList (s : State) (c : Cmd) (a n : Nat) : Except Nat (List Byte) :=
  let g := engineRead s c.ptn c.ctx none a n
  if !g.refuse.isEmpty then .error 3 else if g.poison then .error 2 else .ok g.data

/-- Every byte of a range lies in an object of a context. -/
def rangeOwn (s : State) (p c a n : Nat) : Bool :=
  (rangeParts a n).all fun x => match objAt s p x.1 with | some (_, o) => o.ctx == c | none => false

/-- A descriptor in a T0 or T1 object of the command's context, on 64 B; otherwise FORMAT, or ACCESS for another context's object (07
R219; 09 R267; 10 R314; log 26). -/
def readDesc (s : State) (c : Cmd) (a n : Nat) : Except Nat (List Byte) :=
  if a % 64 ≠ 0 ∨ rangeNear s c.ptn a n = false then .error 2 else if rangeOwn s c.ptn c.ctx a n then readList s c a n else .error 3

/-! ### ROUTE_SET (10 R314, R315) -/

/-- Byte offsets of the sender list, the expert entries, the replica entries and the end. -/
def routeParts (h : List Byte) : Nat × Nat × Nat × Nat :=
  let e := 64 + alignUp (4 * (bits (wordAt h 2) 11 7 + 1)) 64
  let r := e + alignUp (8 * bits (wordAt h 2) 0 11) 64
  (64, e, r, r + 4 * bits (wordAt h 3) 0 14)

/-- The table that a descriptor's bytes hold. -/
def decRoute (b : List Byte) : RouteTbl :=
  let o := routeParts b
  let at_ (off : Nat) : Nat := leNat (slice b off 4)
  { epoch := bits (wordAt b 1) 0 16, arrival := bit (wordAt b 1) 20,
    senders := (List.range (bits (wordAt b 2) 11 7 + 1)).map fun i => let w := at_ (o.1 + 4 * i); (bits w 0 16, bits w 16 5),
    experts := (List.range (bits (wordAt b 2) 0 11)).map fun i => let w := at_ (o.2.1 + 8 * i); (bits w 0 13, bits w 13 8, bits (at_ (o.2.1 + 8 * i + 4)) 0 13),
    replicas := (List.range (bits (wordAt b 3) 0 14)).map fun i => let w := at_ (o.2.2.1 + 4 * i); (bits w 0 16, bits w 16 5, bits w 21 6),
    fromStep := dwordAt b 4, actFmt := bits (wordAt b 6) 0 4, ansFmt := bits (wordAt b 6) 4 4, combFmt := bits (wordAt b 6) 8 4, width := bits (wordAt b 6) 12 14 }

/-- Strictly rising by (COORD, PARTITION). -/
def sendersRise : List (Nat × Nat) → Bool
  | a :: b :: rest => (decide (a.1 < b.1) || (a.1 == b.1 && decide (a.2 < b.2))) && sendersRise (b :: rest)
  | _ => true

/-- A header's fields are out of range. -/
def routeHeadBad (b : List Byte) : Bool :=
  let w := wordAt b
  w 0 != 0x45545552 || bits (w 1) 0 16 == 0xFFFF || bits (w 1) 21 11 != 0 || bits (w 2) 0 11 == 0 || decide (1024 < bits (w 2) 0 11) || bits (w 2) 18 14 != 0 ||
  bits (w 3) 0 14 == 0 || decide (8192 < bits (w 3) 0 14) || bits (w 3) 14 18 != 0 || !([1, 4].contains (bits (w 6) 0 4)) || !([0, 4].contains (bits (w 6) 4 4)) ||
  !([0, 4].contains (bits (w 6) 8 4)) || bits (w 6) 12 14 == 0 || bits (w 6) 26 6 != 0 || !allZero (slice b 28 36)

/-- The padding after the sender, expert and replica entries is not 0. -/
def routePadBad (b : List Byte) : Bool :=
  let o := routeParts b
  !allZero ((b.take o.2.1).drop (64 + 4 * (bits (wordAt b 2) 11 7 + 1))) || !allZero ((b.take o.2.2.1).drop (o.2.1 + 8 * bits (wordAt b 2) 0 11)) ||
  !allZero ((b.take (alignUp o.2.2.2 64)).drop o.2.2.2)

/-- A table's lists break a rule; `b` is the whole descriptor. -/
def routeListsBad (s : State) (p : Nat) (b : List Byte) (t : RouteTbl) : Bool :=
  let o := routeParts b
  let at_ (off : Nat) : Nat := leNat (slice b off 4)
  routePadBad b || !sendersRise t.senders || !t.senders.contains (s.fab.coord, p) ||
  (List.range t.senders.length).any (fun i => bits (at_ (o.1 + 4 * i)) 21 11 != 0) ||
  (List.range t.experts.length).any (fun i => bits (at_ (o.2.1 + 8 * i)) 21 11 != 0 || bits (at_ (o.2.1 + 8 * i + 4)) 13 19 != 0) ||
  (List.range t.replicas.length).any (fun i => bits (at_ (o.2.2.1 + 4 * i)) 27 5 != 0) ||
  t.experts.any (fun e => e.2.1 == 0 || decide (128 < e.2.1) || decide (t.replicas.length < e.1 + e.2.1) || e.2.2 == 0 || decide (4096 < e.2.2)) || !distinct t.replicas

/-- Slots of a table's cards that are homed on this module. -/
def homedSlots (s : State) (t : RouteTbl) : Nat :=
  (t.experts.map fun e => (((t.replicas.drop e.1).take e.2.1).filter fun r => r.1 == s.fab.coord).length * e.2.2).sum

/-- Slots of all tables in force or staged but the staged one of (p, x). -/
def slotsElsewhere (s : State) (p x : Nat) : Nat :=
  (s.ptns.flatMap fun e => e.2.xch.exchs.map fun f =>
    (match f.2.cur with | some t => homedSlots s t | none => 0) +
    (if e.1 = p ∧ f.1 = x then 0 else match f.2.staged with | some t => homedSlots s t | none => 0)).sum

/-- An accepted table is staged. -/
def stageRoute (p x : Nat) (t : RouteTbl) : State → State :=
  modExch p x fun e => { e with staged := some t, step := if e.cur.isNone then t.fromStep else e.step }

def routeGo (c : Cmd) (s : State) : State :=
  let a := opd c.ops 4
  let n := opw c.ops 6
  match readDesc s c a 64 with
  | .error st => endCmd c.ring c.idx st 0 s
  | .ok h =>
    let size := (routeParts h).2.2.2
    if routeHeadBad h || decide (n < size) then endCmd c.ring c.idx 2 0 s
    else match readDesc s c a (min n (alignUp size 64)) with
      | .error st => endCmd c.ring c.idx st 0 s
      | .ok b =>
        let t := decRoute b
        let x := bits (wordAt b 1) 16 4
        if routeListsBad s c.ptn b t then endCmd c.ring c.idx 2 0 s
        else if 65536 < slotsElsewhere s c.ptn x + homedSlots s t then endCmd c.ring c.idx 6 0 s
        else endCmd c.ring c.idx 0 t.epoch (stageRoute c.ptn x t s)

/-- ROUTE_SET is a figure command: the context needs CTX_PERMIT.FIGURE_OPS (08 R245). -/
def routeStart (c : Cmd) (s : State) : State :=
  if (getCtx s c.ctx).cur.figOps then routeGo c s else endCmd c.ring c.idx 0x10 0 s

def execRouteSet (e : Entry) (s : State) : Host.Outcome State Fault Refusal := .next (runEntry e 0x18 s routeStart)

/-! ### Steps and tables -/

/-- A step's work at this module is over: its tokens issued, its cards' slots answered. -/
def stepOver (e : Exch) (n : Nat) : Bool := (e.toks.all fun k => k.step != n || k.out) && e.cards.all fun k => k.step != n || (k.closed && decide (k.intake ≤ k.drawn))

/-- The first of the two steps held. -/
def heldBase (e : Exch) : Nat := if 2 ≤ e.step ∧ stepOver e (e.step - 2) = false then e.step - 2 else e.step - 1

/-- The step held that a unit's eight bits name. -/
def heldStep (e : Exch) (k : Nat) : Option Nat := [heldBase e, heldBase e + 1].find? fun n => n % 256 == k

/-- The replica of a candidate (10 R319). -/
def pickReplica (t : RouteTbl) (coord p row pos x expert : Nat) : Option (Nat × Nat × Nat) :=
  match t.experts[expert]? with
  | none => none
  | some r => t.replicas[r.1 + mix (coord * 2 ^ 32 + p * 2 ^ 24 + row * 2 ^ 8 + pos * 2 ^ 4 + x) % max 1 r.2.1]?

def cardCap (t : RouteTbl) (expert : Nat) : Nat := ((t.experts[expert]?).map fun r => r.2.2).getD 1

/-- C of a local card: the capacity of the expert whose replica it is. -/
def localCap (s : State) (p : Nat) (t : RouteTbl) (l : Nat) : Nat :=
  ((t.experts.find? fun e => ((t.replicas.drop e.1).take e.2.1).contains (s.fab.coord, p, l)).map fun e => e.2.2).getD 1

/-- Flits of one token's elements in a format (10 R313). -/
def tokFlits (t : RouteTbl) (fmt : Nat) : Nat := ceilDiv (t.width * (elemBits fmt / 8)) 64

/-- Slots per step that a local card's EXPERT_IN stream carries in the loaded image (10 R318). -/
def cardIntake (s : State) (p x l : Nat) (t : RouteTbl) : Nat :=
  match (getPtn s p).figure with
  | none => 0
  | some f => match f.streams.find? (fun y => y.dstEndpoint && y.endpoint == 0xB000 + 64 * x + l) with
    | some y => y.flits / max 1 (tokFlits t t.actFmt)
    | none => 0

/-- A fault of the exchange unit; its record carries the home die (11 R446). -/
def xchFault (code p index detail : Nat) (s : State) : State := raise (((faultRec s code index detail).withPtn p).withDie (homeDie s p)) s

/-- The flits of bytes, 64 B each. -/
def flitsOf (ctx epoch row pos : Nat) (poison : Bool) (bs : List Byte) : List Flit :=
  (chunks 64 (ceilDiv bs.length 64) bs).map fun b => { data := padTo 64 b, poison := poison, epoch := epoch, ctx := ctx, tag := ⟨row, 0, pos, true⟩ }

/-! ### Combining answers at the sender (10 R320-R322) -/

/-- One answer into the accumulators. -/
def addAnswer (fmt gate : Nat) (acc : List Nat) (ans : List Byte) : List Nat :=
  List.zipWith (fun a y => fadd a (fmul (gate * 65536) (toF32 (ofElem fmt y)))) acc (unpackElems (elemBits fmt) acc.length ans)

/-- The candidates of a token in the order of combination. -/
def combOrder (t : RouteTbl) (k : XTok) : List TokCand := if t.arrival then k.arrived.filterMap fun i => k.cands[i]? else k.cands

/-- A token's combined bytes and poison. -/
def combine (t : RouteTbl) (k : XTok) : List Byte × Bool :=
  let used := (combOrder t k).filter fun c => c.grant.isSome && !c.void && c.answer.isSome
  let acc := used.foldl (fun a c => match c.answer with | some y => addAnswer t.ansFmt c.gate a y.1 | none => a) (List.replicate t.width 0)
  (padTo (64 * tokFlits t t.combFmt) (packElems (elemBits t.combFmt) (acc.map fun v => toElem t.combFmt (ofF32 v))),
   k.poison || used.any fun c => match c.answer with | some y => y.2 | none => false)

/-- A token may be issued: it sent no candidate, or every home has announced its grants and each is answered or void. -/
def tokReady (e : Exch) (t : RouteTbl) (k : XTok) : Bool :=
  k.cands.isEmpty ||
  ((homesOf t).all (fun h => e.sends.any fun c => c.step == k.step && c.home == h.1 && c.ptn == h.2 && c.ended.isSome) &&
   k.cands.all fun c => c.grant.isNone || c.void || c.answer.isSome)

/-- Tokens are issued on COMBINE_OUT in row and position order as far as they are ready. -/
def issueToks (p x : Nat) : Nat → State → State
  | 0, s => s
  | n + 1, s =>
    let e := getExch s p x
    match e.toks.find? fun k => !k.out with
    | none => s
    | some k =>
      match tableFor e k.step with
      | none => s
      | some t =>
        if !tokReady e t k then s
        else
          let y := combine t k
          let ctx := (getBatch s p k.batch).ctx
          let fl := flitsOf (match (getPtn s p).fe.run with | some r => r.ctx | none => ctx) (getPtn s p).fig.epoch k.row k.pos y.2 y.1
          let s := modExch p x (fun e => { e with comb := e.comb ++ fl, toks := lmodFirst (fun j => !j.out) (fun j => { j with out := true }) e.toks }) s
          let s := if k.live && !k.poison && k.cands.all (fun c => c.grant.isNone || c.void) then modXch p (fun y => { y with ungranted := satAdd 32 y.ungranted 1 }) s else s
          issueToks p x n s

def issueAll (p x : Nat) (s : State) : State := issueToks p x (getExch s p x).toks.length s

/-! ### The exchange step at its sender (10 R316, R319, R322, R323) -/

/-- The candidate list of a token from its score flits: entries without an expert, NaN and −infinity dropped. -/
def tokCands (t : RouteTbl) (coord p row pos x : Nat) (b : List Byte) : List (TokCand × Nat) :=
  (List.range 16).filterMap fun i =>
    let ex := leNat (slice b (2 * i) 2)
    let sc := leNat (slice b (32 + 4 * i) 4)
    if ex = 0xFFFF ∨ fisNan sc = true ∨ sc = 0xFF800000 ∨ t.experts.length ≤ ex then none
    else some ({ expert := ex, gate := leNat (slice b (96 + 2 * i) 2), replica := pickReplica t coord p row pos x ex, grant := none, void := false, answer := none }, sc)

/-- The tokens of the flits that DISPATCH_SCORES and DISPATCH_ACT have received, with their candidates' scores. -/
def tokensOf (s : State) (p x n : Nat) (t : RouteTbl) (r : Running) (e : Exch) : List (XTok × List Nat) :=
  let a := tokFlits t t.actFmt
  (List.range (e.scoreIn.length / 2)).filterMap fun i =>
    match (e.scoreIn.drop (2 * i)).head? with
    | none => none
    | some f =>
      let sc := flitBytes ((e.scoreIn.drop (2 * i)).take 2)
      let ac := flitBytes ((e.actIn.drop (a * i)).take a)
      let cs := if sc.2 || !f.tag.live then [] else tokCands t s.fab.coord p f.tag.row f.tag.pos x sc.1
      some ({ step := n, batch := r.batch, gen := (getBatch s p r.batch).gen, row := f.tag.row, pos := f.tag.pos, live := f.tag.live, act := ac.1,
              poison := sc.2 && f.tag.live, actBad := ac.2, cands := cs.map (·.1), arrived := [], out := false }, cs.map (·.2))

/-- Pages that the exchange buffer needs (10 R323). -/
def xchPages (s : State) (p x rows : Nat) (t : RouteTbl) : Nat :=
  let A := t.width * (elemBits t.actFmt / 8)
  let M := if t.arrival then 4 * t.width else 16 * (t.width * (elemBits t.ansFmt / 8))
  let cards := (t.replicas.filter fun r => r.1 == s.fab.coord && r.2.1 == p).map fun r => cardIntake s p x r.2.2 t * A
  ceilDiv (2 * (rows * (A + M) + cards.sum)) pageBytes

/-- Pages from the exchange buffer's start that lie in T0 objects which a context may read and write, of those that FAB_XCH_BUF_PAGES
names (07 R206; 10 R323; log 41). -/
def bufferPages (s : State) (p c : Nat) : Nat :=
  let x := (getPtn s p).xch
  ((List.range x.bufPages).takeWhile fun k =>
    let a := (x.bufAddr / pageBytes + k) * pageBytes
    (accessFault s p c a false).isNone && (accessFault s p c a true).isNone &&
    (match objAt s p a with | some (o, y) => (getPage s p (pageKey o ((a - y.base) / pageBytes))).t0.isSome | none => false)).length

/-- Row-positions that a round of the running command may carry. -/
def roundPositions (s : State) (p : Nat) (r : Running) (seen : Nat) : Nat :=
  let b := getBatch s p r.batch
  if r.opcode = 0x21 then
    match b.step with
    | some st => b.desc.perRound * (if st.passNo = 0 then b.desc.maxDraft + 1 else 1)
    | none => seen
  else seen

/-- SCOREs of a token, one per candidate. -/
def scoresOf (s : State) (p x : Nat) (t : RouteTbl) (k : XTok) (scs : List Nat) : List (Nat × Nat × XUnit) :=
  (k.cands.zip scs).filterMap fun c => c.1.replica.map fun r =>
    (r.1, 1, { bareUnit s x k.step t.epoch k.gen k.batch p r.2.1 with row := k.row, pos := k.pos, expert := c.1.expert, value := BitVec.ofNat 32 c.2 })

/-- ENDs to every home, with the SCOREs sent to it. -/
def endsOf (s : State) (p x n : Nat) (t : RouteTbl) (r : Running) (ks : List XTok) : List (Nat × Nat × XUnit) :=
  (homesOf t).map fun h =>
    let m := (ks.map fun k => (k.cands.filter fun c => match c.replica with | some q => (q.1, q.2.1) == h | none => false).length).sum
    (h.1, 2, { bareUnit s x n t.epoch (getBatch s p r.batch).gen r.batch p h.2 with value := BitVec.ofNat 32 m })

/-- A step's tables come into force, and what older steps left is dropped. -/
def beginXStep (p x n : Nat) : State → State :=
  modExch p x fun e =>
    let keep (k : Nat) : Bool := decide (n ≤ k + 1)
    let e := match e.staged.filter (fun t => decide (t.fromStep ≤ n)) with
      | some t => { e with prev := e.cur, cur := some t, staged := none }
      | none => e
    { e with step := n + 1, toks := e.toks.filter fun k => keep k.step, cards := e.cards.filter fun k => keep k.step,
             counts := e.counts.filter fun k => keep k.step, sends := e.sends.filter fun k => keep k.step }

/-- Exchange `x` of a partition starts its next step for the running command, with the tokens whose flits have arrived. -/
def startXStep (p x : Nat) (s : State) : State :=
  match (getPtn s p).fe.run with
  | none => s
  | some r =>
    let e := getExch s p x
    let n := e.step
    match tableFor e n with
    | none => raise ((((faultRec s 0x0708 r.idx x).withCtx s r.ctx).withRing r.ring).withDie (homeDie s p)) s
    | some t =>
      let ks := tokensOf s p x n t r e
      let need := xchPages s p x (roundPositions s p r ks.length) t
      if bufferPages s p r.ctx < need then raise ((((faultRec s 0x0707 r.idx need).withCtx s r.ctx).withRing r.ring).withDie (homeDie s p)) s
      else
        let le (a b : XTok × List Nat) : Bool := decide (a.1.row < b.1.row) || (a.1.row == b.1.row && decide (a.1.pos ≤ b.1.pos))
        let ks := sortBy le ks
        let s := beginXStep p x n s
        let s := modExch p x (fun e => { e with toks := e.toks ++ ks.map (·.1), scoreIn := [], actIn := [] }) s
        issueAll p x (sendUnits (some r.ctx) ((ks.flatMap fun k => scoresOf s p x t k.1 k.2) ++ endsOf s p x n t r (ks.map (·.1))) s)

/-- The exchange unit of a partition's home die takes no work while it is in reset (11 R340). -/
def xchStopped (s : State) (p : Nat) : Bool := engStopped s (.exchange (dieId (homeDie s p)))

/-- The flits of whole tokens have arrived, and the step two before is over. -/
def xStepDue (s : State) (p x : Nat) : Bool :=
  let e := getExch s p x
  !xchStopped s p && !e.scoreIn.isEmpty && e.scoreIn.length % 2 == 0 && (heldBase e + 1 == e.step || e.step == 0) &&
  (match tableFor e e.step with | some t => e.actIn.length == e.scoreIn.length / 2 * tokFlits t t.actFmt | none => true)

/-! ### Cards at their home (10 R316-R318) -/

/-- The total order of R317. -/
def candBefore (a b : Cand) : Bool :=
  if flt b.score.toNat a.score.toNat then true else if flt a.score.toNat b.score.toNat then false
  else if a.src ≠ b.src then decide (a.src < b.src) else if a.ptn ≠ b.ptn then decide (a.ptn < b.ptn)
  else if a.row ≠ b.row then decide (a.row < b.row) else decide (a.pos ≤ b.pos)

def isCard (n l : Nat) (k : Card) : Bool := k.step == n && k.card == l

/-- A card of the step exists. -/
def needCard (n l cap intake : Nat) (e : Exch) : Exch :=
  if e.cards.any (isCard n l) then e else { e with cards := e.cards ++ [{ step := n, card := l, cap := cap, intake := intake, cands := [], closed := false, fed := 0, drawn := 0 }] }

/-- A candidate is ranked into a card, which keeps its C best. -/
def rankCand (n l : Nat) (c : Cand) (e : Exch) : Exch :=
  { e with cards := lmodFirst (isCard n l) (fun k => { k with cands := (insertBy candBefore c k.cands).take k.cap }) e.cards }

/-- The counts of one sender for one step. -/
def countOf (e : Exch) (n src ptn : Nat) : HomeCount :=
  (e.counts.find? fun c => c.step == n && c.src == src && c.ptn == ptn).getD ⟨n, src, ptn, 0, none, 0, 0, false⟩

def putCount (c : HomeCount) (e : Exch) : Exch :=
  { e with counts := c :: e.counts.filter fun d => !(d.step == c.step && d.src == c.src && d.ptn == c.ptn) }

/-- Slots that a closed card can deliver now, in slot order: an activation that arrived, or padding. -/
def feedCard (s : State) (p : Nat) (t : RouteTbl) : Nat → Card → List (Nat × Flit) → Card × List (Nat × Flit)
  | 0, k, l => (k, l)
  | n + 1, k, l =>
    if k.intake ≤ k.fed then (k, l)
    else
      let ctx := match (getPtn s p).fe.run with | some r => r.ctx | none => 0
      let give (bs : List Byte) (bad : Bool) : List (Nat × Flit) := (flitsOf ctx (getPtn s p).fig.epoch k.fed 0 bad (padTo (64 * tokFlits t t.actFmt) bs)).map fun f => (k.card, f)
      match (granted k)[k.fed]? with
      | none => feedCard s p t n { k with fed := k.fed + 1 } (l ++ give [] false)
      | some c =>
        if c.gone then feedCard s p t n { k with fed := k.fed + 1 } (l ++ give [] false)
        else match c.data with
          | some d => feedCard s p t n { k with fed := k.fed + 1 } (l ++ give d.1 d.2)
          | none => (k, l)

/-- Every closed card delivers what it can on EXPERT_IN. -/
def feedCards (p x : Nat) (s : State) : State :=
  (getExch s p x).cards.foldl (fun s k =>
    match tableFor (getExch s p x) k.step with
    | none => s
    | some t =>
      if k.closed then
        let y := feedCard s p t (k.intake + 1) k []
        modExch p x (fun e => { e with cards := lmodFirst (isCard k.step k.card) (fun _ => y.1) e.cards, expertIn := e.expertIn ++ y.2 }) s
      else s) s

/-- A card closes: one whose C exceeds its intake is cut to it, the cut raised once and the candidates refused counted (10 R318). -/
def closeCard (p x n l : Nat) (s : State) : State :=
  match (getExch s p x).cards.find? (isCard n l) with
  | none => s
  | some k =>
    let cut := k.cands.length - k.intake
    let s := modExch p x (fun e => { e with cards := lmodFirst (isCard n l) (fun k => { k with cap := min k.cap k.intake, closed := true, cands := k.cands.take k.intake }) e.cards }) s
    if k.cap ≤ k.intake then s
    else xchFault 0x0704 p (pack [(0, 4, x), (4, 6, l)]) cut (modXch p (fun y => { y with cardCut := satAdd 32 y.cardCut cut }) s)

/-- GRANTs of a closed card in slot order. -/
def grantsOf (s : State) (p x n l : Nat) (t : RouteTbl) : List (Nat × Nat × XUnit) :=
  match (getExch s p x).cards.find? (isCard n l) with
  | none => []
  | some k => (((List.range k.cap).zip (granted k)).filter fun e => !e.2.gone).map fun e =>
      (e.2.src, 3, { bareUnit s x n t.epoch e.2.gen e.2.batch p e.2.ptn with row := e.2.row, pos := e.2.pos, expert := e.2.expert, value := BitVec.ofNat 32 e.1 })

/-- GRANT_ENDs to every sender, each with its grants and the batch and generation it sent. -/
def grantEndsOf (s : State) (p x n : Nat) (t : RouteTbl) : List (Nat × Nat × XUnit) :=
  let e := getExch s p x
  t.senders.map fun d =>
    let mine := (e.cards.filter fun k => k.step == n).flatMap fun k => (granted k).filter fun c => c.src == d.1 && c.ptn == d.2 && !c.gone
    let c := countOf e n d.1 d.2
    (d.1, 4, { bareUnit s x n t.epoch c.gen c.batch p d.2 with value := BitVec.ofNat 32 mine.length })

/-- The step's cards close once every sender has ended or is gone. -/
def tryClose (p x n : Nat) (t : RouteTbl) (s : State) : State :=
  let e := getExch s p x
  let all := t.senders.all fun d => let c := countOf e n d.1 d.2; c.ended.isSome || c.gone
  if !all || (e.cards.any fun k => k.step == n && k.closed) then s
  else
    let ls := naddAll ((t.replicas.filter fun r => r.1 == s.fab.coord && r.2.1 == p).map fun r => r.2.2) []
    let s := ls.foldl (fun s l => modExch p x (needCard n l (localCap s p t l) (cardIntake s p x l t)) s) s
    let s := ls.foldl (fun s l => closeCard p x n l s) s
    feedCards p x (sendUnits (homeOwner s p) (ls.flatMap (fun l => grantsOf s p x n l t) ++ grantEndsOf s p x n t) s)

/-- Answers of the slots of a card, taken from EXPERT_OUT: ANSWER units for filled slots, padding discarded (10 R316 step 7). -/
def drawAnswers (p x : Nat) : Nat → State → State
  | 0, s => s
  | n + 1, s =>
    let e := getExch s p x
    let due := e.cards.find? fun k => k.closed && decide (k.drawn < k.intake) &&
      (match tableFor e k.step with | some t => decide (tokFlits t t.ansFmt ≤ (e.expertOut.filter fun f => f.1 == k.card).length) | none => false) &&
      e.cards.all (fun j => j.card != k.card || decide (k.step ≤ j.step) || decide (j.intake ≤ j.drawn))
    match due with
    | none => s
    | some k =>
      match tableFor e k.step with
      | none => s
      | some t =>
        let m := tokFlits t t.ansFmt
        let mine := (e.expertOut.filter fun f => f.1 == k.card).take m
        let y := flitBytes (mine.map (·.2))
        let rest := mine.foldl (fun l f => ldelFirst (fun g => decide (g = f)) l) e.expertOut
        let s := modExch p x (fun e => { e with expertOut := rest, cards := lmodFirst (isCard k.step k.card) (fun k => { k with drawn := k.drawn + 1 }) e.cards }) s
        let s := match (granted k)[k.drawn]? with
          | some c => if c.gone then s else
              sendUnits (homeOwner s p) [(c.src, 6, { bareUnit s x k.step t.epoch c.gen c.batch p c.ptn with row := c.row, pos := c.pos, expert := c.expert, value := BitVec.ofNat 32 k.drawn, data := y.1, poison := y.2 })] s
          | none => s
        drawAnswers p x n s

/-! ### Units (10 R316, R324, R325) -/

/-- A unit whose EPOCH and STEP are held goes on with its step and table; another is discarded with XCH_SEQUENCE. -/
def onUnit (kind : Nat) (u : XUnit) (go : Nat → Nat → Nat → RouteTbl → State → State) (s : State) : State :=
  let p := u.dstPtn
  let x := u.exch % 16
  if !isReady s || !(getPtn s p).exists_ then s
  else
    let e := getExch s p x
    match heldStep e (u.step % 256) with
    | none => xchFault 0x0705 p x (unitWord0 kind u) s
    | some n =>
      match tableFor e n with
      | none => xchFault 0x0705 p x (unitWord0 kind u) s
      | some t => if t.epoch = u.epoch then go p x n t s else xchFault 0x0705 p x (unitWord0 kind u) s

/-- A unit of a sender's cancelled generation is dropped at the home. -/
def cancelled (s : State) (p x n : Nat) (u : XUnit) : Bool := let c := countOf (getExch s p x) n u.src u.srcPtn; c.gone && c.gen == u.generation

/-- A response of an old generation is dropped and counted at the sender. -/
def ifCurrent (u : XUnit) (p : Nat) (go : State → State) (s : State) : State :=
  if (getBatch s p (u.batch % 64)).gen = u.generation then go s else modXch p (fun y => { y with stale := satAdd 32 y.stale 1 }) s

/-- The card of this home that a unit's candidate lies on. -/
def unitCard (s : State) (p x : Nat) (t : RouteTbl) (u : XUnit) : Option Nat :=
  match pickReplica t u.src u.srcPtn u.row u.pos x u.expert with
  | some r => if r.1 = s.fab.coord ∧ r.2.1 = p then some r.2.2 else none
  | none => none

def scoreUnit (u : XUnit) (p x n : Nat) (t : RouteTbl) (s : State) : State :=
  if cancelled s p x n u then s
  else match unitCard s p x t u with
    | none => s
    | some l =>
      let c : Cand := { score := u.value, src := u.src, ptn := u.srcPtn, row := u.row, pos := u.pos, expert := u.expert, gen := u.generation, batch := u.batch, data := none, gone := false }
      let k := countOf (getExch s p x) n u.src u.srcPtn
      let intake := cardIntake s p x l t
      modExch p x (fun e => rankCand n l c (needCard n l (cardCap t u.expert) intake (putCount { k with scores := k.scores + 1, gen := u.generation, batch := u.batch } e))) s

def endUnit (u : XUnit) (p x n : Nat) (t : RouteTbl) (s : State) : State :=
  if cancelled s p x n u then s
  else
    let k := countOf (getExch s p x) n u.src u.srcPtn
    if k.scores = u.value.toNat then tryClose p x n t (modExch p x (putCount { k with ended := some k.scores, gen := u.generation, batch := u.batch }) s)
    else xchFault 0x0706 p x u.value.toNat s

/-- The token and candidate that a response names. -/
def sameTok (n : Nat) (u : XUnit) (k : XTok) : Bool := k.step == n && k.batch == u.batch && k.gen == u.generation && k.row == u.row && k.pos == u.pos
def candFrom (u : XUnit) (c : TokCand) : Bool := c.expert == u.expert && (match c.replica with | some r => r.1 == u.src && r.2.1 == u.srcPtn | none => false)

def sendCountOf (e : Exch) (n home ptn : Nat) : SendCount := (e.sends.find? fun c => c.step == n && c.home == home && c.ptn == ptn).getD ⟨n, home, ptn, 0, none⟩
def putSend (c : SendCount) (e : Exch) : Exch := { e with sends := c :: e.sends.filter fun d => !(d.step == c.step && d.home == c.home && d.ptn == c.ptn) }

def grantUnit (u : XUnit) (p x n : Nat) (t : RouteTbl) (s : State) : State :=
  ifCurrent u p (fun s =>
    let e := getExch s p x
    let k := sendCountOf e n u.src u.srcPtn
    let s := modExch p x (fun e => putSend { k with grants := k.grants + 1 } { e with toks := lmodFirst (sameTok n u) (fun k => { k with cands := lmodFirst (candFrom u) (fun c => { c with grant := some u.value.toNat }) k.cands }) e.toks }) s
    match e.toks.find? (sameTok n u) with
    | none => s
    | some k => sendUnits (some (getBatch s p u.batch).ctx) [(u.src, 5, { bareUnit s x n t.epoch u.generation u.batch p u.srcPtn with
        row := u.row, pos := u.pos, expert := u.expert, value := u.value, data := k.act, poison := k.actBad })] s) s

def grantEndUnit (u : XUnit) (p x n : Nat) (_t : RouteTbl) (s : State) : State :=
  ifCurrent u p (fun s =>
    let k := sendCountOf (getExch s p x) n u.src u.srcPtn
    if k.grants = u.value.toNat then issueAll p x (modExch p x (putSend { k with ended := some k.grants }) s) else xchFault 0x0706 p x u.value.toNat s) s

def actUnit (u : XUnit) (p x n : Nat) (t : RouteTbl) (s : State) : State :=
  if cancelled s p x n u then s
  else match unitCard s p x t u with
    | none => s
    | some l =>
      let mine (c : Cand) : Bool := c.src == u.src && c.ptn == u.srcPtn && c.row == u.row && c.pos == u.pos && c.expert == u.expert
      feedCards p x (modExch p x (fun e => { e with cards := lmodFirst (isCard n l) (fun k => { k with cands := lmodFirst mine (fun c => { c with data := some (u.data, u.poison) }) k.cands }) e.cards }) s)

def answerUnit (u : XUnit) (p x n : Nat) (_t : RouteTbl) (s : State) : State :=
  ifCurrent u p (fun s =>
    issueAll p x (modExch p x (fun e => { e with toks := lmodFirst (sameTok n u) (fun k =>
      match lpos (candFrom u) k.cands with
      | none => k
      | some i => if (k.cands[i]?.map fun c => c.void || c.grant.isNone).getD true then k else
          { k with cands := lmodFirst (candFrom u) (fun c => { c with answer := some (u.data, u.poison) }) k.cands, arrived := k.arrived ++ [i] }) e.toks }) s)) s

def cancelUnit (u : XUnit) (p x n : Nat) (t : RouteTbl) (s : State) : State :=
  let k := countOf (getExch s p x) n u.src u.srcPtn
  let s := modExch p x (fun e => putCount { k with gone := true, gen := u.generation, batch := u.batch } { e with cards := e.cards.map fun k =>
    if k.step = n then { k with cands := k.cands.map fun c => if c.src = u.src ∧ c.ptn = u.srcPtn ∧ c.batch = u.batch ∧ c.gen = u.generation then { c with gone := true } else c } else k }) s
  feedCards p x (tryClose p x n t s)

/-- Grants of a home on a token that a VOID takes back. -/
def voidable (u : XUnit) (c : TokCand) : Bool := (match c.replica with | some r => r.1 == u.src && r.2.1 == u.srcPtn | none => false) && c.grant.isSome && !c.void

def voidUnit (u : XUnit) (p x n : Nat) (_t : RouteTbl) (s : State) : State :=
  ifCurrent u p (fun s =>
    let hit (k : XTok) : Bool := k.step == n && k.batch == u.batch && k.gen == u.generation && !k.out && k.cands.any (voidable u)
    let ks := (getExch s p x).toks.filter hit
    let m := (ks.map fun k => (k.cands.filter (voidable u)).length).sum
    let s := modXch p (fun y => { y with voided := satAdd 32 y.voided m }) s
    let s := modExch p x (fun e => { e with toks := lmodAll hit (fun k => { k with cands := lmodAll (voidable u) (fun c => { c with void := true }) k.cands }) e.toks }) s
    let s := modBatch p (u.batch % 64) (fun b => { b with step := b.step.map fun st => { st with fallback := naddAll (ks.map fun k => k.row) st.fallback } }) s
    issueAll p x s) s

/-- A dispatch unit of a KIND arrives. -/
def handleUnit (kind : Nat) (u : XUnit) (s : State) : State :=
  match kind with
  | 1 => onUnit 1 u (scoreUnit u) s
  | 2 => onUnit 2 u (endUnit u) s
  | 3 => onUnit 3 u (grantUnit u) s
  | 4 => onUnit 4 u (grantEndUnit u) s
  | 5 => onUnit 5 u (actUnit u) s
  | 6 => onUnit 6 u (answerUnit u) s
  | 7 => onUnit 7 u (cancelUnit u) s
  | 8 => onUnit 8 u (voidUnit u) s
  | _ => s

end Sys2Proof.Machine
end

