-- ==== Sys2Proof/Machine/Fabric.lean ====
section
/-! DEFINITION. Fabric ports, received frames, notices, channels, and units that arrive (10 R297-R312, R316, R324). -/
namespace Sys2Proof.Machine

/-! ### Ports (10 R304) -/

def portCtlOff (n : Nat) : Nat := 0x01000100 + 4 * n

/-! ### Counting and channels' places -/

/-- A packet that the link discards is counted in FAB_PORT_ERR (10 R302; log 28). -/
def badPacket (n : Nat) : State → State := modPort n fun x =>
  { x with discards := satAdd 32 x.discards 1, replays := if Config.discardsLow then satAdd 16 x.replays 1 else x.replays,
           trainFails := if Config.discardsLow then x.trainFails else satAdd 16 x.trainFails 1 }

/-- Receive channels of a figure with the flits that their consumer's stream buffer holds (10 R311). -/
def rxConsumers (f : Figure) : List (Nat × Nat) :=
  ((List.range f.streams.length).zip f.streams).filterMap fun e =>
    if e.2.dstEndpoint && decide (0x9000 ≤ e.2.endpoint) && decide (e.2.endpoint < 0xA000) then
      some (e.2.endpoint - 0x9000, (((streamEnds f e.1 e.2).getD []).map fun t => (((patternOf f (inputPat (coreStep f t.1 t.2.1) t.2.2)).map fun q => q.bufLines)).getD 0).foldl max 0)
    else none

/-- A port leaves for OFF: its transmitters are off and the link holds nothing; its counters and ENABLE stay. -/
def portOff (n : Nat) (s : State) : State :=
  let x := getPort s n
  modPort n (fun _ => { ({} : Port) with enable := x.enable, replays := x.replays, trainFails := x.trainFails, discards := x.discards }) (setPort n .off s)

/-- FAB_PORT_CTL.ENABLE. -/
def writeEnable (n : Nat) (on : Bool) (s : State) : State :=
  let s := modPort n (fun x => { x with enable := on }) s
  let x := getPort s n
  if on then (if decide (x.st = .off) && s.fab.valid then setPort n .detect s else s)
  else if x.st = .fenced ∨ x.st = .failed then portOff n s
  else s

def execPortEnable (fn : FnId) (n : PortId) (on : Bool) (s : State) : Host.Outcome State Fault Refusal :=
  .next (hostAccess fn.val (portCtlOff n.val) (fn.val == 0) false (writeEnable n.val on) s)

/-- FAB_PORT_CTL.RETRAIN. -/
def writeRetrain (n : Nat) (s : State) : State := if (getPort s n).st = .active then reroute (setPort n .retrain s) else s

def execRetrain (fn : FnId) (n : PortId) (s : State) : Host.Outcome State Fault Refusal :=
  .next (hostAccess fn.val (portCtlOff n.val) (fn.val == 0) false (writeRetrain n.val) s)

def execSignalDetect (n : PortId) (s : State) : Host.Outcome State Fault Refusal :=
  .next (let x := getPort s n.val
    if x.st = .detect then setPort n.val .equalise s
    else if decide (x.st = .fenced) && x.byPeer && x.enable then setPort n.val .detect s
    else s)

def execEqualiseDone (n : PortId) (reversed : Bool) (s : State) : Host.Outcome State Fault Refusal :=
  .next (if (getPort s n.val).st = .equalise then modPort n.val (fun x => { x with reversed := reversed }) (setPort n.val .align s) else s)

/-- A failed attempt to train is counted and the port detects again. -/
def trainFail (n : Nat) (s : State) : State := setPort n .detect (modPort n (fun x => { x with trainFails := satAdd 16 x.trainFails 1 }) s)

def execEqualiseTimeout (n : PortId) (s : State) : Host.Outcome State Fault Refusal :=
  .next (if (getPort s n.val).st = .equalise then trainFail n.val s else s)

def execAlignDone (n : PortId) (s : State) : Host.Outcome State Fault Refusal :=
  .next (if (getPort s n.val).st = .align then setPort n.val .exchange s else s)

def execAlignTimeout (n : PortId) (s : State) : Host.Outcome State Fault Refusal :=
  .next (if (getPort s n.val).st = .align then trainFail n.val s else s)

/-! ### Lost and returned peers (10 R305, R306) -/

/-- A notice goes out on every other ACTIVE port. -/
def sendNotice (type coord from_ : Nat) (s : State) : State :=
  ((activePorts s).filter fun n => n != from_).foldl (fun s n => sendPacket n ⟨linkPacket s type coord, none⟩ s) s

/-- Packets waiting for a lost coordinate are discarded and counted (10 R305 step 4). -/
def dropLost (coord : Nat) (s : State) : State :=
  let gone (j : Sending) : Bool := routed j.pkt && j.pkt.dest == coord
  let s := modFab (fun f => { f with drops := f.drops + (f.wait.filter gone).length, wait := f.wait.filter fun j => !gone j }) s
  (List.range 18).foldl (fun s n =>
    let m := ((getPort s n).txq.filter gone).length
    dropPackets m (modPort n (fun x => { x with txq := x.txq.filter fun j => !gone j }) s)) s

/-- Contexts of a partition's spanning of a coordinate, ascending. -/
def spanning (s : State) (coord : Nat) : List Nat := (livePtns s).flatMap fun p => if spansPtn s p coord then ctxsOf s p else []

/-- A peer is lost: recorded, announced, its spanning contexts reset, its packets discarded. -/
def peerLost (coord from_ : Nat) (s : State) : State :=
  if nhas s.fab.noted coord ∨ coord = s.fab.coord then s
  else
    let s := modFab (fun f => { f with lostLast := coord, lostCount := satAdd 16 f.lostCount 1, lostSet := nadd coord f.lostSet, noted := nadd coord f.noted }) s
    let s := pulse srcPeerLost (sendNotice 3 coord from_ s)
    dropLost coord ((spanning s coord).foldl (fun s c => raiseCtx 0x0703 c 0 coord s) s)

/-- A coordinate leaves the lost set, and its return is announced. -/
def peerBack (coord from_ : Nat) (s : State) : State :=
  if nhas s.fab.lostSet coord then
    sendNotice 5 coord from_ (modFab (fun f => { f with lostSet := ndel coord f.lostSet, noted := ndel coord f.noted }) s)
  else s

/-- LINK_CONFIG: the port fails (10 R304). -/
def linkConfig (n coord : Nat) (s : State) : State := raise { faultRec s 0x0701 n coord with scope := 4 } (setPort n .failed s)

def execExchangeDone (n : PortId) (peerCoord peerPort : Nat) (peerValid : Bool) (peerBuffers : List Nat) (s : State) : Host.Outcome State Fault Refusal :=
  .next (if (getPort s n.val).st = .exchange then
      let s := modPort n.val (fun x => { x with peerCoord := peerCoord % 65536, peerPort := peerPort % 32 }) s
      if !peerValid || peerCoord % 65536 == s.fab.coord then linkConfig n.val (peerCoord % 65536) s
      else
        let s := modPort n.val (fun x => { x with credits := (List.range 4).map fun v => peerBuffers.getD v 0, freed := [], txSeq := 0, rxAck := 0, expect := 1,
                                                   nak := false, ackDue := false, held := [], partial_ := [], rr := 0,
                                                   rxq := x.rxq.map fun h => { h with places := 0 } }) s
        drainPort n.val (getPort s n.val).txq.length (reroute (peerBack (peerCoord % 65536) n.val (setPort n.val .active s)))
    else s)

def execSignalLoss (n : PortId) (s : State) : Host.Outcome State Fault Refusal :=
  .next (writeRetrain n.val s)

/-- The held frames go again, in order, each as it went first but for the acknowledgement (10 R300, R304). -/
def resendHeld (n : Nat) (s : State) : State := (getPort s n).held.foldl (fun s h => putFrame n h.seq h.slots h.credits s) s

/-- The held frames are replayed and no flit is lost. -/
def execRetrainDone (n : PortId) (s : State) : Host.Outcome State Fault Refusal :=
  .next (if (getPort s n.val).st = .retrain then
      let s := resendHeld n.val (modPort n.val (fun x => { x with held := x.held.map fun h => { h with tries := 0 } }) (setPort n.val .active s))
      drainPort n.val (getPort s n.val).txq.length (reroute s)
    else s)

/-- LINK_DOWN: the port fails, frames held for retry are lost, and each context with a flit in them is reset; without another
port to it the peer is lost (10 R305, R308; log 27). -/
def linkDown (n : Nat) (s : State) : State :=
  let x := getPort s n
  let cs := naddAll (x.held.flatMap fun h => h.owners) []
  let s := reroute (modPort n (fun x => { x with held := [], partial_ := [] }) (setPort n .failed s))
  let r := { faultRec s 0x0702 n x.held.length with scope := 4 }
  let s := if cs.isEmpty then raise r s else cs.foldl (fun s c => raise (r.withCtx s c) s) s
  if (List.range 18).any fun m => let y := getPort s m; (decide (y.st = .active) || decide (y.st = .retrain)) && y.peerCoord == x.peerCoord then s
  else peerLost x.peerCoord n s

def execRetrainTimeout (n : PortId) (s : State) : Host.Outcome State Fault Refusal :=
  .next (if (getPort s n.val).st = .retrain then linkDown n.val s else s)

/-- A leaving packet: the port is fenced by its peer, which is lost. -/
def peerLeaves (n : Nat) (s : State) : State :=
  if (getPort s n).st = .active then
    let c := (getPort s n).peerCoord
    reroute (peerLost c n (modPort n (fun x => { x with byPeer := true, txq := x.txq.filter fun j => routed j.pkt, held := [], partial_ := [] }) (setPort n .fenced s)))
  else s

def execLeavingPacket (n : PortId) (s : State) : Host.Outcome State Fault Refusal := .next (peerLeaves n.val s)

def execLostNotice (n : PortId) (coord : Nat) (s : State) : Host.Outcome State Fault Refusal :=
  .next (if (getPort s n.val).st = .active then peerLost (coord % 65536) n.val s else s)

def execReturnNotice (n : PortId) (coord : Nat) (s : State) : Host.Outcome State Fault Refusal :=
  .next (if (getPort s n.val).st = .active then peerBack (coord % 65536) n.val s else s)

/-! ### Channels (10 R309-R311) -/

def getChan (s : State) (c : Nat) : Chan := tget {} s.fab.chans c
def modChan (c : Nat) (g : Chan → Chan) : State → State := modFab fun f => { f with chans := tmod {} c g f.chans }

/-- The ports of a multicast group, and whether it is delivered here (10 R309). -/
def groupPorts (s : State) (g : Nat) : List Nat := maskBits (bits (tget 0 s.fab.mcast g) 0 18) 18
def groupHere (s : State) (g : Nat) : Bool := bit (tget 0 s.fab.mcast g) 18

/-- A receive channel takes a packet's flits only from its SRC (10 R311). -/
def rxTakes (s : State) (k : Packet) : Bool := let w := tget 0 s.fab.rx k.channel; bit w 16 && bits w 0 16 == k.src

/-- A multicast packet finds room here: its channel holds at most its consumer's stream buffer (10 R309; log 28). -/
def rxRoom (s : State) (k : Packet) : Bool :=
  match ((getPtn s (bits (tget 0 s.fab.rx k.channel) 17 5)).figure.map rxConsumers).getD [] |>.find? fun e => e.1 == k.channel with
  | some e => !rxTakes s k || decide ((getChan s k.channel).rxq.length + k.flits.length ≤ e.2)
  | none => true

/-- Credits of a receive channel go back to a source (10 R311). -/
def creditPacket (s : State) (src c k : Nat) : Packet :=
  { dest := src, mcast := false, vl := 0, src := s.fab.coord, type := 2, channel := c, epoch := 0, ctx := 0, body := [BitVec.ofNat 32 k], flits := [] }

def returnCredits (c k : Nat) (s : State) : State :=
  let src := bits (tget 0 s.fab.rx c) 0 16
  if k = 0 then s else sendTo src ⟨creditPacket s src c k, none⟩ s

/-- A stream packet reaches its receive channel; one from another coordinate than SRC is discarded, counted, and its credits returned. -/
def deliverChannel (k : Packet) (s : State) : State :=
  if rxTakes s k then modChan k.channel (fun x => { x with rxq := x.rxq ++ k.flits.map fun f => { f with epoch := k.epoch, ctx := k.ctx } }) s
  else
    let s := modChan k.channel (fun x => { x with drops := satAdd 32 x.drops 1 }) s
    if k.mcast || k.flits.isEmpty then s else sendTo k.src ⟨creditPacket s k.src k.channel k.flits.length, none⟩ s

/-- The packet of the first flits of a send channel's queue, which share epoch and context: at most 32 beside the head. -/
def channelPacketOf (s : State) (c n : Nat) (f : Flit) (fs : List Flit) : Packet :=
  let w := tget 0 s.fab.tx0 c
  { dest := bits w 0 16, mcast := bit w 16, vl := 3, src := s.fab.coord, type := 0, channel := bits (tget 0 s.fab.tx1 c) 0 12, epoch := f.epoch, ctx := f.ctx, body := [],
    flits := (fs.takeWhile fun g => g.epoch == f.epoch && g.ctx == f.ctx).take (min n 32) }

/-- A multicast packet can leave now on every port of its group, and be taken here where the group names this module. -/
def groupOpen (s : State) (k : Packet) : Bool :=
  (groupPorts s (k.dest % 256)).all (fun n => canSend s n k && laneFree s n 3) && (!groupHere s (k.dest % 256) || rxRoom s k)

/-- A multicast packet of this module enters its group's tree. -/
def sendGroup (k : Packet) (s : State) : State :=
  let s := (groupPorts s (k.dest % 256)).foldl (fun s n => sendPacket n ⟨k, some k.ctx⟩ s) s
  if groupHere s (k.dest % 256) then deliverChannel k s else s

/-- A send channel's waiting flits leave: as far as its credits allow, or while its multicast group is open (10 R309, R311). -/
def pumpChannel (c : Nat) : Nat → State → State
  | 0, s => s
  | n + 1, s =>
    let x := getChan s c
    match x.txq with
    | [] => s
    | f :: rest =>
      let group := bit (tget 0 s.fab.tx0 c) 16
      let k := channelPacketOf s c (if group then 32 else x.credits) f (f :: rest)
      if group then (if groupOpen s k then pumpChannel c n (sendGroup k (modChan c (fun x => { x with txq := x.txq.drop k.flits.length }) s)) else s)
      else if x.credits = 0 then s
      else pumpChannel c n (sendTo k.dest ⟨k, some k.ctx⟩ (modChan c (fun x => { x with credits := x.credits - k.flits.length, txq := x.txq.drop k.flits.length }) s))

/-- Flits enter a send channel. -/
def channelSend (c : Nat) (fs : List Flit) (s : State) : State :=
  pumpChannel c ((getChan s c).txq.length + fs.length) (modChan c (fun x => { x with txq := x.txq ++ fs }) s)

/-- The send channel to which credits from a coordinate for its receive channel belong (10 R311). -/
def creditChannel (s : State) (src channel : Nat) : Option Nat :=
  (s.fab.tx0.find? fun e => bit e.2 17 && !bit e.2 16 && bits e.2 0 16 == src && bits (tget 0 s.fab.tx1 e.1) 0 12 == channel).map (·.1)

def creditsBack (src channel credits : Nat) (s : State) : State :=
  match creditChannel s src channel with
  | none => s
  | some c => pumpChannel c ((getChan s c).txq.length) (modChan c (fun x => { x with credits := x.credits + credits % 2 ^ 24 }) s)

/-! ### Packets at this module (10 R302, R324) -/

/-- Flits of data that follow an ACT or ANSWER unit under the table of its step. -/
def unitFlits (s : State) (kind : Nat) (u : XUnit) : Nat :=
  let e := getExch s u.dstPtn (u.exch % 16)
  match (heldStep e (u.step % 256)).bind (tableFor e) with
  | some t => tokFlits t (if kind = 5 then t.actFmt else t.ansFmt)
  | none => 0

/-- A unit that arrives in a packet. The data of an ACT or ANSWER may come in several packets, and the unit acts when they are whole. -/
def unitArrives (kind : Nat) (u : XUnit) (s : State) : State :=
  if !unitAlone kind then handleUnit kind u s
  else
    let bare : XUnit := { u with data := [], poison := false }
    let mine (e : Nat × XUnit) : Bool := e.1 == kind && e.2.src == u.src
    let old := match s.fab.parts.find? fun e => mine e && decide ({ e.2 with data := [], poison := false } = bare) with
      | some e => (e.2.data, e.2.poison)
      | none => ([], false)
    let v := { u with data := old.1 ++ u.data, poison := old.2 || u.poison }
    let rest := s.fab.parts.filter fun e => !mine e
    if v.data.length < 64 * unitFlits s kind u then modFab (fun f => { f with parts := (kind, v) :: rest }) s
    else handleUnit kind v (modFab (fun f => { f with parts := rest }) s)

/-- A packet that this module's endpoints take now. -/
def takesNow (s : State) (k : Packet) : Bool :=
  match k.type with
  | 0 => !k.mcast || rxRoom s k
  | 1 => !xchStopped s (bits ((k.body.getD 1 0).toNat) 27 5)
  | _ => true

/-- A packet of TYPE 0-2 reaches this module's endpoints. -/
def packetHere (k : Packet) (s : State) : State :=
  match k.type with
  | 0 => deliverChannel k s
  | 1 => (packetUnits k).foldl (fun s u => unitArrives u.1 u.2 s) s
  | _ => creditsBack k.src k.channel (bits ((k.body.getD 0 0).toNat) 0 24) s

/-- Packets from this module to itself arrive, in order, as far as they are taken. -/
def settleHere : Nat → State → State
  | 0, s => s
  | n + 1, s =>
    match s.fab.here.find? (takesNow s) with
    | none => s
    | some k => settleHere n (packetHere k (modFab (fun f => { f with here := ldelFirst (fun j => decide (j = k)) f.here }) s))

/-- The model's own bound on local packets in one command; the rest stay (log 13). -/
def settleLocal (s : State) : State := settleHere 65536 s

/-! ### The receive buffer (10 R301, R309) -/

/-- A packet's copies leave, and it is delivered and sent onward, as far as may be now. -/
def moveOn (h : RxPacket) (s : State) : RxPacket × State :=
  let free (s : State) (m : Nat) : Bool := canSend s m h.pkt && laneFree s m h.lane
  let y := h.hops.foldl (fun (a : List Nat × State) m => if free a.2 m then (a.1, emitPacket m ⟨h.pkt, none⟩ a.2) else (a.1 ++ [m], a.2)) ([], s)
  let h := { h with hops := y.1 }
  let (h, s) :=
    if !h.onward then (h, y.2)
    else if nhas s.fab.lostSet h.pkt.dest then ({ h with onward := false }, dropPackets 1 y.2)
    else match routePort s h.pkt.dest with
      | some m => if free y.2 m then ({ h with onward := false }, emitPacket m ⟨h.pkt, none⟩ y.2) else (h, y.2)
      | none => (h, y.2)
  if h.here && takesNow s h.pkt then ({ h with here := false }, packetHere h.pkt s) else (h, s)

/-- Places in a port's receive buffer are free again, and their credits due. -/
def freePlaces (n v k : Nat) : State → State :=
  if k = 0 then id else modPort n fun x => { x with freed := (List.range 4).map fun i => x.freed.getD i 0 + (if i = v then k else 0) }

/-- The packets of a lane of a receive buffer leave it in order. -/
def pumpLane (n v : Nat) : Nat → State → State
  | 0, s => s
  | k + 1, s =>
    match (getPort s n).rxq.find? fun h => h.lane == v with
    | none => s
    | some h =>
      let y := moveOn h (modPort n (fun x => { x with rxq := ldelFirst (fun j => j.lane == v) x.rxq }) s)
      if y.1.hops.isEmpty && !y.1.here && !y.1.onward then pumpLane n v k (freePlaces n v h.places y.2)
      else modPort n (fun x => { x with rxq := y.1 :: x.rxq }) y.2

/-- Everything that waits at the links moves as far as it may; multicast channels send, and frames owed go. -/
def pumpLinks (s : State) : State :=
  let s := (List.range 18).foldl (fun s n =>
    let s := [0, 1, 2, 3].foldl (fun s v => pumpLane n v (getPort s n).rxq.length s) s
    drainPort n (getPort s n).txq.length s) s
  let s := s.fab.chans.foldl (fun s e => if bit (tget 0 s.fab.tx0 e.1) 16 then pumpChannel e.1 e.2.txq.length s else s) s
  sendOwed s

/-- The virtual lanes of a packet type (10 R301). -/
def typeLane (type vl : Nat) : Bool := if type = 0 then vl == 3 else if type = 1 then vl == 1 || vl == 2 else decide (type ≤ 5) && vl == 0

/-- A whole packet has been received on a port, from `places` flits of its buffer (10 R302, R305, R306, R309, R311, R324). -/
def packetArrives (n : Nat) (k : Packet) (lane places : Nat) (s : State) : State :=
  if k.vl ≠ lane ∨ typeLane k.type lane = false then freePlaces n lane places (badPacket n s)
  else
    let c := bits ((k.body.getD 0 0).toNat) 0 16
    match k.type with
    | 3 => peerLost c n (freePlaces n lane places s)
    | 4 => peerLeaves n (freePlaces n lane places s)
    | 5 => peerBack c n (freePlaces n lane places s)
    | _ =>
      let own := k.dest == s.fab.coord
      let h : RxPacket := if k.mcast then ⟨k, lane, places, (groupPorts s (k.dest % 256)).filter fun m => m != n, groupHere s (k.dest % 256), false⟩
        else ⟨k, lane, places, [], own, !own⟩
      let m := ((getPort s n).rxq.filter fun h => h.lane == lane).length
      pumpLane n lane (m + 1) (modPort n (fun x => { x with rxq := x.rxq ++ [h] }) s)

def execChannelPacket (n : PortId) (pk : Packet) (s : State) : Host.Outcome State Fault Refusal :=
  .next (if (getPort s n.val).st = .active then packetArrives n.val pk pk.vl 0 s else s)

def execChannelCredit (n : PortId) (from_ : ChanEnd) (credits : Nat) (s : State) : Host.Outcome State Fault Refusal :=
  .next (if (getPort s n.val).st = .active then creditsBack (from_.coord % 65536) (from_.channel % 4096) credits s else s)

/-! ### Received frames (10 R299-R302) -/

/-- The held frames are replayed; a frame replayed eight times without an acknowledgement sends the port to RETRAIN. -/
def replay (n : Nat) (s : State) : State :=
  if (getPort s n).held.isEmpty then s
  else
    let s := resendHeld n (modPort n (fun x => { x with replays := satAdd 16 x.replays 1, held := x.held.map fun h => { h with tries := h.tries + 1 } }) s)
    if (getPort s n).held.any fun h => decide (8 ≤ h.tries) then writeRetrain n s else s

/-- An acknowledgement releases the frames it covers. -/
def takeAck (n ack : Nat) : State → State :=
  modPort n fun x =>
    if x.held.any fun h => h.seq == ack then { x with held := (x.held.dropWhile fun h => h.seq != ack).drop 1, rxAck := ack }
    else { x with rxAck := if ack = x.txSeq ∧ x.held.isEmpty then ack else x.rxAck }

def takeCredits (n : Nat) (cs : List Nat) : State → State :=
  modPort n fun x => { x with credits := (List.range 4).map fun v => x.credits.getD v 0 + cs.getD v 0 % 256 }

/-- A packet's head fields from its head flit's bytes (10 R302). -/
def headPacket (b : List Byte) (flits : List Flit) : Packet :=
  let w := wordAt b
  { dest := bits (w 0) 0 16, mcast := bit (w 0) 16, vl := bits (w 0) 17 2, src := bits (w 1) 0 16, type := bits (w 1) 16 4, channel := bits (w 2) 0 12, epoch := bits (w 2) 12 16,
    ctx := bits (w 3) 0 12, body := (List.range 12).map fun i => BitVec.ofNat 32 (w (4 + i)), flits := flits }

/-- One slot of an accepted frame joins its lane's packet, which a last flit completes; a packet of more than 64 flits is discarded and
counted (10 R299, R302; log 28). -/
def takeSlot (n : Nat) (f : FrameSlot) (s : State) : State :=
  if f.kind = 0 then s
  else
    let v := f.vl % 4
    let part := tget [] (getPort s n).partial_ v ++ [f]
    let s := modPort n (fun x => { x with partial_ := tset [] v (if f.kind = 3 then [] else part) x.partial_ }) s
    if f.kind ≠ 3 then s
    else if 64 < part.length then freePlaces n v part.length (badPacket n s)
    else match part with
      | [] => s
      | h :: rest => packetArrives n (headPacket h.data (rest.map fun g => { data := padTo 64 g.data, poison := g.poison, epoch := 0, ctx := 0, tag := ⟨0, 0, 0, true⟩ })) v part.length s

/-- A frame that decoded with its CRC right: acknowledgement and replay request, then its credits and slots if it is the next expected one,
or its credits if it repeats the last SEQ without slots. One that was accepted before is discarded; any other asks for replay (10 R300;
log 28). -/
def takeFrame (n : Nat) (f : Frame) (s : State) : State :=
  let x := getPort s n
  let idle := f.slots.all fun k => k.kind == 0
  let last := (x.expect + 4095) % 4096
  let s := takeAck n f.ack s
  let s := if f.nak then replay n s else s
  if idle then (if f.seq = last then takeCredits n f.credits s else modPort n (fun x => { x with nak := true }) s)
  else if f.seq = x.expect then
    let s := takeCredits n f.credits (modPort n (fun x => { x with expect := (f.seq + 1) % 4096, ackDue := true }) s)
    f.slots.foldl (fun s k => takeSlot n k s) s
  else modPort n (fun x => if (last + 4096 - f.seq) % 4096 < 2048 then { x with ackDue := true } else { x with nak := true }) s

def execFrameReceive (n : PortId) (bytes : List Byte) (s : State) : Host.Outcome State Fault Refusal :=
  .next (if (getPort s n.val).st = .active then
      pumpLinks (match readFrame bytes with
        | some f => takeFrame n.val f (settleLocal s)
        | none => modPort n.val (fun x => { x with nak := true }) s)
    else s)

def execReplayTimeout (n : PortId) (s : State) : Host.Outcome State Fault Refusal :=
  .next (if (getPort s n.val).st = .active then replay n.val s else s)

/-! ### Exchange steps and units as commands (10 R316) -/

/-- A unit that arrives by itself waits while its exchange unit is in reset (log 13; 11 R340). -/
def takeUnit (kind : Nat) (u : XUnit) (s : State) : State :=
  let s := settleLocal s
  if xchStopped s u.dstPtn then
    modFab (fun f => { f with here := f.here ++ (unitPackets s [(s.fab.coord, kind, u)]).map fun k => { k with src := u.src } }) s
  else handleUnit kind u s

def execExchangeStep (p : PtnId) (x : Fin 16) (s : State) : Host.Outcome State Fault Refusal :=
  .next (let s := settleLocal s
    if isReady s && xStepDue s p.val x.val then startXStep p.val x.val s else s)

def execScore (u : XUnit) (s : State) : Host.Outcome State Fault Refusal := .next (takeUnit 1 u s)
def execEnd (u : XUnit) (s : State) : Host.Outcome State Fault Refusal := .next (takeUnit 2 u s)
def execGrant (u : XUnit) (s : State) : Host.Outcome State Fault Refusal := .next (takeUnit 3 u s)
def execGrantEnd (u : XUnit) (s : State) : Host.Outcome State Fault Refusal := .next (takeUnit 4 u s)
def execAct (u : XUnit) (s : State) : Host.Outcome State Fault Refusal := .next (takeUnit 5 u s)
def execAnswer (u : XUnit) (s : State) : Host.Outcome State Fault Refusal := .next (takeUnit 6 u s)
def execCancel (u : XUnit) (s : State) : Host.Outcome State Fault Refusal := .next (takeUnit 7 u s)
def execVoid (u : XUnit) (s : State) : Host.Outcome State Fault Refusal := .next (takeUnit 8 u s)

end Sys2Proof.Machine
end

