-- ==== Sys2Proof/Machine/DataOps.lean ====
section
/-! DEFINITION. What the steps of a figure move (02 R59, R60; 04 R121, R138, R139; 07 R218, R219; 09 R271): core-store lines, stream
buffers, and the endpoints that issue and take flits. A stream's flits move as a whole when a step runs (log 31). -/
namespace Sys2Proof.Machine

/-! ### Patterns -/

/-- Loop indices of access `n` of a pattern, innermost first. -/
def loopIx : List Nat → Nat → List Nat
  | [], _ => []
  | c :: cs, n => n % max 1 c :: loopIx cs (n / max 1 c)

/-- Byte address of access `n`. -/
def patAddr (q : Pattern) (n : Nat) : Nat :=
  ((q.base : Int) + 16 * (((loopIx q.counts n).zip q.strides).map fun e => (e.1 : Int) * e.2).sum).toNat

/-! ### The core store -/

/-- A line as a command of a context sees it: another context's line reads +0, unpoisoned (R139). -/
def seeLine (ctx : Nat) (l : CoreLine) : List Byte × Bool :=
  if l.tag = none ∨ l.tag = some ctx then (padTo 64 l.data, l.poison) else (List.replicate 64 0, false)

/-- Bytes of a core store. -/
def storeRead (st : Tbl CoreLine) (ctx a n : Nat) : List Byte × Bool :=
  let ls := (List.range ((a + n - 1) / 64 + 1 - a / 64)).map fun i => seeLine ctx (tget {} st (a / 64 + i))
  (slice (ls.flatMap (·.1)) (a % 64) n, ls.any (·.2))

/-- One line of a write: what the writing context does not see of the old line is gone; a whole clean line loses its mark. -/
def putLine (ctx o : Nat) (bs : List Byte) (poison : Bool) (l : CoreLine) : CoreLine :=
  let old := seeLine ctx l
  { data := old.1.take o ++ bs ++ old.1.drop (o + bs.length), poison := poison || (old.2 && decide (bs.length < 64)), tag := some ctx }

/-- Bytes written through PAT_OUT, line by line. -/
def storeWrite (ctx a : Nat) (bs : List Byte) (poison : Bool) (st : Tbl CoreLine) : Tbl CoreLine :=
  (List.range ((a + bs.length - 1) / 64 + 1 - a / 64)).foldl (fun st i =>
    let l := a / 64 + i
    let lo := max a (64 * l)
    let part := (bs.drop (lo - a)).take (64 * l + 64 - lo)
    tmod {} l (putLine ctx (lo % 64) part poison) st) st

/-! ### Flits -/

def noTag : RowTag := ⟨0, 0, 0, true⟩

/-- A row flit's bytes (09 R271). -/
def rowWords (row : Nat) (live : Bool) (npos pass pos : Nat) (toks : List Nat) (gen b : Nat) : List Byte :=
  wordsBytes ([pack [(0, 12, row), (12, 1, b2n live), (13, 4, npos), (17, 4, pass)], pack [(0, 24, pos)]] ++
    ((List.range 9).map fun j => bits (toks.getD j (toks.headD 0)) 0 18) ++ [pack [(0, 16, gen), (16, 6, b)], 0, 0, 0, 0])

/-- Bytes of a stream at an offset, their poison, and the tag of the flit that holds the first. -/
def flitSlice (fs : List Flit) (o n : Nat) : List Byte × Bool × RowTag :=
  let x := (fs.drop (o / 64)).take ((o + n - 1) / 64 + 1 - o / 64)
  (slice (x.flatMap fun f => padTo 64 f.data) (o % 64) n, x.any fun f => f.poison, ((x.head?).map fun f => f.tag).getD noTag)

def getCore (s : State) (p c : Nat) : Core := tget {} (getPtn s p).cores c
def modCore (p c : Nat) (g : Core → Core) : State → State := modPtn p fun x => { x with cores := tmod {} c g x.cores }
def coreBuf (s : State) (p c q : Nat) : List Flit := tget [] (getCore s p c).bufs q
def pushBuf (p c q : Nat) (fs : List Flit) : State → State := modCore p c fun x => { x with bufs := tmod [] q (· ++ fs) x.bufs }
def dropBuf (p c q n : Nat) : State → State := modCore p c fun x => { x with bufs := tmod [] q (·.drop n) x.bufs }

/-- Places left in a stream buffer, a ring of BUF_LINES flits (02 R59). -/
def bufRoom (f : Figure) (s : State) (p c q : Nat) : Nat := ((patternOf f q).map fun x => x.bufLines).getD 0 - (coreBuf s p c q).length

/-- Flits that a crossing buffer holds (01 R24). -/
def crossingMax : Nat := 32

/-- Key of a stream's flits at a producing core, and the place of a source endpoint. -/
def flowKey (k place : Nat) : Nat := k * 131072 + place
def endpointPlace : Nat := 131071

/-- Places left in a set's crossing. -/
def crossingRoom (t : Tbl (List Flit)) (set : Nat) : Nat :=
  crossingMax - ((t.filter fun e => e.1 % 131072 / 128 == set).map fun e => e.2.length).sum

/-- Flits of a stream wait for their crossing. -/
def queueOut (p k place : Nat) (fs : List Flit) : State → State :=
  modFlow p fun w => { w with outq := tmod [] (flowKey k place) (· ++ fs) w.outq }

/-- Flits of the round that a stream's endpoint has issued or taken. -/
def movedOf (s : State) (p k : Nat) : Nat := tget 0 (getPtn s p).flow.moved k
def addMoved (p k n : Nat) : State → State := modFlow p fun w => { w with moved := tmod 0 k (· + n) w.moved }

/-! ### A round's surroundings -/

/-- What a round runs for: partition, figure, epoch, the command, its batch and pass, the row tags, and what the row inputs
carry for each, with its poison. -/
structure Rt where
  p     : Nat
  f     : Figure
  epoch : Nat
  run   : Running
  batch : Option Nat
  pass  : Nat
  tags  : List RowTag
  rows  : List (List Byte × Bool)
  deriving DecidableEq, Repr

/-- Round number of the port table (07 R219). -/
def Rt.round (e : Rt) : Nat := e.run.base + e.run.round

/-- Address of flit `i` of the round at a port-table entry. -/
def portAddr (x : PortEnt) (r i : Nat) : Nat := let off := r * x.advance + 64 * i; x.base + (if x.wrap = 0 then off else off % x.wrap)

/-- The address at which an object's shadow holds what the object holds at `a`. -/
def shadowAddr (s : State) (p a : Nat) : Nat :=
  match objAt s p a with
  | some (_, o) => if o.fbKind = 1 then (getObj s p o.fbShadow).base + (a - o.base) else a
  | none => a

/-- `n` bytes at `off` of a fetch from `a`, which went on in the shadow from byte `cut` of the fetch (07 R222). -/
def shadowFetch (s : State) (p c : Nat) (q : Option Nat) (a off n cut : Nat) : List Byte × Bool :=
  let k := min n (cut - off)
  let x := engineRead s p c q (a + off) k
  let y := engineRead s p c q (shadowAddr s p (a + off + k)) (n - k)
  (x.data ++ y.data, x.poison || y.poison)

/-- Flits of a round at a read port, for a reader's quarter; a fallback holds for the flits that had not come whole (07 R206, R219,
R222). -/
def readPort (e : Rt) (n k : Nat) (q : Option Nat) (s : State) : List Flit × State :=
  let zero : Flit := ⟨List.replicate 64 0, false, e.epoch, e.run.ctx, noTag⟩
  match e.run.ports[n]? with
  | none => (List.replicate k zero, s)
  | some x => (List.range k).foldl (fun (acc : List Flit × State) i =>
      let late (f : RoundFb → Option (Nat × Nat)) : Bool := (e.run.fb.filterMap f).any fun y => y.1 == n && decide (y.2 < 64 * i + 64)
      if late fun y => match y with | .portZero m j => some (m, j) | _ => none then (acc.1 ++ [zero], acc.2)
      else
        let a := portAddr x e.round i
        let a := if late fun y => match y with | .portShadow m j => some (m, j) | _ => none then shadowAddr acc.2 e.p a else a
        let g := engineRead acc.2 e.p e.run.ctx q a 64
        (acc.1 ++ [⟨g.data, g.poison, e.epoch, e.run.ctx, noTag⟩], afterRead e.p e.run.ctx e.run.ring e.run.idx 1 g acc.2)) ([], s)

/-- Flits of a round at a write port, from flit `o` on. -/
def writePort (e : Rt) (n o : Nat) (fs : List Flit) (s : State) : State :=
  match e.run.ports[256 + n]? with
  | none => s
  | some x =>
    ((List.range fs.length).zip fs).foldl (fun s y =>
      let w := engineWrite e.p e.run.ctx (portAddr x e.round (o + y.1)) y.2.data y.2.poison s
      raiseRefused e.run.ctx e.run.ring e.run.idx 1 0 w.2 w.1) s

/-- EPOCH_MISMATCH: what carries another epoch is discarded and counted (02 R68). -/
def wrongEpoch (p core epoch : Nat) (s : State) : State :=
  raisePtn 0x0202 p core ((getPtn s p).fig.epoch + 65536 * epoch) (modFig p (fun x => { x with epochDrops := satAdd 32 x.epochDrops 1 }) s)

/-- EPOCH_MISMATCH and CONTEXT_CROSS of a flit that reaches a core's step; `none` when the flit is taken (02 R68; 04 R139). -/
def flitRefused (p core step : Nat) (own : Option Nat) (f : Flit) (s : State) : Option State :=
  if f.epoch ≠ (getPtn s p).fig.epoch then some (wrongEpoch p core f.epoch s)
  else match own with
    | some c => if f.ctx ≠ c then some (raisePtn 0x0204 p core (pack [(0, 3, step), (4, 12, c), (16, 12, f.ctx)]) s) else none
    | none => none

/-- Flits of a stream reach their consumers. -/
def deliverFlits (e : Rt) (ends : List (Nat × Nat × Nat)) (fs : List Flit) (s : State) : State :=
  ends.foldl (fun s t => pushBuf e.p t.1 (inputPat (coreStep e.f t.1 t.2.1) t.2.2) fs s) s

/-- A receive channel delivers flits of stream `k` for this round, `want` at most: one of another epoch or context is discarded and its
place credited at once (10 R311). The credits of the others return as the consumer takes them. -/
def fromChannel (e : Rt) (k c core step : Nat) : Nat → State → State
  | 0, s => s
  | want + 1, s =>
    match (getChan s c).rxq with
    | [] => s
    | f :: rest =>
      let s := modChan c (fun x => { x with rxq := rest }) s
      match flitRefused e.p core step (some e.run.ctx) f s with
      | some s => fromChannel e k c core step want (returnCredits c 1 s)
      | none => fromChannel e k c core step want (addMoved e.p k 1 (queueOut e.p k endpointPlace [f] s))

/-- The first `k` elements, if there are as many. -/
def takeExactly {α : Type} (k : Nat) (l : List α) : Option (List α × List α) := if k ≤ l.length then some (l.take k, l.drop k) else none

/-- A source endpoint other than a receive channel issues the round's `k` flits of one stream toward a consumer, if it can (07 R218;
10 R310). ATT_O issues when the pipe has worked. -/
def issueFlits (e : Rt) (ep k core : Nat) (s : State) : Option (List Flit) × State :=
  if ep < 0x100 then let r := readPort e ep k (some (setQuarter s e.p (core / 128))) s; (some r.1, r.2)
  else if 0x208 ≤ ep ∧ ep < 0x210 then
    (some ((List.range k).map fun i =>
      let w := e.rows.getD i (rowWords i false 1 e.pass 0 [0] 0 0, false)
      (⟨w.1, w.2, e.epoch, e.run.ctx, e.tags.getD i ⟨i, e.pass, 0, false⟩⟩ : Flit)), s)
  else if 0xA000 ≤ ep ∧ ep < 0xA040 then
    let x := (ep - 0xA000) / 4
    match takeExactly k (getExch s e.p x).comb with
    | some (a, b) => (some a, modExch e.p x (fun y => { y with comb := b }) s)
    | none => (none, s)
  else if 0xB000 ≤ ep ∧ ep < 0xB400 then
    let x := (ep - 0xB000) / 64
    let l := (ep - 0xB000) % 64
    let q := (getExch s e.p x).expertIn
    match takeExactly k (q.filter fun f => f.1 == l) with
    | some (a, _) => (some (a.map fun f => { f.2 with epoch := e.epoch, ctx := e.run.ctx }), modExch e.p x (fun y => { y with expertIn := a.foldl (fun (t : List (Nat × Flit)) f => t.erase f) q }) s)
    | none => (none, s)
  else (none, s)

/-! ### Samplers (09 R272) -/

/-- The vocabulary-map entry of a producer. -/
def vmapOf (d : BDesc) (core step pass : Nat) : Option VMap := d.vmap.find? fun v => v.core == core && v.step == step && v.pass == pass

/-- Flits of one row-position from one producer. -/
def posFlits (d : BDesc) (v : VMap) : Nat := ceilDiv (v.count * (if d.bf16 then 2 else 4)) 64

/-- A flit reaches the sampler of a die. One that no map entry names, or for a row of another die, faults a row that takes part in
boundaries; of the others those of live rows in the step are kept with their position. -/
def toSampler (e : Rt) (die core step : Nat) (f : Flit) (s : State) : State :=
  match e.batch with
  | none => s
  | some b =>
    let x := getBatch s e.p b
    let r := f.tag.row
    match if samplerDie x.desc r = die then vmapOf x.desc core step e.pass else none with
    | none => if rowLive (getRow x r) then eachSignals (rowFault e.p b r 0x0601 core (step + 8 * e.pass) (some die) true) s else s
    | some v =>
      if (getRow x r).st ≠ .active ∨ f.tag.live = false then s
      else modStep e.p b (fun t =>
        let n := (t.logits.filter fun l => l.row == r && l.pass == e.pass && l.core == core && l.step == step).length
        { t with logits := t.logits ++ [⟨r, e.pass, n / max 1 (posFlits x.desc v), core, step, f.data, f.poison⟩] }) s

/-! ### Destinations -/

/-- Flits of stream `k`, of the next `n`, that its destination endpoint takes now: a send channel as many as it has credits for, or what its
group has room for, a write
port those before the first whose page is in TRANSIT, a sampler in reset none (07 R212, R215; 10 R311, R312; 11 R340). -/
def sinkRoom (e : Rt) (s : State) (k ep n : Nat) : Nat :=
  if 0x8000 ≤ ep ∧ ep < 0x9000 then
    let x := getChan s (ep - 0x8000)
    if bit (tget 0 s.fab.tx0 (ep - 0x8000)) 16 then (if x.txq.isEmpty then n else 0) else min n (x.credits - x.txq.length)
  else if 0x100 ≤ ep ∧ ep < 0x200 then
    (match e.run.ports[ep]? with
     | some x => ((List.range n).find? fun i => inTransit s e.p (portAddr x e.round (movedOf s e.p k + i)) 64).getD n
     | none => n)
  else if 0x200 ≤ ep ∧ ep < 0x208 ∧ engStopped s (.sampler (dieId (ep - 0x200))) = true then 0
  else n

/-- Flits of one stream reach their destination endpoint. -/
def sinkFlits (e : Rt) (core step : Nat) (k : Nat) (x : Stream) (fs : List Flit) (s : State) : State :=
  let ep := x.endpoint
  if 0x100 ≤ ep ∧ ep < 0x200 then writePort e (ep - 0x100) (movedOf s e.p k) fs s
  else if 0x200 ≤ ep ∧ ep < 0x208 then fs.foldl (fun s f => (flitRefused e.p core step (some e.run.ctx) f s).getD (toSampler e (ep - 0x200) core step f s)) s
  else if 0x4000 ≤ ep ∧ ep < 0x8000 then
    let set := (ep - 0x4000) / 4
    let kind := (ep - 0x4000) % 4
    let at_ := ((leadSteps e.f fun t => t.attn).filter fun t => t.1 == set).find? fun t => (attStream e.f set t.2 kind).map (·.1) == some k
    match at_ with
    | some t => pushBuf e.p (128 * set) (65536 + 8 * kind + t.2) fs s
    | none => s
  else if 0x8000 ≤ ep ∧ ep < 0x9000 then channelSend (ep - 0x8000) fs s
  else if 0xA000 ≤ ep ∧ ep < 0xA040 then
    let y := (ep - 0xA000) / 4
    if ep % 4 = 0 then modExch e.p y (fun z => { z with scoreIn := z.scoreIn ++ fs }) s else modExch e.p y (fun z => { z with actIn := z.actIn ++ fs }) s
  else if 0xC000 ≤ ep ∧ ep < 0xC400 then
    let y := (ep - 0xC000) / 64
    let n := (getExch s e.p y).expertOut.length + fs.length
    drawAnswers e.p y n (modExch e.p y (fun z => { z with expertOut := z.expertOut ++ fs.map fun f => ((ep - 0xC000) % 64, f) }) s)
  else s

/-! ### From source to buffer (01 R24; 02 R23, R50, R59) -/

/-- `n` flits of a stream that wait at a place go on to the place's crossing. -/
def toCrossing (p key n : Nat) : State → State :=
  modFlow p fun w => let fs := tget [] w.outq key
    { w with outq := tset [] key (fs.drop n) w.outq, xOut := tmod [] key (· ++ fs.take n) w.xOut }

/-- Flits leave a producing set's crossing, or a source endpoint, for the crossings of the consuming sets. -/
def acrossMesh (p k key n : Nat) (issued : Bool) (sets : List Nat) : State → State :=
  modFlow p fun w =>
    let fs := tget [] (if issued then w.outq else w.xOut) key
    let w := if issued then { w with outq := tset [] key (fs.drop n) w.outq } else { w with xOut := tset [] key (fs.drop n) w.xOut }
    sets.foldl (fun w g => { w with xIn := tmod [] (flowKey k (128 * g)) (· ++ fs.take n) w.xIn }) w

/-- The least of some numbers and a bound. -/
def leastOf (n : Nat) (l : List Nat) : Nat := l.foldl min n

/-- One hop of every flit of a stream that has room ahead: from the consuming sets' crossings into the stream buffers, then across the
mesh or into a destination endpoint, then into the producing sets' crossings. The answer says whether a flit moved. -/
def moveStream (e : Rt) (k : Nat) (x : Stream) (s : State) : Bool × State :=
  let ends := (streamEnds e.f k x).getD []
  let sets := naddAll (ends.map fun t => t.1 / 128) []
  let here (t : Tbl (List Flit)) : Tbl (List Flit) := t.filter fun y => y.1 / 131072 == k
  let flow (s : State) : Flow := (getPtn s e.p).flow
  let r := sets.foldl (fun (acc : Bool × State) g =>
    let key := flowKey k (128 * g)
    let fs := tget [] (flow acc.2).xIn key
    let mine := ends.filter fun t => t.1 / 128 == g
    let n := leastOf fs.length (mine.map fun t => bufRoom e.f acc.2 e.p t.1 (inputPat (coreStep e.f t.1 t.2.1) t.2.2))
    if n = 0 then acc
    else (true, deliverFlits e mine (fs.take n) (modFlow e.p (fun w => { w with xIn := tset [] key (fs.drop n) w.xIn }) acc.2))) (false, s)
  let r := (here (flow r.2).xOut).foldl (fun (acc : Bool × State) y =>
    let core := y.1 % 131072
    if x.dstEndpoint then
      let n := sinkRoom e acc.2 k x.endpoint y.2.length
      if n = 0 then acc
      else
        let step := (((listers e.f k).find? fun l => l.1 == core).map (·.2)).getD 0
        let s := modFlow e.p (fun w => { w with xOut := tset [] y.1 (y.2.drop n) w.xOut }) acc.2
        (true, addMoved e.p k n (sinkFlits e core step k x (y.2.take n) s))
    else
      let n := leastOf y.2.length (sets.map (crossingRoom (flow acc.2).xIn))
      if n = 0 then acc else (true, acrossMesh e.p k y.1 n false sets acc.2)) r
  (here (flow r.2).outq).foldl (fun (acc : Bool × State) y =>
    let place := y.1 % 131072
    let n := if place = endpointPlace then leastOf y.2.length (sets.map (crossingRoom (flow acc.2).xIn)) else min y.2.length (crossingRoom (flow acc.2).xOut (place / 128))
    if n = 0 then acc
    else (true, if place = endpointPlace then acrossMesh e.p k y.1 n true sets acc.2 else toCrossing e.p y.1 n acc.2)) r

/-- One hop of every stream that has flits on the way, streams in ascending order (log 31). -/
def moveFlits (e : Rt) (s : State) : Bool × State :=
  let w := (getPtn s e.p).flow
  let ks := naddAll ((w.outq ++ w.xOut ++ w.xIn).map fun y => y.1 / 131072) []
  ks.foldl (fun (acc : Bool × State) k =>
    match e.f.streams[k]? with
    | some x => let r := moveStream e k x acc.2; (acc.1 || r.1, r.2)
    | none => acc) (false, s)

end Sys2Proof.Machine
end

