-- ==== Sys2Proof/Machine/Batches.lean ====
section
/-! DEFINITION. Ring commands of the figure engine and the mask engine (08 R245, R246; 09 R263-R270, R277-R279, R294, R295; 06
R197, R198): FIG_RUN, BATCH_OPEN, BATCH_RUN, ROW_SET, BATCH_CLOSE, RECOMPUTE, KV_RELEASE, MASK_SET and MASK_CLEAR. -/
namespace Sys2Proof.Machine

/-- A descriptor is read, or its command ends with the status that its read gives. -/
def withDesc (c : Cmd) (a n : Nat) (go : List Byte → State → State) (s : State) : State :=
  match readDesc s c a n with
  | .error st => endCmd c.ring c.idx st 0 s
  | .ok b => go b s

/-- A list is read, or its command ends with the status that its read gives. -/
def withList (c : Cmd) (a n : Nat) (go : List Byte → State → State) (s : State) : State :=
  match readList s c a n with
  | .error st => endCmd c.ring c.idx st 0 s
  | .ok b => go b s

/-- Records of `k` bytes in a buffer. -/
def pieces (k n : Nat) (b : List Byte) : List (List Byte) := (List.range n).map fun i => slice b (k * i) k

/-! ### Port tables (07 R219) -/

def decPort (e : List Byte) : PortEnt := { base := dwordAt e 0, advance := wordAt e 2, wrap := wordAt e 3 }
def portBad (x : PortEnt) : Bool := decide (x.base % 64 ≠ 0 ∨ x.advance % 64 ≠ 0 ∨ x.wrap % 64 ≠ 0)

/-- A command's port table, read once at its start. -/
def withPorts (c : Cmd) (a : Nat) (go : List PortEnt → State → State) (s : State) : State :=
  withDesc c a 8192 (fun b s =>
    let ps := (pieces 16 512 b).map decPort
    if ps.any portBad then endCmd c.ring c.idx 2 0 s else go ps s) s

/-- Figure work of a command. -/
def workOf (c : Cmd) (target : Nat) (ports : List PortEnt) (batch : Nat) : Running :=
  { ring := c.ring, idx := c.idx, ctx := c.ctx, opcode := c.opcode, target := target, ports := ports, round := 0, base := 0, done := 0, batch := batch, chunk := none }

def figRunGo (c : Cmd) (s : State) : State :=
  if opw c.ops 2 = 0 then endCmd c.ring c.idx 2 0 s
  else withPorts c (opd c.ops 4) (fun ps s => enqueueWork c.ptn (workOf c (opw c.ops 2) ps 0) s) s

def execFigRun (e : Entry) (s : State) : Host.Outcome State Fault Refusal := .next (runEntry e 0x16 s figRunGo)

/-! ### Batch descriptors (09 R267-R269) -/

def decVMap (e : List Byte) : VMap :=
  { core := bits (wordAt e 0) 0 17, step := bits (wordAt e 0) 17 3, pass := bits (wordAt e 0) 20 4, first := bits (wordAt e 1) 0 18, count := bits (wordAt e 1) 18 13 }

/-- Byte offset of the row descriptors. -/
def rowsOff (b : List Byte) : Nat := 64 + alignUp (8 * bits (wordAt b 3) 0 13) 64

def decBDesc (b : List Byte) : BDesc :=
  { rows := bits (wordAt b 1) 0 13, perRound := bits (wordAt b 1) 13 13, vocab := bits (wordAt b 2) 0 18, bf16 := bit (wordAt b 2) 18,
    maxDraft := bits (wordAt b 2) 19 4, samplers := bits (wordAt b 2) 24 8,
    vmap := (pieces 8 (bits (wordAt b 3) 0 13) (b.drop 64)).map decVMap, stop := (List.range 4).map fun i => bits (wordAt b (4 + i)) 0 18 }

def decRow (e : List Byte) : RowDesc :=
  let w := wordAt e
  if bit (w 3) 3 then {}
  else
    { request := w 0, ring := bits (w 1) 0 15, adapter := bits (w 1) 16 16, steer := bits (w 2) 0 16, mask := bits (w 2) 16 16, aNone := bit (w 3) 0,
      sNone := bit (w 3) 1, mNone := bit (w 3) 2, empty := false, maskState := bits (w 4) 0 16, invTemp := BitVec.ofNat 32 (w 5), topP := BitVec.ofNat 32 (w 6),
      topK := bits (w 7) 0 7, draft := bits (w 7) 7 4, retire := bits (w 7) 11 8, seed := dwordAt e 8, deadline := dwordAt e 10, pageTable := dwordAt e 12,
      maxNew := bits (w 14) 0 24, seqStart := w 15 }

/-- A row descriptor with a field out of range or a reserved bit set; an EMPTY one is not looked at further. -/
def rowBad (maxDraft : Nat) (e : List Byte) : Bool :=
  let w := wordAt e
  !bit (w 3) 3 &&
  (bit (w 1) 15 || decide (2 ^ 4 ≤ w 3) || decide (2 ^ 16 ≤ w 4) || bit (w 5) 31 || bits (w 5) 23 8 == 255 || !flt 0 (w 6) || !fle (w 6) 0x3F800000 ||
   decide (64 < bits (w 7) 0 7) || decide (maxDraft < bits (w 7) 7 4) || decide (2 ^ 19 ≤ w 7) || decide (2 ^ 24 ≤ w 14))

/-- The header and the vocabulary map. -/
def headBad (b : List Byte) : Bool :=
  let w := wordAt b
  let d := decBDesc b
  decide (w 0 ≠ 0x48435442) || decide (d.rows = 0 ∨ 4096 < d.rows ∨ d.perRound = 0 ∨ 4096 < d.perRound ∨ 2 ^ 26 ≤ w 1) ||
  decide (d.vocab = 0 ∨ 8 < d.maxDraft ∨ bit (w 2) 23 = true ∨ d.samplers = 0) || decide (bits (w 3) 0 13 = 0 ∨ 4096 < bits (w 3) 0 13 ∨ 2 ^ 13 ≤ w 3) ||
  [4, 5, 6, 7].any (fun i => decide (2 ^ 18 ≤ w i)) || !allZero (slice b 32 32)

def vmapBad (b : List Byte) : Bool :=
  let d := decBDesc b
  (pieces 8 (bits (wordAt b 3) 0 13) (b.drop 64)).any (fun e => decide (2 ^ 24 ≤ wordAt e 0) || bit (wordAt e 1) 31) ||
  d.vmap.any (fun v => decide (8 < v.pass) || decide (v.count = 0 ∨ 4096 < v.count)) ||
  (List.range (d.maxDraft + 1)).any fun p => !covers ((d.vmap.filter fun v => v.pass == p).map fun v => (v.first, v.count)) d.vocab

/-- The header fits the loaded slot's figure and attention map. -/
def slotMismatch (s : State) (p : Nat) (d : BDesc) : Bool :=
  match (getPtn s p).figure, loadedMap s p with
  | some f, some m => decide (d.maxDraft + 1 ≠ m.qpos) || f.streams.any fun x => x.dstEndpoint && decide (0x208 ≤ x.endpoint) && decide (x.endpoint < 0x210) && x.flits != d.perRound
  | _, _ => true

/-- Every row that holds a request names an enabled token ring of the context. -/
def ringsOk (s : State) (c : Nat) (rs : List RowDesc) : Bool := rs.all fun d => d.empty || let x := getRing s d.ring; x.cur.enable && x.cur.type == 2 && x.cur.ctx == c

/-- Phases 2-6 run at once while the batch stands (09 R266). -/
def standingPhases (p b : Nat) (replaced : Bool) (s : State) : State := rowPhases p b s.time replaced s

def openGo (c : Cmd) (b : Nat) (bs : List Byte) (ps : List PortEnt) (s : State) : State :=
  let d := decBDesc bs
  let es := pieces 64 d.rows (bs.drop (rowsOff bs))
  let rs := es.map decRow
  if es.any (rowBad d.maxDraft) then endCmd c.ring c.idx 2 0 s
  else if !ringsOk s c.ctx rs then endCmd c.ring c.idx 3 0 s
  else
    let s := modBatch c.ptn b (fun x =>
      { open_ := true, ctx := c.ctx, gen := (x.gen + 1) % 65536, desc := d, ports := ps,
        rows := ((List.range rs.length).zip rs).foldl (fun t e => tset {} e.1 (newRow e.2) t) [] }) s
    endCmd c.ring c.idx 0 (getBatch s c.ptn b).gen (withRingSignals (standingPhases c.ptn b true) s)

def batchOpenGo (c : Cmd) (s : State) : State :=
  let b := opf c.ops 2 0 6
  let a := opd c.ops 4
  if (getBatch s c.ptn b).open_ then endCmd c.ring c.idx 0x11 0 s
  else if 8 ≤ (openBatches s c.ptn).length then endCmd c.ring c.idx 6 0 s
  else withDesc c a 64 (fun h s =>
    if headBad h then endCmd c.ring c.idx 2 0 s
    else withDesc c a (rowsOff h + 64 * bits (wordAt h 1) 0 13) (fun bs s =>
      if vmapBad bs || slotMismatch s c.ptn (decBDesc bs) then endCmd c.ring c.idx 2 0 s
      else withPorts c (opd c.ops 6) (openGo c b bs) s) s) s

def execBatchOpen (e : Entry) (s : State) : Host.Outcome State Fault Refusal := .next (runEntry e 0x20 s batchOpenGo)

/-- A command on an open batch of its context. -/
def onBatch (c : Cmd) (go : Nat → Batch → State → State) (s : State) : State :=
  let b := opf c.ops 2 0 6
  let x := getBatch s c.ptn b
  if !x.open_ then endCmd c.ring c.idx 0x11 0 s else if x.ctx ≠ c.ctx then endCmd c.ring c.idx 3 0 s else go b x s

def batchRunGo (c : Cmd) (s : State) : State :=
  if opf c.ops 3 0 16 = 0 then endCmd c.ring c.idx 2 0 s
  else onBatch c (fun b x s => enqueueWork c.ptn (workOf c (opf c.ops 3 0 16) x.ports b) s) s

def execBatchRun (e : Entry) (s : State) : Host.Outcome State Fault Refusal := .next (runEntry e 0x21 s batchRunGo)

/-! ### ROW_SET (09 R269, R270) -/

def rowSetList (c : Cmd) (b : Nat) (x : Batch) (bs : List Byte) (s : State) : State :=
  let n := opf c.ops 3 0 13
  let ns := (pieces 2 n bs).map leNat
  let es := pieces 64 n (bs.drop (alignUp (2 * n) 64))
  let rs := es.map decRow
  if !distinct ns || ns.any (fun r => decide (x.desc.rows ≤ r)) || es.any (rowBad x.desc.maxDraft) then endCmd c.ring c.idx 2 0 s
  else if !ringsOk s c.ctx rs then endCmd c.ring c.idx 3 0 s
  else
    let s := modBatch c.ptn b (fun y => { y with rowSets := y.rowSets ++ [(c.ring, c.idx, ns.zip rs)] }) s
    if x.step.isSome then modCmd c.ring c.idx (fun k => { k with phase := .waiting }) s
    else withRingSignals (fun s => standingPhases c.ptn b true (passAlpha c.ctx b (applyRowSets c.ptn b s))) s

def rowSetGo (c : Cmd) (s : State) : State :=
  let n := opf c.ops 3 0 13
  if n = 0 ∨ 4096 < n then endCmd c.ring c.idx 2 0 s
  else onBatch c (fun b x s => withList c (opd c.ops 4) (alignUp (2 * n) 64 + 64 * n) (rowSetList c b x) s) s

def execRowSet (e : Entry) (s : State) : Host.Outcome State Fault Refusal := .next (runEntry e 0x22 s rowSetGo)

/-! ### BATCH_CLOSE (08 R246; 09 R295; 10 R325) -/

/-- Exchange steps of a batch are called off. -/
def cancelTokens (p b : Nat) (s : State) : State := ((getPtn s p).xch.exchs.map (·.1)).foldl (fun s x => cancelSender p x (fun t => t.batch == b) s) s

/-- A batch is cancelled at a bow point: its BATCH_RUN, running, saved or on its way back, ends with CANCELLED and the steps it had
completed. -/
def cancelBatch (p b : Nat) (s : State) : State :=
  let f := (getPtn s p).fe
  let s := cancelTokens p b s
  let s := match (getBatch s p b).cancel with | some e => endCmd e.1 e.2 0 0 s | none => s
  let s := eachSignals (closeBatch p b 2) (dropRuns p b 9 false s)
  let mine (r : Running) : Bool := r.opcode == 0x21 && r.batch == b
  match f.run, f.resume with
  | some r, _ => if mine r then endWork p r 9 r.done (clearStreams p s) else s
  | none, some v => if mine v.run then endWork p v.run 9 v.run.done s else s
  | none, none => s

/-- The batch's step is being computed now. -/
def stepRuns (s : State) (p b : Nat) : Bool := match (getPtn s p).fe.run with | some r => r.opcode == 0x21 && r.batch == b | none => false

def batchCloseGo (c : Cmd) (s : State) : State :=
  onBatch c (fun b x s =>
    if x.closing.isSome || x.cancel.isSome then endCmd c.ring c.idx 0x11 0 s
    else if opf c.ops 2 8 1 = 1 then
      let s := modBatch c.ptn b (fun y => { y with cancel := some (c.ring, c.idx) }) s
      if x.step.isSome && stepRuns s c.ptn b then modCmd c.ring c.idx (fun k => { k with phase := .waiting }) s else cancelBatch c.ptn b s
    else
      let s := modBatch c.ptn b (fun y => { y with closing := some (c.ring, c.idx) }) s
      if x.step.isSome then modCmd c.ring c.idx (fun k => { k with phase := .waiting }) s else withRingSignals (closeBatch c.ptn b 0) s) s

def execBatchClose (e : Entry) (s : State) : Host.Outcome State Fault Refusal := .next (runEntry e 0x23 s batchCloseGo)

/-! ### RECOMPUTE and KV_RELEASE (06 R197, R198) -/

/-- The page table's header can be read and belongs to the command's context. -/
def tableMine (s : State) (c : Cmd) (a : Nat) : Bool := a % 64 == 0 && rangeNear s c.ptn a 64 && (readTab s c.ptn a).ctx == c.ctx

def recomputeGo (c : Cmd) (s : State) : State :=
  let a := opd c.ops 2
  match loadedMap s c.ptn with
  | none => endCmd c.ring c.idx 0x0D 0 s
  | some m =>
    if !tableMine s c a || !tableOk s c.ptn c.ctx a (some m) then endCmd c.ring c.idx 0x0D 0 s
    else if (readTab s c.ptn a).recomputing then endCmd c.ring c.idx 7 0 s
    else if !hasMissing (readTab s c.ptn a) (kvP m.d m.kvFmt) then endCmd c.ring c.idx 0 0 s
    else withPorts c (opd c.ops 4) (fun ps s => enqueueWork c.ptn (workOf c 0 ps 0) (modTab c.ptn a (fun t => { t with recomputing := true }) s)) s

def execRecompute (e : Entry) (s : State) : Host.Outcome State Fault Refusal := .next (runEntry e 0x28 s recomputeGo)

def kvReleaseGo (c : Cmd) (s : State) : State :=
  let a := opd c.ops 2
  if !tableMine s c a then endCmd c.ring c.idx 0x0D 0 s
  else if rowNames s c.ptn a || (readTab s c.ptn a).recomputing then endCmd c.ring c.idx 7 0 s
  else let r := releaseSeq c.ptn c.ctx a s; endCmd c.ring c.idx 0 r.1 r.2

def execKvRelease (e : Entry) (s : State) : Host.Outcome State Fault Refusal := .next (runEntry e 0x29 s kvReleaseGo)

/-! ### Masks (09 R277, R278) -/

/-- Offsets of the states, bitmaps, edges, and the end of an automaton's table; of the tokens' end of a list's. -/
def maskParts (h : List Byte) : Nat × Nat × Nat × Nat :=
  let n := bits (wordAt h 3) 0 18
  if bit (wordAt h 1) 0 then
    let bm := alignUp (64 + 16 * n) 64
    let ed := alignUp (bm + n * (ceilDiv (bits (wordAt h 2) 0 18) 512 * 64)) 64
    (64, bm, ed, ed + 8 * wordAt h 4)
  else (64, 0, 0, 64 + 4 * n)

def maskHeadBad (h : List Byte) (size : Nat) : Bool :=
  let w := wordAt h
  let aut := bit (w 1) 0
  decide (w 0 ≠ 0x4B53414D) || decide (2 ≤ w 1) || decide (w 2 = 0 ∨ 2 ^ 18 ≤ w 2) || decide (w 3 = 0 ∨ 2 ^ 18 ≤ w 3) || (aut && decide (65536 < w 3)) ||
  (!aut && w 4 != 0) || !allZero (slice h 20 44) || decide (size < (maskParts h).2.2.2)

/-- Strictly rising numbers below a bound. -/
def risingBelow (n : Nat) : List Nat → Bool
  | a :: b :: rest => decide (a < b) && risingBelow n (b :: rest)
  | [a] => decide (a < n)
  | [] => true

def decMask (b : List Byte) (ctx size : Nat) : Mask :=
  let o := maskParts b
  let n := bits (wordAt b 3) 0 18
  let v := bits (wordAt b 2) 0 18
  let k := ceilDiv v 512 * 64
  if bit (wordAt b 1) 0 then
    { set := true, ctx := ctx, automaton := true, vocab := v, size := size,
      states := (pieces 16 n (b.drop o.1)).map (fun e => (wordAt e 0, bits (wordAt e 1) 0 18, bits (wordAt e 2) 0 16)),
      bitmaps := pieces k n (b.drop o.2.1), edges := (pieces 8 (wordAt b 4) (b.drop o.2.2.1)).map fun e => (bits (wordAt e 0) 0 18, bits (wordAt e 1) 0 16) }
  else { set := true, ctx := ctx, vocab := v, size := size, tokens := (pieces 4 n (b.drop 64)).map fun e => wordAt e 0 }

/-- Checks of a table's body. -/
def maskBodyBad (b : List Byte) : Bool :=
  let k := decMask b 0 0
  let o := maskParts b
  let n := bits (wordAt b 3) 0 18
  if k.automaton then
    (pieces 16 n (b.drop o.1)).any (fun e => decide (2 ^ 18 ≤ wordAt e 1) || decide (2 ^ 16 ≤ wordAt e 2) || wordAt e 3 != 0) ||
    (pieces 8 (wordAt b 4) (b.drop o.2.2.1)).any (fun e => decide (2 ^ 18 ≤ wordAt e 0) || decide (2 ^ 16 ≤ wordAt e 1)) ||
    k.states.any (fun x => decide (k.edges.length < x.1 + x.2.1) || decide (n ≤ x.2.2) || !risingBelow k.vocab (((k.edges.drop x.1).take x.2.1).map (·.1))) ||
    k.edges.any (fun x => decide (k.vocab ≤ x.1) || decide (n ≤ x.2)) ||
    (List.range n).any fun i => !(List.range k.vocab).any fun t => maskAllows k i t
  else !risingBelow k.vocab k.tokens

/-- Bytes of the mask store, and those in use. -/
def maskStore : Nat := 536870912
def masksHeld (s : State) : Nat := ((s.masks.filter fun e => e.2.set).map fun e => e.2.size).sum

/-- A range that a command reads holds a poisoned line. -/
def rangePoisoned (s : State) (c : Cmd) (a n : Nat) : Bool := (engineRead s c.ptn c.ctx none a n).poison

/-- States whose bitmap lies in poisoned lines of the table; the mask keeps the marks (07 R228; 09 R287). -/
def badBitmaps (s : State) (c : Cmd) (a : Nat) (b : List Byte) : NSet :=
  let k := ceilDiv (bits (wordAt b 2) 0 18) 512 * 64
  if bit (wordAt b 1) 0 then (List.range (bits (wordAt b 3) 0 18)).filter fun i => rangePoisoned s c (a + (maskParts b).2.1 + k * i) k else []

/-- A part of the table other than its bitmaps lies in poisoned lines (log 26). -/
def maskPoisoned (s : State) (c : Cmd) (a size : Nat) (b : List Byte) : Bool :=
  let o := maskParts b
  if bit (wordAt b 1) 0 then rangePoisoned s c a o.2.1 || rangePoisoned s c (a + o.2.2.1) (size - o.2.2.1) else rangePoisoned s c a size

def maskSetGo (c : Cmd) (s : State) : State :=
  let i := opf c.ops 2 0 16
  let a := opd c.ops 4
  let size := opw c.ops 6
  let k := getMask s i
  let g := engineRead s c.ptn c.ctx none a size
  if size < 64 ∨ 67108864 < size then endCmd c.ring c.idx 2 0 s
  else if !g.refuse.isEmpty then endCmd c.ring c.idx 3 0 s
  else if rangePoisoned s c a 64 || maskHeadBad g.data size || maskPoisoned s c a size g.data || maskBodyBad g.data then endCmd c.ring c.idx 2 0 s
  else if k.set && k.ctx != c.ctx then endCmd c.ring c.idx 3 0 s
  else if k.set then endCmd c.ring c.idx 0x0A 0 s
  else if maskStore < masksHeld s + size then endCmd c.ring c.idx 6 0 s
  else endCmd c.ring c.idx 0 0 { s with masks := tset {} i { decMask g.data c.ctx size with bad := badBitmaps s c a g.data } s.masks }

/-- A standing row names a mask. -/
def maskNamed (s : State) (i : Nat) : Bool := (standing s).any fun d => !d.mNone && d.mask == i

def maskClearGo (c : Cmd) (s : State) : State :=
  let i := opf c.ops 2 0 16
  let k := getMask s i
  if !k.set then endCmd c.ring c.idx 0x0A 0 s
  else if k.ctx ≠ c.ctx then endCmd c.ring c.idx 3 0 s
  else if maskNamed s i then endCmd c.ring c.idx 7 0 s
  else endCmd c.ring c.idx 0 0 { s with masks := tdel i s.masks }

/-- The home mask engine works on a command, unless it is in reset: then the command waits (11 R340). -/
def toMaskEngine (go : Cmd → State → State) (c : Cmd) (s : State) : State := if engStopped s (.mask (dieId (homeDie s c.ptn))) then s else go c s

def execMaskSet (e : Entry) (s : State) : Host.Outcome State Fault Refusal := .next (runEntry e 0x50 s (toMaskEngine maskSetGo))
def execMaskClear (e : Entry) (s : State) : Host.Outcome State Fault Refusal := .next (runEntry e 0x51 s (toMaskEngine maskClearGo))

/-- A mask engine that serves again takes the commands that wait for it. -/
def serveMasks (d : Nat) (s : State) : State :=
  ((allCmds s).filter fun k => decide (k.phase ≠ .done) && homeDie s k.ptn == d && (k.opcode == 0x50 || k.opcode == 0x51)).foldl
    (fun s k => if k.opcode = 0x50 then maskSetGo k s else maskClearGo k s) s

/-! ### Pending records (09 R294) -/

/-- The oldest pending record of a ring is written, if there is room. -/
def execPendingRecordWrite (r : RingId) (s : State) : Host.Outcome State Fault Refusal := .next (if isReady s then flushOneRec r.val s else s)

end Sys2Proof.Machine
end

