-- ==== Sys2Proof/Machine/Boot.lean ====
section
/-! DEFINITION. Start-up and its pins (14 R400-R408; 01 R31-R33; 15 R437): from the always-on domain's power-up to READY. -/
namespace Sys2Proof.Machine

/-- What survives without the always-on domain: fuses, the boot flash, and what had left the block. A flash write that was
in progress is lost (14 R407). -/
def unpowered (s : State) : State :=
  { State.reset with
    boot := { (({} : Boot)) with flash := if s.boot.flashBusy then [] else s.boot.flash, flashSize := if s.boot.flashBusy then 0 else s.boot.flashSize }
    fuses := s.fuses, out := s.out, free := s.free, pending := s.pending }

/-- The always-on domain powers up and the boot ROM starts (14 R400; 15 R428, R438). -/
def execAonPowerUp (slotId : Fin 16) (s : State) : Host.Outcome State Fault Refusal :=
  .next (if s.boot.aon then s
    else
      let t := unpowered s
      { t with boot := { t.boot with aon := true, stage := .rom, slotId := slotId.val }, evc := { t.evc with filt := [4, 6, 7], pend := [4, 6, 7] } })

/-- Verification of the flash image ends (14 R400, R406). -/
def execBootVerify (s : State) : Host.Outcome State Fault Refusal :=
  .next (if s.boot.aon && (decide (s.boot.stage = .rom) || decide (s.boot.stage = .verify)) then
      let size := leNat (mread s.boot.flash 12 4)
      let n := if size ≤ 0x800000 then size else 0
      match fwCheck s.fuses (mread s.boot.flash 0 n) n with
      | .ok i => runFirmware i false (modBoot (fun b => { b with sram := b.flash, sramSize := n }) s)
      | .error c => bootNotice (modBoot (fun b => { b with stage := .recoveryWait, failCode := c }) s)
    else s)

/-- Every PLL locked or not. -/
def setPlls (b : Bool) (s : State) : State := (List.range 8).foldl (fun s d => modDie d (fun x => { x with pll := b, unlockAged := false }) s) s

/-- The switched rails come on and the PLLs lock (14 R400; 13 R381). -/
def execPowerUp (s : State) : Host.Outcome State Fault Refusal :=
  .next (if s.boot.aon && decide (s.boot.stage = .standby) then
      setPlls true (modPwr (fun p => { p with railsOn := true, breaker := false }) (modBoot (fun b => { b with stage := .powerUp }) s))
    else s)

/-- Die controllers run: interrupts on, asleep until an event (14 R418, R419; log 10). -/
def startDies (s : State) : State :=
  (List.range 8).foldl (fun s d => modDie d (fun x => { x with hbFrom := s.time }) (modTgt (d + 2) (fun t => { t with mie := true, sleeping := true, levels := [], inGap := false }) s)) s

/-- Rails in limit and every PLL locked: the die controllers load their code and repair begins (14 R400). -/
def execPowerUpComplete (s : State) : Host.Outcome State Fault Refusal :=
  .next (if decide (s.boot.stage = .powerUp) && (List.range 8).all (fun d => (getDie s d).pll) then
      startDies (railsForRepair (modBoot (fun b => { b with stage := .repair }) s))
    else s)

/-- The core of a dot unit (physical core × 8 + unit). -/
def unitCore (u : Nat) : Nat := u / 8

/-- Physical cores of a set that self-test marks failed (01 R32 steps 2-4): a failed part other than a lane, two failed
lanes in one dot unit, or one more lane where the spare is used. -/
def softFailed (fused lanes : List Nat) (t : SelfTest) : NSet :=
  (naddAll ((t.lanes.filter fun l => decide (2 ≤ l.2) || (decide (1 ≤ l.2) && lanes.contains l.1)).map fun l => unitCore l.1) (naddAll t.cores [])).filter
    fun c => decide (c < 132) && !fused.contains c

/-- Failed logical positions pass to the lowest working spares in order: (physical core, spare) pairs (01 R32 step 5). -/
def assignSpares : List Nat → List Nat → List (Nat × Nat)
  | [], _ => []
  | _, [] => []
  | c :: cs, k :: ks => (c, k) :: assignSpares cs ks

/-- The repair of one set (01 R31-R33, R42). -/
def repairSet (n : Nat) (t : SelfTest) : SetRepair :=
  let fused := naddAll ((Config.fusedCores n).take 4) []
  let lanes := naddAll (Config.fusedLanes n) []
  let soft := softFailed fused lanes t
  let bad := naddAll soft fused
  let spares := [128, 129, 130, 131].filter fun c => !bad.contains c
  let pairs := assignSpares ((fused.filter fun c => decide (c < 128)) ++ soft.filter fun c => decide (c < 128)) spares
  let map := (List.range 128).map fun i => match pairs.find? fun e => e.1 == i with | some e => e.2 | none => i
  let softLanes := (t.lanes.filter fun l => l.2 == 1 && !lanes.contains l.1).map (·.1)
  { fused := (pairs.filter fun e => fused.contains e.1).length, soft := (pairs.filter fun e => soft.contains e.1).length,
    lanes := (naddAll softLanes lanes).filter (fun u => map.contains (unitCore u) && !bad.contains (unitCore u)) |>.length,
    withheld := decide (132 < bad.length + 128), valid := true, map := if pairs.isEmpty then [] else map }

/-- Repair completes on every die (01 R32, R33, R40, R42; 13 R381; 14 R413). -/
def finishRepair (found : List SelfTest) (s : State) : State :=
  let of (n : Nat) : SelfTest := (found.find? fun t => t.set == n).getD ⟨n, [], []⟩
  let sets := (List.range 640).map fun n => (n, repairSet n (of n))
  let held := (sets.filter fun e => e.2.withheld).map (·.1)
  let avail := bitsMask ((List.range 32).filter fun q => !held.any fun n => n / 20 == q)
  let s := { s with sets := sets, qtrAvail := avail }
  let s := (List.range 32).foldl (fun s q => modQtr q (fun x => { x with railOn := false, selfTest := false }) s) s
  let s := held.foldl (fun s n => raise ((faultRec s 0x0101 n 0).withQtr (n / 20)) s) s
  let s := setMeas 5 (measureRepair s) s
  (List.range 8).foldl (fun s d => pulse (srcDie d 4) s) s

/-- Repair ends: at start-up training follows; in a module reset the reset goes on (14 R400; 11 R342). -/
def execRepairDone (found : List SelfTest) (s : State) : Host.Outcome State Fault Refusal :=
  .next (match s.boot.stage with
    | .repair => modBoot (fun b => { b with stage := .training }) (finishRepair found s)
    | .resetting => finishRepair found s
    | _ => s)

/-- Memory training ends (14 R400, R403). -/
def execTrainingDone (failed : Option TrainPart) (s : State) : Host.Outcome State Fault Refusal :=
  .next (if s.boot.stage = .training then
      match failed with
      | none => modBoot (fun b => { b with stage := .init }) s
      | some (.hbm h) => bootNotice (modBoot (fun b => { b with failCode := 0x20 + h.val }) (switchOff .failed s))
      | some (.lpddr p) => bootNotice (modBoot (fun b => { b with failCode := 0x30 + p.val }) (switchOff .failed s))
    else s)

/-- With a coordinate, every enabled port that is OFF turns its transmitters on (10 R304). -/
def startPorts (s : State) : State :=
  if s.fab.valid then
    (List.range 18).foldl (fun s n => if (getPort s n).enable && decide ((getPort s n).st = .off) then setPort n .detect s else s) s
  else s

/-- INIT ends: tiers cleared, the alias key derived, the fuse SVN raised if asked for, and READY (14 R400, R405). -/
def execInitDone (s : State) : Host.Outcome State Fault Refusal :=
  .next (if s.boot.stage = .init then
      let s := { s with mem := { s.mem with t0 := [], t1 := [] } }
      let s := if s.boot.raiseSvn then { s with fuses := { s.fuses with svn := max s.fuses.svn s.boot.imgSvn } } else s
      startPorts (bootNotice (modBoot (fun b => { b with stage := .ready }) (deriveAlias s)))
    else s)

/-- PIN_RESET is recorded; where no module reset follows, its record's ACTION is 0 (log 16). -/
def recordPin (s : State) : State := recordFault { faultRec s 0x0902 0 0 with action := 0 } s

/-- HARD_RST_N asserted acts by stage (14 R400). -/
def execHardRstN (s : State) : Host.Outcome State Fault Refusal :=
  .next (match s.boot.stage with
    | .ready => raiseMod 0x0902 0 0 s
    | .powerUp | .repair | .training | .init =>
      setPlls true (modPwr (fun p => { p with railsOn := true }) (switchOff .powerUp (recordPin s)))
    | _ => if s.boot.aon then recordPin s else s)

/-- PWR_EN deasserted: power-down to STANDBY; it also ends a requested power cycle's first half (13 R397; 11 R344). -/
def execPwrEnDeasserted (s : State) : Host.Outcome State Fault Refusal :=
  .next (if !s.boot.aon then s
    else
      let s := modPwr (fun p => { p with breaker := false }) (modFlt (fun f => { f with cycleReq := false }) s)
      if switchedUp s || decide (s.boot.stage = .failed) then switchOff .standby s
      else if s.boot.stage = .standby then { s with mem := { s.mem with retired0 := [], retired1 := [], retired2 := [], unlisted := [] } } else s)

/-- COOL_OK deasserted with the switched domains up: COOLANT_LOST, and power-down (13 R396). -/
def execCoolantLost (s : State) : Host.Outcome State Fault Refusal :=
  .next (if switchedUp s then raiseMod 0x0808 0 0 s else s)

/-- The background write of a committed image to the boot flash completes (14 R407). -/
def execFlashWriteDone (s : State) : Host.Outcome State Fault Refusal :=
  .next (if s.boot.flashBusy then modBoot (fun b => { b with flash := b.sram, flashSize := b.sramSize, flashBusy := false }) s else s)

/-- The always-on domain goes down and everything it holds is lost (15 R437). -/
def execAlwaysOnLoss (s : State) : Host.Outcome State Fault Refusal := .next (unpowered s)

end Sys2Proof.Machine
end

