-- ==== Sys2Proof/Machine/Contexts.lean ====
section
/-! DEFINITION. Contexts (08 R236, R237; 06 R192, R201): ENABLE, DISABLE, RESET, the end of a context reset, commits and the
reserve; and ring descriptors' commits (08 R240). -/
namespace Sys2Proof.Machine

/-- CTX_STATUS.CODE of a context. -/
def ctxCode (c k : Nat) : State → State := modCtx c fun x => { x with code := k }

/-- The context owns something that keeps it from DISABLED (08 R236). -/
def ctxHolds (s : State) (c : Nat) : Bool :=
  let p := ptnOfCtx s c
  ((mappedObjs s p).any fun e => e.2.ctx == c) || (s.adapters.any fun e => decide (e.2.st ≠ .free) && e.2.ctx == c) ||
  (s.steers.any fun e => decide (e.2.st ≠ .free) && e.2.ctx == c) || (s.masks.any fun e => e.2.set && e.2.ctx == c) ||
  decide (0 < (getCtx s c).held) || !(batchesOfCtx s c).isEmpty || s.rings.any fun e => e.2.cur.enable && e.2.cur.ctx == c

/-- Another partition holds returned objects of the context's number (07 R231). -/
def heldElsewhere (s : State) (c p : Nat) : Bool :=
  s.ptns.any fun e => e.1 != p && e.2.mem.objs.any fun o => decide (o.2.st ≠ .free) && o.2.ctx == c

/-- CTX_CMD of a context, seen and open to the writing function: PERMIT for a VF's ENABLE or DISABLE, STATE while RESETTING or
in another state than the operation needs (08 R236, R237; log 17). -/
def ctxEnable (fn c p : Nat) (s : State) : State :=
  if (getCtx s c).st = .resetting then ctxCode c 1 s
  else if fn ≠ 0 then ctxCode c 4 s
  else if (getCtx s c).st ≠ .disabled then ctxCode c 1 s
  else if !(getPtn s p).exists_ then ctxCode c 2 s
  else if heldElsewhere s c p then ctxCode c 3 s
  else modCtx c (fun x => { x with st := .enabled, ptn := p, code := 0 }) s

def ctxDisable (fn c : Nat) (s : State) : State :=
  if (getCtx s c).st = .resetting then ctxCode c 1 s
  else if fn ≠ 0 then ctxCode c 4 s
  else if (getCtx s c).st ≠ .enabled then ctxCode c 1 s
  else if ctxHolds s c then ctxCode c 3 s
  else modCtx c (fun x => { x with st := .disabled, code := 0 }) s

/-- A HOST_RESET record of a context, whose ACTION is the command's (11 R333). -/
def hostResetCtx (c level : Nat) (s : State) : FaultRec := { (faultRec s 0x0901 0 0).withCtx s c with action := level, scope := 3 }

def ctxReset (c : Nat) (s : State) : State :=
  if (getCtx s c).st ≠ .enabled then ctxCode c 1 s
  else ctxCode c 0 (raise (hostResetCtx c 1 s) s)

/-- BAR0 offset of a context's block. -/
def ctxOff (c : Nat) : Nat := 0x00A00000 + 0x100 * c

def execEnable (fn : FnId) (c : CtxId) (p : PtnId) (s : State) : Host.Outcome State Fault Refusal :=
  .next (hostAccess fn.val (ctxOff c.val) (seesCtx s fn.val c.val) false (ctxEnable fn.val c.val p.val) s)

def execDisable (fn : FnId) (c : CtxId) (s : State) : Host.Outcome State Fault Refusal :=
  .next (hostAccess fn.val (ctxOff c.val) (seesCtx s fn.val c.val) false (ctxDisable fn.val c.val) s)

def execReset (fn : FnId) (c : CtxId) (s : State) : Host.Outcome State Fault Refusal :=
  .next (hostAccess fn.val (ctxOff c.val) (seesCtx s fn.val c.val) false (ctxReset c.val) s)

/-! ### The end of a reset of one context (11 R339 steps 4-6; 08 R262) -/

/-- RESET records of an FLR's reset also wait for a doorbell of their token ring (15 R435, R449). -/
def recsWaitDb (c : Nat) (s : State) : State :=
  (ringsOfCtx s c 2).foldl (fun s r => modRing r (fun x => { x with recs := x.recs.map fun k => if k.type = 7 then { k with needDb := true } else k }) s) s

/-- RESET records and completions of a context, at a level and for a cause. -/
def resetEntries (c level cause : Nat) (db : Bool) (s : State) : State :=
  let s := purgeMoverItems (fun i => i.ctx == c) s
  let bs := batchesOfCtx s c
  let s := recountRefs (bs.foldl (fun s b => passAlpha c b s) (resetBatches c level cause true s))
  let s := if db then recsWaitDb c s else s
  (ringsOfCtx s c 0).foldl (fun s r => noteFull (getRing s r).cur.comp (resetRing r level cause db s)) s

/-- A context in reset receives its entries, once (11 R337). -/
def serveCtxReset (c : Nat) (s : State) : State :=
  match (getCtx s c).reset with
  | some r => modCtx c (fun x => { x with reset := none }) (resetEntries c r.level r.cause r.db s)
  | none => s

/-- A context's reset ends: its entries are written and it is ENABLED. -/
def finishCtxReset (c : Nat) (s : State) : State :=
  if (getCtx s c).st = .resetting then modCtx c (fun x => { x with st := .enabled }) (serveCtxReset c s) else s

/-- A context reset of its own level ends; one taken over by a higher reset ends with that (11 R337, R339). -/
def execContextResetDone (c : CtxId) (s : State) : Host.Outcome State Fault Refusal :=
  .next (match (getCtx s c.val).reset with
    | some r => if r.level = 1 ∧ isReady s = true then finishCtxReset c.val s else s
    | none => s)

/-! ### Commits (00 R10) -/

/-- CTX_COMMIT: staged until the partition's next round boundary while it runs, otherwise in effect now (08 R236, R237). -/
def ctxCommitNow (c : Nat) (s : State) : State :=
  let x := getCtx s c
  if decide (x.st ≠ .disabled) && ptnRuns (getPtn s x.ptn) then modCtx c (fun x => { x with staged := some x.sh }) s
  else
    let s := modCtx c (fun x => { x with cur := x.sh, staged := none }) s
    if x.st = .disabled then s else pulse (srcPtn x.ptn 4) s

def execCtxCommit (fn : FnId) (c : CtxId) (s : State) : Host.Outcome State Fault Refusal :=
  .next (hostAccess fn.val (ctxOff c.val + 8) (seesCtx s fn.val c.val) false (ctxCommitNow c.val) s)

/-- A context's staged set takes effect. -/
def ctxTakeStaged (c : Nat) (s : State) : State :=
  match (getCtx s c).staged with
  | some y => pulse (srcPtn (ptnOfCtx s c) 4) (modCtx c (fun x => { x with cur := y, staged := none }) s)
  | none => s

/-- Contexts whose attention fields a partition's commit stages: those bound to it (06 R201). -/
def boundCtxs (s : State) (p : Nat) : List Nat := ctxsOf s p

/-- ATT_COMMIT of a partition. -/
def attCommitNow (p : Nat) (s : State) : State :=
  if ptnRuns (getPtn s p) then
    modAtt p (fun a => { a with pending := true }) ((boundCtxs s p).foldl (fun s c => modCtx c (fun x => { x with attStaged := some x.attSh }) s) s)
  else pulse (srcPtn p 4) (modAtt p (fun a => { a with pending := false })
    ((boundCtxs s p).foldl (fun s c => modCtx c (fun x => { x with attCur := x.attSh, attStaged := none }) s) s))

def attTakeStaged (p : Nat) (s : State) : State :=
  if (getPtn s p).att.pending then
    pulse (srcPtn p 4) (modAtt p (fun a => { a with pending := false })
      ((boundCtxs s p).foldl (fun s c => modCtx c (fun x => match x.attStaged with | some y => { x with attCur := y, attStaged := none } | none => x) s) s))
  else s

def execAttCommit (fn : FnId) (p : PtnId) (s : State) : Host.Outcome State Fault Refusal :=
  .next (hostAccess fn.val (0x01801014 + 0x1000 * p.val) (seesPtn s fn.val p.val) false (attCommitNow p.val) s)

/-! ### The KV reserve (06 R192) -/

/-- ATT_CTX_RESERVE: RWL of the context's partition; refused when the partition's reserves would exceed its pool. -/
def writeReserve (fn c v : Nat) (s : State) : State :=
  let x := getCtx s c
  let n := v % 2 ^ 24
  if x.st = .disabled then modCtx c (fun x => { x with reserve := n }) s
  else if ptnRuns (getPtn s x.ptn) then flagLocked fn s
  else if (getPtn s x.ptn).att.poolPages < n + (((ctxsOf s x.ptn).filter fun d => d != c).map fun d => (getCtx s d).reserve).sum then
    modAtt x.ptn (fun a => { a with resRefused := true }) s
  else modCtx c (fun x => { x with reserve := n }) s

def execReserveWrite (fn : FnId) (c : CtxId) (val : Word) (s : State) : Host.Outcome State Fault Refusal :=
  .next (hostAccess fn.val (0x01840000 + 0x40 * c.val) (seesCtx s fn.val c.val) false (writeReserve fn.val c.val val.toNat) s)

/-! ### Ring descriptors (08 R239, R240) -/

/-- A standing row names a token ring, or it holds a pending record (09 R294). -/
def ringNamed (s : State) (r : Nat) : Bool :=
  !(getRing s r).recs.isEmpty || s.ptns.any fun e => e.2.batches.any fun b => b.2.open_ && b.2.rows.any fun w => decide (w.2.st ≠ .empty) && w.2.desc.ring == r

/-- A staged set is discarded (08 R240). -/
def ringSetBad (s : State) (r : Nat) (n : RingSh) : Bool :=
  let x := getRing s r
  let o := x.cur
  if o.enable && n.enable then
    decide (o.type ≠ n.type) || decide (o.size ≠ n.size) || decide (o.base ≠ n.base) || decide (o.ctx ≠ n.ctx) || decide (o.comp ≠ n.comp)
  else if n.enable then
    let k := getRing s n.comp
    !x.assigned || !(decide ((getCtx s n.ctx).st = .enabled) && (getCtx s n.ctx).ptn == x.ptn) || n.type == 3 || decide (n.size < 6) ||
      decide (20 < n.size) || n.base == 0 || (n.type == 0 && !(k.cur.enable && k.cur.type == 1 && k.cur.ctx == n.ctx))
  else if o.enable then
    (o.type == 0 && (decide (x.head ≠ x.tail) || !x.started.isEmpty)) ||
    (o.type == 1 && s.rings.any fun e => e.2.cur.enable && e.2.cur.type == 0 && e.2.cur.comp == r) ||
    (o.type == 2 && ringNamed s r)
  else false

/-- A checked set takes effect; enabling starts the indices at 0. -/
def ringTake (r : Nat) (n : RingSh) (s : State) : State :=
  if ringSetBad s r n then modRing r (fun x => { x with refused := true, staged := none }) s
  else modRing r (fun x =>
    if n.enable && !x.cur.enable then { x with cur := n, staged := none, head := 0, tail := 0, started := [], fullNoted := false, parkNoted := false, resets := [], resetEnts := [], recs := [], made := [] }
    else { x with cur := n, staged := none }) s

/-- RING_CTL's shadow fields. -/
def ringCtlSh (v : Nat) (x : RingSh) : RingSh := { x with type := bits v 0 2, enable := bit v 2, notify := bit v 3, size := bits v 8 5 }

/-- A write of RING_CTL: the shadow fields, then COMMIT if written 1 (00 R7, R10). -/
def writeRingCtl (r v : Nat) (s : State) : State :=
  let s := modRing r (fun x => { x with sh := ringCtlSh v x.sh }) s
  let x := getRing s r
  if !bit v 16 then s
  else if x.assigned && ptnRuns (getPtn s x.ptn) then modRing r (fun x => { x with staged := some x.sh }) s
  else ringTake r x.sh s

def ringOff (r : Nat) : Nat := 0x00800000 + 0x40 * r

def execRingCommit (fn : FnId) (r : RingId) (val : Word) (s : State) : Host.Outcome State Fault Refusal :=
  .next (hostAccess fn.val (ringOff r.val) (seesRing s fn.val r.val) false (writeRingCtl r.val val.toNat) s)

/-- Rings' staged sets of a partition take effect at its round boundary, in ring order. -/
def ringsTakeStaged (p : Nat) (s : State) : State :=
  (s.rings.filter fun e => e.2.assigned && e.2.ptn == p && e.2.staged.isSome).foldl (fun s e =>
    match (getRing s e.1).staged with | some n => ringTake e.1 n s | none => s) s

/-- Staged context, attention, ring and fault-block sets of a partition take effect, in that order (00 R10). -/
def takeStaged (p : Nat) (s : State) : State :=
  let s := (boundCtxs s p).foldl (fun s c => ctxTakeStaged c s) s
  let s := ringsTakeStaged p (attTakeStaged p s)
  modPFlt p (fun f => match f.staged with | some y => { f with cur := y, staged := none } | none => f) s

end Sys2Proof.Machine
end

