-- ==== Sys2Proof/Machine/Events.lean ====
section
/-! DEFINITION. The event controller's commands (12): host writes of its registers, filters, deliveries, returns, gaps and
moderation intervals. -/
namespace Sys2Proof.Machine

/-- The PF may change a source's pending and mask bits and configuration: its TARGET is 0 or 10 (12 R365). -/
def pfOwns (s : State) (n : Nat) : Bool := (srcCfg s n).target == 0 || (srcCfg s n).target == 10

/-- The sources of register `k` that a written value names. -/
def srcBits (k : Nat) (v : Word) : List Nat := (maskBits v.toNat 32).map fun j => 32 * k + j

/-- A PF write acts on the sources it may change; any other named source sets OWNED (12 R365). -/
def onSources (ok : State → Nat → Bool) (act : Nat → State → State) (ns : List Nat) (s : State) : State :=
  ns.foldl (fun s n => if ok s n then act n s else modEvc (fun e => { e with owned := true }) s) s

/-- EVC_PEND_CLR: every named bit is cleared, and level sources that are still asserted are pending again in the next cycle (12 R364). -/
def clearPends (ns : List Nat) (s : State) : State := (ns.filter (pfOwns s)).foldl (fun s n => reassert n s) (onSources pfOwns dropPend ns s)

/-- EVC_PEND_SET (12 R364, R365): the PF sets software sources only. -/
def execEvcPendSet (fn : FnId) (k : Fin 128) (val : Word) (s : State) : Host.Outcome State Fault Refusal :=
  .next (hostAccess fn.val (0x101000 + 4 * k.val) (fn.val == 0) true (onSources (fun _ n => isSoftware n) setPend (srcBits k.val val)) s)

/-- EVC_PEND_CLR (12 R364, R365). -/
def execEvcPendClr (fn : FnId) (k : Fin 128) (val : Word) (s : State) : Host.Outcome State Fault Refusal :=
  .next (hostAccess fn.val (0x101200 + 4 * k.val) (fn.val == 0) true (clearPends (srcBits k.val val)) s)

/-- EVC_MASK_SET (12 R364, R365). -/
def execEvcMaskSet (fn : FnId) (k : Fin 128) (val : Word) (s : State) : Host.Outcome State Fault Refusal :=
  .next (hostAccess fn.val (0x101400 + 4 * k.val) (fn.val == 0) true (onSources pfOwns mask (srcBits k.val val)) s)

/-- EVC_MASK_CLR (12 R364, R365). -/
def execEvcMaskClr (fn : FnId) (k : Fin 128) (val : Word) (s : State) : Host.Outcome State Fault Refusal :=
  .next (hostAccess fn.val (0x101600 + 4 * k.val) (fn.val == 0) true (onSources pfOwns unmask (srcBits k.val val)) s)

/-- The EVC_ERR flags that a PF configuration write sets: each rule that refuses it sets its own (12 R365, R366). -/
def cfgFlags (owned unm inv : Bool) : State → State :=
  modEvc fun e => { e with owned := e.owned || owned, cfgUnm := e.cfgUnm || unm, cfgInv := e.cfgInv || inv }

/-- EVC_SRC_CFG of a source, written by the PF (12 R365, R366, R378). -/
def writeSrcCfg (n : Nat) (v : Nat) (s : State) : State :=
  let t := bits v 12 4
  let bad := !pfOwns s n || !(t == 0 || t == 10)
  let unm := isUnmasked s n
  let inv := decide (12 ≤ t)
  if bad || unm || inv then cfgFlags bad unm inv s
  else
    let s := modEvc (fun e => { e with src := tmod {} n (fun c => { c with filter := bits v 0 8, edge := if isCondition n then bit v 8 else c.edge, prio := bits v 9 3, target := t }) e.src }) s
    reassert n s

def execEvcSrcCfg (fn : FnId) (n : SrcId) (val : Word) (s : State) : Host.Outcome State Fault Refusal :=
  .next (hostAccess fn.val (0x102000 + 8 * n.val) (fn.val == 0) true (writeSrcCfg n.val val.toNat) s)

/-- EVC_SRC_DEST of a source, written by the PF (12 R365, R366, R378). -/
def writeSrcDest (n : Nat) (v : Nat) (s : State) : State :=
  let f := bits v 12 6
  let i := bits v 0 12
  let bad := !pfOwns s n
  let unm := isUnmasked s n
  let inv := decide (32 < f) || ((srcCfg s n).target == 10 && decide (tableSize s f ≤ i))
  if bad || unm || inv then cfgFlags bad unm inv s
  else modEvc (fun e => { e with src := tmod {} n (fun c => { c with index := i, fn := f }) e.src }) s

def execEvcSrcDest (fn : FnId) (n : SrcId) (val : Word) (s : State) : Host.Outcome State Fault Refusal :=
  .next (hostAccess fn.val (0x102004 + 8 * n.val) (fn.val == 0) true (writeSrcDest n.val val.toNat) s)

/-- EVC_VF_VECTORS of VF `v`: refused while VF Enable is set, when the sum would exceed 2,048, or outside 1-2,048 (12 R379). -/
def writeVfVectors (v count : Nat) (s : State) : State :=
  let sum := ((List.range 32).map fun w => if w + 1 = v then count else tableSize s (w + 1)).sum
  if s.vfEnable ∨ 2048 < sum ∨ count = 0 then modEvc (fun e => { e with vfRef := true }) s
  else modEvc (fun e => { e with vfVec := tset 0x40 v count e.vfVec }) s

def execEvcVfVectors (fn : FnId) (v : Fin 32) (val : Word) (s : State) : Host.Outcome State Fault Refusal :=
  .next (hostAccess fn.val (0x114000 + 4 * v.val) (fn.val == 0) true (writeVfVectors (v.val + 1) (bits val.toNat 0 12)) s)

/-- A condition source's raw level has held for FILTER cycles (12 R363). -/
def execFilterExpiry (n : SrcId) (level : Bool) (s : State) : Host.Outcome State Fault Refusal :=
  .next (if s.boot.aon && isCondition n.val then setLevel n.val level s else s)

/-- Delivery of a source to its processor (12 R367; 14 R419). -/
def deliverTo (t n : Nat) (s : State) : State :=
  let c := srcCfg s n
  let s := modTgt t (fun x => { x with levels := c.prio :: x.levels, cause := n, handler := x.base * 65536 + 16 * c.index, sleeping := false }) s
  let s := countTgt t s
  if srcEdge s n then modEvc (fun e => { e with pend := ndel n e.pend }) s else s

def execEventDelivery (target : Fin 16) (s : State) : Host.Outcome State Fault Refusal :=
  .next (if 1 ≤ target.val ∧ target.val ≤ 9 then (match deliverable s target.val with | some n => deliverTo target.val n s | none => s) else s)

/-- A sleeping processor wakes when any source of its target is pending and unmasked (12 R368). -/
def execWfiWake (target : Fin 16) (s : State) : Host.Outcome State Fault Refusal :=
  .next (if (getTgt s target.val).sleeping && !(ready s target.val).isEmpty then modTgt target.val (fun x => { x with sleeping := false }) s else s)

/-- MRET from a handler restores the earlier LEVEL and starts the moderation gap (12 R367, R369; 14 R419). -/
def execHandlerReturn (target : Fin 16) (s : State) : Host.Outcome State Fault Refusal :=
  .next (if (getTgt s target.val).levels.isEmpty then s
    else modTgt target.val (fun x => { x with levels := x.levels.tail, inGap := decide (x.gap ≠ 0) }) s)

/-- The moderation gap ends; a processor without a handler goes back to its wait instruction (12 R369; log 10). -/
def execModerationGapEnd (target : Fin 16) (s : State) : Host.Outcome State Fault Refusal :=
  .next (if (getTgt s target.val).inGap then modTgt target.val (fun x => { x with inGap := false, sleeping := x.levels.isEmpty }) s else s)

/-- The function and table entry of host vector `e` (12 R370). -/
def vecOf (s : State) (e : Nat) : Nat × Nat :=
  if e < 2048 then (0, e)
  else
    ((List.range 32).foldl (fun (acc : Option (Nat × Nat) × Nat) v =>
      let n := tableSize s (v + 1)
      match acc.1 with
      | some x => (some x, acc.2)
      | none => if acc.2 < n then (some (v + 1, acc.2), 0) else (none, acc.2 - n)) (none, e - 2048)).1.getD (0, e)

/-- A vector's interval has passed: held signals go out as one message (12 R371). -/
def execHoldIntervalEnd (e : Fin 4096) (s : State) : Host.Outcome State Fault Refusal :=
  .next (let v := getHVec s e.val
    if !v.running then s
    else if v.held then vecMessage (vecOf s e.val).1 (vecOf s e.val).2 s
    else modHVec e.val (fun v => { v with running := false }) s)

end Sys2Proof.Machine
end

