-- ==== Sys2Proof/Machine/HostMem.lean ====
section
/-! DEFINITION. Host access to objects through BAR4 (07 R217; 15 R433, R434), quotas (07 R209, R232) and the KV pool's registers
(06 R201). -/
namespace Sys2Proof.Machine

/-- The partition that a function's BAR4 shows: MEM_BAR4_SEL's for the PF, its own for a VF. -/
def bar4Ptn (s : State) (fn : Nat) : Option Nat := if fn = 0 then some s.mem.bar4Sel else ptnOfFn s fn

/-- A BAR4 access that is open goes to the function's partition; in any other stage than READY it is unmapped (14 R402). A VF that is
bound to no partition has no subset: its access is counted in the module log, like any access outside a subset (00 R7, R15; log 33). -/
def bar4Access (fn addr : Nat) (go : Nat → State → State) (closed : State → State) (s : State) : State :=
  if !barOpen s fn then s
  else if !isReady s then closed (flagUnmapped fn s)
  else match bar4Ptn s fn with
    | some p => go p s
    | none => closed (vfAccess fn addr s)

/-- One page's part of a BAR4 read: data, EP, and whether it was unmapped. -/
def bar4Part (s : State) (p a n : Nat) : List Byte × Bool × Bool :=
  match objAt s p a with
  | none => (List.replicate n 0, false, true)
  | some _ => let x := readPart s p none a n; (x.1, x.2, false)

/-- A BAR4 read (07 R217): unmapped parts read 0, poisoned lines set EP. -/
def bar4ReadGo (a n p : Nat) (s : State) : State :=
  let xs := (rangeParts a n).map fun x => bar4Part s p x.1 x.2
  let ep := xs.any fun x => x.2.1
  let um := xs.any fun x => x.2.2
  let s := if ep || um then modPMem p (fun m => { m with bar4Poison := m.bar4Poison || ep, bar4Unmapped := m.bar4Unmapped || um }) s else s
  readOut (xs.flatMap fun x => x.1) ep s

def execBar4Read (fn : FnId) (addr len : Nat) (s : State) : Host.Outcome State Fault Refusal :=
  .next (bar4Access fn.val addr (bar4ReadGo addr len) (readOut (List.replicate len 0) false) s)

/-- A received write with the EP bit is logged (15 R434). -/
def logPoisoned (fn : Nat) (ep : Bool) (s : State) : State := if ep then modFn fn (fun x => { x with aer := { x.aer with poisoned := true } }) s else s

/-- A BAR4 write (07 R217, R434): unmapped and read-only parts are discarded, the others written with the EP bit as poison. -/
def bar4WriteGo (a : Nat) (data : List Byte) (ep : Bool) (p : Nat) (s : State) : State :=
  (rangeParts a data.length).foldl (fun s x =>
    match objAt s p x.1 with
    | none => modPMem p (fun m => { m with bar4Unmapped := true }) s
    | some (_, o) =>
      if pageRO s p o x.1 then modPMem p (fun m => { m with bar4Ro := true }) s
      else writePart p x.1 ((data.drop (x.1 - a)).take x.2) ep s) s

def execBar4Write (fn : FnId) (addr : Nat) (data : List Byte) (ep : Bool) (s : State) : Host.Outcome State Fault Refusal :=
  .next (bar4Access fn.val addr (fun p s => bar4WriteGo addr data ep p (logPoisoned fn.val ep s)) id s)

/-! ### Quotas -/

/-- T1 and T2 pages available to partitions (07 R203, R232). -/
def tierTotal (t : Nat) : Nat := if t = 1 then 9371648 else 24 * (t2Pkg - 2048)

def quotaOf (t : Nat) (m : PMem) : Nat := if t = 1 then m.t1Quota else m.t2Quota

/-- A quota write: ignored below the use, or above what the others leave (07 R232). -/
def writeQuota (p t v : Nat) (s : State) : State :=
  let n := v % 2 ^ (if t = 1 then 24 else 27)
  let others := ((s.ptns.filter fun e => e.1 != p).map fun e => quotaOf t e.2.mem).sum
  if n < tierUse s p t ∨ tierTotal t < others + n then modPMem p (fun m => { m with quotaRefused := true }) s
  else modPMem p (fun m => if t = 1 then { m with t1Quota := n } else { m with t2Quota := n }) s

def memOff (p : Nat) : Nat := 0x00C01000 + 0x1000 * p

def execQuotaWrite (fn : FnId) (p : PtnId) (t2 : Bool) (pages : Word) (s : State) : Host.Outcome State Fault Refusal :=
  .next (hostAccess fn.val (memOff p.val + (if t2 then 4 else 0)) (fn.val == 0) false (writeQuota p.val (if t2 then 2 else 1) pages.toNat) s)

/-! ### The KV page pool (06 R192, R201) -/

/-- The pool lies off 64 KiB, or outside T0 and T1 of the partition. -/
def poolMisplaced (s : State) (p : Nat) : Bool :=
  let x := (getPtn s p).att
  decide (x.poolBase % 65536 ≠ 0) || (x.poolPages != 0 && !rangeNear s p x.poolBase (x.poolPages * pageBytes))

/-- A write of a pool register: RWL, ignored while pages are held; a misplaced pool has no pages. -/
def writePool (fn p : Nat) (r : PoolReg) (v : Nat) (s : State) : State :=
  let x := (getPtn s p).att
  if ptnRuns (getPtn s p) then flagLocked fn s
  else if x.poolUsed ≠ [] then modAtt p (fun a => { a with poolBusy := true }) s
  else
    let s := modAtt p (fun a =>
      match r with
      | .baseLo => { a with poolBase := pair v (a.poolBase / 2 ^ 32) }
      | .baseHi => { a with poolBase := pair a.poolBase v }
      | .pages => { a with poolPages := v % 2 ^ 24 }) s
    if poolMisplaced s p then modAtt p (fun a => { a with poolBad := true, poolPages := 0 }) s else s

def attOff (p : Nat) : Nat := 0x01801000 + 0x1000 * p

def execPoolWrite (fn : FnId) (p : PtnId) (reg : PoolReg) (val : Word) (s : State) : Host.Outcome State Fault Refusal :=
  .next (hostAccess fn.val (attOff p.val + (match reg with | .baseLo => 0 | .baseHi => 4 | .pages => 8)) (seesPtn s fn.val p.val) false (writePool fn.val p.val reg val.toNat) s)

end Sys2Proof.Machine
end

