-- ==== Sys2Proof/Machine/Power.lean ====
section
/-! DEFINITION. Current, clocks and heat (13): the cap and the budgets, the clamp, the brake, the sensors and thermal limits,
coolant, rails and PLLs. What is measured and when a wait has passed come with the command (logs 12, 13). -/
namespace Sys2Proof.Machine

/-! ### The cap and the budgets (13 R383, R390, R391) -/

/-- The target of R390. -/
def capTarget (w : Pwr) : Nat := min 4800 (min w.tray w.hostCap)

/-- C moves at most 240 W toward the target. -/
def rampCap (c t : Nat) : Nat := if c < t then min t (c + 240) else max t (c - 240)

/-- What the recomputation measured is stored (13 R380, R383, R399). -/
def storeMeasure (m : Measure) (s : State) : State :=
  let s := (List.range 32).foldl (fun s q => modQtr q (fun x => { x with current := min 4095 (m.qtrAmps.getD q 0) }) s) s
  let odd := (decide (896 ≤ m.volts) && decide (m.volts < 928)) || (decide (1056 < m.volts) && decide (m.volts ≤ 1088))
  modPwr (fun w => { w with inputW := min 8191 m.inputW, volts := min 4095 m.volts, amps := min 4095 m.amps,
                            otherW := min 8191 (m.inputW - m.coreW), marginal := w.marginal || odd, refreshed := s.time }) s

/-- One step of the ramp; a target that a message set is answered when C reaches it. -/
def moveCap (s : State) : State :=
  let t := capTarget s.pwr
  let c := rampCap s.pwr.cap t
  let s := modPwr (fun w => { w with cap := c, capUnmet := decide (c < 1200) }) s
  if c = t ∧ s.pwr.notice then mctpSend 0x03 0 0 (leBytes 2 c) (modPwr (fun w => { w with notice := false }) s) else s

/-- The cap that acts (13 R391). -/
def actingCap (s : State) : Nat := max 1200 s.pwr.cap

/-- A partition's WEIGHT; 0 acts as 1. -/
def ptnWeight (s : State) (p : Nat) : Nat := max 1 (getPtn s p).pwr.weight

/-- Running, not parked (13 R383). -/
def sharing (s : State) (p : Nat) : Bool := ptnRuns (getPtn s p) && !(getPtn s p).pwr.parked

/-- The new budget of a partition's quarters, 1/16 A. -/
def newBudget (s : State) (p : Nat) : Nat :=
  let allow := actingCap s - s.pwr.otherW - 100
  let sum := (((livePtns s).filter (sharing s)).map (ptnWeight s)).sum + (if sharing s p then 0 else ptnWeight s p)
  min 2560 (16 * allow * ptnWeight s p * 100 / (sum * max 1 (qtrsOf s p).length * 65))

/-- A quarter's new budget is applied, or waits for the slower divider when its ticket in force lies above it. -/
def giveBudget (b q : Nat) (s : State) : State :=
  modQtr q (fun x => if x.budget ≤ b ∨ x.ticket ≤ b then { x with budget := b, nextBudget := none } else { x with nextBudget := some b }) s

/-- Every quarter's budget. -/
def setBudgets (s : State) : State :=
  let bs := (livePtns s).map fun p => (p, newBudget s p)
  let s := bs.foldl (fun s e => (qtrsOf s e.1).foldl (fun s q => giveBudget e.2 q s) s) s
  let s := (List.range 32).foldl (fun s q => if (ptnOfQtr s q).isSome then s else modQtr q (fun x => { x with budget := 2560, nextBudget := none }) s) s
  (livePtns s).foldl (fun s p => if divTarget s p ≤ (getPtn s p).pwr.divActive then takeBudgets p s else s) s

/-- A partition's ÷8 tickets. -/
def slowTickets (s : State) (p : Nat) : Nat :=
  match (getPtn s p).figure with | some f => ((List.range (qtrsOf s p).length).map fun k => ticketOf f k 3).sum | none => 0

/-- First among partitions by a strict order; ties go to the one met first. -/
def bestBy (lt : Nat → Nat → Bool) (ps : List Nat) : Option Nat :=
  ps.foldl (fun b p => match b with | none => some p | some q => if lt p q then some p else some q) none

/-- The partition that parks next: lowest PRIORITY, then the higher number. -/
def parkNext (s : State) : Option Nat :=
  bestBy (fun a b => decide ((getPtn s a).pwr.prio < (getPtn s b).pwr.prio))
    ((livePtns s).filter fun p => sharing s p && !(getPtn s p).pwr.parkWant).reverse

/-- The partition that unparks next: highest PRIORITY, then the lower number. -/
def unparkNext (s : State) : Option Nat :=
  bestBy (fun a b => decide ((getPtn s b).pwr.prio < (getPtn s a).pwr.prio)) ((livePtns s).filter fun p => (getPtn s p).pwr.parked)

/-- The input allows a partition back below the floor. -/
def inputAllows (s : State) (p : Nat) : Bool := decide ((s.pwr.inputW + 100) * 1600 + slowTickets s p * 65 ≤ actingCap s * 1600)

/-- Parking and unparking of one recomputation. -/
def parkOrUnpark (s : State) : State :=
  if s.pwr.cap < 1600 ∧ actingCap s < s.pwr.inputW then
    match parkNext s with | some p => startPark p s | none => s
  else
    let s := if 1600 ≤ s.pwr.cap then ((livePtns s).filter fun p => (getPtn s p).pwr.parkWant).foldl (fun s p => unpark p s) s else s
    match unparkNext s with
    | some p => if 1600 ≤ s.pwr.cap ∨ inputAllows s p = true then unpark p s else s
    | none => s

/-- SET_CAP: the source pulses, and the ramp heads for the new target; a value that PWR_CAP.TRAY_W cannot show reads as its
largest (13 R390). -/
def setCap (capW : Nat) (s : State) : Nat × List Byte × State :=
  if 65536 ≤ capW then (1, [], s) else (0, [], pulse srcCapMsg (modPwr (fun w => { w with tray := min 8191 capW, notice := true }) s))

def execSetCap (capW : Nat) (s : State) : Host.Outcome State Fault Refusal := .next (mgmtServe 0x02 0 standbyUp (setCap capW) s)

/-! ### The clamp (13 R385) -/

def execClampStart (q : QtrId) (s : State) : Host.Outcome State Fault Refusal :=
  .next (if (getQtr s q.val).railOn then mirrorGuard (modQtr q.val (fun x => { x with clamping := true }) s) else s)

def execClampEnd (q : QtrId) (gated : Nat) (s : State) : Host.Outcome State Fault Refusal :=
  .next (if (getQtr s q.val).clamping then modQtr q.val (fun x => { x with clamping := false, clampCycles := satAdd 32 x.clampCycles gated }) s else s)

/-! ### The brake (13 R392, R393) -/

def execBrake (s : State) : Host.Outcome State Fault Refusal :=
  .next (if s.boot.aon && !s.pwr.brake then
      let s := modPwr (fun w => { w with brake := true, brakeWait := false }) s
      let s := (livePtns s).foldl (fun s p => setDivider p 3 (modPPwr p (fun x => { x with brakePos := none }) s)) s
      raiseMod 0x0805 0 0 (mirrorGuard s)
    else s)

def execBrakeRelease (s : State) : Host.Outcome State Fault Refusal :=
  .next (if s.pwr.brake then modPwr (fun w => { w with brake := false, brakeWait := true }) s else s)

/-- The 100 µs have passed: partitions with rounds return stepwise. -/
def execBrakeReturn (s : State) : Host.Outcome State Fault Refusal :=
  .next (if s.pwr.brakeWait then
      let s := modPwr (fun w => { w with brakeWait := false }) s
      limitsChanged ((livePtns s).foldl (fun s p =>
        if divTarget s p < (getPtn s p).pwr.divActive then modPPwr p (fun x => { x with brakePos := some s.time }) s else s) s)
    else s)

/-! ### Heat (13 R389, R394-R396) -/

/-- Temperatures in the log and registers are 12 bits of 1/16 °C. -/
def temp12 (t : Nat) : Nat := min 4095 t

/-- The hottest junction of a quarter: its own sensors and its die's base-die sensors (R394). -/
def qtrHot (s : State) (q : Nat) : Nat :=
  max ((List.range 4).foldl (fun m k => max m (tget 0 (getQtr s q).temps k)) 0) ((List.range 2).foldl (fun m k => max m (tget 0 (getDie s (q / 4)).temps k)) 0)

/-- The hottest of a partition's quarters, the lowest-numbered of equals. -/
def ptnHot (s : State) (p : Nat) : Nat × Nat :=
  (qtrsOf s p).foldl (fun m q => if m.2 < qtrHot s q then (q, qtrHot s q) else m) ((qtrsOf s p).headD 0, 0)

/-- Lower bounds of the junction rows 1-4, 1/16 °C. -/
def rowBounds : List Nat := [1520, 1568, 1616, 1680]

/-- The junction row of a temperature; 115 °C is the trip logic's. -/
def junctionRow (t : Nat) : Nat := (rowBounds.filter fun b => decide (b ≤ t)).length

/-- A partition enters a stricter row; 115 °C and above belongs to the trip logic, which acts alone (R394, R395; log 55). -/
def junctionStep (p : Nat) (s : State) : State :=
  let h := ptnHot s p
  let row := junctionRow h.2
  if 1840 ≤ h.2 then s
  else if (getPtn s p).pwr.junction < row then
    let s := modPPwr p (fun x => { x with junction := row }) s
    if row = 4 then raise ((faultRec s 0x0802 h.1 (temp12 h.2)).withQtr h.1) s
    else pulse (srcDie (h.1 / 4) 2) (raise ((faultRec s 0x0801 h.1 row).withQtr h.1) s)
  else s

/-- A memory sensor above 105 °C raises THERMAL_LIMIT once (R394). -/
def memoryHot (key die t : Nat) (s : State) : State :=
  if 1680 < t then
    if nhas s.pwr.overTemp key then s
    else raise ((faultRec s 0x0802 (4 * die) (temp12 t)).withDie die) (modPwr (fun w => { w with overTemp := nadd key w.overTemp }) s)
  else modPwr (fun w => { w with overTemp := ndel key w.overTemp }) s

def execSensorSample (sensor : Sensor) (temp : Nat) (s : State) : Host.Outcome State Fault Refusal :=
  .next (let t := temp12 temp
    match sensor with
    | .quarter q k =>
      if !switchedUp s then s
      else
        let s := modQtr q.val (fun x => { x with temps := tset 0 k.val t x.temps }) s
        match ptnOfQtr s q.val with | some p => limitsChanged (junctionStep p s) | none => s
    | .baseDie d k =>
      if !switchedUp s then s
      else
        let s := modDie d.val (fun x => { x with temps := tset 0 k.val t x.temps }) s
        limitsChanged ((ptnsOfDie s d.val).foldl (fun s p => junctionStep p s) s)
    | .hbm h => if !switchedUp s then s else memoryHot h.val h.val t (modPwr (fun w => { w with hbm := tset 0 h.val t w.hbm }) s)
    | .lpddr n => if !switchedUp s then s else memoryHot (8 + n.val) (n.val / 3) t (modPwr (fun w => { w with lpddr := tset 0 n.val t w.lpddr }) s)
    | .regulator r => if switchedUp s || (s.boot.aon && r.val == 72) then modPwr (fun w => { w with regs := tset 0 r.val t w.regs }) s else s)

/-- The partition moves up by one row (R394). -/
def execThermalRowLeave (p : PtnId) (s : State) : Host.Outcome State Fault Refusal :=
  .next (let j := (getPtn s p.val).pwr.junction
    if j ≠ 0 ∧ (ptnHot s p.val).2 + 48 ≤ rowBounds.getD (j - 1) 0 then limitsChanged (modPPwr p.val (fun x => { x with junction := j - 1 }) s) else s)

/-- The neighbour step of a hotter quarter's partition (R389). -/
def stepDown (p q t : Nat) (s : State) : State :=
  let x := (getPtn s p).pwr
  if max x.nbr x.divActive < 3 then limitsChanged (modPPwr p (fun x => { x with nbr := max x.nbr x.divActive + 1 }) s)
  else if x.nbrLimit then s
  else raise ((faultRec s 0x0802 q (temp12 t)).withQtr q) (modPPwr p (fun x => { x with nbrLimit := true }) s)

def execNeighbourStep (q1 q2 : QtrId) (s : State) : Host.Outcome State Fault Refusal :=
  .next (match ptnOfQtr s q1.val, ptnOfQtr s q2.val with
    | some a, some b =>
      let t1 := qtrHot s q1.val
      let t2 := qtrHot s q2.val
      if a = b ∨ adjacent q1.val q2.val = false then s
      else if t2 + 320 < t1 then stepDown a q1.val t1 s
      else if t1 + 320 < t2 then stepDown b q2.val t2 s
      else s
    | _, _ => s)

/-- No quarter of the partition is more than 17 °C hotter than a neighbour of another partition. -/
def nbrsCalm (s : State) (p : Nat) : Bool := (nbrPairs s p).all fun e => decide (qtrHot s e.1 ≤ qtrHot s e.2.1 + 272)

def execNeighbourStepLift (p : PtnId) (s : State) : Host.Outcome State Fault Refusal :=
  .next (if (getPtn s p.val).pwr.nbr ≠ 0 ∧ nbrsCalm s p.val = true then
      limitsChanged (modPPwr p.val (fun x => { x with nbr := x.nbr - 1, nbrLimit := false }) s)
    else s)

/-- A junction at 115 °C or above, with the switched domains up (R395). -/
def execThermalTrip (sensor temp : Nat) (s : State) : Host.Outcome State Fault Refusal :=
  .next (if switchedUp s ∧ 1840 ≤ temp then raiseMod 0x0803 sensor (temp12 temp) (pulse srcThermalTrip s) else s)

/-- The coolant divider of an inlet temperature. -/
def coolDivOf (t : Nat) : Nat := if 800 < t then 3 else if 720 < t then 2 else 0

def execCoolantSample (inlet outlet : Nat) (s : State) : Host.Outcome State Fault Refusal :=
  .next (if s.boot.aon then
      let s := modPwr (fun w => { w with inlet := temp12 inlet, outlet := temp12 outlet }) s
      let d := coolDivOf inlet
      if s.pwr.coolDiv < d then
        let first := !s.pwr.coolHot
        let s := modPwr (fun w => { w with coolDiv := d, coolHot := true }) s
        limitsChanged (if first then raise (faultRec s 0x0802 0 (temp12 inlet)) s else s)
      else s
    else s)

def execCoolantLift (s : State) : Host.Outcome State Fault Refusal :=
  .next (if s.pwr.coolDiv ≠ 0 ∧ s.pwr.inlet ≤ 688 then limitsChanged (modPwr (fun w => { w with coolDiv := 0, coolHot := false }) s) else s)

/-! ### Rails, breaker, PLLs, voltages (13 R380, R381, R387; 15 R437; 01 R37) -/

def execRailFault (rail amps : Nat) (s : State) : Host.Outcome State Fault Refusal :=
  .next (if s.boot.aon ∧ rail ≤ 73 then raiseMod 0x0807 rail amps s else s)

/-- The breaker opens: reported as rail 73; it stays open until PWR_EN has cycled (15 R437). -/
def execBreakerOpen (amps : Nat) (s : State) : Host.Outcome State Fault Refusal :=
  .next (if s.boot.aon && !s.pwr.breaker then raiseMod 0x0807 73 amps (modPwr (fun w => { w with breaker := true }) s) else s)

def execPllUnlock (d : DieId) (s : State) : Host.Outcome State Fault Refusal :=
  .next (if (getDie s d.val).pll then
      let s := pulse (srcDie d.val 1) (modDie d.val (fun x => { x with pll := false }) s)
      (ptnsOfDie s d.val).foldl (fun s p => raise (((faultRec s 0x0102 0 d.val).withPtn p).withDie d.val) s) s
    else s)

/-- 10 ms after PLL_UNLOCK the PLL is still unlocked (11 R333). -/
def execPllLost (d : DieId) (s : State) : Host.Outcome State Fault Refusal :=
  .next (if switchedUp s && !(getDie s d.val).pll then raise ((faultRec s 0x0103 0 d.val).withDie d.val) s else s)

def execPllRelock (d : DieId) (s : State) : Host.Outcome State Fault Refusal :=
  .next (if switchedUp s then modDie d.val (fun x => { x with pll := true }) s else s)

/-- A quarter's voltage reaches its target; a partition without rounds then takes the faster divider at once (13 R387). -/
def execVoltageReached (q : QtrId) (s : State) : Host.Outcome State Fault Refusal :=
  .next (let s := modQtr q.val (fun x => { x with mv := x.mvTarget }) s
    match ptnOfQtr s q.val with
    | some p => if !ptnRuns (getPtn s p) && decide ((getPtn s p).fig.st ≠ .mirror) then takeDivider p s else s
    | none => s)

end Sys2Proof.Machine
end

