-- ==== Sys2Proof/Machine/Views.lean ====
section
/-! DEFINITION. What every register of BAR0 reads (00 R6-R15, and each chapter's register tables), which functions see it, and which
registers the module serves before READY. An offset is that of an aligned 32-bit register. -/
namespace Sys2Proof.Machine

/-- The block and the offset within it, of `n` blocks of a size from a base. -/
def blockOf (base size n off : Nat) : Option (Nat × Nat) :=
  if base ≤ off ∧ off < base + size * n then some ((off - base) / size, (off - base) % size) else none

/-- A word of a list of words, by byte offset. -/
def wordOf (ws : List Nat) (off : Nat) : Nat := ws.getD (off / 4) 0

/-! ### MOD_ (00 R13; 01 R39-R42; 08 R233; 14 R422; 15 R433) -/

def modErrWord (x : Fn) : Nat := pack [(0, 1, b2n x.cfgWrIgnored), (1, 1, b2n x.accessSize), (2, 1, b2n x.unmapped)]

def keysWord (f : Fuses) : Nat := pack [(0, 1, b2n f.vendorOff), (1, 4, f.provisioned), (5, 4, f.revoked), (16, 7, f.svn)]

def setRepairWord (x : SetRepair) : Nat :=
  pack [(0, 3, x.fused), (3, 3, x.soft), (8, 11, x.lanes), (30, 1, b2n x.withheld), (31, 1, b2n x.valid)]

/-- An MSI-X table entry's four words. -/
def msixWords (m : MsixEntry) : List Nat := [w32 m.addr, m.addr / 2 ^ 32, m.data, b2n m.masked]

def readMod (s : State) (fn off : Nat) : Option Nat :=
  match blockOf 0x400 8 32 off, blockOf 0x800 4 8 off, blockOf 0x820 4 8 off, blockOf 0x1000 4 640 off, blockOf 0x80000 16 (tableSize s fn) off,
      blockOf 0x90000 4 (ceilDiv (tableSize s fn) 32) off with
  | some (p, o), _, _, _, _, _ => some (if o = 0 then (getPtn s p).qtrs else pack [(0, 6, (getPtn s p).vf), (8, 1, b2n (getPtn s p).exists_)])
  | _, some (i, _), _, _, _, _ => some (tget 0 s.mbox.req i)
  | _, _, some (i, _), _, _, _ => some (tget 0 s.mbox.rsp i)
  | _, _, _, some (n, _), _, _ => some (setRepairWord (getSet s n))
  | _, _, _, _, some (i, o), _ => some (wordOf (msixWords (tget {} (getFn s fn).msix i)) o)
  | _, _, _, _, _, some (k, _) => some (bitsMask (((getFn s fn).pba.filter fun i => i / 32 == k).map fun i => i % 32))
  | none, none, none, none, none, none =>
    match off with
    | 0x00 => some modId
    | 0x10 => some s.qtrAvail
    | 0x20 => some (w32 s.time)
    | 0x24 => some (getFn s fn).timeHi
    | 0x30 => some (modBootWord s)
    | 0x34 => some s.boot.version
    | 0x38 => some (keysWord s.fuses)
    | 0x100 => some (modErrWord (getFn s fn))
    | 0x200 => some 0
    | 0x204 => some s.ptnCmd.arg
    | 0x208 => some (pack [(0, 8, s.ptnCmd.code), (8, 8, s.ptnCmd.info), (31, 1, b2n s.ptnCmd.busy)])
    | 0x840 => some 0
    | 0x844 => some (pack [(0, 1, b2n s.mbox.busy), (8, 8, s.mbox.code)])
    | _ => none

/-! ### EVC_ (12 R375-R379) -/

def evcErrWord (e : Evc) : Nat :=
  pack [(0, 1, b2n e.cfgUnm), (1, 1, b2n e.owned), (2, 1, b2n e.cfgInv), (3, 1, b2n e.vfRef), (4, 1, b2n e.vecRange)]

/-- Bits of 32 sources. -/
def srcWord (test : Nat → Bool) (k : Nat) : Nat := bitsMask ((List.range 32).filter fun j => test (32 * k + j))

def tgtCtlWord (x : Tgt) : Nat := pack [(0, 16, x.gap), (16, 1, b2n x.sleeping), (17, 1, b2n !x.levels.isEmpty), (18, 3, x.levels.headD 0)]

def srcCfgWord (s : State) (n : Nat) : Nat :=
  let c := srcCfg s n
  pack [(0, 8, c.filter), (8, 1, b2n (srcEdge s n)), (9, 3, c.prio), (12, 4, c.target)]

def srcDestWord (s : State) (n : Nat) : Nat := pack [(0, 12, (srcCfg s n).index), (12, 6, (srcCfg s n).fn)]

def readTgt (s : State) (t o : Nat) : Option Nat :=
  if o = 0 ∧ t ≤ 9 then some ((getTgt s t).base * 65536)
  else if o = 4 ∧ t ≤ 9 then some (tgtCtlWord (getTgt s t))
  else if o = 8 then some (getTgt s t).count else none

def readEvc (s : State) (off : Nat) : Option Nat :=
  match blockOf 0x100110 16 11 off, blockOf 0x101000 4 256 off, blockOf 0x101400 4 256 off, blockOf 0x102000 8 4096 off, blockOf 0x110000 4 4096 off,
      blockOf 0x114000 4 32 off with
  | some (t, o), _, _, _, _, _ => readTgt s (t + 1) o
  | _, some (k, _), _, _, _, _ => some (srcWord (isPending s) (k % 128))
  | _, _, some (k, _), _, _, _ => some (srcWord (fun n => !isUnmasked s n) (k % 128))
  | _, _, _, some (n, o), _, _ => some (if o = 0 then srcCfgWord s n else srcDestWord s n)
  | _, _, _, _, some (e, _), _ => some (pack [(0, 12, (getHVec s e).interval), (12, 1, b2n (getHVec s e).held)])
  | _, _, _, _, _, some (v, _) => some (tableSize s (v + 1))
  | none, none, none, none, none, none => if off = 0x100000 then some 0xB8001000 else if off = 0x100004 then some (evcErrWord s.evc) else none

/-! ### PWR_ and CLK_ (13 R399) -/

def pwrCapWord (w : Pwr) : Nat := pack [(0, 13, w.cap), (16, 13, w.tray)]

def pwrStatusWord (w : Pwr) : Nat :=
  pack [(0, 1, b2n w.brake), (1, 1, b2n (w.cap != capTarget w)), (2, 1, b2n (decide (w.cap < 1600))), (3, 1, b2n w.capUnmet), (4, 1, b2n w.marginal),
        (5, 1, b2n w.coolHot)]

def pwrInputWord (w : Pwr) : Nat := pack [(0, 12, w.volts), (16, 12, w.amps)]
def pwrMeasureWord (w : Pwr) : Nat := pack [(0, 13, w.inputW), (16, 13, w.otherW)]
def pwrCoolantWord (w : Pwr) : Nat := pack [(0, 12, w.inlet), (16, 12, w.outlet)]
def ptnCtlWord (x : PPwr) : Nat := pack [(0, 3, x.prio), (4, 8, x.weight)]

def readPwr (s : State) (off : Nat) : Option Nat :=
  match blockOf 0x200100 4 32 off, blockOf 0x200180 4 32 off, blockOf 0x200200 4 32 off, blockOf 0x200280 4 32 off, blockOf 0x201010 4 4 off with
  | some (p, _), _, _, _, _ => some (ptnCtlWord (getPtn s p).pwr)
  | _, some (p, _), _, _, _ => some (ptnStatusWord s p)
  | _, _, some (q, _), _, _ => some (pwrQtrWord s q)
  | _, _, _, some (q, _), _ => some (getQtr s q).clampCycles
  | _, _, _, _, some (k, _) => some (mvOf k)
  | none, none, none, none, none =>
    match off with
    | 0x200000 => some (pwrCapWord s.pwr)
    | 0x200004 => some s.pwr.hostCap
    | 0x200008 => some (pwrStatusWord s.pwr)
    | 0x200010 => some (pwrInputWord s.pwr)
    | 0x200014 => some (pwrMeasureWord s.pwr)
    | 0x200018 => some (pwrCoolantWord s.pwr)
    | 0x201000 => some (bitsMask ((List.range 8).filter fun d => (getDie s d).pll))
    | _ => none

/-! ### FIG_ (02 R75-R84) and QTR_ (02 R85) -/

def slotStNo : SlotState → Nat
  | .empty => 0 | .verifying => 1 | .valid => 2 | .invalid => 3

def figStateWord (f : Fig) : Nat := pack [(0, 3, figStNo f.st), (3, 1, b2n f.cmd.isSome), (4, 3, f.slot), (16, 16, f.epoch)]

def readFig (s : State) (p o : Nat) : Option Nat :=
  let x := getPtn s p
  let f := x.fig
  match blockOf 0x40 4 8 o with
  | some (n, _) => let k := tget {} f.slots n; some (pack [(0, 2, slotStNo k.st), (2, 1, b2n (slotLoaded s p n)), (8, 8, k.err)])
  | none =>
    match o with
    | 0x00 => some 0
    | 0x04 => some (figStateWord f)
    | 0x08 => some (pack [(0, 8, f.errCode), (8, 3, f.errSlot)])
    | 0x0C => some f.errInfo
    | 0x10 => some (pack [(1, 1, b2n f.staged.isSome)])
    | 0x14 => some f.sh.div
    | 0x18 => some f.sh.watch
    | 0x1C => some f.drainLimit
    | 0x20 => some (pack [(0, 16, f.chainEpoch), (16, 1, b2n f.useChain)])
    | 0x24 => some f.epochDrops
    | 0x28 => some (w32 f.rounds)
    | 0x2C => some f.roundsHi
    | 0x30 => some (w32 f.instAddr)
    | 0x34 => some (f.instAddr / 2 ^ 32)
    | 0x38 => some f.instSize
    | _ => none

def qtrStatusWord (s : State) (q : Nat) : Nat :=
  match ptnOfQtr s q with
  | some p => let x := getPtn s p; pack [(0, 5, p), (5, 1, 1), (6, 3, figStNo x.fig.st), (9, 2, divShown s q)]
  | none => pack [(9, 2, divShown s q)]

def readQtr (s : State) (q o : Nat) : Option Nat :=
  let x := getQtr s q
  match o with
  | 0x00 => some (qtrStatusWord s q)
  | 0x04 => some x.epoch
  | 0x08 => some (pack [(0, 16, x.ticket), (16, 16, x.budget)])
  | 0x10 => some x.stall
  | 0x14 => some x.syncWait
  | 0x18 => some x.joinEvents
  | 0x20 => some x.roundMax
  | _ => none

/-! ### RING_ (08 R239) and CTX_ (08 R237) -/

def ringCtlWord (x : Ring) : Nat :=
  pack [(0, 2, x.sh.type), (2, 1, b2n x.sh.enable), (3, 1, b2n x.sh.notify), (8, 5, x.sh.size), (17, 1, b2n x.staged.isSome)]

def ringStatusWord (x : Ring) : Nat :=
  pack [(0, 1, b2n x.refused), (1, 1, b2n x.dbBad), (2, 1, b2n x.dbDisabled), (3, 1, b2n x.dmaErr),
        (4, 1, b2n (x.cur.enable && x.cur.type != 0 && ringFull x))]

def readRing (s : State) (r o : Nat) : Option Nat :=
  let x := getRing s r
  match o with
  | 0x00 => some (ringCtlWord x)
  | 0x04 => some x.sh.ctx
  | 0x08 => some (w32 x.sh.base)
  | 0x0C => some (x.sh.base / 2 ^ 32)
  | 0x10 => some (w32 x.sh.wb)
  | 0x14 => some (x.sh.wb / 2 ^ 32)
  | 0x18 => some x.sh.comp
  | 0x1C => some x.sh.vector
  | 0x20 => some x.head
  | 0x24 => some x.tail
  | 0x28 => some (ringStatusWord x)
  | 0x2C => some (pack [(0, 5, x.ptn), (5, 1, b2n x.assigned)])
  | _ => none

def ctxStNo : CtxSt → Nat
  | .disabled => 0 | .enabled => 1 | .resetting => 2

def ctxStatusWord (x : Ctx) : Nat := pack [(0, 2, ctxStNo x.st), (8, 5, x.ptn), (16, 8, x.code), (24, 1, b2n x.saveUnus)]

def readCtx (s : State) (c o : Nat) : Option Nat :=
  let x := getCtx s c
  match o with
  | 0x00 => some 0
  | 0x04 => some (ctxStatusWord x)
  | 0x08 => some (pack [(1, 1, b2n x.staged.isSome)])
  | 0x0C => some (pack [(0, 3, x.sh.prio), (8, 16, x.sh.slice)])
  | 0x10 => some (pack [(0, 1, b2n x.sh.figOps), (1, 1, b2n x.sh.baseNoAd)])
  | 0x14 => some (pack [(0, 16, x.sh.saveObj), (16, 1, b2n x.sh.saveVal)])
  | 0x20 => some x.sh.tmo0
  | 0x24 => some x.sh.tmo1
  | 0x28 => some x.sh.tmo2
  | 0x2C => some x.sh.tmo3
  | 0x30 => some x.overrun
  | 0x34 => some x.preempts
  | 0x38 => some x.timeouts
  | 0x40 => some (w32 x.run)
  | 0x44 => some x.runHi
  | _ => none

/-! ### MEM_ (07 R232) -/

def readMemMod (s : State) (off : Nat) : Option Nat :=
  let m := s.mem
  match off with
  | 0xC00000 => some (tierTotal 1)
  | 0xC00004 => some (tierTotal 2)
  | 0xC00010 => some m.scrubInt
  | 0xC00014 => some m.scrubRate
  | 0xC00018 => some m.scrubPasses
  | 0xC0001C => some (retiredCount m)
  | 0xC00020 => some m.ce0
  | 0xC00024 => some m.ce1
  | 0xC00028 => some m.ce2
  | 0xC0002C => some m.ue
  | 0xC00030 => some m.bar4Sel
  | 0xC00034 => some (b2n m.scrubLate)
  | _ => none

def memErrWord (m : PMem) : Nat := pack [(0, 1, b2n m.bar4Ro), (1, 1, b2n m.bar4Unmapped), (2, 1, b2n m.bar4Poison), (3, 1, b2n m.quotaRefused)]

def readMem (s : State) (p o : Nat) : Option Nat :=
  let m := (getPtn s p).mem
  match o with
  | 0x00 => some m.t1Quota
  | 0x04 => some m.t2Quota
  | 0x08 => some (tierUse s p 0)
  | 0x0C => some (tierUse s p 1)
  | 0x10 => some (tierUse s p 2)
  | 0x14 => some (mappedObjs s p).length
  | 0x18 => some (memErrWord m)
  | 0x1C => some m.evictions
  | 0x20 => some m.fbShadow
  | 0x24 => some m.fbRecompute
  | 0x28 => some m.fbSkipDraft
  | 0x2C => some m.fbNoAdapter
  | 0x30 => some m.barrierWait
  | 0x34 => some m.digestFail
  | _ => none

/-! ### FAB_ (10 R328) -/

def exchEpochWord (x : Exch) : Nat := pack [(0, 16, (x.cur.map fun t => t.epoch).getD 0xFFFF), (16, 16, (x.staged.map fun t => t.epoch).getD 0xFFFF)]

def readXch (s : State) (p o : Nat) : Option Nat :=
  let x := (getPtn s p).xch
  match blockOf 0x40 4 16 o with
  | some (k, _) => some (exchEpochWord (tget {} x.exchs k))
  | none =>
    match o with
    | 0x00 => some (w32 x.bufAddr)
    | 0x04 => some (x.bufAddr / 2 ^ 32)
    | 0x08 => some x.bufPages
    | 0x10 => some x.ungranted
    | 0x14 => some x.stale
    | 0x18 => some x.cardCut
    | 0x1C => some x.voided
    | _ => none

def readFab (s : State) (off : Nat) : Option Nat :=
  let f := s.fab
  match blockOf 0x1000100 4 18 off, blockOf 0x1000200 4 18 off, blockOf 0x1000300 4 18 off, blockOf 0x1001000 4 64 off, blockOf 0x1002000 4 1024 off with
  | some (n, _), _, _, _, _ => some (b2n (getPort s n).enable)
  | _, some (n, _), _, _, _ => some (portStatus (getPort s n))
  | _, _, some (n, _), _, _ => some (portErr (getPort s n))
  | _, _, _, some (k, _), _ => some (tget 0 f.near k)
  | _, _, _, _, some (b, _) => some (tget 0 f.far b)
  | none, none, none, none, none =>
    match blockOf 0x1004000 8 4096 off, blockOf 0x100C000 4 4096 off, blockOf 0x1014000 4 256 off with
    | some (c, o), _, _ => some (if o = 0 then tget 0 f.tx0 c else tget 0 f.tx1 c)
    | _, some (c, _), _ => some (tget 0 f.rx c)
    | _, _, some (g, _) => some (tget 0 f.mcast g)
    | none, none, none =>
      if off = 0x1000000 then some (pack [(0, 16, f.coord), (16, 1, b2n f.valid)])
      else if off = 0x1000004 then some (pack [(0, 16, f.lostLast), (16, 16, f.lostCount)]) else none

/-! ### PTN_ (05 R172) and ATT_ (06 R201) -/

/-- Slots with something bound. -/
def boundBits {α : Type} (t : Tbl (Option α)) : Nat := bitsMask ((t.filter fun e => e.2.isSome).map fun e => e.1)

def readUnits (s : State) (p o : Nat) : Option Nat :=
  let u := (getPtn s p).units
  match o with
  | 0x00 => some (w32 u.addr)
  | 0x04 => some (u.addr / 2 ^ 32)
  | 0x08 => some u.size
  | 0x0C => some 0
  | 0x10 => some (pack [(0, 8, u.code), (8, 24, u.info)])
  | 0x14 => some (pack [(0, 8, boundBits u.plans), (8, 1, b2n u.binding.isSome)])
  | 0x20 => some u.stall
  | 0x24 => some u.remote
  | 0x28 => some u.fbRows
  | 0x2C => some u.hot
  | _ => none

def readAtt (s : State) (p o : Nat) : Option Nat :=
  let a := (getPtn s p).att
  match o with
  | 0x00 => some (w32 a.poolBase)
  | 0x04 => some (a.poolBase / 2 ^ 32)
  | 0x08 => some a.poolPages
  | 0x0C => some (a.poolPages - a.poolUsed.length)
  | 0x10 => some (pack [(0, 1, b2n a.poolBad), (1, 1, b2n a.poolBusy), (2, 1, b2n a.resRefused)])
  | 0x14 => some (pack [(1, 1, b2n a.pending)])
  | 0x18 => some a.drops
  | 0x20 => some (w32 a.mapAddr)
  | 0x24 => some (a.mapAddr / 2 ^ 32)
  | 0x28 => some a.mapSize
  | 0x2C => some 0
  | 0x30 => some (pack [(0, 8, a.code), (8, 24, a.info)])
  | 0x34 => some (boundBits a.maps)
  | _ => none

def readAttCtx (s : State) (c o : Nat) : Option Nat :=
  let x := getCtx s c
  match blockOf 0x10 4 8 o with
  | some (k, _) => some (tget 0 x.attSh.victim k)
  | none =>
    match o with
    | 0x00 => some x.reserve
    | 0x04 => some x.attSh.limit
    | 0x08 => some x.held
    | 0x0C => some x.drops
    | _ => none

/-! ### FLT_ (11 R358-R360) -/

def fltStatusWord (f : Flt) : Nat :=
  pack [(0, 1, b2n f.resetting), (1, 1, b2n f.snapValid), (2, 1, b2n f.snapLock), (3, 1, b2n f.snapMissed), (4, 1, b2n f.recsInc), (5, 1, b2n f.polRefused)]

def fltPtnStatusWord (f : PFlt) : Nat := pack [(0, 1, b2n f.slotRejected), (1, 1, b2n f.snapFull), (2, 1, b2n f.qsStopped), (3, 1, b2n f.mirrorWait)]

/-- A word of the record in a log slot; a slot never written reads 0 (11 R331). -/
def logWord (log : List FaultRec) (size slot o : Nat) : Nat :=
  match log.find? fun r => r.seq % size == slot with
  | some r => wordOf (faultWords r) o
  | none => 0

/-- FLT_POLICY of a code as it reads (11 R332). -/
def policyWord (s : State) (code : Nat) : Nat := if code = 0x0504 ∨ code = 0x0901 then 7 else policyOf s code

def watchWord (w : QsWatch) : Nat := pack [(0, 17, w.core), (17, 11, w.pattern), (31, 1, b2n w.valid)]

/-- The fault-block fields that await a boundary read as they are in force. -/
def readFltPtn (s : State) (p o : Nat) : Option Nat :=
  let f := (getPtn s p).flt
  match blockOf 0x40 4 24 o with
  | some (n, _) => some (watchWord (tget {} f.cur.watch n))
  | none =>
    match o with
    | 0x00 => some (fltPtnStatusWord f)
    | 0x04 => some (w32 f.seq)
    | 0x08 => some (pack [(0, 3, f.cur.mirrorSlot), (3, 1, b2n f.cur.mirrorNamed)])
    | 0x0C => some (pack [(0, 16, f.snapObj), (16, 1, b2n f.snapNamed)])
    | 0x10 => some (pack [(0, 1, b2n f.qsEnable), (16, 16, f.qsPeriod)])
    | 0x14 => some f.cur.qsObj
    | 0x18 => some f.qsIndex
    | _ => none

def readFlt (s : State) (off : Nat) : Option Nat :=
  match blockOf 0x1C01000 0x40 64 off, blockOf 0x1C20000 32 4096 off, blockOf 0x1C40000 0x50000 1 off, blockOf 0x1CC0000 0x1000 32 off,
      blockOf 0x1CE0000 0x2000 32 off with
  | some (g, o), _, _, _, _ => if isFaultCode (256 * g + o / 4) then some (policyWord s (256 * g + o / 4)) else none
  | _, some (i, o), _, _, _ => some (logWord s.flt.log 4096 i o)
  | _, _, some (_, o), _, _ => some (leNat (mread s.flt.snap o 4))
  | _, _, _, some (p, o), _ => readFltPtn s p o
  | _, _, _, _, some (p, o) => some (logWord (getPtn s p).flt.log 256 (o / 32) (o % 32))
  | none, none, none, none, none =>
    match off with
    | 0x1C00000 => some (fltStatusWord s.flt)
    | 0x1C00004 => some 0
    | 0x1C00008 => some (w32 s.flt.seq)
    | 0x1C00010 => some s.flt.n1
    | 0x1C00014 => some s.flt.n2
    | 0x1C00018 => some s.flt.n3
    | 0x1C0001C => some s.flt.n4
    | _ => none

/-! ### All of BAR0 -/

/-- The value of the register at an aligned offset; `none` where no register lies (00 R7, R14). -/
def regRead (s : State) (fn off : Nat) : Option Nat :=
  if off < 0x100000 then readMod s fn off
  else if off < 0x200000 then readEvc s off
  else if off < 0x400000 then readPwr s off
  else if off < 0x800000 then
    (if off = 0x400000 then some 0x00010288 else match blockOf 0x401000 0x1000 32 off with | some (p, o) => readFig s p o | none => none)
  else if off < 0xA00000 then readRing s ((off - 0x800000) / 0x40) (off % 0x40)
  else if off < 0xB00000 then readCtx s ((off - 0xA00000) / 0x100) (off % 0x100)
  else if off < 0x1000000 then (match blockOf 0xC01000 0x1000 32 off with | some (p, o) => readMem s p o | none => readMemMod s off)
  else if off < 0x1400000 then (match blockOf 0x1020000 0x1000 32 off with | some (p, o) => readXch s p o | none => readFab s off)
  else if off < 0x1800000 then
    (if off = 0x1400000 then some 0x8880 else match blockOf 0x1401000 0x1000 32 off with | some (p, o) => readUnits s p o | none => none)
  else if off < 0x1C00000 then
    (if off = 0x1800000 then some 0x0987
     else match blockOf 0x1801000 0x1000 32 off, blockOf 0x1840000 0x40 4096 off with
       | some (p, o), _ => readAtt s p o
       | none, some (c, o) => readAttCtx s c o
       | none, none => none)
  else if off < 0x2000000 then readFlt s off
  else match blockOf 0x2000000 0x100000 32 off with | some (q, o) => readQtr s q o | none => none

/-- The block at an offset belongs to the partition. -/
def ownBlock (p base size off : Nat) : Bool := match blockOf base size 32 off with | some (k, _) => k == p | none => false

/-- A function sees an offset: the PF all, a VF its partition's subset (00 R15; 01 R444 and each window's rule). -/
def seesOff (s : State) (fn off : Nat) : Bool :=
  fn == 0 || [0x00, 0x20, 0x24, 0x100].contains off || (decide (0x80000 ≤ off) && decide (off < 0x88000)) || (decide (0x90000 ≤ off) && decide (off < 0x90100)) ||
  off == 0x400000 || off == 0x1000000 || off == 0x1400000 || off == 0x1800000 ||
  (match ptnOfFn s fn with
   | none => false
   | some p =>
     ownBlock p 0x401000 0x1000 off || ownBlock p 0xC01000 0x1000 off || ownBlock p 0x1020000 0x1000 off || ownBlock p 0x1401000 0x1000 off ||
     ownBlock p 0x1801000 0x1000 off || ownBlock p 0x1CC0000 0x1000 off || ownBlock p 0x1CE0000 0x2000 off ||
     (match blockOf 0x800000 0x40 32768 off with | some (r, _) => seesRing s fn r | none => false) ||
     (match blockOf 0xA00000 0x100 4096 off with | some (c, _) => seesCtx s fn c | none => false) ||
     (match blockOf 0x1840000 0x40 4096 off with | some (c, _) => seesCtx s fn c | none => false) ||
     (match blockOf 0x2000000 0x100000 32 off with | some (q, _) => bit (getPtn s p).qtrs q | none => false))

/-- Registers served before READY and in a module reset (14 R402). -/
def earlyOff (off : Nat) : Bool :=
  [0x00, 0x20, 0x24, 0x30, 0x34, 0x38, 0x100].contains off || (decide (0x800 ≤ off) && decide (off < 0x848)) ||
  (decide (0x80000 ≤ off) && decide (off < 0x88000)) || (decide (0x90000 ≤ off) && decide (off < 0x90100)) ||
  (decide (0x100000 ≤ off) && decide (off < 0x200000)) || (decide (0x1C00000 ≤ off) && decide (off < 0x2000000))

end Sys2Proof.Machine
end

