-- ==== Sys2Proof/Machine/Flags.lean ====
section
/-! DEFINITION. The module's sticky flags: what writing 1 clears in each status register, and what a read clears or latches
(00 R8, R13; 01 R41; 02 R83, R85; 05 R172; 06 R201; 07 R232; 08 R237, R239; 10 R328; 11 R359, R360; 12 R376, R377; 13 R399). -/
namespace Sys2Proof.Machine

/-- A W1C flag: writing 1 clears it. -/
def w1c (b : Bool) (v i : Nat) : Bool := b && !bit v i

def clearModErr (v : Nat) (x : Fn) : Fn := { x with cfgWrIgnored := w1c x.cfgWrIgnored v 0, accessSize := w1c x.accessSize v 1, unmapped := w1c x.unmapped v 2 }

def clearEvcErr (v : Nat) (e : Evc) : Evc :=
  { e with cfgUnm := w1c e.cfgUnm v 0, owned := w1c e.owned v 1, cfgInv := w1c e.cfgInv v 2, vfRef := w1c e.vfRef v 3, vecRange := w1c e.vecRange v 4 }

def clearMemErr (v : Nat) (m : PMem) : PMem :=
  { m with bar4Ro := w1c m.bar4Ro v 0, bar4Unmapped := w1c m.bar4Unmapped v 1, bar4Poison := w1c m.bar4Poison v 2, quotaRefused := w1c m.quotaRefused v 3 }

def clearPool (v : Nat) (a : Att) : Att := { a with poolBad := w1c a.poolBad v 0, poolBusy := w1c a.poolBusy v 1, resRefused := w1c a.resRefused v 2 }

def clearRing (v : Nat) (x : Ring) : Ring :=
  { x with refused := w1c x.refused v 0, dbBad := w1c x.dbBad v 1, dbDisabled := w1c x.dbDisabled v 2, dmaErr := w1c x.dmaErr v 3 }

def clearFlt (v : Nat) (f : Flt) : Flt := { f with snapMissed := w1c f.snapMissed v 3, recsInc := w1c f.recsInc v 4, polRefused := w1c f.polRefused v 5 }

def clearFltPtn (v : Nat) (f : PFlt) : PFlt := { f with slotRejected := w1c f.slotRejected v 0, snapFull := w1c f.snapFull v 1, qsStopped := w1c f.qsStopped v 2 }

/-! ### Reads with an effect -/

/-- A partition's counters of the ATT_, PTN_, MEM_, FIG_ and exchange blocks that a read clears. -/
def readPtnRc (x : Ptn) (win o : Nat) : Ptn :=
  match win, o with
  | 0, 0x24 => { x with fig := { x.fig with epochDrops := 0 } }
  | 0, 0x28 => { x with fig := { x.fig with roundsHi := x.fig.rounds / 2 ^ 32 } }
  | 1, 0x20 => { x with units := { x.units with stall := 0 } }
  | 1, 0x24 => { x with units := { x.units with remote := 0 } }
  | 1, 0x28 => { x with units := { x.units with fbRows := 0 } }
  | 1, 0x2C => { x with units := { x.units with hot := 0 } }
  | 2, 0x18 => { x with att := { x.att with drops := 0 } }
  | 3, 0x1C => { x with mem := { x.mem with evictions := 0 } }
  | 3, 0x20 => { x with mem := { x.mem with fbShadow := 0 } }
  | 3, 0x24 => { x with mem := { x.mem with fbRecompute := 0 } }
  | 3, 0x28 => { x with mem := { x.mem with fbSkipDraft := 0 } }
  | 3, 0x2C => { x with mem := { x.mem with fbNoAdapter := 0 } }
  | 3, 0x30 => { x with mem := { x.mem with barrierWait := 0 } }
  | 3, 0x34 => { x with mem := { x.mem with digestFail := 0 } }
  | 4, 0x10 => { x with xch := { x.xch with ungranted := 0 } }
  | 4, 0x14 => { x with xch := { x.xch with stale := 0 } }
  | 4, 0x18 => { x with xch := { x.xch with cardCut := 0 } }
  | 4, 0x1C => { x with xch := { x.xch with voided := 0 } }
  | _, _ => x

/-- A context's counters. -/
def readCtxRc (x : Ctx) (o : Nat) : Ctx :=
  match o with
  | 0x30 => { x with overrun := 0 }
  | 0x34 => { x with preempts := 0 }
  | 0x38 => { x with timeouts := 0 }
  | 0x40 => { x with runHi := x.run / 2 ^ 32 }
  | _ => x

/-- A quarter's counters. -/
def readQtrRc (x : Qtr) (o : Nat) : Qtr :=
  match o with
  | 0x10 => { x with stall := 0 }
  | 0x14 => { x with syncWait := 0 }
  | 0x18 => { x with joinEvents := 0 }
  | 0x20 => { x with roundMax := 0 }
  | _ => x

/-- The tiers' error counters. -/
def readMemRc (m : MemUnit) (off : Nat) : MemUnit :=
  match off with
  | 0xC00020 => { m with ce0 := 0 }
  | 0xC00024 => { m with ce1 := 0 }
  | 0xC00028 => { m with ce2 := 0 }
  | 0xC0002C => { m with ue := 0 }
  | _ => m

/-- FLT_RESETS. -/
def readFltRc (f : Flt) (off : Nat) : Flt :=
  match off with
  | 0x1C00010 => { f with n1 := 0 }
  | 0x1C00014 => { f with n2 := 0 }
  | 0x1C00018 => { f with n3 := 0 }
  | 0x1C0001C => { f with n4 := 0 }
  | _ => f

/-- What a whole read of the register at an offset does: an RC field clears, a low half latches its high half (00 R8; 01 R41, R444). -/
def readEffect (fn off : Nat) (s : State) : State :=
  if off = 0x20 then modFn fn (fun x => { x with timeHi := s.time / 2 ^ 32 }) s
  else match blockOf 0x401000 0x1000 32 off, blockOf 0x1401000 0x1000 32 off, blockOf 0x1801000 0x1000 32 off, blockOf 0xC01000 0x1000 32 off,
      blockOf 0x1020000 0x1000 32 off with
    | some (p, o), _, _, _, _ => modPtn p (fun x => readPtnRc x 0 o) s
    | _, some (p, o), _, _, _ => modPtn p (fun x => readPtnRc x 1 o) s
    | _, _, some (p, o), _, _ => modPtn p (fun x => readPtnRc x 2 o) s
    | _, _, _, some (p, o), _ => modPtn p (fun x => readPtnRc x 3 o) s
    | _, _, _, _, some (p, o) => modPtn p (fun x => readPtnRc x 4 o) s
    | none, none, none, none, none =>
      match blockOf 0xA00000 0x100 4096 off, blockOf 0x1840000 0x40 4096 off, blockOf 0x2000000 0x100000 32 off, blockOf 0x100110 16 11 off,
          blockOf 0x1000300 4 18 off, blockOf 0x200280 4 32 off with
      | some (c, o), _, _, _, _, _ => modCtx c (fun x => readCtxRc x o) s
      | _, some (c, o), _, _, _, _ => if o = 0x0C then modCtx c (fun x => { x with drops := 0 }) s else s
      | _, _, some (q, o), _, _, _ => modQtr q (fun x => readQtrRc x o) s
      | _, _, _, some (t, o), _, _ => if o = 8 then modTgt (t + 1) (fun x => { x with count := 0 }) s else s
      | _, _, _, _, some (n, _), _ => modPort n (fun x => { x with replays := 0, trainFails := 0 }) s
      | _, _, _, _, _, some (q, _) => modQtr q (fun x => { x with clampCycles := 0 }) s
      | none, none, none, none, none, none => modFlt (fun f => readFltRc f off) (modMem (fun m => readMemRc m off) s)

end Sys2Proof.Machine
end

