-- ==== Sys2Proof/Machine/Partitions.lean ====
section
/-! DEFINITION. Partitions (08 R233-R235; 07 R209, R230, R231; 13 R381): MOD_PTN_CMD and the end of its commands. -/
namespace Sys2Proof.Machine

/-- A command ends with a code and an INFO once MOD_PTN_DONE comes (08 R234; log 12). -/
def ptnResult (code info : Nat) (s : State) : State := { s with ptnCmd := { s.ptnCmd with busy := true, resCode := code, resInfo := info } }

/-- First quarter of a mask that a partition may not take: withheld, or another partition's (08 R234 QUARTER). -/
def takenQtr (s : State) (p mask : Nat) : Option Nat := (maskBits mask 32).find? fun q => !bit s.qtrAvail q || (ptnOfQtr s q).any fun o => o != p

/-- A partition's number keeps its power settings, fault log and fault settings whether or not it exists (log 18). -/
def blankPtn (x : Ptn) : Ptn := { flt := x.flt, pwr := { prio := x.pwr.prio, weight := x.pwr.weight } }

/-- Rails of quarters (13 R381). -/
def qtrRails (on : Bool) (mask : Nat) (s : State) : State :=
  (maskBits mask 32).foldl (fun s q => modQtr q (fun x => { x with railOn := on, mv := 540, mvTarget := 540, ticket := 0, epoch := 0 }) s) s

/-- Retained objects of the partition's number return with it (07 R230, R231). -/
def returnObjects (p : Nat) (s : State) : State :=
  let mine := s.mem.retained.filter fun r => r.ptn == p
  let s := modMem (fun m => { m with retained := m.retained.filter fun r => r.ptn != p }) s
  let s := mine.foldl (fun s r => modPMem p (fun m =>
    { m with objs := tput r.id { r.obj with recheck := true } m.objs, pages := r.pages.foldl (fun t e => tset {} e.1 e.2 t) m.pages }) s) s
  modPMem p (fun m => { m with t2Quota := tierUse s p 2 }) s

/-- CREATE (08 R234); the partition's fault log and settings start anew (11 R331, R360). -/
def ptnCreate (p : Nat) (s : State) : State :=
  let mask := s.ptnCmd.arg
  if mask = 0 then ptnResult 1 0 s
  else match takenQtr s p mask with
    | some q => ptnResult 1 q s
    | none =>
      if (getPtn s p).exists_ then ptnResult 2 0 s
      else ptnResult 0 0 (retarget (railsTo p (returnObjects p (qtrRails true mask (modPtn p (fun x => { blankPtn x with exists_ := true, qtrs := mask, flt := {} }) s)))))

/-- A replicated page is copied beneath the quarters that GROW adds, at its quarter-local index (07 R204; log 18). -/
def growRepl (p : Nat) (qs : List Nat) (s : State) : State :=
  ((getPtn s p).mem.pages.filter fun e => e.2.t0Repl).foldl (fun s e =>
    match e.2.t0 with
    | some i =>
      let home := 8192 * ((qtrsOf s p).headD 0) + i
      qs.foldl (fun s q => modMem (fun m => copyPhys 0 home 0 (8192 * q + i) { m with used0 := nadd (8192 * q + i) m.used0 }) s) s
    | none => s) s

/-- GROW (08 R234); quarters that the partition already holds stay as they are. -/
def ptnGrow (p : Nat) (s : State) : State :=
  let mask := s.ptnCmd.arg
  if mask = 0 then ptnResult 1 0 s
  else match takenQtr s p mask with
    | some q => ptnResult 1 q s
    | none =>
      let x := getPtn s p
      let new := bitsMask ((maskBits mask 32).filter fun q => !bit x.qtrs q)
      if !x.exists_ || decide (x.fig.st ≠ .empty) then ptnResult 2 0 s
      else if new = 0 then ptnResult 0 0 s
      else ptnResult 0 0 (retarget (railsTo p (qtrRails true new (modPtn p (fun x => { x with qtrs := x.qtrs ||| new }) (growRepl p (maskBits new 32) s)))))

/-- A page of the partition's objects lies beneath a quarter (07 R209). -/
def pageBeneath (s : State) (p q : Nat) : Bool := (getPtn s p).mem.pages.any fun e => (t0Phys s p e.2).any fun i => i / 8192 == q

/-- SHRINK (08 R234). -/
def ptnShrink (p : Nat) (s : State) : State :=
  let mask := s.ptnCmd.arg
  let x := getPtn s p
  if mask = 0 then ptnResult 1 0 s
  else match (maskBits mask 32).find? (fun q => !bit x.qtrs q) with
    | some q => ptnResult 1 q s
    | none =>
      if mask = x.qtrs then ptnResult 1 ((maskBits mask 32).headD 0) s
      else if !x.exists_ || decide (x.fig.st ≠ .empty) then ptnResult 2 0 s
      else match (maskBits mask 32).find? (pageBeneath s p) with
        | some q => ptnResult 3 q s
        | none => ptnResult 0 0 (retarget (qtrRails false mask (modPtn p (fun x => { x with qtrs := x.qtrs - mask }) s)))

/-- Every page of a partition is released. -/
def freeAllPages (p : Nat) (s : State) : State := ((getPtn s p).mem.pages.map (·.1)).foldl (fun s k => freePage p k s) s

/-- DESTROY (08 R234; 07 R231). -/
def ptnDestroy (p : Nat) (s : State) : State :=
  let x := getPtn s p
  if !x.exists_ || decide (x.fig.st ≠ .empty) then ptnResult 2 0 s
  else if !(ctxsOf s p).isEmpty then ptnResult 5 0 s
  else ptnResult 0 0 (retarget (modPtn p blankPtn (qtrRails false x.qtrs (freeAllPages p s))))

/-- BIND_VF (08 R234). -/
def ptnBind (p vf : Nat) (s : State) : State :=
  let x := getPtn s p
  if !x.exists_ then ptnResult 2 0 s
  else if vf = 0 ∨ 32 < vf ∨ s.vfEnable = false ∨ (s.ptns.any fun e => e.2.exists_ && e.2.vf == vf) = true then ptnResult 4 vf s
  else if x.vf ≠ 0 then ptnResult 4 x.vf s
  else ptnResult 0 0 (modPtn p (fun x => { x with vf := vf }) s)

/-- UNBIND_VF (08 R234). -/
def ptnUnbind (p : Nat) (s : State) : State :=
  let x := getPtn s p
  if !x.exists_ then ptnResult 2 0 s
  else if s.rings.any (fun e => e.2.assigned && e.2.ptn == p && e.2.cur.enable) then ptnResult 4 x.vf s
  else ptnResult 0 0 (modPtn p (fun x => { x with vf := 0 }) s)

/-- A MOD_PTN_CMD write: ignored while a command is in progress (08 R233). -/
def ptnWrite (fn : FnId) (go : State → State) (s : State) : Host.Outcome State Fault Refusal :=
  .next (hostAccess fn.val 0x200 (fn.val == 0) false (fun s => if s.ptnCmd.busy then s else go s) s)

def execCreate (fn : FnId) (p : PtnId) (s : State) : Host.Outcome State Fault Refusal := ptnWrite fn (ptnCreate p.val) s
def execGrow (fn : FnId) (p : PtnId) (s : State) : Host.Outcome State Fault Refusal := ptnWrite fn (ptnGrow p.val) s
def execShrink (fn : FnId) (p : PtnId) (s : State) : Host.Outcome State Fault Refusal := ptnWrite fn (ptnShrink p.val) s
def execDestroy (fn : FnId) (p : PtnId) (s : State) : Host.Outcome State Fault Refusal := ptnWrite fn (ptnDestroy p.val) s
def execBindVf (fn : FnId) (p : PtnId) (vf : Nat) (s : State) : Host.Outcome State Fault Refusal := ptnWrite fn (ptnBind p.val vf) s
def execUnbindVf (fn : FnId) (p : PtnId) (s : State) : Host.Outcome State Fault Refusal := ptnWrite fn (ptnUnbind p.val) s

/-- A partition command ends: BUSY clears, its status shows, and PTN_DONE pulses (08 R234; 12 R362). -/
def execModPtnDone (s : State) : Host.Outcome State Fault Refusal :=
  .next (if s.ptnCmd.busy then
      pulse srcPtnDone { s with ptnCmd := { s.ptnCmd with busy := false, code := s.ptnCmd.resCode, info := s.ptnCmd.resInfo } }
    else s)

end Sys2Proof.Machine
end

