-- ==== Sys2Proof/Machine/Dataflow.lean ====
section
/-! DEFINITION. One round of a figure (02 R45-R50; 03 R87-R106; 04 R117-R137; 05 R142, R156-R159; 06 R175-R183; 07 R221): what each
step computes and where it goes. A step takes its inputs from its stream buffers as they come, computes once it has all of the
round's, and ends once its output has drained; the order in which ready steps run does not change what they compute, except for
tier reads that no barrier orders after tier writes (log 31). -/
namespace Sys2Proof.Machine

/-! ### Accesses -/

/-- One access as a step reads it. -/
structure Acc where
  data : List Byte
  p    : Bool
  tag  : Option RowTag
  deriving DecidableEq, Repr

/-- Flits that a core's step has taken at an input. -/
def takenFlits (s : State) (p c input : Nat) : List Flit := tget [] (getCore s p c).taken input

/-- All accesses of one input of a core's step, whose pattern is `n`. -/
def readAccs (e : Rt) (s : State) (c input n size : Nat) : List Acc :=
  match patternOf e.f n with
  | none => []
  | some q =>
    if size = 0 then []
    else if q.space = 1 then
      let fs := takenFlits s e.p c input
      (List.range (accesses q)).map fun i => let x := flitSlice fs (i * size) size; ⟨x.1, x.2.1, some x.2.2⟩
    else (List.range (accesses q)).map fun i => let x := storeRead (getCore s e.p c).store e.run.ctx (patAddr q i) size; ⟨x.1, x.2, none⟩

/-- Flits of the round that a step takes at an input; none where the input is no stream. -/
def needFlits (f : Figure) (t : Step) (input : Nat) : Nat :=
  let n := inputPat t input
  match patternOf f n with
  | some q => if q.space = 1 then patFlits f n (if input = 0 then sizeA t else sizeB t) else 0
  | none => 0

/-- A step's stream inputs of the round are all taken. -/
def inputsTaken (e : Rt) (s : State) (c i : Nat) : Bool :=
  let t := coreStep e.f c i
  [0, 1].all fun k => decide (needFlits e.f t k ≤ (takenFlits s e.p c k).length)

/-! ### Output -/

/-- Flits of a step's output accesses: 64 B each, poisoned by any access in them, tagged by the first. -/
def outFlits (e : Rt) (outs : List (List Byte × Bool × RowTag)) : List Flit :=
  let size := max 1 ((outs.head?.map fun o => o.1.length).getD 1)
  let all := outs.flatMap (·.1)
  (List.range (ceilDiv all.length 64)).map fun j =>
    let mine := (outs.drop (64 * j / size)).take ((64 * j + 63) / size + 1 - 64 * j / size)
    { data := slice all (64 * j) 64, poison := mine.any (·.2.1), epoch := e.epoch, ctx := e.run.ctx, tag := ((mine.head?).map (·.2.2)).getD noTag }

/-- A step's output: its core-store buffer, and the streams it produces, each held until its crossing has room (02 R50). -/
def putOutput (e : Rt) (c : Nat) (t : Step) (outs : List (List Byte × Bool × RowTag)) (s : State) : State :=
  let s := match patternOf e.f t.patOut with
    | some q =>
      if q.space = 1 then s
      else modCore e.p c (fun x => { x with store := ((List.range outs.length).zip outs).foldl (fun st o => storeWrite e.run.ctx (patAddr q o.1) o.2.1 o.2.2.1 st) x.store }) s
    | none => s
  let fs := outFlits e outs
  (List.range t.streamCount).foldl (fun s j =>
    match e.f.streams[t.streamFirst + j]? with
    | some x => if fromEndpoint e.f x then s else queueOut e.p (t.streamFirst + j) c (fs.take x.flits) s
    | none => s) s

/-! ### The vector chain on a core -/

/-- Lanes of an element-wise input-B access, and of a row scalar (04 R121). -/
def inbLanes (arg w : Nat) (a : Acc) : List Lane :=
  (unpackElems (elemBits (arg / 16)) w a.data).map fun x => ⟨toF32 (ofElem (arg / 16) x), a.p⟩

/-- The chain's curve positions of a core. -/
def coreCurves (e : Rt) (s : State) (c : Nat) : List (Option Curve) :=
  (List.range 4).map fun k => let n := tget 0 (getCore s e.p c).curves k; if n = 0 then none else e.f.curves[n - 1]?

/-- The segment of a batch row: its index in the segment table, through the row map (05 R153), and its entry. -/
def segIx (e : Rt) (s : State) (r : Nat) : Option Nat :=
  e.batch.bind fun b => (getBatch s e.p b).segs.findIdx? fun g => decide (g.first ≤ r) && decide (r < g.first + g.count)

def segOf (e : Rt) (s : State) (r : Nat) : Option Segment := e.batch.bind fun b => (segIx e s r).bind fun n => (getBatch s e.p b).segs[n]?

/-- The piece of a set-step in the plan bound to the loaded slot, with its index. -/
def pieceAt (k : Plan) (set i : Nat) : Option (Nat × Piece) := ((List.range k.pieces.length).zip k.pieces).find? fun x => x.2.set == set && x.2.step == i

/-- The steering set of a row; none where it has none. -/
def rowSet (e : Rt) (s : State) (tag : RowTag) : Option Nat := (segOf e s tag.row).bind fun g => if g.sFault || !tag.live then none else g.steer

/-- Where a shadow took over a gather: its byte from which the shadow is read; the whole gather when none did. -/
def shadowCut (l : List (Nat × Nat × Nat)) (a i n : Nat) : Nat := ((l.find? fun y => y.1 == a && y.2.1 == i).map (·.2.2)).getD n

/-- The steering vector of a row at a set-step, as lanes; none where the row has no steering set (04 R137; 05 R167). -/
def rowSteer (e : Rt) (s : State) (set i : Nat) (tag : RowTag) : List Lane :=
  match (loadedPlan s e.p).bind fun k => pieceAt k set i, rowSet e s tag with
  | some x, some t =>
    let v := getSteer s t
    if v.layers ≤ x.2.steerLayer ∨ v.st = .free then []
    else
      let n := v.width * steerElem v
      let cut := shadowCut (getPartner s e.p set).shadowVec t x.2.steerLayer n
      ((List.range (ceilDiv n 64)).flatMap fun j =>
        let y := shadowFetch s e.p v.ctx (some (setQuarter s e.p set)) (v.base + x.2.steerLayer * steerVec v) (64 * j) (min 64 (n - 64 * j)) cut
        (unpackElems (8 * steerElem v) (y.1.length / steerElem v) y.1).map fun z => (⟨toF32 (ofElem v.fmt z), y.2⟩ : Lane))
  | _, _ => []

/-- Rows of beats through a core's chain: (beats, tag) for each row; the core's operand cache and the free counter advance. -/
def runChain (e : Rt) (c i : Nat) (t : Step) (rows : List (List (List Lane) × RowTag)) (s : State) : List (List Byte × Bool × RowTag) × State :=
  let bs := readAccs e s c 1 t.patB (sizeB t)
  let w := beatW t
  let core := getCore s e.p c
  let arg := (inbArg t.chain).getD 0
  let r := rows.foldl (fun (acc : ChainSt × List (List Byte × Bool × RowTag) × Nat × Nat) row =>
    let n := row.1.length
    let inb := if (inbArg t.chain).isNone then []
      else if bit arg 0 then (match bs[acc.2.2.1]? with | some a => inbLanes arg 1 a | none => [])
      else ((bs.drop acc.2.2.2).take n).flatMap (inbLanes arg w)
    let steer := if t.mode = 2 ∧ t.adapter = true then rowSteer e s (c / 128) i row.2 else []
    let st := chainRow { ctx := e.run.ctx, w := w, curves := coreCurves e s c, steer := steer, inb := inb } t.chain row.1 acc.1
    (st, acc.2.1 ++ st.outs.map fun o => (o.1, o.2, row.2), acc.2.2.1 + 1, acc.2.2.2 + n)) ({ oc := core.oc, next := core.oc, red := none, outs := [], free := s.free }, [], 0, 0)
  (r.2.1, modCore e.p c (fun x => { x with oc := r.1.oc }) { s with free := r.1.free })

/-- Rows of a VECTOR step: the iterations of PAT_A's outermost loop (02 R59), or for a stream, which has one loop, the accesses of its
row outputs or row scalars, or else runs of accesses with one row tag (log 31). -/
def vecRows (f : Figure) (t : Step) : Option Nat :=
  match patternOf f t.patA with
  | none => some 1
  | some q =>
    if q.space ≠ 1 then some (q.counts.getLastD 1)
    else if (match putOf t.chain with | some x => x.2 | none => false) then (patternOf f t.patOut).map accesses
    else if (match inbArg t.chain with | some a => bit a 0 | none => false) then (patternOf f t.patB).map accesses
    else none

/-- Runs of accesses with one tag. -/
def tagRuns : List Acc → List (List Acc)
  | [] => []
  | a :: as => match tagRuns as with
    | (b :: r) :: rest => if a.tag = b.tag then (a :: b :: r) :: rest else [a] :: (b :: r) :: rest
    | rest => [a] :: rest

/-- A step's row tags where its data carry none: the round's rows in order. -/
def tagAt (e : Rt) (m : Nat) (t : Option RowTag) : RowTag := t.getD (e.tags.getD m noTag)

def vectorRows (e : Rt) (t : Step) (as : List Acc) : List (List Acc × RowTag) :=
  let rs := match vecRows e.f t with
    | some n => chunks (as.length / max 1 n) n as
    | none => tagRuns as
  ((List.range rs.length).zip rs).map fun x => (x.2, tagAt e x.1 ((x.2.head?).bind fun a => a.tag))

/-- A set's gathers for a step happen once a round. -/
def gatherOnce (p set i : Nat) (go : State → State) (s : State) : State :=
  if (getPartner s p set).begun.contains i then s else go (modPartner p set (fun w => { w with begun := nadd i w.begun }) s)

/-- A set works through the segments of its rows, in the rows' order: each in turn is the one in progress, `go` gathers for it, and the
rows that a shadow's value reaches are marked (05 R160, R167; 09 R290). -/
def bySegment (e : Rt) (set : Nat) (rows : List RowTag) (go : Segment → State → State) (fell : State → Segment → Bool) (s : State) : State :=
  ((rows.filterMap fun t => segIx e s t.row).eraseDups).foldl (fun s n =>
    match e.batch.bind fun b => (getBatch s e.p b).segs[n]? with
    | none => s
    | some g =>
      let s := go g (modPartner e.p set (fun w => { w with seg := n }) s)
      if fell s g then markRows e.p ((rows.map fun t => t.row).filter fun r => decide (g.first ≤ r) && decide (r < g.first + g.count)) s else s) s

/-- The vectors that a set's rows need are gathered (05 R167). -/
def gatherSteer (e : Rt) (set i : Nat) (tags : List RowTag) (s : State) : State :=
  match (loadedPlan s e.p).bind fun k => pieceAt k set i with
  | none => s
  | some x => gatherOnce e.p set i (bySegment e set (tags.filter fun t => (rowSet e s t).isSome)
      (fun g s => match g.steer with | some t => gatherVector e.p set t x.2.steerLayer s | none => s)
      (fun s g => (getPartner s e.p set).shadowVec.any fun y => some y.1 == g.steer && y.2.1 == x.2.steerLayer)) s

def fireVector (e : Rt) (c i : Nat) (t : Step) (s : State) : State :=
  let rows := (vectorRows e t (readAccs e s c 0 t.patA (sizeA t))).map fun r => (r.1.map fun a => vectorBeat t.fmtX a.data a.p, r.2)
  let s := if t.adapter then gatherSteer e (c / 128) i (rows.map (·.2)) s else s
  let y := runChain e c i t rows s
  putOutput e c t y.1 y.2

def fireRelay (e : Rt) (c : Nat) (t : Step) (s : State) : State :=
  let as := readAccs e s c 0 t.patA 64
  putOutput e c t (((List.range as.length).zip as).map fun x => (x.2.data, x.2.p, tagAt e x.1 x.2.tag)) s

/-! ### Matrix steps -/

/-- The lead core's activation accesses of a set in a step. -/
def setInputs (e : Rt) (s : State) (set i : Nat) : List Acc := let t := coreStep e.f (128 * set) i; readAccs e s (128 * set) 0 t.patA (sizeA t)

def setOpnds (t : Step) (as : List Acc) : List Opnd := match stepMode t with | some m => as.map fun a => actOpnd m t.fmtX a.data a.p | none => []

/-- One row's elements of a list of rows laid end to end. -/
def rowOf {α : Type} (n m : Nat) (l : List α) : List α := (l.drop (n * m)).take n

/-- A row tag of a set's broadcast. -/
def setTag (e : Rt) (f : Figure) (t : Step) (as : List Acc) (m : Nat) : RowTag := tagAt e m (((rowOf (rowAccesses f t) m as).head?).bind fun a => a.tag)

/-- Hand-offs of a core: for each row, for each K loop, its columns (03 R90, R97-R106). A poisoned weight word marks its own column; a
poisoned scale unit, which every column reads, marks all. -/
def handoffs (e : Rt) (s : State) (c i : Nat) (t : Step) (xs : List Opnd) : List (List (List Lane)) :=
  match stepMode t, patternOf e.f t.patW with
  | some m, some q =>
    let core := getCore s e.p c
    let wb := modeElems m * elemBits t.fmtW / 8
    let sel := e.f.selects.find? fun x => x.core == c && x.step == i
    let book (col n : Nat) : List Byte := match sel with
      | some x => if t.fmtW = 0xA then tget [] core.books (codebookPos x.base x.unitStride x.loop x.loopStride col (loopIx q.counts n)) else []
      | none => []
    let ws := (List.range (accesses q)).map fun n =>
      let word (o k : Nat) : List Byte × Bool := storeRead core.store e.run.ctx (patAddr q n + o) k
      let unit : List Byte × Bool := if isMx t.fmtW then word (modeCols m * wb) 16 else ([], false)
      (List.range (modeCols m)).map fun col => let a := word (col * wb) wb; colOpnd m t.fmtW a.1 (unit.1.getD col 0).toNat (book col n) (a.2 || unit.2)
    let k := q.counts.headD 1
    let rl := rowAccesses e.f t
    (List.range (patRows q)).map fun r => (List.range (rowHandoffs e.f t)).map fun h =>
      let at_ := r * rl + h * k
      (List.range (modeCols m)).map fun col => kLoop ((xs.drop at_).take k) (((ws.drop at_).take k).map fun l => l.getD col ⟨[], none, true⟩)
  | _, _ => []

/-- The adapter that a row's matrix products take in a group: its id, unless the row has none or goes without (05 R155, R163). -/
def rowAdapter (e : Rt) (s : State) (group : Nat) (tag : RowTag) : Option Nat :=
  match e.batch, segOf e s tag.row with
  | some b, some g =>
    let skip := match (getBatch s e.p b).step with | some t => t.skips.contains (group, tag.row) | none => false
    if g.aFault || skip || !tag.live then none else g.adapter
  | _, _ => none

/-- ALPHA in force for the batch (05 R146). -/
def alphaOf (e : Rt) (s : State) (a j : Nat) : Nat :=
  let x := getAdapter s a
  match e.batch.bind fun b => (x.oldAlpha.find? fun y => y.1 == b).map (·.2) with
  | some l => l.getD j 0
  | none => x.alpha.getD j 0

/-- Bytes of a piece of an adapter's body, from its shadow where its gather took that; what the gather was refused is +0 with poison
(07 R206, R225). -/
def bodyRead (e : Rt) (s : State) (set a i off n : Nat) (x : Piece) : List Byte × Bool :=
  let y := getAdapter s a
  shadowFetch s e.p y.ctx (some (setQuarter s e.p set)) (y.body + y.rank * x.offset) off n (shadowCut (getPartner s e.p set).shadowed a i (off + n))

/-- Down values of a member for one row: for each projection, for each rank, over its share accesses in access order (05 R142). -/
def memberDown (e : Rt) (s : State) (k : Plan) (a i : Nat) (x : Piece) (xs : List Opnd) : List (List Lane) :=
  let y := getAdapter s a
  let ps := pieceProjs k x
  let qs := x.shares.flatMap fun h => (List.range h.count).map fun j => h.access + j
  let order := sortBy (fun (a b : Nat × Nat) => decide (a.2 ≤ b.2)) ((List.range qs.length).zip qs)
  (List.range ps.length).map fun p => (List.range y.rank).map fun r =>
    downValue y.fmt (order.map fun g =>
      let b := bodyRead e s x.set a i (((g.1 * ps.length + p) * y.rank + r) * 32) 32 x
      (xs.getD g.2 ⟨[], none, true⟩, b.1, b.2))

/-- The row tags of a set's broadcast in a step, one for each of its rows. -/
def setTags (e : Rt) (s : State) (set i : Nat) : List RowTag :=
  let t := coreStep e.f (128 * set) i
  (List.range (match patternOf e.f t.patW with | some q => patRows q | none => 0)).map (setTag e e.f t (setInputs e s set i))

/-- Which of a set's rows is the `n`-th with a batch row: partials are matched by the batch row that they carry (05 R157). -/
def rowPlace (tags : List RowTag) (row n : Nat) : Option Nat :=
  ((((List.range tags.length).zip tags).filter fun x => x.2.row == row)[n]?).map (·.1)

/-- The reducer's h of the `n`-th row with a batch row: for each projection of the group, for each rank. A member without a share, or
without such a row, adds nothing. -/
def groupH (e : Rt) (s : State) (k : Plan) (g : ColGroup) (a row n : Nat) (inputs : Nat → List Opnd) : List (List Lane) :=
  let ms := g.members.filterMap fun i => (k.pieces[i]?).bind fun x =>
    if x.shares.isEmpty then none
    else (rowPlace (setTags e s x.set x.step) row n).map fun m =>
      memberDown e s k a i x (rowOf (rowAccesses e.f (coreStep e.f (128 * x.set) x.step)) m (inputs x.set))
  (List.range (maskBits g.projMask 8).length).map fun p => (List.range (getAdapter s a).rank).map fun r =>
    reduceDown (ms.map fun d => ((d.getD p []).getD r ⟨0, false⟩))

/-- A column's range, its projection's place, and its columns' place in the piece's column part. -/
def colRange (x : Piece) (h col : Nat) : Option (ColRange × Nat) :=
  ((x.cols.foldl (fun (acc : Option (ColRange × Nat) × Nat) c =>
    match acc.1 with
    | some y => (some y, 0)
    | none => if c.handoff = h ∧ c.firstCol ≤ col ∧ col < c.firstCol + c.count then (some (c, acc.2 + (col - c.firstCol)), 0) else (none, acc.2 + c.count)) (none, 0))).1

/-- A hand-off with its terms added (05 R142). -/
def addTerms (e : Rt) (s : State) (k : Plan) (pi : Nat) (x : Piece) (a : Nat) (hs : List (List Lane)) (h firstCol : Nat) (lanes : List Lane) : List Lane :=
  let y := getAdapter s a
  let ps := pieceProjs k x
  let base := 32 * ps.length * (x.shares.map fun h => h.count).sum * y.rank
  ((List.range lanes.length).zip lanes).map fun l =>
    match colRange x h (firstCol + l.1) with
    | none => l.2
    | some (c, n) =>
      let b := bodyRead e s x.set a pi (base + n * y.rank) y.rank x
      let t := adapterTerm y.fmt (alphaOf e s a c.proj) (hs.getD ((lpos (· == c.proj) ps).getD 0) []) b.1 b.2
      ⟨fadd l.2.v t.v, l.2.p || t.p⟩

/-- A set's rows of a step with their h, where the row has an adapter. -/
def setTerms (e : Rt) (s : State) (set i : Nat) (inputs : Nat → List Opnd) (tags : List RowTag) : List (Option (Plan × Nat × Piece × Nat × List (List Lane))) :=
  let t := coreStep e.f (128 * set) i
  match if t.adapter then (loadedPlan s e.p).bind fun k => (pieceAt k set i).map fun x => (k, x) else none with
  | none => tags.map fun _ => none
  | some (k, pi, x) =>
    ((List.range tags.length).zip tags).map fun r =>
      match k.groups[x.group]?, rowAdapter e s x.group r.2 with
      | some g, some a => some (k, pi, x, a, groupH e s k g a r.2.row ((tags.take r.1).filter fun t => t.row == r.2.row).length inputs)
      | _, _ => none

/-- The pieces that a set's rows need are gathered (05 R160, R161). -/
def gatherFor (e : Rt) (set i : Nat) (tags : List RowTag) (s : State) : State :=
  match (loadedPlan s e.p).bind fun k => pieceAt k set i with
  | none => s
  | some x => gatherOnce e.p set i (bySegment e set (tags.filter fun t => (rowAdapter e s x.2.group t).isSome)
      (fun g s => match g.adapter with | some a => gatherPiece e.p set a x.1 s | none => s)
      (fun s g => (getPartner s e.p set).shadowed.any fun y => some y.1 == g.adapter && y.2.1 == x.1)) s

/-- One core of a set in a matrix step. -/
def fireCore (e : Rt) (c i : Nat) (xs : List Opnd) (tags : List RowTag) (terms : List (Option (Plan × Nat × Piece × Nat × List (List Lane)))) (s : State) : State :=
  let t := coreStep e.f c i
  let cols := match stepMode t with | some m => modeCols m | none => 0
  let rows := handoffs e s c i t xs
  let rows := ((List.range rows.length).zip rows).map fun r =>
    (((List.range r.2.length).zip r.2).map fun h =>
      match terms.getD r.1 none with
      | some (k, pi, x, a, hs) => addTerms e s k pi x a hs h.1 (cols * (c % 128)) h.2
      | none => h.2, tags.getD r.1 noTag)
  if t.mode = 3 then
    let y := runChain e c i t rows s
    putOutput e c t y.1 y.2
  else
    let hs := rows.flatMap fun r => r.1.map fun h => (h, r.2)
    let s' := { s with free := s.free + hs.length * cols }
    let outs := ((List.range hs.length).zip hs).map fun h => (putBytes 0 0 (settle (s.free + h.1 * cols) h.2.1), h.2.1.any fun l => l.p, h.2.2)
    putOutput e c t outs s'

/-- Matrix-mode cores of a set at a step. -/
def matrixCores (f : Figure) (set i : Nat) : List Nat := ((List.range 128).map fun k => 128 * set + k).filter fun c => decide (i < stepCount f c) && isMatrix (coreStep f c i)

/-- Sets that work together at a step: those of one column group (05 R157). -/
def unitSets (s : State) (p set i : Nat) : List Nat :=
  match (loadedPlan s p).bind fun k => (pieceAt k set i).bind fun x => (k.groups[x.2.group]?).map fun g => g.members.filterMap fun m => (k.pieces[m]?).bind fun y => if y.step = i then some y.set else none with
  | some l => nadd set (naddAll l [])
  | none => [set]

/-- A core's step has computed. -/
def markFired (e : Rt) (c : Nat) : State → State := modCore e.p c fun x => { x with fired := true }

/-- Cores of a set compute their matrix step from the lead core's inputs; the lead cores of the set's whole unit keep theirs until every
core of the unit has computed. -/
def fireSet (e : Rt) (set i : Nat) (cs : List Nat) (s : State) : State :=
  let t := coreStep e.f (128 * set) i
  let as := setInputs e s set i
  let inputs (n : Nat) : List Opnd := setOpnds (coreStep e.f (128 * n) i) (setInputs e s n i)
  let tags := setTags e s set i
  let s := if t.adapter then gatherFor e set i tags s else s
  let terms := setTerms e s set i inputs tags
  cs.foldl (fun s c => markFired e c (fireCore e c i (setOpnds t as) tags terms s)) s

/-! ### The attention pipe (06 R175-R183, R187) -/

/-- A row's sequence as the pipe sees it: its page table and first query position; `none` for a row-slot that it skips (06 R176; 07
R222). -/
def rowSeq (e : Rt) (s : State) (tag : RowTag) (slot : Nat) : Option (Nat × Nat) :=
  let lateIn (l : List (Nat × Nat × Nat)) : Bool := l.any fun y => y.1 == tag.row && y.2.1 == slot
  if !tag.live || lateIn e.run.late then none
  else match e.batch, e.run.chunk with
    | some b, _ =>
      let x := getRow (getBatch s e.p b) tag.row
      let late := match (getBatch s e.p b).step with | some t => lateIn t.late | none => false
      if x.st = .active ∧ late = false then some (x.desc.pageTable, (readTab s e.p x.desc.pageTable).fill) else none
    | none, some ch =>
      match getCmd s e.run.ring e.run.idx with
      | some k => some (opd k.ops 2, ch.1 + tag.row)
      | none => none
    | none, none => none

/-- Address of the key (0) or value (1) of a page position. -/
def kvAddr (base d eb page v i : Nat) : Nat := base + page * 65536 + 32768 * v + i * d * eb

/-- Where a pipe beneath quarter `q` reads a key or value of a slot: its entry, its page's address, its offset in the page, and the byte
of the page's fetch from which the shadow is read. -/
def kvPlace (e : Rt) (s : State) (m : AttMap) (row tab slot v y : Nat) : Nat × Nat × Nat × Nat :=
  let P := kvP m.d m.kvFmt
  let eb := if m.kvFmt = 4 then 2 else 1
  let ent := y / P * (m.layers * m.kvHeads) + slot
  let cut := (e.run.fb.findSome? fun f => match f with | .pageShadow r n b k => if r = row ∧ n = slot ∧ b = y / P then some k else none | _ => none).getD pageBytes
  (ent, kvAddr (getPtn s e.p).att.poolBase m.d eb (entPage (readEnt s e.p tab ent)) 0 0, kvAddr 0 m.d eb 0 v (y % P), cut)

/-- Key or value of a position of a slot in its page (07 R206, R211, R225). -/
def readKv (e : Rt) (s : State) (m : AttMap) (q : Nat) (row tab slot v y : Nat) : List Byte × Bool :=
  let a := kvPlace e s m row tab slot v y
  shadowFetch s e.p e.run.ctx (some q) a.2.1 a.2.2.1 (m.d * (if m.kvFmt = 4 then 2 else 1)) a.2.2.2

/-- What that read does beside its data: LAST_USE, the access's faults, and POISONED of a page that gave a poisoned word (06 R188; 07
R205, R206, R225). -/
def notedKv (e : Rt) (m : AttMap) (q row tab slot v y : Nat) (s : State) : State :=
  let a := kvPlace e s m row tab slot v y
  let at_ := a.2.1 + a.2.2.1
  let g := engineRead s e.p e.run.ctx (some q) (if a.2.2.2 ≤ a.2.2.1 then shadowAddr s e.p at_ else at_) (m.d * (if m.kvFmt = 4 then 2 else 1))
  let s := afterRead e.p e.run.ctx e.run.ring e.run.idx 7 g s
  if g.poison && g.refuse.isEmpty then writeEnt e.p tab a.1 (setBit (readEnt s e.p tab a.1) 26) s else s

/-- The pipe's write of a key or value, as the context may write it (07 R206). -/
def writeKv (e : Rt) (a : Nat) (bs : List Byte) (poison : Bool) (s : State) : State :=
  let w := engineWrite e.p e.run.ctx a bs poison s
  raiseRefused e.run.ctx e.run.ring e.run.idx 7 0 w.2 w.1

/-- A new key or value: rotated (keys), scaled, narrowed (R180 steps 1-3). -/
def newKv (m : AttMap) (key : Bool) (x : Nat) (b : List Byte × Bool) : List Nat × Bool :=
  let v := vecOfBytes 4 m.d b.1 b.2
  let v := if key then rotate m.ropeBase x v else v
  (vecNarrow m.kvFmt { v with xs := v.xs.map fun y => fmul y (if key then m.kInv else m.vInv).toNat }, b.2)

/-- One row and slot: the output's bytes for each query position and head with its poison, and the pipe's writes. -/
def pipeSlot (e : Rt) (m : AttMap) (q row tab x0 slot : Nat) (qs kvs : Nat → Nat → List Byte × Bool) (s : State) : List (List Byte × Bool) × State :=
  let eb := if m.kvFmt = 4 then 2 else 1
  let P := kvP m.d m.kvFmt
  let new := (List.range m.qpos).map fun j => (newKv m true (x0 + j) (kvs j 0), newKv m false (x0 + j) (kvs j 1))
  let k := if m.kvFmt = 4 then 16 else 32
  let pos (x y : Nat) : KvPos :=
    if x < y ∨ (m.window ≠ 0 ∧ m.window ≤ x - y) then ⟨false, [], [], false⟩
    else if x0 ≤ y then let n := new.getD (y - x0) (([], false), ([], false)); ⟨true, n.1.1.map (ofElem m.kvFmt), n.2.1.map (ofElem m.kvFmt), n.1.2 || n.2.2⟩
    else
      let a := readKv e s m q row tab slot 0 y
      let b := readKv e s m q row tab slot 1 y
      ⟨true, (unpackElems (8 * eb) m.d a.1).map (ofElem m.kvFmt), (unpackElems (8 * eb) m.d b.1).map (ofElem m.kvFmt), a.2 || b.2⟩
  let outs := (List.range m.qpos).flatMap fun j =>
    let x := x0 + j
    let lo := if m.window = 0 then 0 else x + 1 - m.window
    let cs := (List.range (x / 32 + 1 - lo / 32)).map fun c => (List.range 32).map fun i => pos x ((lo / 32 + c) * 32 + i)
    (List.range m.g).map fun h =>
      let q := qs j h
      let v := vecNarrow m.qFmt (rotate m.ropeBase x (vecOfBytes m.qFmt m.d q.1 q.2))
      let o := attOut k m.scaleLog2 m.vScale m.d (v.map (ofElem m.qFmt)) cs
      let bad := o.2 || q.2
      let ls := o.1.map fun z => (⟨z, bad⟩ : Lane)
      (packElems (elemBits m.outFmt) ((settle (s.free + m.d * (j * m.g + h)) ls).map fun l => toElem m.outFmt (ofF32 l.v)), bad)
  let lo := if m.window = 0 then 0 else x0 + 1 - m.window
  let s := ((List.range (x0 - lo)).map (lo + ·)).foldl (fun s y => [0, 1].foldl (fun s v => notedKv e m q row tab slot v y s) s) { s with free := s.free + m.d * m.qpos * m.g }
  let s := ((List.range m.qpos).zip new).foldl (fun s n =>
    let ent := readEnt s e.p tab ((x0 + n.1) / P * (m.layers * m.kvHeads) + slot)
    let at_ (v : Nat) : Nat := kvAddr (getPtn s e.p).att.poolBase m.d eb (entPage ent) v ((x0 + n.1) % P)
    if entValid ent then
      writeKv e (at_ 1) (packElems (8 * eb) n.2.2.1) n.2.2.2 (writeKv e (at_ 0) (packElems (8 * eb) n.2.1.1) n.2.1.2 s)
    else s) s
  (outs, s)

/-- Flits of another context in a pipe's queue are discarded as the pipe takes them (04 R139; 06 R199). -/
def siftBuf (e : Rt) (c i q : Nat) (s : State) : State :=
  let fs := coreBuf s e.p c q
  if fs.all fun f => f.ctx == e.run.ctx then s
  else fs.foldl (fun s f => (flitRefused e.p c i (some e.run.ctx) f s).getD (pushBuf e.p c q [f] s)) (dropBuf e.p c q fs.length s)

/-- A page that the pipe would write for a row and slot is in TRANSIT (07 R215). -/
def kvWaits (e : Rt) (s : State) (m : AttMap) (tab x0 slot : Nat) : Bool :=
  let P := kvP m.d m.kvFmt
  (List.range m.qpos).any fun j =>
    let w := readEnt s e.p tab ((x0 + j) / P * (m.layers * m.kvHeads) + slot)
    entValid w && inTransit s e.p ((getPtn s e.p).att.poolBase + entPage w * pageBytes) 1

/-- The row tag of a pipe's row in a set-step. -/
def pipeTag (m : AttMap) (x : MapEntry) (qf : List Flit) (i : Nat) : RowTag := (flitSlice qf (i * x.slotCount * mapBytes m 0) 1).2.2

/-- The pipe's work of one round in a set-step; the answer says whether it worked. -/
def firePipe (e : Rt) (m : AttMap) (x : MapEntry) (s : State) : Bool × State :=
  let lead := 128 * x.set
  let s := siftBuf e lead x.step (65544 + x.step) (siftBuf e lead x.step (65536 + x.step) s)
  match attStream e.f x.set x.step 0, attStream e.f x.set x.step 1, attStream e.f x.set x.step 2 with
  | some q, some kv, some o =>
    let qf := (coreBuf s e.p lead (65536 + x.step)).take q.2.flits
    let kf := (coreBuf s e.p lead (65544 + x.step)).take kv.2.flits
    let waits := (List.range x.rows).any fun i => (List.range x.slotCount).any fun n =>
      match rowSeq e s (pipeTag m x qf i) (x.slotFirst + n) with | some y => kvWaits e s m y.1 y.2 (x.slotFirst + n) | none => false
    if qf.length < q.2.flits ∨ kf.length < kv.2.flits ∨ waits = true then (false, s)
    else
      let s := dropBuf e.p lead (65544 + x.step) kv.2.flits (dropBuf e.p lead (65536 + x.step) q.2.flits s)
      let qb := m.d * elemBits m.qFmt / 8
      let r := (List.range x.rows).foldl (fun (acc : List (List Byte × Bool × RowTag) × State) i =>
        let tag := pipeTag m x qf i
        (List.range x.slotCount).foldl (fun acc n =>
          let at_ := i * x.slotCount + n
          match rowSeq e acc.2 tag (x.slotFirst + n) with
          | none => (acc.1 ++ (List.range (m.qpos * m.g)).map fun _ => (List.replicate (m.d * elemBits m.outFmt / 8) 0, false, tag), acc.2)
          | some (tab, x0) =>
            let qs (j h : Nat) : List Byte × Bool := let y := flitSlice qf (at_ * mapBytes m 0 + (j * m.g + h) * qb) qb; (y.1, y.2.1)
            let kvs (j v : Nat) : List Byte × Bool := let y := flitSlice kf (at_ * mapBytes m 1 + (2 * j + v) * 2 * m.d) (2 * m.d); (y.1, y.2.1)
            let y := pipeSlot e m (setQuarter s e.p x.set) tag.row tab x0 (x.slotFirst + n) qs kvs acc.2
            (acc.1 ++ y.1.map fun z => (z.1, z.2, tag), y.2)) acc) ([], s)
      (true, addMoved e.p o.1 o.2.flits (queueOut e.p o.1 endpointPlace ((outFlits e r.1).take o.2.flits) r.2))
  | _, _, _ => (false, s)

/-! ### Running the steps -/

/-- Barriers that every core with LAYER_END steps has raised in the round (07 R221). -/
def raised (f : Figure) (s : State) (p c : Nat) : Nat := (((coreSteps f c).take (getCore s p c).step).filter fun t => t.layerEnd).length
def barriersDone (f : Figure) (s : State) (p : Nat) : Nat :=
  match (figCores f).filter fun c => (coreSteps f c).any fun t => t.layerEnd with
  | [] => 0
  | c :: cs => cs.foldl (fun n d => min n (raised f s p d)) (raised f s p c)

/-- Endpoint streams that feed a core's step. -/
def sourcesOf (f : Figure) (c i : Nat) : List (Nat × Stream × Nat) :=
  ((List.range f.streams.length).zip f.streams).filterMap fun x =>
    if fromEndpoint f x.2 then (((streamEnds f x.1 x.2).getD []).find? fun t => t.1 == c && t.2.1 == i).map fun t => (x.1, x.2, t.2.2) else none

/-- Endpoints issue what a step takes in the round; read ports only after the barriers that its core has raised. The answer says
whether one issued. -/
def supply (e : Rt) (bar c i : Nat) (s : State) : Bool × State :=
  (sourcesOf e.f c i).foldl (fun (acc : Bool × State) x =>
    let s := acc.2
    let k := x.1
    let ep := x.2.1.endpoint
    if x.2.1.flits ≤ movedOf s e.p k ∨ (ep < 0x100 ∧ bar < raised e.f s e.p c) then acc
    else if 0x9000 ≤ ep ∧ ep < 0xA000 then
      let s := settleLocal s
      let n := min (x.2.1.flits - movedOf s e.p k) (getChan s (ep - 0x9000)).rxq.length
      (acc.1 || n != 0, if n = 0 then s else pumpLinks (fromChannel e k (ep - 0x9000) c i n s))
    else match issueFlits e ep x.2.1.flits c (if 0xA000 ≤ ep then settleLocal s else s) with
      | (some fs, s) => (true, addMoved e.p k x.2.1.flits (queueOut e.p k endpointPlace fs s))
      | (none, s) => (acc.1, s)) (false, s)

/-- Two inputs of a step that a join names (02 R51). -/
def joined (f : Figure) (c i : Nat) : Bool := f.joins.any fun j => j.core == c && j.step == i

/-- Flits of an input that a step can have taken while another input has `has` of its `needs`: the two keep pace. -/
def pace (mine has needs : Nat) : Nat := if needs = 0 then mine else mine * min has needs / needs

/-- Flits that a step can have taken at an input: its inputs keep pace with each other, so that a starved input holds the other's flits in
their buffer (R52). In a matrix step input B keeps pace with the lead core's input A, and A with B only at a join. -/
def takeLimit (e : Rt) (s : State) (c i input : Nat) : Nat :=
  let t := coreStep e.f c i
  let need := needFlits e.f t input
  let there (k : Nat) : Nat := (takenFlits s e.p c k).length + (coreBuf s e.p c (inputPat t k)).length
  let other := pace need (there (1 - input)) (needFlits e.f t (1 - input))
  if !isMatrix t then other
  else if input = 0 then (if joined e.f c i then other else need)
  else
    let l := leadOf c
    min (pace need (takenFlits s e.p l 0).length (needFlits e.f (coreStep e.f l i) 0)) (if joined e.f c i then other else need)

/-- The credits of flits taken at an input go back to the receive channel that brought them (10 R311). -/
def creditTaken (e : Rt) (c i input n : Nat) (s : State) : State :=
  match (sourcesOf e.f c i).find? fun x => x.2.2 == input && decide (0x9000 ≤ x.2.1.endpoint) && decide (x.2.1.endpoint < 0xA000) with
  | some x => if ((streamEnds e.f x.1 x.2.1).getD []).head? = some (c, i, input) then returnCredits (x.2.1.endpoint - 0x9000) n s else s
  | none => s

/-- A step takes what its buffer at an input holds, as far as it may; a flit of another context is discarded (04 R139). -/
def takeInput (e : Rt) (c i input : Nat) (s : State) : Bool × State :=
  let q := inputPat (coreStep e.f c i) input
  let fs := (coreBuf s e.p c q).take (takeLimit e s c i input - (takenFlits s e.p c input).length)
  if needFlits e.f (coreStep e.f c i) input = 0 ∨ fs.isEmpty then (false, s)
  else
    let s := fs.foldl (fun s f => match flitRefused e.p c i (some e.run.ctx) f s with
      | some s => s
      | none => modCore e.p c (fun x => { x with taken := tmod [] input (· ++ [f]) x.taken }) s) (dropBuf e.p c q fs.length s)
    (true, creditTaken e c i input fs.length s)

/-- A core stands before or in a step and may run it: inside the round and not past the bow position. -/
def atStep (e : Rt) (stop : Option Nat) (s : State) (c i : Nat) : Bool :=
  (getCore s e.p c).step == i && decide (i < stepCount e.f c) && (match stop with | some b => decide ((stepEnds (coreSteps e.f c)).getD i 0 ≤ b) | none => true)

/-- A core's step `i` has computed. -/
def hasFired (s : State) (p c i : Nat) : Bool := let x := getCore s p c; decide (i < x.step) || (x.step == i && x.fired)

/-- Flits of a core, or of any, that wait for a write port (07 R221). -/
def writesWait (f : Figure) (s : State) (p : Nat) (core : Option Nat) : Bool :=
  let w := (getPtn s p).flow
  (w.outq ++ w.xOut).any fun y => !y.2.isEmpty && (match core with | some c => y.1 % 131072 == c | none => true) &&
    (match f.streams[y.1 / 131072]? with | some x => x.dstEndpoint && decide (0x100 ≤ x.endpoint) && decide (x.endpoint < 0x200) | none => false)

/-- A core goes on to its next step once the output of this one has drained and, for a lead core, the cores that work on its inputs have
computed; one that raises a barrier, once the tiers have accepted all that it wrote (02 R50; 03 R89; 07 R221). -/
def endStep (e : Rt) (c i : Nat) (s : State) : Bool × State :=
  let t := coreStep e.f c i
  let w := (getPtn s e.p).flow.outq
  let drained := (List.range t.streamCount).all fun j => (tget [] w (flowKey (t.streamFirst + j) c)).isEmpty
  let followers := if isMatrix t && isLead c then (unitSets s e.p (c / 128) i).flatMap fun n => matrixCores e.f n i else []
  if drained && !(t.layerEnd && writesWait e.f s e.p (some c)) && followers.all (fun d => hasFired s e.p d i) then (true, modCore e.p c (fun x => { restCore x with step := i + 1 }) s) else (false, s)

/-- The matrix cores of a set that have their inputs compute, once the lead cores of the unit have theirs. -/
def trySet (e : Rt) (stop : Option Nat) (set i : Nat) (s : State) : Bool × State :=
  let ready (n : Nat) : Bool := hasFired s e.p (128 * n) i || (atStep e stop s (128 * n) i && decide (needFlits e.f (coreStep e.f (128 * n) i) 0 ≤ (takenFlits s e.p (128 * n) 0).length))
  if !(unitSets s e.p set i).all ready then (false, s)
  else
    let cs := (matrixCores e.f set i).filter fun c => atStep e stop s c i && !(getCore s e.p c).fired && inputsTaken e s c i
    if cs.isEmpty then (false, s) else (true, fireSet e set i cs s)

/-- One attempt at the step a core stands before or in; the answer says whether anything moved. -/
def tryCore (e : Rt) (stop : Option Nat) (bar c : Nat) (s : State) : Bool × State :=
  let i := (getCore s e.p c).step
  if !atStep e stop s c i then (false, s)
  else if (getCore s e.p c).fired then endStep e c i s
  else
    let t := coreStep e.f c i
    let a := supply e bar c i s
    let b := takeInput e c i 0 a.2
    let d := takeInput e c i 1 b.2
    let moved := a.1 || b.1 || d.1
    if isMatrix t then
      if isLead c then let r := trySet e stop (c / 128) i d.2; (moved || r.1, r.2) else (moved, d.2)
    else if inputsTaken e d.2 c i then (true, markFired e c (match t.mode with | 2 => fireVector e c i t d.2 | 4 => fireRelay e c t d.2 | _ => d.2))
    else (moved, d.2)

/-- The round goes on until nothing more can run; `held` keeps read ports to the barriers already completed. -/
def runSteps (e : Rt) (stop : Option Nat) (held : Option Nat) : Nat → State → State
  | 0, s => s
  | n + 1, s =>
    let r := (figCores e.f).foldl (fun (acc : Bool × State) c =>
      let y := tryCore e stop (held.getD (barriersDone e.f acc.2 e.p)) c acc.2
      (acc.1 || y.1, y.2)) (false, s)
    let r := (match loadedMap r.2 e.p with | some m => m.entries.map fun x => (m, x) | none => []).foldl (fun (acc : Bool × State) (x : AttMap × MapEntry) =>
      let y := firePipe e x.1 x.2 acc.2
      (acc.1 || y.1, y.2)) r
    let m := moveFlits e r.2
    if r.1 || m.1 then runSteps e stop held n m.2 else m.2

/-- Enough passes for every step of the round and every hop of every flit. -/
def roundFuel (f : Figure) : Nat :=
  2 * ((figCores f).map fun c => stepCount f c).sum + 2 * (leadSteps f fun t => t.attn).length + 1 +
    (((List.range f.streams.length).zip f.streams).map fun x => x.2.flits * (4 + 2 * ((streamEnds f x.1 x.2).getD []).length)).sum

/-- Every core has run its round, and the write ports have accepted all of it (02 R45; 07 R219). -/
def roundOver (f : Figure) (s : State) (p : Nat) : Bool := ((figCores f).all fun c => (getCore s p c).step == stepCount f c) && !writesWait f s p none

/-- Every core stands at a bow position, and every crossing is empty. -/
def allAt (f : Figure) (s : State) (p b : Nat) : Bool :=
  flowEmpty (getPtn s p).flow &&
  (figCores f).all fun c => let i := (getCore s p c).step; decide (0 < i) && (stepEnds (coreSteps f c)).getD (i - 1) 0 == b

/-- Cores begin their next round; what a send channel has no credit for yet stays on its way. -/
def newRound (p : Nat) (s : State) : State :=
  modPtn p (fun x => { x with cores := tmap {} restCore x.cores, partner := tmap {} (fun w => { w with begun := [] }) x.partner, barrier := 0, flow := { x.flow with moved := [] } }) s

end Sys2Proof.Machine
end

