-- ==== Sys2Proof/Machine/LoadOps.lean ====
section
/-! DEFINITION. The loader's shared operations (02 R64-R74, R79): results, load checks, the loaded cores, and a partition's staged
fields. -/
namespace Sys2Proof.Machine

/-! ### Results -/

/-- FIG_ERR and FIG_ERR_INFO (R79). -/
def figErr (p code slot info : Nat) : State → State := modFig p fun f => { f with errCode := code, errSlot := slot, errInfo := info }

/-- What a finished or refused figure command tells the ring command that issued it (08 R245, R248). -/
def answerRing (by_ : Option (Nat × Nat)) (code info result : Nat) (s : State) : State :=
  match by_ with
  | none => s
  | some (r, i) => if code = 0 then endCmd r i 0 result s else endFigure r i code info s

/-- A figure command is refused before it begins. -/
def refuseFig (p slot : Nat) (by_ : Option (Nat × Nat)) (e : Nat × Nat) (s : State) : State :=
  pulse (srcPtn p 0) (answerRing by_ e.1 e.2 0 (figErr p e.1 slot e.2 s))

/-- A figure command ends: BUSY clears and the figure-done source pulses (R77). -/
def endFig (p : Nat) (c : FigCmd) (code info result : Nat) (s : State) : State :=
  pulse (srcPtn p 0) (answerRing c.by_ code info result (figErr p code c.slot info (modFig p (fun f => { f with cmd := none }) s)))

/-! ### Load checks (R65; 05 R148; 06 R177; 10 R310, R312) -/

/-- The column and row spans of some quarters. -/
def gridSpan (f : Nat → Nat) (qs : List Nat) : Nat × Nat := (qs.foldl (fun m q => min m (f q)) 7, qs.foldl (fun m q => max m (f q)) 0)

/-- The partition is not a rectangle of the figure's size, or a quarter of it is withheld: the quarter named. -/
def placementBad (s : State) (p : Nat) (f : Figure) : Option Nat :=
  let qs := qtrsOf s p
  let c := gridSpan qtrCol qs
  let r := gridSpan qtrRow qs
  if qs.length ≠ f.width * f.height ∨ c.2 + 1 - c.1 ≠ f.width ∨ r.2 + 1 - r.1 ≠ f.height then some (qs.headD 0)
  else qs.find? fun q => !bit s.qtrAvail q

/-- A channel that the image names is not ENABLED or not the partition's; in a split segment its route in force has F0 or F1 as PRIMARY or as
ALTERNATE (10 R310, R312). -/
def channelBad (s : State) (p : Nat) (f : Figure) : Option Nat :=
  (f.streams.filter fun x => x.dstEndpoint && decide (0x8000 ≤ x.endpoint) && decide (x.endpoint < 0xA000)).findSome? fun x =>
    let far (coord : Nat) : Bool := let w := routeWord s coord; bit w 11 && (decide (16 ≤ bits w 0 5) || (bit w 10 && decide (16 ≤ bits w 5 5)))
    let w := if x.endpoint < 0x9000 then tget 0 s.fab.tx0 (x.endpoint - 0x8000) else tget 0 s.fab.rx (x.endpoint - 0x9000)
    let bad :=
      if x.endpoint < 0x9000 then
        !bit w 17 || bits w 18 5 != p || (f.origin4 && (if bit w 16 then decide (bits (tget 0 s.fab.mcast (bits w 0 8)) 16 2 ≠ 0) else far (bits w 0 16)))
      else !bit w 16 || bits w 17 5 != p || (f.origin4 && far (bits w 0 16))
    if bad then some x.endpoint else none

/-- DIVIDER and CURRENT_TICKET at a partition divider. -/
def dividerBad (s : State) (p : Nat) (f : Figure) (d : Nat) : Option (Nat × Nat) :=
  if d < f.divFastest then some (0x14, d)
  else (((List.range 32).zip (figQtrs s p)).find? fun e => decide (budgetOf s e.2 < ticketOf f e.1 d)).map fun e => (0x15, e.2)

/-- The figure of a slot, if the slot is VALID. -/
def validFigure (s : State) (p slot : Nat) : Option Figure := if (getSlot s p slot).st = .valid then (getSlot s p slot).fig else none

/-- The checks of LOAD and SWITCH in the table's order: the first failure, or the figure. -/
def loadCheck (s : State) (p slot : Nat) : Except (Nat × Nat) Figure :=
  match validFigure s p slot with
  | none => .error (0x11, slot)
  | some f =>
    let x := getPtn s p
    if (f.steps.any fun t => t.adapter) && (tget none x.units.plans slot).isNone then .error (0x10, 0)
    else if (f.steps.any fun t => t.attn) && (tget none x.att.maps slot).isNone then .error (0x10, 1)
    else if f.mirrorTest || f.origin4 != x.fig.useChain then .error (0x12, 0)
    else match placementBad s p f with
      | some q => .error (0x13, q)
      | none => match channelBad s p f with
        | some n => .error (0x13, n)
        | none => match dividerBad s p f x.fig.cur.div with
          | some e => .error e
          | none => .ok f

/-! ### Loading (R67, R68; 14 R413) -/

/-- The digest of a bound plan or map; zeros when none is bound. -/
def boundDigest (s : State) (p : Nat) (r : Option (Nat × Nat)) : List Byte :=
  match r with | some e => sha256 (readRange s p none e.1 e.2).1 | none => List.replicate 32 0

/-- Measurement 0x10 + p. -/
def measureFigure (p slot : Nat) (f : Figure) (s : State) : State :=
  let x := getPtn s p
  let plan := boundDigest s p ((tget none x.units.plans slot).map fun k => (k.addr, k.size))
  let map := boundDigest s p ((tget none x.att.maps slot).map fun k => (k.addr, k.size))
  setMeas (0x10 + p) (sha256 (f.digest ++ leBytes 4 f.keySlot ++ leBytes 4 x.fig.epoch ++ plan ++ map)) s

/-- A load whose checks pass: LOADING, and the epoch advances before the cores are written (R68). -/
def beginLoad (p slot : Nat) (f : Figure) (s : State) : State :=
  measureFigure p slot f (modFig p (fun x => { x with st := .loading, epoch := if x.useChain then x.chainEpoch else (x.epoch + 1) % 65536 }) s)

/-- What the loader writes into a core: curve tables by number + 1, codebooks, and the static operand-cache lines (03 R98; 04 R130, R133). -/
def loadedCore (f : Figure) (c : Nat) : Core :=
  { curves := (f.curveLoads.filter fun e => e.1 == c).foldl (fun t e => tset 0 e.2.1 (e.2.2 + 1) t) [],
    books := (f.bookLoads.filter fun e => e.1 == c).foldl (fun t e => (List.range e.2.2.2).foldl (fun t i => tset [] (e.2.1 + i) (f.books.getD (e.2.2.1 + i) []) t) t) [],
    oc := (f.preloads.filter fun e => e.1 == c).foldl (fun t e => (List.range (4 * e.2.2.2)).foldl (fun t i =>
      tset {} (4 * e.2.1 + i) { val := f.ocData.getD (4 * e.2.2.1 + i) 0 } t) t) [] }

def loadedCores (f : Figure) : Tbl Core := (figCores f).foldl (fun t c => tset {} c (loadedCore f c) t) []

/-- The cores are written: the figure is loaded, and the sources of its receive channels get their credits (R67; 10 R311). -/
def putFigure (p slot : Nat) (f : Figure) (s : State) : State :=
  let s := modPtn p (fun x => { x with figure := some f, cores := loadedCores f, partner := [], barrier := 0, flow := {}, fig := { x.fig with slot := slot } }) s
  let s := (qtrsOf s p).foldl (fun s q => modQtr q (fun y => { y with epoch := (getPtn s p).fig.epoch }) s) s
  let s := retargetOne (setTickets p s) p
  (rxConsumers f).foldl (fun s e => returnCredits e.1 e.2 s) s

/-- Every core begins round 0 (R67). -/
def startFigure (p : Nat) (s : State) : State :=
  kick p (modPtn p (fun x => { x with fig := { x.fig with st := .running, rounds := 0 }, cores := tmap {} restCore x.cores, barrier := 0, flow := {} }) s)

/-- The stalled and waiting cycles of the rounds since the last count: the rules fix no number of them, so each amount is a free value
(02 R46, R47, R50, R85; log 32). -/
def countStalls (p : Nat) (s : State) : State :=
  (qtrsOf s p).foldl (fun s q =>
    let (stalled, s) := drawFree s
    let (waited, s) := drawFree s
    modQtr q (fun x => { x with stall := satAdd 32 x.stall stalled.toNat, syncWait := satAdd 32 x.syncWait waited.toNat }) s) s

/-! ### Staged fields of the FIG_ block (R72) -/

/-- The partition's staged FIG_ set takes effect, or is discarded as a whole. A commit names no slot: FIG_ERR.SLOT holds the loaded slot
after a failure and 0 after a success (R79; log 43). -/
def figTakeStaged (p : Nat) (s : State) : State :=
  match (getPtn s p).fig.staged with
  | none => s
  | some n =>
    let s := modFig p (fun f => { f with staged := none }) s
    let slot := (getPtn s p).fig.slot
    let bad := match (getPtn s p).figure with | some f => dividerBad s p f n.div | none => none
    match bad with
    | some e => figErr p e.1 slot e.2 s
    | none =>
      match settingRefused s p n.div with
      | some e => refuseSetting p e.1 e.2 s
      | none => retargetOne (pulse (srcPtn p 4) (figErr p 0 0 0 (modFig p (fun f => { f with cur := n }) s))) p

/-- Every staged set of the partition takes effect, and its divider moves (00 R10; 02 R67; 13 R386). -/
def roundChanges (p : Nat) (s : State) : State := takeDivider p (takeStaged p (figTakeStaged p s))

end Sys2Proof.Machine
end

