-- ==== Sys2Proof/Machine/Loader.lean ====
section
/-! DEFINITION. Figure commands from FIG_CMD and from command rings, their ends, and FIG_COMMIT (02 R64-R72, R77; 08 R245). -/
namespace Sys2Proof.Machine

def figOff (p : Nat) : Nat := 0x00401000 + 0x1000 * p

/-! ### Checks 0x10 and 0x11 (R65, R67) -/

/-- A figure command is not permitted now. -/
def figStateBad (s : State) (p slot : Nat) (op : FigOp) : Bool :=
  let f := (getPtn s p).fig
  f.cmd.isSome || !(getPtn s p).exists_ ||
  (match op, f.st with
   | .install, .empty | .install, .ready | .install, .running => false
   | .load, .empty | .load, .ready => false
   | .start, .ready => false
   | .drain, .running | .switch, .running => false
   | .remove, .empty | .remove, .ready | .remove, .running => false
   | .remove, _ => slotLoaded s p slot
   | _, _ => true)

/-- The slot does not suit the command; INSTALL's address lies off 64 B or outside T0 and T1. -/
def figSlotBad (s : State) (p slot : Nat) (op : FigOp) (addr size : Nat) : Bool :=
  let x := getSlot s p slot
  match op with
  | .install => !(decide (x.st = .empty) || decide (x.st = .invalid)) || decide (addr % 64 ≠ 0) || !rangeNear s p addr (max 1 size)
  | .load | .switch => decide (x.st ≠ .valid)
  | .remove => slotLoaded s p slot
  | _ => false

/-! ### The commands -/

/-- A slot empties; the plan and the map bound to it go with it (05 R148; 06 R177). -/
def emptySlot (p slot : Nat) (s : State) : State :=
  modAtt p (fun a => { a with maps := tset none slot none a.maps })
    (modUnits p (fun u => { u with plans := tset none slot none u.plans }) (modSlot p slot (fun _ => {}) s))

/-- LOAD's checks, then LOADING. -/
def tryLoad (p : Nat) (c : FigCmd) (s : State) : State :=
  match loadCheck s p c.slot with
  | .error e => endFig p c e.1 e.2 0 (modFig p (fun x => { x with st := c.back }) s)
  | .ok f => beginLoad p c.slot f s

/-- A figure command begins. -/
def figGo (p slot : Nat) (op : FigOp) (by_ : Option (Nat × Nat)) (addr size : Nat) (s : State) : State :=
  let c : FigCmd := { op := op, slot := slot, back := (getPtn s p).fig.st, by_ := by_ }
  if figStateBad s p slot op then refuseFig p slot by_ (0x10, 0) s
  else if figSlotBad s p slot op addr size then refuseFig p slot by_ (0x11, slot) s
  else
    let s := modFig p (fun x => { x with cmd := some c }) s
    match op with
    | .install => modSlot p slot (fun _ => { st := .verifying, addr := addr, size := size }) s
    | .remove => endFig p c 0 0 slot (emptySlot p slot s)
    | .load => tryLoad p c s
    | .start => endFig p c 0 0 0 (startFigure p s)
    | .drain | .switch => requestStop p false (modFig p (fun x => { x with st := .draining }) s)

/-- FIG_CMD of a partition. -/
def figCmd (fn p slot : Nat) (op : FigOp) (s : State) : State :=
  hostAccess fn (figOff p) (seesPtn s fn p) false (fun s => figGo p slot op none (getPtn s p).fig.instAddr (getPtn s p).fig.instSize s) s

def execInstall (fn : FnId) (p : PtnId) (slot : SlotId) (s : State) : Host.Outcome State Fault Refusal := .next (figCmd fn.val p.val slot.val .install s)
def execRemove (fn : FnId) (p : PtnId) (slot : SlotId) (s : State) : Host.Outcome State Fault Refusal := .next (figCmd fn.val p.val slot.val .remove s)
def execLoad (fn : FnId) (p : PtnId) (slot : SlotId) (s : State) : Host.Outcome State Fault Refusal := .next (figCmd fn.val p.val slot.val .load s)
def execStart (fn : FnId) (p : PtnId) (s : State) : Host.Outcome State Fault Refusal := .next (figCmd fn.val p.val 0 .start s)
def execDrain (fn : FnId) (p : PtnId) (s : State) : Host.Outcome State Fault Refusal := .next (figCmd fn.val p.val 0 .drain s)
def execSwitch (fn : FnId) (p : PtnId) (slot : SlotId) (s : State) : Host.Outcome State Fault Refusal := .next (figCmd fn.val p.val slot.val .switch s)

/-- A figure opcode of a command ring: PERMIT without FIGURE_OPS, else as FIG_CMD (08 R245). -/
def figOpcode (op : FigOp) (c : Cmd) (s : State) : State :=
  if !(getCtx s c.ctx).cur.figOps then endCmd c.ring c.idx 0x10 0 s
  else figGo c.ptn (opf c.ops 2 0 3) op (some (c.ring, c.idx)) (opd c.ops 4) (opw c.ops 6) (modCmd c.ring c.idx (fun k => { k with phase := .running }) s)

def execFigInstall (e : Entry) (s : State) : Host.Outcome State Fault Refusal := .next (runEntry e 0x10 s (figOpcode .install))
def execFigRemove (e : Entry) (s : State) : Host.Outcome State Fault Refusal := .next (runEntry e 0x11 s (figOpcode .remove))
def execFigLoad (e : Entry) (s : State) : Host.Outcome State Fault Refusal := .next (runEntry e 0x12 s (figOpcode .load))
def execFigStart (e : Entry) (s : State) : Host.Outcome State Fault Refusal := .next (runEntry e 0x13 s (figOpcode .start))
def execFigDrain (e : Entry) (s : State) : Host.Outcome State Fault Refusal := .next (runEntry e 0x14 s (figOpcode .drain))
def execFigSwitch (e : Entry) (s : State) : Host.Outcome State Fault Refusal := .next (runEntry e 0x15 s (figOpcode .switch))

/-! ### Their ends -/

/-- INSTALL ends with its checks: the slot is VALID with its figure, or INVALID (R64, R65). -/
def installEnd (p : Nat) (s : State) : State :=
  match (getPtn s p).fig.cmd with
  | some c =>
    if c.op = .install then
      let x := getSlot s p c.slot
      match installVerdict s p x with
      | .error e => endFig p c e.1 e.2 0 (modSlot p c.slot (fun y => { y with st := .invalid, err := e.1 }) s)
      | .ok f => endFig p c 0 0 c.slot (modSlot p c.slot (fun y => { y with st := .valid, fig := some f }) s)
    else s
  | none => s

def execInstallDone (p : PtnId) (s : State) : Host.Outcome State Fault Refusal := .next (if isReady s then installEnd p.val s else s)

/-- The cores are written: READY, or after a SWITCH at once RUNNING (R67). -/
def loadEnd (p : Nat) (s : State) : State :=
  let x := (getPtn s p).fig
  match x.cmd with
  | some c =>
    if x.st ≠ .loading then s
    else match (getSlot s p c.slot).fig with
      | none => s
      | some f =>
        let s := modFig p (fun y => { y with st := .ready }) (putFigure p c.slot f s)
        endFig p c 0 0 x.epoch (if c.op = .switch then startFigure p s else s)
  | none => s

def execLoadDone (p : PtnId) (s : State) : Host.Outcome State Fault Refusal := .next (if isReady s then loadEnd p.val s else s)

/-- A mover or the exchange unit still has a request of the partition (R69). -/
def enginesBusy (s : State) (p : Nat) : Bool :=
  (List.range 8).any (fun d => (getDie s d).moverQ.any fun i => i.ptn == p) ||
  (getPtn s p).xch.exchs.any fun e => !(e.2.scoreIn.isEmpty && e.2.actIn.isEmpty && e.2.toks.isEmpty)

/-- No command runs, every stream buffer and crossing of the partition is empty, and no engine request of it is outstanding (R69). -/
def drained (s : State) (p : Nat) : Bool :=
  let x := getPtn s p
  x.fe.run.isNone && (match x.fe.mode with | .idle => true | .gap => true | _ => false) && flowEmpty x.flow &&
    (x.cores.all fun e => e.2.bufs.isEmpty) && !enginesBusy s p

/-- A drain is complete: READY, with the staged sets in force; after a SWITCH the load checks follow (R67, R69). The cycles that the last
round stalled before the cores stopped are counted (R85). -/
def drainEnd (p : Nat) (s : State) : State :=
  let x := getPtn s p
  match x.fig.cmd with
  | some c =>
    if x.fig.st ≠ .draining ∨ drained s p = false then s
    else
      let s := modFig p (fun y => { y with st := .ready }) (modFe p (fun f => { f with mode := .idle }) (clearStreams p (countStalls p s)))
      let s := roundChanges p s
      if c.op = .switch then tryLoad p { c with back := .ready } s else endFig p c 0 0 0 s
  | none => s

def execDrainComplete (p : PtnId) (s : State) : Host.Outcome State Fault Refusal := .next (if isReady s then drainEnd p.val s else s)

/-- A drain, or the empty run of a context or engine reset, that its limit ends (R70; 11 R336). -/
def drainLate (p buffers : Nat) (s : State) : State :=
  let x := getPtn s p
  let emptying := decide (x.fe.mode = .gap) && ((ctxsOf s p).any fun c => (getCtx s c).reset.isSome)
  if x.fig.st = .draining ∨ (ptnRuns x = true ∧ emptying = true) then
    let ended : Option (Nat × Nat) := x.fig.cmd.bind fun c => c.by_
    let s := if x.fig.cmd.isSome then pulse (srcPtn p 0) s else s
    let by_ : Option (Nat × Nat) := match ended with | some e => some e | none => x.fe.run.map fun (r : Running) => (r.ring, r.idx)
    let rec_ := (faultRec s 0x0203 ((by_.map fun (e : Nat × Nat) => e.2).getD 0) buffers).withPtn p
    raise (match by_ with | some e => (rec_.withCtx s (getRing s e.1).cur.ctx).withRing e.1 | none => rec_)
      (modFig p (fun f => { f with st := .faulted, cmd := none }) s)
  else s

def execDrainTimeout (p : PtnId) (buffers : Nat) (s : State) : Host.Outcome State Fault Refusal := .next (if isReady s then drainLate p.val buffers s else s)

/-! ### FIG_COMMIT (00 R10; 02 R72, R80) -/

def figCommitNow (p : Nat) (s : State) : State :=
  let s := modFig p (fun f => { f with staged := some f.sh }) s
  if ptnRuns (getPtn s p) then s else figTakeStaged p s

def execFigCommit (fn : FnId) (p : PtnId) (s : State) : Host.Outcome State Fault Refusal :=
  .next (hostAccess fn.val (figOff p.val + 0x10) (seesPtn s fn.val p.val) false (figCommitNow p.val) s)

end Sys2Proof.Machine
end

