-- ==== Sys2Proof/Machine/Rounds.lean ====
section
/-! DEFINITION. A figure's rounds and what they complete (02 R67; 05 R157; 06 R197; 09 R264-R266, R271-R288): the row inputs, passes
and drafts, PARTITION_ROUND_BOUNDARY, PARTITION_BARRIER, STREAM_FLIT, RECOMPUTE chunks and the batch step boundary. -/
namespace Sys2Proof.Machine

/-! ### Row inputs (09 R271, R281) -/

/-- What a row input carries for one row of a batch step: its tag and bytes, and whether the log token comes from a poisoned line (07 R228). -/
def batchRow (s : State) (p b : Nat) (x : Batch) (t : BStep) (row : Nat) : RowTag × List Byte × Bool :=
  let y := getRow x row
  let ds := tget [] t.drafts row
  let d := rowD y
  let want := if t.passNo = 0 then d else t.passNo - 1
  let here := t.passNo == 0 || decide (want ≤ ds.length) && (ds.take want).all fun k => !k.none_
  let live := decide (row < x.desc.rows) && decide (y.st = .active) && (t.passNo == 0 || decide (t.passNo ≤ d)) && here
  if !live then (⟨row, t.passNo, 0, false⟩, rowWords row false 1 t.passNo 0 [0] x.gen b, false)
  else
    let k := readTab s p y.desc.pageTable
    let log := readLog s p k.logAddr k.fill
    if t.passNo = 0 then (⟨row, 0, 0, true⟩, rowWords row true (1 + d) 0 k.fill (log :: (ds.take d).map fun e => e.token) x.gen b, logBad s p k.logAddr k.fill)
    else
      let tok := if t.passNo = 1 then log else (ds[t.passNo - 2]?.map fun e => e.token).getD 0
      (⟨row, t.passNo, 0, true⟩, rowWords row true 1 t.passNo (k.fill + t.passNo - 1) [tok] x.gen b, t.passNo == 1 && logBad s p k.logAddr k.fill)

/-- Rows of a RECOMPUTE round: those of the attention map's entries (06 R197; log 25). -/
def chunkPerRound (s : State) (p : Nat) : Nat := max 1 (match loadedMap s p with | some m => ((m.entries.head?).map fun e => e.rows).getD 1 | none => 1)

/-- What a row input carries for row `i` of a chunk. -/
def chunkRow (s : State) (p a first n i : Nat) : RowTag × List Byte × Bool :=
  if i < n then
    (⟨i, 0, 0, true⟩, rowWords i true 1 0 (first + i) [readLog s p (readTab s p a).logAddr (first + i)] 0 0, logBad s p (readTab s p a).logAddr (first + i))
  else (⟨i, 0, 0, false⟩, rowWords i false 1 0 0 [0] 0 0, false)

/-- What runs in a mirror run: no command and no context's (11 R347); its number stands beyond the contexts. -/
def mirrorRun : Running :=
  { ring := 0, idx := 0, ctx := 4096, opcode := 0x16, target := 0, ports := [], round := 0, base := 0, done := 0, batch := 0, chunk := none }

/-- The rounds of a mirror run. -/
def mirrorRt (x : Ptn) (p : Nat) : Option Rt :=
  match x.figure with
  | some f => some { p := p, f := f, epoch := x.fig.epoch, run := mirrorRun, batch := none, pass := 0, tags := [], rows := [] }
  | none => none

/-- The rounds of the running command: none while it waits for its samplers or its chunk's end. -/
def rtOf (s : State) (p : Nat) : Option Rt :=
  let x := getPtn s p
  if mirroring x then mirrorRt x p else
  match x.figure, x.fe.run with
  | some f, some r =>
    let e : Rt := { p := p, f := f, epoch := x.fig.epoch, run := r, batch := none, pass := 0, tags := [], rows := [] }
    if !ptnRuns x || !feRuns x.fe then none
    else if r.opcode = 0x21 then
      let b := getBatch s p r.batch
      match b.step with
      | none => none
      | some t =>
        if t.computed then none
        else
          let rows := (List.range b.desc.perRound).map fun i => batchRow s p r.batch b t (t.round * b.desc.perRound + i)
          some { e with batch := some r.batch, pass := t.passNo, tags := rows.map (·.1), rows := rows.map (·.2) }
    else if r.opcode = 0x28 then
      match r.chunk, getCmd s r.ring r.idx with
      | some ch, some k =>
        let per := chunkPerRound s p
        if ceilDiv ch.2 per ≤ r.round then none
        else
          let rows := (List.range per).map fun i => chunkRow s p (opd k.ops 2) ch.1 ch.2 (r.round * per + i)
          some { e with tags := rows.map (·.1), rows := rows.map (·.2) }
      | _, _ => none
    else some e
  | _, _ => none

/-! ### Logits of a row-position (09 R272, R273) -/

/-- Flits that hold one producer's part of a row-position. -/
def partFlits (t : BStep) (v : VMap) (row j : Nat) : List LogitFlit := t.logits.filter fun l => l.row == row && l.pass == v.pass && l.pos == j && l.core == v.core && l.step == v.step

/-- Every logit of a row-position has arrived. -/
def logitsHere (d : BDesc) (t : BStep) (row pass j : Nat) : Bool := (d.vmap.filter fun v => v.pass == pass).all fun v => decide (posFlits d v ≤ (partFlits t v row j).length)

/-- A row-position's logits as binary32, in token order, and whether a flit of them is poisoned. -/
def posLogits (d : BDesc) (t : BStep) (row pass j : Nat) : List Nat × Bool :=
  let vs := sortBy (fun a b => decide (a.first ≤ b.first)) (d.vmap.filter fun v => v.pass == pass)
  (vs.flatMap (fun v =>
    let bs := (partFlits t v row j).flatMap fun l => padTo 64 l.data
    (unpackElems (if d.bf16 then 16 else 32) v.count bs).map fun z => if d.bf16 then z * 65536 else z),
   vs.any fun v => (partFlits t v row j).any fun l => l.poison)

/-- A row's mask state after tokens. -/
def maskAfter (s : State) (y : BRow) (toks : List Nat) : Nat := if y.desc.mNone then y.maskState else toks.foldl (maskNext (getMask s y.desc.mask)) y.maskState

/-- A mask state's bitmap is poisoned (R287). -/
def maskPoison (s : State) (y : BRow) (st : Nat) : Bool := !y.desc.mNone && nhas (getMask s y.desc.mask).bad st

/-- The sampler that serves a row, and its mask engine, are not in reset (R280; 11 R340). -/
def samplerServes (s : State) (d : BDesc) (y : BRow) (r : Nat) : Bool :=
  !engStopped s (.sampler (dieId (samplerDie d r))) && (y.desc.mNone || !engStopped s (.mask (dieId (samplerDie d r))))

/-- The candidate list of a row-position in a mask state. -/
def rowList (s : State) (y : BRow) (st : Nat) (zs : List Nat) : CandList :=
  candidates zs (fun n => y.desc.mNone || maskAllows (getMask s y.desc.mask) st n) y.desc.invTemp.toNat y.desc.topP.toNat y.desc.topK

/-- Draft token `d` of a row (R281). -/
def drawDraft (s : State) (p : Nat) (x : Batch) (t : BStep) (d r : Nat) : DraftTok :=
  let y := getRow x r
  let z := posLogits x.desc t r d 0
  let st := maskAfter s y ((tget [] t.drafts r).map fun k => k.token)
  let bad := z.2 || maskPoison s y st
  match rowList s y st z.1 with
  | none => ⟨0, [], 0, bad, true⟩
  | some l => ⟨drawFrom l.1 l.2 (drawU y.desc.seed (rowFill s p y.desc + d) 2), l.1.map fun e => (e.1, BitVec.ofNat 32 e.2), BitVec.ofNat 32 l.2, bad, false⟩

/-- Rows that draw a draft in a pass. -/
def draftRows (x : Batch) (t : BStep) (d : Nat) : List Nat :=
  (rowsIn x fun y => decide (y.st = .active) && decide (d ≤ rowD y)).filter fun r => (tget [] t.drafts r).length == d - 1 && (tget [] t.drafts r).all fun k => !k.none_

/-- The samplers have what a pass's end needs. -/
def passReady (s : State) (p : Nat) : Bool :=
  match (getPtn s p).fe.run with
  | none => true
  | some r =>
    let x := getBatch s p r.batch
    match x.step with
    | none => true
    | some t => r.opcode != 0x21 || t.passNo == 0 || decide (t.round + 1 < passRounds x.desc) || (draftRows x t t.passNo).all fun i => logitsHere x.desc t i t.passNo 0 && samplerServes s x.desc (getRow x i) i

/-! ### Rounds -/

/-- A round of a batch step is over: the next round, the next pass, or the step is computed (R264, R281). -/
def advancePass (s : State) (p : Nat) (x : Batch) (t : BStep) : BStep :=
  if t.round + 1 < passRounds x.desc then { t with round := t.round + 1 }
  else if t.passNo = 0 then { t with computed := true }
  else
    let drafts := (draftRows x t t.passNo).foldl (fun ds r => tmod [] r (· ++ [drawDraft s p x t t.passNo r]) ds) t.drafts
    { t with drafts := drafts, round := 0, passNo := if t.passNo < x.desc.maxDraft then t.passNo + 1 else 0 }

/-- What a round completes for the running command. -/
def roundDone (p : Nat) (s : State) : State :=
  let s := modRun p (fun r => { r with fb := [] }) s
  match (getPtn s p).fe.run with
  | none => s
  | some r =>
    if r.opcode = 0x16 then
      let n := { r with base := r.base + 1, done := r.done + 1 }
      let s := modRun p (fun _ => n) s
      if n.target ≤ n.done then endWork p n 0 n.done s else s
    else
      let s := modRun p (fun r => { r with round := r.round + 1 }) s
      if r.opcode = 0x21 then
        let x := getBatch s p r.batch
        modStep p r.batch (fun t => advancePass s p x t) s
      else s

/-- A round boundary is counted, and cores begin the next round (R67, R83). -/
def countRound (p : Nat) (s : State) : State := modFig p (fun f => { f with rounds := f.rounds + 1 }) (newRound p s)

/-- The cycle counters of the round that ended (02 R85; 05 R161, R172; 07 R221, R232): the round lasted ROUND_LEN cycles and a free
number of stalled ones; cycles at a barrier or for a gather count only where the figure has such steps (log 32). -/
def countCycles (p : Nat) (s : State) : State :=
  let f := (getPtn s p).figure
  let has (g : Step → Bool) : Bool := match f with | some f => f.steps.any g | none => false
  let len := match f with | some f => f.roundLen | none => 0
  let (late, s) := drawFree (countStalls p s)
  let s := (qtrsOf s p).foldl (fun s q => modQtr q (fun x => { x with roundMax := max x.roundMax (min (len + late.toNat) 0xFFFFF) }) s) s
  let (atBarrier, s) := drawFree s
  let (atGather, s) := drawFree s
  modPtn p (fun x => { x with mem := { x.mem with barrierWait := if has fun t => t.layerEnd then satAdd 32 x.mem.barrierWait atBarrier.toNat else x.mem.barrierWait },
                              units := { x.units with stall := if has fun t => t.adapter then satAdd 32 x.units.stall atGather.toNat else x.units.stall } }) s

/-- A round of a mirror run is over; it does not count in FIG_ROUNDS (11 R349; log 56). -/
def mirrorRoundDone (p : Nat) (s : State) : State :=
  countCycles p (roundChanges p (modPtn p (fun x => { x with mirrorRounds := x.mirrorRounds + 1 }) (newRound p s)))

/-- A round of a mirror run, until its REPORT's rounds have run. -/
def mirrorBoundary (p : Nat) (s : State) : State :=
  let x := getPtn s p
  match mirrorRt x p with
  | none => s
  | some e =>
    if mirrorTarget x ≤ x.mirrorRounds then s
    else
      let s := runSteps e none none (roundFuel e.f) s
      if roundOver e.f s p then mirrorRoundDone p s else s

/-- A partition round boundary: the round runs to its end, if its inputs and its clocks allow. -/
def roundBoundary (p : Nat) (s : State) : State :=
  if !ptnRuns (getPtn s p) || !c1Runs s p then s
  else if mirroring (getPtn s p) then mirrorBoundary p s
  else match rtOf s p with
    | none => if feRuns (getPtn s p).fe || (getPtn s p).fe.run.isNone then countCycles p (roundChanges p (countRound p s)) else s
    | some e =>
      let s := runSteps e none none (roundFuel e.f) s
      if roundOver e.f s p && passReady s p then countCycles p (roundDone p (roundChanges p (countRound p s))) else s

def execPartitionRoundBoundary (p : PtnId) (s : State) : Host.Outcome State Fault Refusal := .next (if isReady s then roundBoundary p.val s else s)

/-- A partition barrier completes once every core with LAYER_END steps has raised it (07 R221). -/
def barrierNext (p : Nat) (s : State) : State :=
  let n := (getPtn s p).barrier
  match rtOf s p with
  | none => s
  | some e =>
    let s := runSteps e none (some n) (roundFuel e.f) s
    if n < barriersDone e.f s p then modPtn p (fun x => { x with barrier := n + 1 }) s else s

/-- A barrier message; one of another figure epoch is discarded (02 R68; log 31). -/
def execPartitionBarrier (m : BarrierMsg) (s : State) : Host.Outcome State Fault Refusal :=
  let p := m.ptn.val
  .next (if !isReady s || !ptnRuns (getPtn s p) || !c1Runs s p then s
    else if m.epoch.val ≠ (getPtn s p).fig.epoch then wrongEpoch p 0 m.epoch.val s else barrierNext p s)

/-- A flit that arrives from outside the partition's own streams: the epoch and context checks, then the buffer (02 R68; 04 R139). A full
buffer holds it back outside (02 R50). -/
def flitArrives (p : Nat) (port : FlitPort) (f : Flit) (s : State) : State :=
  let own := ((getPtn s p).fe.run).map fun r => r.ctx
  match port with
  | .core c i k =>
    match flitRefused p c i own f s with
    | some t => t
    | none =>
      match (getPtn s p).figure with
      | some g =>
        let q := inputPat (coreStep g c i) k
        if i < stepCount g c ∧ 0 < bufRoom g s p c q then pushBuf p c q [f] s else s
      | none => s
  | .partner set => (flitRefused p (128 * set) 0 own f s).getD s
  | .attention set i k => (flitRefused p (128 * set) i own f s).getD (pushBuf p (128 * set) (65536 + 8 * k + i) [f] s)
  | .sampler d c i => (flitRefused p c i own f s).getD (match rtOf s p with | some e => toSampler e d.val c i f s | none => s)

def execStreamFlit (p : PtnId) (port : FlitPort) (flit : Flit) (s : State) : Host.Outcome State Fault Refusal :=
  .next (if isReady s && ptnRuns (getPtn s p.val) && c1Runs s p.val then flitArrives p.val port flit s else s)

/-! ### Going on with a command (06 R197; 08 R250) -/

/-- The context's other kind of figure work that alternates with a command: RECOMPUTE with BATCH_RUN (06 R197). -/
def alternate (s : State) (p : Nat) (r : Running) : Option (Nat × Nat) :=
  let other := if r.opcode = 0x21 then 0x28 else 0x21
  let f := (getPtn s p).fe
  ((f.saved.filter fun (v : Saved) => v.area.isNone).map (fun v => v.run) ++ f.queue).findSome? fun k => if k.ctx = r.ctx ∧ k.opcode = other then some (k.ring, k.idx) else none

/-- The command gives way at a boundary where nothing is saved: pre-empted, or for the work that alternates with it. -/
def giveWay (p : Nat) (r : Running) (go : State → State) (s : State) : State :=
  match (getPtn s p).fe.mode with
  | .stopping _ => setAside p r s
  | _ =>
    match alternate s p r with
    | some e => setAside p r (modFe p (fun f => { f with next := some e }) s)
    | none => go s

/-! ### RECOMPUTE chunks (06 R197) -/

/-- The sequence's header once a chunk of it, up to position `top`, is there. -/
def pastChunk (s : State) (p a top : Nat) : State :=
  match loadedMap s p with
  | none => s
  | some m => modTab p a (fun t => { (if t.hasDrop then { t with dropFrom := top / kvP m.d m.kvFmt } else { t with fill := top }) with lastUse := s.time }) s

/-- RECOMPUTE's end: the missing range is empty (R197 step 6). -/
def recomputeEnd (p a : Nat) : State → State := modTab p a fun t => { t with hasDrop := false, recomputing := false, fill := t.logLen - 1 }

/-- A late block of a row, or of a chunk, is treated as dropped (07 R222; 06 R195). -/
def dropLate (p c a b : Nat) (s : State) : State :=
  let es := validEnts s p a (readTab s p a) b
  modTab p a (fun t => { t with hasDrop := true, dropFrom := if t.hasDrop then min t.dropFrom b else b }) (returnPages p c a es dropMark s)

/-- A chunk is done: the blocks whose reads came late are missing again, and the command goes on with the next missing positions. -/
def chunkDone (p : Nat) (s : State) : State :=
  match (getPtn s p).fe.run with
  | none => s
  | some r =>
    match r.chunk, getCmd s r.ring r.idx with
    | some ch, some k =>
      if r.opcode ≠ 0x28 ∨ feRuns (getPtn s p).fe = false ∨ r.round < ceilDiv ch.2 (chunkPerRound s p) ∨ inTransit s p (opd k.ops 2) 64 = true then s
      else
        let a := opd k.ops 2
        let top := ch.1 + ch.2
        let late := (r.late.map (·.2.2)).eraseDups
        let n : Running := { r with chunk := none, done := r.done + ch.2, units := r.units + 1, base := r.base + r.round, round := 0, late := [] }
        let s := late.foldl (fun s b => dropLate p r.ctx a b s) (modRun p (fun _ => n) (pastChunk s p a top))
        if (readTab s p a).logLen ≤ top + 1 ∧ late = [] then endWork p n 0 n.done (recomputeEnd p a s)
        else giveWay p n (fun s =>
          match nextChunk p k s with
          | (some c, _, s) => modRun p (fun _ => { n with chunk := some c }) s
          | (none, ok, s) => endWork p n (if ok then 0 else 0x0E) n.done (endRecompute p a s)) s
    | _, _ => s

def execRecomputeChunkDone (p : PtnId) (s : State) : Host.Outcome State Fault Refusal := .next (if isReady s then chunkDone p.val s else s)

/-! ### The batch step boundary (09 R266) -/

/-- Positions of the verify pass and draft passes that a row's step uses (R281, R285). -/
def usedD (t : BStep) (y : BRow) : Nat := if t.skipDraft then 0 else rowD y

/-- Pages of a row's page table header or of the log that its tokens go to are in TRANSIT: the module's writes wait (07 R215). -/
def tabMoves (s : State) (p a n : Nat) : Bool :=
  let k := readTab s p a
  inTransit s p a 64 || inTransit s p (k.logAddr + 4 * (k.fill + 1)) (4 * n)

/-- Every logit that the step uses has arrived, and the row's sampler, table and log take their work. -/
def stepReady (s : State) (p : Nat) (x : Batch) (t : BStep) : Bool :=
  (rowsIn x fun y => decide (y.st = .active)).all fun r =>
    let y := getRow x r
    (List.range (usedD t y + 1)).all (fun j => logitsHere x.desc t r 0 j) && samplerServes s x.desc y r && !tabMoves s p y.desc.pageTable (usedD t y + 1)

/-- A row whose attention read came late: its blocks are dropped, and its one KV_MISSING record carries FALLBACK. -/
def lateRow (p b r : Nat) (bs : List Nat) (s : State) : State :=
  let x := getBatch s p b
  let a := (getRow x r).desc.pageTable
  let s := bs.foldl (fun s n => dropLate p x.ctx a n s) s
  let first := match loadedMap s p with | some m => missingFrom (readTab s p a) (kvP m.d m.kvFmt) | none => 0
  modRow p b r (fun y => { y with missNoted := true }) (rowRecord p b r 4 0 first 4 s)

/-- How many of the decided tokens a row emits, and whether the last ends the request by STOP or MAX_NEW (R288). -/
def cutTokens (stop : List Nat) (maxNew emitted : Nat) : List Nat → Nat × Bool × Bool
  | [] => (0, false, false)
  | t :: ts =>
    let byMax := decide (maxNew ≠ 0) && decide (maxNew ≤ emitted + 1)
    if stop.contains t || byMax then (1, true, byMax) else let r := cutTokens stop maxNew (emitted + 1) ts; (r.1 + 1, r.2)

/-- A row's tokens are written: records, log, FILL, mask state, draft counters (R266 phase 1; R282, R284, R288). -/
def emitTokens (p b r tb : Nat) (t : BStep) (toks : List Nat) (acc d : Nat) (s : State) : State :=
  let x := getBatch s p b
  let y := getRow x r
  let cut := cutTokens x.desc.stop y.desc.maxNew y.emitted toks
  let out := toks.take cut.1
  let a := min acc cut.1
  let zeros := if t.skipDraft then y.zeroSteps else if 0 < d ∧ acc = 0 then y.zeroSteps + 1 else if 0 < d then 0 else y.zeroSteps
  let off := !y.retired && decide (y.desc.retire ≠ 0) && decide (y.desc.retire ≤ zeros) && !t.skipDraft
  let k := readTab s p y.desc.pageTable
  let fb := t.skipDraft || nhas t.fallback r
  let s := ((List.range out.length).zip out).foldl (fun s e =>
    let last := cut.2.1 && e.1 + 1 == out.length
    let flags := pack [(0, 1, b2n last), (1, 1, b2n (decide (e.1 < a))), (2, 1, b2n fb), (3, 1, b2n off), (4, 1, b2n (last && cut.2.2))]
    let s := emitRec p b r 1 e.2 (k.fill + 1 + e.1) (pack [(0, 16, maskAfter s y (out.take (e.1 + 1))), (16, 4, a)]) flags s
    writeLog p k.logAddr (k.fill + 1 + e.1) e.2 s) s
  let s := modTab p y.desc.pageTable (fun k => { k with logLen := k.fill + 1 + out.length, fill := k.fill + a + 1, lastUse := tb }) s
  let st := maskAfter s y out
  let s := modRow p b r (fun y => { y with maskState := st, zeroSteps := zeros, retired := y.retired || off, emitted := y.emitted + out.length }) s
  if cut.2.1 then killRow p b r (finishRow p b r s) else s

/-- Phase 1 for one row of the step (R266, R282, R285-R288; 07 R222). -/
def rowStep (p b tb : Nat) (t : BStep) (s : State) (r : Nat) : State :=
  let x := getBatch s p b
  let y := getRow x r
  let late := ((t.late.filter fun e => e.1 == r).map (·.2.2)).eraseDups
  let d := usedD t y
  let ds := (tget [] t.drafts r).take d
  let toks := ds.map fun k => k.token
  let mains := (List.range (d + 1)).map fun j =>
    let z := posLogits x.desc t r 0 j
    let st := maskAfter s y (toks.take j)
    (rowList s y st z.1, z.2 || maskPoison s y st)
  if y.st ≠ .active then s
  else if y.desc.deadline ≠ 0 ∧ y.desc.deadline ≤ tb then killRow p b r (rowRecord p b r 2 0 0 0 s)
  else if late ≠ [] then lateRow p b r late s
  else if (mains.any fun m => m.2) || ds.any fun k => k.poison then killRow p b r (rowRecord p b r 5 0 1 0 s)
  else if ds.any fun k => k.none_ then killRow p b r (rowRecord p b r 5 0 2 0 s)
  else
    let o := decideRow (decide (y.desc.invTemp = 0 ∨ y.desc.invTemp = 0x80000000)) y.desc.seed (rowFill s p y.desc) 0
      (ds.map fun k => (k.token, (k.list.map fun e => (e.1, e.2.toNat)), k.sum.toNat)) (mains.map (·.1))
    if o.2.2 then killRow p b r (rowRecord p b r 5 0 2 0 s) else emitTokens p b r tb t o.1 o.2.1 d s

/-- The phases of a boundary; the answer says whether the batch still stands. -/
def boundaryPhases (p b : Nat) (t : BStep) (s : State) : State :=
  let tb := s.time
  let x := getBatch s p b
  let s := (rowsIn x fun y => decide (y.st = .active)).foldl (rowStep p b tb t) s
  let replaced := !(getBatch s p b).rowSets.isEmpty
  let s := passAlpha x.ctx b (applyRowSets p b (modBatch p b (fun y => { y with step := none }) s))
  if (getBatch s p b).closing.isSome then closeBatch p b 0 s else rowPhases p b tb replaced s

/-- After the boundary: the command ends, gives way, or its next step begins. -/
def afterStep (p : Nat) (r : Running) (s : State) : State :=
  let n : Running := { r with done := r.done + 1, base := r.base + r.round, round := 0 }
  let s := modRun p (fun _ => n) s
  if (getPtn s p).fe.run ≠ some n then s
  else if !(getBatch s p r.batch).open_ then endWork p n (if n.target ≤ n.done then 0 else 0x11) n.done s
  else if n.target ≤ n.done then endWork p n 0 n.done s
  else giveWay p n (startStep p r.batch) s

def stepBoundary (p : Nat) (s : State) : State :=
  match (getPtn s p).fe.run with
  | none => s
  | some r =>
    let x := getBatch s p r.batch
    match x.step with
    | none => s
    | some t =>
      if r.opcode ≠ 0x21 ∨ feRuns (getPtn s p).fe = false ∨ t.computed = false ∨ stepReady s p x t = false then s
      else if x.cancel.isSome then cancelBatch p r.batch s
      else afterStep p r (withRingSignals (boundaryPhases p r.batch t) s)

def execBatchStepBoundary (p : PtnId) (s : State) : Host.Outcome State Fault Refusal := .next (if isReady s then stepBoundary p.val s else s)

end Sys2Proof.Machine
end

