-- ==== Sys2Proof/Machine/Preempt.lean ====
section
/-! DEFINITION. Slices, pre-emption and state save (08 R251-R257): SLICE_END, PREEMPT_STOP, SAVE_DONE, SWITCH_GAP_END and
RESTORE_DONE. -/
namespace Sys2Proof.Machine

/-! ### Slices (R251, R252) -/

/-- A slice ends: the command gives way at its next bow point to another context of equal or higher priority that is ready, else a
new slice begins. Between commands the turn is over. -/
def sliceEnds (p : Nat) (s : State) : State :=
  let f := (getPtn s p).fe
  match f.mode, f.run with
  | .run, some r =>
    if (readyCtxs s p).any fun c => c != r.ctx && decide ((getCtx s r.ctx).cur.prio ≤ (getCtx s c).cur.prio) then
      requestStop p false (modFe p (fun f => { f with turn := none, sliceEnd := some (f.sliceEnd.getD s.time) }) s)
    else modCtx r.ctx (fun x => { x with debt := x.debt - sliceCycles s r.ctx }) s
  | .stopping _, some _ => modFe p (fun f => { f with turn := none, sliceEnd := some (f.sliceEnd.getD s.time) }) s
  | _, _ => modFe p (fun f => { f with turn := none }) s

def execSliceEnd (p : PtnId) (s : State) : Host.Outcome State Fault Refusal := .next (if isReady s then sliceEnds p.val s else s)

/-! ### Stopping inside a round (R253-R255) -/

/-- A core has begun the step it stands before: it has taken a flit of it, or an endpoint has issued one for it (R255 step 1). -/
def stepBegun (f : Figure) (s : State) (p c : Nat) : Bool :=
  let x := getCore s p c
  x.fired || !x.taken.isEmpty || (sourcesOf f c x.step).any fun y => movedOf s p y.1 != 0

/-- Round cycle up to which a core has run or must run before it can stop. -/
def corePos (f : Figure) (s : State) (p c : Nat) : Nat :=
  match (getCore s p c).step + b2n (stepBegun f s p c) with | 0 => 0 | i + 1 => (stepEnds (coreSteps f c)).getD i 0

/-- The first bow point that no core has passed. -/
def nextBow (f : Figure) (s : State) (p : Nat) : Option (Nat × BowPoint) :=
  (sortBy (fun (a b : Nat × BowPoint) => decide (a.2.position ≤ b.2.position)) ((List.range f.bowPoints.length).zip f.bowPoints)).find? fun e =>
    (figCores f).all fun c => decide (corePos f s p c ≤ e.2.position)

/-- The ranges of a bow point. -/
def bowRangesOf (f : Figure) (x : BowPoint) : List BowRange := (f.bowRanges.drop x.first).take x.count

/-- The lowest core with a flit in a stream buffer that no range names (R255 step 3). -/
def leftoverCore (f : Figure) (s : State) (p : Nat) (x : BowPoint) : Option Nat :=
  ((getPtn s p).cores.find? fun e => e.2.bufs.any fun b => decide (b.1 < 65536) && !((bowRangesOf f x).any fun g => g.kind == 2 && g.core == e.1 && g.start == b.1)).map (·.1)

/-- Every attention pipe of the partition is idle. -/
def pipesIdle (s : State) (p : Nat) : Bool := (getPtn s p).cores.all fun e => e.2.bufs.all fun b => decide (b.1 < 65536)

/-- The stop at a bow position is complete: BOW_STATE, a cancelled batch, or the save begins. -/
def bowStop (p : Nat) (f : Figure) (r : Running) (i : Nat) (x : BowPoint) (park : Bool) (reported : Option Nat) (s : State) : State :=
  match reported <|> leftoverCore f s p x with
  | some c => raise (((faultRec s 0x0205 r.idx c).withCtx s r.ctx).withRing r.ring) s
  | none =>
    if r.opcode = 0x21 ∧ (getBatch s p r.batch).cancel.isSome = true then cancelBatch p r.batch s
    else if (saveArea s p r.ctx).isSome then modFe p (fun f => { f with mode := .saving i park }) (bookOverrun p s)
    else modCtx r.ctx (fun c => { c with saveUnus := true }) (modFe p (fun f => { f with mode := .run, noSave := true }) s)

/-- The cores run on to the next bow position (R255 steps 1-3); also where a cancelled batch's step is abandoned (R246). -/
def preempt (p : Nat) (reported : Option Nat) (s : State) : State :=
  let fe := (getPtn s p).fe
  match rtOf s p with
  | none => s
  | some e =>
    let cancel := e.run.opcode == 0x21 && (getBatch s p e.run.batch).cancel.isSome
    let park := match fe.mode with | .stopping k => some k | _ => if cancel then some false else none
    match park, nextBow e.f s p with
    | some k, some (i, x) =>
      let s := runSteps e (some x.position) none (roundFuel e.f) s
      if allAt e.f s p x.position && pipesIdle s p then bowStop p e.f e.run i x k reported s else s
    | _, _ => s

def execPreemptStop (p : PtnId) (leftover : Option Nat) (s : State) : Host.Outcome State Fault Refusal :=
  .next (if isReady s && ptnRuns (getPtn s p.val) && c1Runs s p.val then preempt p.val leftover s else s)

/-! ### The save (R255 step 4, R256) -/

/-- The 64 B lines that a range saves, each with its poison. -/
def rangeSave (c : Core) (g : BowRange) : List (List Byte × Bool) :=
  match g.kind with
  | 0 => (List.range g.len).map fun i => let l := tget {} c.store (g.start / 64 + i); (padTo 64 l.data, l.poison)
  | 1 => (List.range (ceilDiv g.len 4)).map fun i =>
      let ws := (List.range (min 16 (4 * g.len - 16 * i))).map fun k => tget {} c.oc (4 * g.start + 16 * i + k)
      (padTo 64 (wordsBytes (ws.map fun w => w.val.toNat)), ws.any fun w => w.poison)
  | _ => let fs := tget [] c.bufs g.start; (padTo 64 (leBytes 4 fs.length), false) :: fs.map fun f => (padTo 64 f.data, f.poison)

/-- What the module keeps of a core beside its saved lines: its step, and of the ranges that name it the tags. -/
def coreSave (c : Nat) (x : Core) (gs : List BowRange) : CoreSave :=
  let mine := gs.filter fun g => g.core == c
  { core := c, step := x.step,
    lines := (mine.filter fun g => g.kind == 0).flatMap fun g => (List.range g.len).map fun i => (g.start / 64 + i, { tag := (tget {} x.store (g.start / 64 + i)).tag }),
    oc := (mine.filter fun g => g.kind == 1).flatMap fun g => (List.range (4 * g.len)).map fun i => (4 * g.start + i, { tag := (tget {} x.oc (4 * g.start + i)).tag }),
    bufs := (mine.filter fun g => g.kind == 2).map fun g => (g.start, (tget [] x.bufs g.start).map fun f => { f with data := [], poison := false }) }

/-- Address of line `i` of the save of the `m`-th of a partition's `q` quarters (R256). -/
def saveLine (base q m i : Nat) : Nat := base + (m + q * (i / 1024)) * pageBytes + 64 * (i % 1024)

/-- One quarter's header and lines go into its pages of the save area. -/
def saveQuarter (p base q m : Nat) (ls : List (List Byte × Bool)) (s : State) : State :=
  ((List.range ls.length).zip ls).foldl (fun s e => writeRange p (saveLine base q m e.1) e.2.1 e.2.2 s) s

/-- A bow point's ranges on the cores of one quarter. -/
def quarterRanges (s : State) (p q : Nat) (gs : List BowRange) : List BowRange := gs.filter fun g => ((figQtrs s p).getD (g.core / 2560) 0) == q

/-- The live ranges are saved, and the engine is free (R255, R256); pages of the area in TRANSIT hold that up (07 R215). -/
def saveEnd (p : Nat) (s : State) : State :=
  let x := getPtn s p
  match x.fe.mode, x.fe.run, x.figure with
  | .saving i _, some r, some f =>
    let b := f.bowPoints.getD i ⟨0, 0, 0⟩
    let gs := bowRangesOf f b
    let qs := qtrsOf s p
    let area := (getCtx s r.ctx).cur.saveObj
    let base := (getObj s p area).base
    let v : Saved := { run := r, epoch := x.fig.epoch, point := i, area := some area, cores := (figCores f).map fun c => coreSave c (getCore s p c) gs,
                       moved := x.flow.moved, barrier := x.barrier }
    if inTransit s p base ((getObj s p area).pages * pageBytes) then s else
    let s := ((List.range qs.length).zip qs).foldl (fun t m =>
      let mine := quarterRanges s p m.2 gs
      let ls := mine.flatMap fun g => rangeSave (getCore s p g.core) g
      saveQuarter p base qs.length m.1 ((wordsBytes (saveHeader x.fig.epoch r.ctx r.ring r.idx b.position (r.base + r.round) i ls.length), false) :: ls) t) s
    let s := modFe p (fun g => { g with saved := g.saved ++ [v] }) (clearStreams p s)
    let s := modCtx r.ctx (fun c => { c with preempts := satAdd 32 c.preempts 1 }) (modCmd r.ring r.idx (fun k => { k with phase := .saved }) s)
    leaveEngine p s
  | _, _, _ => s

def execSaveDone (p : PtnId) (s : State) : Host.Outcome State Fault Refusal := .next (if isReady s then saveEnd p.val s else s)

/-! ### The switch gap and the restore (R251, R255) -/

def execSwitchGapEnd (p : PtnId) (s : State) : Host.Outcome State Fault Refusal :=
  .next (if isReady s then (match (getPtn s p.val).fe.mode with | .gap => serve p.val s | _ => s) else s)

/-- A core takes back one range from the save area's lines, whose data and poison they are (R255); tags come from what the module kept. -/
def rangeBack (v : CoreSave) (g : BowRange) (ls : List (List Byte × Bool)) (c : Core) : Core :=
  match g.kind with
  | 0 => { c with store := ((List.range g.len).zip ls).foldl (fun t e =>
      let l := g.start / 64 + e.1
      tset {} l { tget {} v.lines l with data := e.2.1, poison := e.2.2 } t) c.store }
  | 1 => { c with oc := (List.range (4 * g.len)).foldl (fun t k =>
      let w := 4 * g.start + k
      let l := ls.getD (k / 16) ([], true)
      tset {} w { tget {} v.oc w with val := BitVec.ofNat 32 (wordAt l.1 (k % 16)), poison := l.2 } t) c.oc }
  | _ =>
    let fs := tget [] v.bufs g.start
    { c with bufs := tset [] g.start ((fs.zip (ls.drop 1)).map fun e => { e.1 with data := e.2.1, poison := e.2.2 }) c.bufs }

/-- Lines that a range takes in a save (R254). -/
def savedLines (v : CoreSave) (g : BowRange) : Nat :=
  match g.kind with
  | 0 => g.len
  | 1 => ceilDiv g.len 4
  | _ => 1 + (tget [] v.bufs g.start).length

/-- The ranges of one quarter come back from its lines, which follow the header in range-entry order. -/
def quarterBack (p base q m : Nat) (cores : List CoreSave) (gs : List BowRange) (s : State) : State :=
  (gs.foldl (fun (acc : Nat × State) g =>
    match cores.find? fun v => v.core == g.core with
    | none => acc
    | some v =>
      let n := savedLines v g
      let ls := (List.range n).map fun k => readRange acc.2 p none (saveLine base q m (acc.1 + k)) 64
      (acc.1 + n, modCore p g.core (rangeBack v g ls) acc.2)) (1, s)).2

/-- Every core stands before the step after the bow position, with its ranges from the save area (R255). -/
def takeBack (p : Nat) (v : Saved) (s : State) : State :=
  let s := modPtn p (fun x => { x with barrier := v.barrier, flow := { x.flow with moved := v.moved } }) s
  let s := v.cores.foldl (fun s c => modCore p c.core (fun x => { x with step := c.step }) s) s
  match (getPtn s p).figure, v.area with
  | some f, some o =>
    let gs := bowRangesOf f (f.bowPoints.getD v.point ⟨0, 0, 0⟩)
    let qs := qtrsOf s p
    ((List.range qs.length).zip qs).foldl (fun s m => quarterBack p (getObj s p o).base qs.length m.1 v.cores (quarterRanges s p m.2 gs) s) s
  | _, _ => s

/-- The command runs on; a drain, or a context of higher PRIORITY that became ready meanwhile, stops it at its next bow point (02 R69; 08
R251). -/
def restoreEnd (p : Nat) (s : State) : State :=
  let f := (getPtn s p).fe
  match f.mode, f.resume with
  | .restoring, some v =>
    let s := beginTurn p v.run (modFe p (fun f => { f with resume := none }) (takeBack p v s))
    if (getPtn s p).fig.st = .draining then requestStop p false s else kick p s
  | _, _ => s

def execRestoreDone (p : PtnId) (s : State) : Host.Outcome State Fault Refusal := .next (if isReady s then restoreEnd p.val s else s)

end Sys2Proof.Machine
end

