-- ==== Sys2Proof/Machine/Rings.lean ====
section
/-! DEFINITION. Ring indices, plain commands, completions, timeouts and DMA failures (08 R241-R249, R258-R260; 11 R345), and a
partition's own watches: JOIN_IMBALANCE and the queue-depth sampler (02 R52; 11 R356, R357). -/
namespace Sys2Proof.Machine

/-! ### Doorbells (08 R241; 09 R294; 11 R345) -/

/-- The new index is one that the ring can take. -/
def dbOk (x : Ring) (v : Nat) : Bool :=
  let n := ringSize x
  if x.cur.type = 0 then decide (diff32 v x.tail ≤ n) && decide (diff32 v x.head ≤ n) else decide (diff32 v x.head ≤ diff32 x.tail x.head)

/-- RESET completions held for the rings that report to completion ring `r`, and those of command ring `r` itself. -/
def flushHeld (r : Nat) (doorbell : Bool) (s : State) : State :=
  ((s.rings.filter fun e => !e.2.resets.isEmpty && (e.1 == r || e.2.cur.comp == r)).map (·.1)).foldl (fun s c => flushResets c doorbell s) s

/-- A doorbell's index is taken, and what waited for it goes on; RESET entries whose DMA failed are tried again. -/
def doorbell (r v : Nat) (s : State) : State :=
  let x := getRing s r
  if !x.cur.enable then modRing r (fun x => { x with dbDisabled := true }) s
  else if !dbOk x v then modRing r (fun x => { x with dbBad := true }) s
  else if x.cur.type = 0 then flushHeld r true (modRing r (fun x => { x with tail := v }) s)
  else
    let s := retryResets r (modRing r (fun x => { x with head := v, recs := x.recs.map fun k => { k with needDb := false } }) s)
    noteFull r (flushHeld r true (if ringFull (getRing s r) then s else modRing r (fun x => { x with fullNoted := false }) s))

/-- A doorbell access at a BAR2 offset (00 R7, R15): rings follow each other by 8 B, an offset beyond them is unmapped, and the record
of a VF's access outside its subset carries the BAR2 offset (log 33). -/
def bar2Access (fn off : Nat) (go : Nat → State → State) : State → State :=
  fun s => hostAccess fn off (decide (2 ^ 18 ≤ off) || seesRing s fn (off / 8)) false (fun s => if off < 2 ^ 18 then go (off / 8) s else flagUnmapped fn s) s

/-- A doorbell write of 4 bytes at the ring's low half, or of 8 bytes, moves the ring; the high half takes no write; any other size or
place is a narrower or unaligned access (00 R7; 08 R241; log 33). -/
def doorbellAccess (fn off size v : Nat) (s : State) : State :=
  if wordAccess off size then bar2Access fn off (fun r s => if off % 8 = 0 then doorbell r (w32 v) s else s) s
  else bar2Access fn off (fun _ s => flagSize fn s) s

def execDoorbellWrite (fn : FnId) (span : BarSpan) (val : DWord) (s : State) : Host.Outcome State Fault Refusal :=
  .next (doorbellAccess fn.val span.off span.size val.toNat s)

/-- A doorbell reads HEAD in its low and TAIL in its high half (08 R241). -/
def doorbellShown (s : State) (fn a : Nat) : Nat :=
  if decide (a < 2 ^ 18) && seesRing s fn (a / 8) && isReady s then (let x := getRing s (a / 8); x.head + 2 ^ 32 * x.tail) / 2 ^ (8 * (a % 8)) % 256 else 0

/-- A read of the doorbells: the addressed bytes, with the flags and counts of 00 R7. -/
def doorbellRead (fn off size : Nat) (s : State) : State :=
  if !barOpen s fn then s
  else
    let bs := (List.range size).map fun i => BitVec.ofNat 8 (doorbellShown s fn (off + i))
    readOut bs false (bar2Access fn off (fun _ s => if wordAccess off size then s else flagSize fn s) s)

/-! ### NOP, FENCE and reserved opcodes (08 R244, R260) -/

def execNop (e : Entry) (s : State) : Host.Outcome State Fault Refusal := .next (runEntry e 0 s fun c s => endCmd c.ring c.idx 0 0 s)

/-- A fence is over when every earlier command of its ring has its completion. -/
def fenceDone (r : Nat) (s : State) : State :=
  match (getRing s r).started.filter fun k => !k.gone with
  | k :: _ => if k.opcode = 1 ∧ k.phase = .running then endCmd r k.idx 0 0 s else s
  | [] => s

def execFence (e : Entry) (s : State) : Host.Outcome State Fault Refusal :=
  .next (runEntry e 1 s fun c s => fenceDone c.ring (modCmd c.ring c.idx (fun k => { k with phase := .running }) s))

/-- The opcodes of 08 R245. -/
def opcodes : List Nat :=
  [0, 1, 0x10, 0x11, 0x12, 0x13, 0x14, 0x15, 0x16, 0x18, 0x20, 0x21, 0x22, 0x23, 0x28, 0x29, 0x30, 0x31, 0x32, 0x33,
   0x40, 0x41, 0x42, 0x43, 0x44, 0x45, 0x46, 0x50, 0x51]

/-- A reserved opcode is completed in order with OPCODE status; a listed opcode is not this command. -/
def execReservedOpcode (e : Entry) (opcode : Byte) (s : State) : Host.Outcome State Fault Refusal :=
  .next (if canStart s e.ring.val && !opcodes.contains opcode.toNat then
      let c := newCmd s e opcode.toNat
      endCmd c.ring c.idx 0x01 0 (startCmd c s)
    else s)

/-! ### Completions (08 R242, R248, R249) -/

/-- The oldest command's completion is written, if it has ended and its ring has room; a command that a reset removed has none of its own
and waits for the ring's RESET completion (11 R339). -/
def completeFirst (r : Nat) (s : State) : State :=
  let s := fenceDone r (flushResets r false s)
  let x := getRing s r
  let cr := x.cur.comp
  noteFull cr (match x.started with
    | [] => s
    | c :: rest =>
      if c.gone ∨ c.phase ≠ .done ∨ !x.resets.isEmpty ∨ ringReach s cr = false ∨ ringFull (getRing s cr) then s
      else
        let s := modRing r (fun y => { y with started := rest }) s
        modPMem c.ptn (fun m => { m with unver := m.unver.filter fun e => !(e.1 == c.ring && e.2.1 == c.idx) }) (putCompletion r c s))

def execCompletionWrite (r : RingId) (s : State) : Host.Outcome State Fault Refusal := .next (if isReady s then completeFirst r.val s else s)

/-! ### CMD_TIMEOUT (08 R258, R259; 11 R446) -/

/-- The figure engine executes the command: its rounds run and are not being saved; any other command of the engine runs alongside (R250,
R258). -/
def figExecutes (s : State) (c : Cmd) : Bool :=
  let f := (getPtn s c.ptn).fe
  if c.opcode = 0x16 ∨ c.opcode = 0x21 ∨ c.opcode = 0x28 then feRuns f && (match f.run with | some r => r.ring == c.ring && r.idx == c.idx | none => false)
  else c.opcode == 1 || (decide (0x10 ≤ c.opcode) && decide (c.opcode < 0x40))

/-- A mover works on the command: on its page or shard, or, for OBJ_CLEAR, on its object's pages. -/
def moverOf (s : State) (c : Cmd) : Option Nat :=
  match (List.range 8).find? fun d => match (getDie s d).moverQ with | i :: _ => i.ring == c.ring && i.idx == c.idx && !i.whole | [] => false with
  | some d => some d
  | none => if c.opcode = 0x41 then some (homeDie s c.ptn) else none

/-- The samplers, or the mask engines, work on the batch step of the command. -/
def samples (s : State) (c : Cmd) (masked : Bool) : Bool :=
  c.opcode == 0x21 && figExecutes s c && (List.range 8).any fun d => (samplerItems s d).any fun i =>
    i.1 == c.ptn && i.2.1 == opf c.ops 2 0 6 && (!masked || !(getRow (getBatch s i.1 i.2.1) i.2.2).desc.mNone)

/-- The command is timed against an engine class: it executes there, and is not a FIG_DRAIN; a FENCE is timed against class 0 (R258,
R260). -/
def timed (s : State) (c : Cmd) (k : Nat) : Bool :=
  decide (c.phase = .running) && c.opcode != 0x14 &&
  (match k with
   | 0 => figExecutes s c
   | 1 => decide (0x40 ≤ c.opcode) && decide (c.opcode ≤ 0x46) && (moverOf s c).isSome
   | 2 => samples s c false
   | _ => samples s c true)

/-- The mover that held the command's page. -/
def stalledMover (s : State) (c : Cmd) : Nat := (moverOf s c).getD (homeDie s c.ptn)

/-- The die whose sampler or mask engine works on the command. -/
def sampleDie (s : State) (c : Cmd) : Nat := if c.opcode = 0x21 then samplerDie (getBatch s c.ptn (opf c.ops 2 0 6)).desc 0 else homeDie s c.ptn

/-- The engine of a class in a record. -/
def classEngine (s : State) (c : Cmd) (k : Nat) (r : FaultRec) : FaultRec :=
  match k with
  | 0 => r.withEngine 1
  | 1 => (r.withEngine 2).withDie (stalledMover s c)
  | 2 => (r.withEngine 3).withDie (sampleDie s c)
  | _ => (r.withEngine 4).withDie (sampleDie s c)

def cmdTimeout (r idx k : Nat) (s : State) : State :=
  match getCmd s r idx with
  | none => s
  | some c =>
    if timed s c k then
      let s := modCtx c.ctx (fun x => { x with timeouts := satAdd 16 x.timeouts 1 }) s
      raise (classEngine s c k (((faultRec s 0x0501 idx k).withCtx s c.ctx).withRing r)) s
    else s

def execCmdTimeout (r : RingId) (index : Word) (engineClass : Fin 4) (s : State) : Host.Outcome State Fault Refusal :=
  .next (if isReady s then cmdTimeout r.val index.toNat engineClass.val s else s)

/-! ### RING_DMA (08 R243; 11 R345) -/

def dmaDetail (f : DmaFail) : Nat := if f.timeout then 8 else f.status % 8

/-- The function's AER registers log how its DMA ended (15 R434): completion status 1 is Unsupported Request, 4 Completer Abort. -/
def logDma (fn : Nat) (f : DmaFail) : State → State :=
  modFn fn fun x => { x with aer :=
    { x.aer with ur := x.aer.ur || (!f.timeout && f.status % 8 == 1), ca := x.aer.ca || (!f.timeout && f.status % 8 == 4), timeout := x.aer.timeout || f.timeout } }

/-- The RESET entry of a ring at an index, and whether its DMA had failed before. -/
def resetEntAt (x : Ring) (idx : Nat) : Option Bool := (x.resetEnts.find? fun e => e.1 == idx).map fun e => e.2.2

/-- The DMA of a RESET entry has failed: it is held, and written again after doorbells of its ring (11 R345). -/
def holdReset (r idx : Nat) : State → State := modRing r fun x => { x with resetEnts := x.resetEnts.map fun e => if e.1 = idx then (e.1, e.2.1, true) else e }

def ringDma (r idx : Nat) (intake : Bool) (f : DmaFail) (s : State) : State :=
  let x := getRing s r
  if !x.cur.enable then s
  else if intake then
    match getCmd s r idx with
    | some c =>
      if c.opcode = 0x45 then
        let s := logDma (ringFn s r) f s
        raise (((faultRec s 0x0502 idx (dmaDetail f)).withCtx s c.ctx).withRing r) s
      else s
    | none => s
  else
    let s := logDma (ringFn s r) f (modRing r (fun x => { x with dmaErr := true }) s)
    if resetEntAt x idx = some true then s
    else raise (((faultRec s 0x0502 idx (dmaDetail f)).withCtx s x.cur.ctx).withRing r) (holdReset r idx s)

def execRingDma (r : RingId) (index : Word) (intake : Bool) (fail : DmaFail) (s : State) : Host.Outcome State Fault Refusal :=
  .next (if isReady s then ringDma r.val index.toNat intake fail s else s)

/-! ### JOIN_IMBALANCE (02 R52; 11 R356) -/

/-- An object of the partition that the module itself may write over `n` bytes: in T0 and T1, and not read-only. -/
def ownWritable (s : State) (p o n : Nat) : Bool :=
  let x := getObj s p o
  decide (x.st = .valid) && decide (n ≤ x.pages * pageBytes) && rangeNear s p x.base n && (rangeParts x.base n).all fun e => !pageRO s p x e.1

/-- Depth of a stream's buffer in flits. -/
def streamDepth (s : State) (p : Nat) (f : Figure) (k : Nat) (x : Stream) : Nat :=
  match (streamEnds f k x).getD [] with
  | t :: _ => (coreBuf s p t.1 (inputPat (coreStep f t.1 t.2.1) t.2.2)).length
  | [] => 0

/-- The queue-depth snapshot's bytes. -/
def joinSnapshot (s : State) (p join : Nat) (f : Figure) : List Byte :=
  let x := getPtn s p
  let ds := ((List.range f.streams.length).zip f.streams).flatMap fun e => leBytes 2 (streamDepth s p f e.1 e.2)
  padTo 64 (wordsBytes [pack [(0, 16, x.fig.epoch)], pack [(0, 16, join)], f.streams.length, 0, w32 x.fig.rounds, x.fig.rounds / 2 ^ 32]) ++ ds

/-- The snapshot is written once, or the reason why not. -/
def writeJoinSnap (p join : Nat) (f : Figure) (s : State) : Nat × State :=
  let x := (getPtn s p).flt
  let bs := joinSnapshot s p join f
  if x.snapFull then (3, s)
  else if !x.snapNamed then (1, s)
  else if !ownWritable s p x.snapObj bs.length then (2, s)
  else (0, pulse (srcPtn p 7) (modPFlt p (fun y => { y with snapFull := true }) (writeRange p (getObj s p x.snapObj).base bs false s)))

/-- A join of the figure is starved: its core stands before its step with one input empty and the other's buffer full. -/
def joinStarved (f : Figure) (s : State) (p core join : Nat) : Bool :=
  f.joins.any fun j =>
    let q (k : Nat) : Nat := inputPat (coreStep f core j.step) k
    let empty (k : Nat) : Bool := (coreBuf s p core (q k)).isEmpty
    let full (k : Nat) : Bool := bufRoom f s p core (q k) == 0
    j.id == join && j.core == core && (getCore s p core).step == j.step && !(getCore s p core).fired && ((empty 0 && full 1) || (empty 1 && full 0))

/-- A join has been starved for longer than FIG_JOIN_WATCH (02 R52): the time is the event's, the rest the state's. -/
def joinImbalance (p core join : Nat) (s : State) : State :=
  match (getPtn s p).figure with
  | none => s
  | some f =>
    if !joinStarved f s p core join then s else
    let r := writeJoinSnap p join f s
    let s := match (figQtrs s p)[core / 2560]? with | some q => modQtr q (fun y => { y with joinEvents := satAdd 16 y.joinEvents 1 }) r.2 | none => r.2
    raisePtn 0x0201 p core (pack [(0, 16, join), (16, 2, r.1)]) s

def execJoinImbalance (p : PtnId) (core join : Nat) (s : State) : Host.Outcome State Fault Refusal :=
  .next (if isReady s && ptnRuns (getPtn s p.val) && c1Runs s p.val then joinImbalance p.val core join s else s)

/-! ### The queue-depth sampler (11 R357) -/

def qsRecord (s : State) (p : Nat) : List Byte :=
  let x := getPtn s p
  wordsBytes [w32 s.time, s.time / 2 ^ 32, w32 x.fig.rounds, w32 x.flt.qsNext] ++
    (List.range 24).flatMap fun n => let w := tget {} x.flt.cur.watch n; leBytes 2 (if w.valid then (coreBuf s p w.core w.pattern).length else 0xFFFF)

def qsSample (p : Nat) (s : State) : State :=
  let x := (getPtn s p).flt
  let o := getObj s p x.cur.qsObj
  let n := o.pages * pageBytes / 64
  if !x.qsEnable then s
  else if !ownWritable s p x.cur.qsObj 64 || !ownWritable s p x.cur.qsObj (64 * (x.qsNext % n) + 64) then modPFlt p (fun y => { y with qsEnable := false, qsStopped := true }) s
  else
    let s := writeRange p (o.base + 64 * (x.qsNext % n)) (qsRecord s p) false s
    let s := modPFlt p (fun y => { y with qsIndex := x.qsNext, qsNext := w32 (x.qsNext + 1) }) s
    if (x.qsNext + 1) % n = 0 then pulse (srcPtn p 6) s else s

def execQsSample (p : PtnId) (s : State) : Host.Outcome State Fault Refusal :=
  .next (if isReady s && ptnRuns (getPtn s p.val) && c1Runs s p.val then qsSample p.val s else s)

end Sys2Proof.Machine
end

