-- ==== Sys2Proof/Machine/Mirror.lean ====
section
/-! DEFINITION. Mirror mode (11 R347-R351): choosing and loading the image, and the run's end. -/
namespace Sys2Proof.Machine

/-- The built-in mirror image: the firmware's MIRROR section (14 R405). -/
def builtinImage (s : State) : List Byte :=
  match (sectionsOf (mread s.boot.sram 0 128) 4).find? fun x => x.type == 3 with
  | some x => mread s.boot.sram x.off x.size
  | none => []

/-- Copies of a figure of one quarter, one in each of `n` quarters: cores, steps and streams of each copy are its own. -/
def spreadFigure (n : Nat) (f : Figure) : Figure :=
  let each {α β : Type} (l : List α) (g : Nat → α → β) : List β := (List.range n).flatMap fun j => l.map (g j)
  { f with
    quarters := n
    dir := each ((List.range 2560).map fun c => f.dir.getD c (0, 0)) fun j e => (e.1, e.2 + j * f.steps.length)
    steps := each f.steps fun j x => { x with streamFirst := x.streamFirst + j * f.streams.length }
    streams := each f.streams fun j x => { x with dstCore := x.dstCore + 2560 * j }
    joins := each f.joins fun j x => { x with core := x.core + 2560 * j }
    selects := each f.selects fun j x => { x with core := x.core + 2560 * j }
    tickets := List.replicate n (f.tickets.headD [])
    report := f.report.map fun r =>
      { r with quarters := List.replicate n (r.quarters.headD (0, 0, 0)), samples := each r.samples fun j x => (x.1 + 2560 * j, x.2) } }

/-- The built-in figure in each of `n` quarters: ROUND_LEN 4,096, MIRROR_DIV ÷8 and 256 rounds, whatever its section says (R347). -/
def builtinFigure (s : State) (n : Nat) : Figure :=
  let f := decFigure (builtinImage s)
  let r := f.report.getD { mirrorDiv := 3, rounds := 256, quarters := [], samples := [] }
  spreadFigure n { f with roundLen := 4096, report := some { r with mirrorDiv := 3, rounds := 256 } }

/-- Its cores: those of quarter 0 in every quarter. -/
def builtinCores (s : State) (n : Nat) : Tbl Core :=
  let cs := loadedCores { decFigure (builtinImage s) with quarters := 1 }
  (List.range n).flatMap fun j => cs.map fun e => (e.1 + 2560 * j, e.2)

/-- The divider of a mirror figure. -/
def mirrorDivOf (f : Figure) : Nat := (f.report.map fun r => r.mirrorDiv).getD 3

/-- The named slot's figure, if it may serve: ORIGIN 0x09, MIRROR_TEST, a REPORT, no endpoint, and the checks 0x13-0x15 at its
MIRROR_DIV. -/
def namedMirror (s : State) (p : Nat) : Option (Nat × Figure) :=
  let x := (getPtn s p).flt.cur
  if !x.mirrorNamed then none
  else match validFigure s p x.mirrorSlot with
    | none => none
    | some f =>
      if f.origin4 || !f.mirrorTest || f.report.isNone || (f.streams.any fun t => t.dstEndpoint) || (placementBad s p f).isSome || (dividerBad s p f (mirrorDivOf f)).isSome then none
      else some (x.mirrorSlot, f)

/-- The divider of the mirror run becomes the partition's own, so that neighbours more than two positions faster step down under
the forced-slower procedure: at once where they have no rounds, otherwise at their next boundary (R350; 13 R388). -/
def calmNeighbours (p d : Nat) (s : State) : State :=
  if (getPtn s p).pwr.mirrorWant = some d then s else limitsChanged (modPPwr p (fun x => { x with mirrorWant := some d }) s)

/-- The image is loaded at MIRROR_DIV and starts (R349). The built-in image is of no slot. -/
def loadMirror (p c slot : Nat) (f : Figure) (cores : Tbl Core) (s : State) : State :=
  let d := mirrorDivOf f
  let s := modFig p (fun y => { y with slot := slot, epoch := if y.useChain then y.chainEpoch else (y.epoch + 1) % 65536 }) s
  let s := modPtn p (fun x => { x with figure := some f, cores := cores, partner := [], barrier := 0, flow := {}, reset := some (c, 2), mirrorRounds := 0, flt := { x.flt with mirrorWait := false } }) s
  let s := (qtrsOf s p).foldl (fun s q => modQtr q (fun y => { y with epoch := (getPtn s p).fig.epoch }) s) (measureFigure p slot f s)
  setDivider p d s

/-- Mirror mode tries to begin: it waits while a condition stands against it. -/
def mirrorBegin (p : Nat) (s : State) : State :=
  let x := getPtn s p
  match x.reset with
  | some (c, 1) =>
    let n := (qtrsOf s p).length
    let pick : Nat × Figure × Tbl Core := match namedMirror s p with
      | some e => (e.1, e.2, loadedCores e.2)
      | none => (8, builtinFigure s n, builtinCores s n)
    let s := if x.flt.cur.mirrorNamed && pick.1 == 8 then modPFlt p (fun y => { y with slotRejected := true }) s else s
    let d := mirrorDivOf pick.2.1
    if x.fig.st ≠ .mirror then s
    else
      let s := calmNeighbours p d s
      if mirrorBlocked s p pick.2.1 d || (qtrsOf s p).any fun q => (getQtr s q).clamping then modPFlt p (fun y => { y with mirrorWait := true }) s
      else
        let s := modPFlt p (fun y => { y with mirrorWait := false }) s
        if !nbrsFit s p d then s
        else if !voltsReach s p (mvOf d) then aimVolts p (mvOf d) s
        else loadMirror p c pick.1 pick.2.1 pick.2.2 s
  | _ => s

def execMirrorStart (p : PtnId) (s : State) : Host.Outcome State Fault Refusal := .next (if isReady s then mirrorBegin p.val s else s)

/-- A pass: EMPTY, and the partition's contexts are ENABLED (R351). -/
def mirrorPass (p : Nat) (s : State) : State :=
  let cs := (ctxsOf s p).filter fun c => decide ((getCtx s c).st = .resetting) && (getCtx s c).reset.isNone
  let s := cs.foldl (fun s c => modCtx c (fun x => { x with st := .enabled }) s) (dropMirror p .empty s)
  limitsChanged (pulse (srcPtn p 5) s)

/-- The first difference of a round from the REPORT, as (figure quarter, kind): quarter by quarter, kinds ascending (R349; log 56). -/
def roundDiffers (r : Report) (n k : Nat) (m : MirrorRound) : Option (Nat × Nat) :=
  let deeper (q : Nat) : Bool := ((List.range r.samples.length).zip r.samples).any fun e => e.2.1 / 2560 == q && m.depths.getD e.1 0 != e.2.2.2.2
  (List.range n).findSome? fun q =>
    let want := r.quarters.getD q (0, 0, 0)
    let got := m.quarters.getD q (0, 0)
    if k = 0 then (if got.1 = want.1 then none else some (q, 1))
    else if got.1 ≠ want.2.1 then some (q, 2)
    else if got.2 ≠ want.2.2 then some (q, 3)
    else if deeper q then some (q, 4) else none

/-- The first difference of a whole run, round by round. -/
def mirrorDiffers (f : Figure) (ms : List MirrorRound) : Option (Nat × Nat) :=
  match f.report with
  | none => none
  | some r => (List.range r.rounds).findSome? fun k => roundDiffers r f.quarters k (ms.getD k ⟨[], []⟩)

/-- The die controllers' comparison, once every round of the run is over. -/
def execMirrorDone (p : PtnId) (rounds : List MirrorRound) (s : State) : Host.Outcome State Fault Refusal :=
  .next (let x := getPtn s p.val
    match x.figure with
    | some f =>
      if isReady s && mirroring x && decide (mirrorTarget x ≤ x.mirrorRounds) then
        match mirrorDiffers f rounds with
        | none => mirrorPass p.val s
        | some e => mirrorFail p.val e.1 e.2 s
      else s
    | none => s)

/-- Mirror mode is not complete in time: kind 6, at figure quarter 0 (R349). -/
def execMirrorTimeout (p : PtnId) (s : State) : Host.Outcome State Fault Refusal :=
  .next (if isReady s && mirroring (getPtn s p.val) then mirrorFail p.val 0 6 s else s)

end Sys2Proof.Machine
end

