-- ==== Sys2Proof/Machine/Resets.lean ====
section
/-! DEFINITION. Resets (11 R334-R355): FLT_CMD, the ends and expiries of engine, partition and module resets, policies, the crash
snapshot, the watchdogs and presence. -/
namespace Sys2Proof.Machine

/-- A write of FLT_CMD, which only the PF sees (11 R358, R359). -/
def fltCmd (fn : Nat) (go : State → State) (s : State) : Host.Outcome State Fault Refusal :=
  .next (hostAccess fn 0x01C00004 (fn == 0) true go s)

/-- A HOST_RESET record of FLT_CMD: its ACTION and SCOPE are the command's (11 R333). -/
def hostResetRec (s : State) (action scope : Nat) : FaultRec := { faultRec s 0x0901 0 0 with action := action, scope := scope }

/-- Reset commands act in READY; during a module reset they are recorded and absorbed (11 R337); in other stages they have nothing to
reset. -/
def resetCmd (rec : State → FaultRec) (s : State) : State :=
  if isReady s || decide (s.boot.stage = .resetting) then raise (rec s) s else s

def execModuleReset (fn : FnId) (s : State) : Host.Outcome State Fault Refusal := fltCmd fn.val (resetCmd fun s => hostResetRec s 4 0) s

/-- A record with an engine in scope (11 R446). -/
def FaultRec.withSel (r : FaultRec) (e : EngineSel) : FaultRec :=
  match e with
  | .figure p => (r.withPtn p.val).withEngine 1
  | .mover d => (r.withDie d.val).withEngine 2
  | .sampler d => (r.withDie d.val).withEngine 3
  | .mask d => (r.withDie d.val).withEngine 4
  | .exchange d => (r.withDie d.val).withEngine 5

/-- SCOPE of an engine: its partition, or its die (11 R333 ENGINE_ERROR). -/
def engScope (e : EngineSel) : Nat := match e with | .figure _ => 2 | _ => 1

/-- FLT_CMD's ENGINE, DIE and PARTITION fields as an engine; other codes name none. -/
def engineOf (k : Nat) (d : DieId) (p : PtnId) : Option EngineSel :=
  match k with
  | 1 => some (.figure p)
  | 2 => some (.mover d)
  | 3 => some (.sampler d)
  | 4 => some (.mask d)
  | 5 => some (.exchange d)
  | _ => none

/-- The engine exists: a figure engine with its partition. -/
def engExists (s : State) (e : EngineSel) : Bool := match e with | .figure p => (getPtn s p.val).exists_ | _ => true

def engineReset (k : Nat) (d : DieId) (p : PtnId) (s : State) : State :=
  match engineOf k d p with
  | some e => if engExists s e then resetCmd (fun s => (hostResetRec s 2 (engScope e)).withSel e) s else s
  | none => s

def execEngineReset (fn : FnId) (engine : Nat) (d : DieId) (p : PtnId) (s : State) : Host.Outcome State Fault Refusal :=
  fltCmd fn.val (engineReset engine d p) s

def partitionReset (p : Nat) (s : State) : State :=
  if (getPtn s p).exists_ then resetCmd (fun s => (hostResetRec s 3 2).withPtn p) s else s

def execPartitionReset (fn : FnId) (p : PtnId) (s : State) : Host.Outcome State Fault Refusal := fltCmd fn.val (partitionReset p.val) s

def execSnapshot (fn : FnId) (s : State) : Host.Outcome State Fault Refusal := fltCmd fn.val (takeSnapshot 0) s

/-- SNAP_RELEASE clears the lock; the snapshot stays readable (11 R352). -/
def snapRelease : State → State := modFlt fun f => { f with snapLock := false }

def execSnapRelease (fn : FnId) (s : State) : Host.Outcome State Fault Refusal := fltCmd fn.val snapRelease s

/-! ### Expiry (11 R336) -/

/-- RESET_TIMEOUT names the next level's scope and action, and the level that expired. -/
def timeoutRec (s : State) (level action scope : Nat) : FaultRec :=
  { faultRec s 0x0504 0 level with action := action, scope := scope, escalated := true }

/-- Engines that have not released a context: of those that held its work when its reset began, and a mover only while it still
holds an item of it, the ones that the expiry names; all of them where it names none (log 37). -/
def holders (s : State) (c : Nat) (stuck : List EngineSel) : List EngineSel :=
  let held := (((getCtx s c).reset.map fun r => r.engs).getD []).filter fun e =>
    match e with | .mover d => (getDie s d.val).moverQ.any fun i => i.ctx == c | _ => true
  let named := held.filter stuck.contains
  if held.isEmpty then [.figure (ptnId (ptnOfCtx s c))] else if named.isEmpty then held else named

/-- An engine's reset expires: a figure engine's partition, or the module, is reset. -/
def engineExpired (e : EngineSel) (s : State) : State :=
  match e with
  | .figure p => raise ((timeoutRec s 2 3 2).withPtn p.val) s
  | _ => raise (timeoutRec s 2 4 0) s

/-- A reset of an engine is in progress. -/
def engPending (s : State) (e : EngineSel) : Bool := engStopped s e

/-- A context's own reset, of level 1, is in progress. -/
def ctxPending (s : State) (c : Nat) : Bool :=
  decide ((getCtx s c).st = .resetting) && match (getCtx s c).reset with | some r => r.level == 1 | none => false

/-- A partition's reset is in progress and has not reached mirror mode. -/
def ptnPending (s : State) (p : Nat) : Bool := match (getPtn s p).reset with | some (_, k) => k == 0 | none => false

def resetExpired (sc : ResetScope) (s : State) : State :=
  match sc with
  | .context c stuck => if isReady s && ctxPending s c.val then (holders s c.val stuck).foldl (fun s e => raise ((timeoutRec s 1 2 (engScope e)).withSel e) s) s else s
  | .engine e => if isReady s && engPending s e then engineExpired e s else s
  | .partition p => if isReady s && ptnPending s p.val then raise (timeoutRec s 3 4 0) s else s
  | .module => if s.boot.stage = .resetting then raise (timeoutRec s 4 5 0) s else s

def execResetTimeout (sc : ResetScope) (s : State) : Host.Outcome State Fault Refusal := .next (resetExpired sc s)

/-! ### The end of an engine reset (11 R340) -/

/-- A context whose level-2 reset waits for no other engine. -/
def engDoneFor (s : State) (c : Nat) : Bool :=
  (match (getCtx s c).reset with | some r => r.level == 2 | none => false) && !s.flt.engResets.any fun r => r.ctxs.contains c

/-- The engine passed its self-test: it is empty and serves again, and its affected contexts end their reset. -/
def engineDone (e : EngineSel) (s : State) : State :=
  let cs := ((s.flt.engResets.find? fun r => decide (r.eng = e)).map fun r => r.ctxs).getD []
  let s := modFlt (fun f => { f with engResets := f.engResets.filter fun r => decide (r.eng ≠ e) }) s
  let s := cs.foldl (fun s c => if engDoneFor s c then finishCtxReset c s else s) s
  match e with
  | .figure p => if ptnInReset s p.val then s else serve p.val (modFe p.val (fun f => { f with mode := .idle }) s)
  | .mover _ => settleMovers s
  | .mask d => serveMasks d.val s
  | .exchange _ => settleLocal s
  | .sampler _ => s

def execEngineResetDone (e : EngineSel) (r : SelfTestResult) (s : State) : Host.Outcome State Fault Refusal :=
  .next (if isReady s && engPending s e then
      match r with
      | .passed => engineDone e s
      | .failed => engineExpired e s
    else s)

/-! ### The end of clearing in a partition reset (11 R341 steps 3-5) -/

def ptnResetDone (p : Nat) (s : State) : State :=
  match (getPtn s p).reset with
  | some (c, 0) =>
    let s := modPtn p (fun x => { x with figure := none, cores := [], partner := [], barrier := 0, flow := {}, fig := { x.fig with slot := 0 } }) s
    let s := (ctxsOf s p).foldl (fun s c => serveCtxReset c s) (roundChanges p s)
    modPtn p (fun x => { x with fig := { x.fig with st := .mirror }, reset := some (c, 1) }) (setTickets p s)
  | _ => s

def execPartitionResetDone (p : PtnId) (s : State) : Host.Outcome State Fault Refusal := .next (if isReady s then ptnResetDone p.val s else s)

/-! ### The end of a module reset (11 R342 steps 4-7) -/

/-- An object is retained (07 R230). -/
def retainable (m : PMem) (o : Nat) (x : Obj) : Bool :=
  decide (x.st = .valid) && x.home == 2 && decide (x.manifest ≠ 0) && (List.range x.pages).all fun k => (tget ({} : PageEnt) m.pages (pageKey o k)).t2.isSome

/-- A retained object keeps its T2 copies, and its shards are PENDING. -/
def retain (p : Nat) (m : PMem) (o : Nat) (x : Obj) : Retained :=
  { ptn := p, id := o, obj := { x with shards := x.shards.map fun h => { h with st := .pending } },
    pages := (List.range x.pages).map fun k => let e := tget ({} : PageEnt) m.pages (pageKey o k); (pageKey o k, { zero := e.zero, t2 := e.t2 }) }

def retainedNow (s : State) : List Retained :=
  s.ptns.flatMap fun e => (e.2.mem.objs.filter fun x => retainable e.2.mem x.1 x.2).map fun x => retain e.1 e.2.mem x.1 x.2

/-- T2 pages of retained objects. -/
def retainedPages (rs : List Retained) : NSet := rs.foldl (fun t r => naddAll (r.pages.filterMap fun e => e.2.t2) t) []

/-- The tiers after a module reset: T2 keeps what retained objects hold, and the retired-page list stays; pages that did not fit on it
return to service (07 R229, R230). -/
def tiersAfter (s : State) : MemUnit :=
  let rs := s.mem.retained ++ retainedNow s
  let keep := retainedPages rs
  let listed (t : Nat) (l : NSet) : NSet := l.filter fun i => !nhas s.mem.unlisted (t * 2 ^ 32 + i)
  { t2 := s.mem.t2.filter fun c => nhas keep (c.1 / pageBytes), bad2 := s.mem.bad2.filter fun l => nhas keep (l / 1024), used2 := keep, retained := rs,
    retired0 := listed 0 s.mem.retired0, retired1 := listed 1 s.mem.retired1, retired2 := listed 2 s.mem.retired2 }

/-- A partition number outside any partition keeps its fault block; its power settings return to their reset values (13 R399). -/
def ptnsAfter (t : Tbl Ptn) : Tbl Ptn := tmap {} (fun x : Ptn => { flt := { x.flt with mirrorWait := false, staged := none } }) t

/-- RESET entries or records that no ring took (11 R342 step 3). -/
def entriesLeft (s : State) : Bool := s.rings.any fun e => !e.2.resets.isEmpty || !e.2.recs.isEmpty

/-- The Caller's coordinate is restored, ports are OFF, and channels, exchanges and the lost set are cleared (10 R306; 14 R417). -/
def fabAfter (f : Fab) : Fab := { coord := f.kept.getD 0, valid := f.kept.isSome, kept := f.kept, near := f.near, far := f.far, mcast := f.mcast }

/-- Steps 4-7 have ended: contexts, partitions, rings and directories are gone, and the module is READY. -/
def moduleDone (s : State) : State :=
  let s := { s with
    mem := tiersAfter s, flt := { s.flt with resetting := false, recsInc := s.flt.recsInc || entriesLeft s, n1 := 0, n2 := 0, n3 := 0, engResets := [] },
    ctxs := [], ptns := ptnsAfter s.ptns, rings := [], adapters := [], steers := [], masks := [], ptnCmd := {} }
  let s := { s with
    qtrs := tmap {} (fun q : Qtr => { temps := q.temps, current := q.current }) s.qtrs,
    dies := tmap {} (fun d : Die => { pll := d.pll, unlockAged := d.unlockAged, temps := d.temps }) s.dies,
    fab := fabAfter s.fab }
  let s := if s.fab.valid then pulse srcCoordSet s else s
  pulse srcModuleResetDone (startPorts (startDies (modBoot (fun b => { b with stage := .ready }) s)))

def execModuleResetDone (s : State) : Host.Outcome State Fault Refusal :=
  .next (if decide (s.boot.stage = .resetting) && !s.sets.isEmpty then moduleDone s else s)

/-! ### Policies (11 R334) -/

/-- A code has a context in scope, for level 1. -/
def ctxInScope (code : Nat) : Bool := codeScope code == 3 || codeScope code == 5 || code == 0x0702

/-- A code has an engine in scope, for level 2 (R446). -/
def engInScope (code : Nat) : Bool := decide (codeEngine code ≠ 0) || [0x0501, 0x0505, 0x0401, 0x0402, 0x0403, 0x0405].contains code

/-- The module ignores a LEVEL. -/
def policyBad (code v : Nat) : Bool :=
  let d := defaultAction code
  decide (actionRank v < actionRank d) || v == 5 || v == 7 || (v == 6 && d != 6) || (v == 1 && !ctxInScope code) || (v == 2 && !engInScope code) ||
    d == 5 || code == 0x0901 || code == 0x0504

def writePolicy (code v : Nat) (s : State) : State :=
  if policyBad code v then modFlt (fun f => { f with polRefused := true }) s
  else modFlt (fun f => { f with policy := if v = defaultAction code then tdel code f.policy else tput code v f.policy }) s

/-- BAR0 offset of a policy, and its code; places without a code are unmapped. -/
def policyOff (group number : Nat) : Nat := 0x01C01000 + 0x40 * group + 4 * number

def policyWrite (fn group number v : Nat) (s : State) : State :=
  if decide (number < 16) && isFaultCode (256 * group + number) then writePolicy (256 * group + number) (v % 8) s else flagUnmapped fn s

def execPolicyWrite (fn : FnId) (group number : Nat) (val : Word) (s : State) : Host.Outcome State Fault Refusal :=
  .next (hostAccess fn.val (policyOff group number) (fn.val == 0) true (policyWrite fn.val group number val.toNat) s)

/-! ### Watchdogs and errors of the module's own parts (11 R333, R355; 12 R362) -/

/-- Ten missed heartbeats: the source pulses, a snapshot is taken, and DIE_WATCHDOG is raised. -/
def execDieWatchdog (d : DieId) (missed : Nat) (s : State) : Host.Outcome State Fault Refusal :=
  .next (if switchedUp s then
      let s := pulse (srcDie d.val 0) s
      let s := if isReady s then s else takeSnapshot 0x0104 s
      raise ((faultRec s 0x0104 0 missed).withDie d.val) s
    else s)

def execCallerWdogWarn (s : State) : Host.Outcome State Fault Refusal := .next (if s.boot.aon then pulse srcWdogWarn s else s)

def execCallerRestart (pc : Word) (s : State) : Host.Outcome State Fault Refusal := .next (if s.boot.aon then raiseMod 0x0105 0 pc.toNat s else s)

def execCoreMemUe (p : PtnId) (core addr : Nat) (s : State) : Host.Outcome State Fault Refusal :=
  .next (if isReady s && (getPtn s p.val).exists_ then raisePtn 0x0106 p.val core addr s else s)

/-- The die whose source signals an engine's error: a figure engine's is its partition's home die. -/
def engDie (s : State) (e : EngineSel) : Nat :=
  match e with | .figure p => homeDie s p.val | .mover d => d.val | .sampler d => d.val | .mask d => d.val | .exchange d => d.val

def engineFails (e : EngineSel) (entry : Nat) (s : State) : State :=
  let s := pulse (srcDie (engDie s e) 6) s
  raise ({ faultRec s 0x0505 0 entry with scope := engScope e }.withSel e) s

def execEngineError (e : EngineSel) (queueEntry : Nat) (s : State) : Host.Outcome State Fault Refusal :=
  .next (if isReady s && engExists s e then engineFails e queueEntry s else s)

/-! ### Presence (15 R439) -/

/-- The LEAVING message names its cause (14 R416). -/
def sendLeaving : State → State := mctpSend 0x0F 0 0 (leBytes 2 0x0903)

/-- A record where no module reset follows. -/
def recordPresence (s : State) : State := recordFault { faultRec s 0x0903 0 0 with action := 0 } s

def execPresenceLost (s : State) : Host.Outcome State Fault Refusal :=
  .next (if !s.boot.aon then s
    else if switchedUp s then
      let s := fence s
      let s := if isReady s || decide (s.boot.stage = .resetting) then modFlt (fun f => { f with recsInc := true }) (raiseMod 0x0903 0 0 s) else recordPresence s
      switchOff .standby (sendLeaving s)
    else sendLeaving (recordPresence s))

end Sys2Proof.Machine
end

