-- ==== Sys2Proof/Machine/Registers.lean ====
section
/-! DEFINITION. Host accesses to BAR0 (00 R6-R15): a write of any register, which acts as that register's own command where it has
one, and a read with its effects. -/
namespace Sys2Proof.Machine

/-! ### Writes, window by window; `v` is the 32-bit value -/

/-- MOD_PTN_CMD (08 R233, R234); other OP values are refused with STATE. -/
def writePtnCmd (v : Nat) (s : State) : State :=
  let p := bits v 3 5
  if s.ptnCmd.busy then s
  else match bits v 0 3 with
    | 1 => ptnCreate p s
    | 2 => ptnGrow p s
    | 3 => ptnShrink p s
    | 4 => ptnDestroy p s
    | 5 => ptnBind p (bits v 8 6) s
    | 6 => ptnUnbind p s
    | _ => ptnResult 2 0 s

/-- MOD_MBOX_CMD: ignored while busy; an OP that the firmware does not know is answered FORMAT (14 R421). -/
def writeMbox (v : Nat) (s : State) : State :=
  let op := bits v 0 4
  if s.mbox.busy then s
  else if op = 1 ∨ op = 2 then { s with mbox := { s.mbox with busy := true, op := op } }
  else { s with mbox := { s.mbox with rsp := [], code := 1 } }

/-- A word of an MSI-X table entry. -/
def msixWord (o v : Nat) (m : MsixEntry) : MsixEntry :=
  match o with
  | 0 => { m with addr := pair v (m.addr / 2 ^ 32) }
  | 4 => { m with addr := pair m.addr v }
  | 8 => { m with data := v }
  | _ => { m with masked := bit v 0 }

/-- The word is written; messages that may go out then go out (12 R370). -/
def writeMsix (fn i o v : Nat) (s : State) : State := flushPba fn (modFn fn (fun x => { x with msix := tmod {} i (msixWord o v) x.msix }) s)

def writeMod (fn off v : Nat) (s : State) : State :=
  match blockOf 0x800 4 8 off, blockOf 0x80000 16 (tableSize s fn) off with
  | some (i, _), _ => { s with mbox := { s.mbox with req := tset 0 i v s.mbox.req } }
  | _, some (i, o) => writeMsix fn i o v s
  | none, none =>
    match off with
    | 0x100 => modFn fn (clearModErr v) s
    | 0x200 => writePtnCmd v s
    | 0x204 => { s with ptnCmd := { s.ptnCmd with arg := v } }
    | 0x840 => writeMbox v s
    | _ => s

/-- EVC_HVEC.INTERVAL; without an interval what is held goes out (12 R371, R379). -/
def writeHVec (e v : Nat) (s : State) : State :=
  let s := modHVec e (fun x => { x with interval := bits v 0 12 }) s
  if bits v 0 12 = 0 ∧ (getHVec s e).held = true then vecMessage (vecOf s e).1 (vecOf s e).2 s else s

def writeEvc (off v : Nat) (s : State) : State :=
  match blockOf 0x101000 4 128 off, blockOf 0x101200 4 128 off, blockOf 0x101400 4 128 off, blockOf 0x101600 4 128 off, blockOf 0x102000 8 4096 off,
      blockOf 0x110000 4 4096 off, blockOf 0x114000 4 32 off with
  | some (k, _), _, _, _, _, _, _ => onSources (fun _ n => isSoftware n) setPend (srcBits k (BitVec.ofNat 32 v)) s
  | _, some (k, _), _, _, _, _, _ => clearPends (srcBits k (BitVec.ofNat 32 v)) s
  | _, _, some (k, _), _, _, _, _ => onSources pfOwns mask (srcBits k (BitVec.ofNat 32 v)) s
  | _, _, _, some (k, _), _, _, _ => onSources pfOwns unmask (srcBits k (BitVec.ofNat 32 v)) s
  | _, _, _, _, some (n, o), _, _ => if o = 0 then writeSrcCfg n v s else writeSrcDest n v s
  | _, _, _, _, _, some (e, _), _ => writeHVec e v s
  | _, _, _, _, _, _, some (w, _) => writeVfVectors (w + 1) (bits v 0 12) s
  | none, none, none, none, none, none, none => if off = 0x100004 then modEvc (clearEvcErr v) s else s

def writePwr (off v : Nat) (s : State) : State :=
  match blockOf 0x200100 4 32 off with
  | some (p, _) => modPPwr p (fun x => { x with prio := bits v 0 3, weight := bits v 4 8 }) s
  | none =>
    if off = 0x200004 then modPwr (fun w => { w with hostCap := bits v 0 13 }) s
    else if off = 0x200008 then modPwr (fun w => { w with marginal := w1c w.marginal v 4 }) s else s

/-- FIG_CMD; other OP values are refused with STATE (02 R77). -/
def writeFigCmd (p v : Nat) (s : State) : State :=
  let slot := bits v 4 3
  let go (op : FigOp) (k : Nat) : State := figGo p k op none (getPtn s p).fig.instAddr (getPtn s p).fig.instSize s
  match bits v 0 4 with
  | 1 => go .install slot
  | 2 => go .remove slot
  | 3 => go .load slot
  | 4 => go .start 0
  | 5 => go .drain 0
  | 6 => go .switch slot
  | _ => refuseFig p slot none (0x10, 0) s

/-- An RWL write of a partition's field: ignored, with the flag, while the partition runs (00 R9). -/
def rwlPtn (fn p : Nat) (g : Ptn → Ptn) (s : State) : State := if ptnRuns (getPtn s p) then flagLocked fn s else modPtn p g s

def writeFig (fn p o v : Nat) (s : State) : State :=
  match o with
  | 0x00 => writeFigCmd p v s
  | 0x10 => if bit v 0 then figCommitNow p s else s
  | 0x14 => modFig p (fun f => { f with sh := { f.sh with div := bits v 0 2 } }) s
  | 0x18 => modFig p (fun f => { f with sh := { f.sh with watch := bits v 0 16 } }) s
  | 0x1C => rwlPtn fn p (fun x => { x with fig := { x.fig with drainLimit := bits v 0 20 } }) s
  | 0x20 => rwlPtn fn p (fun x => { x with fig := { x.fig with chainEpoch := bits v 0 16, useChain := bit v 16 } }) s
  | 0x30 => modFig p (fun f => { f with instAddr := pair v (f.instAddr / 2 ^ 32) }) s
  | 0x34 => modFig p (fun f => { f with instAddr := pair f.instAddr v }) s
  | 0x38 => modFig p (fun f => { f with instSize := v }) s
  | _ => s

/-- A ring descriptor's register; RING_PARTITION is the PF's (08 R239). -/
def writeRing (fn r o v off : Nat) (s : State) : State :=
  let sh (g : RingSh → RingSh) : State := modRing r (fun x => { x with sh := g x.sh }) s
  match o with
  | 0x00 => writeRingCtl r v s
  | 0x04 => sh fun x => { x with ctx := bits v 0 12 }
  | 0x08 => sh fun x => { x with base := pair v (x.base / 2 ^ 32) }
  | 0x0C => sh fun x => { x with base := pair x.base v }
  | 0x10 => sh fun x => { x with wb := pair v (x.wb / 2 ^ 32) }
  | 0x14 => sh fun x => { x with wb := pair x.wb v }
  | 0x18 => sh fun x => { x with comp := bits v 0 15 }
  | 0x1C => sh fun x => { x with vector := bits v 0 11 }
  | 0x28 => modRing r (clearRing v) s
  | 0x2C => if fn = 0 then modRing r (fun x => { x with ptn := bits v 0 5, assigned := bit v 5 }) s else vfAccess fn off s
  | _ => s

/-- CTX_CMD (08 R236, R237). -/
def writeCtxCmd (fn c v : Nat) (s : State) : State :=
  match bits v 0 3 with
  | 0 => s
  | 1 => ctxEnable fn c (bits v 3 5) s
  | 2 => ctxDisable fn c s
  | 3 => ctxReset c s
  | _ => ctxCode c 1 s

def writeCtx (fn c o v : Nat) (s : State) : State :=
  let sh (g : CtxSh → CtxSh) : State := modCtx c (fun x => { x with sh := g x.sh }) s
  match o with
  | 0x00 => writeCtxCmd fn c v s
  | 0x04 => modCtx c (fun x => { x with saveUnus := w1c x.saveUnus v 24 }) s
  | 0x08 => if bit v 0 then ctxCommitNow c s else s
  | 0x0C => sh fun x => { x with prio := bits v 0 3, slice := bits v 8 16 }
  | 0x10 => sh fun x => { x with figOps := bit v 0, baseNoAd := bit v 1 }
  | 0x14 => sh fun x => { x with saveObj := bits v 0 16, saveVal := bit v 16 }
  | 0x20 => sh fun x => { x with tmo0 := bits v 0 24 }
  | 0x24 => sh fun x => { x with tmo1 := bits v 0 24 }
  | 0x28 => sh fun x => { x with tmo2 := bits v 0 24 }
  | 0x2C => sh fun x => { x with tmo3 := bits v 0 24 }
  | _ => s

def writeMemMod (off v : Nat) (s : State) : State :=
  match off with
  | 0xC00010 => modMem (fun m => { m with scrubInt := bits v 0 24 }) s
  | 0xC00014 => modMem (fun m => { m with scrubRate := bits v 0 16 }) s
  | 0xC00030 => modMem (fun m => { m with bar4Sel := bits v 0 5 }) s
  | 0xC00034 => modMem (fun m => { m with scrubLate := w1c m.scrubLate v 0 }) s
  | _ => s

/-- A partition's MEM_ block; its quotas are the PF's (07 R232). -/
def writeMem (fn p o v off : Nat) (s : State) : State :=
  match o with
  | 0x00 => if fn = 0 then writeQuota p 1 v s else vfAccess fn off s
  | 0x04 => if fn = 0 then writeQuota p 2 v s else vfAccess fn off s
  | 0x18 => modPMem p (clearMemErr v) s
  | _ => s

/-- A word of a send channel, or of a receive channel: RWL of the owning partition (10 R328). A channel that leaves service holds
nothing. -/
def writeTx (fn c o v : Nat) (s : State) : State :=
  let w := tget 0 s.fab.tx0 c
  if ptnRuns (getPtn s (bits w 18 5)) then flagLocked fn s
  else if o = 0 then
    let s := modFab (fun f => { f with tx0 := tset 0 c (bits v 0 23) f.tx0 }) s
    if bit v 17 then s else modChan c (fun x => { x with credits := 0, txq := [] }) s
  else modFab (fun f => { f with tx1 := tset 0 c (bits v 0 12) f.tx1 }) s

def writeRx (fn c v : Nat) (s : State) : State :=
  let w := tget 0 s.fab.rx c
  if ptnRuns (getPtn s (bits w 17 5)) then flagLocked fn s
  else
    let s := modFab (fun f => { f with rx := tset 0 c (bits v 0 22) f.rx }) s
    if bit v 16 then s else modChan c (fun x => { x with rxq := [] }) s

/-- Route and multicast entries lock while any partition runs. -/
def rwlFab (fn : Nat) (g : Fab → Fab) (s : State) : State := if anyPtnRuns s then flagLocked fn s else reroute (modFab g s)

def writePortCtl (n v : Nat) (s : State) : State :=
  let s := writeEnable n (bit v 0) s
  if bit v 1 then writeRetrain n s else s

def writeFab (fn off v : Nat) (s : State) : State :=
  match blockOf 0x1000100 4 18 off, blockOf 0x1001000 4 64 off, blockOf 0x1002000 4 1024 off, blockOf 0x1004000 8 4096 off, blockOf 0x100C000 4 4096 off,
      blockOf 0x1014000 4 256 off with
  | some (n, _), _, _, _, _, _ => writePortCtl n v s
  | _, some (k, _), _, _, _, _ => rwlFab fn (fun f => { f with near := tset 0 k (bits v 0 12) f.near }) s
  | _, _, some (b, _), _, _, _ => rwlFab fn (fun f => { f with far := tset 0 b (bits v 0 12) f.far }) s
  | _, _, _, some (c, o), _, _ => writeTx fn c o v s
  | _, _, _, _, some (c, _), _ => writeRx fn c v s
  | _, _, _, _, _, some (g, _) => rwlFab fn (fun f => { f with mcast := tset 0 g (bits v 0 19) f.mcast }) s
  | none, none, none, none, none, none => s

def writeXch (fn p o v : Nat) (s : State) : State :=
  match o with
  | 0x00 => rwlPtn fn p (fun x => { x with xch := { x.xch with bufAddr := pair v (x.xch.bufAddr / 2 ^ 32) } }) s
  | 0x04 => rwlPtn fn p (fun x => { x with xch := { x.xch with bufAddr := pair x.xch.bufAddr v } }) s
  | 0x08 => rwlPtn fn p (fun x => { x with xch := { x.xch with bufPages := bits v 0 18 } }) s
  | _ => s

/-- PTN_PLAN_CMD and ATT_MAP_CMD; other OP values are refused with STATE. -/
def writePlanCmd (p v : Nat) (s : State) : State :=
  let slot := bits v 2 3
  match bits v 0 2 with
  | 1 => planCmd p slot true s
  | 2 => planCmd p slot false s
  | _ => if (getPtn s p).units.binding.isSome then s else planEnd p 8 slot s

def writeMapCmd (p v : Nat) (s : State) : State :=
  let slot := bits v 2 3
  match bits v 0 2 with
  | 1 => mapCmd p slot true s
  | 2 => mapCmd p slot false s
  | _ => if (getPtn s p).att.binding.isSome then s else mapEnd p 8 slot s

def writeUnits (p o v : Nat) (s : State) : State :=
  match o with
  | 0x00 => modUnits p (fun u => { u with addr := pair v (u.addr / 2 ^ 32) }) s
  | 0x04 => modUnits p (fun u => { u with addr := pair u.addr v }) s
  | 0x08 => modUnits p (fun u => { u with size := bits v 0 25 }) s
  | 0x0C => writePlanCmd p v s
  | _ => s

def writeAtt (fn p o v : Nat) (s : State) : State :=
  match o with
  | 0x00 => writePool fn p .baseLo v s
  | 0x04 => writePool fn p .baseHi v s
  | 0x08 => writePool fn p .pages v s
  | 0x10 => modAtt p (clearPool v) s
  | 0x14 => if bit v 0 then attCommitNow p s else s
  | 0x20 => modAtt p (fun a => { a with mapAddr := pair v (a.mapAddr / 2 ^ 32) }) s
  | 0x24 => modAtt p (fun a => { a with mapAddr := pair a.mapAddr v }) s
  | 0x28 => modAtt p (fun a => { a with mapSize := bits v 0 21 }) s
  | 0x2C => writeMapCmd p v s
  | _ => s

def writeAttCtx (fn c o v : Nat) (s : State) : State :=
  match blockOf 0x10 4 8 o with
  | some (k, _) => modCtx c (fun x => { x with attSh := { x.attSh with victim := tset 0 k (bits v 0 16) x.attSh.victim } }) s
  | none =>
    if o = 0 then writeReserve fn c v s
    else if o = 4 then modCtx c (fun x => { x with attSh := { x.attSh with limit := bits v 0 24 } }) s else s

/-- FLT_CMD (11 R359). -/
def writeFltCmd (v : Nat) (s : State) : State :=
  match bits v 0 3 with
  | 1 => resetCmd (fun s => hostResetRec s 4 0) s
  | 2 => takeSnapshot 0 s
  | 3 => snapRelease s
  | 4 => engineReset (bits v 3 3) (dieId (bits v 6 3)) (ptnId (bits v 9 5)) s
  | 5 => partitionReset (bits v 9 5) s
  | _ => s

/-- A fault-block field that a VF may write while its partition is stopped, and whose PF write takes effect at the next round boundary
(11 R360). -/
def writeFltSh (fn p : Nat) (g : FltSh → FltSh) (s : State) : State :=
  if ptnRuns (getPtn s p) then
    (if fn = 0 then modPFlt p (fun f => { f with staged := some (g (f.staged.getD f.cur)) }) s else flagLocked fn s)
  else modPFlt p (fun f => { f with cur := g f.cur }) s

def writeFltPtn (fn p o v : Nat) (s : State) : State :=
  match blockOf 0x40 4 24 o with
  | some (n, _) => writeFltSh fn p (fun f => { f with watch := tset {} n { core := bits v 0 17, pattern := bits v 17 11, valid := bit v 31 } f.watch }) s
  | none =>
    match o with
    | 0x00 => modPFlt p (clearFltPtn v) s
    | 0x08 => writeFltSh fn p (fun f => { f with mirrorSlot := bits v 0 3, mirrorNamed := bit v 3 }) s
    | 0x0C => modPFlt p (fun f => { f with snapObj := bits v 0 16, snapNamed := bit v 16 }) s
    | 0x10 => modPFlt p (fun f => { f with qsEnable := bit v 0, qsPeriod := bits v 16 16 }) s
    | 0x14 => writeFltSh fn p (fun f => { f with qsObj := bits v 0 16 }) s
    | _ => s

def writeFlt (fn off v : Nat) (s : State) : State :=
  match blockOf 0x1C01000 0x40 64 off, blockOf 0x1CC0000 0x1000 32 off with
  | some (g, o), _ => policyWrite fn g (o / 4) v s
  | _, some (p, o) => writeFltPtn fn p o v s
  | none, none =>
    if off = 0x1C00000 then modFlt (clearFlt v) s else if off = 0x1C00004 then writeFltCmd v s else s

/-- A write of the register at an aligned offset by its access code (00 R8). -/
def regWrite (fn off v : Nat) (s : State) : State :=
  if off < 0x100000 then writeMod fn off v s
  else if off < 0x200000 then writeEvc off v s
  else if off < 0x400000 then writePwr off v s
  else if off < 0x800000 then (match blockOf 0x401000 0x1000 32 off with | some (p, o) => writeFig fn p o v s | none => s)
  else if off < 0xA00000 then writeRing fn ((off - 0x800000) / 0x40) (off % 0x40) v off s
  else if off < 0xB00000 then writeCtx fn ((off - 0xA00000) / 0x100) (off % 0x100) v s
  else if off < 0x1000000 then (match blockOf 0xC01000 0x1000 32 off with | some (p, o) => writeMem fn p o v off s | none => writeMemMod off v s)
  else if off < 0x1400000 then (match blockOf 0x1020000 0x1000 32 off with | some (p, o) => writeXch fn p o v s | none => writeFab fn off v s)
  else if off < 0x1800000 then (match blockOf 0x1401000 0x1000 32 off with | some (p, o) => writeUnits p o v s | none => s)
  else if off < 0x1C00000 then
    (match blockOf 0x1801000 0x1000 32 off, blockOf 0x1840000 0x40 4096 off with
     | some (p, o), _ => writeAtt fn p o v s
     | none, some (c, o) => writeAttCtx fn c o v s
     | none, none => s)
  else if off < 0x2000000 then writeFlt fn off v s
  else s

/-! ### Accesses (00 R7) -/

/-- One aligned 32-bit write. -/
def writeWord (fn off v : Nat) (s : State) : State :=
  hostAccess fn off (seesOff s fn off) (earlyOff off) (fun s => if (regRead s fn off).isSome then regWrite fn off v s else flagUnmapped fn s) s

/-- A narrower or unaligned access: its flag; a VF's access outside its subset is counted instead. -/
def badSize (fn off : Nat) (s : State) : State := hostAccess fn off (seesOff s fn (off / 4 * 4)) (earlyOff (off / 4 * 4)) (flagSize fn) s

def hostWriteReg (fn off size v : Nat) (s : State) : State :=
  if !wordAccess off size then badSize fn off s
  else if size = 4 then writeWord fn off (w32 v) s
  else writeWord fn (off + 4) (v / 2 ^ 32 % 2 ^ 32) (writeWord fn off (w32 v) s)

def execRegisterWrite (fn : FnId) (off size : Nat) (val : DWord) (s : State) : Host.Outcome State Fault Refusal :=
  .next (hostWriteReg fn.val off size val.toNat s)

/-- What a read shows at an aligned offset: 0 outside the function's subset, before the register is served, and at unmapped offsets. -/
def shown (s : State) (fn off : Nat) : Nat :=
  if seesOff s fn off && (earlyOff off || isReady s) then (regRead s fn off).getD 0 else 0

/-- The effect of one aligned 32-bit read. -/
def readWord (fn off : Nat) (s : State) : State :=
  hostAccess fn off (seesOff s fn off) (earlyOff off) (fun s => if (regRead s fn off).isSome then readEffect fn off s else flagUnmapped fn s) s

/-- The bytes that a read addresses. -/
def shownBytes (s : State) (fn off size : Nat) : List Byte :=
  (List.range size).map fun i => let a := off + i; BitVec.ofNat 8 (shown s fn (a / 4 * 4) / 2 ^ (8 * (a % 4)))

/-- A read: aligned reads act word by word, low address first; others only show the bytes (00 R7). -/
def hostReadReg (fn off size : Nat) (s : State) : State :=
  if !barOpen s fn then s
  else if !wordAccess off size then readOut (shownBytes s fn off size) false (badSize fn off s)
  else if size = 4 then readOut (leBytes 4 (shown s fn off)) false (readWord fn off s)
  else
    let t := readWord fn off s
    readOut (leBytes 4 (shown s fn off) ++ leBytes 4 (shown t fn (off + 4))) false (readWord fn (off + 4) t)

/-- A read of the registers, or of the doorbells (08 R241). -/
def execRcRead (fn : FnId) (addr : BarAddr) (size : Nat) (s : State) : Host.Outcome State Fault Refusal :=
  .next (match addr.bar with
    | .registers => hostReadReg fn.val addr.off size s
    | .doorbells => doorbellRead fn.val addr.off size s)

/-- A read of MOD_TIME_LO, alone or with MOD_TIME_HI (01 R41). -/
def execModTimeLoRead (fn : FnId) (wide : Bool) (s : State) : Host.Outcome State Fault Refusal :=
  .next (hostReadReg fn.val 0x20 (if wide then 8 else 4) s)

/-- A read of FIG_ROUNDS_LO (02 R83). -/
def execFigRoundsLoRead (fn : FnId) (p : PtnId) (wide : Bool) (s : State) : Host.Outcome State Fault Refusal :=
  .next (hostReadReg fn.val (figOff p.val + 0x28) (if wide then 8 else 4) s)

/-- A read of CTX_RUN_LO (08 R237). -/
def execCtxRunLoRead (fn : FnId) (c : CtxId) (wide : Bool) (s : State) : Host.Outcome State Fault Refusal :=
  .next (hostReadReg fn.val (ctxOff c.val + 0x40) (if wide then 8 else 4) s)

end Sys2Proof.Machine
end

