-- ==== Sys2Proof/Machine/Management.lean ====
section
/-! DEFINITION. Management messages (14 R407-R417; 13 R448), attestation (14 R413-R415), the management bus (15 R429, R430) and the
firmware mailbox (14 R421). -/
namespace Sys2Proof.Machine

/-! ### Telemetry (13 R448) -/

/-- A temperature as two bytes; 0xFFFF for a sensor whose domain is off. -/
def tempIf (on : Bool) (t : Nat) : List Byte := leBytes 2 (if on then t % 4096 else 0xFFFF)
def tempBytes (s : State) (t : Nat) : List Byte := tempIf (switchedUp s) t

/-- The 692 bytes as they read now. -/
def telemetryNow (s : State) : List Byte :=
  let w := s.pwr
  leBytes 8 w.refreshed ++ wordsBytes [pwrInputWord w, pwrMeasureWord w, pwrCapWord w, capTarget w, pwrStatusWord w, pwrCoolantWord w] ++
  wordsBytes ((List.range 32).map (pwrQtrWord s)) ++
  (List.range 32).flatMap (fun q => leBytes 1 (divShown s q)) ++
  (List.range 32).flatMap (fun q => (List.range 4).flatMap fun k => tempBytes s (tget 0 (getQtr s q).temps k)) ++
  (List.range 8).flatMap (fun d => (List.range 2).flatMap fun k => tempBytes s (tget 0 (getDie s d).temps k)) ++
  (List.range 8).flatMap (fun h => tempBytes s (tget 0 w.hbm h)) ++
  (List.range 24).flatMap (fun p => tempBytes s (tget 0 w.lpddr p)) ++
  (List.range 73).flatMap (fun r => tempIf (switchedUp s || r == 72) (tget 0 w.regs r)) ++ [0, 0]

/-- The response: what the last refresh found; before the first, what reads now (13 R398; log 12). -/
def telemetry (s : State) : List Byte := if s.pwr.tele.isEmpty then telemetryNow s else padTo 692 s.pwr.tele

/-- The 1 ms recomputation, with which the telemetry is refreshed (13 R383, R390, R391, R398). -/
def budgetRecompute (m : Measure) (s : State) : State :=
  let s := limitsChanged (parkOrUnpark (setBudgets (moveCap (storeMeasure m s))))
  modPwr (fun w => { w with tele := telemetryNow s }) s

def execBudgetRecompute (m : Measure) (s : State) : Host.Outcome State Fault Refusal :=
  .next (if s.boot.aon then budgetRecompute m s else s)

def execGetTelemetry (inst : Nat) (s : State) : Host.Outcome State Fault Refusal :=
  .next (mgmtServe 0x04 inst romUp (fun s => (0, telemetry s, s)) s)

/-! ### Log and snapshot -/

/-- The records held with SEQ `first` on, at most 32. -/
def logBytes (s : State) (first count : Nat) : List Byte :=
  (List.range count).flatMap fun i => match s.flt.log.find? fun r => r.seq == w32 (first + i) with | some r => wordsBytes (faultWords r) | none => []

def getLog (first count : Nat) (s : State) : Nat × List Byte × State :=
  if count = 0 ∨ 32 < count then (1, [], s) else (0, logBytes s first count, s)

def execGetLog (inst first count : Nat) (s : State) : Host.Outcome State Fault Refusal := .next (mgmtServe 0x05 inst romUp (getLog first count) s)

def getSnapshot (off len : Nat) (s : State) : Nat × List Byte × State :=
  if len = 0 ∨ 1024 < len ∨ 0x50000 < off + len then (1, [], s) else (0, mread s.flt.snap off len, s)

def execGetSnapshot (inst offset len : Nat) (s : State) : Host.Outcome State Fault Refusal := .next (mgmtServe 0x06 inst romUp (getSnapshot offset len) s)

def execMctpSnapRelease (inst : Nat) (s : State) : Host.Outcome State Fault Refusal :=
  .next (mgmtServe 0x07 inst romUp (fun s => (0, [], snapRelease s)) s)

/-! ### Firmware (14 R407, R408) -/

/-- Stages that serve FW_TRANSFER and FW_COMMIT. -/
def fwStage (t : Stage) : Bool :=
  match t with
  | .recoveryWait | .standby | .ready | .failed => true
  | _ => false

/-- A chunk of at most 1,024 B into the always-on SRAM. -/
def fwTransfer (off : Nat) (data : List Byte) (s : State) : Nat × List Byte × State :=
  if data.isEmpty || decide (1024 < data.length) || decide (0x800000 < off + data.length) then (1, [], s)
  else (0, [], modBoot (fun b => { b with upload := mwrite b.upload off data }) s)

def execFwTransfer (inst offset : Nat) (data : List Byte) (s : State) : Host.Outcome State Fault Refusal :=
  .next (mgmtServe 0x08 inst fwStage (fwTransfer offset data) s)

/-- A failed commit's status: FORMAT for a malformed image, AUTH for one whose key, signature or version is refused. -/
def fwFailStatus (c : Nat) : Nat := if c ≤ 2 then 1 else 4

/-- FW_COMMIT: the checks of R406 on the received image; from RECOVERY_WAIT start-up goes on with it while the flash is written,
otherwise the flash is written and the running firmware goes on. -/
def fwCommit (size : Nat) (s : State) : Nat × List Byte × State :=
  let n := if size ≤ 0x800000 then size else 0
  if s.boot.flashBusy then (3, [], s)
  else match fwCheck s.fuses (mread s.boot.upload 0 n) n with
    | .error c => (fwFailStatus c, leBytes 1 c, if s.boot.stage = .recoveryWait then modBoot (fun b => { b with failCode := c }) s else s)
    | .ok i =>
      if s.boot.stage = .recoveryWait then
        (0, [], runFirmware i true (modBoot (fun b => { b with sram := b.upload, sramSize := n, flashBusy := true }) s))
      else (0, [], modBoot (fun b => { b with flash := b.upload, flashSize := n }) s)

def execFwCommit (inst size : Nat) (s : State) : Host.Outcome State Fault Refusal := .next (mgmtServe 0x09 inst fwStage (fwCommit size) s)

/-! ### Key messages (14 R411) -/

/-- A fresh nonce of 16 bytes, which the spec leaves open: four free values (log 5). -/
def freshNonce (s : State) : Nat × State :=
  let (a, s) := drawFree s
  let (b, s) := drawFree s
  let (c, s) := drawFree s
  let (d, s) := drawFree s
  (a.toNat + 2 ^ 32 * b.toNat + 2 ^ 64 * c.toNat + 2 ^ 96 * d.toNat, s)

def getNonce (s : State) : Nat × List Byte × State :=
  let r := freshNonce s
  (0, leBytes 16 r.1, modMgmt (fun m => { m with nonce := some r.1 }) r.2)

def execGetNonce (inst : Nat) (s : State) : Host.Outcome State Fault Refusal := .next (mgmtServe 0x0A inst standbyUp getNonce s)

/-- A key message's signed bytes: its payload and the nonce (log 5). -/
def keyBytes (code : Nat) (m : KeyMsg) : List Byte :=
  leBytes 1 code ++ leBytes 1 m.slot ++ leBytes 1 m.signer ++ leBytes 1 0 ++ leBytes 32 m.keyX ++ leBytes 32 m.keyY ++ leBytes 16 m.nonce

/-- The nonce is the module's last, and the signature verifies with the signer's key. -/
def keyGenuine (s : State) (code : Nat) (m : KeyMsg) : Bool :=
  let k := slotKey s.fuses m.signer
  s.mgmt.nonce == some m.nonce && ecdsaVerify k.1 k.2 (sha256 (keyBytes code m)) m.sigR m.sigS

/-- The message is genuine, and its signer's key is accepted. -/
def keySigned (s : State) (code : Nat) (m : KeyMsg) : Bool := keyGenuine s code m && slotAccepted s.fuses m.signer

/-- The key state changed: its measurement follows (14 R413). -/
def keysChanged (s : State) : State := setMeas 4 (measureKeys s.fuses) s

def keyProvision (m : KeyMsg) (s : State) : Nat × List Byte × State :=
  let f := s.fuses
  if m.slot = 0 ∨ 4 < m.slot then (1, [], s)
  else if !keySigned s 0x0B m || (m.signer == 0) != (f.provisioned == 0) then (4, [], s)
  else if bit f.provisioned (m.slot - 1) then (2, [], s)
  else (0, [], keysChanged { s with fuses := { f with provisioned := setBit f.provisioned (m.slot - 1), ownerX := tset 0 m.slot m.keyX f.ownerX, ownerY := tset 0 m.slot m.keyY f.ownerY } })

def execKeyProvision (inst : Nat) (m : KeyMsg) (s : State) : Host.Outcome State Fault Refusal :=
  .next (mgmtServe 0x0B inst standbyUp (keyProvision m) s)

/-- Figure slots signed by a slot's key become INVALID with ERR 0x03. -/
def dropSigned (k : Nat) (s : State) : State :=
  { s with ptns := s.ptns.map fun e =>
      (e.1, { e.2 with fig := { e.2.fig with slots := e.2.fig.slots.map fun x =>
        if x.2.st = .valid ∧ (x.2.fig.any fun f => f.keySlot == k) = true then (x.1, { x.2 with st := .invalid, err := 3 }) else x } }) }

def keyRevoke (m : KeyMsg) (s : State) : Nat × List Byte × State :=
  let f := s.fuses
  if m.slot = 0 ∨ 4 < m.slot then (1, [], s)
  else if !keySigned s 0x0C m || m.signer == m.slot then (4, [], s)
  else (0, [], keysChanged (dropSigned m.slot { s with fuses := { f with revoked := setBit f.revoked (m.slot - 1) } }))

def execKeyRevoke (inst : Nat) (m : KeyMsg) (s : State) : Host.Outcome State Fault Refusal :=
  .next (mgmtServe 0x0C inst standbyUp (keyRevoke m) s)

def vendorDisable (m : KeyMsg) (s : State) : Nat × List Byte × State :=
  if !keyGenuine s 0x0D m then (4, [], s)
  else if !([1, 2, 3, 4].any fun k => slotAccepted s.fuses k) then (2, [], s)
  else if !keySigned s 0x0D m || m.signer == 0 then (4, [], s)
  else (0, [], keysChanged { s with fuses := { s.fuses with vendorOff := true } })

def execVendorDisable (inst : Nat) (m : KeyMsg) (s : State) : Host.Outcome State Fault Refusal :=
  .next (mgmtServe 0x0D inst standbyUp (vendorDisable m) s)

/-! ### The coordinate (14 R417) -/

/-- A port has a peer or is establishing one. -/
def portPeered (x : Port) : Bool := decide (x.st = .exchange) || decide (x.st = .active) || decide (x.st = .retrain)

/-- Ports in EQUALISE and ALIGN begin again with the new coordinate. -/
def retrainPorts (s : State) : State :=
  (List.range 18).foldl (fun s n => if decide ((getPort s n).st = .equalise) || decide ((getPort s n).st = .align) then setPort n .detect s else s) s

def setCoord (coord : Nat) (s : State) : Nat × List Byte × State :=
  if 65536 ≤ coord then (1, [], s)
  else if s.fab.valid ∧ s.fab.coord = coord then (0, [], s)
  else if s.fab.valid && (List.range 18).any fun n => portPeered (getPort s n) then (3, [], s)
  else
    let t := retrainPorts (modFab (fun f => { f with coord := coord, valid := true, kept := some coord }) s)
    let t := if s.fab.valid then t else pulse srcCoordSet t
    (0, [], if isReady t then startPorts t else t)

def execSetCoord (inst coord : Nat) (s : State) : Host.Outcome State Fault Refusal := .next (mgmtServe 0x01 inst standbyUp (setCoord coord) s)

/-! ### Attestation (14 R413-R415) -/

/-- A transport serves: DOE while the host link is up, MCTP once the endpoint ID is assigned. -/
def spdmOpen (s : State) (t : Transport) : Bool := s.boot.aon && match t with | .doe => s.linkUp | .mctp => s.mgmt.eid.isSome

/-- MCTP brings and takes messages as any other. -/
def spdmSend (t : Transport) (bs : List Byte) (s : State) : State :=
  let s := modOut (fun o => { o with spdm := (t, bs) :: o.spdm }) s
  match t with
  | .doe => s
  | .mctp => pulse srcMctpTxDone s

def spdmGot (t : Transport) (s : State) : State := match t with | .doe => s | .mctp => mctpGot s

/-- A measurement's value: partition blocks are zero while no figure is loaded. -/
def measValue (s : State) (i : Nat) : List Byte :=
  if 0x10 ≤ i ∧ i < 0x30 ∧ (getPtn s (i - 0x10)).figure.isNone = true then List.replicate 32 0 else tget (List.replicate 32 0) s.mgmt.meas i

/-- Indices that a response may hold now (14 R413, R415). -/
def measServed (s : State) (i : Nat) : Bool :=
  (decide (1 ≤ i) && decide (i ≤ 4)) || (decide (8 ≤ stageNo s.boot.stage) && (i == 5 || (decide (0x10 ≤ i) && decide (i < 0x30))))

/-- A measurement block in DMTF format: index, specification, size, value type, value size, digest (log 5). -/
def measBlock (s : State) (i : Nat) : List Byte :=
  leBytes 1 i ++ leBytes 1 1 ++ leBytes 2 35 ++ leBytes 1 1 ++ leBytes 2 32 ++ padTo 32 (measValue s i)

/-- An SPDM response: version 1.2, its code, and its contents. -/
def spdmBytes (code : Nat) (body : List Byte) : List Byte := leBytes 1 0x12 ++ leBytes 1 code ++ leBytes 2 0 ++ body

/-- The alias key's signature of the transcript that ends with a response's contents (14 R412, R414; log 5). -/
def aliasSignature (s : State) (body : List Byte) : List Byte :=
  ecdsaSign (aliasScalar s.mgmt.aliasBase) (Config.spdmDigest s.free body) (Config.signNonce s.free)

/-- A response's contents with their signature leave. -/
def sendSigned (t : Transport) (code : Nat) (body : List Byte) (s : State) : State :=
  spdmSend t (spdmBytes code (body ++ aliasSignature s body)) { s with free := s.free + 1 }

def measResponse (t : Transport) (is : List Nat) (s : State) : State :=
  sendSigned t 0x60 ((is.filter (measServed s)).flatMap (measBlock s)) s

def execGetMeasurements (t : Transport) (indices : List Nat) (s : State) : Host.Outcome State Fault Refusal :=
  .next (if spdmOpen s t then measResponse t indices (spdmGot t s) else s)

/-- The connection state of a transport. -/
def setConn (t : Transport) (b : Bool) : State → State :=
  modMgmt fun m => match t with | .doe => { m with spdmDoe := b } | .mctp => { m with spdmMctp := b }

def spdmAnswer (t : Transport) (r : SpdmReq) (s : State) : State :=
  match r with
  | .getVersion => spdmSend t (spdmBytes 0x04 (leBytes 2 2 ++ leBytes 2 0x1200 ++ leBytes 2 0x1300)) (setConn t false s)
  | .getCapabilities => spdmSend t (spdmBytes 0x61 (leBytes 4 0x36)) s
  | .negotiateAlgorithms => spdmSend t (spdmBytes 0x63 (leBytes 4 0x10 ++ leBytes 4 1)) (setConn t true s)
  | .getDigests => spdmSend t (spdmBytes 0x01 (sha256 (certChain s))) s
  | .getCertificate k => if k = 0 then spdmSend t (spdmBytes 0x02 (certChain s)) s else spdmSend t (spdmBytes 0x7F [1]) s
  | .challenge k => if k = 0 then sendSigned t 0x03 (sha256 (certChain s)) s else spdmSend t (spdmBytes 0x7F [1]) s

def execSpdmRequest (t : Transport) (r : SpdmReq) (s : State) : Host.Outcome State Fault Refusal :=
  .next (if spdmOpen s t then spdmAnswer t r (spdmGot t s) else s)

/-! ### The management bus (15 R429, R430) -/

/-- Set Endpoint ID, an MCTP control message; 0x00 and 0xFF are no endpoint IDs. -/
def execSetEndpointId (eid : Byte) (s : State) : Host.Outcome State Fault Refusal :=
  .next (if !s.boot.aon then s
    else
      let s := mctpGot s
      let s := if eid = 0 ∨ eid = 0xFF then s else modMgmt (fun m => { m with eid := some eid.toNat }) s
      pulse srcMctpTxDone s)

/-- SETDASA gives the target at the static address a dynamic one. -/
def execSetdasa (static_ dyn : Nat) (s : State) : Host.Outcome State Fault Refusal :=
  .next (if s.boot.aon && static_ == 0x40 + s.boot.slotId && s.mgmt.dynAddr.isNone then modMgmt (fun m => { m with dynAddr := some (dyn % 128) }) s else s)

def execEntdaa (dyn : Nat) (s : State) : Host.Outcome State Fault Refusal :=
  .next (if s.boot.aon && s.mgmt.dynAddr.isNone then modMgmt (fun m => { m with dynAddr := some (dyn % 128) }) s else s)

def execRstdaa (s : State) : Host.Outcome State Fault Refusal :=
  .next (if s.boot.aon then modMgmt (fun m => { m with dynAddr := none }) s else s)

/-! ### The mailbox (14 R421) -/

/-- The Caller's answer: BUSY clears with the response and its CODE. -/
def mboxAnswer (code : Nat) (rsp : List Nat) (s : State) : State :=
  { s with mbox := { s.mbox with busy := false, code := code, rsp := ((List.range 8).zip rsp).foldl (fun t e => tset 0 e.1 e.2 t) [] } }

/-- The request of an operation, while it is in progress; STATE in a stage below READY. -/
def mboxServe (op : Nat) (go : State → State) (s : State) : State :=
  if s.mbox.busy && s.mbox.op == op then (if stageNo s.boot.stage < 8 then mboxAnswer 2 [] s else go s) else s

def execFwInfo (s : State) : Host.Outcome State Fault Refusal :=
  .next (mboxServe 1 (fun s => mboxAnswer 0 [s.boot.version, pack [(0, 7, s.boot.imgSvn), (8, 3, s.boot.keySlot)]] s) s)

/-- The physical core of a logical core of a set; an empty map is the identity (01 R32). -/
def physCore (x : SetRepair) (c : Nat) : Nat := if x.map.isEmpty then c else x.map.getD c c

/-- Eight words of the map: chunk `c` of a set. -/
def mapWords (x : SetRepair) (c : Nat) : List Nat :=
  (List.range 8).map fun i => leNat ((List.range 4).map fun j => BitVec.ofNat 8 (physCore x (32 * c + 4 * i + j)))

def repairMap (s : State) : State :=
  let n := bits (tget 0 s.mbox.req 0) 0 10
  if 640 ≤ n then mboxAnswer 1 [] s else mboxAnswer 0 (mapWords (getSet s n) (bits (tget 0 s.mbox.req 1) 0 2)) s

def execRepairMap (s : State) : Host.Outcome State Fault Refusal := .next (mboxServe 2 repairMap s)

end Sys2Proof.Machine
end

