-- ==== Sys2Proof/Machine/Link.lean ====
section
/-! DEFINITION. The host link (15 R432-R436, R449; 12 R370, R374): FLR, link loss and return, Bus Master Enable, and the other
configuration-space bits that the module heeds. -/
namespace Sys2Proof.Machine

/-- Host vectors of a function. -/
def ownVecs (s : State) (f : Nat) : List Nat := (s.evc.hvec.filter fun e => (vecOf s e.1).1 == f).map (·.1)

/-- Held signals of a function are discarded (12 R374). -/
def dropHeld (f : Nat) (s : State) : State := (ownVecs s f).foldl (fun s e => modHVec e (fun v => { v with held := false }) s) s

/-- A function's configuration bits and MSI-X table at their defaults; its access errors and its clock latch stay (log 3). -/
def defaultFn (x : Fn) : Fn :=
  { cfgWrIgnored := x.cfgWrIgnored, accessSize := x.accessSize, unmapped := x.unmapped, timeHi := x.timeHi }

/-! ### FLR (15 R435) -/

/-- A context of the function's partition is reset at level 1; its RESET entries also wait for a doorbell. -/
def flrCtx (s : State) (c : Nat) : State :=
  let t := recordFault (hostResetCtx c 1 s) s
  if (getCtx s c).st = .enabled then beginCtxReset c 1 0x0901 true t else t

def flr (v : Nat) (s : State) : State :=
  let cs := match ptnOfFn s v with | some p => ctxsOf s p | none => []
  let s := modFn v (fun x => { defaultFn x with memSpace := x.memSpace, aer := x.aer }) (dropHeld v s)
  let s := pulse srcFunctionChange s
  if isReady s then cs.foldl flrCtx s else s

/-- VFs only: the PF does not advertise FLR (15 R432). -/
def execFlr (vf : FnId) (s : State) : Host.Outcome State Fault Refusal :=
  .next (if s.linkUp && s.vfEnable && vf.val != 0 then flr vf.val s else s)

/-! ### Link loss and return (15 R436) -/

/-- A ring without its link: ENABLE is 0 and DMA_ERR 1, and what was to be written is gone. -/
def lostRing (x : Ring) : Ring :=
  { x with sh := { x.sh with enable := false }, cur := { x.cur with enable := false }, staged := none, dmaErr := true, started := [], resets := [], recs := [] }

/-- Every ring descriptor is disabled. -/
def loseRings (s : State) : State := { s with rings := (List.range 32768).map fun r => (r, lostRing (getRing s r)) }

/-- Contexts with an enabled ring. -/
def ringCtxs (s : State) : NSet := naddAll ((s.rings.filter fun e => e.2.cur.enable).map fun e => e.2.cur.ctx) []

/-- Such a context is reset at level 1 without records: its batches close. -/
def loseCtx (s : State) (c : Nat) : State := resetBatches c 1 0x0901 false (raise (hostResetCtx c 1 s) s)

/-- VF Enable, or a function's Bus Master Enable, is set. -/
def anyFunction (s : State) : Bool := s.vfEnable || s.fns.any fun e => e.2.bme

def loseLink (s : State) : State :=
  let cs := if isReady s then ringCtxs s else []
  let s := if anyFunction s then pulse srcFunctionChange s else s
  let s := { s with linkUp := false, vfEnable := false, fns := tmap {} defaultFn s.fns }
  let s := modFlt (fun f => { f with recsInc := true }) (cs.foldl loseCtx s)
  pulse srcHostLink (loseRings s)

/-- PERST_N, Hot Reset and a link down for more than 100 ms act alike. -/
def execLinkLoss (cause : LinkCause) (s : State) : Host.Outcome State Fault Refusal :=
  .next (match cause with
    | .perst | .hotReset | .linkDown => if s.linkUp then loseLink s else s)

def execLinkUp (s : State) : Host.Outcome State Fault Refusal :=
  .next (if s.boot.aon && !s.linkUp then pulse srcHostLink { s with linkUp := true } else s)

/-! ### Configuration space -/

/-- A function takes configuration writes: the link is up, and a VF is enabled. -/
def cfgOpen (s : State) (f : Nat) : Bool := s.linkUp && (f == 0 || s.vfEnable)

/-- The held index write-backs and RESET completions of a function's command rings go out (15 R449). -/
def releaseRings (f : Nat) (s : State) : State :=
  ((s.rings.filter fun e => e.2.cur.enable && e.2.cur.type == 0 && ptnFn s e.2.ptn == f).map (·.1)).foldl
    (fun s r => flushResets r false (writeBack r (getRing s r).head s)) s

/-- Bus Master Enable is set: what was held proceeds, MSI-X messages included. -/
def setBme (f : Nat) (s : State) : State :=
  releaseRings f (flushPba f (pulse srcFunctionChange (modFn f (fun x => { x with bme := true }) s)))

def execBusMasterEnable (fn : FnId) (s : State) : Host.Outcome State Fault Refusal :=
  .next (if cfgOpen s fn.val && !(getFn s fn.val).bme then setBme fn.val s else s)

/-- VF Enable changes; VFs that leave lose their configuration. -/
def writeVfEnable (b : Bool) (s : State) : State :=
  if s.vfEnable = b then s
  else
    let s := { s with vfEnable := b }
    let s := if b then s else { s with fns := (s.fns.map fun e => if e.1 = 0 then e else (e.1, defaultFn e.2)).filter fun e => decide (e.2 ≠ {}) }
    pulse srcFunctionChange s

def configWrite (f : Nat) (ch : CfgChange) (s : State) : State :=
  match ch with
  | .msixEnable b => flushPba f (modFn f (fun x => { x with msixEnable := b }) s)
  | .functionMask b => flushPba f (modFn f (fun x => { x with fnMask := b }) s)
  | .memorySpace b => modFn f (fun x => { x with memSpace := b }) s
  | .vfEnable b => if f = 0 then writeVfEnable b s else s

def execConfigurationWrite (fn : FnId) (ch : CfgChange) (s : State) : Host.Outcome State Fault Refusal :=
  .next (if cfgOpen s fn.val then configWrite fn.val ch s else s)

end Sys2Proof.Machine
end

