-- ==== Sys2Proof/Machine/Movers.lean ====
section
/-! DEFINITION. The movers' commands (07 R213-R216, R223-R230, R451): MIGRATE, EVICT, INTAKE, VERIFY with the ends of their pages
and shards, scrub passes, the recheck of retained objects, and ECC errors with retirement. -/
namespace Sys2Proof.Machine

/-! ### MIGRATE and EVICT -/

def execMigrate (e : Entry) (s : State) : Host.Outcome State Fault Refusal := .next (runEntry e 0x43 s toMover)

/-- A mover has copied the page it works on: the map switches, or the command ends with NO_SPACE (07 R213, R214). -/
def pageCopied (d : Nat) (i : MoverItem) (s : State) : State :=
  match (getRing s i.ring).started.find? fun k => k.idx == i.idx with
  | none => finishHead d (dropTransit i s)
  | some k =>
    let t := migTarget k
    if k.opcode ≠ 0x43 then s
    else match migratePage i.ptn i.obj t.1 t.2.1 t.2.2 i.unit s with
      | (true, u) => finishHead d (unitDone i 1 u)
      | (false, s) =>
        let rest := (List.range 8).flatMap fun d => ((getDie s d).moverQ.drop 1).filter fun j => j.ring == i.ring && j.idx == i.idx
        let u := modCmd i.ring i.idx (fun k => { k with status := 6, todo := k.todo.filter fun n => !rest.any fun j => j.unit == n }) s
        let u := dropMoverItems (fun j => j.ring == i.ring && j.idx == i.idx) u
        finishHead d (unitDone i 0 (dropTransit i u))

def execMigratePageDone (p : PtnId) (obj : ObjId) (page : Nat) (s : State) : Host.Outcome State Fault Refusal :=
  .next (match headItem s p.val obj.val page with
    | some (d, i) => pageCopied d i s
    | none => s)

def execEvict (e : Entry) (s : State) : Host.Outcome State Fault Refusal := .next (runEntry e 0x44 s toMover)

/-! ### Digests (07 R224, R226; log 23) -/

/-- The copies a shard has: its pages beneath one quarter, in T1 or in T2, each page without such a copy read as R211 says. -/
def shardCopies (s : State) (p o : Nat) (h : Shard) : List (List (Nat × Option (Nat × Nat) × Bool)) :=
  let sel : List (Nat × Nat → Bool) := (qtrsOf s p).map (fun (q : Nat) (c : Nat × Nat) => c.1 == 0 && c.2 / 8192 == q) ++ [fun (c : Nat × Nat) => c.1 == 1, fun (c : Nat × Nat) => c.1 == 2]
  (sel.map fun f => (List.range h.pages).map fun j =>
    let e := getPage s p (pageKey o (h.first + j))
    match (allCopies s p e).find? f with
    | some c => (h.first + j, some c, true)
    | none => (h.first + j, readCopy s p e none, false)).filter fun l => l.any fun x => x.2.2

/-- A copy has no poisoned line and hashes to the shard's digest. -/
def copyPasses (s : State) (p o : Nat) (h : Shard) (l : List (Nat × Option (Nat × Nat) × Bool)) : Bool :=
  l.all (fun x => match x.2.1 with | some c => !badPhys s.mem c.1 c.2 0 pageBytes | none => true) &&
  sha256 (l.flatMap fun x =>
    match x.2.1 with
    | some c => if (getPage s p (pageKey o x.1)).zero then List.replicate pageBytes 0 else readPhys s.mem c.1 c.2 0 pageBytes
    | none => List.replicate pageBytes 0) == h.digest

/-- Failing copies are rebuilt from a passing one. -/
def rebuild (good : List (Nat × Option (Nat × Nat) × Bool)) (bad : List (Nat × Option (Nat × Nat) × Bool)) (s : State) : State :=
  bad.foldl (fun s x =>
    match x.2.1, (good.find? fun g => g.1 == x.1).bind fun g => g.2.1 with
    | some c, some g => if x.2.2 && decide (c ≠ g) then modMem (fun m => copyPhys g.1 g.2 c.1 c.2 m) s else s
    | _, _ => s) s

/-- A shard is judged by its copies: VERIFIED when one passes, else FAILED with DIGEST_MISMATCH (07 R224, R226, R230). -/
def judgeShard (p o i : Nat) (ctx : Option Nat) (s : State) : State × Bool :=
  match getShard s p o i with
  | none => (s, true)
  | some h =>
    let cs := shardCopies s p o h
    match cs.find? (copyPasses s p o h) with
    | some good => (modShard p o i (fun h => { h with st := .verified }) ((cs.filter fun c => !copyPasses s p o h c).foldl (fun s c => rebuild good c s) s), true)
    | none =>
      let t := modShard p o i (fun h => { h with st := .failed }) s
      let t := if h.st = .failed then t else modPMem p (fun m => { m with digestFail := satAdd 32 m.digestFail 1 }) t
      let r := (faultRec s 0x0404 o i).withDie (i % 8)
      (raise (match ctx with | some c => { r.withCtx s c with scope := 3 } | none => { r with scope := 0 }) t, false)

/-! ### INTAKE and VERIFY -/

def execIntake (e : Entry) (s : State) : Host.Outcome State Fault Refusal := .next (runEntry e 0x45 s toMover)

/-- A shard's pages hold what arrived, in their home copies only (07 R224 step 1); a line that did not arrive reads 0. -/
def writeShard (p o : Nat) (h : Shard) (data : List DmaLine) (s : State) : State :=
  let x := getObj s p o
  let s := (List.range h.pages).foldl (fun s j =>
    let key := pageKey o (h.first + j)
    let s := if hasCopy (getPage s p key) x.home then s else addCopy p o x.home x.placeMode x.place (h.first + j) s
    let s := [0, 1, 2].foldl (fun s t => if t = x.home then s else dropCopies p key t s) s
    let cs := allCopies s p (getPage s p key)
    modPage p key (fun e => { e with zero := false }) (modMem (fun m => cs.foldl (fun m c => clearPhys c.1 c.2 m) m) s)) s
  data.foldl (fun s l => if l.line < 1024 * h.pages then writePart p (x.base + (h.first * 1024 + l.line) * 64) (padTo 64 l.data) l.poison s else s) s

/-- Pages of a shard that must receive a copy in the home tier. -/
def homeless (s : State) (p o : Nat) (h : Shard) : List Nat :=
  ((List.range h.pages).map fun j => h.first + j).filter fun k => !hasCopy (getPage s p (pageKey o k)) (getObj s p o).home

/-- The shard at a mover's head has arrived: it is written, hashed and judged (07 R224). -/
def shardArrived (d : Nat) (i : MoverItem) (data : List DmaLine) (s : State) : State :=
  let x := getObj s i.ptn i.obj
  match getShard s i.ptn i.obj i.unit, itemCmd s i with
  | some h, some k =>
    if k.opcode ≠ 0x45 ∨ canDma s (ptnFn s i.ptn) = false then s
    else if canPlace s i.ptn x.home x.placeMode x.place (homeless s i.ptn i.obj h) then
      let r := judgeShard i.ptn i.obj i.unit (some i.ctx) (writeShard i.ptn i.obj h data s)
      finishHead d (unitDone i 1 (if r.2 then r.1 else modCmd i.ring i.idx (fun k => { k with failed := k.failed + 1 }) r.1))
    else
      let rest := (List.range 8).flatMap fun d => ((getDie s d).moverQ.drop 1).filter fun j => j.ring == i.ring && j.idx == i.idx
      let u := modCmd i.ring i.idx (fun k => { k with status := 6, todo := k.todo.filter fun n => !rest.any fun j => j.unit == n }) s
      finishHead d (unitDone i 0 (dropMoverItems (fun j => j.ring == i.ring && j.idx == i.idx) u))
  | _, _ => finishHead d s

def execIntakeShardDone (p : PtnId) (obj : ObjId) (shard : Nat) (data : List DmaLine) (s : State) : Host.Outcome State Fault Refusal :=
  .next (match headItem s p.val obj.val shard with
    | some (d, i) => shardArrived d i data s
    | none => s)

def execVerify (e : Entry) (s : State) : Host.Outcome State Fault Refusal := .next (runEntry e 0x46 s toMover)

/-- The shard at a mover's head has been hashed for VERIFY. -/
def shardVerified (d : Nat) (i : MoverItem) (s : State) : State :=
  match itemCmd s i with
  | some k =>
    if k.opcode ≠ 0x46 then s
    else
      let r := judgeShard i.ptn i.obj i.unit (some i.ctx) (touchObjs i.ptn [i.obj] s)
      finishHead d (unitDone i 1 (if r.2 then r.1 else modCmd i.ring i.idx (fun k => { k with failed := k.failed + 1 }) r.1))
  | none => finishHead d s

def execVerifyShardDone (p : PtnId) (obj : ObjId) (shard : Nat) (s : State) : Host.Outcome State Fault Refusal :=
  .next (match headItem s p.val obj.val shard with
    | some (d, i) => shardVerified d i s
    | none => s)

/-! ### Scrub passes and rechecks (07 R226, R230) -/

/-- Every VERIFIED shard of the module, as (partition, object, shard). -/
def verifiedShards (s : State) : List (Nat × Nat × Nat) :=
  s.ptns.flatMap fun e => e.2.mem.objs.flatMap fun o =>
    (((List.range o.2.shards.length).zip o.2.shards).filter fun h => decide (h.2.st = .verified)).map fun h => (e.1, o.1, h.1)

/-- A pass with nothing left ends, and one that is due starts; one that finds no VERIFIED shard ends with its start. -/
def scrubEnd (s : State) : State :=
  if s.mem.scrubOn && s.mem.scrubLeft.isEmpty then
    let due := s.mem.scrubDue
    let next := if due then verifiedShards s else []
    pulse srcScrubPassDone (modMem (fun m => { m with scrubPasses := satAdd 32 m.scrubPasses (1 + b2n (due && next.isEmpty)), scrubOn := due && !next.isEmpty, scrubDue := false, scrubLeft := next }) s)
  else s

/-- A scrub pass is due (07 R226, R232). -/
def scrubStart (s : State) : State :=
  if s.mem.scrubInt = 0 ∨ s.mem.scrubRate = 0 then s
  else if s.mem.scrubOn then pulse srcScrubLate (modMem (fun m => { m with scrubLate := true, scrubDue := true }) s)
  else scrubEnd (modMem (fun m => { m with scrubOn := true, scrubLeft := verifiedShards s }) s)

def execScrubPassStart (s : State) : Host.Outcome State Fault Refusal := .next (if isReady s then scrubStart s else s)

/-- A shard of the pass has been rehashed; one that is no longer VERIFIED leaves the pass. -/
def scrubShard (p o i : Nat) (s : State) : State :=
  if s.mem.scrubOn && s.mem.scrubLeft.contains (p, o, i) then
    let s := if ((getShard s p o i).map fun h => h.st) = some .verified then (judgeShard p o i none s).1 else s
    scrubEnd (modMem (fun m => { m with scrubLeft := m.scrubLeft.filter fun e => e != (p, o, i) }) s)
  else s

def execScrubShardDone (p : PtnId) (obj : ObjId) (shard : Nat) (s : State) : Host.Outcome State Fault Refusal :=
  .next (if isReady s then scrubShard p.val obj.val shard s else s)

/-- The shard that a mover rechecks next: of the returned objects in object-table order, the first PENDING shard that the mover handles
and that no command's work covers (07 R230, R451; log 23). -/
def nextRecheck (s : State) (d : Nat) : Option (Nat × Nat × Nat) :=
  (s.ptns.flatMap fun e => (e.2.mem.objs.filter fun o => o.2.recheck).flatMap fun o =>
    (((List.range o.2.shards.length).zip o.2.shards).filter fun h => decide (h.2.st = .pending) && h.1 % 8 == d &&
      !(getDie s d).moverQ.any fun i => i.ptn == e.1 && i.obj == o.1 && i.unit == h.1).map fun h => (e.1, o.1, h.1)).head?

/-- A mover has no VERIFY shard, which goes ahead of every recheck (07 R207). -/
def noVerify (s : State) (d : Nat) : Bool := (getDie s d).moverQ.all fun i => ((itemCmd s i).map fun k => k.opcode) != some 0x46

/-- A shard of a returned object is judged; the object's recheck ends with its last PENDING shard (07 R230). -/
def recheckShard (p o i : Nat) (s : State) : State :=
  let s := (judgeShard p o i none s).1
  if (getObj s p o).shards.all fun h => decide (h.st ≠ .pending) then modObj p o (fun x => { x with recheck := false }) s else s

/-- A returned object's PENDING shard has been rehashed by its mover, in the mover's order (07 R230, R451). -/
def execRecheckShardDone (p : PtnId) (obj : ObjId) (shard : Nat) (s : State) : Host.Outcome State Fault Refusal :=
  .next (let d := shard % 8
    if isReady s && moverServes s d && noVerify s d && nextRecheck s d == some (p.val, obj.val, shard) then recheckShard p.val obj.val shard s else s)

/-! ### ECC and retirement (07 R227-R229) -/

/-- The partition and page whose copy a physical page is. -/
def ownerOf (s : State) (t phys : Nat) : Option (Nat × Nat) :=
  s.ptns.findSome? fun e => (e.2.mem.pages.find? fun g => (allCopies s e.1 g.2).contains (t, phys)).map fun g => (e.1, g.1)

/-- Lowest-numbered spare of the page's unit that is not in use. -/
def spareOf (s : State) (t phys : Nat) : Option Nat :=
  let u := unitOfPhys t phys
  let busy := unavailable s.mem t
  ((List.range (spareCount t)).map fun i => spareBase t u + i).find? fun i => !nhas busy i

/-- A copy of a page moves to another physical page of its tier. -/
def moveCopy (p key t phys new : Nat) (s : State) : State :=
  let s := modMem (fun m => releasePhys t phys (copyPhys t phys t new (setTierUsed t (nadd new (tierUsedSet m t)) m))) s
  modPage p key (fun e => if t = 0 then { e with t0 := some new } else if t = 1 then { e with t1 := some new } else { e with t2 := some new }) s

/-- The replacement of a retired page, in the order of 07 R229; with no free page anywhere the old page stays in use (log 24). -/
def replacePage (p key t phys : Nat) (s : State) : State :=
  let e := getPage s p key
  let o := key / 2 ^ 26
  let k := key % 2 ^ 26
  let others := (allCopies s p e).filter fun c => c.1 != t
  let last (s : State) : State :=
    if (getObj s p o).copyUp && !others.isEmpty then dropCopies p key t s
    else if unitFree s.mem 1 (k % 8) = 0 ∨ e.t1.isSome ∧ t ≠ 1 then s
    else
      let s' := if t = 1 then modPage p key (fun e => { e with t1 := none }) s else s
      let s' := addCopy p o 1 0 0 k s'
      match (getPage s' p key).t1 with
      | some n =>
        let s' := modMem (fun m => copyPhys t phys 1 n m) s'
        if t = 1 then modMem (fun m => releasePhys 1 phys m) s' else dropCopies p key t s'
      | none => s
  if t = 0 ∧ e.t0Repl then
    let busy := (replBusy s p).filter fun i => decide (i < 8176)
    if busy.length < 8176 then
      let (i, s) := takeRepl p s
      let s := modMem (fun m => (qtrsOf s p).foldl (fun m q => copyPhys 0 (8192 * q + phys % 8192) 0 (8192 * q + i) m) m) s
      let s := modMem (fun m => (qtrsOf s p).foldl (fun m q => releasePhys 0 (8192 * q + phys % 8192) m) m) s
      modPage p key (fun e => { e with t0 := some i }) s
    else last s
  else
    match spareOf s t phys with
    | some n => moveCopy p key t phys n s
    | none =>
      if unitFree s.mem t (unitOfPhys t phys) ≠ 0 then
        let (n, s) := takePage t (unitOfPhys t phys) s
        moveCopy p key t phys n s
      else last s

/-- A T2 page of a retained object moves within its package; with no page free there it stays in use (log 24). -/
def replaceRetained (phys : Nat) (s : State) : State :=
  let move (n : Nat) (s : State) : State :=
    modMem (fun m => releasePhys 2 phys (copyPhys 2 phys 2 n { m with
      used2 := nadd n m.used2,
      retained := m.retained.map fun r => { r with pages := r.pages.map fun e => if e.2.t2 = some phys then (e.1, { e.2 with t2 := some n }) else e } })) s
  match spareOf s 2 phys with
  | some n => move n s
  | none => if unitFree s.mem 2 (unitOfPhys 2 phys) = 0 then s else let (n, s) := takePage 2 (unitOfPhys 2 phys) s; move n s

/-- A physical page is a copy that a retained object holds. -/
def retainedHas (s : State) (t phys : Nat) : Bool := t == 2 && s.mem.retained.any fun r => r.pages.any fun e => decide (e.2.t2 = some phys)

/-- A physical page is retired (07 R229). -/
def retirePage (t phys : Nat) (ue : Bool) (s : State) : State :=
  if nhas (tierRetired s.mem t) phys then s
  else
    let full := decide (65536 ≤ retiredCount s.mem)
    let s := modMem (fun m => setTierRetired t (nadd phys (tierRetired m t)) m) s
    let s := modMem (fun m => { m with ceCount := tdel (t * 2 ^ 32 + phys) m.ceCount, unlisted := if full then nadd (t * 2 ^ 32 + phys) m.unlisted else m.unlisted }) s
    let s := match ownerOf s t phys with
      | some (p, key) => replacePage p key t phys s
      | none => if retainedHas s t phys then replaceRetained phys s else s
    pulse srcPageRetired (raiseMod 0x0407 phys (pack [(0, 2, t), (2, 1, b2n ue), (3, 1, b2n full)]) s)

def tierNo : Tier → Nat
  | .t0 => 0 | .t1 => 1 | .t2 => 2

/-- An error in a line: counted when corrected, else the line is poisoned; the page's retirement follows (07 R227, R229). -/
def eccHit (t phys line : Nat) (ue : Bool) (s : State) : State :=
  if ue then
    let s := modMem (fun m => { (setTierBad t (nadd (phys * 1024 + line) (tierBad m t)) m) with ue := satAdd 32 m.ue 1 }) s
    retirePage t phys true (raiseMod 0x0406 phys (pack [(0, 2, t), (8, 10, line)]) s)
  else
    let times := (tget [] s.mem.ceCount (t * 2 ^ 32 + phys)).filter fun x => decide (s.time - x < 86400 * 100000000)
    let s := modMem (fun m =>
      let m := if t = 0 then { m with ce0 := satAdd 32 m.ce0 1 } else if t = 1 then { m with ce1 := satAdd 32 m.ce1 1 } else { m with ce2 := satAdd 32 m.ce2 1 }
      { m with ceCount := tset [] (t * 2 ^ 32 + phys) (times ++ [s.time]) m.ceCount }) s
    if 16 ≤ times.length + 1 then retirePage t phys false s else s

def execEccError (tier : Tier) (phys : Nat) (line : Fin 1024) (uncorrectable : Bool) (s : State) : Host.Outcome State Fault Refusal :=
  .next (if switchedUp s then eccHit (tierNo tier) phys line.val uncorrectable s else s)

end Sys2Proof.Machine
end

