-- ==== Sys2Proof/Machine/Dispatch.lean ====
section
/-! DEFINITION. One arm per command, each a direct call of its meaning. -/
namespace Sys2Proof.Machine

/-- The effect of a command on everything but the queue. -/
def exec (i : Instr) (s : State) : Host.Outcome State Fault Refusal :=
  match i with
  | .registerWrite fn off size val => Sys2Proof.Machine.execRegisterWrite fn off size val s
  | .rcRead fn addr size => Sys2Proof.Machine.execRcRead fn addr size s
  | .modTimeLoRead fn wide => Sys2Proof.Machine.execModTimeLoRead fn wide s
  | .figRoundsLoRead fn p wide => Sys2Proof.Machine.execFigRoundsLoRead fn p wide s
  | .ctxRunLoRead fn c wide => Sys2Proof.Machine.execCtxRunLoRead fn c wide s
  | .aonPowerUp slotId => Sys2Proof.Machine.execAonPowerUp slotId s
  | .bootVerify => Sys2Proof.Machine.execBootVerify s
  | .powerUp => Sys2Proof.Machine.execPowerUp s
  | .powerUpComplete => Sys2Proof.Machine.execPowerUpComplete s
  | .repairDone found => Sys2Proof.Machine.execRepairDone found s
  | .trainingDone failed => Sys2Proof.Machine.execTrainingDone failed s
  | .initDone => Sys2Proof.Machine.execInitDone s
  | .hardRstN => Sys2Proof.Machine.execHardRstN s
  | .pwrEnDeasserted => Sys2Proof.Machine.execPwrEnDeasserted s
  | .coolantLost => Sys2Proof.Machine.execCoolantLost s
  | .flashWriteDone => Sys2Proof.Machine.execFlashWriteDone s
  | .install fn p slot => Sys2Proof.Machine.execInstall fn p slot s
  | .installDone p => Sys2Proof.Machine.execInstallDone p s
  | .remove fn p slot => Sys2Proof.Machine.execRemove fn p slot s
  | .load fn p slot => Sys2Proof.Machine.execLoad fn p slot s
  | .loadDone p => Sys2Proof.Machine.execLoadDone p s
  | .start fn p => Sys2Proof.Machine.execStart fn p s
  | .drain fn p => Sys2Proof.Machine.execDrain fn p s
  | .switch fn p slot => Sys2Proof.Machine.execSwitch fn p slot s
  | .drainComplete p => Sys2Proof.Machine.execDrainComplete p s
  | .drainTimeout p buffers => Sys2Proof.Machine.execDrainTimeout p buffers s
  | .partitionRoundBoundary p => Sys2Proof.Machine.execPartitionRoundBoundary p s
  | .figCommit fn p => Sys2Proof.Machine.execFigCommit fn p s
  | .attCommit fn p => Sys2Proof.Machine.execAttCommit fn p s
  | .ctxCommit fn c => Sys2Proof.Machine.execCtxCommit fn c s
  | .ringCommit fn r val => Sys2Proof.Machine.execRingCommit fn r val s
  | .joinImbalance p core join => Sys2Proof.Machine.execJoinImbalance p core join s
  | .streamFlit p port flit => Sys2Proof.Machine.execStreamFlit p port flit s
  | .partitionBarrier m => Sys2Proof.Machine.execPartitionBarrier m s
  | .planBind fn p slot => Sys2Proof.Machine.execPlanBind fn p slot s
  | .planUnbind fn p slot => Sys2Proof.Machine.execPlanUnbind fn p slot s
  | .planBindDone p => Sys2Proof.Machine.execPlanBindDone p s
  | .mapBind fn p slot => Sys2Proof.Machine.execMapBind fn p slot s
  | .mapUnbind fn p slot => Sys2Proof.Machine.execMapUnbind fn p slot s
  | .mapBindDone p => Sys2Proof.Machine.execMapBindDone p s
  | .adapterSet e => Sys2Proof.Machine.execAdapterSet e s
  | .adapterClear e => Sys2Proof.Machine.execAdapterClear e s
  | .steerSet e => Sys2Proof.Machine.execSteerSet e s
  | .steerClear e => Sys2Proof.Machine.execSteerClear e s
  | .gatherDone p set what => Sys2Proof.Machine.execGatherDone p set what s
  | .fetchDeadline p obj what => Sys2Proof.Machine.execFetchDeadline p obj what s
  | .recompute e => Sys2Proof.Machine.execRecompute e s
  | .recomputeChunkDone p => Sys2Proof.Machine.execRecomputeChunkDone p s
  | .kvRelease e => Sys2Proof.Machine.execKvRelease e s
  | .objSet e => Sys2Proof.Machine.execObjSet e s
  | .objClear e => Sys2Proof.Machine.execObjClear e s
  | .objClearDone p obj => Sys2Proof.Machine.execObjClearDone p obj s
  | .objQuery e => Sys2Proof.Machine.execObjQuery e s
  | .migrate e => Sys2Proof.Machine.execMigrate e s
  | .migratePageDone p obj page => Sys2Proof.Machine.execMigratePageDone p obj page s
  | .evict e => Sys2Proof.Machine.execEvict e s
  | .intake e => Sys2Proof.Machine.execIntake e s
  | .intakeShardDone p obj shard data => Sys2Proof.Machine.execIntakeShardDone p obj shard data s
  | .verify e => Sys2Proof.Machine.execVerify e s
  | .verifyShardDone p obj shard => Sys2Proof.Machine.execVerifyShardDone p obj shard s
  | .scrubPassStart => Sys2Proof.Machine.execScrubPassStart s
  | .scrubShardDone p obj shard => Sys2Proof.Machine.execScrubShardDone p obj shard s
  | .recheckShardDone p obj shard => Sys2Proof.Machine.execRecheckShardDone p obj shard s
  | .eccError tier phys line uncorrectable => Sys2Proof.Machine.execEccError tier phys line uncorrectable s
  | .bar4Read fn addr len => Sys2Proof.Machine.execBar4Read fn addr len s
  | .bar4Write fn addr data ep => Sys2Proof.Machine.execBar4Write fn addr data ep s
  | .quotaWrite fn p t2 pages => Sys2Proof.Machine.execQuotaWrite fn p t2 pages s
  | .poolWrite fn p reg val => Sys2Proof.Machine.execPoolWrite fn p reg val s
  | .reserveWrite fn c val => Sys2Proof.Machine.execReserveWrite fn c val s
  | .create fn p => Sys2Proof.Machine.execCreate fn p s
  | .grow fn p => Sys2Proof.Machine.execGrow fn p s
  | .shrink fn p => Sys2Proof.Machine.execShrink fn p s
  | .destroy fn p => Sys2Proof.Machine.execDestroy fn p s
  | .bindVf fn p vf => Sys2Proof.Machine.execBindVf fn p vf s
  | .unbindVf fn p => Sys2Proof.Machine.execUnbindVf fn p s
  | .modPtnDone => Sys2Proof.Machine.execModPtnDone s
  | .enable fn c p => Sys2Proof.Machine.execEnable fn c p s
  | .disable fn c => Sys2Proof.Machine.execDisable fn c s
  | .reset fn c => Sys2Proof.Machine.execReset fn c s
  | .contextResetDone c => Sys2Proof.Machine.execContextResetDone c s
  | .doorbellWrite fn span val => Sys2Proof.Machine.execDoorbellWrite fn span val s
  | .nop e => Sys2Proof.Machine.execNop e s
  | .fence e => Sys2Proof.Machine.execFence e s
  | .reservedOpcode e opcode => Sys2Proof.Machine.execReservedOpcode e opcode s
  | .figInstall e => Sys2Proof.Machine.execFigInstall e s
  | .figRemove e => Sys2Proof.Machine.execFigRemove e s
  | .figLoad e => Sys2Proof.Machine.execFigLoad e s
  | .figStart e => Sys2Proof.Machine.execFigStart e s
  | .figDrain e => Sys2Proof.Machine.execFigDrain e s
  | .figSwitch e => Sys2Proof.Machine.execFigSwitch e s
  | .figRun e => Sys2Proof.Machine.execFigRun e s
  | .routeSet e => Sys2Proof.Machine.execRouteSet e s
  | .completionWrite r => Sys2Proof.Machine.execCompletionWrite r s
  | .sliceEnd p => Sys2Proof.Machine.execSliceEnd p s
  | .preemptStop p leftover => Sys2Proof.Machine.execPreemptStop p leftover s
  | .saveDone p => Sys2Proof.Machine.execSaveDone p s
  | .switchGapEnd p => Sys2Proof.Machine.execSwitchGapEnd p s
  | .restoreDone p => Sys2Proof.Machine.execRestoreDone p s
  | .cmdTimeout r index engineClass => Sys2Proof.Machine.execCmdTimeout r index engineClass s
  | .ringDma r index intake fail => Sys2Proof.Machine.execRingDma r index intake fail s
  | .batchOpen e => Sys2Proof.Machine.execBatchOpen e s
  | .batchRun e => Sys2Proof.Machine.execBatchRun e s
  | .rowSet e => Sys2Proof.Machine.execRowSet e s
  | .batchClose e => Sys2Proof.Machine.execBatchClose e s
  | .batchStepBoundary p => Sys2Proof.Machine.execBatchStepBoundary p s
  | .pendingRecordWrite r => Sys2Proof.Machine.execPendingRecordWrite r s
  | .maskSet e => Sys2Proof.Machine.execMaskSet e s
  | .maskClear e => Sys2Proof.Machine.execMaskClear e s
  | .portEnable fn n on => Sys2Proof.Machine.execPortEnable fn n on s
  | .retrain fn n => Sys2Proof.Machine.execRetrain fn n s
  | .signalDetect n => Sys2Proof.Machine.execSignalDetect n s
  | .equaliseDone n reversed => Sys2Proof.Machine.execEqualiseDone n reversed s
  | .equaliseTimeout n => Sys2Proof.Machine.execEqualiseTimeout n s
  | .alignDone n => Sys2Proof.Machine.execAlignDone n s
  | .alignTimeout n => Sys2Proof.Machine.execAlignTimeout n s
  | .exchangeDone n peerCoord peerPort peerValid peerBuffers => Sys2Proof.Machine.execExchangeDone n peerCoord peerPort peerValid peerBuffers s
  | .signalLoss n => Sys2Proof.Machine.execSignalLoss n s
  | .retrainDone n => Sys2Proof.Machine.execRetrainDone n s
  | .retrainTimeout n => Sys2Proof.Machine.execRetrainTimeout n s
  | .frameReceive n bytes => Sys2Proof.Machine.execFrameReceive n bytes s
  | .replayTimeout n => Sys2Proof.Machine.execReplayTimeout n s
  | .leavingPacket n => Sys2Proof.Machine.execLeavingPacket n s
  | .lostNotice n coord => Sys2Proof.Machine.execLostNotice n coord s
  | .returnNotice n coord => Sys2Proof.Machine.execReturnNotice n coord s
  | .channelPacket n pk => Sys2Proof.Machine.execChannelPacket n pk s
  | .channelCredit n from_ credits => Sys2Proof.Machine.execChannelCredit n from_ credits s
  | .exchangeStep p x => Sys2Proof.Machine.execExchangeStep p x s
  | .score u => Sys2Proof.Machine.execScore u s
  | .end_ u => Sys2Proof.Machine.execEnd u s
  | .grant u => Sys2Proof.Machine.execGrant u s
  | .grantEnd u => Sys2Proof.Machine.execGrantEnd u s
  | .act u => Sys2Proof.Machine.execAct u s
  | .answer u => Sys2Proof.Machine.execAnswer u s
  | .cancel u => Sys2Proof.Machine.execCancel u s
  | .void u => Sys2Proof.Machine.execVoid u s
  | .evcPendSet fn k val => Sys2Proof.Machine.execEvcPendSet fn k val s
  | .evcPendClr fn k val => Sys2Proof.Machine.execEvcPendClr fn k val s
  | .evcMaskSet fn k val => Sys2Proof.Machine.execEvcMaskSet fn k val s
  | .evcMaskClr fn k val => Sys2Proof.Machine.execEvcMaskClr fn k val s
  | .evcSrcCfg fn n val => Sys2Proof.Machine.execEvcSrcCfg fn n val s
  | .evcSrcDest fn n val => Sys2Proof.Machine.execEvcSrcDest fn n val s
  | .evcVfVectors fn v val => Sys2Proof.Machine.execEvcVfVectors fn v val s
  | .filterExpiry n level => Sys2Proof.Machine.execFilterExpiry n level s
  | .eventDelivery target => Sys2Proof.Machine.execEventDelivery target s
  | .wfiWake target => Sys2Proof.Machine.execWfiWake target s
  | .handlerReturn target => Sys2Proof.Machine.execHandlerReturn target s
  | .moderationGapEnd target => Sys2Proof.Machine.execModerationGapEnd target s
  | .holdIntervalEnd e => Sys2Proof.Machine.execHoldIntervalEnd e s
  | .setCap capW => Sys2Proof.Machine.execSetCap capW s
  | .budgetRecompute m => Sys2Proof.Machine.execBudgetRecompute m s
  | .clampStart q => Sys2Proof.Machine.execClampStart q s
  | .clampEnd q gated => Sys2Proof.Machine.execClampEnd q gated s
  | .brake => Sys2Proof.Machine.execBrake s
  | .brakeRelease => Sys2Proof.Machine.execBrakeRelease s
  | .brakeReturn => Sys2Proof.Machine.execBrakeReturn s
  | .sensorSample sensor temp => Sys2Proof.Machine.execSensorSample sensor temp s
  | .thermalRowLeave p => Sys2Proof.Machine.execThermalRowLeave p s
  | .neighbourStep q1 q2 => Sys2Proof.Machine.execNeighbourStep q1 q2 s
  | .neighbourStepLift p => Sys2Proof.Machine.execNeighbourStepLift p s
  | .thermalTrip sensor temp => Sys2Proof.Machine.execThermalTrip sensor temp s
  | .coolantSample inlet outlet => Sys2Proof.Machine.execCoolantSample inlet outlet s
  | .coolantLift => Sys2Proof.Machine.execCoolantLift s
  | .railFault rail amps => Sys2Proof.Machine.execRailFault rail amps s
  | .breakerOpen amps => Sys2Proof.Machine.execBreakerOpen amps s
  | .pllUnlock d => Sys2Proof.Machine.execPllUnlock d s
  | .pllLost d => Sys2Proof.Machine.execPllLost d s
  | .moduleReset fn => Sys2Proof.Machine.execModuleReset fn s
  | .moduleResetDone => Sys2Proof.Machine.execModuleResetDone s
  | .snapshot fn => Sys2Proof.Machine.execSnapshot fn s
  | .snapRelease fn => Sys2Proof.Machine.execSnapRelease fn s
  | .engineReset fn engine d p => Sys2Proof.Machine.execEngineReset fn engine d p s
  | .engineResetDone e r => Sys2Proof.Machine.execEngineResetDone e r s
  | .partitionReset fn p => Sys2Proof.Machine.execPartitionReset fn p s
  | .partitionResetDone p => Sys2Proof.Machine.execPartitionResetDone p s
  | .policyWrite fn group number val => Sys2Proof.Machine.execPolicyWrite fn group number val s
  | .resetTimeout sc => Sys2Proof.Machine.execResetTimeout sc s
  | .dieWatchdog d missed => Sys2Proof.Machine.execDieWatchdog d missed s
  | .callerWdogWarn => Sys2Proof.Machine.execCallerWdogWarn s
  | .callerRestart pc => Sys2Proof.Machine.execCallerRestart pc s
  | .qsSample p => Sys2Proof.Machine.execQsSample p s
  | .mirrorStart p => Sys2Proof.Machine.execMirrorStart p s
  | .mirrorDone p rounds => Sys2Proof.Machine.execMirrorDone p rounds s
  | .mirrorTimeout p => Sys2Proof.Machine.execMirrorTimeout p s
  | .presenceLost => Sys2Proof.Machine.execPresenceLost s
  | .getTelemetry inst => Sys2Proof.Machine.execGetTelemetry inst s
  | .getLog inst first count => Sys2Proof.Machine.execGetLog inst first count s
  | .getSnapshot inst offset len => Sys2Proof.Machine.execGetSnapshot inst offset len s
  | .mctpSnapRelease inst => Sys2Proof.Machine.execMctpSnapRelease inst s
  | .fwTransfer inst offset data => Sys2Proof.Machine.execFwTransfer inst offset data s
  | .fwCommit inst size => Sys2Proof.Machine.execFwCommit inst size s
  | .getNonce inst => Sys2Proof.Machine.execGetNonce inst s
  | .keyProvision inst m => Sys2Proof.Machine.execKeyProvision inst m s
  | .keyRevoke inst m => Sys2Proof.Machine.execKeyRevoke inst m s
  | .vendorDisable inst m => Sys2Proof.Machine.execVendorDisable inst m s
  | .setCoord inst coord => Sys2Proof.Machine.execSetCoord inst coord s
  | .getMeasurements t indices => Sys2Proof.Machine.execGetMeasurements t indices s
  | .spdmRequest t r => Sys2Proof.Machine.execSpdmRequest t r s
  | .setEndpointId eid => Sys2Proof.Machine.execSetEndpointId eid s
  | .setdasa static_ dyn => Sys2Proof.Machine.execSetdasa static_ dyn s
  | .entdaa dyn => Sys2Proof.Machine.execEntdaa dyn s
  | .rstdaa => Sys2Proof.Machine.execRstdaa s
  | .fwInfo => Sys2Proof.Machine.execFwInfo s
  | .repairMap => Sys2Proof.Machine.execRepairMap s
  | .flr vf => Sys2Proof.Machine.execFlr vf s
  | .linkLoss cause => Sys2Proof.Machine.execLinkLoss cause s
  | .linkUp => Sys2Proof.Machine.execLinkUp s
  | .busMasterEnable fn => Sys2Proof.Machine.execBusMasterEnable fn s
  | .configurationWrite fn ch => Sys2Proof.Machine.execConfigurationWrite fn ch s
  | .pllRelock d => Sys2Proof.Machine.execPllRelock d s
  | .alwaysOnLoss => Sys2Proof.Machine.execAlwaysOnLoss s
  | .voltageReached q => Sys2Proof.Machine.execVoltageReached q s
  | .coreMemUe p core addr => Sys2Proof.Machine.execCoreMemUe p core addr s
  | .engineError e queueEntry => Sys2Proof.Machine.execEngineError e queueEntry s

end Sys2Proof.Machine
end

