-- ==== Sys2Proof/Safety.lean ====
section
/-! DEFINITION. What counts as a safe run of the block, and the words that the statements use: which host accesses are served,
which ring entries start, and what a step leaves unchanged. -/
namespace Sys2Proof.Safety
open Sys2Proof.Machine

/-- A step is safe when it answers a next state: the block never stops on a command. -/
def stepSafe (s : State) : Prop := ∃ t, step s = .next t

/-- A run of `n` steps is safe when none of them stops. -/
def runSafe (n : Nat) (s : State) : Prop := ∃ t, Host.Core.run
  { State := State, Fault := Fault, Refusal := Refusal, step := step, reset := State.reset } n s = .next t

/-! ### Host accesses (00 R7, R15; 14 R402; 15 R436) -/

/-- A function's BAR0 access to a register is served: its BARs are open, it sees the register, and the module is READY or serves the
register early. -/
def Served (s : State) (fn : FnId) (seen early : Bool) : Prop := barOpen s fn.val = true ∧ seen = true ∧ (early = true ∨ isReady s = true)

/-- The function that makes the host access which a command is. -/
def hostFn : Instr → Option FnId
  | .registerWrite fn .. | .rcRead fn .. | .modTimeLoRead fn .. | .figRoundsLoRead fn .. | .ctxRunLoRead fn .. | .install fn ..
  | .remove fn .. | .load fn .. | .start fn .. | .drain fn .. | .switch fn .. | .figCommit fn .. | .attCommit fn .. | .ctxCommit fn ..
  | .ringCommit fn .. | .planBind fn .. | .planUnbind fn .. | .mapBind fn .. | .mapUnbind fn .. | .bar4Read fn .. | .bar4Write fn ..
  | .quotaWrite fn .. | .poolWrite fn .. | .reserveWrite fn .. | .create fn .. | .grow fn .. | .shrink fn .. | .destroy fn ..
  | .bindVf fn .. | .unbindVf fn .. | .enable fn .. | .disable fn .. | .reset fn .. | .doorbellWrite fn .. | .portEnable fn ..
  | .retrain fn .. | .evcPendSet fn .. | .evcPendClr fn .. | .evcMaskSet fn .. | .evcMaskClr fn .. | .evcSrcCfg fn ..
  | .evcSrcDest fn .. | .evcVfVectors fn .. | .moduleReset fn | .snapshot fn | .snapRelease fn | .engineReset fn .. | .partitionReset fn ..
  | .policyWrite fn .. => some fn
  | _ => none

/-- Registers of BAR0 with a reset value in the manual, as (offset, value). -/
def resetWords : List (Nat × Nat) :=
  [(0x10, 0), (0x20, 0), (0x24, 0), (0x100, 0), (0x204, 0), (0x208, 0), (0x400, 0), (0x404, 0), (0x1000, 0), (0x100004, 0), (0x101000, 0), (0x101400, 0xFFFFFFFF),
   (0x102004, 0), (0x110000, 0), (0x114000, 0x40), (0x200000, 0x12C012C0), (0x200004, 0x12C0), (0x200100, 0x10)] ++
  [(0x401014, 0), (0x401018, 0x0100), (0x401024, 0), (0x40101C, 1000), (0xA0000C, 0x03E800), (0xA00020, 0x0F4240), (0xA00024, 0x0F4240), (0xA00028, 0x002710),
   (0xA0002C, 0x002710), (0xC00010, 0x015180), (0xC00014, 0x03E8), (0xC00020, 0), (0xC01000, 0), (0x1C00000, 0), (0x1CC0010, 0x01000000)]

/-! ### Ring entries (08 R242, R244) -/

/-- The ring's front-end can start the entry, whose header and unused operand bits are 0, and no started command of the ring has
its index. -/
def Runs (s : State) (e : Entry) (opcode : Nat) : Prop :=
  canStart s e.ring.val = true ∧ e.hdr = 0 ∧ opsClean opcode e.ops = true ∧ getCmd s e.ring.val (getRing s e.ring.val).head = none ∧
  ∀ k ∈ allCmds s, k.ring = e.ring.val → k.idx ≠ (getRing s e.ring.val).head

/-- The state in which the entry has started as a command. -/
def begun (s : State) (e : Entry) (opcode : Nat) : State := startCmd (newCmd s e opcode) s

/-- The entry has started as command `k`: its ring's HEAD is one further and written back, `k` is its youngest started command, and
every other ring is as before. -/
def Started (s t : State) (e : Entry) (k : Cmd) : Prop :=
  getRing t e.ring.val = { getRing s e.ring.val with
    head := w32 ((getRing s e.ring.val).head + 1), started := (getRing s e.ring.val).started ++ [k] } ∧
  (∀ r, r ≠ e.ring.val → getRing t r = getRing s r) ∧
  t.out.hostMem = if (getRing s e.ring.val).cur.wb = 0 then s.out.hostMem
    else mwrite s.out.hostMem (getRing s e.ring.val).cur.wb (leBytes 4 (w32 ((getRing s e.ring.val).head + 1)))

/-- The entry has started and ended with a status and a result. -/
def Ended (s t : State) (e : Entry) (opcode st res : Nat) : Prop :=
  Started s t e { newCmd s e opcode with phase := .done, status := st, result := w32 res }

/-- The row faults have their default actions: ROW, and LOG for RING_PARKED (11 R333, R334). -/
def RowPolicies (s : State) : Prop :=
  (∀ code ∈ [0x0301, 0x0302, 0x0303, 0x0304, 0x0305, 0x0601, 0x0602], policyOf s code = 6) ∧ policyOf s 0x0603 = 0

/-- No partition is in a mirror run, which a fault raised in it would fail (11 R349). -/
def MirrorFree (s : State) : Prop := ∀ p c, (getPtn s p).reset ≠ some (c, 2)

/-- The figure engine of a partition is idle, holds no work, and may serve. -/
def EngineFree (s : State) (p : Nat) : Prop :=
  (getPtn s p).fe.mode = .idle ∧ (getPtn s p).fe.queue = [] ∧ (getPtn s p).fe.saved = [] ∧ canServe s p = true

/-- The figure engine of a partition is not idle, and a command that it runs gives way neither to a waiting context nor to `c`. -/
def engineTaken (s : State) (p c : Nat) : Bool :=
  let f := (getPtn s p).fe
  decide (f.mode ≠ .idle) && (decide (f.mode ≠ .run) || f.run.all fun r => decide (topPrio s (c :: readyCtxs s p) ≤ (getCtx s r.ctx).cur.prio))

/-! ### Frames -/

/-- Only signals lie between the states: pending bits of the named sources set, and what delivering them moves (host vectors,
message counts, MSI-X messages, pending-bit arrays). -/
def Signalled (ns : List Nat) (s t : State) : Prop :=
  t = { s with
    evc := { s.evc with pend := t.evc.pend, tgts := t.evc.tgts, hvec := t.evc.hvec, vecRange := t.evc.vecRange }
    fns := t.fns
    out := { s.out with msix := t.out.msix } } ∧
  (∀ m, isPending t m = (isPending s m || ns.contains m)) ∧
  ∀ f, getFn t f = { getFn s f with pba := (getFn t f).pba }

/-- The logs hold a fault: the module's, and its partition's unless it is VF_ACCESS (11 R329, R331). -/
def logged (r : FaultRec) (s : State) : State :=
  match r.ptn with
  | some p => if r.code = 0x0506 then logModule r s else logPtn p r (logModule r s)
  | none => logModule r s

/-- The source that a fault signals (11 R329). -/
def faultSource (r : FaultRec) : Nat :=
  match r.ptn with
  | some p => if r.code = 0x0506 then srcModuleFault else srcPtn p 1
  | none => srcModuleFault

/-- Only the partition's own state may differ; every other partition's is as before. -/
def OtherPtns (p : Nat) (s t : State) : Prop := ∀ q, q ≠ p → getPtn t q = getPtn s q

/-- A function's AER logs a received write with the EP bit, and no other function changes (15 R434). -/
def LogsPoison (f : Nat) (ep : Bool) (s t : State) : Prop :=
  (∀ g, g ≠ f → getFn t g = getFn s g) ∧
  getFn t f = { getFn s f with aer := { (getFn s f).aer with poisoned := (getFn s f).aer.poisoned || ep } }

/-- Every ring but one is as before. -/
def OtherRings (r : Nat) (s t : State) : Prop := ∀ q, q ≠ r → getRing t q = getRing s q

/-- Every context but one is as before. -/
def OtherCtxs (c : Nat) (s t : State) : Prop := ∀ d, d ≠ c → getCtx t d = getCtx s d

/-- Only the port's own state may differ in the fabric. -/
def OtherPorts (n : Nat) (s t : State) : Prop := t.fab = { s.fab with ports := t.fab.ports } ∧ ∀ m, m ≠ n → getPort t m = getPort s m

/-- Nothing waits at the links: no packet for a route, at a port, in a receive buffer, or from this module to itself. -/
def QuietLinks (s : State) : Prop := s.fab.wait = [] ∧ s.fab.here = [] ∧ ∀ m, (getPort s m).txq = [] ∧ (getPort s m).rxq = []

/-- The links are quiet, no ACTIVE port owes its peer a frame, and no flit waits in a send channel. -/
def IdleLinks (s : State) : Prop := QuietLinks s ∧ (∀ m, m < 18 → owesFrame (getPort s m) = false) ∧ ∀ c, (getChan s c).txq = []

/-- Every other port is as before. -/
def SamePorts (n : Nat) (s t : State) : Prop := ∀ m, m ≠ n → getPort t m = getPort s m

/-- A port went to a state, its register and link state else unchanged, and its source was signalled. -/
def PortTo (n : Nat) (x : Port) (s t : State) : Prop :=
  ∃ u, u = { s with fab := u.fab } ∧ OtherPorts n s u ∧ getPort u n = x ∧ Signalled [srcPort n] u t

/-! ### Exchange units (10 R316, R324) -/

/-- The exchange that a unit names at the partition it is for. -/
def unitExch (s : State) (u : XUnit) : Exch := getExch s u.dstPtn (u.exch % 16)

/-- A unit is for a partition in service whose exchange unit takes it now, behind no packet of this module to itself. -/
def TakesUnit (s : State) (u : XUnit) : Prop :=
  isReady s = true ∧ (getPtn s u.dstPtn).exists_ = true ∧ s.fab.here = [] ∧ xchStopped s u.dstPtn = false

/-- A unit is taken by a partition that holds its step `n` under the table `t` of its epoch. -/
def HeldUnit (s : State) (u : XUnit) (n : Nat) (t : RouteTbl) : Prop :=
  TakesUnit s u ∧ heldStep (unitExch s u) (u.step % 256) = some n ∧ tableFor (unitExch s u) n = some t ∧ t.epoch = u.epoch

/-! ### Power and resets (11 R332, R337, R342, R344; 13 R397) -/

/-- The newest record of the module log is `r`, numbered and timed as it was raised in `s`. -/
def Recorded (r : FaultRec) (s t : State) : Prop := t.flt.log.head? = some { r with seq := w32 s.flt.seq, time := s.time }

/-- A crash snapshot was due: taken and locked, or missed behind the one that is held. -/
def Snapped (s t : State) : Prop :=
  if s.flt.snapLock then t.flt.snapMissed = true ∧ t.flt.snap = s.flt.snap else t.flt.snapLock = true ∧ t.flt.snapValid = true

/-- The switched domains went down into a stage: everything outside the always-on domain is at its reset value, every port is fenced
first, and the die controllers' interrupts are off. -/
def SwitchedOff (st : Stage) (s t : State) : Prop :=
  t = { s with
    boot := { s.boot with stage := st }, fns := t.fns, qtrAvail := 0, sets := [], qtrs := [], dies := [], ptnCmd := {}, ptns := [], ctxs := [], rings := [],
    mem := {}, adapters := [], steers := [], masks := [], fab := { coord := s.fab.coord, valid := s.fab.valid, kept := s.fab.kept },
    flt := { s.flt with resetting := false, engResets := [] }
    pwr := { s.pwr with railsOn := false, overTemp := [], coolDiv := 0, coolHot := false, brakeWait := false }
    evc := { s.evc with pend := t.evc.pend, tgts := t.evc.tgts, hvec := t.evc.hvec, vecRange := t.evc.vecRange }
    out := { s.out with fabric := t.out.fabric, frames := t.out.frames, msix := t.out.msix } } ∧
  (∀ d, d < 8 → (getTgt t (d + 2)).mie = false ∧ (getTgt t (d + 2)).levels = [] ∧ (getTgt t (d + 2)).sleeping = false) ∧
  (∀ m, isPending t m = (isPending s m || (List.range 18).any fun n => decide (m = srcPort n) && decide ((getPort s n).st ≠ .off) && decide ((getPort s n).st ≠ .fenced)))

/-- A POWER action was taken for a cause: the switched domains are down in STANDBY and the power cycle is requested. -/
def PoweredOff (cause : Nat) (t : State) : Prop :=
  t.boot.stage = .standby ∧ t.ptns = [] ∧ t.ctxs = [] ∧ t.rings = [] ∧ t.mem = {} ∧ t.pwr.railsOn = false ∧ t.flt.cycleReq = true ∧
  isPending t srcAlertRequest = true ∧ t.out.mctp.head? = some ⟨0x10, 0, 0, leBytes 2 cause⟩

/-- A module reset began for a cause: RESETTING and counted, ports fenced, contexts RESETTING, engines and movers empty, repair to do. -/
def ModuleResetBegan (s t : State) : Prop :=
  t.boot.stage = .resetting ∧ t.flt.resetting = true ∧ t.flt.n4 = satAdd 32 s.flt.n4 1 ∧ Snapped s t ∧ t.sets = [] ∧ t.qtrAvail = 0 ∧
  t.flt.engResets = [] ∧
  (∀ n, n < 18 → (getPort s n).st ≠ .off → (getPort t n).st = .fenced) ∧
  (∀ c, (getCtx s c).st = .enabled → (getCtx t c).st = .resetting) ∧
  (∀ p, (getPtn s p).exists_ = true → (getPtn t p).fe.mode = .idle ∧ (getPtn t p).fe.queue = [] ∧ (getPtn t p).fe.saved = [] ∧ (getPtn t p).fe.run = none) ∧
  (∀ d, d < 8 → (getDie t d).moverQ = []) ∧ t.fuses = s.fuses ∧ t.time = s.time

/-! ### Management messages (14 R416) -/

/-- A request reached the endpoint: the always-on domain runs and an endpoint ID is assigned (15 R430). -/
def Reached (s : State) : Prop := s.boot.aon = true ∧ s.mgmt.eid.isSome = true

/-- The request was answered over MCTP with a status and a payload, and `x` is the state with its effect. -/
def Answered (code status inst : Nat) (payload : List Byte) (x t : State) : Prop :=
  ∃ u, u = { x with out := { x.out with mctp := ⟨code, status, inst, payload⟩ :: x.out.mctp } } ∧ Signalled [srcMctpRx, srcMctpTxDone] u t

/-! ### The whole machine -/

/-- Every memory, and the set of pending sources, is in canonical form: addresses strictly rising, and no entry equal to what an unlisted address reads as. -/
def canonical (s : State) : Prop :=
  Memory.wf s.mem.t0 = true ∧ Memory.wf s.mem.t1 = true ∧ Memory.wf s.mem.t2 = true ∧ Memory.wf s.boot.flash = true ∧ Memory.wf s.boot.sram = true ∧
  Memory.wf s.boot.upload = true ∧ Memory.wf s.flt.snap = true ∧ Memory.wf s.out.hostMem = true ∧ s.evc.pend.Pairwise (· < ·)

/-- The fuses of one state against those of an earlier one: bits only ever change from 0 to 1, a provisioned slot keeps its key, and SVN does not fall (14 R409, R410). -/
def fusesGrow (f g : Fuses) : Prop :=
  (f.vendorOff = true → g.vendorOff = true) ∧ (∀ k, f.provisioned.testBit k = true → g.provisioned.testBit k = true) ∧
  (∀ k, f.revoked.testBit k = true → g.revoked.testBit k = true) ∧ f.svn ≤ g.svn ∧
  ∀ k, f.provisioned.testBit k = true → tget 0 g.ownerX (k + 1) = tget 0 f.ownerX (k + 1) ∧ tget 0 g.ownerY (k + 1) = tget 0 f.ownerY (k + 1)

/-- The commands that may set up the event controller: writes of its registers, and what starts or stops the always-on domain or its
firmware, which routes the Caller's sources (12 R374, R445). -/
def configuresEvents : Instr → Bool
  | .registerWrite .. | .evcSrcCfg .. | .evcSrcDest .. | .evcMaskSet .. | .evcMaskClr .. | .evcVfVectors .. | .aonPowerUp .. | .alwaysOnLoss
  | .bootVerify | .fwCommit .. => true
  | _ => false

/-- The event controller's set-up: every source's configuration and mask bit, and the VFs' table sizes. -/
def sameEventSetup (s t : State) : Prop :=
  (∀ n, srcCfg t n = srcCfg s n) ∧ (∀ n, isUnmasked t n = isUnmasked s n) ∧ t.evc.vfVec = s.evc.vfVec

end Sys2Proof.Safety
end

