-- ==== Sys2Proof/Certificates/Slice0/Obligations.lean ====
section
/-! DEFINITION. The statements for the provers, family by family of the command table. A statement that a command completes says
in which states, in terms of the state and the operands alone, and what the next state holds. -/
open Sys2Proof Sys2Proof.Machine Sys2Proof.Safety

/-! ### The queue, idle cycles, reset -/

/-- A step runs the command at the front of the queue with the queue's rest (the block's own rule; log 12). -/
def Obligations.StepRunsTheFrontCommand : Prop :=
  ∀ (c : Instr) (rest : List Instr) (s : State), step { s with pending := c :: rest } = exec c { s with pending := rest }

/-- The model's choice (log 12): a step on an empty queue is one C0 cycle, which the time-stamp counter of 01 R41 counts once the always-on domain is
powered, and which a context whose command runs counts in CTX_RUN. -/
def Obligations.EmptyQueueStepIsOneC0Cycle : Prop :=
  (∀ s : State, s.pending = [] → s.boot.aon = false → step s = .next s) ∧
  (∀ s : State, s.pending = [] → s.boot.aon = true → ∃ t, step s = .next t ∧ t = { s with time := s.time + 1, ctxs := t.ctxs } ∧
    ∀ c, (∀ p ∈ livePtns s, ∀ r, (getPtn s p).fe.run = some r → feRuns (getPtn s p).fe = true → r.ctx ≠ c) → getCtx t c = getCtx s c) ∧
  (∀ (s : State) (p : Nat) (r : Running), s.pending = [] → s.boot.aon = true → livePtns s = [p] → (getPtn s p).fe.run = some r →
    feRuns (getPtn s p).fe = true → ∃ t, step s = .next t ∧ getCtx t r.ctx = { getCtx s r.ctx with run := (getCtx s r.ctx).run + 1 })

/-- Registers read their reset values in the state after reset (00 R13, 01 R40, R41, 02 R81, 07 R232, 08 R233, R237, 11 R360, 13 R399,
12 R378, R379). -/
def Obligations.RegistersReadTheirResetValues : Prop :=
  ∀ e ∈ resetWords, regRead State.reset 0 e.1 = some e.2

/-! ### Host accesses -/

/-- A closed BAR takes nothing: the link is down, Memory Space Enable is clear, or the VF is not enabled (15 R436). Accesses that are not aligned 32-bit
or 64-bit ones, and accesses to unmapped offsets, only set their flag in the MOD_ERR of the function that made them; a read of them has no read effect
(00 R7, R13). -/
def Obligations.AccessesThatReachNoRegisterOnlySetTheirFlag : Prop :=
  (∀ (c : Instr) (fn : FnId) (s : State), hostFn c = some fn → barOpen s fn.val = false → exec c s = .next s) ∧
  ((∀ (fn : FnId) (off size : Nat) (val : DWord) (s : State), wordAccess off size = false →
      Served s fn (seesOff s fn.val (off / 4 * 4)) (earlyOff (off / 4 * 4)) → ∃ t, exec (.registerWrite fn off size val) s = .next t ∧
        t = { s with fns := t.fns } ∧ getFn t fn.val = { getFn s fn.val with accessSize := true } ∧ ∀ f, f ≠ fn.val → getFn t f = getFn s f) ∧
    (∀ (fn : FnId) (off : Nat) (val : DWord) (s : State), off % 4 = 0 → regRead s fn.val off = none →
      Served s fn (seesOff s fn.val off) (earlyOff off) → ∃ t, exec (.registerWrite fn off 4 val) s = .next t ∧
        t = { s with fns := t.fns } ∧ getFn t fn.val = { getFn s fn.val with unmapped := true } ∧ ∀ f, f ≠ fn.val → getFn t f = getFn s f) ∧
    (∀ (fn : FnId) (off size : Nat) (s : State), wordAccess off size = false →
      Served s fn (seesOff s fn.val (off / 4 * 4)) (earlyOff (off / 4 * 4)) → ∃ t, exec (.rcRead fn ⟨.registers, off⟩ size) s = .next t ∧
        t = { s with fns := t.fns, out := { s.out with read := shownBytes s fn.val off size, readEp := false } } ∧
        getFn t fn.val = { getFn s fn.val with accessSize := true } ∧ ∀ f, f ≠ fn.val → getFn t f = getFn s f) ∧
    (∀ (fn : FnId) (off : Nat) (s : State), off % 4 = 0 → regRead s fn.val off = none →
      Served s fn (seesOff s fn.val off) (earlyOff off) → ∃ t, exec (.rcRead fn ⟨.registers, off⟩ 4) s = .next t ∧
        t = { s with fns := t.fns, out := { s.out with read := [0, 0, 0, 0], readEp := false } } ∧
        getFn t fn.val = { getFn s fn.val with unmapped := true } ∧ ∀ f, f ≠ fn.val → getFn t f = getFn s f))

/-- An aligned 64-bit write is two 32-bit writes, low address first (00 R7). Register writes by access code (00 R8-R10): an RW register takes the value,
an SH field only its shadow, a W1C flag clears where the value has a 1, and an RWL field is left alone, with CFG_WR_IGNORED, while its partition runs;
nothing else changes. -/
def Obligations.RegisterWritesFollowTheAccessCode : Prop :=
  (∀ (fn : FnId) (off : Nat) (val : DWord) (s : State), off % 8 = 0 →
      ∃ t, exec (.registerWrite fn off 4 (val &&& 0xFFFFFFFF#64)) s = .next t ∧
        exec (.registerWrite fn off 8 val) s = exec (.registerWrite fn (off + 4) 4 (val >>> 32)) t) ∧
  ((∀ (fn : FnId) (val : DWord) (s : State), Served s fn (fn.val == 0) false →
      exec (.registerWrite fn 0xC00010 4 val) s = .next { s with mem := { s.mem with scrubInt := bits (w32 val.toNat) 0 24 } }) ∧
    (∀ (fn : FnId) (p : PtnId) (val : DWord) (s : State), Served s fn (seesPtn s fn.val p.val) false →
      ∃ t, exec (.registerWrite fn (0x401014 + 0x1000 * p.val) 4 val) s = .next t ∧ t = { s with ptns := t.ptns } ∧ OtherPtns p.val s t ∧
        getPtn t p.val = { getPtn s p.val with fig := { (getPtn s p.val).fig with sh := { (getPtn s p.val).fig.sh with div := bits (w32 val.toNat) 0 2 } } }) ∧
    (∀ (fn : FnId) (val : DWord) (s : State), barOpen s fn.val = true →
      ∃ t, exec (.registerWrite fn 0x100 4 val) s = .next t ∧ t = { s with fns := t.fns } ∧ (∀ f, f ≠ fn.val → getFn t f = getFn s f) ∧
        getFn t fn.val = { getFn s fn.val with
          cfgWrIgnored := (getFn s fn.val).cfgWrIgnored && !val.toNat.testBit 0
          accessSize := (getFn s fn.val).accessSize && !val.toNat.testBit 1
          unmapped := (getFn s fn.val).unmapped && !val.toNat.testBit 2 }) ∧
    (∀ (fn : FnId) (p : PtnId) (val : DWord) (s : State), Served s fn (seesPtn s fn.val p.val) false → ptnRuns (getPtn s p.val) = true →
      ∃ t, exec (.registerWrite fn (0x40101C + 0x1000 * p.val) 4 val) s = .next t ∧ t = { s with fns := t.fns } ∧
        getFn t fn.val = { getFn s fn.val with cfgWrIgnored := true } ∧ ∀ f, f ≠ fn.val → getFn t f = getFn s f) ∧
    (∀ (fn : FnId) (p : PtnId) (val : DWord) (s : State), Served s fn (seesPtn s fn.val p.val) false → ptnRuns (getPtn s p.val) = false →
      ∃ t, exec (.registerWrite fn (0x40101C + 0x1000 * p.val) 4 val) s = .next t ∧ t = { s with ptns := t.ptns } ∧ OtherPtns p.val s t ∧
        getPtn t p.val = { getPtn s p.val with fig := { (getPtn s p.val).fig with drainLimit := bits (w32 val.toNat) 0 20 } }))

/-- Reads with an effect: a read-to-clear counter shows its value and clears, and the low half of a counter pair latches the high
half that the holding register then shows; nothing else changes (00 R8; 01 R41, R444; 02 R83; 08 R237). -/
def Obligations.ReadsShowTheValueThenClearOrLatch : Prop :=
  (∀ (fn : FnId) (p : PtnId) (s : State), Served s fn (seesPtn s fn.val p.val) false →
    ∃ t, exec (.rcRead fn ⟨.registers, 0x401024 + 0x1000 * p.val⟩ 4) s = .next t ∧ t = { s with ptns := t.ptns, out := t.out } ∧ OtherPtns p.val s t ∧
      t.out = { s.out with read := leBytes 4 (getPtn s p.val).fig.epochDrops, readEp := false } ∧
      getPtn t p.val = { getPtn s p.val with fig := { (getPtn s p.val).fig with epochDrops := 0 } }) ∧
  (∀ (fn : FnId) (s : State), barOpen s fn.val = true →
    ∃ t, exec (.modTimeLoRead fn false) s = .next t ∧ t = { s with fns := t.fns, out := t.out } ∧ (∀ f, f ≠ fn.val → getFn t f = getFn s f) ∧
      t.out = { s.out with read := leBytes 4 (w32 s.time), readEp := false } ∧ getFn t fn.val = { getFn s fn.val with timeHi := s.time / 2 ^ 32 }) ∧
  (∀ (fn : FnId) (s : State), barOpen s fn.val = true →
    ∃ t, exec (.modTimeLoRead fn true) s = .next t ∧ t = { s with fns := t.fns, out := t.out } ∧ (∀ f, f ≠ fn.val → getFn t f = getFn s f) ∧
      t.out = { s.out with read := leBytes 4 (w32 s.time) ++ leBytes 4 (s.time / 2 ^ 32), readEp := false } ∧
      getFn t fn.val = { getFn s fn.val with timeHi := s.time / 2 ^ 32 }) ∧
  (∀ (fn : FnId) (p : PtnId) (s : State), Served s fn (seesPtn s fn.val p.val) false →
    ∃ t, exec (.figRoundsLoRead fn p false) s = .next t ∧ t = { s with ptns := t.ptns, out := t.out } ∧ OtherPtns p.val s t ∧
      t.out = { s.out with read := leBytes 4 (w32 (getPtn s p.val).fig.rounds), readEp := false } ∧
      getPtn t p.val = { getPtn s p.val with fig := { (getPtn s p.val).fig with roundsHi := (getPtn s p.val).fig.rounds / 2 ^ 32 } }) ∧
  (∀ (fn : FnId) (c : CtxId) (s : State), Served s fn (seesCtx s fn.val c.val) false →
    ∃ t, exec (.ctxRunLoRead fn c false) s = .next t ∧ t = { s with ctxs := t.ctxs, out := t.out } ∧ OtherCtxs c.val s t ∧
      t.out = { s.out with read := leBytes 4 (w32 (getCtx s c.val).run), readEp := false } ∧
      getCtx t c.val = { getCtx s c.val with runHi := (getCtx s c.val).run / 2 ^ 32 })

/-! ### The event controller (12) -/

/-- EVC_PEND_SET by the PF sets exactly the named software sources' pending bits; a write that names any other source leaves it and sets OWNED (12 R364,
R365). EVC_PEND_CLR, EVC_MASK_SET and EVC_MASK_CLR by the PF act on exactly the named sources whose TARGET is 0 or 10 and set OWNED when another is
named; a condition source with EDGE = 0 whose filtered level is asserted is pending again (12 R364, R365). EVC_SRC_CFG, EVC_SRC_DEST and
EVC_VF_VECTORS: a write within the PF's limits to a masked source takes effect, and a write outside them changes nothing but its flags in EVC_ERR (12
R365, R366, R378, R379). -/
def Obligations.EventWindowWritesActOnTheirSources : Prop :=
  ((∀ (fn : FnId) (k : Fin 128) (val : Word) (s : State), Served s fn (fn.val == 0) true → 64 ≤ k.val →
      ∃ t, exec (.evcPendSet fn k val) s = .next t ∧ Signalled (srcBits k.val val) s t) ∧
    (∀ (fn : FnId) (k : Fin 128) (val : Word) (s : State), Served s fn (fn.val == 0) true → k.val < 64 →
      exec (.evcPendSet fn k val) s = .next { s with evc := { s.evc with owned := s.evc.owned || (srcBits k.val val).length != 0 } })) ∧
  ((∀ (fn : FnId) (k : Fin 128) (val : Word) (s : State), Served s fn (fn.val == 0) true →
      ∃ t, exec (.evcPendClr fn k val) s = .next t ∧
        t = { s with
          evc := { s.evc with pend := t.evc.pend, tgts := t.evc.tgts, hvec := t.evc.hvec, vecRange := t.evc.vecRange, owned := t.evc.owned }
          fns := t.fns
          out := { s.out with msix := t.out.msix } } ∧
        t.evc.owned = (s.evc.owned || (srcBits k.val val).any fun n => !pfOwns s n) ∧
        ∀ m, isPending t m = if m ∈ srcBits k.val val ∧ pfOwns s m = true then isCondition m && !(srcCfg s m).edge && nhas s.evc.filt m else isPending s m) ∧
    (∀ (fn : FnId) (k : Fin 128) (val : Word) (s : State), Served s fn (fn.val == 0) true →
      ∃ t, exec (.evcMaskSet fn k val) s = .next t ∧ t = { s with evc := { s.evc with unmasked := t.evc.unmasked, owned := t.evc.owned } } ∧
        t.evc.owned = (s.evc.owned || (srcBits k.val val).any fun n => !pfOwns s n) ∧
        ∀ m, isUnmasked t m = (isUnmasked s m && !((srcBits k.val val).contains m && pfOwns s m))) ∧
    (∀ (fn : FnId) (k : Fin 128) (val : Word) (s : State), Served s fn (fn.val == 0) true →
      ∃ t, exec (.evcMaskClr fn k val) s = .next t ∧
        t = { s with
          evc := { s.evc with unmasked := t.evc.unmasked, tgts := t.evc.tgts, hvec := t.evc.hvec, vecRange := t.evc.vecRange, owned := t.evc.owned }
          fns := t.fns
          out := { s.out with msix := t.out.msix } } ∧
        t.evc.owned = (s.evc.owned || (srcBits k.val val).any fun n => !pfOwns s n) ∧
        ∀ m, isUnmasked t m = (isUnmasked s m || ((srcBits k.val val).contains m && pfOwns s m)))) ∧
  ((∀ (fn : FnId) (n : SrcId) (val : Word) (s : State), Served s fn (fn.val == 0) true → pfOwns s n.val = true → isUnmasked s n.val = false →
      bits val.toNat 12 4 = 0 ∨ bits val.toNat 12 4 = 10 →
      ∃ t, exec (.evcSrcCfg fn n val) s = .next t ∧ t = { s with evc := { s.evc with src := t.evc.src, pend := t.evc.pend } } ∧
        srcCfg t n.val = { srcCfg s n.val with
          filter := bits val.toNat 0 8
          edge := if isCondition n.val then bit val.toNat 8 else (srcCfg s n.val).edge
          prio := bits val.toNat 9 3
          target := bits val.toNat 12 4 } ∧
        (∀ m, m ≠ n.val → srcCfg t m = srcCfg s m) ∧ ∀ m, m ≠ n.val → isPending t m = isPending s m) ∧
    (∀ (fn : FnId) (n : SrcId) (val : Word) (s : State), Served s fn (fn.val == 0) true →
      pfOwns s n.val = false ∨ isUnmasked s n.val = true ∨ ¬ (bits val.toNat 12 4 = 0 ∨ bits val.toNat 12 4 = 10) →
      exec (.evcSrcCfg fn n val) s = .next { s with evc := { s.evc with
        owned := s.evc.owned || !pfOwns s n.val || !(bits val.toNat 12 4 == 0 || bits val.toNat 12 4 == 10)
        cfgUnm := s.evc.cfgUnm || isUnmasked s n.val
        cfgInv := s.evc.cfgInv || decide (12 ≤ bits val.toNat 12 4) } }) ∧
    (∀ (fn : FnId) (n : SrcId) (val : Word) (s : State), Served s fn (fn.val == 0) true → pfOwns s n.val = true → isUnmasked s n.val = false →
      bits val.toNat 12 6 ≤ 32 → ((srcCfg s n.val).target = 10 → bits val.toNat 0 12 < tableSize s (bits val.toNat 12 6)) →
      ∃ t, exec (.evcSrcDest fn n val) s = .next t ∧ t = { s with evc := { s.evc with src := t.evc.src } } ∧
        srcCfg t n.val = { srcCfg s n.val with index := bits val.toNat 0 12, fn := bits val.toNat 12 6 } ∧
        ∀ m, m ≠ n.val → srcCfg t m = srcCfg s m) ∧
    (∀ (fn : FnId) (v : Fin 32) (val : Word) (s : State), Served s fn (fn.val == 0) true → s.vfEnable = false → 0 < bits val.toNat 0 12 →
      ((List.range 32).map fun w => if w = v.val then bits val.toNat 0 12 else tableSize s (w + 1)).sum ≤ 2048 →
      ∃ t, exec (.evcVfVectors fn v val) s = .next t ∧ t = { s with evc := { s.evc with vfVec := t.evc.vfVec } } ∧
        tableSize t (v.val + 1) = bits val.toNat 0 12 ∧ ∀ f, f ≠ v.val + 1 → tableSize t f = tableSize s f) ∧
    (∀ (fn : FnId) (v : Fin 32) (val : Word) (s : State), Served s fn (fn.val == 0) true → s.vfEnable = true →
      exec (.evcVfVectors fn v val) s = .next { s with evc := { s.evc with vfRef := true } }))

/-- A condition source's filtered level becomes the raw level; with EDGE = 0 its pending bit follows the level, with EDGE = 1 a new assertion sets it (12
R363). A host vector's interval has passed: held signals go out as one message, or into the function's pending-bit array while messages are withheld;
without held signals only the interval stops (12 R370, R371). -/
def Obligations.FiltersAndIntervalsMoveTheirSignals : Prop :=
  (∀ (n : SrcId) (level : Bool) (s : State), s.boot.aon = true → isCondition n.val = true →
      ∃ t, exec (.filterExpiry n level) s = .next t ∧
        t = { s with
          evc := { s.evc with filt := t.evc.filt, pend := t.evc.pend, tgts := t.evc.tgts, hvec := t.evc.hvec, vecRange := t.evc.vecRange }
          fns := t.fns
          out := { s.out with msix := t.out.msix } } ∧
        nhas t.evc.filt n.val = level ∧ (∀ m, m ≠ n.val → isPending t m = isPending s m ∧ nhas t.evc.filt m = nhas s.evc.filt m) ∧
        isPending t n.val = (if (srcCfg s n.val).edge then isPending s n.val || (level && !nhas s.evc.filt n.val) else level)) ∧
  ((∀ (e : Fin 4096) (f i : Nat) (s : State), (getHVec s e.val).running = true → (getHVec s e.val).held = true → vecOf s e.val = (f, i) → vecNo s f i = e.val →
      ∃ t, exec (.holdIntervalEnd e) s = .next t ∧ Signalled [] s t ∧
        getHVec t e.val = { getHVec s e.val with held := false, running := decide ((getHVec s e.val).interval ≠ 0) } ∧
        (canDma s f && (getFn s f).msixEnable && !(getFn s f).fnMask && !(tget {} (getFn s f).msix i).masked = true →
          t.out.msix = ⟨f, i, (tget {} (getFn s f).msix i).addr, (tget {} (getFn s f).msix i).data⟩ :: s.out.msix) ∧
        (canDma s f && (getFn s f).msixEnable && !(getFn s f).fnMask && !(tget {} (getFn s f).msix i).masked = false →
          t.out.msix = s.out.msix ∧ nhas (getFn t f).pba i = true)) ∧
    (∀ (e : Fin 4096) (s : State), (getHVec s e.val).running = true → (getHVec s e.val).held = false →
      ∃ t, exec (.holdIntervalEnd e) s = .next t ∧ t = { s with evc := { s.evc with hvec := t.evc.hvec } } ∧
        getHVec t e.val = { getHVec s e.val with running := false } ∧ ∀ j, j ≠ e.val → getHVec t j = getHVec s j))
/-- Delivery to a processor: the target's LEVEL, cause register and handler address are set, the processor is awake, and the pending bit of a pulse source
or of a condition source with EDGE = 1 clears (12 R367). The source delivered is pending, unmasked and routed to the target, above its LEVEL, of the
highest PRIORITY and, of those, the lowest number; none is delivered while the processor's interrupt enable is off (12 R367). A handler's return
restores the earlier LEVEL and starts the moderation gap; the gap ends; nothing else changes (12 R367, R369). -/
def Obligations.DeliveryChoosesAndEntersAndReturns : Prop :=
  (∀ (target : Fin 16) (n : Nat) (s : State), 1 ≤ target.val → target.val ≤ 9 → deliverable s target.val = some n →
      ∃ t, exec (.eventDelivery target) s = .next t ∧ t = { s with evc := { s.evc with tgts := t.evc.tgts, pend := t.evc.pend } } ∧
        getTgt t target.val = { getTgt s target.val with
          levels := (srcCfg s n).prio :: (getTgt s target.val).levels
          cause := n
          handler := (getTgt s target.val).base * 65536 + 16 * (srcCfg s n).index
          sleeping := false
          count := satAdd 32 (getTgt s target.val).count 1 } ∧
        (∀ k, k ≠ target.val → getTgt t k = getTgt s k) ∧ ∀ m, isPending t m = (isPending s m && !(m == n && srcEdge s n))) ∧
  (∀ (s : State) (k n : Nat), s.evc.pend.Pairwise (· < ·) → deliverable s k = some n →
      isPending s n = true ∧ isUnmasked s n = true ∧ (srcCfg s n).target = k ∧ (getTgt s k).mie = true ∧
      (∀ l ∈ (getTgt s k).levels.head?, l < (srcCfg s n).prio) ∧
      ∀ m, isPending s m = true → isUnmasked s m = true → (srcCfg s m).target = k →
        (srcCfg s m).prio < (srcCfg s n).prio ∨ ((srcCfg s m).prio = (srcCfg s n).prio ∧ n ≤ m)) ∧
  ((∀ (k : Fin 16) (l : Nat) (ls : List Nat) (s : State), (getTgt s k.val).levels = l :: ls →
      ∃ t, exec (.handlerReturn k) s = .next t ∧ t = { s with evc := { s.evc with tgts := t.evc.tgts } } ∧
        getTgt t k.val = { getTgt s k.val with levels := ls, inGap := decide ((getTgt s k.val).gap ≠ 0) } ∧ ∀ j, j ≠ k.val → getTgt t j = getTgt s j) ∧
    (∀ (k : Fin 16) (s : State), (getTgt s k.val).inGap = true →
      ∃ t, exec (.moderationGapEnd k) s = .next t ∧ t = { s with evc := { s.evc with tgts := t.evc.tgts } } ∧
        getTgt t k.val = { getTgt s k.val with inGap := false, sleeping := (getTgt s k.val).levels.isEmpty } ∧ ∀ j, j ≠ k.val → getTgt t j = getTgt s j))

/-- A processor asleep wakes when any source of its target is pending and unmasked, at any priority and whether or not its interrupt enable is on; with it off the
source stays pending and no handler starts; with it on, the source of R367 is delivered (12 R368). -/
def Obligations.AProcessorAsleepWakesForAnySourceOfItsTarget : Prop :=
  ∀ (k : Fin 16) (n : Nat) (s : State), (getTgt s k.val).sleeping = true → isPending s n = true → isUnmasked s n = true → (srcCfg s n).target = k.val →
    (∃ t, exec (.wfiWake k) s = .next t ∧ t = { s with evc := { s.evc with tgts := t.evc.tgts } } ∧
      getTgt t k.val = { getTgt s k.val with sleeping := false } ∧ (∀ j, j ≠ k.val → getTgt t j = getTgt s j) ∧ isPending t n = true) ∧
    ((getTgt s k.val).mie = false → exec (.eventDelivery k) s = .next s) ∧
    ((getTgt s k.val).mie = true → 1 ≤ k.val → k.val ≤ 9 → ∀ m, deliverable s k.val = some m →
      ∃ t, exec (.eventDelivery k) s = .next t ∧ (getTgt t k.val).cause = m ∧ (getTgt t k.val).sleeping = false ∧
        (getTgt t k.val).handler = (getTgt s k.val).base * 65536 + 16 * (srcCfg s m).index ∧ isPending t m = (isPending s m && !srcEdge s m))

/-- ALERT_N is low exactly while a source with TARGET 11 is pending and unmasked (12 R372). -/
def Obligations.AlertIsLowWhileAnAlertSourceIsPending : Prop :=
  ∀ s : State, s.evc.pend.Pairwise (· < ·) → (alertLow s = true ↔ ∃ n, isPending s n = true ∧ isUnmasked s n = true ∧ (srcCfg s n).target = 11)
/-! ### Partitions, quotas and pools (06, 07, 08) -/

/-- MOD_PTN_CMD: a command that no reason of 08 R234 refuses changes its partition, shows OK when it completes, and leaves every other partition's
quarters, VF and units as they were. A refused MOD_PTN_CMD command changes nothing but the status that it will show (08 R234), and one written while
another is in progress changes nothing at all (R233). -/
def Obligations.PartitionCommandsChangeTheirPartition : Prop :=
  ((∀ (fn : FnId) (p : PtnId) (s : State), Served s fn (fn.val == 0) false → s.ptnCmd.busy = false → s.ptnCmd.arg ≠ 0 → takenQtr s p.val s.ptnCmd.arg = none →
      (getPtn s p.val).exists_ = false → ∃ t, exec (.create fn p) s = .next t ∧ t = { s with ptnCmd := t.ptnCmd, ptns := t.ptns, qtrs := t.qtrs, mem := t.mem } ∧
        t.ptnCmd = { s.ptnCmd with busy := true, resCode := 0, resInfo := 0 } ∧
        (getPtn t p.val).exists_ = true ∧ (getPtn t p.val).qtrs = s.ptnCmd.arg ∧ (getPtn t p.val).vf = 0 ∧ (getPtn t p.val).fig = {} ∧
        (getPtn t p.val).mem.t1Quota = 0 ∧ ((∀ r ∈ s.mem.retained, r.ptn ≠ p.val) → (getPtn t p.val).mem.t2Quota = 0) ∧
        (∀ q, q < 32 → bit s.ptnCmd.arg q = true → (getQtr t q).railOn = true) ∧
        ∀ q, q ≠ p.val → getPtn t q = { getPtn s q with pwr := (getPtn t q).pwr }) ∧
    (∀ (fn : FnId) (p : PtnId) (s : State), Served s fn (fn.val == 0) false → s.ptnCmd.busy = false → s.ptnCmd.arg ≠ 0 → takenQtr s p.val s.ptnCmd.arg = none →
      (getPtn s p.val).exists_ = true → (getPtn s p.val).fig.st = .empty →
      ∃ t, exec (.grow fn p) s = .next t ∧ t = { s with ptnCmd := t.ptnCmd, ptns := t.ptns, qtrs := t.qtrs, mem := t.mem } ∧
        t.ptnCmd = { s.ptnCmd with busy := true, resCode := 0, resInfo := 0 } ∧
        getPtn t p.val = { getPtn s p.val with qtrs := (getPtn s p.val).qtrs ||| bitsMask (maskBits s.ptnCmd.arg 32), pwr := (getPtn t p.val).pwr } ∧
        ∀ q, q ≠ p.val → getPtn t q = { getPtn s q with pwr := (getPtn t q).pwr }) ∧
    (∀ (fn : FnId) (p : PtnId) (s : State), Served s fn (fn.val == 0) false → s.ptnCmd.busy = false → s.ptnCmd.arg ≠ 0 →
      (∀ q, q < 32 → bit s.ptnCmd.arg q = true → bit (getPtn s p.val).qtrs q = true ∧ pageBeneath s p.val q = false) → s.ptnCmd.arg ≠ (getPtn s p.val).qtrs →
      (getPtn s p.val).exists_ = true → (getPtn s p.val).fig.st = .empty →
      ∃ t, exec (.shrink fn p) s = .next t ∧ t = { s with ptnCmd := t.ptnCmd, ptns := t.ptns, qtrs := t.qtrs } ∧
        t.ptnCmd = { s.ptnCmd with busy := true, resCode := 0, resInfo := 0 } ∧
        getPtn t p.val = { getPtn s p.val with qtrs := (getPtn s p.val).qtrs - s.ptnCmd.arg, pwr := (getPtn t p.val).pwr } ∧
        ∀ q, q ≠ p.val → getPtn t q = { getPtn s q with pwr := (getPtn t q).pwr }) ∧
    (∀ (fn : FnId) (p : PtnId) (s : State), Served s fn (fn.val == 0) false → s.ptnCmd.busy = false → (getPtn s p.val).exists_ = true →
      (getPtn s p.val).fig.st = .empty → ctxsOf s p.val = [] →
      ∃ t, exec (.destroy fn p) s = .next t ∧ t = { s with ptnCmd := t.ptnCmd, ptns := t.ptns, qtrs := t.qtrs, mem := t.mem } ∧
        t.ptnCmd = { s.ptnCmd with busy := true, resCode := 0, resInfo := 0 } ∧
        (getPtn t p.val).exists_ = false ∧ (getPtn t p.val).qtrs = 0 ∧ (getPtn t p.val).vf = 0 ∧ (getPtn t p.val).mem = {} ∧
        ∀ q, q ≠ p.val → getPtn t q = { getPtn s q with pwr := (getPtn t q).pwr }) ∧
    (∀ (fn : FnId) (p : PtnId) (vf : Nat) (s : State), Served s fn (fn.val == 0) false → s.ptnCmd.busy = false → (getPtn s p.val).exists_ = true →
      (getPtn s p.val).vf = 0 → 0 < vf → vf ≤ 32 → s.vfEnable = true → (∀ e ∈ s.ptns, e.2.exists_ = true → e.2.vf ≠ vf) →
      ∃ t, exec (.bindVf fn p vf) s = .next t ∧ t = { s with ptnCmd := t.ptnCmd, ptns := t.ptns } ∧
        t.ptnCmd = { s.ptnCmd with busy := true, resCode := 0, resInfo := 0 } ∧ getPtn t p.val = { getPtn s p.val with vf := vf } ∧ OtherPtns p.val s t) ∧
    (∀ (fn : FnId) (p : PtnId) (s : State), Served s fn (fn.val == 0) false → s.ptnCmd.busy = false → (getPtn s p.val).exists_ = true →
      (∀ e ∈ s.rings, e.2.assigned = true → e.2.ptn = p.val → e.2.cur.enable = false) →
      ∃ t, exec (.unbindVf fn p) s = .next t ∧ t = { s with ptnCmd := t.ptnCmd, ptns := t.ptns } ∧
        t.ptnCmd = { s.ptnCmd with busy := true, resCode := 0, resInfo := 0 } ∧ getPtn t p.val = { getPtn s p.val with vf := 0 } ∧ OtherPtns p.val s t) ∧
    (∀ s : State, s.ptnCmd.busy = true → ∃ t, exec .modPtnDone s = .next t ∧
      Signalled [srcPtnDone] { s with ptnCmd := { s.ptnCmd with busy := false, code := s.ptnCmd.resCode, info := s.ptnCmd.resInfo } } t)) ∧
  (∀ (fn : FnId) (p : PtnId) (vf : Nat) (s : State) (c : Instr), Served s fn (fn.val == 0) false →
      c ∈ [Instr.create fn p, .grow fn p, .shrink fn p, .destroy fn p, .bindVf fn p vf, .unbindVf fn p] →
      ∃ t, exec c s = .next t ∧ (s.ptnCmd.busy = true → t = s) ∧ (t.ptnCmd.resCode ≠ 0 → t = { s with ptnCmd := t.ptnCmd }) ∧
        (s.ptnCmd.busy = false → t.ptnCmd.busy = true))

/-- Quotas, the KV pool's registers and a context's reserve take the value written, or are refused with their flag (06 R192, R201; 07 R209, R232). RWL
registers of a running partition stay as they are and set CFG_WR_IGNORED (00 R9). -/
def Obligations.QuotaPoolReserveAndLockedWrites : Prop :=
  ((∀ (fn : FnId) (p : PtnId) (t2 : Bool) (v : Word) (s : State), Served s fn (fn.val == 0) false →
      ∃ t, exec (.quotaWrite fn p t2 v) s = .next t ∧ t = { s with ptns := t.ptns } ∧ OtherPtns p.val s t ∧
        (let k := if t2 then 2 else 1
         let n := v.toNat % 2 ^ (if t2 then 27 else 24)
         let others := ((s.ptns.filter fun e => e.1 != p.val).map fun e => quotaOf k e.2.mem).sum
         let m := (getPtn s p.val).mem
         let w := if n < tierUse s p.val k ∨ tierTotal k < others + n then { m with quotaRefused := true }
           else if t2 then { m with t2Quota := n } else { m with t1Quota := n }
         getPtn t p.val = { getPtn s p.val with mem := w })) ∧
    (∀ (fn : FnId) (p : PtnId) (v : Word) (s : State), Served s fn (seesPtn s fn.val p.val) false → ptnRuns (getPtn s p.val) = false →
      (getPtn s p.val).att.poolUsed = [] → (getPtn s p.val).att.poolBase % 65536 = 0 →
      v.toNat % 2 ^ 24 = 0 ∨ rangeNear s p.val (getPtn s p.val).att.poolBase (v.toNat % 2 ^ 24 * 65536) = true →
      ∃ t, exec (.poolWrite fn p .pages v) s = .next t ∧ t = { s with ptns := t.ptns } ∧ OtherPtns p.val s t ∧
        getPtn t p.val = { getPtn s p.val with att := { (getPtn s p.val).att with poolPages := v.toNat % 2 ^ 24 } }) ∧
    (∀ (fn : FnId) (p : PtnId) (hi : Bool) (v : Word) (s : State), Served s fn (seesPtn s fn.val p.val) false → ptnRuns (getPtn s p.val) = false →
      (getPtn s p.val).att.poolUsed = [] → (getPtn s p.val).att.poolPages = 0 →
      (let b := if hi then pair (getPtn s p.val).att.poolBase v.toNat else pair v.toNat ((getPtn s p.val).att.poolBase / 2 ^ 32)
       b % 65536 = 0 → ∃ t, exec (.poolWrite fn p (if hi then .baseHi else .baseLo) v) s = .next t ∧ t = { s with ptns := t.ptns } ∧ OtherPtns p.val s t ∧
        getPtn t p.val = { getPtn s p.val with att := { (getPtn s p.val).att with poolBase := b } })) ∧
    (∀ (fn : FnId) (p : PtnId) (r : PoolReg) (v : Word) (s : State), Served s fn (seesPtn s fn.val p.val) false → ptnRuns (getPtn s p.val) = false →
      (getPtn s p.val).att.poolUsed ≠ [] → ∃ t, exec (.poolWrite fn p r v) s = .next t ∧ t = { s with ptns := t.ptns } ∧ OtherPtns p.val s t ∧
        getPtn t p.val = { getPtn s p.val with att := { (getPtn s p.val).att with poolBusy := true } }) ∧
    (∀ (fn : FnId) (c : CtxId) (v : Word) (s : State), Served s fn (seesCtx s fn.val c.val) false → (getCtx s c.val).st ≠ .disabled →
      ptnRuns (getPtn s (getCtx s c.val).ptn) = false →
      v.toNat % 2 ^ 24 + (((ctxsOf s (getCtx s c.val).ptn).filter fun d => d != c.val).map fun d => (getCtx s d).reserve).sum ≤ (getPtn s (getCtx s c.val).ptn).att.poolPages →
      ∃ t, exec (.reserveWrite fn c v) s = .next t ∧ t = { s with ctxs := t.ctxs } ∧ OtherCtxs c.val s t ∧
        getCtx t c.val = { getCtx s c.val with reserve := v.toNat % 2 ^ 24 }) ∧
    (∀ (fn : FnId) (c : CtxId) (v : Word) (s : State), Served s fn (seesCtx s fn.val c.val) false → (getCtx s c.val).st ≠ .disabled →
      ptnRuns (getPtn s (getCtx s c.val).ptn) = false →
      (getPtn s (getCtx s c.val).ptn).att.poolPages < v.toNat % 2 ^ 24 + (((ctxsOf s (getCtx s c.val).ptn).filter fun d => d != c.val).map fun d => (getCtx s d).reserve).sum →
      ∃ t, exec (.reserveWrite fn c v) s = .next t ∧ t = { s with ptns := t.ptns } ∧
        getPtn t (getCtx s c.val).ptn = { getPtn s (getCtx s c.val).ptn with att := { (getPtn s (getCtx s c.val).ptn).att with resRefused := true } })) ∧
  ((∀ (fn : FnId) (p : PtnId) (r : PoolReg) (v : Word) (s : State), Served s fn (seesPtn s fn.val p.val) false → ptnRuns (getPtn s p.val) = true →
      ∃ t, exec (.poolWrite fn p r v) s = .next t ∧ t = { s with fns := t.fns } ∧ getFn t fn.val = { getFn s fn.val with cfgWrIgnored := true } ∧
        ∀ f, f ≠ fn.val → getFn t f = getFn s f) ∧
    (∀ (fn : FnId) (c : CtxId) (v : Word) (s : State), Served s fn (seesCtx s fn.val c.val) false → (getCtx s c.val).st ≠ .disabled →
      ptnRuns (getPtn s (getCtx s c.val).ptn) = true →
      ∃ t, exec (.reserveWrite fn c v) s = .next t ∧ t = { s with fns := t.fns } ∧ getFn t fn.val = { getFn s fn.val with cfgWrIgnored := true } ∧
        ∀ f, f ≠ fn.val → getFn t f = getFn s f))

/-! ### Contexts and commits (08 R236, R237, R240; 06 R201; 00 R10) -/

/-- CTX_CMD: ENABLE by the PF of a DISABLED context, DISABLE by the PF of one that owns nothing, and RESET of an ENABLED one, which records HOST_RESET
and begins a context reset; and the end of that reset (08 R236, 11 R339). Commit registers: on a stopped partition the shadows take effect at the
write; on a running one they are staged, and a second commit replaces the staged set (00 R10). Where a reset begins or ends, stated outside mirror
runs and, at its end, at the default action LOG of COMPLETION_RING_FULL. -/
def Obligations.ContextCommandsAndCommits : Prop :=
  ((∀ (fn : FnId) (c : CtxId) (p : PtnId) (s : State), Served s fn (fn.val == 0) false → (getCtx s c.val).st = .disabled → (getPtn s p.val).exists_ = true →
      heldElsewhere s c.val p.val = false → ∃ t, exec (.enable fn c p) s = .next t ∧ t = { s with ctxs := t.ctxs } ∧ OtherCtxs c.val s t ∧
        getCtx t c.val = { getCtx s c.val with st := .enabled, ptn := p.val, code := 0 }) ∧
    (∀ (fn : FnId) (c : CtxId) (s : State), Served s fn (fn.val == 0) false → (getCtx s c.val).st = .enabled → ctxHolds s c.val = false →
      ∃ t, exec (.disable fn c) s = .next t ∧ t = { s with ctxs := t.ctxs } ∧ OtherCtxs c.val s t ∧
        getCtx t c.val = { getCtx s c.val with st := .disabled, code := 0 }) ∧
    (∀ (fn : FnId) (c : CtxId) (s : State), Served s fn (seesCtx s fn.val c.val) false → (getCtx s c.val).st = .enabled → MirrorFree s →
      ∃ t, exec (.reset fn c) s = .next t ∧ (getCtx t c.val).st = .resetting ∧ (getCtx t c.val).code = 0 ∧
        (∃ engs, (getCtx t c.val).reset = some { level := 1, cause := 0x0901, db := false, engs := engs }) ∧ t.flt.n1 = satAdd 32 s.flt.n1 1 ∧
        (∀ r, (getRing s r).cur.type = 0 → (getRing s r).cur.ctx = c.val → ∀ k ∈ (getRing t r).started, k.gone = true) ∧
        t.flt.log.head? = some { hostResetCtx c.val 1 s with seq := w32 s.flt.seq, time := s.time }) ∧
    (∀ (c : CtxId) (r : CtxReset) (s : State), isReady s = true → (getCtx s c.val).st = .resetting → (getCtx s c.val).reset = some r → r.level = 1 →
      policyOf s 0x0503 = 0 → MirrorFree s → (∀ n ∈ ringsOfCtx s c.val 0, (getRing s n).cur.comp ∉ ringsOfCtx s c.val 0) → ∃ t, exec (.contextResetDone c) s = .next t ∧ (getCtx t c.val).st = .enabled ∧ (getCtx t c.val).reset = none ∧
        ∀ n, n ∈ ringsOfCtx s c.val 0 → (getRing t n).started = [] ∧ (getRing t n).head = (getRing t n).tail)) ∧
  ((∀ (fn : FnId) (c : CtxId) (s : State), Served s fn (seesCtx s fn.val c.val) false → (getCtx s c.val).st ≠ .disabled →
      ptnRuns (getPtn s (getCtx s c.val).ptn) = true → ∃ t, exec (.ctxCommit fn c) s = .next t ∧ t = { s with ctxs := t.ctxs } ∧ OtherCtxs c.val s t ∧
        getCtx t c.val = { getCtx s c.val with staged := some (getCtx s c.val).sh }) ∧
    (∀ (fn : FnId) (c : CtxId) (s : State), Served s fn (seesCtx s fn.val c.val) false → (getCtx s c.val).st ≠ .disabled →
      ptnRuns (getPtn s (getCtx s c.val).ptn) = false → (getCtx s c.val).ptn < 32 → ∃ t u, exec (.ctxCommit fn c) s = .next t ∧ u = { s with ctxs := u.ctxs } ∧
        OtherCtxs c.val s u ∧ getCtx u c.val = { getCtx s c.val with cur := (getCtx s c.val).sh, staged := none } ∧ Signalled [srcPtn (getCtx s c.val).ptn 4] u t) ∧
    (∀ (fn : FnId) (p : PtnId) (s : State), Served s fn (seesPtn s fn.val p.val) false → ptnRuns (getPtn s p.val) = true →
      ∃ t, exec (.attCommit fn p) s = .next t ∧ t = { s with ctxs := t.ctxs, ptns := t.ptns } ∧ OtherPtns p.val s t ∧
        getPtn t p.val = { getPtn s p.val with att := { (getPtn s p.val).att with pending := true } } ∧
        (∀ c, c ∈ ctxsOf s p.val → getCtx t c = { getCtx s c with attStaged := some (getCtx s c).attSh }) ∧ ∀ c, c ∉ ctxsOf s p.val → getCtx t c = getCtx s c) ∧
    (∀ (fn : FnId) (p : PtnId) (s : State), Served s fn (seesPtn s fn.val p.val) false → ptnRuns (getPtn s p.val) = false →
      ∃ t u, exec (.attCommit fn p) s = .next t ∧ u = { s with ctxs := u.ctxs, ptns := u.ptns } ∧ OtherPtns p.val s u ∧
        getPtn u p.val = { getPtn s p.val with att := { (getPtn s p.val).att with pending := false } } ∧
        (∀ c, c ∈ ctxsOf s p.val → getCtx u c = { getCtx s c with attCur := (getCtx s c).attSh, attStaged := none }) ∧
        (∀ c, c ∉ ctxsOf s p.val → getCtx u c = getCtx s c) ∧ Signalled [srcPtn p.val 4] u t) ∧
    (∀ (fn : FnId) (r : RingId) (val : Word) (s : State), Served s fn (seesRing s fn.val r.val) false → bit val.toNat 16 = true →
      (getRing s r.val).assigned = true → ptnRuns (getPtn s (getRing s r.val).ptn) = true →
      ∃ t, exec (.ringCommit fn r val) s = .next t ∧ t = { s with rings := t.rings } ∧ OtherRings r.val s t ∧
        getRing t r.val = { getRing s r.val with sh := ringCtlSh val.toNat (getRing s r.val).sh, staged := some (ringCtlSh val.toNat (getRing s r.val).sh) }) ∧
    (∀ (fn : FnId) (r : RingId) (val : Word) (s : State), Served s fn (seesRing s fn.val r.val) false → bit val.toNat 16 = true →
      ptnRuns (getPtn s (getRing s r.val).ptn) = false →
      (let n := ringCtlSh val.toNat (getRing s r.val).sh
       ringSetBad s r.val n = false → n.enable = true → (getRing s r.val).cur.enable = false →
       ∃ t, exec (.ringCommit fn r val) s = .next t ∧ t = { s with rings := t.rings } ∧ OtherRings r.val s t ∧
        getRing t r.val = { getRing s r.val with
          sh := n, cur := n, staged := none, head := 0, tail := 0, started := [], fullNoted := false, parkNoted := false, resets := [], resetEnts := [],
          recs := [], made := [] })))
/-! ### BAR4 (07 R217; 15 R433, R434) -/

/-- A BAR4 read returns the object-addressed bytes, 0 where no object lies, with EP for poisoned lines; it changes nothing but the window's flags (07
R217). Below READY, or for a VF that is bound to no partition, it returns 0, and the latter is counted as VF_ACCESS (00 R7; 14 R402; its INDEX is log
33's choice). A BAR4 write within one page stores its bytes in the page's copy and nowhere else; a write to a read-only page or to an unmapped address
stores nothing and sets its flag (07 R206, R217). A write with the EP bit is logged in its function's AER (15 R434). -/
def Obligations.Bar4AccessesReachTheObjectsBytes : Prop :=
  ((∀ (fn : FnId) (a n p : Nat) (s : State), barOpen s fn.val = true → isReady s = true → bar4Ptn s fn.val = some p → rangeMapped s p a n = true →
      ∃ t, exec (.bar4Read fn a n) s = .next t ∧ t = { s with ptns := t.ptns, out := t.out } ∧
        t.out = { s.out with read := (readRange s p none a n).1, readEp := (readRange s p none a n).2 } ∧ OtherPtns p s t ∧
        getPtn t p = { getPtn s p with mem := { (getPtn s p).mem with bar4Poison := (getPtn s p).mem.bar4Poison || (readRange s p none a n).2 } }) ∧
    (∀ (fn : FnId) (a n p : Nat) (s : State), barOpen s fn.val = true → isReady s = true → bar4Ptn s fn.val = some p → 0 < n → a % pageBytes + n ≤ pageBytes →
      objAt s p a = none → ∃ t, exec (.bar4Read fn a n) s = .next t ∧ t = { s with ptns := t.ptns, out := t.out } ∧
        t.out = { s.out with read := List.replicate n 0, readEp := false } ∧ OtherPtns p s t ∧
        getPtn t p = { getPtn s p with mem := { (getPtn s p).mem with bar4Unmapped := true } }) ∧
    (∀ (fn : FnId) (a n : Nat) (s : State), barOpen s fn.val = true → isReady s = false → ∃ t, exec (.bar4Read fn a n) s = .next t ∧
      t = { s with fns := t.fns, out := { s.out with read := List.replicate n 0, readEp := false } } ∧ getFn t fn.val = { getFn s fn.val with unmapped := true }) ∧
    (∀ (fn : FnId) (a n : Nat) (s : State), barOpen s fn.val = true → isReady s = true → bar4Ptn s fn.val = none →
      ∃ t, exec (.bar4Read fn a n) s = .next t ∧ t = { vfAccess fn.val a s with out := { (vfAccess fn.val a s).out with read := List.replicate n 0, readEp := false } })) ∧
  ((∀ (fn : FnId) (a : Nat) (bs : List Byte) (ep : Bool) (p o k phys : Nat) (x : Obj) (s : State), barOpen s fn.val = true → isReady s = true →
      bar4Ptn s fn.val = some p → bs ≠ [] → a % pageBytes + bs.length ≤ pageBytes → objAt s p a = some (o, x) → pageRO s p x a = false →
      (getPage s p (pageKey o ((a - x.base) / pageBytes))).zero = false → k ≤ 2 →
      allCopies s p (getPage s p (pageKey o ((a - x.base) / pageBytes))) = [(k, phys)] →
      ∃ t, exec (.bar4Write fn a bs ep) s = .next t ∧ t = { s with fns := t.fns, ptns := t.ptns, mem := t.mem } ∧ OtherPtns p s t ∧ LogsPoison fn.val ep s t ∧
        (∀ j b, bs[j]? = some b → mget (tierMem t.mem k) (phys * pageBytes + a % pageBytes + j) = b) ∧
        (∀ c, c < phys * pageBytes + a % pageBytes ∨ phys * pageBytes + a % pageBytes + bs.length ≤ c → mget (tierMem t.mem k) c = mget (tierMem s.mem k) c) ∧
        (∀ u, u ≤ 2 → u ≠ k → tierMem t.mem u = tierMem s.mem u ∧ tierBad t.mem u = tierBad s.mem u) ∧
        (ep = true → ∀ l, a % pageBytes / 64 ≤ l → l ≤ (a % pageBytes + bs.length - 1) / 64 → nhas (tierBad t.mem k) (phys * 1024 + l) = true)) ∧
    (∀ (fn : FnId) (a : Nat) (bs : List Byte) (ep : Bool) (p o : Nat) (x : Obj) (s : State), barOpen s fn.val = true → isReady s = true →
      bar4Ptn s fn.val = some p → bs ≠ [] → a % pageBytes + bs.length ≤ pageBytes → objAt s p a = some (o, x) → pageRO s p x a = true →
      ∃ t, exec (.bar4Write fn a bs ep) s = .next t ∧ t = { s with fns := t.fns, ptns := t.ptns } ∧ OtherPtns p s t ∧ LogsPoison fn.val ep s t ∧
        getPtn t p = { getPtn s p with mem := { (getPtn s p).mem with bar4Ro := true } }) ∧
    (∀ (fn : FnId) (a : Nat) (bs : List Byte) (ep : Bool) (p : Nat) (s : State), barOpen s fn.val = true → isReady s = true →
      bar4Ptn s fn.val = some p → bs ≠ [] → a % pageBytes + bs.length ≤ pageBytes → objAt s p a = none →
      ∃ t, exec (.bar4Write fn a bs ep) s = .next t ∧ t = { s with fns := t.fns, ptns := t.ptns } ∧ OtherPtns p s t ∧ LogsPoison fn.val ep s t ∧
        getPtn t p = { getPtn s p with mem := { (getPtn s p).mem with bar4Unmapped := true } }))

/-! ### Rings (08 R241-R249) -/

/-- A doorbell takes a TAIL or HEAD that the ring can take, and otherwise leaves the indices and sets its flag; a read of it returns HEAD and TAIL; a
narrower or unaligned write only sets ACCESS_SIZE (00 R7; 08 R241). NOP ends with OK; FENCE ends with OK once nothing of its ring is before it and
otherwise waits, running; a reserved opcode ends with OPCODE; an entry with a reserved header bit ends with OPCODE and one with a set unused operand
bit with FORMAT; each changes its ring alone (08 R244, R245, R248, R260). -/
def Obligations.DoorbellsAndPlainEntries : Prop :=
  ((∀ (fn : FnId) (r : RingId) (size : Nat) (val : DWord) (s : State), Served s fn (seesRing s fn.val r.val) false → (getRing s r.val).cur.enable = true →
      (getRing s r.val).cur.type = 0 → diff32 (w32 val.toNat) (getRing s r.val).tail ≤ ringSize (getRing s r.val) →
      diff32 (w32 val.toNat) (getRing s r.val).head ≤ ringSize (getRing s r.val) → (∀ e ∈ s.rings, e.2.resets = []) → size = 4 ∨ size = 8 →
      ∃ t, exec (.doorbellWrite fn ⟨8 * r.val, size⟩ val) s = .next t ∧ t = { s with rings := t.rings } ∧ OtherRings r.val s t ∧
        getRing t r.val = { getRing s r.val with tail := w32 val.toNat }) ∧
    (∀ (fn : FnId) (r : RingId) (size : Nat) (val : DWord) (s : State), Served s fn (seesRing s fn.val r.val) false → (getRing s r.val).cur.enable = true →
      (getRing s r.val).cur.type ≠ 0 → diff32 (w32 val.toNat) (getRing s r.val).head ≤ diff32 (getRing s r.val).tail (getRing s r.val).head →
      (∀ e ∈ s.rings, e.2.resets = []) → (∀ e ∈ (getRing s r.val).resetEnts, e.2.2 = false) →
      ringFull { getRing s r.val with head := w32 val.toNat } = false ∨ (getRing s r.val).fullNoted = true → size = 4 ∨ size = 8 →
      ∃ t, exec (.doorbellWrite fn ⟨8 * r.val, size⟩ val) s = .next t ∧ t = { s with rings := t.rings } ∧ OtherRings r.val s t ∧
        (getRing t r.val).head = w32 val.toNat ∧ (getRing t r.val).tail = (getRing s r.val).tail ∧ (getRing t r.val).cur = (getRing s r.val).cur ∧
        (getRing t r.val).started = (getRing s r.val).started) ∧
    (∀ (fn : FnId) (r : RingId) (size : Nat) (val : DWord) (s : State), Served s fn (seesRing s fn.val r.val) false → (getRing s r.val).cur.enable = true →
      dbOk (getRing s r.val) (w32 val.toNat) = false → size = 4 ∨ size = 8 → ∃ t, exec (.doorbellWrite fn ⟨8 * r.val, size⟩ val) s = .next t ∧ t = { s with rings := t.rings } ∧
        OtherRings r.val s t ∧ getRing t r.val = { getRing s r.val with dbBad := true }) ∧
    (∀ (fn : FnId) (r : RingId) (size : Nat) (val : DWord) (s : State), Served s fn (seesRing s fn.val r.val) false → (getRing s r.val).cur.enable = false →
      size = 4 ∨ size = 8 →
      ∃ t, exec (.doorbellWrite fn ⟨8 * r.val, size⟩ val) s = .next t ∧ t = { s with rings := t.rings } ∧ OtherRings r.val s t ∧
        getRing t r.val = { getRing s r.val with dbDisabled := true }) ∧
    (∀ (fn : FnId) (off size : Nat) (val : DWord) (s : State), off < 2 ^ 18 → wordAccess off size = false → Served s fn (seesRing s fn.val (off / 8)) false →
      ∃ t, exec (.doorbellWrite fn ⟨off, size⟩ val) s = .next t ∧ t = { s with fns := t.fns } ∧
        getFn t fn.val = { getFn s fn.val with accessSize := true } ∧ ∀ f, f ≠ fn.val → getFn t f = getFn s f) ∧
    (∀ (fn : FnId) (r : RingId) (s : State), Served s fn (seesRing s fn.val r.val) false →
      exec (.rcRead fn ⟨.doorbells, 8 * r.val⟩ 8) s = .next { s with out := { s.out with
        read := leBytes 8 ((getRing s r.val).head + 2 ^ 32 * (getRing s r.val).tail), readEp := false } })) ∧
  ((∀ (e : Entry) (s : State), Runs s e 0 → ∃ t, exec (.nop e) s = .next t ∧
      t = { s with rings := t.rings, out := { s.out with hostMem := t.out.hostMem } } ∧ Ended s t e 0 0 0) ∧
    (∀ (e : Entry) (s : State), Runs s e 1 → (∀ k ∈ (getRing s e.ring.val).started, k.gone = true) → ∃ t, exec (.fence e) s = .next t ∧
      t = { s with rings := t.rings, out := { s.out with hostMem := t.out.hostMem } } ∧ Ended s t e 1 0 0) ∧
    (∀ (e : Entry) (k : Cmd) (s : State), Runs s e 1 → k ∈ (getRing s e.ring.val).started → k.gone = false → ∃ t, exec (.fence e) s = .next t ∧
      t = { s with rings := t.rings, out := { s.out with hostMem := t.out.hostMem } } ∧ Started s t e { newCmd s e 1 with phase := .running }) ∧
    (∀ (e : Entry) (op : Byte) (s : State), canStart s e.ring.val = true → getCmd s e.ring.val (getRing s e.ring.val).head = none →
      opcodes.contains op.toNat = false → ∃ t, exec (.reservedOpcode e op) s = .next t ∧
      t = { s with rings := t.rings, out := { s.out with hostMem := t.out.hostMem } } ∧ Ended s t e op.toNat 1 0) ∧
    (∀ (e : Entry) (s : State), canStart s e.ring.val = true → getCmd s e.ring.val (getRing s e.ring.val).head = none → e.hdr ≠ 0 →
      ∃ t, exec (.nop e) s = .next t ∧ t = { s with rings := t.rings, out := { s.out with hostMem := t.out.hostMem } } ∧ Ended s t e 0 1 0) ∧
    (∀ (e : Entry) (s : State), canStart s e.ring.val = true → getCmd s e.ring.val (getRing s e.ring.val).head = none → e.hdr = 0 →
      opsClean 0 e.ops = false →
      ∃ t, exec (.nop e) s = .next t ∧ t = { s with rings := t.rings, out := { s.out with hostMem := t.out.hostMem } } ∧ Ended s t e 0 2 0))

/-- The completion of the ring's oldest command, once ended, is written at the completion ring's TAIL in 32 bytes, TAIL advances, and no other byte of
host memory changes but the write-back; the command leaves its ring (08 R242, R247, R249). CMD_TIMEOUT of a timed command counts in its context and,
as RING_DMA of an enabled ring does, records its fault and, at the default action CONTEXT, resets the context; RING_DMA for a RESET entry whose DMA
has failed before only sets DMA_ERR (08 R243, R258, R259; 11 R332, R333, R345). Stated outside mirror runs, and for COMPLETION_RING_FULL at its
default action LOG. -/
def Obligations.CompletionsTimeoutsAndDmaFailures : Prop :=
  (∀ (r : RingId) (c : Cmd) (rest : List Cmd) (s : State), isReady s = true → (getRing s r.val).started = c :: rest → c.phase = .done → c.gone = false →
      (getRing s r.val).resets = [] → policyOf s 0x0503 = 0 → MirrorFree s →
      (let cr := (getRing s r.val).cur.comp
       let x := getRing s cr
       let a := x.cur.base + x.tail % ringSize x * 32
       cr ≠ r.val → ringReach s cr = true → ringFull x = false → x.cur.wb = 0 ∨ x.cur.wb + 4 ≤ a ∨ a + 32 ≤ x.cur.wb →
       ∃ t, exec (.completionWrite r) s = .next t ∧ (getRing t r.val).started = rest ∧ (getRing t r.val).head = (getRing s r.val).head ∧
        (getRing t cr).tail = w32 (x.tail + 1) ∧ (getRing t cr).head = x.head ∧
        mread t.out.hostMem a 32 = compBytes c.tag c.status c.detail c.opcode c.result c.info c.idx r.val (phaseOf x x.tail) s.time ∧
        (∀ i, (i < a ∨ a + 32 ≤ i) → (x.cur.wb = 0 ∨ i < x.cur.wb ∨ x.cur.wb + 4 ≤ i) → mget t.out.hostMem i = mget s.out.hostMem i) ∧
        ∀ q, q ≠ r.val → q ≠ cr → getRing t q = getRing s q)) ∧
  ((∀ (r : RingId) (idx : Word) (k : Fin 4) (c : Cmd) (s : State), isReady s = true → getCmd s r.val idx.toNat = some c → timed s c k.val = true →
      policyOf s 0x0501 = 1 → (getCtx s c.ctx).st = .enabled → MirrorFree s → ∃ t, exec (.cmdTimeout r idx k) s = .next t ∧
        (getCtx t c.ctx).timeouts = satAdd 16 (getCtx s c.ctx).timeouts 1 ∧ (getCtx t c.ctx).st = .resetting ∧
        (∃ engs, (getCtx t c.ctx).reset = some { level := 1, cause := 0x0501, db := false, engs := engs }) ∧
        t.flt.log.head? = some { classEngine s c k.val (((faultRec s 0x0501 idx.toNat k.val).withCtx s c.ctx).withRing r.val) with seq := w32 s.flt.seq, time := s.time }) ∧
    (∀ (r : RingId) (idx : Word) (f : DmaFail) (s : State), isReady s = true → (getRing s r.val).cur.enable = true → resetEntAt (getRing s r.val) idx.toNat ≠ some true →
      policyOf s 0x0502 = 1 → MirrorFree s → (getCtx s (getRing s r.val).cur.ctx).st = .enabled → ∃ t, exec (.ringDma r idx false f) s = .next t ∧
        (getRing t r.val).dmaErr = true ∧ (getCtx t (getRing s r.val).cur.ctx).st = .resetting ∧
        t.flt.log.head? = some { ((faultRec s 0x0502 idx.toNat (dmaDetail f)).withCtx s (getRing s r.val).cur.ctx).withRing r.val with seq := w32 s.flt.seq, time := s.time }) ∧
    (∀ (r : RingId) (idx : Word) (f : DmaFail) (s : State), isReady s = true → (getRing s r.val).cur.enable = true → resetEntAt (getRing s r.val) idx.toNat = some true →
      ∃ t, exec (.ringDma r idx false f) s = .next t ∧ t = { s with fns := t.fns, rings := t.rings } ∧ (getRing t r.val).dmaErr = true ∧
        (f.timeout = true → (getFn t (ringFn s r.val)).aer.timeout = true) ∧ (∀ g, g ≠ ringFn s r.val → getFn t g = getFn s g)))

/-! ### Objects (07 R205-R210, R450) -/

/-- OBJ_SET of a FREE id creates the object with a copy of every page in its home tier; of a VALID one with the same place it changes PIN, SHARED and
the fallback fields only; an overlap is refused; while its home mover is in reset it waits in that mover's queue (07 R207, R208; 08 R250; 11 R340).
OBJ_CLEAR makes the object CLEARING; when its pages are released the entry is FREE, no page of it has a copy, and the command ends with the number of
pages; OBJ_QUERY writes the entry and its page-map entries and ends with their count (07 R207, R210). -/
def Obligations.ObjectCommandsActOnTheirEntry : Prop :=
  ((∀ (e : Entry) (s : State), Runs s e 0x40 →
      (let c := newCmd s e 0x40
       let o := opf e.ops 2 0 16
       let x := objOfOps c
       heldBack s c = false → objSetBad c = false → objRuleBad s c.ptn x = false →
       (getObj s c.ptn o).st = .free → x.manifest = 0 → shadowBad s c x = false → objOverlap s c.ptn x = false →
       canPlace s c.ptn x.home x.placeMode x.place (List.range x.pages) = true → shardsHeld s ≤ 1048576 →
       ∃ t, exec (.objSet e) s = .next t ∧ t = { s with rings := t.rings, out := { s.out with hostMem := t.out.hostMem }, ptns := t.ptns, mem := t.mem, free := t.free } ∧
        Ended s t e 0x40 0 0 ∧ getObj t c.ptn o = x ∧ (∀ k, k ≠ o → getObj t c.ptn k = getObj s c.ptn k) ∧ OtherPtns c.ptn s t ∧
        ∀ k, k < x.pages → hasCopy (getPage t c.ptn (pageKey o k)) x.home = true)) ∧
    (∀ (e : Entry) (s : State), Runs s e 0x40 →
      (let c := newCmd s e 0x40
       let o := opf e.ops 2 0 16
       let x := objOfOps c
       let y := getObj s c.ptn o
       heldBack s c = false → objSetBad c = false → objRuleBad s c.ptn x = false → y.st = .valid → y.ctx = c.ctx → x.manifest = y.manifest → shadowBad s c x = false → objChanged x y = false →
       ∃ t, exec (.objSet e) s = .next t ∧ t = { s with rings := t.rings, out := { s.out with hostMem := t.out.hostMem }, ptns := t.ptns } ∧
        Ended s t e 0x40 0 0 ∧ OtherPtns c.ptn s t ∧ (∀ k, k ≠ o → getObj t c.ptn k = getObj s c.ptn k) ∧
        getObj t c.ptn o = { y with pin := x.pin, shared := x.shared, fbKind := x.fbKind, fbDeadline := x.fbDeadline, fbShadow := x.fbShadow })) ∧
    (∀ (e : Entry) (s : State), Runs s e 0x40 →
      (let c := newCmd s e 0x40
       let o := opf e.ops 2 0 16
       let x := objOfOps c
       heldBack s c = false → objSetBad c = false → objRuleBad s c.ptn x = false →
       (getObj s c.ptn o).st = .free → x.manifest = 0 → shadowBad s c x = false → objOverlap s c.ptn x = true →
       ∃ t, exec (.objSet e) s = .next t ∧ t = { s with rings := t.rings, out := { s.out with hostMem := t.out.hostMem } } ∧ Ended s t e 0x40 4 0)) ∧
    (∀ (e : Entry) (s : State), Runs s e 0x40 →
      (let c := newCmd s e 0x40
       let d := homeDie s c.ptn
       moverServes s d = false → (∀ k, k < 8 → k ≠ d → (getDie s k).moverQ = []) →
       ∃ t, exec (.objSet e) s = .next t ∧ t = { s with rings := t.rings, out := { s.out with hostMem := t.out.hostMem }, dies := t.dies } ∧
        Started s t e c ∧ (getDie t d).moverQ = (getDie s d).moverQ ++ [⟨c.ctx, c.ptn, c.ring, c.idx, opf e.ops 2 0 16, 0, true⟩] ∧
        ∀ k, k ≠ d → getDie t k = getDie s k))) ∧
  ((∀ (e : Entry) (s : State), Runs s e 0x41 →
      (let c := newCmd s e 0x41
       let o := opf e.ops 2 0 16
       heldBack s c = false → objGate s c o = none → clearBusy s c.ptn o = false →
       (∀ d, d < 8 → ∀ i ∈ (getDie s d).moverQ, i.whole = false ∧ (i.ring = c.ring → i.idx ≠ c.idx)) →
       ∃ t, exec (.objClear e) s = .next t ∧ (getObj t c.ptn o) = { getObj s c.ptn o with st := .clearing } ∧
        getCmd t e.ring.val (getRing s e.ring.val).head = some { c with phase := .running } ∧ ∀ k, k ≠ o → getObj t c.ptn k = getObj s c.ptn k)) ∧
    (∀ (p : PtnId) (o : ObjId) (s : State), (getObj s p.val o.val).st = .clearing →
      ∃ t, exec (.objClearDone p o) s = .next t ∧ t = { s with ptns := t.ptns, mem := t.mem, rings := t.rings } ∧ OtherPtns p.val s t ∧
        getObj t p.val o.val = {} ∧ (∀ k, k ≠ o.val → getObj t p.val k = getObj s p.val k) ∧
        (∀ k, k < 2 ^ 26 → getPage t p.val (pageKey o.val k) = {}) ∧
        ∀ c, (allCmds s).find? (fun k => k.ptn == p.val && k.opcode == 0x41 && decide (k.phase = .running) && opf k.ops 2 0 16 == o.val) = some c →
          getCmd s c.ring c.idx = some c →
          getCmd t c.ring c.idx = some { c with phase := .done, status := 0, result := w32 (getObj s p.val o.val).pages, todo := [] }) ∧
    (∀ (e : Entry) (s : State), Runs s e 0x42 →
      (let c := newCmd s e 0x42
       let o := opf e.ops 2 0 16
       let n := opf e.ops 4 0 13
       let first := opf e.ops 3 0 26
       let x := getObj s c.ptn o
       heldBack s c = false → 0 < n → n ≤ 4096 → opd e.ops 6 % 64 = 0 → objGate s c o = none → first + n ≤ x.pages → destOk s c.ptn c.ctx (opd e.ops 6) (64 + 16 * n) = true →
       ∃ t, exec (.objQuery e) s = .next t ∧ t = { s with rings := t.rings, out := { s.out with hostMem := t.out.hostMem }, ptns := t.ptns, mem := t.mem } ∧
        Ended s t e 0x42 0 n ∧ OtherPtns c.ptn s t ∧
        t.mem = (writeRange c.ptn (opd e.ops 6) (wordsBytes (objWords x ++
          (List.range n).flatMap fun i => pageWords (getPage s c.ptn (pageKey o (first + i))) (pageRO s c.ptn x (x.base + (first + i) * pageBytes)))) false s).mem)))

/-! ### Movers (07 R213-R216, R223-R230) -/

/-- MIGRATE, INTAKE and VERIFY hand their pages and shards, in order, to the movers that 07 R213 and R451 name, and run; INTAKE makes its shards
PENDING. Stated for idle movers that no command waits for. EVICT by idle movers discards the pages' copies in the named tier, keeps every other copy,
and ends with their number (07 R213). -/
def Obligations.MoverCommandsQueueAndEvict : Prop :=
  ((∀ (e : Entry) (s : State), Runs s e 0x43 → (∀ d, d < 8 → (getDie s d).moverQ = []) →
      (let c := newCmd s e 0x43
       let o := opf e.ops 2 0 16
       let t := migTarget c
       let home (k : Nat) : Nat := match readCopy s c.ptn (getPage s c.ptn (pageKey o k)) none with | some x => dieOfCopy x.1 x.2 | none => homeDie s c.ptn
       heldBack s c = false → rangeBad c = false → placeValid s c.ptn t.1 t.2.1 t.2.2 = true → objGate s c o = none →
       opf e.ops 3 0 26 + opf e.ops 4 0 27 ≤ (getObj s c.ptn o).pages →
       (∀ k ∈ pagesOf c, placedAs s c.ptn t.1 t.2.1 t.2.2 k (getPage s c.ptn (pageKey o k)) = false ∧ home k < 8) →
       ∃ u, exec (.migrate e) s = .next u ∧ u = { s with rings := u.rings, out := { s.out with hostMem := u.out.hostMem }, dies := u.dies, ptns := u.ptns } ∧
        Started s u e { c with phase := .running, todo := pagesOf c } ∧
        ∀ d, d < 8 → (getDie u d).moverQ = ((pagesOf c).filter fun k => home k == d).map fun k => ⟨c.ctx, c.ptn, c.ring, c.idx, o, k, false⟩)) ∧
    (∀ (e : Entry) (s : State), Runs s e 0x45 → (∀ d, d < 8 → (getDie s d).moverQ = []) →
      (let c := newCmd s e 0x45
       let o := opf e.ops 2 0 16
       let mine := (List.range (opf e.ops 4 0 17)).map fun i => opf e.ops 3 0 16 + i
       heldBack s c = false → opd e.ops 6 % 4096 = 0 → 0 < opf e.ops 4 0 17 → objGate s c o = none → opf e.ops 3 0 16 + opf e.ops 4 0 17 ≤ (getObj s c.ptn o).shards.length →
       (∀ i ∈ mine, (getObj s c.ptn o).shards[i]?.map (fun h => h.st) ≠ some .verified) →
       ∃ u, exec (.intake e) s = .next u ∧ u = { s with rings := u.rings, out := { s.out with hostMem := u.out.hostMem }, dies := u.dies, ptns := u.ptns } ∧
        Started s u e { c with phase := .running, todo := mine } ∧
        (∀ i ∈ mine, (getShard u c.ptn o i).map (fun h => h.st) = some .pending) ∧
        ∀ d, d < 8 → (getDie u d).moverQ = (mine.filter fun i => i % 8 == d).map fun i => ⟨c.ctx, c.ptn, c.ring, c.idx, o, i, false⟩)) ∧
    (∀ (e : Entry) (s : State), Runs s e 0x46 → (∀ d, d < 8 → (getDie s d).moverQ = []) →
      (let c := newCmd s e 0x46
       let o := opf e.ops 2 0 16
       let mine := List.range (getObj s c.ptn o).shards.length
       heldBack s c = false → objGate s c o = none → (getObj s c.ptn o).shards ≠ [] →
       ∃ u, exec (.verify e) s = .next u ∧ u = { s with rings := u.rings, out := { s.out with hostMem := u.out.hostMem }, dies := u.dies, ptns := u.ptns } ∧
        Started s u e { c with phase := .running, todo := mine } ∧
        ∀ d, d < 8 → (getDie u d).moverQ = (mine.filter fun i => i % 8 == d).map fun i => ⟨c.ctx, c.ptn, c.ring, c.idx, o, i, false⟩))) ∧
  (∀ (e : Entry) (s : State), Runs s e 0x44 → (∀ d, d < 8 → (getDie s d).moverQ = [] ∧ moverServes s d = true) →
      (let c := newCmd s e 0x44
       let o := opf e.ops 2 0 16
       let k := opf e.ops 5 0 2
       rangeBad c = false → objGate s c o = none → opf e.ops 3 0 26 + opf e.ops 4 0 27 ≤ (getObj s c.ptn o).pages →
       (∀ j ∈ pagesOf c, ([0, 1, 2].any fun u => u != k && hasCopy (getPage s c.ptn (pageKey o j)) u) = true ∧
          ∀ x ∈ allCopies s c.ptn (getPage s c.ptn (pageKey o j)), dieOfCopy x.1 x.2 < 8) →
       ∃ t, exec (.evict e) s = .next t ∧ (∀ j ∈ pagesOf c, hasCopy (getPage t c.ptn (pageKey o j)) k = false ∧
          ∀ u, u ≤ 2 → u ≠ k → hasCopy (getPage t c.ptn (pageKey o j)) u = hasCopy (getPage s c.ptn (pageKey o j)) u) ∧
        (getCmd t e.ring.val (getRing s e.ring.val).head).map (fun x => (x.phase, x.status, x.result)) =
          some (.done, 0, w32 ((pagesOf c).filter fun j => hasCopy (getPage s c.ptn (pageKey o j)) k).length) ∧
        ∀ d, d < 8 → (getDie t d).moverQ = []))

/-- The last page of a MIGRATE: the page has a copy in the target tier, has left TRANSIT, and the command ends with its page count; the mover is idle
again (07 R213). Stated for a page with room in the tier and no other work on the movers. A shard that a mover has finished is judged: VERIFIED when a
copy of it passes and else FAILED, and its command's count moves; the recheck of a returned object's shard judges it likewise. The recheck takes the
shard that is next on its mover, while no VERIFY is (07 R451). Stated outside mirror runs, while DIGEST_MISMATCH keeps its default action LOG (07
R224, R230). -/
def Obligations.FinishedPagesAndShards : Prop :=
  (∀ (p : PtnId) (o : ObjId) (page d : Nat) (i : MoverItem) (k : Cmd) (src : Nat × Nat) (s : State),
      i.ptn = p.val → i.obj = o.val → i.unit = page → i.whole = false → d < 8 → moverServes s d = true → (getDie s d).moverQ = [i] → (∀ q, q < 8 → q ≠ d → (getDie s q).moverQ = []) →
      (getRing s i.ring).started.find? (fun k => k.idx == i.idx) = some k → k.gone = false → k.opcode = 0x43 → k.todo = [page] → k.phase = .running → k.status = 0 → k.failed = 0 →
      (migTarget k).1 ≤ 2 → ((migTarget k).2.1 = 3 → (migTarget k).1 = 0 ∧ qtrsOf s p.val ≠ []) →
      canPlace s p.val (migTarget k).1 (migTarget k).2.1 (migTarget k).2.2 [page] = true → readCopy s p.val (getPage s p.val (pageKey o.val page)) none = some src →
      ∃ t, exec (.migratePageDone p o page) s = .next t ∧ hasCopy (getPage t p.val (pageKey o.val page)) (migTarget k).1 = true ∧
        (getPage t p.val (pageKey o.val page)).transit = none ∧ (getDie t d).moverQ = [] ∧
        getCmd t i.ring i.idx = some { k with phase := .done, todo := [], progress := k.progress + 1, result := w32 (k.progress + 1) } ∧
        ((getObj s p.val o.val).copyUp = false → src.1 ≠ (migTarget k).1 → hasCopy (getPage t p.val (pageKey o.val page)) src.1 = false)) ∧
  ((∀ (p : PtnId) (o : ObjId) (shard d : Nat) (i : MoverItem) (k : Cmd) (h : Shard) (data : List DmaLine) (s : State), policyOf s 0x0404 = 0 → MirrorFree s →
      i.ptn = p.val → i.obj = o.val → i.unit = shard → i.whole = false → d < 8 → moverServes s d = true → (getDie s d).moverQ = [i] → (∀ q, q < 8 → q ≠ d → (getDie s q).moverQ = []) →
      getCmd s i.ring i.idx = some k → k.opcode = 0x45 → k.todo = [shard] → k.phase = .running → k.status = 0 → getShard s p.val o.val shard = some h →
      canDma s (ptnFn s p.val) = true →
      (let x := getObj s p.val o.val
       canPlace s p.val x.home x.placeMode x.place (homeless s p.val o.val h) = true →
       ∃ t, exec (.intakeShardDone p o shard data) s = .next t ∧ (getDie t d).moverQ = [] ∧
        (getShard t p.val o.val shard).map (fun h => h.st) =
          some (if (judgeShard p.val o.val shard (some i.ctx) (writeShard p.val o.val h data s)).2 then .verified else .failed) ∧
        (getCmd t i.ring i.idx).map (fun c => (c.phase, c.progress)) = some (.done, k.progress + 1))) ∧
    (∀ (p : PtnId) (o : ObjId) (shard d : Nat) (i : MoverItem) (k : Cmd) (h : Shard) (s : State), policyOf s 0x0404 = 0 → MirrorFree s →
      i.ptn = p.val → i.obj = o.val → i.unit = shard → i.whole = false → d < 8 → moverServes s d = true → (getDie s d).moverQ = [i] → (∀ q, q < 8 → q ≠ d → (getDie s q).moverQ = []) →
      getCmd s i.ring i.idx = some k → k.opcode = 0x46 → k.todo = [shard] → k.phase = .running → k.status = 0 → getShard s p.val o.val shard = some h →
      ∃ t, exec (.verifyShardDone p o shard) s = .next t ∧ (getDie t d).moverQ = [] ∧
        (getShard t p.val o.val shard).map (fun h => h.st) = some (if (shardCopies s p.val o.val h).any (copyPasses s p.val o.val h) then .verified else .failed) ∧
        (getCmd t i.ring i.idx).map (fun c => (c.phase, c.progress)) = some (.done, k.progress + 1)) ∧
    (∀ (p : PtnId) (o : ObjId) (shard : Nat) (h : Shard) (s : State), policyOf s 0x0404 = 0 → isReady s = true → getShard s p.val o.val shard = some h →
      nextRecheck s (shard % 8) = some (p.val, o.val, shard) → noVerify s (shard % 8) = true → moverServes s (shard % 8) = true →
      ∃ t, exec (.recheckShardDone p o shard) s = .next t ∧
        (getShard t p.val o.val shard).map (fun h => h.st) = some (if (shardCopies s p.val o.val h).any (copyPasses s p.val o.val h) then .verified else .failed) ∧
        t.rings = s.rings ∧ t.dies = s.dies))

/-- A scrub pass starts over every VERIFIED shard, or is late while one runs; without any such shard it is over at once; each rehashed shard leaves it
(07 R226, R232). A corrected error is counted in its tier and for its page, and the page is retired at its sixteenth within 24 hours; an uncorrectable
one is counted and retires its page at once. Stated while both faults keep the default action LOG (07 R227, R229). -/
def Obligations.ScrubsAndMemoryErrors : Prop :=
  ((∀ s : State, isReady s = true → s.mem.scrubInt ≠ 0 → s.mem.scrubRate ≠ 0 → s.mem.scrubOn = false → verifiedShards s ≠ [] →
      exec .scrubPassStart s = .next { s with mem := { s.mem with scrubOn := true, scrubLeft := verifiedShards s } }) ∧
    (∀ s : State, isReady s = true → s.mem.scrubInt ≠ 0 → s.mem.scrubRate ≠ 0 → s.mem.scrubOn = true →
      ∃ t, exec .scrubPassStart s = .next t ∧ Signalled [srcScrubLate] { s with mem := { s.mem with scrubLate := true, scrubDue := true } } t) ∧
    (∀ s : State, isReady s = true → s.mem.scrubInt = 0 ∨ s.mem.scrubRate = 0 → exec .scrubPassStart s = .next s) ∧
    (∀ s : State, isReady s = true → s.mem.scrubInt ≠ 0 → s.mem.scrubRate ≠ 0 → s.mem.scrubOn = false → s.mem.scrubDue = false → verifiedShards s = [] →
      ∃ t, exec .scrubPassStart s = .next t ∧ Signalled [srcScrubPassDone]
        { s with mem := { s.mem with scrubOn := false, scrubLeft := [], scrubPasses := satAdd 32 s.mem.scrubPasses 1 } } t) ∧
    (∀ (p : PtnId) (o : ObjId) (i : Nat) (h : Shard) (s : State), isReady s = true → s.mem.scrubOn = true → (p.val, o.val, i) ∈ s.mem.scrubLeft →
      getShard s p.val o.val i = some h → h.st ≠ .verified → (∃ e ∈ s.mem.scrubLeft, e ≠ (p.val, o.val, i)) →
      exec (.scrubShardDone p o i) s = .next { s with mem := { s.mem with scrubLeft := s.mem.scrubLeft.filter fun e => e != (p.val, o.val, i) } }) ∧
    (∀ (p : PtnId) (o : ObjId) (i : Nat) (h : Shard) (s : State), policyOf s 0x0404 = 0 → isReady s = true → s.mem.scrubOn = true →
      (p.val, o.val, i) ∈ s.mem.scrubLeft → getShard s p.val o.val i = some h → h.st = .verified →
      ∃ t, exec (.scrubShardDone p o i) s = .next t ∧
        (getShard t p.val o.val i).map (fun h => h.st) = some (if (shardCopies s p.val o.val h).any (copyPasses s p.val o.val h) then .verified else .failed) ∧
        (s.mem.scrubLeft.filter (fun e => e != (p.val, o.val, i)) ≠ [] →
          t.mem.scrubLeft = s.mem.scrubLeft.filter (fun e => e != (p.val, o.val, i)) ∧ t.mem.scrubOn = true) ∧
        (s.mem.scrubLeft.filter (fun e => e != (p.val, o.val, i)) = [] → s.mem.scrubDue = false →
          t.mem.scrubOn = false ∧ t.mem.scrubPasses = satAdd 32 s.mem.scrubPasses 1 ∧ isPending t srcScrubPassDone = true))) ∧
  ((∀ (tier : Tier) (phys : Nat) (line : Fin 1024) (s : State), switchedUp s = true →
      (let k := tierNo tier * 2 ^ 32 + phys
       let times := (tget [] s.mem.ceCount k).filter fun x => decide (s.time - x < 86400 * 100000000)
       times.length < 15 → ∃ t, exec (.eccError tier phys line false) s = .next t ∧
        t = { s with mem := { s.mem with ce0 := t.mem.ce0, ce1 := t.mem.ce1, ce2 := t.mem.ce2, ceCount := t.mem.ceCount } } ∧
        t.mem.ce0 + t.mem.ce1 + t.mem.ce2 = (match tier with
          | .t0 => satAdd 32 s.mem.ce0 1 + s.mem.ce1 + s.mem.ce2
          | .t1 => s.mem.ce0 + satAdd 32 s.mem.ce1 1 + s.mem.ce2
          | .t2 => s.mem.ce0 + s.mem.ce1 + satAdd 32 s.mem.ce2 1) ∧
        tget [] t.mem.ceCount k = times ++ [s.time])) ∧
    (∀ (tier : Tier) (phys : Nat) (line : Fin 1024) (s : State), switchedUp s = true → policyOf s 0x0407 = 0 →
      15 ≤ ((tget [] s.mem.ceCount (tierNo tier * 2 ^ 32 + phys)).filter fun x => decide (s.time - x < 86400 * 100000000)).length →
      ∃ t, exec (.eccError tier phys line false) s = .next t ∧ nhas (tierRetired t.mem (tierNo tier)) phys = true) ∧
    (∀ (tier : Tier) (phys : Nat) (line : Fin 1024) (s : State), switchedUp s = true → policyOf s 0x0406 = 0 → policyOf s 0x0407 = 0 →
      ∃ t, exec (.eccError tier phys line true) s = .next t ∧ t.mem.ue = satAdd 32 s.mem.ue 1 ∧ nhas (tierRetired t.mem (tierNo tier)) phys = true ∧
        isPending t srcModuleFault = true))
/-! ### Figure commands (02 R64-R72, R77) -/

/-- FIG_CMD INSTALL starts verification of an EMPTY or INVALID slot and REMOVE empties a slot that is not loaded, with the plan and map bound to it; only
the partition changes (02 R64, R77; 05 R148; 06 R177). LOAD whose checks pass makes the partition LOADING under the next epoch, and one whose checks
fail leaves the state and names the first failed check in FIG_ERR (02 R65, R67, R68, R79). -/
def Obligations.InstallRemoveAndLoadBegin : Prop :=
  ((∀ (fn : FnId) (p : PtnId) (slot : SlotId) (s : State), Served s fn (seesPtn s fn.val p.val) false → (getPtn s p.val).exists_ = true →
      (getPtn s p.val).fig.cmd = none → (getPtn s p.val).fig.st ∈ [FigSt.empty, .ready, .running] → (getSlot s p.val slot.val).st ∈ [SlotState.empty, .invalid] →
      (getPtn s p.val).fig.instAddr % 64 = 0 → rangeNear s p.val (getPtn s p.val).fig.instAddr (max 1 (getPtn s p.val).fig.instSize) = true →
      ∃ t, exec (.install fn p slot) s = .next t ∧ t = { s with ptns := t.ptns } ∧ OtherPtns p.val s t ∧
        getPtn t p.val = { getPtn s p.val with fig := { (getPtn s p.val).fig with
          cmd := some { op := .install, slot := slot.val, back := (getPtn s p.val).fig.st, by_ := none }, slots := (getPtn t p.val).fig.slots } } ∧
        getSlot t p.val slot.val = { st := .verifying, addr := (getPtn s p.val).fig.instAddr, size := (getPtn s p.val).fig.instSize } ∧
        ∀ k, k ≠ slot.val → getSlot t p.val k = getSlot s p.val k) ∧
    (∀ (fn : FnId) (p : PtnId) (slot : SlotId) (s : State), Served s fn (seesPtn s fn.val p.val) false → (getPtn s p.val).exists_ = true →
      (getPtn s p.val).fig.cmd = none → slotLoaded s p.val slot.val = false →
      ∃ t u, exec (.remove fn p slot) s = .next t ∧ u = { s with ptns := u.ptns } ∧ OtherPtns p.val s u ∧ Signalled [srcPtn p.val 0] u t ∧
        getSlot u p.val slot.val = {} ∧ (∀ k, k ≠ slot.val → getSlot u p.val k = getSlot s p.val k) ∧
        tget none (getPtn u p.val).units.plans slot.val = none ∧ tget none (getPtn u p.val).att.maps slot.val = none ∧
        (getPtn u p.val).fig.cmd = none ∧ (getPtn u p.val).fig.errCode = 0 ∧ (getPtn u p.val).fig.st = (getPtn s p.val).fig.st)) ∧
  ((∀ (fn : FnId) (p : PtnId) (slot : SlotId) (f : Figure) (s : State), Served s fn (seesPtn s fn.val p.val) false → (getPtn s p.val).exists_ = true →
      (getPtn s p.val).fig.cmd = none → (getPtn s p.val).fig.st ∈ [FigSt.empty, .ready] → loadCheck s p.val slot.val = .ok f →
      ∃ t, exec (.load fn p slot) s = .next t ∧ t = { s with ptns := t.ptns, mgmt := { s.mgmt with meas := t.mgmt.meas } } ∧ OtherPtns p.val s t ∧
        getPtn t p.val = { getPtn s p.val with fig := { (getPtn s p.val).fig with
          st := .loading
          cmd := some { op := .load, slot := slot.val, back := (getPtn s p.val).fig.st, by_ := none }
          epoch := if (getPtn s p.val).fig.useChain then (getPtn s p.val).fig.chainEpoch else ((getPtn s p.val).fig.epoch + 1) % 65536 } }) ∧
    (∀ (fn : FnId) (p : PtnId) (slot : SlotId) (code info : Nat) (s : State), Served s fn (seesPtn s fn.val p.val) false → (getPtn s p.val).exists_ = true →
      (getPtn s p.val).fig.cmd = none → (getPtn s p.val).fig.st ∈ [FigSt.empty, .ready] → (getSlot s p.val slot.val).st = .valid →
      loadCheck s p.val slot.val = .error (code, info) →
      ∃ t u, exec (.load fn p slot) s = .next t ∧ u = { s with ptns := u.ptns } ∧ OtherPtns p.val s u ∧ Signalled [srcPtn p.val 0] u t ∧
        getPtn u p.val = { getPtn s p.val with fig := { (getPtn s p.val).fig with errCode := code, errSlot := slot.val, errInfo := info } }))

/-- START of a READY partition runs its figure from round 0; DRAIN and SWITCH of a running one make it DRAINING (02 R67, R69, R77). START is stated for an
idle engine without figure work waiting. A FIG_CMD command that its state or slot does not permit changes nothing but FIG_ERR and the figure-done
source (02 R65, R77). -/
def Obligations.StartDrainSwitchAndRefusals : Prop :=
  ((∀ (fn : FnId) (p : PtnId) (s : State), Served s fn (seesPtn s fn.val p.val) false → (getPtn s p.val).exists_ = true →
      (getPtn s p.val).fig.cmd = none → (getPtn s p.val).fig.st = .ready → (getPtn s p.val).fe.mode = .idle → (getPtn s p.val).fe.queue = [] →
      (getPtn s p.val).fe.saved = [] →
      ∃ t u, exec (.start fn p) s = .next t ∧ u = { s with ptns := u.ptns } ∧ OtherPtns p.val s u ∧ Signalled [srcPtn p.val 0] u t ∧
        getPtn u p.val = { getPtn s p.val with
          fig := { (getPtn s p.val).fig with st := .running, rounds := 0, cmd := none, errCode := 0, errSlot := 0, errInfo := 0 }
          cores := tmap {} restCore (getPtn s p.val).cores
          barrier := 0
          flow := {}
          fe := { (getPtn s p.val).fe with next := (getPtn u p.val).fe.next } }) ∧
    (∀ (fn : FnId) (p : PtnId) (s : State), Served s fn (seesPtn s fn.val p.val) false → (getPtn s p.val).exists_ = true →
      (getPtn s p.val).fig.cmd = none → (getPtn s p.val).fig.st = .running →
      ∃ t, exec (.drain fn p) s = .next t ∧ t = { s with ptns := t.ptns, ctxs := t.ctxs } ∧ OtherPtns p.val s t ∧
        getPtn t p.val = { getPtn s p.val with
          fig := { (getPtn s p.val).fig with st := .draining, cmd := some { op := .drain, slot := 0, back := .running, by_ := none } }
          fe := { (getPtn s p.val).fe with mode := (getPtn t p.val).fe.mode, noSave := (getPtn t p.val).fe.noSave } } ∧
        ∀ c, getCtx t c = { getCtx s c with saveUnus := (getCtx t c).saveUnus }) ∧
    (∀ (fn : FnId) (p : PtnId) (slot : SlotId) (s : State), Served s fn (seesPtn s fn.val p.val) false → (getPtn s p.val).exists_ = true →
      (getPtn s p.val).fig.cmd = none → (getPtn s p.val).fig.st = .running → (getSlot s p.val slot.val).st = .valid →
      ∃ t, exec (.switch fn p slot) s = .next t ∧ t = { s with ptns := t.ptns, ctxs := t.ctxs } ∧ OtherPtns p.val s t ∧
        getPtn t p.val = { getPtn s p.val with
          fig := { (getPtn s p.val).fig with st := .draining, cmd := some { op := .switch, slot := slot.val, back := .running, by_ := none } }
          fe := { (getPtn s p.val).fe with mode := (getPtn t p.val).fe.mode, noSave := (getPtn t p.val).fe.noSave } } ∧
        ∀ c, getCtx t c = { getCtx s c with saveUnus := (getCtx t c).saveUnus })) ∧
  (∀ (fn : FnId) (p : PtnId) (slot : SlotId) (s : State) (c : Instr × FigOp × Nat), Served s fn (seesPtn s fn.val p.val) false →
      c ∈ [(Instr.install fn p slot, FigOp.install, slot.val), (.remove fn p slot, .remove, slot.val), (.load fn p slot, .load, slot.val), (.start fn p, .start, 0),
        (.drain fn p, .drain, 0), (.switch fn p slot, .switch, slot.val)] →
      (let x := (getPtn s p.val).fig
       let bad := figStateBad s p.val c.2.2 c.2.1
       bad = true ∨ figSlotBad s p.val c.2.2 c.2.1 x.instAddr x.instSize = true →
       ∃ t u, exec c.1 s = .next t ∧ u = { s with ptns := u.ptns } ∧ OtherPtns p.val s u ∧ Signalled [srcPtn p.val 0] u t ∧
        getPtn u p.val = { getPtn s p.val with fig := { x with errCode := if bad then 0x10 else 0x11, errSlot := c.2.2, errInfo := if bad then 0 else c.2.2 } }))

/-- The figure opcodes act as FIG_CMD does, for the ring that issued them: INSTALL, LOAD, DRAIN and SWITCH run until the figure command
ends, REMOVE and START end with OK, and a context without FIGURE_OPS is answered PERMIT (08 R245, R248). -/
def Obligations.FigureOpcodesActForTheirRing : Prop :=
  (∀ (e : Entry) (s : State) (c : Instr × Nat), c ∈ [(Instr.figInstall e, 0x10), (.figRemove e, 0x11), (.figLoad e, 0x12), (.figStart e, 0x13), (.figDrain e, 0x14), (.figSwitch e, 0x15)] →
    Runs s e c.2 → (getCtx s (newCmd s e c.2).ctx).cur.figOps = false →
    ∃ t, exec c.1 s = .next t ∧ t = { s with rings := t.rings, out := { s.out with hostMem := t.out.hostMem } } ∧ Ended s t e c.2 0x10 0) ∧
  (∀ (e : Entry) (s : State), Runs s e 0x10 →
    (let c := newCmd s e 0x10
     let slot := opf e.ops 2 0 3
     (getCtx s c.ctx).cur.figOps = true → figStateBad s c.ptn slot .install = false → figSlotBad s c.ptn slot .install (opd e.ops 4) (opw e.ops 6) = false →
     ∃ t, exec (.figInstall e) s = .next t ∧ t = { s with rings := t.rings, out := { s.out with hostMem := t.out.hostMem }, ptns := t.ptns } ∧ OtherPtns c.ptn s t ∧
      Started s t e { c with phase := .running } ∧ getSlot t c.ptn slot = { st := .verifying, addr := opd e.ops 4, size := opw e.ops 6 } ∧
      (getPtn t c.ptn).fig.cmd = some { op := .install, slot := slot, back := (getPtn s c.ptn).fig.st, by_ := some (c.ring, c.idx) })) ∧
  (∀ (e : Entry) (s : State), Runs s e 0x11 →
    (let c := newCmd s e 0x11
     let slot := opf e.ops 2 0 3
     (getCtx s c.ctx).cur.figOps = true → figStateBad s c.ptn slot .remove = false → slotLoaded s c.ptn slot = false →
     ∃ t, exec (.figRemove e) s = .next t ∧ OtherPtns c.ptn s t ∧ Ended s t e 0x11 0 slot ∧ getSlot t c.ptn slot = {} ∧ isPending t (srcPtn c.ptn 0) = true)) ∧
  (∀ (e : Entry) (f : Figure) (s : State), Runs s e 0x12 →
    (let c := newCmd s e 0x12
     let slot := opf e.ops 2 0 3
     (getCtx s c.ctx).cur.figOps = true → figStateBad s c.ptn slot .load = false → loadCheck s c.ptn slot = .ok f →
     ∃ t, exec (.figLoad e) s = .next t ∧ OtherPtns c.ptn s t ∧ Started s t e { c with phase := .running } ∧ (getPtn t c.ptn).fig.st = .loading ∧
      (getPtn t c.ptn).fig.cmd = some { op := .load, slot := slot, back := (getPtn s c.ptn).fig.st, by_ := some (c.ring, c.idx) })) ∧
  (∀ (e : Entry) (s : State), Runs s e 0x13 →
    (let c := newCmd s e 0x13
     (getCtx s c.ctx).cur.figOps = true → figStateBad s c.ptn 0 .start = false → (getPtn s c.ptn).fe.mode = .idle → (getPtn s c.ptn).fe.queue = [] →
     (getPtn s c.ptn).fe.saved = [] →
     ∃ t, exec (.figStart e) s = .next t ∧ OtherPtns c.ptn s t ∧ Ended s t e 0x13 0 0 ∧ (getPtn t c.ptn).fig.st = .running ∧ (getPtn t c.ptn).fig.rounds = 0 ∧
      (getPtn t c.ptn).fig.cmd = none)) ∧
  (∀ (e : Entry) (s : State), Runs s e 0x14 →
    (let c := newCmd s e 0x14
     (getCtx s c.ctx).cur.figOps = true → figStateBad s c.ptn 0 .drain = false →
     ∃ t, exec (.figDrain e) s = .next t ∧ OtherPtns c.ptn s t ∧ Started s t e { c with phase := .running } ∧ (getPtn t c.ptn).fig.st = .draining ∧
      (getPtn t c.ptn).fig.cmd = some { op := .drain, slot := 0, back := .running, by_ := some (c.ring, c.idx) })) ∧
  (∀ (e : Entry) (s : State), Runs s e 0x15 →
    (let c := newCmd s e 0x15
     let slot := opf e.ops 2 0 3
     (getCtx s c.ctx).cur.figOps = true → figStateBad s c.ptn slot .switch = false → (getSlot s c.ptn slot).st = .valid →
     ∃ t, exec (.figSwitch e) s = .next t ∧ OtherPtns c.ptn s t ∧ Started s t e { c with phase := .running } ∧ (getPtn t c.ptn).fig.st = .draining ∧
      (getPtn t c.ptn).fig.cmd = some { op := .switch, slot := slot, back := .running, by_ := some (c.ring, c.idx) }))

/-- INSTALL ends with the verdict of its checks: the slot is VALID with its figure, or INVALID with the first failed check in FIG_ERR; LOAD ends with the
figure in the cores, READY, and after a SWITCH RUNNING at round 0; each signals the figure-done source (02 R64, R65, R67). Once every stream buffer is
empty and no work of the partition is outstanding, a drain ends READY with empty buffers, and after a SWITCH goes on to the load; one that its limit
ends leaves the partition FAULTED, its command over, and, at the default action PARTITION, in reset (02 R67, R69, R70; 11 R332, R341). -/
def Obligations.InstallsLoadsAndDrainsEnd : Prop :=
  ((∀ (p : PtnId) (c : FigCmd) (s : State), isReady s = true → (getPtn s p.val).fig.cmd = some c → c.op = .install →
      ∃ t, exec (.installDone p) s = .next t ∧ (getPtn t p.val).fig.cmd = none ∧ isPending t (srcPtn p.val 0) = true ∧ OtherPtns p.val s t ∧
        (∀ k, k ≠ c.slot → getSlot t p.val k = getSlot s p.val k) ∧
        match installVerdict s p.val (getSlot s p.val c.slot) with
        | .ok f => getSlot t p.val c.slot = { getSlot s p.val c.slot with st := .valid, fig := some f } ∧ (getPtn t p.val).fig.errCode = 0
        | .error (code, info) =>
          getSlot t p.val c.slot = { getSlot s p.val c.slot with st := .invalid, err := code } ∧ (getPtn t p.val).fig.errCode = code ∧ (getPtn t p.val).fig.errInfo = info) ∧
    (∀ (p : PtnId) (c : FigCmd) (f : Figure) (s : State), isReady s = true → (getPtn s p.val).fig.cmd = some c → (getPtn s p.val).fig.st = .loading →
      c.op = .load → (getSlot s p.val c.slot).fig = some f →
      ∃ t, exec (.loadDone p) s = .next t ∧ (getPtn t p.val).fig.st = .ready ∧ (getPtn t p.val).figure = some f ∧ (getPtn t p.val).fig.slot = c.slot ∧
        (getPtn t p.val).cores = loadedCores f ∧ (getPtn t p.val).fig.cmd = none ∧ (getPtn t p.val).fig.epoch = (getPtn s p.val).fig.epoch ∧
        isPending t (srcPtn p.val 0) = true ∧ OtherPtns p.val s t) ∧
    (∀ (p : PtnId) (c : FigCmd) (f : Figure) (s : State), isReady s = true → (getPtn s p.val).fig.cmd = some c → (getPtn s p.val).fig.st = .loading →
      c.op = .switch → (getSlot s p.val c.slot).fig = some f → (getPtn s p.val).fe.mode = .idle → (getPtn s p.val).fe.queue = [] → (getPtn s p.val).fe.saved = [] →
      ∃ t, exec (.loadDone p) s = .next t ∧ (getPtn t p.val).fig.st = .running ∧ (getPtn t p.val).figure = some f ∧ (getPtn t p.val).fig.rounds = 0 ∧
        (getPtn t p.val).fig.cmd = none ∧ isPending t (srcPtn p.val 0) = true)) ∧
  ((∀ (p : PtnId) (c : FigCmd) (s : State), isReady s = true → (getPtn s p.val).fig.cmd = some c → c.op = .drain → (getPtn s p.val).fig.st = .draining →
      drained s p.val = true → (getPtn s p.val).fig.staged = none →
      ∃ t, exec (.drainComplete p) s = .next t ∧ (getPtn t p.val).fig.st = .ready ∧ (∀ e ∈ (getPtn t p.val).cores, e.2.bufs = []) ∧ (getPtn t p.val).flow = {} ∧ (getPtn t p.val).fig.cmd = none ∧ (getPtn t p.val).fig.errCode = 0 ∧
        (getPtn t p.val).figure = (getPtn s p.val).figure ∧ isPending t (srcPtn p.val 0) = true) ∧
    (∀ (p : PtnId) (c : FigCmd) (s : State), isReady s = true → (getPtn s p.val).fig.cmd = some c → c.op = .switch → (getPtn s p.val).fig.st = .draining →
      drained s p.val = true → (getPtn s p.val).fig.staged = none →
      ∃ t, exec (.drainComplete p) s = .next t ∧ (∀ e ∈ (getPtn t p.val).cores, e.2.bufs = []) ∧
        (((getPtn t p.val).fig.st = .loading ∧ (getPtn t p.val).fig.cmd.isSome = true) ∨
         ((getPtn t p.val).fig.st = .ready ∧ (getPtn t p.val).fig.cmd = none ∧ (getPtn t p.val).fig.errCode ≠ 0))) ∧
    (∀ (p : PtnId) (buffers : Nat) (s : State), isReady s = true → (getPtn s p.val).fig.st = .draining → (getPtn s p.val).exists_ = true →
      (getPtn s p.val).reset = none → (getPtn s p.val).fig.cmd = some { op := .drain, slot := 0, back := .running, by_ := none } → (getPtn s p.val).fe.run = none →
      policyOf s 0x0203 = 3 →
      ∃ t, exec (.drainTimeout p buffers) s = .next t ∧ (getPtn t p.val).fig.st = .faulted ∧ (getPtn t p.val).fig.cmd = none ∧
        (getPtn t p.val).reset = some (0x0203, 0) ∧ t.flt.n3 = satAdd 32 s.flt.n3 1 ∧
        t.flt.log.head? = some { (faultRec s 0x0203 0 buffers).withPtn p.val with seq := w32 s.flt.seq, time := s.time }))

/-- FIG_COMMIT stages the shadow set while the partition runs, replacing a set already staged; on a stopped partition without a loaded figure an
allowed set takes effect at once (00 R10; 02 R72, R80). A round boundary without a running command counts the round, begins the next one in every
core, and puts the partition's staged context sets into force (00 R10; 02 R67, R83). Stated outside mirror mode and while no PLL is unlocked; that a
success writes SLOT 0 in FIG_ERR is log 43's reading. -/
def Obligations.FigCommitAndTheRoundBoundary : Prop :=
  ((∀ (fn : FnId) (p : PtnId) (s : State), Served s fn (seesPtn s fn.val p.val) false → ptnRuns (getPtn s p.val) = true →
      ∃ t, exec (.figCommit fn p) s = .next t ∧ t = { s with ptns := t.ptns } ∧ OtherPtns p.val s t ∧
        getPtn t p.val = { getPtn s p.val with fig := { (getPtn s p.val).fig with staged := some (getPtn s p.val).fig.sh } }) ∧
    (∀ (fn : FnId) (p : PtnId) (s : State), Served s fn (seesPtn s fn.val p.val) false → ptnRuns (getPtn s p.val) = false → (getPtn s p.val).figure = none →
      settingRefused s p.val (getPtn s p.val).fig.sh.div = none →
      ∃ t, exec (.figCommit fn p) s = .next t ∧ (getPtn t p.val).fig = { (getPtn s p.val).fig with
          cur := (getPtn s p.val).fig.sh, staged := none, errCode := 0, errSlot := 0, errInfo := 0 } ∧
        isPending t (srcPtn p.val 4) = true)) ∧
  (∀ (p : PtnId) (s : State), isReady s = true → ptnRuns (getPtn s p.val) = true → mirroring (getPtn s p.val) = false → c1Runs s p.val = true →
      (getPtn s p.val).fe.run = none → (getPtn s p.val).fig.staged = none →
      ∃ t, exec (.partitionRoundBoundary p) s = .next t ∧ (getPtn t p.val).fig.rounds = (getPtn s p.val).fig.rounds + 1 ∧
        (getPtn t p.val).fig.st = (getPtn s p.val).fig.st ∧
        (getPtn t p.val).cores = tmap {} restCore (getPtn s p.val).cores ∧
        (∀ c, c ∈ ctxsOf s p.val → ∀ y, (getCtx s c).staged = some y → (getCtx t c).cur = y ∧ (getCtx t c).staged = none) ∧
        ∀ c, (getCtx s c).staged = none → (getCtx t c).cur = (getCtx s c).cur)
/-! ### Rounds, flits, barriers (02 R67, R68; 04 R139; 07 R221) -/

/-- A stream flit of the figure's epoch, and of the running command's context, joins its core's buffer; one of another epoch is dropped, counted and
logged; one of another context is a CONTEXT_CROSS, which at the default action PARTITION resets the partition (02 R68; 04 R139). The partition barrier
completes once every core with LAYER_END steps has raised it, and otherwise stays (07 R221); its message of another epoch is dropped like a flit (02
R68). JOIN_IMBALANCE of a starved join without a named snapshot object counts in its quarter and is logged; a queue-depth sample writes its 64 B
record and moves the index (02 R52; 11 R356, R357). Stated while no PLL is unlocked, a flit for a buffer with room, and faults outside mirror mode at
their default actions. -/
def Obligations.StreamsBarriersAndJoins : Prop :=
  ((∀ (p : PtnId) (c i k : Nat) (f : Flit) (g : Figure) (s : State), isReady s = true → ptnRuns (getPtn s p.val) = true → (getPtn s p.val).figure = some g →
      c1Runs s p.val = true → f.epoch = (getPtn s p.val).fig.epoch → (∀ r, (getPtn s p.val).fe.run = some r → f.ctx = r.ctx) → i < stepCount g c →
      0 < bufRoom g s p.val c (inputPat (coreStep g c i) k) →
      ∃ t, exec (.streamFlit p (.core c i k) f) s = .next t ∧ t = { s with ptns := t.ptns } ∧ OtherPtns p.val s t ∧
        coreBuf t p.val c (inputPat (coreStep g c i) k) = coreBuf s p.val c (inputPat (coreStep g c i) k) ++ [f] ∧
        (∀ q, q ≠ inputPat (coreStep g c i) k → coreBuf t p.val c q = coreBuf s p.val c q) ∧ ∀ d, d ≠ c → getCore t p.val d = getCore s p.val d) ∧
    (∀ (p : PtnId) (c i k : Nat) (f : Flit) (s : State), isReady s = true → ptnRuns (getPtn s p.val) = true → f.epoch ≠ (getPtn s p.val).fig.epoch →
      mirroring (getPtn s p.val) = false → c1Runs s p.val = true → policyOf s 0x0202 = 0 → ∃ t u, exec (.streamFlit p (.core c i k) f) s = .next t ∧ u = { s with ptns := u.ptns } ∧ OtherPtns p.val s u ∧
        getPtn u p.val = { getPtn s p.val with fig := { (getPtn s p.val).fig with epochDrops := satAdd 32 (getPtn s p.val).fig.epochDrops 1 } } ∧
        Signalled [srcPtn p.val 1] (logged ((faultRec s 0x0202 c ((getPtn s p.val).fig.epoch + 65536 * f.epoch)).withPtn p.val) u) t) ∧
    (∀ (p : PtnId) (c i k : Nat) (f : Flit) (r : Running) (s : State), isReady s = true → ptnRuns (getPtn s p.val) = true → (getPtn s p.val).exists_ = true →
      c1Runs s p.val = true → (getPtn s p.val).reset = none → f.epoch = (getPtn s p.val).fig.epoch → (getPtn s p.val).fe.run = some r → f.ctx ≠ r.ctx → policyOf s 0x0204 = 3 →
      ∃ t, exec (.streamFlit p (.core c i k) f) s = .next t ∧ (getPtn t p.val).fig.st = .faulted ∧ (getPtn t p.val).reset = some (0x0204, 0) ∧
        t.flt.log.head? = some { (faultRec s 0x0204 c (pack [(0, 3, i), (4, 12, r.ctx), (16, 12, f.ctx)])).withPtn p.val with seq := w32 s.flt.seq, time := s.time })) ∧
  (∀ (p : PtnId) (k : Fin 65536) (e : Rt) (s : State), isReady s = true → rtOf s p.val = some e → c1Runs s p.val = true → k.val = (getPtn s p.val).fig.epoch →
      (let n := (getPtn s p.val).barrier
       let u := runSteps e none (some n) (roundFuel e.f) s
       (n < barriersDone e.f u p.val → ∃ t, exec (.partitionBarrier ⟨p, k⟩) s = .next t ∧ t = { u with ptns := t.ptns } ∧ OtherPtns p.val u t ∧
         getPtn t p.val = { getPtn u p.val with barrier := n + 1 }) ∧
       (barriersDone e.f u p.val ≤ n → exec (.partitionBarrier ⟨p, k⟩) s = .next u))) ∧
  (∀ (p : PtnId) (k : Fin 65536) (s : State), isReady s = true → ptnRuns (getPtn s p.val) = true → mirroring (getPtn s p.val) = false → c1Runs s p.val = true →
      k.val ≠ (getPtn s p.val).fig.epoch → policyOf s 0x0202 = 0 →
      ∃ t u, exec (.partitionBarrier ⟨p, k⟩) s = .next t ∧ u = { s with ptns := u.ptns } ∧ OtherPtns p.val s u ∧
        getPtn u p.val = { getPtn s p.val with fig := { (getPtn s p.val).fig with epochDrops := satAdd 32 (getPtn s p.val).fig.epochDrops 1 } } ∧
        Signalled [srcPtn p.val 1] (logged ((faultRec s 0x0202 0 ((getPtn s p.val).fig.epoch + 65536 * k.val)).withPtn p.val) u) t) ∧
  ((∀ (p : PtnId) (core join q : Nat) (f : Figure) (s : State), isReady s = true → ptnRuns (getPtn s p.val) = true → (getPtn s p.val).figure = some f →
      mirroring (getPtn s p.val) = false → c1Runs s p.val = true → joinStarved f s p.val core join = true →
      (getPtn s p.val).flt.snapFull = false → (getPtn s p.val).flt.snapNamed = false → (figQtrs s p.val)[core / 2560]? = some q → policyOf s 0x0201 = 0 →
      ∃ t u, exec (.joinImbalance p core join) s = .next t ∧ u = { s with qtrs := u.qtrs } ∧
        getQtr u q = { getQtr s q with joinEvents := satAdd 16 (getQtr s q).joinEvents 1 } ∧ (∀ k, k ≠ q → getQtr u k = getQtr s k) ∧
        Signalled [srcPtn p.val 1] (logged ((faultRec s 0x0201 core (pack [(0, 16, join), (16, 2, 1)])).withPtn p.val) u) t) ∧
    (∀ (p : PtnId) (s : State), isReady s = true → ptnRuns (getPtn s p.val) = true → c1Runs s p.val = true → (getPtn s p.val).flt.qsEnable = true →
      (let x := (getPtn s p.val).flt
       let o := getObj s p.val x.cur.qsObj
       let n := o.pages * pageBytes / 64
       ownWritable s p.val x.cur.qsObj 64 = true → ownWritable s p.val x.cur.qsObj (64 * (x.qsNext % n) + 64) = true →
       ∃ t, exec (.qsSample p) s = .next t ∧ t = { s with ptns := t.ptns, mem := t.mem, evc := t.evc, fns := t.fns, out := t.out } ∧
        t.mem = (writeRange p.val (o.base + 64 * (x.qsNext % n)) (qsRecord s p.val) false s).mem ∧
        (getPtn t p.val).flt = { x with qsIndex := x.qsNext, qsNext := w32 (x.qsNext + 1) } ∧
        ((x.qsNext + 1) % n = 0 → isPending t (srcPtn p.val 6) = true) ∧ OtherPtns p.val s t)))
/-! ### Start-up, pins and power-down (14 R400-R408; 13 R397; 11 R342, R344) -/

/-- Start-up follows the stage table: ROM on power-up, STANDBY or RECOVERY_WAIT by the image's checks, then POWER_UP, REPAIR, TRAINING, INIT and
READY (14 R400, R403, R405, R406, R413; 12 R445). What the always-on domain loses is the model's reading (log 2). -/
def Obligations.StartUpFollowsTheStageTable : Prop :=
  (∀ (slot : Fin 16) (s : State), s.boot.aon = false →
    ∃ t, exec (.aonPowerUp slot) s = .next t ∧ t.boot.stage = .rom ∧ t.boot.aon = true ∧ t.boot.slotId = slot.val ∧ t.fuses = s.fuses ∧ t.pending = s.pending ∧
      t.evc.pend = [4, 6, 7] ∧ t.flt = {} ∧ t.mem = {} ∧ t.ptns = [] ∧ (s.boot.flashBusy = false → t.boot.flash = s.boot.flash)) ∧
  (∀ s : State, s.boot.aon = true → s.boot.stage ∈ [Stage.rom, .verify] →
    (let n := leNat (mread s.boot.flash 12 4)
     n ≤ 0x800000 →
     ∃ t, exec .bootVerify s = .next t ∧
      match fwCheck s.fuses (mread s.boot.flash 0 n) n with
      | .ok i =>
        t = { s with
          boot := { s.boot with
            stage := .standby, failCode := 0, recovered := false, keySlot := i.slot, version := i.version, imgSvn := i.svn, raiseSvn := i.raise, imgDigest := i.digest
            sram := s.boot.flash, sramSize := n }
          mgmt := { s.mgmt with meas := t.mgmt.meas, aliasBase := t.mgmt.aliasBase }, evc := t.evc } ∧
        t.mgmt.aliasBase = tget (List.replicate 32 0) t.mgmt.meas 2 ∧ tget [] t.mgmt.meas 1 = Config.bootRomDigest ∧ tget [] t.mgmt.meas 2 = i.digest ∧ tget [] t.mgmt.meas 4 = measureKeys s.fuses ∧
        (∀ m ∈ [0x000, 0x001, 0x00D, 0x00E, 0x011, 0x012, 0x0A0], srcCfg t m = { target := 10 }) ∧
        (∀ e ∈ callerRoutes, srcCfg t e.1 = { filter := if isCondition e.1 then 10 else 1, edge := isCondition e.1, prio := e.2, target := 1, index := e.1, fn := 0 } ∧
          isUnmasked t e.1 = true) ∧
        srcCfg t 0x015 = { target := 11 } ∧ isUnmasked t 0x015 = true ∧ (getTgt t 1).mie = true
      | .error c =>
        ∃ u, u = { s with
          boot := { s.boot with stage := .recoveryWait, failCode := c }
          out := { s.out with mctp := ⟨0x0E, 0, 0, leBytes 4 (modBootWord u)⟩ :: s.out.mctp } } ∧
        Signalled [srcMctpTxDone] u t)) ∧
  (∀ s : State, s.boot.aon = true → s.boot.stage = .standby →
    ∃ t, exec .powerUp s = .next t ∧
      t = { s with boot := { s.boot with stage := .powerUp }, pwr := { s.pwr with railsOn := true, breaker := false }, dies := t.dies } ∧
      ∀ d, getDie t d = if d < 8 then { getDie s d with pll := true, unlockAged := false } else getDie s d) ∧
  (∀ s : State, s.boot.stage = .powerUp → (∀ d, d < 8 → (getDie s d).pll = true) →
    ∃ t, exec .powerUpComplete s = .next t ∧
      t = { s with boot := { s.boot with stage := .repair }, qtrs := t.qtrs, dies := t.dies, evc := { s.evc with tgts := t.evc.tgts } } ∧
      (∀ q, getQtr t q = if q < 32 then { getQtr s q with railOn := true, mv := 540, mvTarget := 540, selfTest := true } else getQtr s q) ∧
      ∀ d, d < 8 → (getTgt t (d + 2)).mie = true ∧ (getTgt t (d + 2)).sleeping = true ∧ (getDie t d).hbFrom = s.time) ∧
  (∀ s : State, s.boot.stage = .training →
    ∃ t, exec (.trainingDone none) s = .next t ∧ t = { s with boot := { s.boot with stage := .init } }) ∧
  (∀ (e : TrainPart) (s : State), s.boot.stage = .training →
    ∃ t u v, exec (.trainingDone (some e)) s = .next t ∧ SwitchedOff .failed s v ∧
      u = { v with
        boot := { v.boot with failCode := match e with | .hbm h => 0x20 + h.val | .lpddr p => 0x30 + p.val }
        out := { v.out with mctp := ⟨0x0E, 0, 0, leBytes 4 (modBootWord u)⟩ :: v.out.mctp } } ∧
      Signalled [srcMctpTxDone] u t) ∧
  (∀ s : State, s.boot.stage = .init →
    ∃ t u, exec .initDone s = .next t ∧
      u = { s with
        boot := { s.boot with stage := .ready }
        mem := { s.mem with t0 := [], t1 := [] }
        fuses := { s.fuses with svn := if s.boot.raiseSvn then max s.fuses.svn s.boot.imgSvn else s.fuses.svn }
        fab := { s.fab with ports := u.fab.ports }
        mgmt := { s.mgmt with aliasBase := tget (List.replicate 32 0) s.mgmt.meas 2 }
        out := { s.out with mctp := ⟨0x0E, 0, 0, leBytes 4 (modBootWord u)⟩ :: s.out.mctp } } ∧
      (∀ n, getPort u n = if s.fab.valid && decide (n < 18) && (getPort s n).enable && decide ((getPort s n).st = .off) then { getPort s n with st := .detect } else getPort s n) ∧
      Signalled (srcMctpTxDone :: ((List.range 18).filter fun n => s.fab.valid && (getPort s n).enable && decide ((getPort s n).st = .off)).map srcPort) u t)

/-- Repair writes MOD_QTR_AVAIL and MOD_SET_REPAIR by the repair rules, reports withheld sets in records of their own, and leads to TRAINING;
in a module reset the reset goes on (01 R31-R33; 14 R400; 11 R342). The fuse map is a free value (log 1); the default action is LOG. -/
def Obligations.RepairSetsTheCoreMapsAndQuarters : Prop :=
  ∀ (found : List SelfTest) (s : State), s.boot.stage ∈ [Stage.repair, .resetting] → policyOf s 0x0101 = 0 →
    ∃ t, exec (.repairDone found) s = .next t ∧ t.boot.stage = (if s.boot.stage = .repair then .training else .resetting) ∧
      (∀ n, n < 640 → getSet t n = repairSet n ((found.find? fun x => x.set == n).getD ⟨n, [], []⟩)) ∧
      (∀ q, q < 32 → (bit t.qtrAvail q = true ↔ ∀ n, n < 640 → n / 20 = q → (getSet t n).withheld = false)) ∧
      (∀ q, q < 32 → (getQtr t q).railOn = false ∧ (getQtr t q).selfTest = false) ∧ (∀ d, d < 8 → isPending t (srcDie d 4) = true) ∧
      (∀ n, n < 640 → (getSet t n).withheld = true → isPending t srcModuleFault = true ∧
        ∃ r ∈ t.flt.log, r.code = 0x0101 ∧ r.index = n ∧ r.qtr = some (n / 20) ∧ r.die = some (n / 80)) ∧
      t.ptns = s.ptns ∧ t.ctxs = s.ctxs ∧ t.rings = s.rings ∧ t.fuses = s.fuses ∧ t.mem = s.mem

/-- HARD_RST_N, PWR_EN, COOL_OK, the flash write and the loss of the always-on domain act by stage (14 R400, R407, R408; 13 R396, R397; 11 R337, R344;
15 R437). PIN_RESET without a reset has ACTION 0 (log 16); the default actions are MODULE and POWER. -/
def Obligations.PinsAndPowerActByStage : Prop :=
  (∀ s : State, s.boot.stage = .ready → policyOf s 0x0902 = 4 →
    ∃ t, exec .hardRstN s = .next t ∧ ModuleResetBegan s t ∧ ∃ r ∈ t.flt.log, r = { faultRec s 0x0902 0 0 with seq := w32 s.flt.seq, time := s.time }) ∧
  (∀ s : State, s.boot.stage ∈ [Stage.powerUp, .repair, .training, .init] →
    ∃ t w, exec .hardRstN s = .next t ∧
      SwitchedOff .powerUp (recordFault { faultRec s 0x0902 0 0 with action := 0 } s) w ∧
      t = { w with pwr := { w.pwr with railsOn := true }, dies := t.dies } ∧ ∀ d, d < 8 → (getDie t d).pll = true) ∧
  (∀ s : State, s.boot.aon = true → s.boot.stage ∈ [Stage.rom, .verify, .recoveryWait, .standby, .failed, .resetting] →
    ∃ t, exec .hardRstN s = .next t ∧ Signalled [srcModuleFault] (logged { faultRec s 0x0902 0 0 with action := 0 } s) t) ∧
  (∀ s : State, s.boot.aon = true → s.boot.stage ∈ [Stage.powerUp, .repair, .training, .init, .ready, .resetting, .failed] →
    ∃ t, exec .pwrEnDeasserted s = .next t ∧
      SwitchedOff .standby { s with pwr := { s.pwr with breaker := false }, flt := { s.flt with cycleReq := false } } t) ∧
  (∀ s : State, s.boot.aon = true → s.boot.stage ∈ [Stage.rom, .verify, .recoveryWait, .standby] →
    ∃ t, exec .pwrEnDeasserted s = .next t ∧
      t = { s with pwr := { s.pwr with breaker := false }, flt := { s.flt with cycleReq := false }, mem := t.mem } ∧
      (s.boot.stage = .standby → t.mem = { s.mem with retired0 := [], retired1 := [], retired2 := [], unlisted := [] }) ∧
      (s.boot.stage ≠ .standby → t.mem = s.mem)) ∧
  (∀ s : State, switchedUp s = true → policyOf s 0x0808 = 5 →
    ∃ t, exec .coolantLost s = .next t ∧ PoweredOff 0x0808 t ∧ Recorded (faultRec s 0x0808 0 0) s t ∧ Snapped s t) ∧
  (∀ s : State, s.boot.flashBusy = true →
    ∃ t, exec .flashWriteDone s = .next t ∧
      t = { s with boot := { s.boot with flash := s.boot.sram, flashSize := s.boot.sramSize, flashBusy := false } }) ∧
  (∀ s : State, ∃ t, exec .alwaysOnLoss s = .next t ∧ t.boot.aon = false ∧ t.boot.stage = .rom ∧ t.fuses = s.fuses ∧ t.pending = s.pending ∧ t.ptns = [] ∧
      t.rings = [] ∧ t.mem = {} ∧ t.flt = {} ∧ t.time = 0)
/-! ### Plans, maps and directories (05 R144-R147, R148, R160-R167; 06 R177; 07 R222) -/

/-- BIND and UNBIND of plans and maps start with the address and size that their registers hold and end with their checks: a failed BIND leaves what
was bound, and STATE, a slot that is not VALID or is loaded, comes last; an UNBIND of such a slot is refused with code 8 (05 R148, R151; 06 R177,
R179). That a poisoned table is BAD_FORMAT is the model's reading (log 29). -/
def Obligations.PlanAndMapBindingsStartAndEnd : Prop :=
  (∀ (fn : FnId) (p : PtnId) (slot : SlotId) (s : State) (bind : Bool), Served s fn (seesPtn s fn.val p.val) false → (getPtn s p.val).units.binding = none →
    bind = true ∨ bindRefused s p.val slot.val = false →
    ∃ t, exec (if bind then .planBind fn p slot else .planUnbind fn p slot) s = .next t ∧ t = { s with ptns := t.ptns } ∧ OtherPtns p.val s t ∧
      getPtn t p.val = { getPtn s p.val with units := { (getPtn s p.val).units with
        binding := some (newBinding s p.val slot.val bind (getPtn s p.val).units.addr (getPtn s p.val).units.size) } }) ∧
  (∀ (fn : FnId) (p : PtnId) (slot : SlotId) (s : State), Served s fn (seesPtn s fn.val p.val) false → (getPtn s p.val).units.binding = none →
    bindRefused s p.val slot.val = true →
    ∃ t u, exec (.planUnbind fn p slot) s = .next t ∧ u = { s with ptns := u.ptns } ∧ OtherPtns p.val s u ∧
      Signalled [srcPtn p.val 2] u t ∧ getPtn u p.val = { getPtn s p.val with units := { (getPtn s p.val).units with code := 8, info := slot.val } }) ∧
  (∀ (p : PtnId) (b : Binding) (s : State), isReady s = true → (getPtn s p.val).units.binding = some b → b.bind = true →
    ∃ t u, exec (.planBindDone p) s = .next t ∧ u = { s with ptns := u.ptns } ∧ OtherPtns p.val s u ∧ Signalled [srcPtn p.val 2] u t ∧
      (let x := (getPtn s p.val).units
       (match tableVerdict (fun t => planCheck (getSlot s p.val b.slot).fig b.slot t b.addr b.size) s p.val b with
        | .ok k => getPtn u p.val = { getPtn s p.val with units := { x with code := 0, info := 0, binding := none, plans := tset none b.slot (some k) x.plans } }
        | .error e => getPtn u p.val = { getPtn s p.val with units := { x with code := e.1, info := e.2, binding := none } }) ∧
       (b.refused = true ∨ bindRefused s p.val b.slot = true → (getPtn u p.val).units.plans = x.plans))) ∧
  (∀ (p : PtnId) (b : Binding) (s : State), isReady s = true → (getPtn s p.val).units.binding = some b → b.bind = false → bindRefused s p.val b.slot = false →
    ∃ t u, exec (.planBindDone p) s = .next t ∧ u = { s with ptns := u.ptns } ∧ OtherPtns p.val s u ∧ Signalled [srcPtn p.val 2] u t ∧
      getPtn u p.val = { getPtn s p.val with
        units := { (getPtn s p.val).units with code := 0, info := 0, binding := none, plans := tset none b.slot none (getPtn s p.val).units.plans } }) ∧
  (∀ (fn : FnId) (p : PtnId) (slot : SlotId) (s : State) (bind : Bool), Served s fn (seesPtn s fn.val p.val) false → (getPtn s p.val).att.binding = none →
    bind = true ∨ bindRefused s p.val slot.val = false →
    ∃ t, exec (if bind then .mapBind fn p slot else .mapUnbind fn p slot) s = .next t ∧ t = { s with ptns := t.ptns } ∧ OtherPtns p.val s t ∧
      getPtn t p.val = { getPtn s p.val with att := { (getPtn s p.val).att with
        binding := some (newBinding s p.val slot.val bind (getPtn s p.val).att.mapAddr (getPtn s p.val).att.mapSize) } }) ∧
  (∀ (fn : FnId) (p : PtnId) (slot : SlotId) (s : State), Served s fn (seesPtn s fn.val p.val) false → (getPtn s p.val).att.binding = none →
    bindRefused s p.val slot.val = true →
    ∃ t u, exec (.mapUnbind fn p slot) s = .next t ∧ u = { s with ptns := u.ptns } ∧ OtherPtns p.val s u ∧
      Signalled [srcPtn p.val 3] u t ∧ getPtn u p.val = { getPtn s p.val with att := { (getPtn s p.val).att with code := 8, info := slot.val } }) ∧
  (∀ (p : PtnId) (b : Binding) (s : State), isReady s = true → (getPtn s p.val).att.binding = some b → b.bind = true →
    ∃ t u, exec (.mapBindDone p) s = .next t ∧ u = { s with ptns := u.ptns } ∧ OtherPtns p.val s u ∧ Signalled [srcPtn p.val 3] u t ∧
      (let x := (getPtn s p.val).att
       (match tableVerdict (fun t => mapCheck (getSlot s p.val b.slot).fig b.slot t b.addr b.size) s p.val b with
        | .ok k => getPtn u p.val = { getPtn s p.val with att := { x with code := 0, info := 0, binding := none, maps := tset none b.slot (some k) x.maps } }
        | .error e => getPtn u p.val = { getPtn s p.val with att := { x with code := e.1, info := e.2, binding := none } }) ∧
       (b.refused = true ∨ bindRefused s p.val b.slot = true → (getPtn u p.val).att.maps = x.maps))) ∧
  (∀ (p : PtnId) (b : Binding) (s : State), isReady s = true → (getPtn s p.val).att.binding = some b → b.bind = false → bindRefused s p.val b.slot = false →
    ∃ t u, exec (.mapBindDone p) s = .next t ∧ u = { s with ptns := u.ptns } ∧ OtherPtns p.val s u ∧ Signalled [srcPtn p.val 3] u t ∧
      getPtn u p.val = { getPtn s p.val with
        att := { (getPtn s p.val).att with code := 0, info := 0, binding := none, maps := tset none b.slot none (getPtn s p.val).att.maps } })

/-- ADAPTER_SET and STEER_SET create an entry, change only ALPHA of a VALID adapter, and are refused with the first reason that holds; a changed ALPHA
waits for the open batches of the context (05 R144-R147, R165, R166). ADAPTER_CLEAR and STEER_CLEAR refuse an entry that is not VALID with 0x0A and
another context's with 0x03; otherwise the entry is RETIRING while a standing row names it, and FREE, its command ended, when none does (05 R146,
R165). -/
def Obligations.DirectorySetsAndClears : Prop :=
  ((∀ (e : Entry) (st : Nat) (s : State), Runs s e 0x30 →
      (let c := newCmd s e 0x30
       adapterRefused (begun s e 0x30) c (getAdapter s (opf e.ops 2 0 16)) (adapterOf c) = some st →
       ∃ t, exec (.adapterSet e) s = .next t ∧ t = { s with rings := t.rings, out := { s.out with hostMem := t.out.hostMem } } ∧ Ended s t e 0x30 st 0)) ∧
    (∀ (e : Entry) (s : State), Runs s e 0x30 →
      (let c := newCmd s e 0x30
       let a := opf e.ops 2 0 16
       adapterRefused (begun s e 0x30) c (getAdapter s a) (adapterOf c) = none → (getAdapter s a).st = .free →
       ∃ t, exec (.adapterSet e) s = .next t ∧ t = { s with rings := t.rings, out := { s.out with hostMem := t.out.hostMem }, adapters := t.adapters } ∧ Ended s t e 0x30 0 0 ∧
        getAdapter t a = adapterOf c ∧ ∀ b, b ≠ a → getAdapter t b = getAdapter s b)) ∧
    (∀ (e : Entry) (s : State), Runs s e 0x30 →
      (let c := newCmd s e 0x30
       let a := opf e.ops 2 0 16
       adapterRefused (begun s e 0x30) c (getAdapter s a) (adapterOf c) = none → (getAdapter s a).st = .valid →
       ∃ t, exec (.adapterSet e) s = .next t ∧ t = { s with rings := t.rings, out := { s.out with hostMem := t.out.hostMem }, adapters := t.adapters } ∧
        getAdapter t a = { getAdapter s a with alpha := (adapterOf c).alpha, oldAlpha := (getAdapter t a).oldAlpha } ∧ (∀ b, b ≠ a → getAdapter t b = getAdapter s b) ∧
        (if batchesOfCtx s c.ctx = [] then Ended s t e 0x30 0 0 else Started s t e { c with phase := .waiting }))) ∧
    (∀ (e : Entry) (st : Nat) (s : State), Runs s e 0x32 →
      (let c := newCmd s e 0x32
       steerRefused c (getSteer s (opf e.ops 2 0 16)) (steerOf c) = some st →
       ∃ t, exec (.steerSet e) s = .next t ∧ t = { s with rings := t.rings, out := { s.out with hostMem := t.out.hostMem } } ∧ Ended s t e 0x32 st 0)) ∧
    (∀ (e : Entry) (s : State), Runs s e 0x32 →
      (let c := newCmd s e 0x32
       let a := opf e.ops 2 0 16
       steerRefused c (getSteer s a) (steerOf c) = none →
       ∃ t, exec (.steerSet e) s = .next t ∧ t = { s with rings := t.rings, out := { s.out with hostMem := t.out.hostMem }, steers := t.steers } ∧ Ended s t e 0x32 0 0 ∧
        getSteer t a = (if (getSteer s a).st = .valid then getSteer s a else steerOf c) ∧ ∀ b, b ≠ a → getSteer t b = getSteer s b))) ∧
  ((∀ (e : Entry) (s : State), Runs s e 0x31 →
      (let c := newCmd s e 0x31
       let o := getAdapter s (opf e.ops 2 0 16)
       (o.st ≠ .valid ∨ o.ctx ≠ c.ctx) →
       ∃ t, exec (.adapterClear e) s = .next t ∧ t = { s with rings := t.rings, out := { s.out with hostMem := t.out.hostMem } } ∧
        Ended s t e 0x31 (if o.st ≠ .valid then 0x0A else 3) 0)) ∧
    (∀ (e : Entry) (s : State), Runs s e 0x31 →
      (let c := newCmd s e 0x31
       let a := opf e.ops 2 0 16
       let named := (standing s).any fun d => !d.aNone && d.adapter == a
       (getAdapter s a).st = .valid → (getAdapter s a).ctx = c.ctx →
       ∃ t, exec (.adapterClear e) s = .next t ∧
        t = { s with rings := t.rings, out := { s.out with hostMem := t.out.hostMem }, adapters := t.adapters, steers := t.steers } ∧
        (getAdapter t a).st = (if named then .retiring else .free) ∧
        getCmd t e.ring.val (getRing s e.ring.val).head = some (if named then { c with phase := .waiting } else { c with phase := .done }))) ∧
    (∀ (e : Entry) (s : State), Runs s e 0x33 →
      (let c := newCmd s e 0x33
       let o := getSteer s (opf e.ops 2 0 16)
       (o.st ≠ .valid ∨ o.ctx ≠ c.ctx) →
       ∃ t, exec (.steerClear e) s = .next t ∧ t = { s with rings := t.rings, out := { s.out with hostMem := t.out.hostMem } } ∧
        Ended s t e 0x33 (if o.st ≠ .valid then 0x0A else 3) 0)) ∧
    (∀ (e : Entry) (s : State), Runs s e 0x33 →
      (let c := newCmd s e 0x33
       let a := opf e.ops 2 0 16
       let named := (standing s).any fun d => !d.sNone && d.steer == a
       (getSteer s a).st = .valid → (getSteer s a).ctx = c.ctx →
       ∃ t, exec (.steerClear e) s = .next t ∧
        t = { s with rings := t.rings, out := { s.out with hostMem := t.out.hostMem }, adapters := t.adapters, steers := t.steers } ∧
        (getSteer t a).st = (if named then .retiring else .free) ∧
        getCmd t e.ring.val (getRing s e.ring.val).head = some (if named then { c with phase := .waiting } else { c with phase := .done }))))

/-- A gathered piece or vector that the segment at work or one of the three after it calls for joins its partner unit's region behind what those segments
keep there, and is counted; one already held is only used again, and one without room waits (05 R160, R161, R167). The reads that bring it are stated
clean: no access fault and no unverified shard. A late fetch takes the fallback of its object, if the kind applies, counts it and marks the rows whose
result it changes; an object without a fallback, one that is another's shadow, and a fetch that is over leave everything as it is (05 R163; 07 R222). -/
def Obligations.GathersAndLateFetches : Prop :=
  ((∀ (p : PtnId) (set a i b : Nat) (k : Plan) (x : Piece) (r : Running) (s : State), isReady s = true → stepBatch s p.val = some b → (getPtn s p.val).fe.run = some r →
      loadedPlan s p.val = some k → k.pieces[i]? = some x → x.set = set → (getAdapter s a).st ≠ .free → (getAdapter s a).planTag = k.tag →
      (let w := getPartner s p.val set
       let e := getAdapter s a
       let ent := (a, i, e.rank)
       let g := engineRead s p.val e.ctx (some (setQuarter s p.val set)) (e.body + e.rank * x.offset) (e.rank * pieceUnits k x)
       let room := makeFit (fun y : Nat × Nat × Nat => adapterUse s p.val w.seg y.1) (fun y => pieceBytes k y.2.2 y.2.1) 229376 32 (pieceBytes k e.rank i) w.seg
         (adapterUse s p.val w.seg a) w.pieces
       adapterUse s p.val w.seg a ≤ w.seg + 3 →
       (ent ∈ w.pieces → ∃ t, exec (.gatherDone p set (.piece a i)) s = .next t ∧ t = { s with ptns := t.ptns } ∧ OtherPtns p.val s t ∧
        (∀ n, n ≠ set → getPartner t p.val n = getPartner s p.val n) ∧ getPartner t p.val set = { w with pieces := w.pieces.erase ent ++ [ent] }) ∧
       (ent ∉ w.pieces → room = none → exec (.gatherDone p set (.piece a i)) s = .next s) ∧
       (∀ kept, ent ∉ w.pieces → room = some kept → g.refuse = [] → g.unver = [] →
        ∃ t, exec (.gatherDone p set (.piece a i)) s = .next t ∧ t = { s with ptns := t.ptns, adapters := t.adapters } ∧ OtherPtns p.val s t ∧
        (∀ n, n ≠ set → getPartner t p.val n = getPartner s p.val n) ∧ (getPartner t p.val set).pieces = kept ++ [ent] ∧ (∀ y ∈ kept, y ∈ w.pieces) ∧
        getAdapter t a = (if rangeT0 s p.val (e.body + e.rank * x.offset) (e.rank * pieceUnits k x) none then e else { e with cold := satAdd 32 e.cold 1 }) ∧
        ∀ n, n ≠ a → getAdapter t n = getAdapter s n))) ∧
    (∀ (p : PtnId) (set n l b : Nat) (r : Running) (s : State), isReady s = true → stepBatch s p.val = some b → (getPtn s p.val).fe.run = some r →
      (getSteer s n).st ≠ .free → l < (getSteer s n).layers → steersSet s p.val set l = true →
      (let w := getPartner s p.val set
       let e := getSteer s n
       let g := engineRead s p.val e.ctx (some (setQuarter s p.val set)) (e.base + l * steerVec e) (e.width * steerElem e)
       let room := makeFit (fun y : Nat × Nat => steerUse s p.val w.seg y.1) (fun _ => 16384) 32768 2 16384 w.seg (steerUse s p.val w.seg n) w.vectors
       steerUse s p.val w.seg n ≤ w.seg + 3 →
       ((n, l) ∈ w.vectors → ∃ t, exec (.gatherDone p set (.steering n l)) s = .next t ∧ t = { s with ptns := t.ptns } ∧ OtherPtns p.val s t ∧
        getPartner t p.val set = { w with vectors := w.vectors.erase (n, l) ++ [(n, l)] }) ∧
       (∀ kept, (n, l) ∉ w.vectors → room = some kept → g.refuse = [] → g.unver = [] →
        ∃ t, exec (.gatherDone p set (.steering n l)) s = .next t ∧ t = { s with ptns := t.ptns } ∧ OtherPtns p.val s t ∧
        (getPartner t p.val set).vectors = kept ++ [(n, l)] ∧ kept.length ≤ 1 ∧ ∀ y ∈ kept, y ∈ w.vectors)))) ∧
  ((∀ (p : PtnId) (o : ObjId) (what : FetchKind) (s : State), isReady s = true →
      ((getObj s p.val o.val).fbKind = 0 ∨ (getObj s p.val o.val).st ≠ .valid ∨ isShadow s p.val o.val = true ∨ fetchOpen s p.val what = false) →
      exec (.fetchDeadline p o what) s = .next s) ∧
    (∀ (p : PtnId) (o : ObjId) (n m b : Nat) (d : Bool) (r : Running) (s : State), isReady s = true → (getObj s p.val o.val).st = .valid → isShadow s p.val o.val = false →
      (getPtn s p.val).fe.run = some r → stepBatch s p.val = some b → (getObj s p.val o.val).fbKind = 1 → shadowReady s p.val (getObj s p.val o.val) = true →
      ∃ t, exec (.fetchDeadline p o (.port n d m)) s = .next t ∧ t = { s with ptns := t.ptns } ∧ OtherPtns p.val s t ∧
        (getPtn t p.val).fe.run = some { r with fb := r.fb ++ [.portShadow n m] } ∧
        (getPtn t p.val).mem.fbShadow = satAdd 32 (getPtn s p.val).mem.fbShadow 1 ∧
        ∀ x, (getBatch s p.val b).step = some x → ∃ y, (getBatch t p.val b).step = some y ∧ ∀ i ∈ rowsNow s p.val, i ∈ y.fallback) ∧
    (∀ (p : PtnId) (o : ObjId) (row slot blk m b : Nat) (r : Running) (x : BStep) (s : State), isReady s = true → (getObj s p.val o.val).st = .valid →
      isShadow s p.val o.val = false → (getPtn s p.val).fe.run = some r → stepBatch s p.val = some b → (getBatch s p.val b).step = some x →
      (getObj s p.val o.val).fbKind = 2 → holdsPool s p.val (getObj s p.val o.val) = true →
      ∃ t, exec (.fetchDeadline p o (.page row slot blk m)) s = .next t ∧ t = { s with ptns := t.ptns } ∧ OtherPtns p.val s t ∧
        (getBatch t p.val b).step = some { x with late := x.late ++ [(row, slot, blk)] } ∧
        (getPtn t p.val).mem.fbRecompute = satAdd 32 (getPtn s p.val).mem.fbRecompute 1 ∧ (getPtn t p.val).fe = (getPtn s p.val).fe) ∧
    (∀ (p : PtnId) (o : ObjId) (n m b : Nat) (r : Running) (x : BStep) (s : State), isReady s = true → (getObj s p.val o.val).st = .valid → isShadow s p.val o.val = false →
      (getPtn s p.val).fe.run = some r → stepBatch s p.val = some b → (getBatch s p.val b).step = some x → (getObj s p.val o.val).fbKind = 3 →
      ∃ t, exec (.fetchDeadline p o (.port n true m)) s = .next t ∧ t = { s with ptns := t.ptns } ∧ OtherPtns p.val s t ∧
        (getPtn t p.val).fe.run = some { r with fb := r.fb ++ [.portZero n m] } ∧ (getBatch t p.val b).step = some { x with skipDraft := true } ∧
        (getPtn t p.val).mem.fbSkipDraft = satAdd 32 (getPtn s p.val).mem.fbSkipDraft 1) ∧
    (∀ (p : PtnId) (o : ObjId) (set a i m b : Nat) (r : Running) (x : BStep) (k : Plan) (y : Piece) (s : State), isReady s = true → (getObj s p.val o.val).st = .valid →
      isShadow s p.val o.val = false → (getPtn s p.val).fe.run = some r → stepBatch s p.val = some b → (getBatch s p.val b).step = some x → (getObj s p.val o.val).fbKind = 4 →
      (getCtx s (getBatch s p.val b).ctx).cur.baseNoAd = true → loadedPlan s p.val = some k → k.pieces[i]? = some y → fetchOpen s p.val (.gather set a i m) = true →
      (let new := (rowsOfGather s p.val set a).filter fun j => !x.skips.contains (y.group, j)
       ∃ t z, exec (.fetchDeadline p o (.gather set a i m)) s = .next t ∧ t = { s with ptns := t.ptns } ∧ OtherPtns p.val s t ∧
        (getBatch t p.val b).step = some z ∧ z.skips = x.skips ++ new.map (fun j => (y.group, j)) ∧ (∀ j ∈ new, j ∈ z.fallback) ∧
        (getPtn t p.val).mem.fbNoAdapter = satAdd 32 (getPtn s p.val).mem.fbNoAdapter 1 ∧
        (getPtn t p.val).units.fbRows = satAdd 32 (getPtn s p.val).units.fbRows new.length)))
/-! ### The figure engine's work (08 R250-R257; 06 R197, R198) -/

/-- FIG_RUN, BATCH_RUN and RECOMPUTE read what they need and join the queue of their partition's figure engine while it is taken; FIG_RUN and BATCH_RUN
begin at once when it is free, and a new turn pays its context's debt; a TARGET or step count of 0, and a bad port table, end with FORMAT (08 R245, R246, R250, R251, R252; 06
R197). A slice's end makes the command give way to a ready context of its priority or higher, or begins a new slice; at a bow point with a save area
the engine saves, and leftovers are BOW_STATE; the save frees the engine, the gap's end serves, and a restore takes the cores back from the save
area's memory and runs on, or stops again for a drain (02 R69; 08 R251-R257). Stated while no PLL is unlocked; BOW_STATE at its default action LOG
outside mirror runs. -/
def Obligations.FigureWorkSlicesAndSaves : Prop :=
  ((∀ (e : Entry) (s : State), Runs s e 0x16 → opw e.ops 2 = 0 →
      ∃ t, exec (.figRun e) s = .next t ∧ t = { s with rings := t.rings, out := { s.out with hostMem := t.out.hostMem } } ∧ Ended s t e 0x16 2 0) ∧
    (∀ (e : Entry) (s : State), Runs s e 0x16 → opw e.ops 2 ≠ 0 →
      (∀ st, readDesc (begun s e 0x16) (newCmd s e 0x16) (opd e.ops 4) 8192 = .error st →
        ∃ t, exec (.figRun e) s = .next t ∧ t = { s with rings := t.rings, out := { s.out with hostMem := t.out.hostMem } } ∧ Ended s t e 0x16 st 0) ∧
      (∀ b, readDesc (begun s e 0x16) (newCmd s e 0x16) (opd e.ops 4) 8192 = .ok b → ((pieces 16 512 b).map decPort).any portBad = true →
        ∃ t, exec (.figRun e) s = .next t ∧ t = { s with rings := t.rings, out := { s.out with hostMem := t.out.hostMem } } ∧ Ended s t e 0x16 2 0)) ∧
    (∀ (e : Entry) (b : List Byte) (s : State), Runs s e 0x16 → opw e.ops 2 ≠ 0 →
      (let c := newCmd s e 0x16
       let ps := (pieces 16 512 b).map decPort
       let w := workOf c (opw e.ops 2) ps 0
       readDesc (begun s e 0x16) c (opd e.ops 4) 8192 = .ok b → ps.any portBad = false →
       (engineTaken s c.ptn c.ctx = true →
        ∃ t, exec (.figRun e) s = .next t ∧ t = { s with rings := t.rings, out := { s.out with hostMem := t.out.hostMem }, ptns := t.ptns } ∧ Started s t e c ∧ OtherPtns c.ptn s t ∧
          getPtn t c.ptn = { getPtn s c.ptn with fe := { (getPtn s c.ptn).fe with queue := (getPtn s c.ptn).fe.queue ++ [w] } }) ∧
       (EngineFree s c.ptn →
        ∃ t, exec (.figRun e) s = .next t ∧ t = { s with rings := t.rings, out := { s.out with hostMem := t.out.hostMem }, ptns := t.ptns, ctxs := t.ctxs } ∧
          Started s t e { c with phase := .running } ∧ OtherPtns c.ptn s t ∧ OtherCtxs c.ctx s t ∧
          getCtx t c.ctx = { getCtx s c.ctx with
            debt := if (getPtn s c.ptn).fe.turn = some c.ctx then (getCtx s c.ctx).debt else (getCtx s c.ctx).debt - sliceCycles s c.ctx } ∧
          (getPtn t c.ptn).fe.mode = .run ∧ (getPtn t c.ptn).fe.run = some w ∧ (getPtn t c.ptn).fe.queue = []))) ∧
    (∀ (e : Entry) (s : State), Runs s e 0x21 →
      (let c := newCmd s e 0x21
       let b := opf e.ops 2 0 6
       let x := getBatch s c.ptn b
       let w := workOf c (opf e.ops 3 0 16) x.ports b
       (opf e.ops 3 0 16 = 0 ∨ x.open_ = false ∨ x.ctx ≠ c.ctx →
        ∃ t, exec (.batchRun e) s = .next t ∧ t = { s with rings := t.rings, out := { s.out with hostMem := t.out.hostMem } } ∧
          Ended s t e 0x21 (if opf e.ops 3 0 16 = 0 then 2 else if x.open_ then 3 else 0x11) 0) ∧
       (opf e.ops 3 0 16 ≠ 0 → x.open_ = true → x.ctx = c.ctx → engineTaken s c.ptn c.ctx = true →
        ∃ t, exec (.batchRun e) s = .next t ∧ t = { s with rings := t.rings, out := { s.out with hostMem := t.out.hostMem }, ptns := t.ptns } ∧ Started s t e c ∧ OtherPtns c.ptn s t ∧
          getPtn t c.ptn = { getPtn s c.ptn with fe := { (getPtn s c.ptn).fe with queue := (getPtn s c.ptn).fe.queue ++ [w] } }) ∧
       (opf e.ops 3 0 16 ≠ 0 → x.open_ = true → x.ctx = c.ctx → EngineFree s c.ptn → x.step = none →
        ∃ t, exec (.batchRun e) s = .next t ∧ OtherPtns c.ptn s t ∧ (getPtn t c.ptn).fe.mode = .run ∧ (getPtn t c.ptn).fe.run = some w ∧
          getCmd t c.ring c.idx = some { c with phase := .running } ∧
          (getBatch t c.ptn b).step = some { passNo := if x.desc.maxDraft = 0 then 0 else 1 }))) ∧
    (∀ (e : Entry) (s : State), Runs s e 0x28 →
      (let c := newCmd s e 0x28
       let a := opd e.ops 2
       (loadedMap s c.ptn = none →
        ∃ t, exec (.recompute e) s = .next t ∧ t = { s with rings := t.rings, out := { s.out with hostMem := t.out.hostMem } } ∧ Ended s t e 0x28 0x0D 0) ∧
       (∀ m, loadedMap s c.ptn = some m → tableMine s c a = true → tableOk s c.ptn c.ctx a (some m) = true → (readTab s c.ptn a).recomputing = false →
        (hasMissing (readTab s c.ptn a) (kvP m.d m.kvFmt) = false →
          ∃ t, exec (.recompute e) s = .next t ∧ t = { s with rings := t.rings, out := { s.out with hostMem := t.out.hostMem } } ∧ Ended s t e 0x28 0 0) ∧
        (∀ b, hasMissing (readTab s c.ptn a) (kvP m.d m.kvFmt) = true → readDesc (begun s e 0x28) c (opd e.ops 4) 8192 = .ok b →
          ((pieces 16 512 b).map decPort).any portBad = false → engineTaken s c.ptn c.ctx = true →
          ∃ t, exec (.recompute e) s = .next t ∧ t = { s with rings := t.rings, out := { s.out with hostMem := t.out.hostMem }, ptns := t.ptns, mem := t.mem } ∧ Started s t e c ∧
            OtherPtns c.ptn s t ∧ (getPtn t c.ptn).fe.queue = (getPtn s c.ptn).fe.queue ++ [workOf c 0 ((pieces 16 512 b).map decPort) 0] ∧
            t.mem = (modTab c.ptn a (fun h => { h with recomputing := true }) s).mem))))) ∧
  ((∀ (p : PtnId) (r : Running) (s : State), isReady s = true → (getPtn s p.val).fe.mode = .run → (getPtn s p.val).fe.run = some r →
      (let other := (readyCtxs s p.val).any fun c => c != r.ctx && decide ((getCtx s r.ctx).cur.prio ≤ (getCtx s c).cur.prio)
       let slice := some ((getPtn s p.val).fe.sliceEnd.getD s.time)
       (other = false →
        ∃ t, exec (.sliceEnd p) s = .next t ∧ t = { s with ctxs := t.ctxs } ∧ OtherCtxs r.ctx s t ∧
          getCtx t r.ctx = { getCtx s r.ctx with debt := (getCtx s r.ctx).debt - sliceCycles s r.ctx }) ∧
       (other = true → (getPtn s p.val).fe.noSave = false → (hasBows s p.val = false ∨ (saveArea s p.val r.ctx).isSome = true) →
        ∃ t, exec (.sliceEnd p) s = .next t ∧ t = { s with ptns := t.ptns } ∧ OtherPtns p.val s t ∧
          getPtn t p.val = { getPtn s p.val with fe := { (getPtn s p.val).fe with mode := .stopping false, turn := none, sliceEnd := slice } }) ∧
       (other = true → (getPtn s p.val).fe.noSave = false → hasBows s p.val = true → saveArea s p.val r.ctx = none →
        ∃ t, exec (.sliceEnd p) s = .next t ∧ t = { s with ptns := t.ptns, ctxs := t.ctxs } ∧ OtherPtns p.val s t ∧ OtherCtxs r.ctx s t ∧
          getCtx t r.ctx = { getCtx s r.ctx with saveUnus := true } ∧
          getPtn t p.val = { getPtn s p.val with fe := { (getPtn s p.val).fe with noSave := true, turn := none, sliceEnd := slice } }))) ∧
    (∀ (p : PtnId) (s : State), isReady s = true → (getPtn s p.val).fe.run = none →
      ∃ t, exec (.sliceEnd p) s = .next t ∧ t = { s with ptns := t.ptns } ∧ OtherPtns p.val s t ∧
        getPtn t p.val = { getPtn s p.val with fe := { (getPtn s p.val).fe with turn := none } }) ∧
    (∀ (p : PtnId) (rep : Option Nat) (e : Rt) (park : Bool) (i : Nat) (x : BowPoint) (s : State), isReady s = true → ptnRuns (getPtn s p.val) = true → c1Runs s p.val = true →
      rtOf s p.val = some e → (getPtn s p.val).fe.mode = .stopping park → nextBow e.f s p.val = some (i, x) →
      (let s1 := runSteps e (some x.position) none (roundFuel e.f) s
       allAt e.f s1 p.val x.position = true → pipesIdle s1 p.val = true →
       (∀ c, (rep <|> leftoverCore e.f s1 p.val x) = some c → policyOf s1 0x0205 = 0 → MirrorFree s1 → ptnOfCtx s1 e.run.ctx < 32 →
        ∃ t, exec (.preemptStop p rep) s = .next t ∧ Signalled [srcPtn (ptnOfCtx s1 e.run.ctx) 1]
          (logged (((faultRec s1 0x0205 e.run.idx c).withCtx s1 e.run.ctx).withRing e.run.ring) s1) t) ∧
       ((rep <|> leftoverCore e.f s1 p.val x) = none → e.run.opcode ≠ 0x21 →
        ∃ t, exec (.preemptStop p rep) s = .next t ∧
          (if (saveArea s1 p.val e.run.ctx).isSome then (getPtn t p.val).fe.mode = .saving i park
           else (getPtn t p.val).fe.mode = .run ∧ (getPtn t p.val).fe.noSave = true ∧ (getCtx t e.run.ctx).saveUnus = true)))) ∧
    (∀ (p : PtnId) (i : Nat) (park : Bool) (r : Running) (f : Figure) (k : Cmd) (s : State), isReady s = true → (getPtn s p.val).fe.mode = .saving i park → (getPtn s p.val).fe.run = some r →
      (getPtn s p.val).figure = some f → getCmd s r.ring r.idx = some k → (getPtn s p.val).pwr.parkWant = false →
      (let o := getObj s p.val (getCtx s r.ctx).cur.saveObj
       inTransit s p.val o.base (o.pages * pageBytes) = false) →
      ∃ t v, exec (.saveDone p) s = .next t ∧ (getPtn t p.val).fe.run = none ∧ (getPtn t p.val).fe.saved = (getPtn s p.val).fe.saved ++ [v] ∧ v.run = r ∧
        v.epoch = (getPtn s p.val).fig.epoch ∧ v.point = i ∧ v.area = some (getCtx s r.ctx).cur.saveObj ∧ v.cores.map (fun c => c.core) = figCores f ∧
        getCmd t r.ring r.idx = some { k with phase := .saved } ∧ (getCtx t r.ctx).preempts = satAdd 32 (getCtx s r.ctx).preempts 1 ∧ OtherPtns p.val s t) ∧
    (∀ (p : PtnId) (s : State), isReady s = true → (getPtn s p.val).fe.mode = .gap →
      ((getPtn s p.val).fe.queue = [] → (getPtn s p.val).fe.saved = [] →
        ∃ t, exec (.switchGapEnd p) s = .next t ∧ t = { s with ptns := t.ptns } ∧ OtherPtns p.val s t ∧
          getPtn t p.val = { getPtn s p.val with fe := { (getPtn s p.val).fe with mode := .idle, next := (getPtn t p.val).fe.next } }) ∧
      (∀ r k, (getPtn s p.val).fe.queue = [r] → (getPtn s p.val).fe.saved = [] → canServe s p.val = true → (getCtx s r.ctx).st = .enabled → getCmd s r.ring r.idx = some k →
        r.opcode = 0x16 →
        ∃ t, exec (.switchGapEnd p) s = .next t ∧ (getPtn t p.val).fe.mode = .run ∧ (getPtn t p.val).fe.run = some r ∧ (getPtn t p.val).fe.queue = [] ∧
          getCmd t r.ring r.idx = some { k with phase := .running } ∧ OtherPtns p.val s t)) ∧
    (∀ (p : PtnId) (v : Saved) (s : State), isReady s = true → (getPtn s p.val).fe.mode = .restoring → (getPtn s p.val).fe.resume = some v →
      ∃ t, exec (.restoreDone p) s = .next t ∧ (getPtn t p.val).fe.run = some v.run ∧ (getPtn t p.val).fe.resume = none ∧
        OtherPtns p.val s t ∧ (getPtn t p.val).cores = (getPtn (takeBack p.val v s) p.val).cores ∧ (getPtn t p.val).barrier = v.barrier ∧
        (getPtn t p.val).flow = { (getPtn s p.val).flow with moved := v.moved } ∧
        (∀ n, n ∉ v.cores.map (fun c => c.core) → getCore t p.val n = getCore s p.val n) ∧
        ((getPtn s p.val).fig.st ≠ .draining → topPrio s (readyCtxs s p.val) ≤ (getCtx s v.run.ctx).cur.prio → (getPtn t p.val).fe.mode = .run) ∧
        ((getPtn s p.val).fig.st = .draining → (hasBows s p.val = false ∨ (saveArea s p.val v.run.ctx).isSome = true) →
          (getPtn t p.val).fe.mode = .stopping false)))
/-- A finished chunk extends the sequence and either ends RECOMPUTE with the positions it rebuilt or goes on with the next chunk; KV_RELEASE
returns a sequence's pages and ends with their number (06 R197, R198). -/
def Obligations.RecomputeAndReleaseEndWithTheirCounts : Prop :=
  (∀ (p : PtnId) (r : Running) (ch : Nat × Nat) (k : Cmd) (s : State), isReady s = true → (getPtn s p.val).fe.run = some r → r.chunk = some ch → getCmd s r.ring r.idx = some k →
    r.opcode = 0x28 → feRuns (getPtn s p.val).fe = true → ceilDiv ch.2 (chunkPerRound s p.val) ≤ r.round → r.late = [] →
    inTransit s p.val (opd k.ops 2) 64 = false →
    (let a := opd k.ops 2
     let top := ch.1 + ch.2
     let n : Running := { r with chunk := none, done := r.done + ch.2, units := r.units + 1, base := r.base + r.round, round := 0, late := [] }
     let s1 := modRun p.val (fun _ => n) (pastChunk s p.val a top)
     ((readTab s1 p.val a).logLen ≤ top + 1 → (getPtn s p.val).pwr.parkWant = false →
      ∃ t, exec (.recomputeChunkDone p) s = .next t ∧ (getPtn t p.val).fe.run = none ∧ t.mem = (recomputeEnd p.val a s1).mem ∧
        getCmd t r.ring r.idx = some { k with phase := .done, status := 0, result := w32 (r.done + ch.2), todo := [] }) ∧
     (∀ c s2, top + 1 < (readTab s1 p.val a).logLen → (getPtn s p.val).fe.mode = .run → alternate s1 p.val n = none → nextChunk p.val k s1 = (some c, true, s2) →
      ∃ t, exec (.recomputeChunkDone p) s = .next t ∧ (getPtn t p.val).fe.run = some { n with chunk := some c } ∧ getCmd t r.ring r.idx = some k))) ∧
  (∀ (e : Entry) (s : State), Runs s e 0x29 →
    (let c := newCmd s e 0x29
     let a := opd e.ops 2
     let h := readTab s c.ptn a
     let n := ((List.range (h.lh * h.blocks)).filter fun i => entValid (readEnt s c.ptn a i)).length
     (tableMine s c a = false →
      ∃ t, exec (.kvRelease e) s = .next t ∧ t = { s with rings := t.rings, out := { s.out with hostMem := t.out.hostMem } } ∧ Ended s t e 0x29 0x0D 0) ∧
     (tableMine s c a = true → (rowNames s c.ptn a || h.recomputing) = true →
      ∃ t, exec (.kvRelease e) s = .next t ∧ t = { s with rings := t.rings, out := { s.out with hostMem := t.out.hostMem } } ∧ Ended s t e 0x29 7 0) ∧
     (tableMine s c a = true → (rowNames s c.ptn a || h.recomputing) = false →
      ∃ t, exec (.kvRelease e) s = .next t ∧
        t = { s with rings := t.rings, out := { s.out with hostMem := t.out.hostMem }, ptns := t.ptns, ctxs := t.ctxs, mem := t.mem } ∧ Ended s t e 0x29 0 n ∧ OtherPtns c.ptn s t ∧
        OtherCtxs c.ctx s t ∧ getCtx t c.ctx = { getCtx s c.ctx with held := (getCtx s c.ctx).held - n } ∧
        (getPtn t c.ptn).att.seqs = (getPtn s c.ptn).att.seqs.filter (fun q => q.2 != a) ∧ ∀ i ∈ (getPtn t c.ptn).att.poolUsed, i ∈ (getPtn s c.ptn).att.poolUsed)))

/-! ### Batches, masks and records (09 R263-R270, R277-R279, R288-R295) -/

/-- BATCH_OPEN reads the descriptor and opens the batch under the next generation, which it returns; ROW_SET replaces rows at once, or at the boundary of
the step in progress (08 R246; 09 R263, R266-R270). Stated with the row faults at their default actions, outside mirror runs. BATCH_CLOSE waits for the
boundary of a step in progress, or closes the batch at once, which ends its waiting and saved BATCH_RUNs; CANCEL also advances the generation (08 R246;
09 R263, R295; 10 R325). -/
def Obligations.BatchesOpenReplaceAndClose : Prop :=
  ((∀ (e : Entry) (s : State), Runs s e 0x20 →
      (let c := newCmd s e 0x20
       let b := opf e.ops 2 0 6
       ((getBatch s c.ptn b).open_ = true ∨ 8 ≤ (openBatches s c.ptn).length →
        ∃ t, exec (.batchOpen e) s = .next t ∧ t = { s with rings := t.rings, out := { s.out with hostMem := t.out.hostMem } } ∧
          Ended s t e 0x20 (if (getBatch s c.ptn b).open_ then 0x11 else 6) 0) ∧
       (∀ h bs pb, (getBatch s c.ptn b).open_ = false → (openBatches s c.ptn).length < 8 → RowPolicies s → MirrorFree s → readDesc (begun s e 0x20) c (opd e.ops 4) 64 = .ok h → headBad h = false →
        readDesc (begun s e 0x20) c (opd e.ops 4) (rowsOff h + 64 * bits (wordAt h 1) 0 13) = .ok bs → vmapBad bs = false → slotMismatch s c.ptn (decBDesc bs) = false →
        readDesc (begun s e 0x20) c (opd e.ops 6) 8192 = .ok pb → ((pieces 16 512 pb).map decPort).any portBad = false →
        (let es := pieces 64 (decBDesc bs).rows (bs.drop (rowsOff bs))
         es.any (rowBad (decBDesc bs).maxDraft) = false → ringsOk s c.ctx (es.map decRow) = true →
         ∃ t, exec (.batchOpen e) s = .next t ∧ OtherPtns c.ptn s t ∧ (getBatch t c.ptn b).open_ = true ∧ (getBatch t c.ptn b).ctx = c.ctx ∧
          (getBatch t c.ptn b).gen = ((getBatch s c.ptn b).gen + 1) % 65536 ∧ (getBatch t c.ptn b).desc = decBDesc bs ∧
          (getBatch t c.ptn b).ports = (pieces 16 512 pb).map decPort ∧ (getBatch t c.ptn b).step = none ∧
          (∀ r d, (es.map decRow)[r]? = some d → (getRow (getBatch t c.ptn b) r).desc = d) ∧
          getCmd t c.ring c.idx = some { c with phase := .done, result := ((getBatch s c.ptn b).gen + 1) % 65536 })))) ∧
    (∀ (e : Entry) (bs : List Byte) (s : State), Runs s e 0x22 →
      (let c := newCmd s e 0x22
       let b := opf e.ops 2 0 6
       let n := opf e.ops 3 0 13
       let x := getBatch s c.ptn b
       let ns := (pieces 2 n bs).map leNat
       let es := pieces 64 n (bs.drop (alignUp (2 * n) 64))
       0 < n → n ≤ 4096 → x.open_ = true → x.ctx = c.ctx → readList (begun s e 0x22) c (opd e.ops 4) (alignUp (2 * n) 64 + 64 * n) = .ok bs →
       distinct ns = true → (∀ r ∈ ns, r < x.desc.rows) → es.any (rowBad x.desc.maxDraft) = false → ringsOk s c.ctx (es.map decRow) = true →
       (x.step.isSome = true →
        ∃ t, exec (.rowSet e) s = .next t ∧ t = { s with rings := t.rings, out := { s.out with hostMem := t.out.hostMem }, ptns := t.ptns } ∧
          Started s t e { c with phase := .waiting } ∧ OtherPtns c.ptn s t ∧
          getBatch t c.ptn b = { x with rowSets := x.rowSets ++ [(c.ring, c.idx, ns.zip (es.map decRow))] }) ∧
       (x.step = none → x.rowSets = [] → RowPolicies s → MirrorFree s →
        ∃ t, exec (.rowSet e) s = .next t ∧ OtherPtns c.ptn s t ∧ (getBatch t c.ptn b).open_ = true ∧ (getBatch t c.ptn b).gen = x.gen ∧ (getBatch t c.ptn b).rowSets = [] ∧
          (∀ d ∈ ns.zip (es.map decRow), (getRow (getBatch t c.ptn b) d.1).desc = d.2) ∧ (∀ r, r ∉ ns → (getRow (getBatch t c.ptn b) r).desc = (getRow x r).desc) ∧
          getCmd t c.ring c.idx = some { c with phase := .done, result := n })))) ∧
  (∀ (e : Entry) (s : State), Runs s e 0x23 →
      (let c := newCmd s e 0x23
       let b := opf e.ops 2 0 6
       let x := getBatch s c.ptn b
       (x.open_ = false ∨ x.ctx ≠ c.ctx ∨ x.closing.isSome = true ∨ x.cancel.isSome = true →
        ∃ t, exec (.batchClose e) s = .next t ∧ t = { s with rings := t.rings, out := { s.out with hostMem := t.out.hostMem } } ∧
          Ended s t e 0x23 (if x.open_ && x.ctx != c.ctx then 3 else 0x11) 0) ∧
       (x.open_ = true → x.ctx = c.ctx → x.closing = none → x.cancel = none → opf e.ops 2 8 1 = 0 → x.step.isSome = true →
        ∃ t, exec (.batchClose e) s = .next t ∧ t = { s with rings := t.rings, out := { s.out with hostMem := t.out.hostMem }, ptns := t.ptns } ∧
          Started s t e { c with phase := .waiting } ∧ OtherPtns c.ptn s t ∧ getBatch t c.ptn b = { x with closing := some (c.ring, c.idx) }) ∧
       (x.open_ = true → x.ctx = c.ctx → x.closing = none → x.cancel = none → opf e.ops 2 8 1 = 0 → x.step = none → x.rowSets = [] →
        ∃ t, exec (.batchClose e) s = .next t ∧ OtherPtns c.ptn s t ∧ getBatch t c.ptn b = { gen := x.gen } ∧
          (getPtn t c.ptn).fe.queue = (getPtn s c.ptn).fe.queue.filter (fun r => !(r.opcode == 0x21 && r.batch == b)) ∧
          (getPtn t c.ptn).fe.saved = (getPtn s c.ptn).fe.saved.filter (fun v => !(v.run.opcode == 0x21 && v.run.batch == b)) ∧
          getCmd t c.ring c.idx = some { c with phase := .done }) ∧
       (x.open_ = true → x.ctx = c.ctx → x.closing = none → x.cancel = none → opf e.ops 2 8 1 = 1 → x.step.isSome = true → stepRuns s c.ptn b = true →
        ∃ t, exec (.batchClose e) s = .next t ∧ t = { s with rings := t.rings, out := { s.out with hostMem := t.out.hostMem }, ptns := t.ptns } ∧
          Started s t e { c with phase := .waiting } ∧ OtherPtns c.ptn s t ∧ getBatch t c.ptn b = { x with cancel := some (c.ring, c.idx) }) ∧
       (x.open_ = true → x.ctx = c.ctx → x.closing = none → x.cancel = none → opf e.ops 2 8 1 = 1 → (getPtn s c.ptn).fe.run = none → (getPtn s c.ptn).fe.resume = none →
        (getPtn s c.ptn).fe.saved = [] → x.rowSets = [] → (∀ r ∈ (getPtn s c.ptn).fe.queue, (r.ring, r.idx) ≠ (c.ring, c.idx)) →
        ∃ t, exec (.batchClose e) s = .next t ∧ OtherPtns c.ptn s t ∧ getBatch t c.ptn b = { gen := (x.gen + 1) % 65536 } ∧
          getCmd t c.ring c.idx = some { c with phase := .done })))

/-- A batch step boundary counts the step: the command ends with its steps when it has them all, otherwise the next step begins; a row whose DEADLINE has
passed is DEAD, and a closing batch closes (09 R264, R266, R295; 08 R250). Stated with the row faults at their default actions, outside mirror runs.
MASK_SET stores a checked table under its id for its context; MASK_CLEAR frees it, unless a standing row names it; both wait while the mask engine is
in reset (11 R340); a ring's oldest pending record goes out when the ring has room (09 R277-R279, R294). -/
def Obligations.StepBoundariesMasksAndRecords : Prop :=
  (∀ (p : PtnId) (r : Running) (t : BStep) (k : Cmd) (s : State), isReady s = true → (getPtn s p.val).fe.run = some r → r.opcode = 0x21 → (getPtn s p.val).fe.mode = .run →
      (let x := getBatch s p.val r.batch
       let n : Running := { r with done := r.done + 1, base := r.base + r.round, round := 0 }
       x.open_ = true → x.step = some t → t.computed = true → stepReady s p.val x t = true → x.cancel = none → x.rowSets = [] → RowPolicies s → MirrorFree s →
       getCmd s r.ring r.idx = some k → (getPtn s p.val).pwr.parkWant = false →
       (x.closing = none → r.target ≤ r.done + 1 →
        ∃ u, exec (.batchStepBoundary p) s = .next u ∧ (getPtn u p.val).fe.run = none ∧ (getBatch u p.val r.batch).step = none ∧ (getBatch u p.val r.batch).open_ = true ∧
          (getBatch u p.val r.batch).gen = x.gen ∧ getCmd u r.ring r.idx = some { k with phase := .done, status := 0, result := w32 (r.done + 1), todo := [] } ∧
          ∀ i, (getRow x i).st = .active → (getRow x i).desc.deadline ≠ 0 → (getRow x i).desc.deadline ≤ s.time → (getRow (getBatch u p.val r.batch) i).st = .dead) ∧
       (x.closing = none → r.done + 1 < r.target → alternate s p.val r = none →
        ∃ u, exec (.batchStepBoundary p) s = .next u ∧ (getPtn u p.val).fe.run = some n ∧ (getPtn u p.val).fe.mode = .run ∧
          (getBatch u p.val r.batch).step = some { passNo := if x.desc.maxDraft = 0 then 0 else 1 } ∧ (getBatch u p.val r.batch).gen = x.gen) ∧
       (∀ a, x.closing = some a → a ≠ (r.ring, r.idx) →
        ∃ u, exec (.batchStepBoundary p) s = .next u ∧ getBatch u p.val r.batch = { gen := x.gen } ∧ (getPtn u p.val).fe.run = none ∧
          getCmd u r.ring r.idx = some { k with phase := .done, status := if r.target ≤ r.done + 1 then 0 else 0x11, result := w32 (r.done + 1), todo := [] }))) ∧
  ((∀ (e : Entry) (s : State), Runs s e 0x50 →
      (let c := newCmd s e 0x50
       let i := opf e.ops 2 0 16
       let a := opd e.ops 4
       let size := opw e.ops 6
       let u := begun s e 0x50
       let g := engineRead u c.ptn c.ctx none a size
       let b := g.data
       let bad := rangePoisoned u c a 64 || maskHeadBad b size || maskPoisoned u c a size b || maskBodyBad b
       (engStopped s (.mask (dieId (homeDie s c.ptn))) = true →
        ∃ t, exec (.maskSet e) s = .next t ∧ t = { s with rings := t.rings, out := { s.out with hostMem := t.out.hostMem } } ∧ Started s t e c) ∧
       (engStopped s (.mask (dieId (homeDie s c.ptn))) = false → (size < 64 ∨ 67108864 < size) →
        ∃ t, exec (.maskSet e) s = .next t ∧ t = { s with rings := t.rings, out := { s.out with hostMem := t.out.hostMem } } ∧ Ended s t e 0x50 2 0) ∧
       (engStopped s (.mask (dieId (homeDie s c.ptn))) = false → 64 ≤ size → size ≤ 67108864 → (g.refuse ≠ [] ∨ bad = true) →
        ∃ t, exec (.maskSet e) s = .next t ∧ t = { s with rings := t.rings, out := { s.out with hostMem := t.out.hostMem } } ∧
          Ended s t e 0x50 (if g.refuse = [] then 2 else 3) 0) ∧
       (engStopped s (.mask (dieId (homeDie s c.ptn))) = false → 64 ≤ size → size ≤ 67108864 → g.refuse = [] → bad = false → (getMask s i).set = true →
        ∃ t, exec (.maskSet e) s = .next t ∧ t = { s with rings := t.rings, out := { s.out with hostMem := t.out.hostMem } } ∧
          Ended s t e 0x50 (if (getMask s i).ctx = c.ctx then 0x0A else 3) 0) ∧
       (engStopped s (.mask (dieId (homeDie s c.ptn))) = false → 64 ≤ size → size ≤ 67108864 → g.refuse = [] → bad = false → (getMask s i).set = false →
        ∃ t, exec (.maskSet e) s = .next t ∧ t = { s with rings := t.rings, out := { s.out with hostMem := t.out.hostMem }, masks := t.masks } ∧
          (if maskStore < masksHeld s + size then Ended s t e 0x50 6 0 ∧ t.masks = s.masks
           else Ended s t e 0x50 0 0 ∧ getMask t i = { decMask b c.ctx size with bad := badBitmaps u c a b } ∧ ∀ j, j ≠ i → getMask t j = getMask s j)))) ∧
    (∀ (e : Entry) (s : State), Runs s e 0x51 →
      (let c := newCmd s e 0x51
       let i := opf e.ops 2 0 16
       let k := getMask s i
       let st := if k.set = false then 0x0A else if k.ctx ≠ c.ctx then 3 else if maskNamed s i then 7 else 0
       (engStopped s (.mask (dieId (homeDie s c.ptn))) = true →
        ∃ t, exec (.maskClear e) s = .next t ∧ t = { s with rings := t.rings, out := { s.out with hostMem := t.out.hostMem } } ∧ Started s t e c) ∧
       (engStopped s (.mask (dieId (homeDie s c.ptn))) = false →
       ∃ t, exec (.maskClear e) s = .next t ∧ t = { s with rings := t.rings, out := { s.out with hostMem := t.out.hostMem }, masks := t.masks } ∧ Ended s t e 0x51 st 0 ∧
        (st ≠ 0 → t.masks = s.masks) ∧ (st = 0 → getMask t i = {} ∧ ∀ j, j ≠ i → getMask t j = getMask s j)))) ∧
    (∀ (r : RingId) (k : TokRec) (rest : List TokRec) (s : State), isReady s = true → (getRing s r.val).recs = k :: rest → recRoom s r.val = true → k.needDb = false →
      (let x := getRing s r.val
       ∃ t, exec (.pendingRecordWrite r) s = .next t ∧ OtherRings r.val s t ∧
        getRing t r.val = { x with recs := rest, tail := w32 (x.tail + 1), resetEnts := (getRing t r.val).resetEnts } ∧
        (if k.type = 7 then (x.tail, recBytes k (phaseOf x x.tail) s.time, false) ∈ (getRing t r.val).resetEnts else (getRing t r.val).resetEnts = x.resetEnts) ∧
        t.out.hostMem = (let m := mwrite s.out.hostMem (x.cur.base + x.tail % ringSize x * 32) (recBytes k (phaseOf x x.tail) s.time)
                         if x.cur.wb = 0 then m else mwrite m x.cur.wb (leBytes 4 (w32 (x.tail + 1)))))) ∧
    (∀ (r : RingId) (s : State), ((getRing s r.val).recs = [] ∨ recRoom s r.val = false) → exec (.pendingRecordWrite r) s = .next s))
/-! ### Fabric ports, frames, notices and channels (10 R297-R312) -/

/-- A port moves by the state table: enabled with a coordinate it detects, then equalises, aligns and exchanges parameters into ACTIVE, or fails on its
own or an invalid coordinate; failed training is counted and detects again; each change signals the port's source (10 R304). Loss of signal retrains a
port; after RETRAIN it is ACTIVE again and sends its held frames once more, or LINK_DOWN fails it, its held frames are lost, their contexts are reset,
and a peer that no other port reaches is lost; a leaving packet fences it (10 R300, R304, R305, R308). Stated outside mirror runs where contexts are
reset. The last-path reading is the model's (log 27). -/
def Obligations.PortsTrainAndLosePeers : Prop :=
  ((∀ (fn : FnId) (n : PortId) (on : Bool) (s : State), Served s fn (fn.val == 0) false →
      (let x := { getPort s n.val with enable := on }
       ∃ t, exec (.portEnable fn n on) s = .next t ∧
        (if on = true ∧ x.st = .off ∧ s.fab.valid = true then PortTo n.val { x with st := .detect } s t
         else if on = false ∧ (x.st = .fenced ∨ x.st = .failed) then
          PortTo n.val { enable := false, replays := x.replays, trainFails := x.trainFails, discards := x.discards } s t
         else t = { s with fab := t.fab } ∧ OtherPorts n.val s t ∧ getPort t n.val = x))) ∧
    (∀ (fn : FnId) (n : PortId) (s : State), Served s fn (fn.val == 0) false →
      ∃ t, exec (.retrain fn n) s = .next t ∧
        (if (getPort s n.val).st = .active then
          (getPort t n.val).st = .retrain ∧ isPending t (srcPort n.val) = true ∧ (QuietLinks s → PortTo n.val { getPort s n.val with st := .retrain } s t)
         else t = s)) ∧
    (∀ (n : PortId) (s : State),
      ∃ t, exec (.signalDetect n) s = .next t ∧
        (let x := getPort s n.val
         if x.st = .detect then PortTo n.val { x with st := .equalise } s t
         else if x.st = .fenced ∧ x.byPeer = true ∧ x.enable = true then PortTo n.val { x with st := .detect } s t else t = s)) ∧
    (∀ (n : PortId) (rev : Bool) (s : State), (getPort s n.val).st = .equalise →
      ∃ t, exec (.equaliseDone n rev) s = .next t ∧ PortTo n.val { getPort s n.val with st := .align, reversed := rev } s t) ∧
    (∀ (n : PortId) (s : State), (getPort s n.val).st = .equalise →
      ∃ t, exec (.equaliseTimeout n) s = .next t ∧ PortTo n.val { getPort s n.val with st := .detect, trainFails := satAdd 16 (getPort s n.val).trainFails 1 } s t) ∧
    (∀ (n : PortId) (s : State), (getPort s n.val).st = .align →
      (∃ t, exec (.alignDone n) s = .next t ∧ PortTo n.val { getPort s n.val with st := .exchange } s t) ∧
      ∃ t, exec (.alignTimeout n) s = .next t ∧ PortTo n.val { getPort s n.val with st := .detect, trainFails := satAdd 16 (getPort s n.val).trainFails 1 } s t) ∧
    (∀ (n : PortId) (coord port : Nat) (bufs : List Nat) (s : State), (getPort s n.val).st = .exchange → QuietLinks s →
      coord % 65536 ≠ s.fab.coord → nhas s.fab.lostSet (coord % 65536) = false →
      ∃ t, exec (.exchangeDone n coord port true bufs) s = .next t ∧
        PortTo n.val { getPort s n.val with
          st := .active, peerCoord := coord % 65536, peerPort := port % 32, credits := [bufs.getD 0 0, bufs.getD 1 0, bufs.getD 2 0, bufs.getD 3 0], freed := []
          txSeq := 0, rxAck := 0, expect := 1, nak := false, ackDue := false, held := [], partial_ := [], rr := 0 } s t) ∧
    (∀ (n : PortId) (coord port : Nat) (v : Bool) (bufs : List Nat) (s : State), (getPort s n.val).st = .exchange → (v = false ∨ coord % 65536 = s.fab.coord) →
      policyOf s 0x0701 = 0 →
      ∃ t w, exec (.exchangeDone n coord port v bufs) s = .next t ∧
        PortTo n.val { getPort s n.val with st := .failed, peerCoord := coord % 65536, peerPort := port % 32 } s w ∧
        Signalled [srcModuleFault] (logged { faultRec s 0x0701 n.val (coord % 65536) with scope := 4 } w) t)) ∧
  ((∀ (n : PortId) (s : State), (getPort s n.val).st = .active →
      ∃ t, exec (.signalLoss n) s = .next t ∧ (getPort t n.val).st = .retrain ∧ isPending t (srcPort n.val) = true ∧
        (QuietLinks s → PortTo n.val { getPort s n.val with st := .retrain } s t)) ∧
    (∀ (n : PortId) (s : State), (getPort s n.val).st = .retrain → QuietLinks s →
      (let x := getPort s n.val
       let sent (h : HeldFrame) : Nat × List Byte := (n.val, frameBytes ⟨h.seq, (x.expect + 4095) % 4096, false, h.slots, h.credits⟩)
       ∃ t, exec (.retrainDone n) s = .next t ∧ isPending t (srcPort n.val) = true ∧ SamePorts n.val s t ∧
        getPort t n.val = { x with st := .active, nak := x.nak && x.held.isEmpty, ackDue := x.ackDue && x.held.isEmpty, held := x.held.map fun h => { h with tries := 0 } } ∧
        (x.held = [] → PortTo n.val { x with st := .active } s t) ∧
        (x.nak = false → t.out.frames = (x.held.map sent).reverse ++ s.out.frames))) ∧
    (∀ (n : PortId) (s : State), (getPort s n.val).st = .retrain → QuietLinks s → (∀ h ∈ (getPort s n.val).held, h.owners = []) → policyOf s 0x0702 = 1 →
      (∃ m, m < 18 ∧ m ≠ n.val ∧ (getPort s m).st = .active ∧ (getPort s m).peerCoord = (getPort s n.val).peerCoord) →
      ∃ t w, exec (.retrainTimeout n) s = .next t ∧ PortTo n.val { getPort s n.val with st := .failed, held := [], partial_ := [] } s w ∧
        Signalled [srcModuleFault] (logged { faultRec s 0x0702 n.val (getPort s n.val).held.length with scope := 4 } w) t) ∧
    (∀ (n : PortId) (s : State), isReady s = true → (getPort s n.val).st = .retrain → MirrorFree s → policyOf s 0x0702 = 1 → policyOf s 0x0703 = 1 →
      ∃ t, exec (.retrainTimeout n) s = .next t ∧ (getPort t n.val).st = .failed ∧ (getPort t n.val).held = [] ∧
        (∀ h ∈ (getPort s n.val).held, ∀ c ∈ h.owners, (getCtx s c).st = .enabled → (getCtx t c).st = .resetting) ∧
        ((∀ m, m < 18 → m ≠ n.val → (getPort s m).st ≠ .active ∧ (getPort s m).st ≠ .retrain) → (getPort s n.val).peerCoord ≠ s.fab.coord →
          nhas s.fab.noted (getPort s n.val).peerCoord = false → nhas t.fab.lostSet (getPort s n.val).peerCoord = true)) ∧
    (∀ (n : PortId) (s : State), (getPort s n.val).st = .active → MirrorFree s → policyOf s 0x0703 = 1 →
      (let c := (getPort s n.val).peerCoord
       ∃ t, exec (.leavingPacket n) s = .next t ∧ (getPort t n.val).st = .fenced ∧ (getPort t n.val).byPeer = true ∧ (getPort t n.val).held = [] ∧
        (c ≠ s.fab.coord → nhas s.fab.noted c = false → nhas t.fab.lostSet c = true ∧ t.fab.lostLast = c ∧ isPending t srcPeerLost = true))) ∧
    (∀ (n : PortId) (coord : Nat) (s : State), isReady s = true → (getPort s n.val).st = .active → MirrorFree s → policyOf s 0x0703 = 1 →
      (let c := coord % 65536
       ∃ t, exec (.lostNotice n coord) s = .next t ∧
        (if nhas s.fab.noted c ∨ c = s.fab.coord then t = s
         else t.fab.lostLast = c ∧ t.fab.lostCount = satAdd 16 s.fab.lostCount 1 ∧ t.fab.lostSet = nadd c s.fab.lostSet ∧ t.fab.noted = nadd c s.fab.noted ∧
          isPending t srcPeerLost = true ∧ ∀ p d, p < 32 → (getPtn s p).exists_ = true → spansPtn s p c = true → d ∈ ctxsOf s p → (getCtx s d).st = .enabled → (getCtx t d).st = .resetting))) ∧
    (∀ (n : PortId) (coord : Nat) (s : State), (getPort s n.val).st = .active →
      (let c := coord % 65536
       ∃ t, exec (.returnNotice n coord) s = .next t ∧
        (if nhas s.fab.lostSet c then t.fab.lostSet = ndel c s.fab.lostSet ∧ t.fab.noted = ndel c s.fab.noted ∧ t.fab.lostLast = s.fab.lostLast else t = s))))

/-- A damaged frame, an early one, and one without slots that does not repeat the last SEQ ask for replay in the next frame; the next expected one is
accepted with its acknowledgement, credits and slots and acknowledged; one accepted before is only acknowledged again; a port that is not ACTIVE takes
nothing; frames held for retry are released by their acknowledgement or replayed, and the eighth replay retrains the port (10 R299-R301; log 28). A
stream packet for this module joins the receive channel it names if it comes from the channel's source; if not, it is dropped and counted and its
credits go back; one for another module goes on by its route, waits for a credit of it, or is dropped and counted when its destination is lost;
returned credits join their send channel (10 R302, R305, R308, R309, R311). Stated where nothing else waits at the links. -/
def Obligations.FramesChannelsAndCredits : Prop :=
  ((∀ (n : PortId) (b : List Byte) (s : State), (getPort s n.val).st = .active → IdleLinks s → readFrame b = none →
      (let x := getPort s n.val
       ∃ t, exec (.frameReceive n b) s = .next t ∧ t = { s with fab := t.fab, out := { s.out with frames := t.out.frames } } ∧ OtherPorts n.val s t ∧
        getPort t n.val = { x with freed := [0, 0, 0, 0] } ∧
        t.out.frames = (n.val, frameBytes ⟨x.txSeq, (x.expect + 4095) % 4096, true, [], [0, 0, 0, 0]⟩) :: s.out.frames)) ∧
    (∀ (n : PortId) (b : List Byte) (f : Frame) (s : State), (getPort s n.val).st = .active → IdleLinks s → readFrame b = some f → f.nak = false →
      (let x := getPort s n.val
       let last := (x.expect + 4095) % 4096
       let idle := f.slots.all fun k => k.kind == 0
       let ack := if f.ack = x.txSeq then f.ack else x.rxAck
       let credits := (List.range 4).map fun v => x.credits.getD v 0 + f.credits.getD v 0 % 256
       (idle = true → f.seq = last → x.held = [] →
        ∃ t, exec (.frameReceive n b) s = .next t ∧ t = { s with fab := t.fab } ∧ OtherPorts n.val s t ∧ getPort t n.val = { x with rxAck := ack, credits := credits }) ∧
       (∀ h1 a h2, idle = true → f.seq = last → x.held = h1 ++ a :: h2 → a.seq = f.ack → (∀ h ∈ h1, h.seq ≠ f.ack) →
        ∃ t, exec (.frameReceive n b) s = .next t ∧ t = { s with fab := t.fab } ∧ OtherPorts n.val s t ∧
          getPort t n.val = { x with held := h2, rxAck := f.ack, credits := credits }) ∧
       (∀ k rest, f.seq = x.expect → f.slots = k :: rest → (k.kind = 1 ∨ k.kind = 2) → (∀ j ∈ rest, j.kind = 0) → x.held = [] →
        ∃ t, exec (.frameReceive n b) s = .next t ∧ t = { s with fab := t.fab, out := { s.out with frames := t.out.frames } } ∧ OtherPorts n.val s t ∧
          getPort t n.val = { x with expect := (f.seq + 1) % 4096, rxAck := ack, credits := credits, freed := [0, 0, 0, 0], partial_ := (getPort t n.val).partial_ } ∧
          tget [] (getPort t n.val).partial_ (k.vl % 4) = tget [] x.partial_ (k.vl % 4) ++ [k] ∧
          t.out.frames = (n.val, frameBytes ⟨x.txSeq, f.seq, false, [], [0, 0, 0, 0]⟩) :: s.out.frames) ∧
       ((idle = true ∧ f.seq ≠ last) ∨ (idle = false ∧ f.seq ≠ x.expect) → x.held = [] →
        ∃ t, exec (.frameReceive n b) s = .next t ∧ t = { s with fab := t.fab, out := { s.out with frames := t.out.frames } } ∧ OtherPorts n.val s t ∧
          getPort t n.val = { x with rxAck := ack, freed := [0, 0, 0, 0] } ∧
          t.out.frames = (n.val, frameBytes ⟨x.txSeq, last, idle || decide (2048 ≤ (last + 4096 - f.seq) % 4096), [], [0, 0, 0, 0]⟩) :: s.out.frames))) ∧
    (∀ (n : PortId) (s : State), (getPort s n.val).st = .active → IdleLinks s →
      (let x := getPort s n.val
       let sent (h : HeldFrame) : Nat × List Byte := (n.val, frameBytes ⟨h.seq, (x.expect + 4095) % 4096, false, h.slots, h.credits⟩)
       let due := x.held.any fun h => decide (8 ≤ h.tries + 1)
       ∃ t, exec (.replayTimeout n) s = .next t ∧
        (if x.held = [] then t = s
         else SamePorts n.val s t ∧ t.out.frames = (x.held.map sent).reverse ++ s.out.frames ∧
          getPort t n.val = { x with st := if due then .retrain else .active, replays := satAdd 16 x.replays 1, held := x.held.map fun h => { h with tries := h.tries + 1 } } ∧
          (due = true → isPending t (srcPort n.val) = true)))) ∧
    (∀ (n : PortId) (c : Instr) (s : State), (getPort s n.val).st ≠ .active →
      ((∃ b, c = .frameReceive n b) ∨ c = .replayTimeout n ∨ c = .leavingPacket n ∨ c = .signalLoss n ∨ (∃ k, c = .lostNotice n k ∨ c = .returnNotice n k) ∨
        (∃ k, c = .channelPacket n k) ∨ ∃ a k m, c = .channelCredit n ⟨a, k⟩ m) →
      exec c s = .next s)) ∧
  ((∀ (n : PortId) (k : Packet) (s : State), (getPort s n.val).st = .active → QuietLinks s → k.type = 0 → k.vl = 3 → k.mcast = false → k.dest = s.fab.coord →
      (let w := tget 0 s.fab.rx k.channel
       let back := creditPacket s k.src k.channel k.flits.length
       ∃ t, exec (.channelPacket n k) s = .next t ∧ (∀ c, c ≠ k.channel → getChan t c = getChan s c) ∧
        (if bit w 16 = true ∧ bits w 0 16 = k.src then
          t = { s with fab := { s.fab with chans := t.fab.chans, ports := t.fab.ports } } ∧ (∀ m, getPort t m = getPort s m) ∧
          getChan t k.channel = { getChan s k.channel with rxq := (getChan s k.channel).rxq ++ k.flits.map fun f => { f with epoch := k.epoch, ctx := k.ctx } }
         else
          t = { s with fab := t.fab, out := { s.out with fabric := t.out.fabric, frames := t.out.frames } } ∧
          getChan t k.channel = { getChan s k.channel with drops := satAdd 32 (getChan s k.channel).drops 1 } ∧
          (k.flits ≠ [] → k.src ≠ s.fab.coord → nhas s.fab.lostSet k.src = false → ∀ m, routePort s k.src = some m → canSend s m back = true →
            t.out.fabric = (m, back) :: s.out.fabric)))) ∧
    (∀ (n : PortId) (k : Packet) (s : State), (getPort s n.val).st = .active → QuietLinks s → k.type = 0 → k.vl = 3 → k.mcast = false → k.dest ≠ s.fab.coord →
      (nhas s.fab.lostSet k.dest = true →
        ∃ t, exec (.channelPacket n k) s = .next t ∧ t = { s with fab := { s.fab with drops := s.fab.drops + 1, ports := t.fab.ports } } ∧ ∀ m, getPort t m = getPort s m) ∧
      (nhas s.fab.lostSet k.dest = false → (∀ m, routePort s k.dest = some m → canSend s m k = false) →
        ∃ t, exec (.channelPacket n k) s = .next t ∧ t = { s with fab := t.fab } ∧ OtherPorts n.val s t ∧
          getPort t n.val = { getPort s n.val with rxq := [⟨k, 3, 0, [], false, true⟩] }) ∧
      (∀ m, nhas s.fab.lostSet k.dest = false → routePort s k.dest = some m → canSend s m k = true →
        ∃ t, exec (.channelPacket n k) s = .next t ∧ t = { s with fab := t.fab, out := { s.out with fabric := (m, k) :: s.out.fabric, frames := t.out.frames } } ∧
          t.fab = { s.fab with ports := t.fab.ports } ∧ SamePorts m s t ∧
          (getPort t m).credits.getD 3 0 + (k.flits.length + 1) = (getPort s m).credits.getD 3 0 ∧
          (getPort t m).held.length = (getPort s m).held.length + ceilDiv (k.flits.length + 1) 8)) ∧
    (∀ (n : PortId) (src ch cr : Nat) (s : State), (getPort s n.val).st = .active →
      ∃ t, exec (.channelCredit n ⟨src, ch⟩ cr) s = .next t ∧
        (match creditChannel s (src % 65536) (ch % 4096) with
         | none => t = s
         | some c => (getChan s c).txq = [] →
            t = { s with fab := { s.fab with chans := t.fab.chans } } ∧ (∀ d, d ≠ c → getChan t d = getChan s d) ∧
            getChan t c = { getChan s c with credits := (getChan s c).credits + cr % 2 ^ 24 })))

/-! ### The expert exchange (10 R313-R325) -/

/-- ROUTE_SET needs FIGURE_OPS; it stages a checked table and returns its EPOCH, or ends with FORMAT or NO_SPACE (08 R245; 10 R314, R315). An exchange step
starts under the table in force, its tokens' SCOREs and an END to every home leave; without a table or with too small a buffer the step is a fault
(10 R316, R323; 11 R333). Stated outside mirror runs. -/
def Obligations.RoutesAreStagedAndExchangeStepsStart : Prop :=
  (∀ (e : Entry) (s : State), Runs s e 0x18 →
    (let c := newCmd s e 0x18
     ((getCtx s c.ctx).cur.figOps = false →
      ∃ u, exec (.routeSet e) s = .next u ∧ u = { s with rings := u.rings, out := { s.out with hostMem := u.out.hostMem } } ∧ Ended s u e 0x18 0x10 0) ∧
     (∀ st, (getCtx s c.ctx).cur.figOps = true → readDesc (begun s e 0x18) c (opd e.ops 4) 64 = .error st →
      ∃ u, exec (.routeSet e) s = .next u ∧ u = { s with rings := u.rings, out := { s.out with hostMem := u.out.hostMem } } ∧ Ended s u e 0x18 st 0) ∧
     (∀ h, (getCtx s c.ctx).cur.figOps = true → readDesc (begun s e 0x18) c (opd e.ops 4) 64 = .ok h → (routeHeadBad h = true ∨ opw e.ops 6 < (routeParts h).2.2.2) →
      ∃ u, exec (.routeSet e) s = .next u ∧ u = { s with rings := u.rings, out := { s.out with hostMem := u.out.hostMem } } ∧ Ended s u e 0x18 2 0))) ∧
  (∀ (e : Entry) (h b : List Byte) (s : State), Runs s e 0x18 →
    (let c := newCmd s e 0x18
     let t := decRoute b
     let x := bits (wordAt b 1) 16 4
     (getCtx s c.ctx).cur.figOps = true → readDesc (begun s e 0x18) c (opd e.ops 4) 64 = .ok h → routeHeadBad h = false → (routeParts h).2.2.2 ≤ opw e.ops 6 →
     readDesc (begun s e 0x18) c (opd e.ops 4) (min (opw e.ops 6) (alignUp (routeParts h).2.2.2 64)) = .ok b →
     (routeListsBad s c.ptn b t = true →
      ∃ u, exec (.routeSet e) s = .next u ∧ u = { s with rings := u.rings, out := { s.out with hostMem := u.out.hostMem } } ∧ Ended s u e 0x18 2 0) ∧
     (routeListsBad s c.ptn b t = false → 65536 < slotsElsewhere s c.ptn x + homedSlots s t →
      ∃ u, exec (.routeSet e) s = .next u ∧ u = { s with rings := u.rings, out := { s.out with hostMem := u.out.hostMem } } ∧ Ended s u e 0x18 6 0) ∧
     (routeListsBad s c.ptn b t = false → slotsElsewhere s c.ptn x + homedSlots s t ≤ 65536 →
      ∃ u, exec (.routeSet e) s = .next u ∧ u = { s with rings := u.rings, out := { s.out with hostMem := u.out.hostMem }, ptns := u.ptns } ∧ Ended s u e 0x18 0 t.epoch ∧
        OtherPtns c.ptn s u ∧ (∀ y, y ≠ x → getExch u c.ptn y = getExch s c.ptn y) ∧
        getExch u c.ptn x = { getExch s c.ptn x with staged := some t, step := if (getExch s c.ptn x).cur.isNone then t.fromStep else (getExch s c.ptn x).step }))) ∧
  (∀ (p : PtnId) (x : Fin 16) (r : Running) (s : State), isReady s = true → (getPtn s p.val).fe.run = some r → s.fab.here = [] → xStepDue s p.val x.val = true →
    (let e := getExch s p.val x.val
     (tableFor e e.step = none → policyOf s 0x0708 = 0 → MirrorFree s → ptnOfCtx s r.ctx < 32 →
      ∃ t, exec (.exchangeStep p x) s = .next t ∧
        Signalled [srcPtn (ptnOfCtx s r.ctx) 1] (logged ((((faultRec s 0x0708 r.idx x.val).withCtx s r.ctx).withRing r.ring).withDie (homeDie s p.val)) s) t) ∧
     (∀ t0, tableFor e e.step = some t0 →
      (let ks := tokensOf s p.val x.val e.step t0 r e
       let need := xchPages s p.val x.val (roundPositions s p.val r ks.length) t0
       (bufferPages s p.val r.ctx < need → policyOf s 0x0707 = 0 → MirrorFree s → ptnOfCtx s r.ctx < 32 →
        ∃ t, exec (.exchangeStep p x) s = .next t ∧
          Signalled [srcPtn (ptnOfCtx s r.ctx) 1] (logged ((((faultRec s 0x0707 r.idx need).withCtx s r.ctx).withRing r.ring).withDie (homeDie s p.val)) s) t) ∧
       (need ≤ bufferPages s p.val r.ctx → muted s = false →
        ∃ t, exec (.exchangeStep p x) s = .next t ∧
          t = { s with ptns := t.ptns, fab := t.fab, out := { s.out with units := t.out.units, fabric := t.out.fabric, frames := t.out.frames } } ∧
          OtherPtns p.val s t ∧ (getPtn t p.val).fe = (getPtn s p.val).fe ∧ (getExch t p.val x.val).step = e.step + 1 ∧ (getExch t p.val x.val).scoreIn = [] ∧
          (getExch t p.val x.val).actIn = [] ∧ (∀ y, y ≠ x.val → getExch t p.val y = getExch s p.val y) ∧
          (∀ h ∈ homesOf t0, nhas s.fab.lostSet h.1 = false → ∃ g, (h.1, 2, g) ∈ t.out.units ∧ g.exch = x.val ∧ g.step = e.step % 256 ∧ g.epoch = t0.epoch ∧ g.srcPtn = p.val ∧ g.dstPtn = h.2) ∧
          ∀ k ∈ ks, ∃ j ∈ (getExch t p.val x.val).toks, j.step = e.step ∧ j.row = k.1.row ∧ j.pos = k.1.pos ∧ j.cands = k.1.cands)))))

/-- At a home, a SCORE is ranked into its card and counted, a matching END closes the sender's count and with the last one the cards, whose GRANT_ENDs go
to every sender, an ACT joins its slot, and a CANCEL removes its sender's candidates; a unit outside the steps held is XCH_SEQUENCE (10 R316-R318,
R324, R325). At the sender, a GRANT marks its candidate and sends the activation, a matching GRANT_END closes the home's count, an ANSWER joins its
candidate, a VOID takes grants back, and responses of an old generation are dropped and counted (10 R316, R320, R324, R325). A unit waits while its
exchange unit is in reset (11 R340; log 13). Stated outside mirror runs where a fault is raised. -/
def Obligations.DispatchUnitsActAtHomeAndSender : Prop :=
  ((∀ (u : XUnit) (k : Nat × Instr) (s : State), k ∈ [(1, Instr.score u), (2, .end_ u), (3, .grant u), (4, .grantEnd u), (5, .act u), (6, .answer u), (7, .cancel u), (8, .void u)] →
      (TakesUnit s u → heldStep (unitExch s u) (u.step % 256) = none → policyOf s 0x0705 = 0 → MirrorFree s → u.dstPtn < 32 →
       ∃ t, exec k.2 s = .next t ∧
        Signalled [srcPtn u.dstPtn 1] (logged (((faultRec s 0x0705 (u.exch % 16) (unitWord0 k.1 u)).withPtn u.dstPtn).withDie (homeDie s u.dstPtn)) s) t) ∧
      (s.fab.here = [] → xchStopped s u.dstPtn = true →
       ∃ t, exec k.2 s = .next t ∧ t = { s with fab := { s.fab with here := (unitPackets s [(s.fab.coord, k.1, u)]).map fun q => { q with src := u.src } } })) ∧
    (∀ (u : XUnit) (n l : Nat) (t : RouteTbl) (s : State), HeldUnit s u n t → cancelled s u.dstPtn (u.exch % 16) n u = false → unitCard s u.dstPtn (u.exch % 16) t u = some l →
      (let c : Cand := { score := u.value, src := u.src, ptn := u.srcPtn, row := u.row, pos := u.pos, expert := u.expert, gen := u.generation, batch := u.batch, data := none, gone := false }
       let old := ((unitExch s u).cards.find? (isCard n l)).elim [] fun k => k.cands
       ∃ v k, exec (.score u) s = .next v ∧ v = { s with ptns := v.ptns } ∧ OtherPtns u.dstPtn s v ∧ (unitExch v u).cards.find? (isCard n l) = some k ∧
        k.cands = (insertBy candBefore c old).take k.cap ∧
        countOf (unitExch v u) n u.src u.srcPtn =
          { countOf (unitExch s u) n u.src u.srcPtn with scores := (countOf (unitExch s u) n u.src u.srcPtn).scores + 1, gen := u.generation, batch := u.batch })) ∧
    (∀ (u : XUnit) (n : Nat) (t : RouteTbl) (s : State), HeldUnit s u n t → cancelled s u.dstPtn (u.exch % 16) n u = false → MirrorFree s → u.dstPtn < 32 →
      (let k := countOf (unitExch s u) n u.src u.srcPtn
       (k.scores ≠ u.value.toNat → policyOf s 0x0706 = 0 →
        ∃ v, exec (.end_ u) s = .next v ∧
          Signalled [srcPtn u.dstPtn 1] (logged (((faultRec s 0x0706 (u.exch % 16) u.value.toNat).withPtn u.dstPtn).withDie (homeDie s u.dstPtn)) s) v) ∧
       (k.scores = u.value.toNat → policyOf s 0x0704 = 0 →
        ∃ v, exec (.end_ u) s = .next v ∧ OtherPtns u.dstPtn s v ∧ countOf (unitExch v u) n u.src u.srcPtn = { k with ended := some k.scores, gen := u.generation, batch := u.batch } ∧
          ((∀ d ∈ t.senders, d = (u.src, u.srcPtn) ∨ (countOf (unitExch s u) n d.1 d.2).ended.isSome = true ∨ (countOf (unitExch s u) n d.1 d.2).gone = true) →
           (∀ k ∈ (unitExch s u).cards, k.step = n → k.closed = false) →
            (∀ r ∈ t.replicas, r.1 = s.fab.coord → r.2.1 = u.dstPtn → ∃ k ∈ (unitExch v u).cards, k.step = n ∧ k.card = r.2.2 ∧ k.closed = true) ∧
            ∀ d ∈ t.senders, muted s = false → nhas s.fab.lostSet d.1 = false → ∃ g, (d.1, 4, g) ∈ v.out.units ∧ g.exch = u.exch % 16 ∧ g.step = n % 256 ∧ g.dstPtn = d.2 ∧ g.srcPtn = u.dstPtn)))) ∧
    (∀ (u : XUnit) (n l : Nat) (t : RouteTbl) (k : Card) (s : State), HeldUnit s u n t → cancelled s u.dstPtn (u.exch % 16) n u = false → unitCard s u.dstPtn (u.exch % 16) t u = some l →
      (unitExch s u).cards.find? (isCard n l) = some k → ((unitExch s u).cards.map fun k => (k.step, k.card)).Nodup →
      (k.cands.any fun c => c.src == u.src && c.ptn == u.srcPtn && c.row == u.row && c.pos == u.pos && c.expert == u.expert) = true →
      ∃ v k', exec (.act u) s = .next v ∧ v = { s with ptns := v.ptns } ∧ OtherPtns u.dstPtn s v ∧ (unitExch v u).cards.find? (isCard n l) = some k' ∧
        ∃ c ∈ k'.cands, c.src = u.src ∧ c.ptn = u.srcPtn ∧ c.row = u.row ∧ c.pos = u.pos ∧ c.expert = u.expert ∧ c.data = some (u.data, u.poison)) ∧
    (∀ (u : XUnit) (n : Nat) (t : RouteTbl) (s : State), HeldUnit s u n t → policyOf s 0x0704 = 0 → MirrorFree s → u.dstPtn < 32 →
      ∃ v, exec (.cancel u) s = .next v ∧ OtherPtns u.dstPtn s v ∧
        countOf (unitExch v u) n u.src u.srcPtn = { countOf (unitExch s u) n u.src u.srcPtn with gone := true, gen := u.generation, batch := u.batch } ∧
        ∀ k ∈ (unitExch v u).cards, k.step = n → ∀ c ∈ k.cands, c.src = u.src → c.ptn = u.srcPtn → c.batch = u.batch → c.gen = u.generation → c.gone = true)) ∧
  ((∀ (u : XUnit) (c : Instr) (n : Nat) (t : RouteTbl) (s : State), HeldUnit s u n t → c ∈ [Instr.grant u, .grantEnd u, .answer u, .void u] →
      (getBatch s u.dstPtn (u.batch % 64)).gen ≠ u.generation →
      ∃ v, exec c s = .next v ∧ v = { s with ptns := v.ptns } ∧ OtherPtns u.dstPtn s v ∧
        getPtn v u.dstPtn = { getPtn s u.dstPtn with xch := { (getPtn s u.dstPtn).xch with stale := satAdd 32 (getPtn s u.dstPtn).xch.stale 1 } }) ∧
    (∀ (u : XUnit) (n : Nat) (t : RouteTbl) (k : XTok) (s : State), HeldUnit s u n t → (getBatch s u.dstPtn (u.batch % 64)).gen = u.generation →
      (unitExch s u).toks.find? (sameTok n u) = some k →
      ∃ v k', exec (.grant u) s = .next v ∧ v = { s with ptns := v.ptns, fab := v.fab, out := { s.out with units := v.out.units, fabric := v.out.fabric, frames := v.out.frames } } ∧
        OtherPtns u.dstPtn s v ∧ (unitExch v u).toks.find? (sameTok n u) = some k' ∧
        k'.cands = lmodFirst (candFrom u) (fun c => { c with grant := some u.value.toNat }) k.cands ∧
        sendCountOf (unitExch v u) n u.src u.srcPtn = { sendCountOf (unitExch s u) n u.src u.srcPtn with grants := (sendCountOf (unitExch s u) n u.src u.srcPtn).grants + 1 } ∧
        (muted s = false → nhas s.fab.lostSet u.src = false → ∃ g, v.out.units = (u.src, 5, g) :: s.out.units ∧ g.data = k.act ∧ g.row = u.row ∧ g.pos = u.pos ∧ g.expert = u.expert ∧ g.value = u.value)) ∧
    (∀ (u : XUnit) (n : Nat) (t : RouteTbl) (s : State), HeldUnit s u n t → (getBatch s u.dstPtn (u.batch % 64)).gen = u.generation → u.dstPtn < 32 →
      (let k := sendCountOf (unitExch s u) n u.src u.srcPtn
       (k.grants ≠ u.value.toNat → policyOf s 0x0706 = 0 → MirrorFree s →
        ∃ v, exec (.grantEnd u) s = .next v ∧
          Signalled [srcPtn u.dstPtn 1] (logged (((faultRec s 0x0706 (u.exch % 16) u.value.toNat).withPtn u.dstPtn).withDie (homeDie s u.dstPtn)) s) v) ∧
       (k.grants = u.value.toNat →
        ∃ v, exec (.grantEnd u) s = .next v ∧ v = { s with ptns := v.ptns } ∧ OtherPtns u.dstPtn s v ∧
          sendCountOf (unitExch v u) n u.src u.srcPtn = { k with ended := some k.grants }))) ∧
    (∀ (u : XUnit) (n i : Nat) (t : RouteTbl) (k : XTok) (c : TokCand) (s : State), HeldUnit s u n t → (getBatch s u.dstPtn (u.batch % 64)).gen = u.generation →
      (unitExch s u).toks.find? (sameTok n u) = some k → lpos (candFrom u) k.cands = some i → k.cands[i]? = some c → c.void = false → c.grant.isSome = true →
      ∃ v k', exec (.answer u) s = .next v ∧ v = { s with ptns := v.ptns } ∧ OtherPtns u.dstPtn s v ∧ (unitExch v u).toks.find? (sameTok n u) = some k' ∧
        k'.cands = lmodFirst (candFrom u) (fun c => { c with answer := some (u.data, u.poison) }) k.cands ∧ k'.arrived = k.arrived ++ [i]) ∧
    (∀ (u : XUnit) (n : Nat) (t : RouteTbl) (k : XTok) (s : State), HeldUnit s u n t → (getBatch s u.dstPtn (u.batch % 64)).gen = u.generation →
      (unitExch s u).toks = [k] → k.step = n → k.batch = u.batch → k.gen = u.generation → k.out = false →
      ∃ v k', exec (.void u) s = .next v ∧ v = { s with ptns := v.ptns } ∧ OtherPtns u.dstPtn s v ∧ (unitExch v u).toks = [k'] ∧
        k'.cands = k.cands.map (fun c => if voidable u c then { c with void := true } else c) ∧
        (getPtn v u.dstPtn).xch.voided = satAdd 32 (getPtn s u.dstPtn).xch.voided (k.cands.filter (voidable u)).length))
/-! ### Current, clocks and heat (13; 15 R437; 01 R37) -/

/-- SET_CAP is answered, sets the tray's target and pulses; the recomputation moves the cap 240 W at most toward the target and stores its
measurement; the clamp counts the cycles it gated, and the telemetry is refreshed (13 R380, R383, R385, R390, R391, R398; 14 R416; log 12). A cap of
65,536 W or more is FORMAT (the model's choice). The brake puts every partition at ÷8 at once and is reported; its release starts the wait, and after
it partitions with faster targets return stepwise (13 R392, R393). Where a fault is raised, stated at its default action outside mirror runs. -/
def Obligations.CapBudgetsClampAndBrake : Prop :=
  ((∀ (w : Nat) (s : State), s.boot.aon = true → s.mgmt.eid.isSome = true →
      ∃ t u, exec (.setCap w) s = .next t ∧
        (if standbyUp s.boot.stage = true ∧ w < 65536 then
          u = { s with pwr := { s.pwr with tray := min 8191 w, notice := true }, out := { s.out with mctp := ⟨0x02, 0, 0, []⟩ :: s.out.mctp } } ∧
            Signalled [srcMctpRx, srcCapMsg, srcMctpTxDone] u t
         else u = { s with out := { s.out with mctp := ⟨0x02, if standbyUp s.boot.stage then 1 else 2, 0, []⟩ :: s.out.mctp } } ∧ Signalled [srcMctpRx, srcMctpTxDone] u t)) ∧
    (∀ (m : Measure) (s : State), s.boot.aon = true → policyOf s 0x0804 = 0 → MirrorFree s →
      (let goal := min 4800 (min s.pwr.tray s.pwr.hostCap)
       let c := if s.pwr.cap < goal then min goal (s.pwr.cap + 240) else max goal (s.pwr.cap - 240)
       ∃ t, exec (.budgetRecompute m) s = .next t ∧ t.pwr.cap = c ∧ t.pwr.capUnmet = decide (c < 1200) ∧ t.pwr.inputW = min 8191 m.inputW ∧ t.pwr.volts = min 4095 m.volts ∧
        t.pwr.amps = min 4095 m.amps ∧ t.pwr.refreshed = s.time ∧ t.pwr.tele = telemetryNow t ∧ (∀ q, q < 32 → (getQtr t q).current = min 4095 (m.qtrAmps.getD q 0) ∧ (ptnOfQtr s q = none → (getQtr t q).budget = 2560)) ∧
        (c = goal → s.pwr.notice = true → t.pwr.notice = false ∧ t.out.mctp = ⟨0x03, 0, 0, leBytes 2 c⟩ :: s.out.mctp))) ∧
    (∀ (q : QtrId) (s : State), (getQtr s q.val).railOn = true →
      ∃ t, exec (.clampStart q) s = .next t ∧ t = { s with ptns := t.ptns, qtrs := t.qtrs } ∧ (getQtr t q.val).clamping = true ∧
        (MirrorFree s → t.ptns = s.ptns ∧ getQtr t q.val = { getQtr s q.val with clamping := true } ∧ ∀ k, k ≠ q.val → getQtr t k = getQtr s k)) ∧
    (∀ (q : QtrId) (n : Nat) (s : State), (getQtr s q.val).clamping = true →
      ∃ t, exec (.clampEnd q n) s = .next t ∧ t = { s with qtrs := t.qtrs } ∧
        getQtr t q.val = { getQtr s q.val with clamping := false, clampCycles := satAdd 32 (getQtr s q.val).clampCycles n } ∧ ∀ k, k ≠ q.val → getQtr t k = getQtr s k)) ∧
  ((∀ s : State, s.boot.aon = true → s.pwr.brake = false → policyOf s 0x0805 = 0 →
      ∃ t, exec .brake s = .next t ∧ t.pwr = { s.pwr with brake := true, brakeWait := false } ∧ t.flt = (logModule (faultRec s 0x0805 0 0) s).flt ∧ isPending t srcModuleFault = true ∧
        ∀ p, (getPtn s p).exists_ = true → (getPtn t p).pwr.divActive = 3 ∧ (getPtn t p).pwr.brakePos = none) ∧
    (∀ s : State, s.pwr.brake = true →
      ∃ t, exec .brakeRelease s = .next t ∧ t = { s with pwr := { s.pwr with brake := false, brakeWait := true } }) ∧
    (∀ s : State, s.pwr.brakeWait = true →
      ∃ t, exec .brakeReturn s = .next t ∧ t.pwr = { s.pwr with brakeWait := false } ∧ t.boot = s.boot ∧ t.flt.log = s.flt.log ∧ t.pending = s.pending) ∧
    ∀ s : State, (s.pwr.brakeWait = false → exec .brakeReturn s = .next s) ∧ (s.pwr.brake = false → exec .brakeRelease s = .next s) ∧
      (s.pwr.brake = true → exec .brake s = .next s))

/-- A sample is stored in its sensor's register and a hot part acts by its row, but at 115 °C the trip logic acts alone; a row is left 3 °C below its
bound, a neighbour step is taken above 20 °C and lifted when no pair is above 17 °C, and a trip at 115 °C powers the module down (13 R389, R394,
R395). Stated at the default actions. -/
def Obligations.SensorsStepPartitionsByTheirRows : Prop :=
  (∀ (q : QtrId) (k : Fin 4) (temp : Nat) (s : State), switchedUp s = true → ptnOfQtr s q.val = none →
    ∃ t, exec (.sensorSample (.quarter q k) temp) s = .next t ∧ t = { s with qtrs := t.qtrs } ∧ tget 0 (getQtr t q.val).temps k.val = min 4095 temp ∧
      (∀ j, j ≠ k.val → tget 0 (getQtr t q.val).temps j = tget 0 (getQtr s q.val).temps j) ∧ ∀ n, n ≠ q.val → getQtr t n = getQtr s n) ∧
  (∀ (q : QtrId) (k : Fin 4) (temp p : Nat) (s : State), switchedUp s = true → ptnOfQtr s q.val = some p →
    (let s1 := modQtr q.val (fun x => { x with temps := tset 0 k.val (min 4095 temp) x.temps }) s
     let row := junctionRow (ptnHot s1 p).2
     policyOf s 0x0801 = 0 → policyOf s 0x0802 = 0 →
     ∃ t, exec (.sensorSample (.quarter q k) temp) s = .next t ∧ tget 0 (getQtr t q.val).temps k.val = min 4095 temp ∧
      (getPtn t p).pwr.junction = (if 1840 ≤ (ptnHot s1 p).2 then (getPtn s p).pwr.junction else max (getPtn s p).pwr.junction row) ∧ ∀ o, o ≠ p → (getPtn t o).pwr.junction = (getPtn s o).pwr.junction)) ∧
  (∀ (d : DieId) (k : Fin 2) (temp : Nat) (s : State), switchedUp s = true → ptnsOfDie s d.val = [] →
    ∃ t, exec (.sensorSample (.baseDie d k) temp) s = .next t ∧ tget 0 (getDie t d.val).temps k.val = min 4095 temp ∧ ∀ n, n ≠ d.val → getDie t n = getDie s n) ∧
  (∀ (h : DieId) (temp : Nat) (s : State), switchedUp s = true → policyOf s 0x0802 = 0 →
    ∃ t, exec (.sensorSample (.hbm h) temp) s = .next t ∧ tget 0 t.pwr.hbm h.val = min 4095 temp ∧ nhas t.pwr.overTemp h.val = decide (1680 < min 4095 temp) ∧
      (1680 < min 4095 temp → nhas s.pwr.overTemp h.val = false →
        t.flt = (logModule ((faultRec s 0x0802 (4 * h.val) (min 4095 temp)).withDie h.val) s).flt)) ∧
  (∀ (n : Fin 24) (temp : Nat) (s : State), switchedUp s = true → policyOf s 0x0802 = 0 →
    ∃ t, exec (.sensorSample (.lpddr n) temp) s = .next t ∧ tget 0 t.pwr.lpddr n.val = min 4095 temp ∧ nhas t.pwr.overTemp (8 + n.val) = decide (1680 < min 4095 temp)) ∧
  (∀ (r : Fin 73) (temp : Nat) (s : State), (switchedUp s = true ∨ s.boot.aon = true ∧ r.val = 72) →
    ∃ t, exec (.sensorSample (.regulator r) temp) s = .next t ∧ t = { s with pwr := { s.pwr with regs := t.pwr.regs } } ∧ tget 0 t.pwr.regs r.val = min 4095 temp ∧
      ∀ k, k ≠ r.val → tget 0 t.pwr.regs k = tget 0 s.pwr.regs k) ∧
  (∀ (p : PtnId) (s : State),
    (let j := (getPtn s p.val).pwr.junction
     ∃ t, exec (.thermalRowLeave p) s = .next t ∧ (getPtn t p.val).pwr.junction = (if j ≠ 0 ∧ (ptnHot s p.val).2 + 48 ≤ [1520, 1568, 1616, 1680].getD (j - 1) 0 then j - 1 else j) ∧
      t.flt = s.flt ∧ t.boot = s.boot)) ∧
  (∀ (q1 q2 : QtrId) (a b : Nat) (s : State), ptnOfQtr s q1.val = some a → ptnOfQtr s q2.val = some b → a ≠ b → adjacent q1.val q2.val = true → qtrHot s q2.val + 320 < qtrHot s q1.val →
    policyOf s 0x0802 = 0 →
    (let x := (getPtn s a).pwr
     ∃ t, exec (.neighbourStep q1 q2) s = .next t ∧ (∀ o, o ≠ a → (getPtn t o).pwr.nbr = (getPtn s o).pwr.nbr) ∧
      (max x.nbr x.divActive < 3 → (getPtn t a).pwr.nbr = max x.nbr x.divActive + 1) ∧
      (3 ≤ max x.nbr x.divActive → x.nbrLimit = true → t = s) ∧
      (3 ≤ max x.nbr x.divActive → x.nbrLimit = false → (getPtn t a).pwr.nbr = x.nbr ∧ (getPtn t a).pwr.nbrLimit = true ∧ isPending t srcModuleFault = true))) ∧
  (∀ (p : PtnId) (s : State),
    (let x := (getPtn s p.val).pwr
     ∃ t, exec (.neighbourStepLift p) s = .next t ∧ (if x.nbr ≠ 0 ∧ nbrsCalm s p.val = true then (getPtn t p.val).pwr.nbr = x.nbr - 1 ∧ (getPtn t p.val).pwr.nbrLimit = false else t = s))) ∧
  (∀ (n temp : Nat) (s : State), switchedUp s = true → 1840 ≤ temp → policyOf s 0x0803 = 5 →
    ∃ t, exec (.thermalTrip n temp) s = .next t ∧ PoweredOff 0x0803 t ∧ Recorded (faultRec s 0x0803 n (min 4095 temp)) s t ∧ Snapped s t ∧ isPending t srcThermalTrip = true)

/-- Coolant above 45 °C and 50 °C slows every partition until it is lifted; rail faults and the breaker power the module down; PLL losses reset
partitions and the module; a quarter's voltage reaches its target (13 R381, R387, R396; 15 R437; 01 R37; 11 R333). Stated at the default actions,
PLL_UNLOCK outside mirror runs. -/
def Obligations.CoolantRailsAndClocks : Prop :=
  (∀ (inlet outlet : Nat) (s : State), s.boot.aon = true → policyOf s 0x0802 = 0 →
    (let d := if 800 < inlet then 3 else if 720 < inlet then 2 else 0
     ∃ t, exec (.coolantSample inlet outlet) s = .next t ∧ t.pwr.inlet = min 4095 inlet ∧ t.pwr.outlet = min 4095 outlet ∧ t.pwr.coolDiv = max s.pwr.coolDiv d ∧
      t.pwr.coolHot = (s.pwr.coolHot || decide (s.pwr.coolDiv < d)) ∧ (s.pwr.coolDiv < d → s.pwr.coolHot = false → isPending t srcModuleFault = true))) ∧
  (∀ s : State, ∃ t, exec .coolantLift s = .next t ∧
    (if s.pwr.coolDiv ≠ 0 ∧ s.pwr.inlet ≤ 688 then t.pwr = { s.pwr with coolDiv := 0, coolHot := false } ∧ t.flt = s.flt ∧ t.boot = s.boot else t = s)) ∧
  (∀ (rail amps : Nat) (s : State), switchedUp s = true → s.boot.aon = true → rail ≤ 73 → policyOf s 0x0807 = 5 →
    ∃ t, exec (.railFault rail amps) s = .next t ∧ PoweredOff 0x0807 t ∧ Recorded (faultRec s 0x0807 rail amps) s t ∧ Snapped s t) ∧
  (∀ (amps : Nat) (s : State), switchedUp s = true → s.boot.aon = true → s.pwr.breaker = false → policyOf s 0x0807 = 5 →
    ∃ t, exec (.breakerOpen amps) s = .next t ∧ PoweredOff 0x0807 t ∧ t.pwr.breaker = true ∧ Recorded (faultRec s 0x0807 73 amps) s t ∧ Snapped s t) ∧
  (∀ (d : DieId) (s : State), isReady s = true → (getDie s d.val).pll = true → MirrorFree s → policyOf s 0x0102 = 3 →
    ∃ t, exec (.pllUnlock d) s = .next t ∧ (getDie t d.val).pll = false ∧ isPending t (srcDie d.val 1) = true ∧
      ∀ p ∈ ptnsOfDie s d.val, (getPtn s p).exists_ = true → (getPtn s p).reset = none → (getPtn t p).fig.st = .faulted ∧ (getPtn t p).reset.isSome = true) ∧
  (∀ (d : DieId) (s : State), isReady s = true → (getDie s d.val).pll = false → policyOf s 0x0103 = 4 →
    ∃ t, exec (.pllLost d) s = .next t ∧ ModuleResetBegan s t) ∧
  (∀ (d : DieId) (s : State), switchedUp s = true →
    ∃ t, exec (.pllRelock d) s = .next t ∧ t = { s with dies := t.dies } ∧ getDie t d.val = { getDie s d.val with pll := true } ∧ ∀ n, n ≠ d.val → getDie t n = getDie s n) ∧
  (∀ (q : QtrId) (s : State), (∀ p, ptnOfQtr s q.val = some p → ptnRuns (getPtn s p) = true ∨ (getPtn s p).fig.st = .mirror) →
    ∃ t, exec (.voltageReached q) s = .next t ∧ t = { s with qtrs := t.qtrs } ∧ getQtr t q.val = { getQtr s q.val with mv := (getQtr s q.val).mvTarget } ∧
      ∀ n, n ≠ q.val → getQtr t n = getQtr s n) ∧
  (∀ (q : QtrId) (p : Nat) (s : State), ptnOfQtr s q.val = some p → ptnRuns (getPtn s p) = false → (getPtn s p).fig.st ≠ .mirror → s.pwr.brake = false → s.pwr.brakeWait = false →
    (getPtn s p).pwr.brakePos = none → qtrsOf s p = [q.val] → divTarget s p < (getPtn s p).pwr.divActive →
    fasterPos s p (divTarget s p) (getPtn s p).pwr.divActive < (getPtn s p).pwr.divActive →
    mvOf (fasterPos s p (divTarget s p) (getPtn s p).pwr.divActive) ≤ (getQtr s q.val).mvTarget →
    ∃ t, exec (.voltageReached q) s = .next t ∧ (getPtn t p).pwr.divActive = fasterPos s p (divTarget s p) (getPtn s p).pwr.divActive ∧
      (getQtr t q.val).mv = (getQtr s q.val).mvTarget ∧ OtherPtns p s t)

/-! ### Resets, watchdogs and mirror mode (11 R333-R355; 12 R362; 15 R439) -/

/-- FLT_CMD begins a module, engine or partition reset with its HOST_RESET record; a module reset in progress absorbs the command, which is recorded
(11 R332-R337, R340-R342). -/
def Obligations.ResetCommandsBeginTheirLevel : Prop :=
  (∀ (fn : FnId) (s : State), Served s fn (fn.val == 0) true → isReady s = true →
    ∃ t, exec (.moduleReset fn) s = .next t ∧ ModuleResetBegan s t ∧ Recorded (hostResetRec s 4 0) s t ∧ isPending t srcModuleFault = true) ∧
  (∀ (fn : FnId) (s : State), Served s fn (fn.val == 0) true → s.boot.stage = .resetting →
    ∃ t u, exec (.moduleReset fn) s = .next t ∧ u = { s with flt := (logModule (hostResetRec s 4 0) s).flt } ∧ Signalled [srcModuleFault] u t) ∧
  (∀ (fn : FnId) (k : Nat) (d : DieId) (p : PtnId) (e : EngineSel) (s : State), Served s fn (fn.val == 0) true → isReady s = true → engineOf k d p = some e →
    engExists s e = true → engPending s e = false → (e = .figure p → (getPtn s p.val).reset = none) →
    ∃ t, exec (.engineReset fn k d p) s = .next t ∧ engPending t e = true ∧ t.flt.n2 = satAdd 32 s.flt.n2 1 ∧ Recorded ((hostResetRec s 2 (engScope e)).withSel e) s t ∧
      (∀ c ∈ affected s e, (getCtx s c).st = .enabled → (getCtx t c).st = .resetting) ∧
      (e = .mover d → (getDie t d.val).moverQ = []) ∧
      (e = .figure p → (getPtn t p.val).fe.queue = [] ∧ (getPtn t p.val).fe.saved = [] ∧ (getPtn t p.val).fe.run = none ∧ (getPtn t p.val).fe.mode = .gap) ∧
      isPending t (match e with | .figure q => srcPtn q.val 1 | _ => srcModuleFault) = true) ∧
  (∀ (fn : FnId) (p : PtnId) (s : State), Served s fn (fn.val == 0) true → isReady s = true → (getPtn s p.val).exists_ = true → (getPtn s p.val).reset = none →
    ∃ t, exec (.partitionReset fn p) s = .next t ∧ (getPtn t p.val).reset = some (0x0901, 0) ∧ (getPtn t p.val).fig.st = .faulted ∧ (getPtn t p.val).fe.mode = .idle ∧
      (getPtn t p.val).fe.queue = [] ∧ (getPtn t p.val).fe.run = none ∧ t.flt.n3 = satAdd 32 s.flt.n3 1 ∧ Recorded ((hostResetRec s 3 2).withPtn p.val) s t ∧
      (∀ c ∈ ctxsOf s p.val, (getCtx s c).st = .enabled → (getCtx t c).st = .resetting) ∧
      (∀ q, q ≠ p.val → (getPtn t q).fig = (getPtn s q).fig) ∧ isPending t (srcPtn p.val 1) = true)

/-- Engine resets end with their contexts ENABLED; a partition reset goes on to MIRROR with its figure and stores gone and its contexts' own resets
over; a module reset ends READY with contexts, rings and partitions gone, T0 and T1 cleared and retained objects kept (11 R340-R342; 07 R230; 14
R417). The first two are stated outside mirror runs, with COMPLETION_RING_FULL at its default action LOG. -/
def Obligations.ResetsEndAsTheirStepsSay : Prop :=
  (∀ (e : EngineSel) (s : State), isReady s = true → engPending s e = true →
    (∀ p, e = .figure p → (getPtn s p.val).fe.queue = [] ∧ (getPtn s p.val).fe.saved = []) → s.fab.here = [] → policyOf s 0x0503 = 0 → MirrorFree s →
    ∃ t, exec (.engineResetDone e .passed) s = .next t ∧ engPending t e = false ∧
      ∀ r ∈ s.flt.engResets.find? (fun r => decide (r.eng = e)), ∀ c ∈ r.ctxs, (getCtx s c).st = .resetting → ((getCtx s c).reset.any fun x => x.level == 2) = true →
        (∀ o ∈ s.flt.engResets, o.eng ≠ e → c ∉ o.ctxs) → (getCtx t c).st = .enabled ∧ (getCtx t c).reset = none) ∧
  (∀ (p : PtnId) (c : Nat) (s : State), isReady s = true → (getPtn s p.val).reset = some (c, 0) → policyOf s 0x0503 = 0 → MirrorFree s →
    ∃ t, exec (.partitionResetDone p) s = .next t ∧ (getPtn t p.val).reset = some (c, 1) ∧ (getPtn t p.val).fig.st = .mirror ∧ (getPtn t p.val).figure = none ∧
      (getPtn t p.val).cores = [] ∧ (getPtn t p.val).partner = [] ∧ ∀ k ∈ ctxsOf s p.val, (getCtx t k).reset = none) ∧
  (∀ s : State, s.boot.stage = .resetting → s.sets.isEmpty = false →
    ∃ t, exec .moduleResetDone s = .next t ∧ t.boot = { s.boot with stage := .ready } ∧ t.flt.resetting = false ∧ t.flt.log = s.flt.log ∧ t.ctxs = [] ∧ t.rings = [] ∧
      t.adapters = [] ∧ t.steers = [] ∧ t.masks = [] ∧ (∀ p, (getPtn t p).exists_ = false) ∧ t.mem.t0 = [] ∧ t.mem.t1 = [] ∧ t.mem.retained = s.mem.retained ++ retainedNow s ∧
      t.flt.recsInc = (s.flt.recsInc || entriesLeft s) ∧ t.fab.coord = s.fab.kept.getD 0 ∧ t.fab.valid = s.fab.kept.isSome ∧ t.fuses = s.fuses ∧ t.sets = s.sets ∧
      isPending t srcModuleResetDone = true ∧ t.out.mctp = s.out.mctp)

/-- SNAPSHOT takes the snapshot or notes the missed one, SNAP_RELEASE clears the lock, and FLT_POLICY takes a permitted level (11 R334, R352, R358).
Watchdogs, the Caller's restart, a core store's error, an engine's error and lost presence act as 11 R333, R355 and 15 R439 say. -/
def Obligations.SnapshotsPoliciesAndModuleErrors : Prop :=
  ((∀ (fn : FnId) (s : State), Served s fn (fn.val == 0) true →
      ∃ t u, exec (.snapshot fn) s = .next t ∧
        if s.flt.snapLock = true then u = t ∧ t = { s with flt := { s.flt with snapMissed := true } }
        else u = { s with flt := { s.flt with snap := snapshotOf 0 s, snapValid := true, snapLock := true } } ∧ Signalled [srcSnapshotTaken] u t) ∧
    (∀ (fn : FnId) (s : State), Served s fn (fn.val == 0) true →
      ∃ t, exec (.snapRelease fn) s = .next t ∧ t = { s with flt := { s.flt with snapLock := false } }) ∧
    ∀ (fn : FnId) (group number : Nat) (val : Word) (s : State), Served s fn (fn.val == 0) true → number < 16 → isFaultCode (256 * group + number) = true →
      ∃ t, exec (.policyWrite fn group number val) s = .next t ∧
        if policyBad (256 * group + number) (val.toNat % 8) = true then t = { s with flt := { s.flt with polRefused := true } }
        else t = { s with flt := { s.flt with policy := t.flt.policy } } ∧
          ∀ k, policyOf t k = if k = 256 * group + number then val.toNat % 8 else policyOf s k) ∧
  ((∀ (d : DieId) (missed : Nat) (s : State), isReady s = true → policyOf s 0x0104 = 4 →
      ∃ t, exec (.dieWatchdog d missed) s = .next t ∧ ModuleResetBegan s t ∧ isPending t (srcDie d.val 0) = true ∧ Recorded ((faultRec s 0x0104 0 missed).withDie d.val) s t) ∧
    (∀ (d : DieId) (missed : Nat) (s : State), switchedUp s = true → isReady s = false → policyOf s 0x0104 = 4 →
      ∃ t, exec (.dieWatchdog d missed) s = .next t ∧ t.boot = s.boot ∧ Snapped s t ∧ isPending t (srcDie d.val 0) = true ∧ isPending t srcModuleFault = true) ∧
    (∀ s : State, s.boot.aon = true → ∃ t, exec .callerWdogWarn s = .next t ∧ Signalled [srcWdogWarn] s t) ∧
    (∀ (pc : Word) (s : State), s.boot.aon = true → policyOf s 0x0105 = 0 →
      ∃ t u, exec (.callerRestart pc) s = .next t ∧ u = { s with flt := (logModule (faultRec s 0x0105 0 pc.toNat) s).flt } ∧ Signalled [srcModuleFault] u t) ∧
    (∀ (p : PtnId) (core addr : Nat) (s : State), isReady s = true → (getPtn s p.val).exists_ = true → (getPtn s p.val).reset = none → policyOf s 0x0106 = 3 →
      ∃ t, exec (.coreMemUe p core addr) s = .next t ∧ (getPtn t p.val).reset = some (0x0106, 0) ∧ (getPtn t p.val).fig.st = .faulted ∧
        Recorded ((faultRec s 0x0106 core addr).withPtn p.val) s t ∧ isPending t (srcPtn p.val 1) = true) ∧
    (∀ (e : EngineSel) (entry : Nat) (s : State), isReady s = true → engExists s e = true → engPending s e = false → (∀ p, e = .figure p → (getPtn s p.val).reset = none) →
      policyOf s 0x0505 = 2 → engDie s e < 8 →
      ∃ t, exec (.engineError e entry) s = .next t ∧ engPending t e = true ∧ isPending t (srcDie (engDie s e) 6) = true ∧
        Recorded ({ faultRec s 0x0505 0 entry with scope := engScope e }.withSel e) s t ∧ ∀ c ∈ affected s e, (getCtx s c).st = .enabled → (getCtx t c).st = .resetting) ∧
    (∀ s : State, s.boot.aon = true → isReady s = true → policyOf s 0x0903 = 4 →
      ∃ t, exec .presenceLost s = .next t ∧ t.boot.stage = .standby ∧ t.flt.recsInc = true ∧ t.flt.n4 = satAdd 32 s.flt.n4 1 ∧ Snapped s t ∧ t.ptns = [] ∧ t.ctxs = [] ∧ t.rings = [] ∧
        t.mem = {} ∧ t.pwr.railsOn = false ∧ t.out.mctp.head? = some ⟨0x0F, 0, 0, leBytes 2 0x0903⟩ ∧ Recorded (faultRec s 0x0903 0 0) s t ∧ t.fuses = s.fuses))
/-- A reset that exceeds its limit raises RESET_TIMEOUT and the next level starts: the engine that holds the context, the partition, the module, the
power-cycle request; so does a failed self-test (11 R336, R340, R344). Which engines still hold a context is the command's operand (log 37). -/
def Obligations.ResetTimeoutsStartTheNextLevel : Prop :=
  (∀ (c : CtxId) (stuck : List EngineSel) (s : State), isReady s = true → ctxPending s c.val = true →
    (∀ p, EngineSel.figure p ∈ holders s c.val stuck → (getPtn s p.val).reset = none) →
    ∃ t, exec (.resetTimeout (.context c stuck)) s = .next t ∧ (∀ e ∈ holders s c.val stuck, engPending t e = true) ∧
      (getCtx t c.val).st = .resetting ∧
      ∀ r, (getCtx s c.val).reset = some r → (∃ e ∈ holders s c.val stuck, r.engs.contains e = true ∧ engPending s e = false) →
        ((getCtx t c.val).reset.any fun x => x.level == 2) = true) ∧
  (∀ (e : EngineSel) (s : State), isReady s = true → engPending s e = true → engExists s e = true →
    (match e with
     | .figure p => (getPtn s p.val).reset = none →
        ∃ t, exec (.resetTimeout (.engine e)) s = .next t ∧ exec (.engineResetDone e .failed) s = .next t ∧ (getPtn t p.val).reset = some (0x0504, 0) ∧
          (getPtn t p.val).fig.st = .faulted ∧ engPending t e = false ∧ t.flt.n3 = satAdd 32 s.flt.n3 1 ∧ Recorded ((timeoutRec s 2 3 2).withPtn p.val) s t
     | _ => ∃ t, exec (.resetTimeout (.engine e)) s = .next t ∧ exec (.engineResetDone e .failed) s = .next t ∧ ModuleResetBegan s t ∧ Recorded (timeoutRec s 2 4 0) s t)) ∧
  (∀ (p : PtnId) (s : State), isReady s = true → ptnPending s p.val = true →
    ∃ t, exec (.resetTimeout (.partition p)) s = .next t ∧ ModuleResetBegan s t ∧ Recorded (timeoutRec s 3 4 0) s t) ∧
  (∀ s : State, s.boot.stage = .resetting →
    ∃ t, exec (.resetTimeout .module) s = .next t ∧ PoweredOff 0x0504 t ∧ Recorded (timeoutRec s 4 5 0) s t ∧ Snapped s t)

/-- Mirror mode asks its neighbours for its divider, then waits while a condition of R350 stands against it, waits for the neighbours or the rails, or
loads its image at MIRROR_DIV; a run that exceeds its limit fails with kind 6 (11 R347-R350). That the limit names figure quarter 0 is the model's choice
(log 56). -/
def Obligations.MirrorModeRunsToItsEnd : Prop :=
  (∀ (p : PtnId) (c : Nat) (s : State), isReady s = true → (getPtn s p.val).reset = some (c, 1) → (getPtn s p.val).fig.st = .mirror →
    (getPtn s p.val).flt.cur.mirrorSlot < 8 →
    (let n := (qtrsOf s p.val).length
     let f := match namedMirror s p.val with | some e => e.2 | none => builtinFigure s n
     let d := mirrorDivOf f
     let rej := (getPtn s p.val).flt.cur.mirrorNamed && (namedMirror s p.val).isNone
     let u := calmNeighbours p.val d (if rej then modPFlt p.val (fun y => { y with slotRejected := true }) s else s)
     ∃ t, exec (.mirrorStart p) s = .next t ∧ t.boot = s.boot ∧ t.ctxs = s.ctxs ∧ t.rings = s.rings ∧
      (getPtn t p.val).flt.slotRejected = ((getPtn s p.val).flt.slotRejected || rej) ∧ (getPtn t p.val).pwr.mirrorWant = some d ∧ (getPtn t p.val).fig.st = .mirror ∧
      (if (mirrorBlocked u p.val f d || ((qtrsOf s p.val).any fun q => (getQtr u q).clamping)) = true then
        (getPtn t p.val).reset = some (c, 1) ∧ (getPtn t p.val).flt.mirrorWait = true ∧ t.qtrs = u.qtrs
       else if nbrsFit u p.val d = false then (getPtn t p.val).reset = some (c, 1) ∧ (getPtn t p.val).flt.mirrorWait = false ∧ t.qtrs = u.qtrs
       else if voltsReach u p.val (mvOf d) = false then
        (getPtn t p.val).reset = some (c, 1) ∧ (getPtn t p.val).flt.mirrorWait = false ∧ ∀ q ∈ qtrsOf s p.val, (getQtr t q).mvTarget = mvOf d
       else
        (getPtn t p.val).reset = some (c, 2) ∧ (getPtn t p.val).figure = some f ∧ (getPtn t p.val).pwr.divActive = d ∧ (getPtn t p.val).flt.mirrorWait = false ∧
          (getPtn t p.val).mirrorRounds = 0 ∧ ∀ q ∈ qtrsOf s p.val, (getQtr t q).mvTarget = mvOf d))) ∧
  ∀ (p : PtnId) (s : State), isReady s = true → mirroring (getPtn s p.val) = true → policyOf s 0x0206 = 4 →
    ∃ t, exec (.mirrorTimeout p) s = .next t ∧ ModuleResetBegan s t ∧ (getPtn t p.val).fig.st = .faulted ∧ Recorded ((faultRec s 0x0206 0 6).withPtn p.val) s t

/-- Once its rounds are over, a run that agrees with the REPORT passes: the mirror figure leaves the cores, FIG_STATE is EMPTY, the partition's contexts are
ENABLED and the installed slots stay. A difference, or a fault raised in the partition during the run, fails it: MIRROR_FAIL names the figure quarter and
the kind, FIG_STATE is FAULTED, and the default action starts a module reset (11 R349, R351). The order of the comparison and the quarter of a fault are
the model's choices (log 56). -/
def Obligations.MirrorModeEndsEmptyOrFaulted : Prop :=
  (∀ (p : PtnId) (f : Figure) (ms : List MirrorRound) (s : State), isReady s = true → mirroring (getPtn s p.val) = true → (getPtn s p.val).figure = some f →
    (mirrorTarget (getPtn s p.val) ≤ (getPtn s p.val).mirrorRounds → mirrorDiffers f ms = none →
     ∃ t, exec (.mirrorDone p ms) s = .next t ∧ (getPtn t p.val).fig.st = .empty ∧ (getPtn t p.val).reset = none ∧ (getPtn t p.val).figure = none ∧
      (getPtn t p.val).cores = [] ∧ (getPtn t p.val).fig.slots = (getPtn s p.val).fig.slots ∧ isPending t (srcPtn p.val 5) = true ∧
      ∀ c ∈ ctxsOf s p.val, (getCtx s c).st = .resetting → (getCtx s c).reset = none → (getCtx t c).st = .enabled) ∧
    (∀ q k, mirrorTarget (getPtn s p.val) ≤ (getPtn s p.val).mirrorRounds → mirrorDiffers f ms = some (q, k) → policyOf s 0x0206 = 4 →
     ∃ t, exec (.mirrorDone p ms) s = .next t ∧ ModuleResetBegan s t ∧ (getPtn t p.val).fig.st = .faulted ∧ isPending t (srcPtn p.val 5) = true ∧
      Recorded ((faultRec s 0x0206 q k).withPtn p.val) s t) ∧
    ((getPtn s p.val).mirrorRounds < mirrorTarget (getPtn s p.val) → exec (.mirrorDone p ms) s = .next s)) ∧
  (∀ (p : PtnId) (core addr : Nat) (s : State), isReady s = true → (getPtn s p.val).exists_ = true → mirroring (getPtn s p.val) = true → core < 81920 →
    policyOf s 0x0106 = 3 → policyOf s 0x0206 = 4 →
    ∃ t n, exec (.coreMemUe p core addr) s = .next t ∧ ModuleResetBegan s t ∧ (getPtn t p.val).fig.st = .faulted ∧ isPending t (srcPtn p.val 5) = true ∧
      t.flt.log.head? = some { (faultRec s 0x0206 (core / 2560) 5).withPtn p.val with seq := n, time := s.time })

/-! ### Management messages, attestation, the management bus, the mailbox and the host link (14 R407-R422; 13 R448; 15 R429-R436) -/

/-- Telemetry, the log, the snapshot and its release are answered in every stage but RECOVERY_WAIT, which answers STATE (13 R448; 11 R352; 14 R407, R416).
That RECOVERY_WAIT answers STATE is the model's reading. A firmware chunk goes to the always-on SRAM; a commit is checked as R406 says, answered AUTH
or FORMAT with its FAIL_CODE, or written to flash, and from RECOVERY_WAIT start-up goes on with it (14 R406-R408). Which codes are FORMAT is the
model's choice. -/
def Obligations.ManagementReadsAndFirmware : Prop :=
  ((∀ (inst : Nat) (s : State), Reached s → s.boot.stage ≠ .recoveryWait →
      ∃ t, exec (.getTelemetry inst) s = .next t ∧ Answered 0x04 0 inst (telemetry s) s t ∧ (telemetry s).length = 692) ∧
    (∀ (inst first count : Nat) (s : State), Reached s → s.boot.stage ≠ .recoveryWait → 1 ≤ count → count ≤ 32 →
      ∃ t, exec (.getLog inst first count) s = .next t ∧ Answered 0x05 0 inst (logBytes s first count) s t) ∧
    (∀ (inst off len : Nat) (s : State), Reached s → s.boot.stage ≠ .recoveryWait → 1 ≤ len → len ≤ 1024 → off + len ≤ 0x50000 →
      ∃ t, exec (.getSnapshot inst off len) s = .next t ∧ Answered 0x06 0 inst (mread s.flt.snap off len) s t) ∧
    (∀ (inst : Nat) (s : State), Reached s → s.boot.stage ≠ .recoveryWait →
      ∃ t, exec (.mctpSnapRelease inst) s = .next t ∧ Answered 0x07 0 inst [] { s with flt := { s.flt with snapLock := false } } t) ∧
    (∀ (inst a b : Nat) (s : State), Reached s → s.boot.stage = .recoveryWait →
      ∃ t u v w, exec (.getTelemetry inst) s = .next t ∧ exec (.getLog inst a b) s = .next u ∧ exec (.getSnapshot inst a b) s = .next v ∧ exec (.mctpSnapRelease inst) s = .next w ∧
        Answered 0x04 2 inst [] s t ∧ Answered 0x05 2 inst [] s u ∧ Answered 0x06 2 inst [] s v ∧ Answered 0x07 2 inst [] s w)) ∧
  ((∀ (inst off : Nat) (data : List Byte) (s : State), Reached s → s.boot.stage ∈ [Stage.recoveryWait, .standby, .ready, .failed] → data ≠ [] → data.length ≤ 1024 →
      off + data.length ≤ 0x800000 →
      ∃ t, exec (.fwTransfer inst off data) s = .next t ∧ Answered 0x08 0 inst [] { s with boot := { s.boot with upload := mwrite s.boot.upload off data } } t) ∧
    (∀ (inst size : Nat) (s : State), Reached s → s.boot.stage ∈ [Stage.standby, .ready, .failed] → s.boot.flashBusy = false → size ≤ 0x800000 →
      ∃ t, exec (.fwCommit inst size) s = .next t ∧
        match fwCheck s.fuses (mread s.boot.upload 0 size) size with
        | .error c => Answered 0x09 (if c ≤ 2 then 1 else 4) inst (leBytes 1 c) s t
        | .ok _ => Answered 0x09 0 inst [] { s with boot := { s.boot with flash := s.boot.upload, flashSize := size } } t) ∧
    (∀ (inst size : Nat) (s : State), Reached s → s.boot.stage = .recoveryWait → s.boot.flashBusy = false → size ≤ 0x800000 →
      ∃ t, exec (.fwCommit inst size) s = .next t ∧
        match fwCheck s.fuses (mread s.boot.upload 0 size) size with
        | .error c => Answered 0x09 (if c ≤ 2 then 1 else 4) inst (leBytes 1 c) { s with boot := { s.boot with failCode := c } } t
        | .ok i => t.boot = { s.boot with
              stage := .standby, failCode := 0, recovered := true, keySlot := i.slot, version := i.version, imgSvn := i.svn, raiseSvn := i.raise, imgDigest := i.digest
              sram := s.boot.upload, sramSize := size, flashBusy := true } ∧
            t.out.mctp = ⟨0x09, 0, inst, []⟩ :: s.out.mctp) ∧
    (∀ (inst size : Nat) (s : State), Reached s → s.boot.stage ∈ [Stage.recoveryWait, .standby, .ready, .failed] → s.boot.flashBusy = true →
      ∃ t, exec (.fwCommit inst size) s = .next t ∧ Answered 0x09 3 inst [] s t))

/-- A fresh nonce is kept and answered; KEY_PROVISION and KEY_REVOKE are refused by FORMAT, AUTH and STATE in that order, VENDOR_DISABLE by AUTH,
STATE and AUTH for another signer, or they burn their fuse and renew measurement 0x04; a revoked key's figures are INVALID (14 R409-R413; 02 R63). The
nonce is free (log 5), and the order of the statuses is the model's choice (log 57). -/
def Obligations.KeyMessagesBurnTheirFuses : Prop :=
  (∀ (inst : Nat) (s : State), Reached s → standbyUp s.boot.stage = true →
    ∃ t n, exec (.getNonce inst) s = .next t ∧ n < 2 ^ 128 ∧
      Answered 0x0A 0 inst (leBytes 16 n) { s with mgmt := { s.mgmt with nonce := some n }, free := s.free + 4 } t) ∧
  (∀ (inst : Nat) (m : KeyMsg) (s : State), Reached s → standbyUp s.boot.stage = true →
    ∃ t, exec (.keyProvision inst m) s = .next t ∧
      if m.slot = 0 ∨ 4 < m.slot then Answered 0x0B 1 inst [] s t
      else if keySigned s 0x0B m = false ∨ (decide (m.signer = 0) ≠ decide (s.fuses.provisioned = 0)) then Answered 0x0B 4 inst [] s t
      else if bit s.fuses.provisioned (m.slot - 1) = true then Answered 0x0B 2 inst [] s t
      else
        let f := { s.fuses with
          provisioned := setBit s.fuses.provisioned (m.slot - 1), ownerX := tset 0 m.slot m.keyX s.fuses.ownerX, ownerY := tset 0 m.slot m.keyY s.fuses.ownerY }
        Answered 0x0B 0 inst [] { s with fuses := f, mgmt := { s.mgmt with meas := tput 4 (measureKeys f) s.mgmt.meas } } t) ∧
  (∀ (inst : Nat) (m : KeyMsg) (s : State), Reached s → standbyUp s.boot.stage = true →
    ∃ t, exec (.keyRevoke inst m) s = .next t ∧
      if m.slot = 0 ∨ 4 < m.slot then Answered 0x0C 1 inst [] s t
      else if keySigned s 0x0C m = false ∨ m.signer = m.slot then Answered 0x0C 4 inst [] s t
      else
        let f := { s.fuses with revoked := setBit s.fuses.revoked (m.slot - 1) }
        Answered 0x0C 0 inst [] { s with fuses := f, mgmt := { s.mgmt with meas := tput 4 (measureKeys f) s.mgmt.meas }, ptns := t.ptns } t ∧
          ∀ p k, (getSlot s p k).st = .valid → ((getSlot s p k).fig.any fun g => g.keySlot == m.slot) = true →
            (getSlot t p k).st = .invalid ∧ (getSlot t p k).err = 3) ∧
  (∀ (inst : Nat) (m : KeyMsg) (s : State), Reached s → standbyUp s.boot.stage = true →
    ∃ t, exec (.vendorDisable inst m) s = .next t ∧
      if keyGenuine s 0x0D m = false then Answered 0x0D 4 inst [] s t
      else if [1, 2, 3, 4].all (fun k => !slotAccepted s.fuses k) = true then Answered 0x0D 2 inst [] s t
      else if slotAccepted s.fuses m.signer = false ∨ m.signer = 0 then Answered 0x0D 4 inst [] s t
      else
        let f := { s.fuses with vendorOff := true }
        Answered 0x0D 0 inst [] { s with fuses := f, mgmt := { s.mgmt with meas := tput 4 (measureKeys f) s.mgmt.meas } } t)

/-- SET_COORD gives the module its coordinate while no port has a peer, and ports that were training begin again with it (14 R416, R417). The endpoint ID
and the dynamic address are set and dropped as their messages say; the mailbox answers the firmware's version and the repair map, and STATE below
READY (14 R421; 15 R429, R430). Refused endpoint IDs and STATE by stage number are the model's readings. -/
def Obligations.CoordinateAddressesAndMailbox : Prop :=
  ((∀ (inst coord : Nat) (s : State), Reached s → standbyUp s.boot.stage = true → coord < 65536 → (s.fab.valid = true → s.fab.coord ≠ coord) →
      (s.fab.valid = true → ∀ n, n < 18 → (getPort s n).st ∉ [PortSt.exchange, .active, .retrain]) →
      ∃ t, exec (.setCoord inst coord) s = .next t ∧ t.fab = { s.fab with coord := coord, valid := true, kept := some coord, ports := t.fab.ports } ∧
        t.out.mctp = ⟨0x01, 0, inst, []⟩ :: s.out.mctp ∧ (s.fab.valid = false → isPending t srcCoordSet = true) ∧
        ∀ n, n < 18 → (getPort t n).st =
          if (getPort s n).st ∈ [PortSt.equalise, .align] ∨ ((getPort s n).st = .off ∧ (getPort s n).enable = true ∧ isReady s = true) then .detect else (getPort s n).st) ∧
    (∀ (inst coord : Nat) (s : State), Reached s → standbyUp s.boot.stage = true → coord < 65536 → s.fab.valid = true → s.fab.coord = coord →
      ∃ t, exec (.setCoord inst coord) s = .next t ∧ Answered 0x01 0 inst [] s t) ∧
    (∀ (inst coord n : Nat) (s : State), Reached s → standbyUp s.boot.stage = true → coord < 65536 → s.fab.valid = true → s.fab.coord ≠ coord → n < 18 →
      (getPort s n).st ∈ [PortSt.exchange, .active, .retrain] →
      ∃ t, exec (.setCoord inst coord) s = .next t ∧ Answered 0x01 3 inst [] s t) ∧
    (∀ (inst coord : Nat) (s : State), Reached s → s.boot.stage ∈ [Stage.rom, .verify, .recoveryWait] →
      ∃ t, exec (.setCoord inst coord) s = .next t ∧ Answered 0x01 2 inst [] s t)) ∧
  ((∀ (eid : Byte) (s : State), s.boot.aon = true → eid ≠ 0 → eid ≠ 0xFF →
      ∃ t u, exec (.setEndpointId eid) s = .next t ∧ u = { s with mgmt := { s.mgmt with eid := some eid.toNat } } ∧ Signalled [srcMctpRx, srcMctpTxDone] u t) ∧
    (∀ (dyn : Nat) (s : State), s.boot.aon = true → s.mgmt.dynAddr = none → dyn < 128 →
      ∃ t, exec (.setdasa (0x40 + s.boot.slotId) dyn) s = .next t ∧ exec (.entdaa dyn) s = .next t ∧ t = { s with mgmt := { s.mgmt with dynAddr := some dyn } }) ∧
    (∀ (static_ dyn : Nat) (s : State), static_ ≠ 0x40 + s.boot.slotId ∨ s.mgmt.dynAddr.isSome = true → exec (.setdasa static_ dyn) s = .next s) ∧
    (∀ s : State, s.boot.aon = true → ∃ t, exec .rstdaa s = .next t ∧ t = { s with mgmt := { s.mgmt with dynAddr := none } }) ∧
    (∀ s : State, s.mbox.busy = true → s.mbox.op = 1 → 8 ≤ stageNo s.boot.stage →
      ∃ t, exec .fwInfo s = .next t ∧ t = { s with mbox := { s.mbox with busy := false, code := 0, rsp := t.mbox.rsp } } ∧
        (∀ k, tget 0 t.mbox.rsp k = if k = 0 then s.boot.version else if k = 1 then pack [(0, 7, s.boot.imgSvn), (8, 3, s.boot.keySlot)] else 0)) ∧
    (∀ s : State, s.mbox.busy = true → s.mbox.op = 2 → 8 ≤ stageNo s.boot.stage → bits (tget 0 s.mbox.req 0) 0 10 < 640 →
      ∃ t, exec .repairMap s = .next t ∧ t = { s with mbox := { s.mbox with busy := false, code := 0, rsp := t.mbox.rsp } } ∧
        ∀ k, k < 8 → tget 0 t.mbox.rsp k =
          leNat ((List.range 4).map fun j => BitVec.ofNat 8 (physCore (getSet s (bits (tget 0 s.mbox.req 0) 0 10)) (32 * bits (tget 0 s.mbox.req 1) 0 2 + 4 * k + j)))) ∧
    (∀ s : State, s.mbox.busy = true → s.mbox.op = 2 → 8 ≤ stageNo s.boot.stage → 640 ≤ bits (tget 0 s.mbox.req 0) 0 10 →
      ∃ t, exec .repairMap s = .next t ∧ t = { s with mbox := { s.mbox with busy := false, code := 1, rsp := [] } }) ∧
    (∀ s : State, s.mbox.busy = true → stageNo s.boot.stage < 8 →
      (s.mbox.op = 1 → exec .fwInfo s = .next { s with mbox := { s.mbox with busy := false, code := 2, rsp := [] } }) ∧
      (s.mbox.op = 2 → exec .repairMap s = .next { s with mbox := { s.mbox with busy := false, code := 2, rsp := [] } })))
/-- Measurements are served over both transports with a fresh signature of the alias key; GET_VERSION resets the connection and NEGOTIATE_ALGORITHMS sets it
up; certificates and challenges are of slot 0, whose chain ends in the alias certificate (14 R412-R415). Codes, and what is signed, are the model's (log
5). -/
def Obligations.AttestationAnswers : Prop :=
  (∀ (tr : Transport) (is : List Nat) (s : State), spdmOpen s tr = true →
    let body := (is.filter (measServed s)).flatMap (measBlock s)
    ∃ t, exec (.getMeasurements tr is) s = .next t ∧ t.free = s.free + 1 ∧ t.mgmt = s.mgmt ∧ t.boot = s.boot ∧ t.fuses = s.fuses ∧
      t.out.spdm = (tr, spdmBytes 0x60 (body ++ aliasSignature s body)) :: s.out.spdm) ∧
  (∀ (tr : Transport) (r : SpdmReq) (s : State), spdmOpen s tr = true →
    ∃ t, exec (.spdmRequest tr r) s = .next t ∧ t.boot = s.boot ∧ t.fuses = s.fuses ∧
      (match tr with
       | .doe => t.mgmt.spdmMctp = s.mgmt.spdmMctp ∧ t.mgmt.spdmDoe = (match r with | .getVersion => false | .negotiateAlgorithms => true | _ => s.mgmt.spdmDoe)
       | .mctp => t.mgmt.spdmDoe = s.mgmt.spdmDoe ∧ t.mgmt.spdmMctp = (match r with | .getVersion => false | .negotiateAlgorithms => true | _ => s.mgmt.spdmMctp)) ∧
      (match r with
       | .getDigests => t.out.spdm = (tr, spdmBytes 0x01 (sha256 (certChain s))) :: s.out.spdm
       | .getCertificate k => t.out.spdm = (tr, if k = 0 then spdmBytes 0x02 (certChain s) else spdmBytes 0x7F [1]) :: s.out.spdm
       | .challenge k => t.out.spdm = (tr, if k = 0 then spdmBytes 0x03 (sha256 (certChain s) ++ aliasSignature s (sha256 (certChain s))) else spdmBytes 0x7F [1]) :: s.out.spdm ∧
          t.free = if k = 0 then s.free + 1 else s.free
       | _ => t.out.spdm.length = s.out.spdm.length + 1))

/-- An FLR clears its VF's configuration and resets its partition's contexts; link loss clears every function, disables every ring and resets the
contexts that had one; the link comes back (15 R435, R436). That every ring shows DMA_ERR, and what an FLR keeps, are the model's readings (log 3).
Bus Master Enable lets what was held go out: index write-backs, RESET completions and messages; the other configuration bits take their written value,
and VF Enable cleared resets the VFs' configuration (12 R370; 15 R432, R436, R449). Link loss is stated outside mirror runs. -/
def Obligations.HostLinkAndConfiguration : Prop :=
  ((∀ (vf : FnId) (s : State), s.linkUp = true → s.vfEnable = true → vf.val ≠ 0 →
      ∃ t, exec (.flr vf) s = .next t ∧ (getFn t vf.val).bme = false ∧ (getFn t vf.val).msixEnable = false ∧ (getFn t vf.val).fnMask = false ∧ (getFn t vf.val).msix = [] ∧
        (∀ f, f ≠ vf.val → getFn t f = { getFn s f with pba := (getFn t f).pba }) ∧ isPending t srcFunctionChange = true ∧ t.vfEnable = true ∧ t.linkUp = true ∧
        ∀ p, ptnOfFn s vf.val = some p → isReady s = true → ∀ c ∈ ctxsOf s p, (getCtx s c).st = .enabled → (getCtx t c).st = .resetting ∧
          ((getCtx t c).reset.any fun r => r.level == 1 && r.cause == 0x0901 && r.db) = true) ∧
    (∀ (cause : LinkCause) (s : State), s.linkUp = true → MirrorFree s →
      ∃ t, exec (.linkLoss cause) s = .next t ∧ t.linkUp = false ∧ t.vfEnable = false ∧ t.flt.recsInc = true ∧ isPending t srcHostLink = true ∧
        (∀ f, (getFn t f).bme = false ∧ (getFn t f).msixEnable = false ∧ (getFn t f).memSpace = false) ∧
        (∀ r, r < 32768 → (getRing t r).cur.enable = false ∧ (getRing t r).sh.enable = false ∧ (getRing t r).dmaErr = true ∧ (getRing t r).started = []) ∧
        ∀ e ∈ s.rings, isReady s = true → e.2.cur.enable = true → (getCtx s e.2.cur.ctx).st = .enabled → (getCtx t e.2.cur.ctx).st = .resetting) ∧
    (∀ s : State, s.boot.aon = true → s.linkUp = false →
      ∃ t u, exec .linkUp s = .next t ∧ u = { s with linkUp := true } ∧ Signalled [srcHostLink] u t)) ∧
  ((∀ (fn : FnId) (s : State), cfgOpen s fn.val = true → (getFn s fn.val).bme = false →
      ∃ t, exec (.busMasterEnable fn) s = .next t ∧ (getFn t fn.val).bme = true ∧ isPending t srcFunctionChange = true ∧ (∀ f, f ≠ fn.val → (getFn t f).bme = (getFn s f).bme) ∧
        t.ptns = s.ptns ∧ t.ctxs = s.ctxs ∧ t.boot = s.boot ∧ t.mem = s.mem ∧
        ∀ r x, s.rings = [(r, x)] → x.cur.enable = true → x.cur.type = 0 → ptnFn s x.ptn = fn.val → x.cur.wb ≠ 0 → x.resets = [] →
          t.out.hostMem = mwrite s.out.hostMem x.cur.wb (leBytes 4 x.head)) ∧
    (∀ (fn : FnId) (b : Bool) (s : State), cfgOpen s fn.val = true →
      ∃ t u v, exec (.configurationWrite fn (.msixEnable b)) s = .next t ∧ exec (.configurationWrite fn (.functionMask b)) s = .next u ∧
        exec (.configurationWrite fn (.memorySpace b)) s = .next v ∧ (getFn t fn.val).msixEnable = b ∧ (getFn u fn.val).fnMask = b ∧ (getFn v fn.val).memSpace = b ∧
        v = { s with fns := v.fns } ∧ ∀ f, f ≠ fn.val → getFn t f = getFn s f ∧ getFn u f = getFn s f ∧ getFn v f = getFn s f) ∧
    (∀ (b : Bool) (s : State), s.linkUp = true → s.vfEnable ≠ b →
      ∃ t, exec (.configurationWrite 0 (.vfEnable b)) s = .next t ∧ t.vfEnable = b ∧ isPending t srcFunctionChange = true ∧ (twf {} s.fns = true → (getFn t 0).bme = (getFn s 0).bme) ∧
        (b = false → ∀ f, f ≠ 0 → (getFn t f).bme = false ∧ (getFn t f).msixEnable = false ∧ (getFn t f).memSpace = false)))

/-! ### The whole machine -/

/-- Every command, and the idle step, keeps every memory and the pending set in canonical form: no command leaves two entries for one address, or an entry that says nothing. -/
def Obligations.EveryStepKeepsTheCanonicalForm : Prop := ∀ s t : State, canonical s → step s = .next t → canonical t

/-- The canonical form holds right after reset. -/
def Obligations.ResetIsCanonical : Prop := canonical State.reset

/-- No step clears a fuse bit, changes a provisioned key or lowers SVN: only the key messages and a firmware image's raise burn fuses (14 R406, R409-R411). -/
def Obligations.FusesOnlyChangeFromZeroToOne : Prop := ∀ s t : State, step s = .next t → fusesGrow s.fuses t.fuses

/-- Commands are taken first in, first out: every step takes the front command alone, no command adds to the queue, and no command stops the block. -/
def Obligations.EveryStepTakesTheFrontCommandAlone : Prop := ∀ s : State, ∃ t, step s = .next t ∧ t.pending = s.pending.tail

/-- Resets of every level, power-downs and every other command keep the event controller's set-up: sources' configuration, mask bits and the VFs' table
sizes change only by writes of its own registers, by firmware that starts, and with the always-on domain's power (12 R374). -/
def Obligations.EventSetupSurvivesEveryReset : Prop :=
  ∀ (c : Instr) (s t : State), configuresEvents c = false → exec c s = .next t → sameEventSetup s t
end

