-- ==== Sys2Proof/Laws/Frames.lean ====
section
/-! SUPPORT. What the link layer's frames say (10 R299): the bytes of a frame read back as that frame, and a frame whose CRC does not match reads
as none, whatever the code's parity and the CRC's start are (log 28). -/
namespace Sys2Proof.Laws
open Sys2Proof.Machine

theorem slice_length (l : List Byte) (o n : Nat) : (slice l o n).length = n := by
  simp only [slice, List.length_append, List.length_take, List.length_drop, List.length_replicate]; omega

theorem slice_append_left {a b : List Byte} {o n : Nat} (h : o + n ≤ a.length) : slice (a ++ b) o n = slice a o n := by
  simp only [slice, List.drop_append, List.take_append, List.length_drop]
  rw [show n - (a.length - o) = 0 by omega]; simp

theorem slice_append_right (a b : List Byte) (o n : Nat) : slice (a ++ b) (a.length + o) n = slice b o n := by
  simp only [slice, List.drop_append, List.drop_eq_nil_of_le (Nat.le_add_right a.length o), Nat.add_sub_cancel_left, List.nil_append]

theorem slice_self {l : List Byte} {n : Nat} (h : l.length = n) : slice l 0 n = l := by
  subst h; simp [slice]

theorem leBytes_length : ∀ k n, (leBytes k n).length = k
  | 0, _ => rfl
  | k + 1, n => by simp [leBytes, leBytes_length k]

theorem leNat_leBytes : ∀ k n, leNat (leBytes k n) = n % 256 ^ k
  | 0, n => by simp [leBytes, leNat, Nat.mod_one]
  | k + 1, n => by
    show (BitVec.ofNat 8 n).toNat + 256 * leNat (leBytes k (n / 256)) = n % 256 ^ (k + 1)
    rw [leNat_leBytes k, Nat.pow_succ, Nat.mul_comm (256 ^ k) 256, Nat.mod_mul]; simp

theorem slice_leBytes : ∀ k n, slice (leBytes (k + 1) n) 0 k = leBytes k n := by
  intro k n
  have : ∀ k n, (leBytes (k + 1) n).take k = leBytes k n := by
    intro k
    induction k with
    | zero => intro n; rfl
    | succ k ih => intro n; show BitVec.ofNat 8 n :: (leBytes (k + 1) (n / 256)).take k = _; rw [ih]; rfl
  simp [slice, this, leBytes_length]

theorem slice_chunks : ∀ (cs : List (List Byte)), (∀ c ∈ cs, c.length = 64) → ∀ (b : List Byte) (i : Nat) (h : i < cs.length),
    slice (cs.flatten ++ b) (64 * i) 64 = cs[i]
  | [], _, _, _, h => absurd h (Nat.not_lt_zero _)
  | c :: cs, hc, b, 0, _ => by
    rw [List.flatten_cons, List.append_assoc, Nat.mul_zero, slice_append_left (by rw [hc c (by simp)])]; exact slice_self (hc c (by simp))
  | c :: cs, hc, b, i + 1, h => by
    have hl := hc c (by simp)
    rw [List.flatten_cons, List.append_assoc, show 64 * (i + 1) = c.length + 64 * i by omega, slice_append_right,
      slice_chunks cs (fun x hx => hc x (by simp [hx])) b i (by simpa using h)]; rfl

theorem crc24Bit_lt (c : Nat) (x : Bool) : crc24Bit c x < 2 ^ 24 := by
  unfold crc24Bit
  split
  · exact Nat.xor_lt_two_pow (Nat.mod_lt _ (by decide)) (by decide)
  · exact Nat.mod_lt _ (by decide)

theorem crc24_lt (bs : List Byte) : crc24 bs < 2 ^ 24 := by
  have inner : ∀ (is : List Nat) (y : Byte) (c : Nat), c < 2 ^ 24 → is.foldl (fun c i => crc24Bit c (bit y.toNat (7 - i))) c < 2 ^ 24 := by
    intro is y
    induction is with
    | nil => exact fun _ h => h
    | cons i is ih => exact fun c _ => ih _ (crc24Bit_lt c _)
  have outer : ∀ (l : List Byte) (c : Nat), c < 2 ^ 24 →
      l.foldl (fun c b => (List.range 8).foldl (fun c i => crc24Bit c (bit b.toNat (7 - i))) c) c < 2 ^ 24 := by
    intro l
    induction l with
    | nil => exact fun _ h => h
    | cons y l ih => exact fun c h => ih _ (inner _ y c h)
  exact outer bs _ (Nat.mod_lt _ (by decide))

/-- The frame that a body of 524 bytes and a last word say. -/
theorem readFrame_wire (body last : List Byte) (hb : body.length = 524) (hl : last.length = 4) :
    readFrame (body ++ last ++ frameParity (body ++ last)) =
      if leNat (slice last 0 3) ≠ crc24 body then none
      else some {
        seq := bits (leNat (slice body 512 4)) 0 12, ack := bits (leNat (slice body 512 4)) 12 12, nak := bit (leNat (slice body 512 4)) 24,
        slots := (List.range 8).map fun i =>
          ⟨bits (leNat (slice body 516 4)) (2 * i) 2, bits (leNat (slice body 516 4)) (16 + 2 * i) 2, bit (leNat last) (24 + i), slice body (64 * i) 64⟩,
        credits := (List.range 4).map fun v => bits (leNat (slice body 520 4)) (8 * v) 8 } := by
  have hd : (body ++ last).length = 528 := by simp [hb, hl]
  have hp : (frameParity (body ++ last)).length = 16 := slice_length _ _ _
  have dec : frameDecode (body ++ last ++ frameParity (body ++ last)) = some (body ++ last) := by
    have h1 : padTo 528 (body ++ last ++ frameParity (body ++ last)) = body ++ last := by
      unfold padTo; rw [slice_append_left (by omega)]; exact slice_self hd
    have h2 : slice (body ++ last ++ frameParity (body ++ last)) 528 16 = frameParity (body ++ last) := by
      have := slice_append_right (body ++ last) (frameParity (body ++ last)) 0 16
      rw [hd, Nat.add_zero] at this; rw [this]; exact slice_self hp
    unfold frameDecode
    simp only [h1, h2, if_true]
  have h0 : slice (body ++ last) 0 524 = body := by rw [slice_append_left (by omega)]; exact slice_self hb
  have h3 : slice (body ++ last) 524 3 = slice last 0 3 := by have := slice_append_right body last 0 3; rwa [hb] at this
  have h4 : slice (body ++ last) 524 4 = last := by
    have := slice_append_right body last 0 4; rw [hb] at this; rw [this]; exact slice_self hl
  have hw : ∀ j, j + 4 ≤ 524 → slice (body ++ last) j 4 = slice body j 4 := fun j h => slice_append_left (by omega)
  have hs : ∀ i ∈ List.range 8, slice (body ++ last) (64 * i) 64 = slice body (64 * i) 64 := fun i h =>
    slice_append_left (by have := List.mem_range.1 h; omega)
  unfold readFrame
  simp only [dec, h0, h3, Nat.reduceMul, Nat.reduceAdd, h4, hw 512 (by omega), hw 516 (by omega), hw 520 (by omega)]
  split
  · rfl
  · congr 2
    exact List.map_congr_left fun i h => by rw [hs i h]

/-- A frame whose fields fit their widths. -/
def FrameOk (f : Frame) : Prop :=
  f.seq < 4096 ∧ f.ack < 4096 ∧ f.slots.length = 8 ∧ (∀ k ∈ f.slots, k.kind < 4 ∧ k.vl < 4 ∧ k.data.length = 64) ∧
  f.credits.length = 4 ∧ ∀ c ∈ f.credits, c < 256

/-- The number with the given digits, the least first. -/
def ofDigits (b : Nat) (ds : List Nat) : Nat := ds.foldr (fun d n => d + b * n) 0

theorem digit_at (b : Nat) : ∀ (ds : List Nat), (∀ d ∈ ds, d < b) → ∀ (i : Nat) (h : i < ds.length), ofDigits b ds / b ^ i % b = ds[i]
  | [], _, _, h => absurd h (Nat.not_lt_zero _)
  | d :: ds, hd, 0, _ => by
    show (d + b * ofDigits b ds) / b ^ 0 % b = d
    rw [Nat.pow_zero, Nat.div_one, Nat.add_mul_mod_self_left, Nat.mod_eq_of_lt (hd d (by simp))]
  | d :: ds, hd, i + 1, h => by
    have hb := hd d (by simp)
    show (d + b * ofDigits b ds) / b ^ (i + 1) % b = ds[i]'(by simpa using h)
    rw [Nat.pow_succ, Nat.mul_comm (b ^ i) b, ← Nat.div_div_eq_div_mul, Nat.add_mul_div_left _ _ (by omega), Nat.div_eq_of_lt hb, Nat.zero_add]
    exact digit_at b ds (fun x hx => hd x (by simp [hx])) i (by simpa using h)

theorem ofDigits_lt (b : Nat) : ∀ ds : List Nat, (∀ d ∈ ds, d < b) → ofDigits b ds < b ^ ds.length
  | [], _ => Nat.one_pos
  | d :: ds, hd => by
    have h1 := hd d (by simp)
    have h2 := ofDigits_lt b ds fun x hx => hd x (by simp [hx])
    show d + b * ofDigits b ds < b ^ (ds.length + 1)
    calc d + b * ofDigits b ds < b * (ofDigits b ds + 1) := by rw [Nat.mul_add, Nat.mul_one]; omega
      _ ≤ b * b ^ ds.length := Nat.mul_le_mul_left b h2
      _ = b ^ (ds.length + 1) := by rw [Nat.pow_succ, Nat.mul_comm]

/-- Adjacent fields of one width, from a low bit up. -/
def fields (w : Nat) : Nat → List Nat → List (Nat × Nat × Nat)
  | _, [] => []
  | o, d :: ds => (o, w, d) :: fields w (o + w) ds

theorem pack_fields (w : Nat) : ∀ (ds : List Nat) (o : Nat), pack (fields w o ds) = 2 ^ o * ofDigits (2 ^ w) (ds.map (· % 2 ^ w))
  | [], _ => rfl
  | d :: ds, o => by
    show d % 2 ^ w * 2 ^ o + pack (fields w (o + w) ds) = 2 ^ o * (d % 2 ^ w + 2 ^ w * ofDigits (2 ^ w) (ds.map (· % 2 ^ w)))
    rw [pack_fields w ds (o + w), Nat.pow_add]; ring

theorem mod_digits (w : Nat) (ds : List Nat) : ∀ d ∈ ds.map (· % 2 ^ w), d < 2 ^ w := by
  simp only [List.mem_map]; rintro d ⟨x, _, rfl⟩; exact Nat.mod_lt _ (Nat.two_pow_pos w)

/-- Adjacent fields above a number that fits below them: the whole, and the number alone. -/
theorem fields_lt (w o low : Nat) (ds : List Nat) (hl : low < 2 ^ o) :
    low + pack (fields w o ds) < 2 ^ (o + w * ds.length) ∧ (low + pack (fields w o ds)) % 2 ^ o = low := by
  have h := ofDigits_lt (2 ^ w) _ (mod_digits w ds)
  rw [List.length_map, ← Nat.pow_mul] at h
  rw [pack_fields, Nat.pow_add]
  refine ⟨?_, by rw [Nat.add_mul_mod_self_left, Nat.mod_eq_of_lt hl]⟩
  calc low + 2 ^ o * ofDigits (2 ^ w) (ds.map (· % 2 ^ w)) < 2 ^ o * (ofDigits (2 ^ w) (ds.map (· % 2 ^ w)) + 1) := by rw [Nat.mul_add, Nat.mul_one]; omega
    _ ≤ 2 ^ o * 2 ^ (w * ds.length) := Nat.mul_le_mul_left _ h

/-- A field above a number that fits below it. -/
theorem bits_field (w o low : Nat) (ds : List Nat) (i : Nat) (hi : i < ds.length) (hl : low < 2 ^ o) (hd : ds[i] < 2 ^ w) :
    bits (low + pack (fields w o ds)) (o + w * i) w = ds[i] := by
  unfold bits
  rw [pack_fields, Nat.pow_add, ← Nat.div_div_eq_div_mul, Nat.add_mul_div_left _ _ (Nat.two_pow_pos o), Nat.div_eq_of_lt hl, Nat.zero_add, Nat.pow_mul,
    digit_at (2 ^ w) _ (mod_digits w ds) i (by simpa using hi)]
  simp [Nat.mod_eq_of_lt hd]

/-- A body's chunks and words, as they were put together. -/
theorem slice_body (cs : List (List Byte)) (hc : ∀ c ∈ cs, c.length = 64) (hn : cs.length = 8) (x y z : Nat) :
    (cs.flatten ++ wordsBytes [x, y, z]).length = 524 ∧ slice (cs.flatten ++ wordsBytes [x, y, z]) 512 4 = leBytes 4 x ∧
    slice (cs.flatten ++ wordsBytes [x, y, z]) 516 4 = leBytes 4 y ∧ slice (cs.flatten ++ wordsBytes [x, y, z]) 520 4 = leBytes 4 z := by
  have hl : cs.flatten.length = 512 := by
    have : ∀ cs : List (List Byte), (∀ c ∈ cs, c.length = 64) → cs.flatten.length = 64 * cs.length := by
      intro cs
      induction cs with
      | nil => exact fun _ => rfl
      | cons c cs ih => intro h; simp only [List.flatten_cons, List.length_append, List.length_cons, h c (by simp), ih fun x hx => h x (by simp [hx])]; omega
    rw [this cs hc, hn]
  have hw : wordsBytes [x, y, z] = leBytes 4 x ++ (leBytes 4 y ++ leBytes 4 z) := by simp [wordsBytes]
  have at_ : ∀ (a b : List Byte) (n : Nat), a.length = n → b.length = 4 → ∀ r, slice (a ++ (b ++ r)) n 4 = b := by
    intro a b n ha hb r
    have := slice_append_right a (b ++ r) 0 4
    rw [ha, Nat.add_zero] at this
    rw [this, slice_append_left (by omega)]; exact slice_self hb
  rw [hw]
  refine ⟨by simp [hl, leBytes_length], at_ _ _ _ hl (leBytes_length ..) _, ?_, ?_⟩
  · rw [← List.append_assoc]; exact at_ _ _ _ (by simp [hl, leBytes_length]) (leBytes_length ..) _
  · rw [← List.append_assoc, ← List.append_assoc, ← List.append_nil (leBytes 4 z)]
    exact at_ _ _ _ (by simp [hl, leBytes_length]) (leBytes_length ..) _

/-- A frame's bytes read back as the frame (10 R299). -/
theorem readFrame_frameBytes (f : Frame) (h : FrameOk f) : readFrame (frameBytes f) = some f := by
  obtain ⟨seq, ack, nak, slots, credits⟩ := f
  obtain ⟨hs, ha, hn, hk, hc, hr⟩ := h
  simp only at hs ha hn hk hc hr
  match slots, hn with
  | [s0, s1, s2, s3, s4, s5, s6, s7], _ =>
    match credits, hc with
    | [c0, c1, c2, c3], _ =>
      simp only [List.mem_cons, List.not_mem_nil, or_false, forall_eq_or_imp, forall_eq] at hk hr
      obtain ⟨⟨k0, v0, d0⟩, ⟨k1, v1, d1⟩, ⟨k2, v2, d2⟩, ⟨k3, v3, d3⟩, ⟨k4, v4, d4⟩, ⟨k5, v5, d5⟩, ⟨k6, v6, d6⟩, k7, v7, d7⟩ := hk
      obtain ⟨r0, r1, r2, r3⟩ := hr
      set f : Frame := ⟨seq, ack, nak, [s0, s1, s2, s3, s4, s5, s6, s7], [c0, c1, c2, c3]⟩ with hf
      obtain ⟨x, hx⟩ : ∃ x, x = pack [(0, 12, seq), (12, 12, ack), (24, 1, b2n nak)] := ⟨_, rfl⟩
      obtain ⟨y, hy⟩ : ∃ y, y = pack ((List.range 8).map (fun i => (2 * i, 2, (slotAt f i).kind)) ++ (List.range 8).map fun i => (16 + 2 * i, 2, (slotAt f i).vl)) := ⟨_, rfl⟩
      obtain ⟨z, hz⟩ : ∃ z, z = pack ((List.range 4).map fun v => (8 * v, 8, f.credits.getD v 0)) := ⟨_, rfl⟩
      set cs : List (List Byte) := [s0.data, s1.data, s2.data, s3.data, s4.data, s5.data, s6.data, s7.data] with hcs
      have hcl : ∀ c ∈ cs, c.length = 64 := by simp [hcs, d0, d1, d2, d3, d4, d5, d6, d7]
      have hbody : frameBody f = cs.flatten ++ wordsBytes [x, y, z] := by
        unfold frameBody
        rw [hx, hy, hz]
        congr 1
        show padTo 64 s0.data ++ (padTo 64 s1.data ++ (padTo 64 s2.data ++ (padTo 64 s3.data ++ (padTo 64 s4.data ++ (padTo 64 s5.data ++
          (padTo 64 s6.data ++ (padTo 64 s7.data ++ []))))))) = _
        unfold padTo
        rw [slice_self d0, slice_self d1, slice_self d2, slice_self d3, slice_self d4, slice_self d5, slice_self d6, slice_self d7]; rfl
      obtain ⟨hl, hsx, hsy, hsz⟩ := slice_body cs hcl rfl x y z
      obtain ⟨w, hw⟩ : ∃ w, w = pack ((0, 24, crc24 (frameBody f)) :: (List.range 8).map fun i => (24 + i, 1, b2n (slotAt f i).poison)) := ⟨_, rfl⟩
      have hdata : frameData f = frameBody f ++ leBytes 4 w := by unfold frameData; rw [← hw]; simp [wordsBytes]
      have hcrc : crc24 (frameBody f) < 16777216 := crc24_lt (frameBody f)
      unfold frameBytes
      rw [hdata, readFrame_wire _ _ (by rw [hbody]; exact hl) (leBytes_length 4 w), slice_leBytes, leNat_leBytes, leNat_leBytes, hbody, hsx, hsy, hsz,
        leNat_leBytes, leNat_leBytes, leNat_leBytes, ← hbody]
      set ks : List Nat := [s0.kind, s1.kind, s2.kind, s3.kind, s4.kind, s5.kind, s6.kind, s7.kind, s0.vl, s1.vl, s2.vl, s3.vl, s4.vl, s5.vl, s6.vl, s7.vl] with hks
      set qs : List Nat := [b2n s0.poison, b2n s1.poison, b2n s2.poison, b2n s3.poison, b2n s4.poison, b2n s5.poison, b2n s6.poison, b2n s7.poison] with hqs
      replace hw : w = crc24 (frameBody f) % 2 ^ 24 * 2 ^ 0 + pack (fields 1 24 qs) := hw
      replace hx : x = seq % 2 ^ 12 * 2 ^ 0 + (ack % 2 ^ 12 * 2 ^ 12 + (b2n nak % 2 ^ 1 * 2 ^ 24 + 0)) := hx
      replace hy : y = 0 + pack (fields 2 0 ks) := by rw [Nat.zero_add]; exact hy
      replace hz : z = 0 + pack (fields 8 0 [c0, c1, c2, c3]) := by rw [Nat.zero_add]; exact hz
      have bn : ∀ b, b2n b < 2 := by intro b; cases b <;> decide
      have hcrc2 : crc24 (frameBody f) < 2 ^ 24 := hcrc
      rw [Nat.mod_eq_of_lt hcrc2, Nat.pow_zero, Nat.mul_one] at hw
      have wide (n : Nat) (h : n < 2 ^ 32) : n % 256 ^ 4 = n := Nat.mod_eq_of_lt h
      have hw3 : w % 256 ^ 3 = crc24 (frameBody f) := by rw [hw]; exact (fields_lt 1 24 _ qs hcrc2).2
      have ksn : ks.length = 16 := rfl
      have qsn : qs.length = 8 := rfl
      have csn : cs.length = 8 := rfl
      have sl (i : Nat) (h : i < 8) : slice (frameBody f) (64 * i) 64 = cs[i] := by rw [hbody]; exact slice_chunks cs hcl _ i h
      have q : ∀ (n i : Nat) (b : Bool), bits n i 1 = b2n b → bit n i = b := by
        intro n i b h; unfold bit; rw [show n / 2 ^ i % 2 = _ from h]; cases b <;> rfl
      have kd (i : Nat) (hi : i < 16) (hd : ks[i] < 4) : bits y (2 * i) 2 = ks[i] := by
        have := bits_field 2 0 0 ks i hi (by decide) hd; rwa [Nat.zero_add (2 * i), ← hy] at this
      have slot (i : Nat) (h : i < 8) (t : FrameSlot) (ht : cs[i]'(by rw [csn]; exact h) = t.data)
          (hkk : ks[i]'(by rw [ksn]; omega) = t.kind) (hv : ks[8 + i]'(by rw [ksn]; omega) = t.vl) (hp : qs[i]'(by rw [qsn]; exact h) = b2n t.poison)
          (hk4 : t.kind < 4) (hv4 : t.vl < 4) :
          (⟨bits y (2 * i) 2, bits y (16 + 2 * i) 2, bit w (24 + i), slice (frameBody f) (64 * i) 64⟩ : FrameSlot) = t := by
        have hw1 := bits_field 1 24 _ qs i h hcrc2 (by rw [hp]; exact bn _)
        rw [← hw, hp, Nat.one_mul] at hw1
        rw [sl i h, ht, q _ _ _ hw1, show 16 + 2 * i = 2 * (8 + i) by omega, kd i (by omega) (by rw [hkk]; exact hk4),
          kd (8 + i) (by omega) (by rw [hv]; exact hv4), hkk, hv]
      have cr (i : Nat) (hi : i < 4) (c : Nat) (hc : [c0, c1, c2, c3][i] = c) (hd : c < 256) : bits z (8 * i) 8 = c := by
        have := bits_field 8 0 0 [c0, c1, c2, c3] i hi (by decide) (by rw [hc]; exact hd); rwa [Nat.zero_add (8 * i), ← hz, hc] at this
      rw [wide x (by rw [hx]; have := bn nak; omega), wide y (by rw [hy]; exact (fields_lt 2 0 0 ks (by decide)).1),
        wide z (by rw [hz]; exact (fields_lt 8 0 0 _ (by decide)).1), wide w (by rw [hw]; exact (fields_lt 1 24 _ qs hcrc2).1), hw3, if_neg (fun h => h rfl)]
      have t0 := slot 0 (by decide) s0 rfl rfl rfl rfl k0 v0
      have t1 := slot 1 (by decide) s1 rfl rfl rfl rfl k1 v1
      have t2 := slot 2 (by decide) s2 rfl rfl rfl rfl k2 v2
      have t3 := slot 3 (by decide) s3 rfl rfl rfl rfl k3 v3
      have t4 := slot 4 (by decide) s4 rfl rfl rfl rfl k4 v4
      have t5 := slot 5 (by decide) s5 rfl rfl rfl rfl k5 v5
      have t6 := slot 6 (by decide) s6 rfl rfl rfl rfl k6 v6
      have t7 := slot 7 (by decide) s7 rfl rfl rfl rfl k7 v7
      have hn1 := bn nak
      have hnak : bit x 24 = nak := q _ _ _ (by show x / 2 ^ 24 % 2 = _; rw [hx]; omega)
      have hseq : bits x 0 12 = seq := by show x / 2 ^ 0 % 4096 = seq; rw [hx]; omega
      have hack : bits x 12 12 = ack := by show x / 2 ^ 12 % 4096 = ack; rw [hx]; omega
      show some (⟨_, _, _, [_, _, _, _, _, _, _, _], [_, _, _, _]⟩ : Frame) = some f
      beta_reduce
      rw [t0, t1, t2, t3, t4, t5, t6, t7, hnak, hseq, hack, cr 0 (by decide) c0 rfl r0, cr 1 (by decide) c1 rfl r1, cr 2 (by decide) c2 rfl r2, cr 3 (by decide) c3 rfl r3]

end Sys2Proof.Laws
end

