-- ==== Sys2Proof/Laws/Table.lean ====
section
/-! SUPPORT. What the sparse tables, number sets and byte memories say when they are read after a change, and that every
operation on them keeps the canonical form. -/
namespace Sys2Proof.Machine

/-! ### Reading after a change -/

@[simp] theorem tget_nil {α : Type} (d : α) (n : Nat) : tget d [] n = d := rfl

@[simp] theorem tget_tput_self {α : Type} (d : α) (n : Nat) (v : α) (t : Tbl α) : tget d (tput n v t) n = v := by
  induction t with
  | nil => simp [tput, tget]
  | cons e rest ih =>
    obtain ⟨k, w⟩ := e
    simp only [tput]
    split
    · simp [tget]
    · split
      · simp [tget]
      · rename_i h1 h2; simp [tget, h2, ih]

theorem tget_tput_ne {α : Type} (d : α) {n m : Nat} (v : α) (t : Tbl α) (h : m ≠ n) : tget d (tput n v t) m = tget d t m := by
  have h' : ¬ n = m := fun e => h e.symm
  induction t with
  | nil => simp [tput, tget, h']
  | cons e rest ih =>
    obtain ⟨k, w⟩ := e
    simp only [tput]
    split
    · simp [tget, h']
    · split
      · rename_i h1 h2; subst h2; simp [tget, h']
      · simp [tget, ih]

@[simp] theorem tget_tdel_self {α : Type} (d : α) (n : Nat) (t : Tbl α) : tget d (tdel n t) n = d := by
  induction t with
  | nil => rfl
  | cons e rest ih =>
    obtain ⟨k, w⟩ := e
    simp only [tdel]
    split
    · exact ih
    · rename_i h; simp [tget, h, ih]

theorem tget_tdel_ne {α : Type} (d : α) {n m : Nat} (t : Tbl α) (h : m ≠ n) : tget d (tdel n t) m = tget d t m := by
  induction t with
  | nil => rfl
  | cons e rest ih =>
    obtain ⟨k, w⟩ := e
    simp only [tdel]
    split
    · rename_i hk; subst hk
      have : ¬ k = m := fun e => h e.symm
      simp [tget, this, ih]
    · simp [tget, ih]

@[simp] theorem tget_tset_self {α : Type} [DecidableEq α] (d : α) (n : Nat) (v : α) (t : Tbl α) : tget d (tset d n v t) n = v := by
  unfold tset
  split
  · rename_i h; simp [h]
  · simp

theorem tget_tset_ne {α : Type} [DecidableEq α] (d : α) {n m : Nat} (v : α) (t : Tbl α) (h : m ≠ n) : tget d (tset d n v t) m = tget d t m := by
  unfold tset
  split
  · exact tget_tdel_ne d t h
  · exact tget_tput_ne d v t h

@[simp] theorem tget_tmod_self {α : Type} [DecidableEq α] (d : α) (n : Nat) (f : α → α) (t : Tbl α) : tget d (tmod d n f t) n = f (tget d t n) := by
  simp [tmod]

theorem tget_tmod_ne {α : Type} [DecidableEq α] (d : α) {n m : Nat} (f : α → α) (t : Tbl α) (h : m ≠ n) : tget d (tmod d n f t) m = tget d t m :=
  tget_tset_ne d _ t h

theorem tget_tmod {α : Type} [DecidableEq α] (d : α) (n m : Nat) (f : α → α) (t : Tbl α) :
    tget d (tmod d n f t) m = if m = n then f (tget d t n) else tget d t m := by
  split
  · rename_i h; subst h; simp
  · rename_i h; exact tget_tmod_ne d f t h

/-- A read after a write to the same byte gives the byte written; every other byte reads as before. -/
@[simp] theorem mget_mset_self (a : Nat) (b : Byte) (m : Memory) : mget (mset a b m) a = b := by simp [mget, mset]

theorem mget_mset_ne {a c : Nat} (b : Byte) (m : Memory) (h : c ≠ a) : mget (mset a b m) c = mget m c := by
  simpa [mget, mset] using tget_tset_ne (0 : Byte) b m h

/-- Bytes outside the written range read as before. -/
theorem mget_mwrite_outside (bs : List Byte) : ∀ (m : Memory) (a c : Nat), c < a ∨ a + bs.length ≤ c → mget (mwrite m a bs) c = mget m c := by
  induction bs with
  | nil => intro m a c _; rfl
  | cons b bs ih =>
    intro m a c h
    simp only [mwrite]
    simp only [List.length_cons] at h
    rw [ih _ _ _ (by omega), mget_mset_ne b m (by omega)]

/-- The written bytes read back. -/
theorem mget_mwrite_inside (bs : List Byte) : ∀ (m : Memory) (a i : Nat) (h : i < bs.length), mget (mwrite m a bs) (a + i) = bs[i] := by
  induction bs with
  | nil => intro m a i h; simp at h
  | cons b bs ih =>
    intro m a i h
    simp only [mwrite]
    cases i with
    | zero => rw [mget_mwrite_outside bs _ _ _ (by omega)]; simp
    | succ i =>
      have := ih (mset a b m) (a + 1) i (by simpa using h)
      simpa [Nat.add_assoc, Nat.add_comm 1 i] using this

/-- Zeroed bytes read 0, every other byte as before. -/
theorem mget_mzero (m : Memory) (a n c : Nat) : mget (mzero m a n) c = if a ≤ c ∧ c < a + n then 0 else mget m c := by
  unfold mzero mget
  induction m with
  | nil => simp
  | cons e rest ih =>
    obtain ⟨k, v⟩ := e
    simp only [List.filter_cons]
    by_cases hk : a ≤ k ∧ k < a + n
    · simp only [hk.1, hk.2, decide_true, Bool.and_self, Bool.not_true, Bool.false_eq_true, if_false, ih, tget]
      by_cases hc : a ≤ c ∧ c < a + n
      · simp [hc]
      · have : ¬ k = c := by rintro rfl; exact hc hk
        simp [hc, this]
    · have hb : (!(decide (a ≤ k) && decide (k < a + n))) = true := by
        by_cases h1 : a ≤ k
        · have : ¬ k < a + n := fun h2 => hk ⟨h1, h2⟩
          simp [this]
        · simp [h1]
      simp only [hb, if_true, tget]
      by_cases hkc : k = c
      · subst hkc; simp [hk]
      · rw [if_neg hkc, if_neg hkc, ih]

/-! ### Sets of numbers -/

theorem nhas_nadd (n m : Nat) (s : NSet) : nhas (nadd n s) m = (nhas s m || n == m) := by
  induction s with
  | nil => simp [nadd, nhas]
  | cons k rest ih =>
    simp only [nadd]
    split
    · simp [nhas, Bool.or_comm]
    · split
      · rename_i h; subst h; by_cases hm : k = m <;> simp [nhas, hm]
      · have := ih; simp only [nhas, List.any_cons] at this ⊢; rw [this, Bool.or_assoc]

theorem nhas_ndel (n m : Nat) (s : NSet) : nhas (ndel n s) m = (nhas s m && n != m) := by
  induction s with
  | nil => simp [ndel, nhas]
  | cons k rest ih =>
    simp only [ndel]
    split
    · rename_i h; subst h
      rw [ih]
      by_cases hm : k = m
      · subst hm; simp
      · have : (k == m) = false := by simpa using hm
        simp [nhas, this]
    · rename_i h
      have e : nhas (k :: ndel n rest) m = (k == m || nhas (ndel n rest) m) := rfl
      have e' : nhas (k :: rest) m = (k == m || nhas rest m) := rfl
      rw [e, e', ih]
      by_cases hkm : k = m
      · subst hkm
        have : (n != k) = true := by simpa using fun h' : n = k => h h'.symm
        simp [this]
      · have : (k == m) = false := by simpa using hkm
        simp [this]

/-! ### The canonical form -/

theorem keysFrom_mono {α : Type} {b c : Nat} (h : c ≤ b) : ∀ (t : Tbl α), keysFrom b t = true → keysFrom c t = true
  | [], _ => rfl
  | (k, v) :: rest, hk => by
    simp only [keysFrom, Bool.and_eq_true, decide_eq_true_eq] at hk ⊢
    exact ⟨by omega, hk.2⟩

theorem keysFrom_tput {α : Type} (n : Nat) (v : α) : ∀ (t : Tbl α) (b : Nat), b ≤ n → keysFrom b t = true → keysFrom b (tput n v t) = true
  | [], b, hb, _ => by simpa [tput, keysFrom] using hb
  | (k, w) :: rest, b, hb, h => by
    simp only [keysFrom, Bool.and_eq_true, decide_eq_true_eq] at h
    simp only [tput]
    split
    · simp only [keysFrom, Bool.and_eq_true, decide_eq_true_eq]; exact ⟨hb, by omega, h.2⟩
    · split
      · rename_i h1 h2; subst h2; simp only [keysFrom, Bool.and_eq_true, decide_eq_true_eq]; exact h
      · simp only [keysFrom, Bool.and_eq_true, decide_eq_true_eq]
        exact ⟨h.1, keysFrom_tput n v rest (k + 1) (by omega) h.2⟩

theorem keysFrom_filter {α : Type} (p : Nat × α → Bool) : ∀ (t : Tbl α) (b : Nat), keysFrom b t = true → keysFrom b (t.filter p) = true
  | [], _, _ => rfl
  | (k, w) :: rest, b, h => by
    simp only [keysFrom, Bool.and_eq_true, decide_eq_true_eq] at h
    simp only [List.filter_cons]
    split
    · simp only [keysFrom, Bool.and_eq_true, decide_eq_true_eq]
      exact ⟨h.1, keysFrom_filter p rest (k + 1) h.2⟩
    · exact keysFrom_mono (by omega) _ (keysFrom_filter p rest (k + 1) h.2)

theorem tdel_eq_filter {α : Type} (n : Nat) : ∀ (t : Tbl α), tdel n t = t.filter fun e => e.1 != n
  | [] => rfl
  | (k, w) :: rest => by
    simp only [tdel, List.filter_cons, bne_iff_ne, ne_eq]
    split
    · simp [*, tdel_eq_filter n rest]
    · simp [*, tdel_eq_filter n rest]

theorem twf_nil {α : Type} [DecidableEq α] (d : α) : twf d ([] : Tbl α) = true := rfl

theorem twf_filter {α : Type} [DecidableEq α] (d : α) (p : Nat × α → Bool) (t : Tbl α) (h : twf d t = true) : twf d (t.filter p) = true := by
  simp only [twf, Bool.and_eq_true, List.all_eq_true] at h ⊢
  exact ⟨keysFrom_filter p t 0 h.1, fun x hx => h.2 x (List.mem_filter.mp hx).1⟩

theorem twf_tput {α : Type} [DecidableEq α] (d : α) (n : Nat) (v : α) (t : Tbl α) (hv : v ≠ d) (h : twf d t = true) : twf d (tput n v t) = true := by
  simp only [twf, Bool.and_eq_true, List.all_eq_true, decide_eq_true_eq] at h ⊢
  refine ⟨keysFrom_tput n v t 0 (by omega) h.1, ?_⟩
  have key : ∀ (t : Tbl α) (x : Nat × α), x ∈ tput n v t → x = (n, v) ∨ x ∈ t := by
    intro t
    induction t with
    | nil => intro x hx; simpa [tput] using hx
    | cons e rest ih =>
      obtain ⟨k, w⟩ := e
      intro x hx
      simp only [tput] at hx
      split at hx
      · simpa using hx
      · split at hx
        · rcases List.mem_cons.mp hx with rfl | hx
          · exact .inl rfl
          · exact .inr (List.mem_cons_of_mem _ hx)
        · rcases List.mem_cons.mp hx with rfl | hx
          · exact .inr (List.mem_cons_self ..)
          · rcases ih x hx with rfl | hx
            · exact .inl rfl
            · exact .inr (List.mem_cons_of_mem _ hx)
  intro x hx
  rcases key t x hx with rfl | hx
  · exact hv
  · exact h.2 x hx

theorem twf_tset {α : Type} [DecidableEq α] (d : α) (n : Nat) (v : α) (t : Tbl α) (h : twf d t = true) : twf d (tset d n v t) = true := by
  unfold tset
  split
  · rw [tdel_eq_filter]; exact twf_filter d _ t h
  · rename_i hv; exact twf_tput d n v t hv h

theorem twf_tmod {α : Type} [DecidableEq α] (d : α) (n : Nat) (f : α → α) (t : Tbl α) (h : twf d t = true) : twf d (tmod d n f t) = true :=
  twf_tset d n _ t h

/-- Every operation over a byte memory keeps its canonical form. -/
theorem wf_mset (a : Nat) (b : Byte) (m : Memory) (h : Memory.wf m = true) : Memory.wf (mset a b m) = true := twf_tset _ a b m h

theorem wf_mwrite (bs : List Byte) : ∀ (m : Memory) (a : Nat), Memory.wf m = true → Memory.wf (mwrite m a bs) = true := by
  induction bs with
  | nil => intro m a h; exact h
  | cons b bs ih => intro m a h; exact ih _ _ (wf_mset a b m h)

theorem wf_mzero (m : Memory) (a n : Nat) (h : Memory.wf m = true) : Memory.wf (mzero m a n) = true := twf_filter _ _ m h

theorem wf_empty : Memory.wf [] = true := rfl

end Sys2Proof.Machine
end

