-- ==== Sys2Proof/Laws/State.lean ====
section
/-! SUPPORT. One lemma per field per update of the state, so that no proof unfolds a record update, and what reading a unit gives after
a change of one. -/
namespace Sys2Proof.Machine

variable (s : State)

/-! ### modFn -/

@[simp] theorem modFn_time (f : Nat) (g : Fn → Fn) : (modFn f g s).time = s.time := rfl
@[simp] theorem modFn_vfEnable (f : Nat) (g : Fn → Fn) : (modFn f g s).vfEnable = s.vfEnable := rfl
@[simp] theorem modFn_linkUp (f : Nat) (g : Fn → Fn) : (modFn f g s).linkUp = s.linkUp := rfl
@[simp] theorem modFn_boot (f : Nat) (g : Fn → Fn) : (modFn f g s).boot = s.boot := rfl
@[simp] theorem modFn_fuses (f : Nat) (g : Fn → Fn) : (modFn f g s).fuses = s.fuses := rfl
@[simp] theorem modFn_mbox (f : Nat) (g : Fn → Fn) : (modFn f g s).mbox = s.mbox := rfl
@[simp] theorem modFn_mgmt (f : Nat) (g : Fn → Fn) : (modFn f g s).mgmt = s.mgmt := rfl
@[simp] theorem modFn_qtrAvail (f : Nat) (g : Fn → Fn) : (modFn f g s).qtrAvail = s.qtrAvail := rfl
@[simp] theorem modFn_sets (f : Nat) (g : Fn → Fn) : (modFn f g s).sets = s.sets := rfl
@[simp] theorem modFn_qtrs (f : Nat) (g : Fn → Fn) : (modFn f g s).qtrs = s.qtrs := rfl
@[simp] theorem modFn_dies (f : Nat) (g : Fn → Fn) : (modFn f g s).dies = s.dies := rfl
@[simp] theorem modFn_ptnCmd (f : Nat) (g : Fn → Fn) : (modFn f g s).ptnCmd = s.ptnCmd := rfl
@[simp] theorem modFn_ptns (f : Nat) (g : Fn → Fn) : (modFn f g s).ptns = s.ptns := rfl
@[simp] theorem modFn_ctxs (f : Nat) (g : Fn → Fn) : (modFn f g s).ctxs = s.ctxs := rfl
@[simp] theorem modFn_rings (f : Nat) (g : Fn → Fn) : (modFn f g s).rings = s.rings := rfl
@[simp] theorem modFn_mem (f : Nat) (g : Fn → Fn) : (modFn f g s).mem = s.mem := rfl
@[simp] theorem modFn_adapters (f : Nat) (g : Fn → Fn) : (modFn f g s).adapters = s.adapters := rfl
@[simp] theorem modFn_steers (f : Nat) (g : Fn → Fn) : (modFn f g s).steers = s.steers := rfl
@[simp] theorem modFn_masks (f : Nat) (g : Fn → Fn) : (modFn f g s).masks = s.masks := rfl
@[simp] theorem modFn_fab (f : Nat) (g : Fn → Fn) : (modFn f g s).fab = s.fab := rfl
@[simp] theorem modFn_flt (f : Nat) (g : Fn → Fn) : (modFn f g s).flt = s.flt := rfl
@[simp] theorem modFn_evc (f : Nat) (g : Fn → Fn) : (modFn f g s).evc = s.evc := rfl
@[simp] theorem modFn_pwr (f : Nat) (g : Fn → Fn) : (modFn f g s).pwr = s.pwr := rfl
@[simp] theorem modFn_out (f : Nat) (g : Fn → Fn) : (modFn f g s).out = s.out := rfl
@[simp] theorem modFn_free (f : Nat) (g : Fn → Fn) : (modFn f g s).free = s.free := rfl
@[simp] theorem modFn_pending (f : Nat) (g : Fn → Fn) : (modFn f g s).pending = s.pending := rfl

/-! ### modPtn -/

@[simp] theorem modPtn_time (p : Nat) (g : Ptn → Ptn) : (modPtn p g s).time = s.time := rfl
@[simp] theorem modPtn_fns (p : Nat) (g : Ptn → Ptn) : (modPtn p g s).fns = s.fns := rfl
@[simp] theorem modPtn_vfEnable (p : Nat) (g : Ptn → Ptn) : (modPtn p g s).vfEnable = s.vfEnable := rfl
@[simp] theorem modPtn_linkUp (p : Nat) (g : Ptn → Ptn) : (modPtn p g s).linkUp = s.linkUp := rfl
@[simp] theorem modPtn_boot (p : Nat) (g : Ptn → Ptn) : (modPtn p g s).boot = s.boot := rfl
@[simp] theorem modPtn_fuses (p : Nat) (g : Ptn → Ptn) : (modPtn p g s).fuses = s.fuses := rfl
@[simp] theorem modPtn_mbox (p : Nat) (g : Ptn → Ptn) : (modPtn p g s).mbox = s.mbox := rfl
@[simp] theorem modPtn_mgmt (p : Nat) (g : Ptn → Ptn) : (modPtn p g s).mgmt = s.mgmt := rfl
@[simp] theorem modPtn_qtrAvail (p : Nat) (g : Ptn → Ptn) : (modPtn p g s).qtrAvail = s.qtrAvail := rfl
@[simp] theorem modPtn_sets (p : Nat) (g : Ptn → Ptn) : (modPtn p g s).sets = s.sets := rfl
@[simp] theorem modPtn_qtrs (p : Nat) (g : Ptn → Ptn) : (modPtn p g s).qtrs = s.qtrs := rfl
@[simp] theorem modPtn_dies (p : Nat) (g : Ptn → Ptn) : (modPtn p g s).dies = s.dies := rfl
@[simp] theorem modPtn_ptnCmd (p : Nat) (g : Ptn → Ptn) : (modPtn p g s).ptnCmd = s.ptnCmd := rfl
@[simp] theorem modPtn_ctxs (p : Nat) (g : Ptn → Ptn) : (modPtn p g s).ctxs = s.ctxs := rfl
@[simp] theorem modPtn_rings (p : Nat) (g : Ptn → Ptn) : (modPtn p g s).rings = s.rings := rfl
@[simp] theorem modPtn_mem (p : Nat) (g : Ptn → Ptn) : (modPtn p g s).mem = s.mem := rfl
@[simp] theorem modPtn_adapters (p : Nat) (g : Ptn → Ptn) : (modPtn p g s).adapters = s.adapters := rfl
@[simp] theorem modPtn_steers (p : Nat) (g : Ptn → Ptn) : (modPtn p g s).steers = s.steers := rfl
@[simp] theorem modPtn_masks (p : Nat) (g : Ptn → Ptn) : (modPtn p g s).masks = s.masks := rfl
@[simp] theorem modPtn_fab (p : Nat) (g : Ptn → Ptn) : (modPtn p g s).fab = s.fab := rfl
@[simp] theorem modPtn_flt (p : Nat) (g : Ptn → Ptn) : (modPtn p g s).flt = s.flt := rfl
@[simp] theorem modPtn_evc (p : Nat) (g : Ptn → Ptn) : (modPtn p g s).evc = s.evc := rfl
@[simp] theorem modPtn_pwr (p : Nat) (g : Ptn → Ptn) : (modPtn p g s).pwr = s.pwr := rfl
@[simp] theorem modPtn_out (p : Nat) (g : Ptn → Ptn) : (modPtn p g s).out = s.out := rfl
@[simp] theorem modPtn_free (p : Nat) (g : Ptn → Ptn) : (modPtn p g s).free = s.free := rfl
@[simp] theorem modPtn_pending (p : Nat) (g : Ptn → Ptn) : (modPtn p g s).pending = s.pending := rfl

/-! ### modCtx -/

@[simp] theorem modCtx_time (c : Nat) (g : Ctx → Ctx) : (modCtx c g s).time = s.time := rfl
@[simp] theorem modCtx_fns (c : Nat) (g : Ctx → Ctx) : (modCtx c g s).fns = s.fns := rfl
@[simp] theorem modCtx_vfEnable (c : Nat) (g : Ctx → Ctx) : (modCtx c g s).vfEnable = s.vfEnable := rfl
@[simp] theorem modCtx_linkUp (c : Nat) (g : Ctx → Ctx) : (modCtx c g s).linkUp = s.linkUp := rfl
@[simp] theorem modCtx_boot (c : Nat) (g : Ctx → Ctx) : (modCtx c g s).boot = s.boot := rfl
@[simp] theorem modCtx_fuses (c : Nat) (g : Ctx → Ctx) : (modCtx c g s).fuses = s.fuses := rfl
@[simp] theorem modCtx_mbox (c : Nat) (g : Ctx → Ctx) : (modCtx c g s).mbox = s.mbox := rfl
@[simp] theorem modCtx_mgmt (c : Nat) (g : Ctx → Ctx) : (modCtx c g s).mgmt = s.mgmt := rfl
@[simp] theorem modCtx_qtrAvail (c : Nat) (g : Ctx → Ctx) : (modCtx c g s).qtrAvail = s.qtrAvail := rfl
@[simp] theorem modCtx_sets (c : Nat) (g : Ctx → Ctx) : (modCtx c g s).sets = s.sets := rfl
@[simp] theorem modCtx_qtrs (c : Nat) (g : Ctx → Ctx) : (modCtx c g s).qtrs = s.qtrs := rfl
@[simp] theorem modCtx_dies (c : Nat) (g : Ctx → Ctx) : (modCtx c g s).dies = s.dies := rfl
@[simp] theorem modCtx_ptnCmd (c : Nat) (g : Ctx → Ctx) : (modCtx c g s).ptnCmd = s.ptnCmd := rfl
@[simp] theorem modCtx_ptns (c : Nat) (g : Ctx → Ctx) : (modCtx c g s).ptns = s.ptns := rfl
@[simp] theorem modCtx_rings (c : Nat) (g : Ctx → Ctx) : (modCtx c g s).rings = s.rings := rfl
@[simp] theorem modCtx_mem (c : Nat) (g : Ctx → Ctx) : (modCtx c g s).mem = s.mem := rfl
@[simp] theorem modCtx_adapters (c : Nat) (g : Ctx → Ctx) : (modCtx c g s).adapters = s.adapters := rfl
@[simp] theorem modCtx_steers (c : Nat) (g : Ctx → Ctx) : (modCtx c g s).steers = s.steers := rfl
@[simp] theorem modCtx_masks (c : Nat) (g : Ctx → Ctx) : (modCtx c g s).masks = s.masks := rfl
@[simp] theorem modCtx_fab (c : Nat) (g : Ctx → Ctx) : (modCtx c g s).fab = s.fab := rfl
@[simp] theorem modCtx_flt (c : Nat) (g : Ctx → Ctx) : (modCtx c g s).flt = s.flt := rfl
@[simp] theorem modCtx_evc (c : Nat) (g : Ctx → Ctx) : (modCtx c g s).evc = s.evc := rfl
@[simp] theorem modCtx_pwr (c : Nat) (g : Ctx → Ctx) : (modCtx c g s).pwr = s.pwr := rfl
@[simp] theorem modCtx_out (c : Nat) (g : Ctx → Ctx) : (modCtx c g s).out = s.out := rfl
@[simp] theorem modCtx_free (c : Nat) (g : Ctx → Ctx) : (modCtx c g s).free = s.free := rfl
@[simp] theorem modCtx_pending (c : Nat) (g : Ctx → Ctx) : (modCtx c g s).pending = s.pending := rfl

/-! ### modRing -/

@[simp] theorem modRing_time (r : Nat) (g : Ring → Ring) : (modRing r g s).time = s.time := rfl
@[simp] theorem modRing_fns (r : Nat) (g : Ring → Ring) : (modRing r g s).fns = s.fns := rfl
@[simp] theorem modRing_vfEnable (r : Nat) (g : Ring → Ring) : (modRing r g s).vfEnable = s.vfEnable := rfl
@[simp] theorem modRing_linkUp (r : Nat) (g : Ring → Ring) : (modRing r g s).linkUp = s.linkUp := rfl
@[simp] theorem modRing_boot (r : Nat) (g : Ring → Ring) : (modRing r g s).boot = s.boot := rfl
@[simp] theorem modRing_fuses (r : Nat) (g : Ring → Ring) : (modRing r g s).fuses = s.fuses := rfl
@[simp] theorem modRing_mbox (r : Nat) (g : Ring → Ring) : (modRing r g s).mbox = s.mbox := rfl
@[simp] theorem modRing_mgmt (r : Nat) (g : Ring → Ring) : (modRing r g s).mgmt = s.mgmt := rfl
@[simp] theorem modRing_qtrAvail (r : Nat) (g : Ring → Ring) : (modRing r g s).qtrAvail = s.qtrAvail := rfl
@[simp] theorem modRing_sets (r : Nat) (g : Ring → Ring) : (modRing r g s).sets = s.sets := rfl
@[simp] theorem modRing_qtrs (r : Nat) (g : Ring → Ring) : (modRing r g s).qtrs = s.qtrs := rfl
@[simp] theorem modRing_dies (r : Nat) (g : Ring → Ring) : (modRing r g s).dies = s.dies := rfl
@[simp] theorem modRing_ptnCmd (r : Nat) (g : Ring → Ring) : (modRing r g s).ptnCmd = s.ptnCmd := rfl
@[simp] theorem modRing_ptns (r : Nat) (g : Ring → Ring) : (modRing r g s).ptns = s.ptns := rfl
@[simp] theorem modRing_ctxs (r : Nat) (g : Ring → Ring) : (modRing r g s).ctxs = s.ctxs := rfl
@[simp] theorem modRing_mem (r : Nat) (g : Ring → Ring) : (modRing r g s).mem = s.mem := rfl
@[simp] theorem modRing_adapters (r : Nat) (g : Ring → Ring) : (modRing r g s).adapters = s.adapters := rfl
@[simp] theorem modRing_steers (r : Nat) (g : Ring → Ring) : (modRing r g s).steers = s.steers := rfl
@[simp] theorem modRing_masks (r : Nat) (g : Ring → Ring) : (modRing r g s).masks = s.masks := rfl
@[simp] theorem modRing_fab (r : Nat) (g : Ring → Ring) : (modRing r g s).fab = s.fab := rfl
@[simp] theorem modRing_flt (r : Nat) (g : Ring → Ring) : (modRing r g s).flt = s.flt := rfl
@[simp] theorem modRing_evc (r : Nat) (g : Ring → Ring) : (modRing r g s).evc = s.evc := rfl
@[simp] theorem modRing_pwr (r : Nat) (g : Ring → Ring) : (modRing r g s).pwr = s.pwr := rfl
@[simp] theorem modRing_out (r : Nat) (g : Ring → Ring) : (modRing r g s).out = s.out := rfl
@[simp] theorem modRing_free (r : Nat) (g : Ring → Ring) : (modRing r g s).free = s.free := rfl
@[simp] theorem modRing_pending (r : Nat) (g : Ring → Ring) : (modRing r g s).pending = s.pending := rfl

/-! ### modQtr -/

@[simp] theorem modQtr_time (q : Nat) (g : Qtr → Qtr) : (modQtr q g s).time = s.time := rfl
@[simp] theorem modQtr_fns (q : Nat) (g : Qtr → Qtr) : (modQtr q g s).fns = s.fns := rfl
@[simp] theorem modQtr_vfEnable (q : Nat) (g : Qtr → Qtr) : (modQtr q g s).vfEnable = s.vfEnable := rfl
@[simp] theorem modQtr_linkUp (q : Nat) (g : Qtr → Qtr) : (modQtr q g s).linkUp = s.linkUp := rfl
@[simp] theorem modQtr_boot (q : Nat) (g : Qtr → Qtr) : (modQtr q g s).boot = s.boot := rfl
@[simp] theorem modQtr_fuses (q : Nat) (g : Qtr → Qtr) : (modQtr q g s).fuses = s.fuses := rfl
@[simp] theorem modQtr_mbox (q : Nat) (g : Qtr → Qtr) : (modQtr q g s).mbox = s.mbox := rfl
@[simp] theorem modQtr_mgmt (q : Nat) (g : Qtr → Qtr) : (modQtr q g s).mgmt = s.mgmt := rfl
@[simp] theorem modQtr_qtrAvail (q : Nat) (g : Qtr → Qtr) : (modQtr q g s).qtrAvail = s.qtrAvail := rfl
@[simp] theorem modQtr_sets (q : Nat) (g : Qtr → Qtr) : (modQtr q g s).sets = s.sets := rfl
@[simp] theorem modQtr_dies (q : Nat) (g : Qtr → Qtr) : (modQtr q g s).dies = s.dies := rfl
@[simp] theorem modQtr_ptnCmd (q : Nat) (g : Qtr → Qtr) : (modQtr q g s).ptnCmd = s.ptnCmd := rfl
@[simp] theorem modQtr_ptns (q : Nat) (g : Qtr → Qtr) : (modQtr q g s).ptns = s.ptns := rfl
@[simp] theorem modQtr_ctxs (q : Nat) (g : Qtr → Qtr) : (modQtr q g s).ctxs = s.ctxs := rfl
@[simp] theorem modQtr_rings (q : Nat) (g : Qtr → Qtr) : (modQtr q g s).rings = s.rings := rfl
@[simp] theorem modQtr_mem (q : Nat) (g : Qtr → Qtr) : (modQtr q g s).mem = s.mem := rfl
@[simp] theorem modQtr_adapters (q : Nat) (g : Qtr → Qtr) : (modQtr q g s).adapters = s.adapters := rfl
@[simp] theorem modQtr_steers (q : Nat) (g : Qtr → Qtr) : (modQtr q g s).steers = s.steers := rfl
@[simp] theorem modQtr_masks (q : Nat) (g : Qtr → Qtr) : (modQtr q g s).masks = s.masks := rfl
@[simp] theorem modQtr_fab (q : Nat) (g : Qtr → Qtr) : (modQtr q g s).fab = s.fab := rfl
@[simp] theorem modQtr_flt (q : Nat) (g : Qtr → Qtr) : (modQtr q g s).flt = s.flt := rfl
@[simp] theorem modQtr_evc (q : Nat) (g : Qtr → Qtr) : (modQtr q g s).evc = s.evc := rfl
@[simp] theorem modQtr_pwr (q : Nat) (g : Qtr → Qtr) : (modQtr q g s).pwr = s.pwr := rfl
@[simp] theorem modQtr_out (q : Nat) (g : Qtr → Qtr) : (modQtr q g s).out = s.out := rfl
@[simp] theorem modQtr_free (q : Nat) (g : Qtr → Qtr) : (modQtr q g s).free = s.free := rfl
@[simp] theorem modQtr_pending (q : Nat) (g : Qtr → Qtr) : (modQtr q g s).pending = s.pending := rfl

/-! ### modDie -/

@[simp] theorem modDie_time (d : Nat) (g : Die → Die) : (modDie d g s).time = s.time := rfl
@[simp] theorem modDie_fns (d : Nat) (g : Die → Die) : (modDie d g s).fns = s.fns := rfl
@[simp] theorem modDie_vfEnable (d : Nat) (g : Die → Die) : (modDie d g s).vfEnable = s.vfEnable := rfl
@[simp] theorem modDie_linkUp (d : Nat) (g : Die → Die) : (modDie d g s).linkUp = s.linkUp := rfl
@[simp] theorem modDie_boot (d : Nat) (g : Die → Die) : (modDie d g s).boot = s.boot := rfl
@[simp] theorem modDie_fuses (d : Nat) (g : Die → Die) : (modDie d g s).fuses = s.fuses := rfl
@[simp] theorem modDie_mbox (d : Nat) (g : Die → Die) : (modDie d g s).mbox = s.mbox := rfl
@[simp] theorem modDie_mgmt (d : Nat) (g : Die → Die) : (modDie d g s).mgmt = s.mgmt := rfl
@[simp] theorem modDie_qtrAvail (d : Nat) (g : Die → Die) : (modDie d g s).qtrAvail = s.qtrAvail := rfl
@[simp] theorem modDie_sets (d : Nat) (g : Die → Die) : (modDie d g s).sets = s.sets := rfl
@[simp] theorem modDie_qtrs (d : Nat) (g : Die → Die) : (modDie d g s).qtrs = s.qtrs := rfl
@[simp] theorem modDie_ptnCmd (d : Nat) (g : Die → Die) : (modDie d g s).ptnCmd = s.ptnCmd := rfl
@[simp] theorem modDie_ptns (d : Nat) (g : Die → Die) : (modDie d g s).ptns = s.ptns := rfl
@[simp] theorem modDie_ctxs (d : Nat) (g : Die → Die) : (modDie d g s).ctxs = s.ctxs := rfl
@[simp] theorem modDie_rings (d : Nat) (g : Die → Die) : (modDie d g s).rings = s.rings := rfl
@[simp] theorem modDie_mem (d : Nat) (g : Die → Die) : (modDie d g s).mem = s.mem := rfl
@[simp] theorem modDie_adapters (d : Nat) (g : Die → Die) : (modDie d g s).adapters = s.adapters := rfl
@[simp] theorem modDie_steers (d : Nat) (g : Die → Die) : (modDie d g s).steers = s.steers := rfl
@[simp] theorem modDie_masks (d : Nat) (g : Die → Die) : (modDie d g s).masks = s.masks := rfl
@[simp] theorem modDie_fab (d : Nat) (g : Die → Die) : (modDie d g s).fab = s.fab := rfl
@[simp] theorem modDie_flt (d : Nat) (g : Die → Die) : (modDie d g s).flt = s.flt := rfl
@[simp] theorem modDie_evc (d : Nat) (g : Die → Die) : (modDie d g s).evc = s.evc := rfl
@[simp] theorem modDie_pwr (d : Nat) (g : Die → Die) : (modDie d g s).pwr = s.pwr := rfl
@[simp] theorem modDie_out (d : Nat) (g : Die → Die) : (modDie d g s).out = s.out := rfl
@[simp] theorem modDie_free (d : Nat) (g : Die → Die) : (modDie d g s).free = s.free := rfl
@[simp] theorem modDie_pending (d : Nat) (g : Die → Die) : (modDie d g s).pending = s.pending := rfl

/-! ### modAdapter -/

@[simp] theorem modAdapter_time (a : Nat) (g : Adapter → Adapter) : (modAdapter a g s).time = s.time := rfl
@[simp] theorem modAdapter_fns (a : Nat) (g : Adapter → Adapter) : (modAdapter a g s).fns = s.fns := rfl
@[simp] theorem modAdapter_vfEnable (a : Nat) (g : Adapter → Adapter) : (modAdapter a g s).vfEnable = s.vfEnable := rfl
@[simp] theorem modAdapter_linkUp (a : Nat) (g : Adapter → Adapter) : (modAdapter a g s).linkUp = s.linkUp := rfl
@[simp] theorem modAdapter_boot (a : Nat) (g : Adapter → Adapter) : (modAdapter a g s).boot = s.boot := rfl
@[simp] theorem modAdapter_fuses (a : Nat) (g : Adapter → Adapter) : (modAdapter a g s).fuses = s.fuses := rfl
@[simp] theorem modAdapter_mbox (a : Nat) (g : Adapter → Adapter) : (modAdapter a g s).mbox = s.mbox := rfl
@[simp] theorem modAdapter_mgmt (a : Nat) (g : Adapter → Adapter) : (modAdapter a g s).mgmt = s.mgmt := rfl
@[simp] theorem modAdapter_qtrAvail (a : Nat) (g : Adapter → Adapter) : (modAdapter a g s).qtrAvail = s.qtrAvail := rfl
@[simp] theorem modAdapter_sets (a : Nat) (g : Adapter → Adapter) : (modAdapter a g s).sets = s.sets := rfl
@[simp] theorem modAdapter_qtrs (a : Nat) (g : Adapter → Adapter) : (modAdapter a g s).qtrs = s.qtrs := rfl
@[simp] theorem modAdapter_dies (a : Nat) (g : Adapter → Adapter) : (modAdapter a g s).dies = s.dies := rfl
@[simp] theorem modAdapter_ptnCmd (a : Nat) (g : Adapter → Adapter) : (modAdapter a g s).ptnCmd = s.ptnCmd := rfl
@[simp] theorem modAdapter_ptns (a : Nat) (g : Adapter → Adapter) : (modAdapter a g s).ptns = s.ptns := rfl
@[simp] theorem modAdapter_ctxs (a : Nat) (g : Adapter → Adapter) : (modAdapter a g s).ctxs = s.ctxs := rfl
@[simp] theorem modAdapter_rings (a : Nat) (g : Adapter → Adapter) : (modAdapter a g s).rings = s.rings := rfl
@[simp] theorem modAdapter_mem (a : Nat) (g : Adapter → Adapter) : (modAdapter a g s).mem = s.mem := rfl
@[simp] theorem modAdapter_steers (a : Nat) (g : Adapter → Adapter) : (modAdapter a g s).steers = s.steers := rfl
@[simp] theorem modAdapter_masks (a : Nat) (g : Adapter → Adapter) : (modAdapter a g s).masks = s.masks := rfl
@[simp] theorem modAdapter_fab (a : Nat) (g : Adapter → Adapter) : (modAdapter a g s).fab = s.fab := rfl
@[simp] theorem modAdapter_flt (a : Nat) (g : Adapter → Adapter) : (modAdapter a g s).flt = s.flt := rfl
@[simp] theorem modAdapter_evc (a : Nat) (g : Adapter → Adapter) : (modAdapter a g s).evc = s.evc := rfl
@[simp] theorem modAdapter_pwr (a : Nat) (g : Adapter → Adapter) : (modAdapter a g s).pwr = s.pwr := rfl
@[simp] theorem modAdapter_out (a : Nat) (g : Adapter → Adapter) : (modAdapter a g s).out = s.out := rfl
@[simp] theorem modAdapter_free (a : Nat) (g : Adapter → Adapter) : (modAdapter a g s).free = s.free := rfl
@[simp] theorem modAdapter_pending (a : Nat) (g : Adapter → Adapter) : (modAdapter a g s).pending = s.pending := rfl

/-! ### modSteer -/

@[simp] theorem modSteer_time (a : Nat) (g : Steer → Steer) : (modSteer a g s).time = s.time := rfl
@[simp] theorem modSteer_fns (a : Nat) (g : Steer → Steer) : (modSteer a g s).fns = s.fns := rfl
@[simp] theorem modSteer_vfEnable (a : Nat) (g : Steer → Steer) : (modSteer a g s).vfEnable = s.vfEnable := rfl
@[simp] theorem modSteer_linkUp (a : Nat) (g : Steer → Steer) : (modSteer a g s).linkUp = s.linkUp := rfl
@[simp] theorem modSteer_boot (a : Nat) (g : Steer → Steer) : (modSteer a g s).boot = s.boot := rfl
@[simp] theorem modSteer_fuses (a : Nat) (g : Steer → Steer) : (modSteer a g s).fuses = s.fuses := rfl
@[simp] theorem modSteer_mbox (a : Nat) (g : Steer → Steer) : (modSteer a g s).mbox = s.mbox := rfl
@[simp] theorem modSteer_mgmt (a : Nat) (g : Steer → Steer) : (modSteer a g s).mgmt = s.mgmt := rfl
@[simp] theorem modSteer_qtrAvail (a : Nat) (g : Steer → Steer) : (modSteer a g s).qtrAvail = s.qtrAvail := rfl
@[simp] theorem modSteer_sets (a : Nat) (g : Steer → Steer) : (modSteer a g s).sets = s.sets := rfl
@[simp] theorem modSteer_qtrs (a : Nat) (g : Steer → Steer) : (modSteer a g s).qtrs = s.qtrs := rfl
@[simp] theorem modSteer_dies (a : Nat) (g : Steer → Steer) : (modSteer a g s).dies = s.dies := rfl
@[simp] theorem modSteer_ptnCmd (a : Nat) (g : Steer → Steer) : (modSteer a g s).ptnCmd = s.ptnCmd := rfl
@[simp] theorem modSteer_ptns (a : Nat) (g : Steer → Steer) : (modSteer a g s).ptns = s.ptns := rfl
@[simp] theorem modSteer_ctxs (a : Nat) (g : Steer → Steer) : (modSteer a g s).ctxs = s.ctxs := rfl
@[simp] theorem modSteer_rings (a : Nat) (g : Steer → Steer) : (modSteer a g s).rings = s.rings := rfl
@[simp] theorem modSteer_mem (a : Nat) (g : Steer → Steer) : (modSteer a g s).mem = s.mem := rfl
@[simp] theorem modSteer_adapters (a : Nat) (g : Steer → Steer) : (modSteer a g s).adapters = s.adapters := rfl
@[simp] theorem modSteer_masks (a : Nat) (g : Steer → Steer) : (modSteer a g s).masks = s.masks := rfl
@[simp] theorem modSteer_fab (a : Nat) (g : Steer → Steer) : (modSteer a g s).fab = s.fab := rfl
@[simp] theorem modSteer_flt (a : Nat) (g : Steer → Steer) : (modSteer a g s).flt = s.flt := rfl
@[simp] theorem modSteer_evc (a : Nat) (g : Steer → Steer) : (modSteer a g s).evc = s.evc := rfl
@[simp] theorem modSteer_pwr (a : Nat) (g : Steer → Steer) : (modSteer a g s).pwr = s.pwr := rfl
@[simp] theorem modSteer_out (a : Nat) (g : Steer → Steer) : (modSteer a g s).out = s.out := rfl
@[simp] theorem modSteer_free (a : Nat) (g : Steer → Steer) : (modSteer a g s).free = s.free := rfl
@[simp] theorem modSteer_pending (a : Nat) (g : Steer → Steer) : (modSteer a g s).pending = s.pending := rfl

/-! ### modPort -/

@[simp] theorem modPort_time (n : Nat) (g : Port → Port) : (modPort n g s).time = s.time := rfl
@[simp] theorem modPort_fns (n : Nat) (g : Port → Port) : (modPort n g s).fns = s.fns := rfl
@[simp] theorem modPort_vfEnable (n : Nat) (g : Port → Port) : (modPort n g s).vfEnable = s.vfEnable := rfl
@[simp] theorem modPort_linkUp (n : Nat) (g : Port → Port) : (modPort n g s).linkUp = s.linkUp := rfl
@[simp] theorem modPort_boot (n : Nat) (g : Port → Port) : (modPort n g s).boot = s.boot := rfl
@[simp] theorem modPort_fuses (n : Nat) (g : Port → Port) : (modPort n g s).fuses = s.fuses := rfl
@[simp] theorem modPort_mbox (n : Nat) (g : Port → Port) : (modPort n g s).mbox = s.mbox := rfl
@[simp] theorem modPort_mgmt (n : Nat) (g : Port → Port) : (modPort n g s).mgmt = s.mgmt := rfl
@[simp] theorem modPort_qtrAvail (n : Nat) (g : Port → Port) : (modPort n g s).qtrAvail = s.qtrAvail := rfl
@[simp] theorem modPort_sets (n : Nat) (g : Port → Port) : (modPort n g s).sets = s.sets := rfl
@[simp] theorem modPort_qtrs (n : Nat) (g : Port → Port) : (modPort n g s).qtrs = s.qtrs := rfl
@[simp] theorem modPort_dies (n : Nat) (g : Port → Port) : (modPort n g s).dies = s.dies := rfl
@[simp] theorem modPort_ptnCmd (n : Nat) (g : Port → Port) : (modPort n g s).ptnCmd = s.ptnCmd := rfl
@[simp] theorem modPort_ptns (n : Nat) (g : Port → Port) : (modPort n g s).ptns = s.ptns := rfl
@[simp] theorem modPort_ctxs (n : Nat) (g : Port → Port) : (modPort n g s).ctxs = s.ctxs := rfl
@[simp] theorem modPort_rings (n : Nat) (g : Port → Port) : (modPort n g s).rings = s.rings := rfl
@[simp] theorem modPort_mem (n : Nat) (g : Port → Port) : (modPort n g s).mem = s.mem := rfl
@[simp] theorem modPort_adapters (n : Nat) (g : Port → Port) : (modPort n g s).adapters = s.adapters := rfl
@[simp] theorem modPort_steers (n : Nat) (g : Port → Port) : (modPort n g s).steers = s.steers := rfl
@[simp] theorem modPort_masks (n : Nat) (g : Port → Port) : (modPort n g s).masks = s.masks := rfl
@[simp] theorem modPort_flt (n : Nat) (g : Port → Port) : (modPort n g s).flt = s.flt := rfl
@[simp] theorem modPort_evc (n : Nat) (g : Port → Port) : (modPort n g s).evc = s.evc := rfl
@[simp] theorem modPort_pwr (n : Nat) (g : Port → Port) : (modPort n g s).pwr = s.pwr := rfl
@[simp] theorem modPort_out (n : Nat) (g : Port → Port) : (modPort n g s).out = s.out := rfl
@[simp] theorem modPort_free (n : Nat) (g : Port → Port) : (modPort n g s).free = s.free := rfl
@[simp] theorem modPort_pending (n : Nat) (g : Port → Port) : (modPort n g s).pending = s.pending := rfl

/-! ### modMem -/

@[simp] theorem modMem_time (g : MemUnit → MemUnit) : (modMem g s).time = s.time := rfl
@[simp] theorem modMem_fns (g : MemUnit → MemUnit) : (modMem g s).fns = s.fns := rfl
@[simp] theorem modMem_vfEnable (g : MemUnit → MemUnit) : (modMem g s).vfEnable = s.vfEnable := rfl
@[simp] theorem modMem_linkUp (g : MemUnit → MemUnit) : (modMem g s).linkUp = s.linkUp := rfl
@[simp] theorem modMem_boot (g : MemUnit → MemUnit) : (modMem g s).boot = s.boot := rfl
@[simp] theorem modMem_fuses (g : MemUnit → MemUnit) : (modMem g s).fuses = s.fuses := rfl
@[simp] theorem modMem_mbox (g : MemUnit → MemUnit) : (modMem g s).mbox = s.mbox := rfl
@[simp] theorem modMem_mgmt (g : MemUnit → MemUnit) : (modMem g s).mgmt = s.mgmt := rfl
@[simp] theorem modMem_qtrAvail (g : MemUnit → MemUnit) : (modMem g s).qtrAvail = s.qtrAvail := rfl
@[simp] theorem modMem_sets (g : MemUnit → MemUnit) : (modMem g s).sets = s.sets := rfl
@[simp] theorem modMem_qtrs (g : MemUnit → MemUnit) : (modMem g s).qtrs = s.qtrs := rfl
@[simp] theorem modMem_dies (g : MemUnit → MemUnit) : (modMem g s).dies = s.dies := rfl
@[simp] theorem modMem_ptnCmd (g : MemUnit → MemUnit) : (modMem g s).ptnCmd = s.ptnCmd := rfl
@[simp] theorem modMem_ptns (g : MemUnit → MemUnit) : (modMem g s).ptns = s.ptns := rfl
@[simp] theorem modMem_ctxs (g : MemUnit → MemUnit) : (modMem g s).ctxs = s.ctxs := rfl
@[simp] theorem modMem_rings (g : MemUnit → MemUnit) : (modMem g s).rings = s.rings := rfl
@[simp] theorem modMem_adapters (g : MemUnit → MemUnit) : (modMem g s).adapters = s.adapters := rfl
@[simp] theorem modMem_steers (g : MemUnit → MemUnit) : (modMem g s).steers = s.steers := rfl
@[simp] theorem modMem_masks (g : MemUnit → MemUnit) : (modMem g s).masks = s.masks := rfl
@[simp] theorem modMem_fab (g : MemUnit → MemUnit) : (modMem g s).fab = s.fab := rfl
@[simp] theorem modMem_flt (g : MemUnit → MemUnit) : (modMem g s).flt = s.flt := rfl
@[simp] theorem modMem_evc (g : MemUnit → MemUnit) : (modMem g s).evc = s.evc := rfl
@[simp] theorem modMem_pwr (g : MemUnit → MemUnit) : (modMem g s).pwr = s.pwr := rfl
@[simp] theorem modMem_out (g : MemUnit → MemUnit) : (modMem g s).out = s.out := rfl
@[simp] theorem modMem_free (g : MemUnit → MemUnit) : (modMem g s).free = s.free := rfl
@[simp] theorem modMem_pending (g : MemUnit → MemUnit) : (modMem g s).pending = s.pending := rfl
@[simp] theorem modMem_self (g : MemUnit → MemUnit) : (modMem g s).mem = g s.mem := rfl

/-! ### modFlt -/

@[simp] theorem modFlt_time (g : Flt → Flt) : (modFlt g s).time = s.time := rfl
@[simp] theorem modFlt_fns (g : Flt → Flt) : (modFlt g s).fns = s.fns := rfl
@[simp] theorem modFlt_vfEnable (g : Flt → Flt) : (modFlt g s).vfEnable = s.vfEnable := rfl
@[simp] theorem modFlt_linkUp (g : Flt → Flt) : (modFlt g s).linkUp = s.linkUp := rfl
@[simp] theorem modFlt_boot (g : Flt → Flt) : (modFlt g s).boot = s.boot := rfl
@[simp] theorem modFlt_fuses (g : Flt → Flt) : (modFlt g s).fuses = s.fuses := rfl
@[simp] theorem modFlt_mbox (g : Flt → Flt) : (modFlt g s).mbox = s.mbox := rfl
@[simp] theorem modFlt_mgmt (g : Flt → Flt) : (modFlt g s).mgmt = s.mgmt := rfl
@[simp] theorem modFlt_qtrAvail (g : Flt → Flt) : (modFlt g s).qtrAvail = s.qtrAvail := rfl
@[simp] theorem modFlt_sets (g : Flt → Flt) : (modFlt g s).sets = s.sets := rfl
@[simp] theorem modFlt_qtrs (g : Flt → Flt) : (modFlt g s).qtrs = s.qtrs := rfl
@[simp] theorem modFlt_dies (g : Flt → Flt) : (modFlt g s).dies = s.dies := rfl
@[simp] theorem modFlt_ptnCmd (g : Flt → Flt) : (modFlt g s).ptnCmd = s.ptnCmd := rfl
@[simp] theorem modFlt_ptns (g : Flt → Flt) : (modFlt g s).ptns = s.ptns := rfl
@[simp] theorem modFlt_ctxs (g : Flt → Flt) : (modFlt g s).ctxs = s.ctxs := rfl
@[simp] theorem modFlt_rings (g : Flt → Flt) : (modFlt g s).rings = s.rings := rfl
@[simp] theorem modFlt_mem (g : Flt → Flt) : (modFlt g s).mem = s.mem := rfl
@[simp] theorem modFlt_adapters (g : Flt → Flt) : (modFlt g s).adapters = s.adapters := rfl
@[simp] theorem modFlt_steers (g : Flt → Flt) : (modFlt g s).steers = s.steers := rfl
@[simp] theorem modFlt_masks (g : Flt → Flt) : (modFlt g s).masks = s.masks := rfl
@[simp] theorem modFlt_fab (g : Flt → Flt) : (modFlt g s).fab = s.fab := rfl
@[simp] theorem modFlt_evc (g : Flt → Flt) : (modFlt g s).evc = s.evc := rfl
@[simp] theorem modFlt_pwr (g : Flt → Flt) : (modFlt g s).pwr = s.pwr := rfl
@[simp] theorem modFlt_out (g : Flt → Flt) : (modFlt g s).out = s.out := rfl
@[simp] theorem modFlt_free (g : Flt → Flt) : (modFlt g s).free = s.free := rfl
@[simp] theorem modFlt_pending (g : Flt → Flt) : (modFlt g s).pending = s.pending := rfl
@[simp] theorem modFlt_self (g : Flt → Flt) : (modFlt g s).flt = g s.flt := rfl

/-! ### modEvc -/

@[simp] theorem modEvc_time (g : Evc → Evc) : (modEvc g s).time = s.time := rfl
@[simp] theorem modEvc_fns (g : Evc → Evc) : (modEvc g s).fns = s.fns := rfl
@[simp] theorem modEvc_vfEnable (g : Evc → Evc) : (modEvc g s).vfEnable = s.vfEnable := rfl
@[simp] theorem modEvc_linkUp (g : Evc → Evc) : (modEvc g s).linkUp = s.linkUp := rfl
@[simp] theorem modEvc_boot (g : Evc → Evc) : (modEvc g s).boot = s.boot := rfl
@[simp] theorem modEvc_fuses (g : Evc → Evc) : (modEvc g s).fuses = s.fuses := rfl
@[simp] theorem modEvc_mbox (g : Evc → Evc) : (modEvc g s).mbox = s.mbox := rfl
@[simp] theorem modEvc_mgmt (g : Evc → Evc) : (modEvc g s).mgmt = s.mgmt := rfl
@[simp] theorem modEvc_qtrAvail (g : Evc → Evc) : (modEvc g s).qtrAvail = s.qtrAvail := rfl
@[simp] theorem modEvc_sets (g : Evc → Evc) : (modEvc g s).sets = s.sets := rfl
@[simp] theorem modEvc_qtrs (g : Evc → Evc) : (modEvc g s).qtrs = s.qtrs := rfl
@[simp] theorem modEvc_dies (g : Evc → Evc) : (modEvc g s).dies = s.dies := rfl
@[simp] theorem modEvc_ptnCmd (g : Evc → Evc) : (modEvc g s).ptnCmd = s.ptnCmd := rfl
@[simp] theorem modEvc_ptns (g : Evc → Evc) : (modEvc g s).ptns = s.ptns := rfl
@[simp] theorem modEvc_ctxs (g : Evc → Evc) : (modEvc g s).ctxs = s.ctxs := rfl
@[simp] theorem modEvc_rings (g : Evc → Evc) : (modEvc g s).rings = s.rings := rfl
@[simp] theorem modEvc_mem (g : Evc → Evc) : (modEvc g s).mem = s.mem := rfl
@[simp] theorem modEvc_adapters (g : Evc → Evc) : (modEvc g s).adapters = s.adapters := rfl
@[simp] theorem modEvc_steers (g : Evc → Evc) : (modEvc g s).steers = s.steers := rfl
@[simp] theorem modEvc_masks (g : Evc → Evc) : (modEvc g s).masks = s.masks := rfl
@[simp] theorem modEvc_fab (g : Evc → Evc) : (modEvc g s).fab = s.fab := rfl
@[simp] theorem modEvc_flt (g : Evc → Evc) : (modEvc g s).flt = s.flt := rfl
@[simp] theorem modEvc_pwr (g : Evc → Evc) : (modEvc g s).pwr = s.pwr := rfl
@[simp] theorem modEvc_out (g : Evc → Evc) : (modEvc g s).out = s.out := rfl
@[simp] theorem modEvc_free (g : Evc → Evc) : (modEvc g s).free = s.free := rfl
@[simp] theorem modEvc_pending (g : Evc → Evc) : (modEvc g s).pending = s.pending := rfl
@[simp] theorem modEvc_self (g : Evc → Evc) : (modEvc g s).evc = g s.evc := rfl

/-! ### modPwr -/

@[simp] theorem modPwr_time (g : Pwr → Pwr) : (modPwr g s).time = s.time := rfl
@[simp] theorem modPwr_fns (g : Pwr → Pwr) : (modPwr g s).fns = s.fns := rfl
@[simp] theorem modPwr_vfEnable (g : Pwr → Pwr) : (modPwr g s).vfEnable = s.vfEnable := rfl
@[simp] theorem modPwr_linkUp (g : Pwr → Pwr) : (modPwr g s).linkUp = s.linkUp := rfl
@[simp] theorem modPwr_boot (g : Pwr → Pwr) : (modPwr g s).boot = s.boot := rfl
@[simp] theorem modPwr_fuses (g : Pwr → Pwr) : (modPwr g s).fuses = s.fuses := rfl
@[simp] theorem modPwr_mbox (g : Pwr → Pwr) : (modPwr g s).mbox = s.mbox := rfl
@[simp] theorem modPwr_mgmt (g : Pwr → Pwr) : (modPwr g s).mgmt = s.mgmt := rfl
@[simp] theorem modPwr_qtrAvail (g : Pwr → Pwr) : (modPwr g s).qtrAvail = s.qtrAvail := rfl
@[simp] theorem modPwr_sets (g : Pwr → Pwr) : (modPwr g s).sets = s.sets := rfl
@[simp] theorem modPwr_qtrs (g : Pwr → Pwr) : (modPwr g s).qtrs = s.qtrs := rfl
@[simp] theorem modPwr_dies (g : Pwr → Pwr) : (modPwr g s).dies = s.dies := rfl
@[simp] theorem modPwr_ptnCmd (g : Pwr → Pwr) : (modPwr g s).ptnCmd = s.ptnCmd := rfl
@[simp] theorem modPwr_ptns (g : Pwr → Pwr) : (modPwr g s).ptns = s.ptns := rfl
@[simp] theorem modPwr_ctxs (g : Pwr → Pwr) : (modPwr g s).ctxs = s.ctxs := rfl
@[simp] theorem modPwr_rings (g : Pwr → Pwr) : (modPwr g s).rings = s.rings := rfl
@[simp] theorem modPwr_mem (g : Pwr → Pwr) : (modPwr g s).mem = s.mem := rfl
@[simp] theorem modPwr_adapters (g : Pwr → Pwr) : (modPwr g s).adapters = s.adapters := rfl
@[simp] theorem modPwr_steers (g : Pwr → Pwr) : (modPwr g s).steers = s.steers := rfl
@[simp] theorem modPwr_masks (g : Pwr → Pwr) : (modPwr g s).masks = s.masks := rfl
@[simp] theorem modPwr_fab (g : Pwr → Pwr) : (modPwr g s).fab = s.fab := rfl
@[simp] theorem modPwr_flt (g : Pwr → Pwr) : (modPwr g s).flt = s.flt := rfl
@[simp] theorem modPwr_evc (g : Pwr → Pwr) : (modPwr g s).evc = s.evc := rfl
@[simp] theorem modPwr_out (g : Pwr → Pwr) : (modPwr g s).out = s.out := rfl
@[simp] theorem modPwr_free (g : Pwr → Pwr) : (modPwr g s).free = s.free := rfl
@[simp] theorem modPwr_pending (g : Pwr → Pwr) : (modPwr g s).pending = s.pending := rfl
@[simp] theorem modPwr_self (g : Pwr → Pwr) : (modPwr g s).pwr = g s.pwr := rfl

/-! ### modFab -/

@[simp] theorem modFab_time (g : Fab → Fab) : (modFab g s).time = s.time := rfl
@[simp] theorem modFab_fns (g : Fab → Fab) : (modFab g s).fns = s.fns := rfl
@[simp] theorem modFab_vfEnable (g : Fab → Fab) : (modFab g s).vfEnable = s.vfEnable := rfl
@[simp] theorem modFab_linkUp (g : Fab → Fab) : (modFab g s).linkUp = s.linkUp := rfl
@[simp] theorem modFab_boot (g : Fab → Fab) : (modFab g s).boot = s.boot := rfl
@[simp] theorem modFab_fuses (g : Fab → Fab) : (modFab g s).fuses = s.fuses := rfl
@[simp] theorem modFab_mbox (g : Fab → Fab) : (modFab g s).mbox = s.mbox := rfl
@[simp] theorem modFab_mgmt (g : Fab → Fab) : (modFab g s).mgmt = s.mgmt := rfl
@[simp] theorem modFab_qtrAvail (g : Fab → Fab) : (modFab g s).qtrAvail = s.qtrAvail := rfl
@[simp] theorem modFab_sets (g : Fab → Fab) : (modFab g s).sets = s.sets := rfl
@[simp] theorem modFab_qtrs (g : Fab → Fab) : (modFab g s).qtrs = s.qtrs := rfl
@[simp] theorem modFab_dies (g : Fab → Fab) : (modFab g s).dies = s.dies := rfl
@[simp] theorem modFab_ptnCmd (g : Fab → Fab) : (modFab g s).ptnCmd = s.ptnCmd := rfl
@[simp] theorem modFab_ptns (g : Fab → Fab) : (modFab g s).ptns = s.ptns := rfl
@[simp] theorem modFab_ctxs (g : Fab → Fab) : (modFab g s).ctxs = s.ctxs := rfl
@[simp] theorem modFab_rings (g : Fab → Fab) : (modFab g s).rings = s.rings := rfl
@[simp] theorem modFab_mem (g : Fab → Fab) : (modFab g s).mem = s.mem := rfl
@[simp] theorem modFab_adapters (g : Fab → Fab) : (modFab g s).adapters = s.adapters := rfl
@[simp] theorem modFab_steers (g : Fab → Fab) : (modFab g s).steers = s.steers := rfl
@[simp] theorem modFab_masks (g : Fab → Fab) : (modFab g s).masks = s.masks := rfl
@[simp] theorem modFab_flt (g : Fab → Fab) : (modFab g s).flt = s.flt := rfl
@[simp] theorem modFab_evc (g : Fab → Fab) : (modFab g s).evc = s.evc := rfl
@[simp] theorem modFab_pwr (g : Fab → Fab) : (modFab g s).pwr = s.pwr := rfl
@[simp] theorem modFab_out (g : Fab → Fab) : (modFab g s).out = s.out := rfl
@[simp] theorem modFab_free (g : Fab → Fab) : (modFab g s).free = s.free := rfl
@[simp] theorem modFab_pending (g : Fab → Fab) : (modFab g s).pending = s.pending := rfl
@[simp] theorem modFab_self (g : Fab → Fab) : (modFab g s).fab = g s.fab := rfl

/-! ### modBoot -/

@[simp] theorem modBoot_time (g : Boot → Boot) : (modBoot g s).time = s.time := rfl
@[simp] theorem modBoot_fns (g : Boot → Boot) : (modBoot g s).fns = s.fns := rfl
@[simp] theorem modBoot_vfEnable (g : Boot → Boot) : (modBoot g s).vfEnable = s.vfEnable := rfl
@[simp] theorem modBoot_linkUp (g : Boot → Boot) : (modBoot g s).linkUp = s.linkUp := rfl
@[simp] theorem modBoot_fuses (g : Boot → Boot) : (modBoot g s).fuses = s.fuses := rfl
@[simp] theorem modBoot_mbox (g : Boot → Boot) : (modBoot g s).mbox = s.mbox := rfl
@[simp] theorem modBoot_mgmt (g : Boot → Boot) : (modBoot g s).mgmt = s.mgmt := rfl
@[simp] theorem modBoot_qtrAvail (g : Boot → Boot) : (modBoot g s).qtrAvail = s.qtrAvail := rfl
@[simp] theorem modBoot_sets (g : Boot → Boot) : (modBoot g s).sets = s.sets := rfl
@[simp] theorem modBoot_qtrs (g : Boot → Boot) : (modBoot g s).qtrs = s.qtrs := rfl
@[simp] theorem modBoot_dies (g : Boot → Boot) : (modBoot g s).dies = s.dies := rfl
@[simp] theorem modBoot_ptnCmd (g : Boot → Boot) : (modBoot g s).ptnCmd = s.ptnCmd := rfl
@[simp] theorem modBoot_ptns (g : Boot → Boot) : (modBoot g s).ptns = s.ptns := rfl
@[simp] theorem modBoot_ctxs (g : Boot → Boot) : (modBoot g s).ctxs = s.ctxs := rfl
@[simp] theorem modBoot_rings (g : Boot → Boot) : (modBoot g s).rings = s.rings := rfl
@[simp] theorem modBoot_mem (g : Boot → Boot) : (modBoot g s).mem = s.mem := rfl
@[simp] theorem modBoot_adapters (g : Boot → Boot) : (modBoot g s).adapters = s.adapters := rfl
@[simp] theorem modBoot_steers (g : Boot → Boot) : (modBoot g s).steers = s.steers := rfl
@[simp] theorem modBoot_masks (g : Boot → Boot) : (modBoot g s).masks = s.masks := rfl
@[simp] theorem modBoot_fab (g : Boot → Boot) : (modBoot g s).fab = s.fab := rfl
@[simp] theorem modBoot_flt (g : Boot → Boot) : (modBoot g s).flt = s.flt := rfl
@[simp] theorem modBoot_evc (g : Boot → Boot) : (modBoot g s).evc = s.evc := rfl
@[simp] theorem modBoot_pwr (g : Boot → Boot) : (modBoot g s).pwr = s.pwr := rfl
@[simp] theorem modBoot_out (g : Boot → Boot) : (modBoot g s).out = s.out := rfl
@[simp] theorem modBoot_free (g : Boot → Boot) : (modBoot g s).free = s.free := rfl
@[simp] theorem modBoot_pending (g : Boot → Boot) : (modBoot g s).pending = s.pending := rfl
@[simp] theorem modBoot_self (g : Boot → Boot) : (modBoot g s).boot = g s.boot := rfl

/-! ### modOut -/

@[simp] theorem modOut_time (g : Out → Out) : (modOut g s).time = s.time := rfl
@[simp] theorem modOut_fns (g : Out → Out) : (modOut g s).fns = s.fns := rfl
@[simp] theorem modOut_vfEnable (g : Out → Out) : (modOut g s).vfEnable = s.vfEnable := rfl
@[simp] theorem modOut_linkUp (g : Out → Out) : (modOut g s).linkUp = s.linkUp := rfl
@[simp] theorem modOut_boot (g : Out → Out) : (modOut g s).boot = s.boot := rfl
@[simp] theorem modOut_fuses (g : Out → Out) : (modOut g s).fuses = s.fuses := rfl
@[simp] theorem modOut_mbox (g : Out → Out) : (modOut g s).mbox = s.mbox := rfl
@[simp] theorem modOut_mgmt (g : Out → Out) : (modOut g s).mgmt = s.mgmt := rfl
@[simp] theorem modOut_qtrAvail (g : Out → Out) : (modOut g s).qtrAvail = s.qtrAvail := rfl
@[simp] theorem modOut_sets (g : Out → Out) : (modOut g s).sets = s.sets := rfl
@[simp] theorem modOut_qtrs (g : Out → Out) : (modOut g s).qtrs = s.qtrs := rfl
@[simp] theorem modOut_dies (g : Out → Out) : (modOut g s).dies = s.dies := rfl
@[simp] theorem modOut_ptnCmd (g : Out → Out) : (modOut g s).ptnCmd = s.ptnCmd := rfl
@[simp] theorem modOut_ptns (g : Out → Out) : (modOut g s).ptns = s.ptns := rfl
@[simp] theorem modOut_ctxs (g : Out → Out) : (modOut g s).ctxs = s.ctxs := rfl
@[simp] theorem modOut_rings (g : Out → Out) : (modOut g s).rings = s.rings := rfl
@[simp] theorem modOut_mem (g : Out → Out) : (modOut g s).mem = s.mem := rfl
@[simp] theorem modOut_adapters (g : Out → Out) : (modOut g s).adapters = s.adapters := rfl
@[simp] theorem modOut_steers (g : Out → Out) : (modOut g s).steers = s.steers := rfl
@[simp] theorem modOut_masks (g : Out → Out) : (modOut g s).masks = s.masks := rfl
@[simp] theorem modOut_fab (g : Out → Out) : (modOut g s).fab = s.fab := rfl
@[simp] theorem modOut_flt (g : Out → Out) : (modOut g s).flt = s.flt := rfl
@[simp] theorem modOut_evc (g : Out → Out) : (modOut g s).evc = s.evc := rfl
@[simp] theorem modOut_pwr (g : Out → Out) : (modOut g s).pwr = s.pwr := rfl
@[simp] theorem modOut_free (g : Out → Out) : (modOut g s).free = s.free := rfl
@[simp] theorem modOut_pending (g : Out → Out) : (modOut g s).pending = s.pending := rfl
@[simp] theorem modOut_self (g : Out → Out) : (modOut g s).out = g s.out := rfl

/-! ### modMgmt -/

@[simp] theorem modMgmt_time (g : Mgmt → Mgmt) : (modMgmt g s).time = s.time := rfl
@[simp] theorem modMgmt_fns (g : Mgmt → Mgmt) : (modMgmt g s).fns = s.fns := rfl
@[simp] theorem modMgmt_vfEnable (g : Mgmt → Mgmt) : (modMgmt g s).vfEnable = s.vfEnable := rfl
@[simp] theorem modMgmt_linkUp (g : Mgmt → Mgmt) : (modMgmt g s).linkUp = s.linkUp := rfl
@[simp] theorem modMgmt_boot (g : Mgmt → Mgmt) : (modMgmt g s).boot = s.boot := rfl
@[simp] theorem modMgmt_fuses (g : Mgmt → Mgmt) : (modMgmt g s).fuses = s.fuses := rfl
@[simp] theorem modMgmt_mbox (g : Mgmt → Mgmt) : (modMgmt g s).mbox = s.mbox := rfl
@[simp] theorem modMgmt_qtrAvail (g : Mgmt → Mgmt) : (modMgmt g s).qtrAvail = s.qtrAvail := rfl
@[simp] theorem modMgmt_sets (g : Mgmt → Mgmt) : (modMgmt g s).sets = s.sets := rfl
@[simp] theorem modMgmt_qtrs (g : Mgmt → Mgmt) : (modMgmt g s).qtrs = s.qtrs := rfl
@[simp] theorem modMgmt_dies (g : Mgmt → Mgmt) : (modMgmt g s).dies = s.dies := rfl
@[simp] theorem modMgmt_ptnCmd (g : Mgmt → Mgmt) : (modMgmt g s).ptnCmd = s.ptnCmd := rfl
@[simp] theorem modMgmt_ptns (g : Mgmt → Mgmt) : (modMgmt g s).ptns = s.ptns := rfl
@[simp] theorem modMgmt_ctxs (g : Mgmt → Mgmt) : (modMgmt g s).ctxs = s.ctxs := rfl
@[simp] theorem modMgmt_rings (g : Mgmt → Mgmt) : (modMgmt g s).rings = s.rings := rfl
@[simp] theorem modMgmt_mem (g : Mgmt → Mgmt) : (modMgmt g s).mem = s.mem := rfl
@[simp] theorem modMgmt_adapters (g : Mgmt → Mgmt) : (modMgmt g s).adapters = s.adapters := rfl
@[simp] theorem modMgmt_steers (g : Mgmt → Mgmt) : (modMgmt g s).steers = s.steers := rfl
@[simp] theorem modMgmt_masks (g : Mgmt → Mgmt) : (modMgmt g s).masks = s.masks := rfl
@[simp] theorem modMgmt_fab (g : Mgmt → Mgmt) : (modMgmt g s).fab = s.fab := rfl
@[simp] theorem modMgmt_flt (g : Mgmt → Mgmt) : (modMgmt g s).flt = s.flt := rfl
@[simp] theorem modMgmt_evc (g : Mgmt → Mgmt) : (modMgmt g s).evc = s.evc := rfl
@[simp] theorem modMgmt_pwr (g : Mgmt → Mgmt) : (modMgmt g s).pwr = s.pwr := rfl
@[simp] theorem modMgmt_out (g : Mgmt → Mgmt) : (modMgmt g s).out = s.out := rfl
@[simp] theorem modMgmt_free (g : Mgmt → Mgmt) : (modMgmt g s).free = s.free := rfl
@[simp] theorem modMgmt_pending (g : Mgmt → Mgmt) : (modMgmt g s).pending = s.pending := rfl
@[simp] theorem modMgmt_self (g : Mgmt → Mgmt) : (modMgmt g s).mgmt = g s.mgmt := rfl

/-! ### Changes of a part of a partition -/

@[simp] theorem modFig_eq (p : Nat) (g : Fig → Fig) : modFig p g s = modPtn p (fun x => { x with fig := g x.fig }) s := rfl
@[simp] theorem modFe_eq (p : Nat) (g : Fe → Fe) : modFe p g s = modPtn p (fun x => { x with fe := g x.fe }) s := rfl
@[simp] theorem modAtt_eq (p : Nat) (g : Att → Att) : modAtt p g s = modPtn p (fun x => { x with att := g x.att }) s := rfl
@[simp] theorem modPMem_eq (p : Nat) (g : PMem → PMem) : modPMem p g s = modPtn p (fun x => { x with mem := g x.mem }) s := rfl
@[simp] theorem modPFlt_eq (p : Nat) (g : PFlt → PFlt) : modPFlt p g s = modPtn p (fun x => { x with flt := g x.flt }) s := rfl
@[simp] theorem modPPwr_eq (p : Nat) (g : PPwr → PPwr) : modPPwr p g s = modPtn p (fun x => { x with pwr := g x.pwr }) s := rfl
@[simp] theorem modXch_eq (p : Nat) (g : PXch → PXch) : modXch p g s = modPtn p (fun x => { x with xch := g x.xch }) s := rfl

/-! ### Reading a unit after a change of one -/

@[simp] theorem getFn_modFn_self (n : Nat) (g : Fn → Fn) : getFn (modFn n g s) n = g (getFn s n) := by simp [getFn, modFn]
theorem getFn_modFn_ne {n k : Nat} (g : Fn → Fn) (h : k ≠ n) : getFn (modFn n g s) k = getFn s k := by
  simpa [getFn, modFn] using tget_tmod_ne _ g _ h
theorem getFn_modFn (n k : Nat) (g : Fn → Fn) : getFn (modFn n g s) k = if k = n then g (getFn s n) else getFn s k := by
  simpa [getFn, modFn] using tget_tmod _ n k g _
@[simp] theorem getFn_modPtn (p : Nat) (g : Ptn → Ptn) (k : Nat) : getFn (modPtn p g s) k = getFn s k := rfl
@[simp] theorem getFn_modCtx (c : Nat) (g : Ctx → Ctx) (k : Nat) : getFn (modCtx c g s) k = getFn s k := rfl
@[simp] theorem getFn_modRing (r : Nat) (g : Ring → Ring) (k : Nat) : getFn (modRing r g s) k = getFn s k := rfl
@[simp] theorem getFn_modQtr (q : Nat) (g : Qtr → Qtr) (k : Nat) : getFn (modQtr q g s) k = getFn s k := rfl
@[simp] theorem getFn_modDie (d : Nat) (g : Die → Die) (k : Nat) : getFn (modDie d g s) k = getFn s k := rfl
@[simp] theorem getFn_modAdapter (a : Nat) (g : Adapter → Adapter) (k : Nat) : getFn (modAdapter a g s) k = getFn s k := rfl
@[simp] theorem getFn_modSteer (a : Nat) (g : Steer → Steer) (k : Nat) : getFn (modSteer a g s) k = getFn s k := rfl
@[simp] theorem getFn_modPort (n : Nat) (g : Port → Port) (k : Nat) : getFn (modPort n g s) k = getFn s k := rfl
@[simp] theorem getFn_modMem (g : MemUnit → MemUnit) (k : Nat) : getFn (modMem g s) k = getFn s k := rfl
@[simp] theorem getFn_modFlt (g : Flt → Flt) (k : Nat) : getFn (modFlt g s) k = getFn s k := rfl
@[simp] theorem getFn_modEvc (g : Evc → Evc) (k : Nat) : getFn (modEvc g s) k = getFn s k := rfl
@[simp] theorem getFn_modPwr (g : Pwr → Pwr) (k : Nat) : getFn (modPwr g s) k = getFn s k := rfl
@[simp] theorem getFn_modFab (g : Fab → Fab) (k : Nat) : getFn (modFab g s) k = getFn s k := rfl
@[simp] theorem getFn_modBoot (g : Boot → Boot) (k : Nat) : getFn (modBoot g s) k = getFn s k := rfl
@[simp] theorem getFn_modOut (g : Out → Out) (k : Nat) : getFn (modOut g s) k = getFn s k := rfl
@[simp] theorem getFn_modMgmt (g : Mgmt → Mgmt) (k : Nat) : getFn (modMgmt g s) k = getFn s k := rfl

@[simp] theorem getPtn_modPtn_self (n : Nat) (g : Ptn → Ptn) : getPtn (modPtn n g s) n = g (getPtn s n) := by simp [getPtn, modPtn]
theorem getPtn_modPtn_ne {n k : Nat} (g : Ptn → Ptn) (h : k ≠ n) : getPtn (modPtn n g s) k = getPtn s k := by
  simpa [getPtn, modPtn] using tget_tmod_ne _ g _ h
theorem getPtn_modPtn (n k : Nat) (g : Ptn → Ptn) : getPtn (modPtn n g s) k = if k = n then g (getPtn s n) else getPtn s k := by
  simpa [getPtn, modPtn] using tget_tmod _ n k g _
@[simp] theorem getPtn_modFn (f : Nat) (g : Fn → Fn) (k : Nat) : getPtn (modFn f g s) k = getPtn s k := rfl
@[simp] theorem getPtn_modCtx (c : Nat) (g : Ctx → Ctx) (k : Nat) : getPtn (modCtx c g s) k = getPtn s k := rfl
@[simp] theorem getPtn_modRing (r : Nat) (g : Ring → Ring) (k : Nat) : getPtn (modRing r g s) k = getPtn s k := rfl
@[simp] theorem getPtn_modQtr (q : Nat) (g : Qtr → Qtr) (k : Nat) : getPtn (modQtr q g s) k = getPtn s k := rfl
@[simp] theorem getPtn_modDie (d : Nat) (g : Die → Die) (k : Nat) : getPtn (modDie d g s) k = getPtn s k := rfl
@[simp] theorem getPtn_modAdapter (a : Nat) (g : Adapter → Adapter) (k : Nat) : getPtn (modAdapter a g s) k = getPtn s k := rfl
@[simp] theorem getPtn_modSteer (a : Nat) (g : Steer → Steer) (k : Nat) : getPtn (modSteer a g s) k = getPtn s k := rfl
@[simp] theorem getPtn_modPort (n : Nat) (g : Port → Port) (k : Nat) : getPtn (modPort n g s) k = getPtn s k := rfl
@[simp] theorem getPtn_modMem (g : MemUnit → MemUnit) (k : Nat) : getPtn (modMem g s) k = getPtn s k := rfl
@[simp] theorem getPtn_modFlt (g : Flt → Flt) (k : Nat) : getPtn (modFlt g s) k = getPtn s k := rfl
@[simp] theorem getPtn_modEvc (g : Evc → Evc) (k : Nat) : getPtn (modEvc g s) k = getPtn s k := rfl
@[simp] theorem getPtn_modPwr (g : Pwr → Pwr) (k : Nat) : getPtn (modPwr g s) k = getPtn s k := rfl
@[simp] theorem getPtn_modFab (g : Fab → Fab) (k : Nat) : getPtn (modFab g s) k = getPtn s k := rfl
@[simp] theorem getPtn_modBoot (g : Boot → Boot) (k : Nat) : getPtn (modBoot g s) k = getPtn s k := rfl
@[simp] theorem getPtn_modOut (g : Out → Out) (k : Nat) : getPtn (modOut g s) k = getPtn s k := rfl
@[simp] theorem getPtn_modMgmt (g : Mgmt → Mgmt) (k : Nat) : getPtn (modMgmt g s) k = getPtn s k := rfl

@[simp] theorem getCtx_modCtx_self (n : Nat) (g : Ctx → Ctx) : getCtx (modCtx n g s) n = g (getCtx s n) := by simp [getCtx, modCtx]
theorem getCtx_modCtx_ne {n k : Nat} (g : Ctx → Ctx) (h : k ≠ n) : getCtx (modCtx n g s) k = getCtx s k := by
  simpa [getCtx, modCtx] using tget_tmod_ne _ g _ h
theorem getCtx_modCtx (n k : Nat) (g : Ctx → Ctx) : getCtx (modCtx n g s) k = if k = n then g (getCtx s n) else getCtx s k := by
  simpa [getCtx, modCtx] using tget_tmod _ n k g _
@[simp] theorem getCtx_modFn (f : Nat) (g : Fn → Fn) (k : Nat) : getCtx (modFn f g s) k = getCtx s k := rfl
@[simp] theorem getCtx_modPtn (p : Nat) (g : Ptn → Ptn) (k : Nat) : getCtx (modPtn p g s) k = getCtx s k := rfl
@[simp] theorem getCtx_modRing (r : Nat) (g : Ring → Ring) (k : Nat) : getCtx (modRing r g s) k = getCtx s k := rfl
@[simp] theorem getCtx_modQtr (q : Nat) (g : Qtr → Qtr) (k : Nat) : getCtx (modQtr q g s) k = getCtx s k := rfl
@[simp] theorem getCtx_modDie (d : Nat) (g : Die → Die) (k : Nat) : getCtx (modDie d g s) k = getCtx s k := rfl
@[simp] theorem getCtx_modAdapter (a : Nat) (g : Adapter → Adapter) (k : Nat) : getCtx (modAdapter a g s) k = getCtx s k := rfl
@[simp] theorem getCtx_modSteer (a : Nat) (g : Steer → Steer) (k : Nat) : getCtx (modSteer a g s) k = getCtx s k := rfl
@[simp] theorem getCtx_modPort (n : Nat) (g : Port → Port) (k : Nat) : getCtx (modPort n g s) k = getCtx s k := rfl
@[simp] theorem getCtx_modMem (g : MemUnit → MemUnit) (k : Nat) : getCtx (modMem g s) k = getCtx s k := rfl
@[simp] theorem getCtx_modFlt (g : Flt → Flt) (k : Nat) : getCtx (modFlt g s) k = getCtx s k := rfl
@[simp] theorem getCtx_modEvc (g : Evc → Evc) (k : Nat) : getCtx (modEvc g s) k = getCtx s k := rfl
@[simp] theorem getCtx_modPwr (g : Pwr → Pwr) (k : Nat) : getCtx (modPwr g s) k = getCtx s k := rfl
@[simp] theorem getCtx_modFab (g : Fab → Fab) (k : Nat) : getCtx (modFab g s) k = getCtx s k := rfl
@[simp] theorem getCtx_modBoot (g : Boot → Boot) (k : Nat) : getCtx (modBoot g s) k = getCtx s k := rfl
@[simp] theorem getCtx_modOut (g : Out → Out) (k : Nat) : getCtx (modOut g s) k = getCtx s k := rfl
@[simp] theorem getCtx_modMgmt (g : Mgmt → Mgmt) (k : Nat) : getCtx (modMgmt g s) k = getCtx s k := rfl

@[simp] theorem getRing_modRing_self (n : Nat) (g : Ring → Ring) : getRing (modRing n g s) n = g (getRing s n) := by simp [getRing, modRing]
theorem getRing_modRing_ne {n k : Nat} (g : Ring → Ring) (h : k ≠ n) : getRing (modRing n g s) k = getRing s k := by
  simpa [getRing, modRing] using tget_tmod_ne _ g _ h
theorem getRing_modRing (n k : Nat) (g : Ring → Ring) : getRing (modRing n g s) k = if k = n then g (getRing s n) else getRing s k := by
  simpa [getRing, modRing] using tget_tmod _ n k g _
@[simp] theorem getRing_modFn (f : Nat) (g : Fn → Fn) (k : Nat) : getRing (modFn f g s) k = getRing s k := rfl
@[simp] theorem getRing_modPtn (p : Nat) (g : Ptn → Ptn) (k : Nat) : getRing (modPtn p g s) k = getRing s k := rfl
@[simp] theorem getRing_modCtx (c : Nat) (g : Ctx → Ctx) (k : Nat) : getRing (modCtx c g s) k = getRing s k := rfl
@[simp] theorem getRing_modQtr (q : Nat) (g : Qtr → Qtr) (k : Nat) : getRing (modQtr q g s) k = getRing s k := rfl
@[simp] theorem getRing_modDie (d : Nat) (g : Die → Die) (k : Nat) : getRing (modDie d g s) k = getRing s k := rfl
@[simp] theorem getRing_modAdapter (a : Nat) (g : Adapter → Adapter) (k : Nat) : getRing (modAdapter a g s) k = getRing s k := rfl
@[simp] theorem getRing_modSteer (a : Nat) (g : Steer → Steer) (k : Nat) : getRing (modSteer a g s) k = getRing s k := rfl
@[simp] theorem getRing_modPort (n : Nat) (g : Port → Port) (k : Nat) : getRing (modPort n g s) k = getRing s k := rfl
@[simp] theorem getRing_modMem (g : MemUnit → MemUnit) (k : Nat) : getRing (modMem g s) k = getRing s k := rfl
@[simp] theorem getRing_modFlt (g : Flt → Flt) (k : Nat) : getRing (modFlt g s) k = getRing s k := rfl
@[simp] theorem getRing_modEvc (g : Evc → Evc) (k : Nat) : getRing (modEvc g s) k = getRing s k := rfl
@[simp] theorem getRing_modPwr (g : Pwr → Pwr) (k : Nat) : getRing (modPwr g s) k = getRing s k := rfl
@[simp] theorem getRing_modFab (g : Fab → Fab) (k : Nat) : getRing (modFab g s) k = getRing s k := rfl
@[simp] theorem getRing_modBoot (g : Boot → Boot) (k : Nat) : getRing (modBoot g s) k = getRing s k := rfl
@[simp] theorem getRing_modOut (g : Out → Out) (k : Nat) : getRing (modOut g s) k = getRing s k := rfl
@[simp] theorem getRing_modMgmt (g : Mgmt → Mgmt) (k : Nat) : getRing (modMgmt g s) k = getRing s k := rfl

@[simp] theorem getQtr_modQtr_self (n : Nat) (g : Qtr → Qtr) : getQtr (modQtr n g s) n = g (getQtr s n) := by simp [getQtr, modQtr]
theorem getQtr_modQtr_ne {n k : Nat} (g : Qtr → Qtr) (h : k ≠ n) : getQtr (modQtr n g s) k = getQtr s k := by
  simpa [getQtr, modQtr] using tget_tmod_ne _ g _ h
theorem getQtr_modQtr (n k : Nat) (g : Qtr → Qtr) : getQtr (modQtr n g s) k = if k = n then g (getQtr s n) else getQtr s k := by
  simpa [getQtr, modQtr] using tget_tmod _ n k g _
@[simp] theorem getQtr_modFn (f : Nat) (g : Fn → Fn) (k : Nat) : getQtr (modFn f g s) k = getQtr s k := rfl
@[simp] theorem getQtr_modPtn (p : Nat) (g : Ptn → Ptn) (k : Nat) : getQtr (modPtn p g s) k = getQtr s k := rfl
@[simp] theorem getQtr_modCtx (c : Nat) (g : Ctx → Ctx) (k : Nat) : getQtr (modCtx c g s) k = getQtr s k := rfl
@[simp] theorem getQtr_modRing (r : Nat) (g : Ring → Ring) (k : Nat) : getQtr (modRing r g s) k = getQtr s k := rfl
@[simp] theorem getQtr_modDie (d : Nat) (g : Die → Die) (k : Nat) : getQtr (modDie d g s) k = getQtr s k := rfl
@[simp] theorem getQtr_modAdapter (a : Nat) (g : Adapter → Adapter) (k : Nat) : getQtr (modAdapter a g s) k = getQtr s k := rfl
@[simp] theorem getQtr_modSteer (a : Nat) (g : Steer → Steer) (k : Nat) : getQtr (modSteer a g s) k = getQtr s k := rfl
@[simp] theorem getQtr_modPort (n : Nat) (g : Port → Port) (k : Nat) : getQtr (modPort n g s) k = getQtr s k := rfl
@[simp] theorem getQtr_modMem (g : MemUnit → MemUnit) (k : Nat) : getQtr (modMem g s) k = getQtr s k := rfl
@[simp] theorem getQtr_modFlt (g : Flt → Flt) (k : Nat) : getQtr (modFlt g s) k = getQtr s k := rfl
@[simp] theorem getQtr_modEvc (g : Evc → Evc) (k : Nat) : getQtr (modEvc g s) k = getQtr s k := rfl
@[simp] theorem getQtr_modPwr (g : Pwr → Pwr) (k : Nat) : getQtr (modPwr g s) k = getQtr s k := rfl
@[simp] theorem getQtr_modFab (g : Fab → Fab) (k : Nat) : getQtr (modFab g s) k = getQtr s k := rfl
@[simp] theorem getQtr_modBoot (g : Boot → Boot) (k : Nat) : getQtr (modBoot g s) k = getQtr s k := rfl
@[simp] theorem getQtr_modOut (g : Out → Out) (k : Nat) : getQtr (modOut g s) k = getQtr s k := rfl
@[simp] theorem getQtr_modMgmt (g : Mgmt → Mgmt) (k : Nat) : getQtr (modMgmt g s) k = getQtr s k := rfl

@[simp] theorem getDie_modDie_self (n : Nat) (g : Die → Die) : getDie (modDie n g s) n = g (getDie s n) := by simp [getDie, modDie]
theorem getDie_modDie_ne {n k : Nat} (g : Die → Die) (h : k ≠ n) : getDie (modDie n g s) k = getDie s k := by
  simpa [getDie, modDie] using tget_tmod_ne _ g _ h
theorem getDie_modDie (n k : Nat) (g : Die → Die) : getDie (modDie n g s) k = if k = n then g (getDie s n) else getDie s k := by
  simpa [getDie, modDie] using tget_tmod _ n k g _
@[simp] theorem getDie_modFn (f : Nat) (g : Fn → Fn) (k : Nat) : getDie (modFn f g s) k = getDie s k := rfl
@[simp] theorem getDie_modPtn (p : Nat) (g : Ptn → Ptn) (k : Nat) : getDie (modPtn p g s) k = getDie s k := rfl
@[simp] theorem getDie_modCtx (c : Nat) (g : Ctx → Ctx) (k : Nat) : getDie (modCtx c g s) k = getDie s k := rfl
@[simp] theorem getDie_modRing (r : Nat) (g : Ring → Ring) (k : Nat) : getDie (modRing r g s) k = getDie s k := rfl
@[simp] theorem getDie_modQtr (q : Nat) (g : Qtr → Qtr) (k : Nat) : getDie (modQtr q g s) k = getDie s k := rfl
@[simp] theorem getDie_modAdapter (a : Nat) (g : Adapter → Adapter) (k : Nat) : getDie (modAdapter a g s) k = getDie s k := rfl
@[simp] theorem getDie_modSteer (a : Nat) (g : Steer → Steer) (k : Nat) : getDie (modSteer a g s) k = getDie s k := rfl
@[simp] theorem getDie_modPort (n : Nat) (g : Port → Port) (k : Nat) : getDie (modPort n g s) k = getDie s k := rfl
@[simp] theorem getDie_modMem (g : MemUnit → MemUnit) (k : Nat) : getDie (modMem g s) k = getDie s k := rfl
@[simp] theorem getDie_modFlt (g : Flt → Flt) (k : Nat) : getDie (modFlt g s) k = getDie s k := rfl
@[simp] theorem getDie_modEvc (g : Evc → Evc) (k : Nat) : getDie (modEvc g s) k = getDie s k := rfl
@[simp] theorem getDie_modPwr (g : Pwr → Pwr) (k : Nat) : getDie (modPwr g s) k = getDie s k := rfl
@[simp] theorem getDie_modFab (g : Fab → Fab) (k : Nat) : getDie (modFab g s) k = getDie s k := rfl
@[simp] theorem getDie_modBoot (g : Boot → Boot) (k : Nat) : getDie (modBoot g s) k = getDie s k := rfl
@[simp] theorem getDie_modOut (g : Out → Out) (k : Nat) : getDie (modOut g s) k = getDie s k := rfl
@[simp] theorem getDie_modMgmt (g : Mgmt → Mgmt) (k : Nat) : getDie (modMgmt g s) k = getDie s k := rfl

@[simp] theorem getAdapter_modAdapter_self (n : Nat) (g : Adapter → Adapter) : getAdapter (modAdapter n g s) n = g (getAdapter s n) := by simp [getAdapter, modAdapter]
theorem getAdapter_modAdapter_ne {n k : Nat} (g : Adapter → Adapter) (h : k ≠ n) : getAdapter (modAdapter n g s) k = getAdapter s k := by
  simpa [getAdapter, modAdapter] using tget_tmod_ne _ g _ h
theorem getAdapter_modAdapter (n k : Nat) (g : Adapter → Adapter) : getAdapter (modAdapter n g s) k = if k = n then g (getAdapter s n) else getAdapter s k := by
  simpa [getAdapter, modAdapter] using tget_tmod _ n k g _
@[simp] theorem getAdapter_modFn (f : Nat) (g : Fn → Fn) (k : Nat) : getAdapter (modFn f g s) k = getAdapter s k := rfl
@[simp] theorem getAdapter_modPtn (p : Nat) (g : Ptn → Ptn) (k : Nat) : getAdapter (modPtn p g s) k = getAdapter s k := rfl
@[simp] theorem getAdapter_modCtx (c : Nat) (g : Ctx → Ctx) (k : Nat) : getAdapter (modCtx c g s) k = getAdapter s k := rfl
@[simp] theorem getAdapter_modRing (r : Nat) (g : Ring → Ring) (k : Nat) : getAdapter (modRing r g s) k = getAdapter s k := rfl
@[simp] theorem getAdapter_modQtr (q : Nat) (g : Qtr → Qtr) (k : Nat) : getAdapter (modQtr q g s) k = getAdapter s k := rfl
@[simp] theorem getAdapter_modDie (d : Nat) (g : Die → Die) (k : Nat) : getAdapter (modDie d g s) k = getAdapter s k := rfl
@[simp] theorem getAdapter_modSteer (a : Nat) (g : Steer → Steer) (k : Nat) : getAdapter (modSteer a g s) k = getAdapter s k := rfl
@[simp] theorem getAdapter_modPort (n : Nat) (g : Port → Port) (k : Nat) : getAdapter (modPort n g s) k = getAdapter s k := rfl
@[simp] theorem getAdapter_modMem (g : MemUnit → MemUnit) (k : Nat) : getAdapter (modMem g s) k = getAdapter s k := rfl
@[simp] theorem getAdapter_modFlt (g : Flt → Flt) (k : Nat) : getAdapter (modFlt g s) k = getAdapter s k := rfl
@[simp] theorem getAdapter_modEvc (g : Evc → Evc) (k : Nat) : getAdapter (modEvc g s) k = getAdapter s k := rfl
@[simp] theorem getAdapter_modPwr (g : Pwr → Pwr) (k : Nat) : getAdapter (modPwr g s) k = getAdapter s k := rfl
@[simp] theorem getAdapter_modFab (g : Fab → Fab) (k : Nat) : getAdapter (modFab g s) k = getAdapter s k := rfl
@[simp] theorem getAdapter_modBoot (g : Boot → Boot) (k : Nat) : getAdapter (modBoot g s) k = getAdapter s k := rfl
@[simp] theorem getAdapter_modOut (g : Out → Out) (k : Nat) : getAdapter (modOut g s) k = getAdapter s k := rfl
@[simp] theorem getAdapter_modMgmt (g : Mgmt → Mgmt) (k : Nat) : getAdapter (modMgmt g s) k = getAdapter s k := rfl

@[simp] theorem getSteer_modSteer_self (n : Nat) (g : Steer → Steer) : getSteer (modSteer n g s) n = g (getSteer s n) := by simp [getSteer, modSteer]
theorem getSteer_modSteer_ne {n k : Nat} (g : Steer → Steer) (h : k ≠ n) : getSteer (modSteer n g s) k = getSteer s k := by
  simpa [getSteer, modSteer] using tget_tmod_ne _ g _ h
theorem getSteer_modSteer (n k : Nat) (g : Steer → Steer) : getSteer (modSteer n g s) k = if k = n then g (getSteer s n) else getSteer s k := by
  simpa [getSteer, modSteer] using tget_tmod _ n k g _
@[simp] theorem getSteer_modFn (f : Nat) (g : Fn → Fn) (k : Nat) : getSteer (modFn f g s) k = getSteer s k := rfl
@[simp] theorem getSteer_modPtn (p : Nat) (g : Ptn → Ptn) (k : Nat) : getSteer (modPtn p g s) k = getSteer s k := rfl
@[simp] theorem getSteer_modCtx (c : Nat) (g : Ctx → Ctx) (k : Nat) : getSteer (modCtx c g s) k = getSteer s k := rfl
@[simp] theorem getSteer_modRing (r : Nat) (g : Ring → Ring) (k : Nat) : getSteer (modRing r g s) k = getSteer s k := rfl
@[simp] theorem getSteer_modQtr (q : Nat) (g : Qtr → Qtr) (k : Nat) : getSteer (modQtr q g s) k = getSteer s k := rfl
@[simp] theorem getSteer_modDie (d : Nat) (g : Die → Die) (k : Nat) : getSteer (modDie d g s) k = getSteer s k := rfl
@[simp] theorem getSteer_modAdapter (a : Nat) (g : Adapter → Adapter) (k : Nat) : getSteer (modAdapter a g s) k = getSteer s k := rfl
@[simp] theorem getSteer_modPort (n : Nat) (g : Port → Port) (k : Nat) : getSteer (modPort n g s) k = getSteer s k := rfl
@[simp] theorem getSteer_modMem (g : MemUnit → MemUnit) (k : Nat) : getSteer (modMem g s) k = getSteer s k := rfl
@[simp] theorem getSteer_modFlt (g : Flt → Flt) (k : Nat) : getSteer (modFlt g s) k = getSteer s k := rfl
@[simp] theorem getSteer_modEvc (g : Evc → Evc) (k : Nat) : getSteer (modEvc g s) k = getSteer s k := rfl
@[simp] theorem getSteer_modPwr (g : Pwr → Pwr) (k : Nat) : getSteer (modPwr g s) k = getSteer s k := rfl
@[simp] theorem getSteer_modFab (g : Fab → Fab) (k : Nat) : getSteer (modFab g s) k = getSteer s k := rfl
@[simp] theorem getSteer_modBoot (g : Boot → Boot) (k : Nat) : getSteer (modBoot g s) k = getSteer s k := rfl
@[simp] theorem getSteer_modOut (g : Out → Out) (k : Nat) : getSteer (modOut g s) k = getSteer s k := rfl
@[simp] theorem getSteer_modMgmt (g : Mgmt → Mgmt) (k : Nat) : getSteer (modMgmt g s) k = getSteer s k := rfl

@[simp] theorem getPort_modPort_self (n : Nat) (g : Port → Port) : getPort (modPort n g s) n = g (getPort s n) := by simp [getPort, modPort]
theorem getPort_modPort_ne {n k : Nat} (g : Port → Port) (h : k ≠ n) : getPort (modPort n g s) k = getPort s k := by
  simpa [getPort, modPort] using tget_tmod_ne _ g _ h

end Sys2Proof.Machine
end

