-- ==== Sys2Proof/Laws/Signals.lean ====
section
/-! SUPPORT. What a signal can do, said once: a pulse sets its pending bit and moves nothing but host vectors, message counts,
messages and pending-bit arrays; a recorded fault is in the logs and signals its source. -/
namespace Sys2Proof.Safety
open Sys2Proof.Machine

theorem Signalled.refl (s : State) : Signalled [] s s := ⟨rfl, fun m => by simp, fun _ => rfl⟩

theorem Signalled.trans {ns ms : List Nat} {s t u : State} (h : Signalled ns s t) (k : Signalled ms t u) : Signalled (ns ++ ms) s u := by
  obtain ⟨h1, h2, h3⟩ := h
  obtain ⟨k1, k2, k3⟩ := k
  refine ⟨?_, fun m => by rw [k2, h2, List.contains_append, Bool.or_assoc], fun f => by rw [k3, h3]⟩
  rw [k1, h1]

/-- The event controller may change its pending bits, target counts and vectors, and nothing else of it or of the functions but the
pending-bit array. -/
theorem signalled_modFn_pba (f : Nat) (g : NSet → NSet) (s : State) : Signalled [] s (modFn f (fun x => { x with pba := g x.pba }) s) := by
  refine ⟨rfl, fun m => by simp [isPending], fun k => ?_⟩
  rw [getFn_modFn]
  split
  · rename_i h; subst h; rfl
  · rfl

theorem signalled_modTgts (t : Nat) (g : Tgt → Tgt) (s : State) : Signalled [] s (modTgt t g s) := ⟨rfl, fun m => by simp [isPending, modTgt], fun _ => rfl⟩

theorem signalled_modHVec (e : Nat) (g : HVec → HVec) (s : State) : Signalled [] s (modHVec e g s) := ⟨rfl, fun m => by simp [isPending, modHVec], fun _ => rfl⟩

theorem signalled_vecRange (s : State) : Signalled [] s (modEvc (fun e => { e with vecRange := true }) s) := ⟨rfl, fun m => by simp [isPending], fun _ => rfl⟩

theorem signalled_countTgt (t : Nat) (s : State) : Signalled [] s (countTgt t s) := signalled_modTgts t _ s

theorem signalled_msix (m : MsixMsg) (s : State) : Signalled [] s (modOut (fun o => { o with msix := m :: o.msix }) s) := ⟨rfl, fun m => by simp [isPending], fun _ => rfl⟩

theorem sendMsix_signalled (f i : Nat) (s : State) : Signalled [] s (sendMsix f i s) := by
  simp only [sendMsix]
  split
  · exact (signalled_msix _ s).trans (signalled_countTgt 10 _)
  · exact signalled_modFn_pba f (nadd i) s

theorem vecMessage_signalled (f i : Nat) (s : State) : Signalled [] s (vecMessage f i s) :=
  (signalled_modHVec _ _ s).trans (sendMsix_signalled f i _)

theorem signalHost_signalled (f i : Nat) (b : Bool) (src : Option Nat) (s : State) : Signalled [] s (signalHost f i b src s) := by
  simp only [signalHost]
  split
  · exact signalled_vecRange s
  · split
    · exact vecMessage_signalled f i s
    · exact signalled_modHVec _ _ s

theorem deliver_signalled (n : Nat) (s : State) : Signalled [] s (deliver n s) := by
  simp only [deliver]
  split
  · exact signalHost_signalled _ _ _ _ s
  · exact Signalled.refl s

theorem countAlert_signalled {ns : List Nat} {s t : State} (b : State) (h : Signalled ns s t) : Signalled ns s (countAlert b t) := by
  simp only [countAlert]
  split
  · simpa using h.trans (signalled_countTgt 11 t)
  · exact h

/-- A pulse of a listed source sets its pending bit; nothing but signals follows (12 R363, R364). -/
theorem pulse_signalled (n : Nat) (s : State) (h : isListed n = true) : Signalled [n] s (pulse n s) := by
  simp only [pulse, setPend, h, Bool.true_and]
  cases hp : isPending s n with
  | true =>
    refine ⟨rfl, fun m => ?_, fun _ => rfl⟩
    by_cases hm : m = n
    · subst hm; simp [hp]
    · simp [hm]
  | false =>
    have h1 : Signalled [n] s (modEvc (fun e => { e with pend := nadd n e.pend }) s) := by
      refine ⟨rfl, fun m => ?_, fun _ => rfl⟩
      simp only [isPending, modEvc_self, nhas_nadd]
      by_cases hm : m = n
      · subst hm; simp
      · have : ¬ n = m := fun e => hm e.symm
        simp [hm, this]
    simp only [Bool.not_false, if_true]
    refine countAlert_signalled s ?_
    split
    · simpa using h1.trans (deliver_signalled n _)
    · exact h1

/-- A recorded fault is in the logs and its source is pending; nothing but signals follows (11 R329). -/
theorem recordFault_signalled (r : FaultRec) (s : State) (hp : ∀ p, r.ptn = some p → p < 32) :
    Signalled [faultSource r] (logged r s) (recordFault r s) := by
  simp only [recordFault, logged, faultSource]
  cases hr : r.ptn with
  | none => exact pulse_signalled srcModuleFault _ rfl
  | some p =>
    simp only
    by_cases hc : r.code = 0x0506
    · simp only [hc, beq_self_eq_true, if_true]; exact pulse_signalled _ _ (by decide)
    · simp only [beq_iff_eq, hc, if_false]
      refine pulse_signalled _ _ ?_
      have hlt := hp p hr
      have e : srcPtn p 1 = 256 + 32 * p + 1 := rfl
      simp only [isListed, e, Bool.or_eq_true, Bool.and_eq_true, decide_eq_true_eq]
      left; right; omega

/-- Nothing that a signal moves is read by the units: partitions, contexts, rings, quarters and dies are as before. -/
theorem Signalled.units {ns : List Nat} {s t : State} (h : Signalled ns s t) :
    t.ptns = s.ptns ∧ t.ctxs = s.ctxs ∧ t.rings = s.rings ∧ t.qtrs = s.qtrs ∧ t.dies = s.dies ∧ t.mem = s.mem ∧ t.fab = s.fab ∧ t.flt = s.flt ∧
    t.boot = s.boot ∧ t.fuses = s.fuses ∧ t.pwr = s.pwr ∧ t.pending = s.pending ∧ t.time = s.time := by
  rw [h.1]
  exact ⟨rfl, rfl, rfl, rfl, rfl, rfl, rfl, rfl, rfl, rfl, rfl, rfl, rfl⟩

end Sys2Proof.Safety
end

