-- ==== Sys2Proof/WellFormed.lean ====
section
/-! DEFINITION. What a well-formed command is: every operand lies within what its row can bring. `exec` gives every
command a meaning, well formed or not; missing words and bytes of an ill-formed operand read as 0. -/
namespace Sys2Proof

/-- A 64 B ring entry has 23 reserved header bits and 14 operand words (08 R244). -/
def Entry.wf (e : Entry) : Bool := decide (e.hdr < 2 ^ 23) && e.ops.length == 14

/-- A row tag's fields fit their side-band widths (09 R271). -/
def RowTag.wf (t : RowTag) : Bool := decide (t.row < 4096) && decide (t.pass ≤ 8) && decide (t.pos ≤ 8)

/-- A stream flit is 64 B with a 16-bit epoch and a 12-bit context tag (02 R68, 04 R138). -/
def Flit.wf (f : Flit) : Bool := f.data.length == 64 && decide (f.epoch < 2 ^ 16) && decide (f.ctx < 4096) && f.tag.wf

/-- Arrival places exist (01 R21). -/
def FlitPort.wf : FlitPort → Bool
  | .core c st i => decide (c < 81920) && decide (st < 8) && decide (i < 2)
  | .partner set => decide (set < 640)
  | .attention set st k => decide (set < 640) && decide (st < 8) && decide (k < 2)
  | .sampler _ c st => decide (c < 81920) && decide (st < 8)

/-- An expert-dispatch unit's fields fit (10 R324). -/
def XUnit.wf (u : XUnit) : Bool :=
  decide (u.src < 2 ^ 16) && decide (u.exch < 16) && decide (u.epoch < 2 ^ 16) && decide (u.generation < 2 ^ 16) &&
  decide (u.batch < 64) && decide (u.srcPtn < 32) && decide (u.dstPtn < 32) && decide (u.row < 4096)

/-- Key material of 256 bits, and slots 0-4 (14 R409, R411). -/
def KeyMsg.wf (m : KeyMsg) : Bool :=
  decide (m.slot ≤ 4) && decide (m.signer ≤ 4) && decide (m.keyX < 2 ^ 256) && decide (m.keyY < 2 ^ 256) && decide (m.nonce < 2 ^ 128)

/-- Opcodes of 08 R245; every other opcode is reserved. -/
def knownOpcodes : List Nat :=
  [0x00, 0x01, 0x10, 0x11, 0x12, 0x13, 0x14, 0x15, 0x16, 0x18, 0x20, 0x21, 0x22, 0x23, 0x28, 0x29, 0x30, 0x31, 0x32,
   0x33, 0x40, 0x41, 0x42, 0x43, 0x44, 0x45, 0x46, 0x50, 0x51]

/-- The operands lie in range. -/
def Instr.wf : Instr → Bool
  | .registerWrite _ off size _ => decide (off < 2 ^ 26) && (size == 1 || size == 2 || size == 4 || size == 8)
  | .rcRead _ a size =>
    (match a.bar with | .registers => decide (a.off < 2 ^ 26) | .doorbells => decide (a.off < 2 ^ 18)) && (size == 1 || size == 2 || size == 4 || size == 8)
  | .doorbellWrite _ a _ => decide (a.off < 2 ^ 18) && (a.size == 1 || a.size == 2 || a.size == 4 || a.size == 8)
  | .repairDone found => found.all fun t => decide (t.set < 640) && t.cores.all (fun c => decide (c < 132)) && t.lanes.all fun l => decide (l.1 < 1056) && decide (l.2 ≤ 33)
  | .streamFlit _ port f => port.wf && f.wf
  | .bar4Read _ a n => decide (a + n ≤ 2 ^ 42)
  | .bar4Write _ a d _ => decide (a + d.length ≤ 2 ^ 42)
  | .reservedOpcode e op => e.wf && (!knownOpcodes.contains op.toNat || decide (e.hdr ≠ 0))
  | .adapterSet e | .adapterClear e | .steerSet e | .steerClear e | .recompute e | .kvRelease e | .objSet e | .objClear e
  | .objQuery e | .migrate e | .evict e | .intake e | .verify e | .nop e | .fence e | .figInstall e | .figRemove e
  | .figLoad e | .figStart e | .figDrain e | .figSwitch e | .figRun e | .routeSet e | .batchOpen e | .batchRun e
  | .rowSet e | .batchClose e | .maskSet e | .maskClear e => e.wf && e.hdr == 0
  | .frameReceive _ b => b.length == 544
  | .score u | .end_ u | .grant u | .grantEnd u | .act u | .answer u | .cancel u | .void u => u.wf
  | .sensorSample _ t => decide (t < 2 ^ 12)
  | .railFault r _ => decide (r < 74)
  | .keyProvision _ m | .keyRevoke _ m | .vendorDisable _ m => m.wf
  | .getMeasurements _ is => is.all fun i => decide (i < 2 ^ 8)
  | .modTimeLoRead .. | .figRoundsLoRead .. | .ctxRunLoRead .. | .aonPowerUp .. | .bootVerify | .powerUp | .powerUpComplete
  | .trainingDone .. | .initDone | .hardRstN | .pwrEnDeasserted | .coolantLost | .flashWriteDone | .install .. | .installDone ..
  | .remove .. | .load .. | .loadDone .. | .start .. | .drain .. | .switch .. | .drainComplete .. | .drainTimeout ..
  | .partitionRoundBoundary .. | .figCommit .. | .attCommit .. | .ctxCommit .. | .ringCommit .. | .joinImbalance ..
  | .partitionBarrier .. | .planBind .. | .planUnbind .. | .planBindDone .. | .mapBind .. | .mapUnbind .. | .mapBindDone ..
  | .gatherDone .. | .fetchDeadline .. | .recomputeChunkDone .. | .objClearDone .. | .migratePageDone .. | .intakeShardDone ..
  | .verifyShardDone .. | .scrubPassStart | .scrubShardDone .. | .recheckShardDone .. | .eccError .. | .quotaWrite ..
  | .poolWrite .. | .reserveWrite .. | .create .. | .grow .. | .shrink .. | .destroy .. | .bindVf .. | .unbindVf ..
  | .modPtnDone | .enable .. | .disable .. | .reset .. | .contextResetDone .. | .completionWrite ..
  | .sliceEnd .. | .preemptStop .. | .saveDone .. | .switchGapEnd .. | .restoreDone .. | .cmdTimeout .. | .ringDma ..
  | .batchStepBoundary .. | .pendingRecordWrite .. | .portEnable .. | .retrain .. | .signalDetect .. | .equaliseDone ..
  | .equaliseTimeout .. | .alignDone .. | .alignTimeout .. | .exchangeDone .. | .signalLoss .. | .retrainDone ..
  | .retrainTimeout .. | .replayTimeout .. | .leavingPacket .. | .lostNotice .. | .returnNotice .. | .channelPacket ..
  | .channelCredit .. | .exchangeStep .. | .evcPendSet .. | .evcPendClr .. | .evcMaskSet .. | .evcMaskClr .. | .evcSrcCfg ..
  | .evcSrcDest .. | .evcVfVectors .. | .filterExpiry .. | .eventDelivery .. | .wfiWake .. | .handlerReturn ..
  | .moderationGapEnd .. | .holdIntervalEnd .. | .setCap .. | .budgetRecompute .. | .clampStart .. | .clampEnd .. | .brake
  | .brakeRelease | .brakeReturn | .thermalRowLeave .. | .neighbourStep .. | .neighbourStepLift .. | .thermalTrip ..
  | .coolantSample .. | .coolantLift | .breakerOpen .. | .pllUnlock .. | .pllLost .. | .moduleReset .. | .moduleResetDone
  | .snapshot .. | .snapRelease .. | .engineReset .. | .engineResetDone .. | .partitionReset .. | .partitionResetDone ..
  | .policyWrite .. | .resetTimeout .. | .dieWatchdog .. | .callerWdogWarn | .callerRestart .. | .qsSample .. | .mirrorStart ..
  | .mirrorDone .. | .mirrorTimeout .. | .presenceLost | .getTelemetry .. | .getLog .. | .getSnapshot .. | .mctpSnapRelease ..
  | .fwTransfer .. | .fwCommit .. | .getNonce .. | .setCoord .. | .spdmRequest .. | .setEndpointId .. | .setdasa ..
  | .entdaa .. | .rstdaa | .fwInfo | .repairMap | .flr .. | .linkLoss .. | .linkUp | .busMasterEnable .. | .configurationWrite ..
  | .pllRelock .. | .alwaysOnLoss | .voltageReached .. | .coreMemUe .. | .engineError .. => true

end Sys2Proof
end

