-- ==== Sys2Proof/Tests/Slice0.lean ====
section
/-! SUPPORT. The model's own tests: the checks of WellFormed refuse what they should, and for every clause of every statement
a state and operands that meet its hypotheses together. -/
-- The witnesses are evaluated one after another: many at once take too much memory.
set_option Elab.async false

namespace Sys2Proof.Tests
open Sys2Proof Sys2Proof.Machine Sys2Proof.Safety Sys2Proof.Laws


/-! ### Reads of zeros -/

/-- A list is `n` zero bytes. -/
def isZeros : List Byte → Nat → Bool
  | [], 0 => true
  | b :: bs, n + 1 => b == 0 && isZeros bs n
  | _, _ => false

theorem isZeros_eq : ∀ (l : List Byte) (n : Nat), isZeros l n = true → l = List.replicate n 0
  | [], 0, _ => rfl
  | b :: bs, n + 1, h => by
    simp only [isZeros, Bool.and_eq_true, beq_iff_eq] at h
    rw [h.1, isZeros_eq bs n h.2, List.replicate_succ]
  | [], _ + 1, h => by simp [isZeros] at h
  | _ :: _, 0, h => by simp [isZeros] at h

/-- A descriptor read answers `n` zero bytes. -/
def readsZeros (x : Except Nat (List Byte)) (n : Nat) : Bool := match x with | .ok b => isZeros b n | .error _ => false

theorem readsZeros_eq {x : Except Nat (List Byte)} {n : Nat} (h : readsZeros x n = true) : x = .ok (List.replicate n 0) := by
  cases x with
  | ok b => rw [isZeros_eq b n h]
  | error e => cases h

/-- What a read answered, and that it did. -/
def okBytes : Except Nat (List Byte) → List Byte
  | .ok bs => bs
  | .error _ => []

theorem okBytes_eq {x : Except Nat (List Byte)} (h : x.isOk = true) : x = .ok (okBytes x) := by
  cases x with
  | ok bs => rfl
  | error e => cases h

theorem slice_zeros (n o k : Nat) : slice (List.replicate n 0) o k = List.replicate k 0 := by
  simp [slice]

theorem zeroPorts : (List.map decPort (pieces 16 512 (List.replicate 8192 0))).any portBad = false := by
  simp only [pieces, slice_zeros, List.map_map, List.any_map]
  rw [List.any_eq_false]
  intro k _
  show ¬ portBad (decPort (List.replicate 16 0)) = true
  decide


theorem triple_eq {α β γ : Type} {x : α × β × γ} {a : α} {b : β} (h : x.1 = a) (k : x.2.1 = b) : x = (a, b, x.2.2) := by
  subst h; subst k; rfl

/-! ### Hypotheses that speak of every number, tested on the tables' entries -/

/-- A property of every key of a table is one of its entries and of the value that an absent key reads. -/
theorem tget_forall {α : Type} (d : α) (P : α → Prop) (hd : P d) : ∀ t : Tbl α, (∀ n, P (tget d t n)) ↔ ∀ e ∈ t, P (tget d t e.1) := by
  intro t
  refine ⟨fun h e _ => h e.1, fun h n => ?_⟩
  by_cases hn : ∃ e ∈ t, e.1 = n
  · obtain ⟨e, he, rfl⟩ := hn; exact h e he
  · have : tget d t n = d := by
      clear h
      induction t with
      | nil => rfl
      | cons e rest ih =>
        have h1 : e.1 ≠ n := fun q => hn ⟨e, by simp, q⟩
        have h2 : tget d rest n = d := ih fun ⟨x, hx, q⟩ => hn ⟨x, by simp [hx], q⟩
        show (if e.1 = n then e.2 else tget d rest n) = d
        rw [if_neg h1, h2]
    rw [this]; exact hd

/-- A partition that is in no mirror run. -/
def noMirror (x : Ptn) : Bool := match x.reset with | some (_, 2) => false | _ => true

theorem mirrorFree_iff (s : State) : MirrorFree s ↔ ∀ e ∈ s.ptns, noMirror (getPtn s e.1) = true := by
  refine Iff.trans ?_ (tget_forall {} (fun x : Ptn => noMirror x = true) rfl s.ptns)
  refine forall_congr' fun p => ?_
  show (∀ c, (tget {} s.ptns p).reset ≠ some (c, 2)) ↔ noMirror (tget {} s.ptns p) = true
  generalize tget {} s.ptns p = x
  unfold noMirror
  split
  · rename_i c h; simp [h]
  · rename_i h; simp only [iff_true]; exact fun c q => h c q

theorem quietLinks_iff (s : State) :
    QuietLinks s ↔ s.fab.wait = [] ∧ s.fab.here = [] ∧ ∀ e ∈ s.fab.ports, (getPort s e.1).txq = [] ∧ (getPort s e.1).rxq = [] :=
  and_congr Iff.rfl (and_congr Iff.rfl (tget_forall ({} : Port) (fun x => x.txq = [] ∧ x.rxq = []) (by simp) s.fab.ports))

theorem idleLinks_iff (s : State) :
    IdleLinks s ↔ QuietLinks s ∧ (∀ m, m < 18 → owesFrame (getPort s m) = false) ∧ ∀ e ∈ s.fab.chans, (getChan s e.1).txq = [] :=
  and_congr Iff.rfl (and_congr Iff.rfl (tget_forall ({} : Chan) (fun x => x.txq = []) rfl s.fab.chans))

/-! ### Small states for the witnesses -/

def ringT : Ring := { cur := { type := 2, enable := true, size := 6, ctx := 0, base := 0x30000, wb := 0x910 }, ptn := 0, assigned := true }
def ringC : Ring := { cur := { type := 0, enable := true, size := 6, ctx := 0, base := 0x10000, wb := 0x900, comp := 1 }, tail := 1, ptn := 0, assigned := true }
def fn0 : Fn := { bme := true, msixEnable := true, memSpace := true }
def ringK : Ring := { cur := { type := 1, enable := true, size := 6, base := 0x20000, wb := 0x908 }, ptn := 0, assigned := true }
def ptn0 : Ptn := { exists_ := true, qtrs := 3, vf := 1, mem := { t1Quota := 100, t2Quota := 100 } }
def ptn1 : Ptn := { exists_ := true, qtrs := 4 }
def b : State :=
  { time := 1000000, linkUp := true, vfEnable := true, fns := [(0, fn0), (1, fn0)]
    boot := { aon := true, stage := .ready }, mgmt := { eid := some 8 }
    qtrs := (List.range 3).map fun q => (q, { railOn := true, mv := 650, mvTarget := 650 })
    dies := (List.range 8).map fun d => (d, { pll := true })
    ptns := [(0, ptn0), (1, ptn1)]
    ctxs := [(0, { st := .enabled, ptn := 0, cur := { figOps := true } })]
    rings := [(0, ringC), (1, ringK), (2, ringT)]
    pwr := { railsOn := true }
    qtrAvail := 0xFFFFFFFF }
def off : State := {}
def rn : Running := { ring := 0, idx := 0, ctx := 0, opcode := 0x16, target := 2, ports := [], round := 0, base := 0, done := 0, batch := 0, chunk := none }
def bp (p : Nat) (g : Ptn → Ptn) (s : State := b) : State := modPtn p g s
def evt : Tbl Tgt := [(1, { base := 2, mie := true, sleeping := true, gap := 50 }), (2, { mie := false, sleeping := true }), (3, { levels := [2, 1], gap := 5 }), (4, { inGap := true })]
def evs : Tbl SrcCfg := [(0x001, { target := 1, prio := 3, index := 2 }), (0x004, { target := 11, edge := true, filter := 10 }), (0x013, { target := 10, index := 1 }), (0x040, { target := 1, prio := 3, index := 7 }), (0x105, { target := 11 })]
def evb : State := { b with evc := { pend := [0x001, 0x040, 0x105], unmasked := [0x001, 0x013, 0x040, 0x105], filt := [0x004], src := evs, tgts := evt, hvec := [(0, { interval := 10, held := true, running := true }), (1, { interval := 10, running := true }), (2, { interval := 5, held := true, running := true }) ] } }
def evx (g : Evc → Evc) : State := { evb with evc := g evb.evc }
def cmdq (a : Nat) (s : State := b) : State := { s with ptnCmd := { arg := a } }
def run0 : State := bp 0 fun x => { x with fig := { x.fig with st := .running } }
def bc (g : Ctx → Ctx) (s : State := b) : State := modCtx 0 g s
def pm0 : PMem := { t1Quota := 100, t2Quota := 100, objs := [(5, { st := .valid, home := 1, base := 0, pages := 2 }), (6, { st := .valid, home := 1, base := 0x100000, pages := 1, readOnly := true }), (7, { st := .valid, home := 0, base := 0x200000, pages := 3})], pages := [(pageKey 5 0, { zero := false, t1 := some 3 }), (pageKey 5 1, {zero := false, t1 := some 4}), (pageKey 6 0, { zero := false, t1 := some 5 }), (pageKey 7 0, { zero := false, t0 := some 9 }), (pageKey 7 1, { zero := false, t0 := some 10 }), (pageKey 7 2, { zero := false, t0 := some 11 })] }
def mb (g : PMem → PMem := id) (s : State := b) : State := { (bp 0 (fun x => { x with mem := g pm0 }) s) with mem := { used0 := [9,10,11], used1 := [3,4,5], t1 := [(3*65536+1, 7), (3*65536+2, 8)], bad1 := [3*1024+1] } }
def rs (g : Ring → Ring) (s : State := b) : State := modRing 0 g s
def e0 : Entry := { ring := 0, hdr := 0, notify := false, tag := 7, ops := List.replicate 14 0 }
def cm (op : Nat) (g : Cmd → Cmd := id) : Cmd := g { ring := 0, idx := 0, ctx := 0, ptn := 0, opcode := op, tag := 9, notify := false, ops := List.replicate 14 0 }
def ow (l : List (Nat × Nat)) : List Word := (List.range 14).map fun k => BitVec.ofNat 32 (((l.find? fun e => e.1 == k + 2).map (·.2)).getD 0)
def en (l : List (Nat × Nat)) : Entry := { ring := 0, hdr := 0, notify := false, tag := 7, ops := ow l }
def sh0 : Shard := { first := 0, pages := 1, digest := sha256 (List.replicate 8 0), st := .pending }
def pm0_1 : PMem := { t1Quota := 100, t2Quota := 100, objs := [(5, { st := .valid, home := 1, base := 0, pages := 2 }), (6, { st := .valid, home := 1, base := 0x100000, pages := 1, readOnly := true }), (7, { st := .valid, home := 0, base := 0x200000, pages := 3}), (8, { st := .valid, home := 1, base := 0x300000, pages := 1, manifest := 0x100000, shards := [sh0] })], pages := [(pageKey 5 0, { zero := false, t1 := some 3 }), (pageKey 5 1, {zero := false, t1 := some 4, t2 := some 7}), (pageKey 6 0, { zero := false, t1 := some 5 }), (pageKey 7 0, { zero := false, t0 := some 9 }), (pageKey 7 1, { zero := false, t0 := some 10 }), (pageKey 7 2, { zero := false, t0 := some 11 }), (pageKey 8 0, { zero := false, t1 := some 6 })] }
def mb_1 (g : PMem → PMem := id) (s : State := b) : State := { (bp 0 (fun x => { x with mem := g pm0_1 }) s) with mem := { used0 := [9,10,11], used1 := [3,4,5,6], used2 := [7], t1 := [(3*65536+1, 7), (3*65536+2, 8)], bad1 := [3*1024+1] } }
def obm (o : Nat) (g : Obj → Obj) (s : State := mb_1) : State := bp 0 (fun x => { x with mem := { x.mem with objs := tmod {} o g x.mem.objs } }) s
def mi (o u : Nat) : MoverItem := ⟨0,0,0,0,o,u,false⟩
def cmd (op : Nat) (l : List (Nat × Nat)) (g : Cmd → Cmd := id) : Cmd := g { ring := 0, idx := 0, ctx := 0, ptn := 0, opcode := op, tag := 9, notify := false, ops := ow l }
def mg7 : Cmd := cmd 0x43 [(2,7),(3,0),(4,1),(5,1)] fun c => { c with phase := .running, todo := [0] }
def started (c : Cmd) (s : State := mb_1) : State := rs (fun x => { x with started := [c], head := 1, tail := 4 }) s
def mq (d : Nat) (is : List MoverItem) (s : State := mb_1) : State := modDie d (fun x => { x with moverQ := is }) s
def ink : Cmd := cmd 0x45 [(2,8),(3,0),(4,1),(6,0x1000)] fun c => { c with phase := .running, todo := [0] }
def vfy : Cmd := cmd 0x46 [(2,8)] fun c => { c with phase := .running, todo := [0] }
def pt1 : Pattern := { space := 1, bufLines := 4, counts := [1], strides := [0] }
def st1 : Step := { runLen := 4, patA := 0, patOut := 0xFFFF, layerEnd := true }
def fg : Figure := { dir := [(1,0)], steps := [st1], patterns := [pt1], roundLen := 4, tickets := [[100,80,60,40], [100,80,60,40]], quarters := 2, width := 2 }
def fig (g : Fig → Fig) (s : State := mb_1) : State := bp 0 (fun x => { x with fig := g x.fig }) s
def slots1 : Tbl Slot := [(1, { st := .valid, addr := 0, size := 64, fig := some fg }), (2, {st := .invalid, err := 3})]
def slt : State := fig (fun x => { x with slots := slots1 })
def fg_1 : Figure := { dir := [(1,0)], steps := [st1], patterns := [pt1], roundLen := 4, tickets := [[100,80,60,40], [100,80,60,40]], quarters := 2 }
def slots1_1 : Tbl Slot := [(1, { st := .valid, addr := 0, size := 64, fig := some fg_1 }), (2, {st := .invalid, err := 3})]
def rdy0 (s : State := mb_1) : State := bp 0 (fun x => { x with fig := { x.fig with st := .ready, slots := slots1_1, slot := 1 }, figure := some fg_1, cores := loadedCores fg_1 }) s
def run0_1 (s : State := mb_1) : State := bp 0 (fun x => { x with fig := { x.fig with st := .running, slots := slots1_1, slot := 1 }, figure := some fg_1, cores := loadedCores fg_1 }) s
def rdy0_1 (s : State := mb_1) : State := bp 0 (fun x => { x with fig := { x.fig with st := .ready, slots := slots1, slot := 1 }, figure := some fg, cores := loadedCores fg }) s
def run0_2 (s : State := mb_1) : State := bp 0 (fun x => { x with fig := { x.fig with st := .running, slots := slots1, slot := 1 }, figure := some fg, cores := loadedCores fg }) s
def vst : Slot := { st := .verifying, addr := 0, size := 64 }
def wcmd (op : FigOp) (st : FigSt) (s : State) (slot : Nat := 1) : State := fig (fun x => { x with cmd := some { op := op, slot := slot, back := .running, by_ := none }, st := st }) s
def slt_1 : State := fig (fun x => { x with slots := slots1_1 })
def fl : Flit := { data := List.replicate 64 3, poison := false, epoch := 0, ctx := 0, tag := ⟨0,0,0,true⟩ }
def fg_2 : Figure := { dir := [(1,0)], steps := [st1], patterns := [pt1], roundLen := 4, tickets := [[100,80,60,40]] }
def run0_3 (s : State := b) : State := bp 0 (fun x => { x with fig := { x.fig with st := .running }, figure := some fg_2, cores := loadedCores fg_2 }) s
def fgJ : Figure := { fg_2 with steps := [{ st1 with patB := 1 }], patterns := [{ pt1 with bufLines := 1 }, { pt1 with bufLines := 1 }], joins := [⟨0, 1, 0, 0, 4, 8⟩] }
def at_ (st : Stage) (s : State) : State := { s with boot := { s.boot with stage := st } }
def aonOnly : State := { off with boot := { off.boot with aon := true }, mgmt := { eid := some 8 } }
def up : State := { boot := { aon := true }, dies := (List.range 8).map fun d => (d, { pll := true }) , evc := { pend := [4,6,7], filt := [4,6,7] } }
def w4 (n : Nat) : List Byte := leBytes 4 n
def planBytes : List Byte := w4 0x4E414C50 ++ w4 77 ++ w4 (3 + 256) ++ w4 1 ++ w4 0 ++ w4 0 ++ w4 0 ++ w4 0 ++ List.replicate 32 0xAB ++ (w4 (0xFFF * 8192) ++ w4 0 ++ w4 0 ++ w4 (0xFF * 2^24))
def ast1 : Step := { runLen := 4, patA := 0, patOut := 0xFFFF, layerEnd := true, adapter := true }
def fg_3 : Figure := { dir := [(1,0)], steps := [ast1], patterns := [pt1], roundLen := 4, tickets := [[100,80,60,40], [100,80,60,40]], quarters := 2, width := 2, digest := List.replicate 32 0xAB }
def slots1_2 (f : Figure := fg_3) : Tbl Slot := [(1, { st := .valid, addr := 0, size := 64, fig := some f })]
def pl (f : Figure := fg_3) (bs : List Byte := planBytes) (g : Ptn → Ptn := id) : State :=
  let s := bp 0 (fun x => g { x with fig := { x.fig with slots := slots1_2 f }, units := { addr := 0, size := 80 }, att := { mapAddr := 0, mapSize := 256 } }) mb_1
  { s with mem := { s.mem with t1 := mwrite [] (3*65536) bs, bad1 := [] } }
def bnd (sl : Nat) (d : Bool) (s : State) : State := bp 0 (fun x => { x with units := { x.units with binding := some ⟨sl, d, 0, 80, false⟩ }, att := { x.att with binding := some ⟨sl, d, 0, 256, false⟩ } }) s
def aset (a rank fmt tag body size al : Nat) : Entry := en [(2,a),(3,(rank-1)*256+fmt*65536),(4,tag),(6,body),(8,size),(9,al)]
def pln : Plan := { tag := 77, maxRank := 4, projs := 1, pieces := [{ set := 0, step := 0, group := 0, shares := [⟨0,1,0⟩], cols := [], offset := 0, steerLayer := 0xFF }], groups := [⟨1,1,[0]⟩], bodyUnits := 32, addr := 0, size := 64 }
def row (a t : Option Nat) (st : RowSt := .active) : BRow := { st := st, desc := { adapter := a.getD 0, aNone := a.isNone, steer := t.getD 0, sNone := t.isNone, empty := false, ring := 2, pageTable := 0x100000 }, finished := false }
def bat (g : Batch → Batch := id) : Batch := g { open_ := true, ctx := 0, gen := 5, desc := { rows := 3, perRound := 2, vocab := 100 }, rows := [(0, row (some 9) (some 4)), (1, row (some 9) none), (2, row none none)], segs := [⟨0,2,some 9,false,some 4,false,0,0⟩, ⟨2,1,none,false,none,false,0,0⟩], step := some {} }
def rn_1 : Running := { ring := 0, idx := 0, ctx := 0, opcode := 0x21, target := 2, ports := [], round := 0, base := 0, done := 0, batch := 2, chunk := none }
def st0 : Steer := { st := .valid, layers := 2, fmt := 1, ctx := 0, refs := 1, base := 64, width := 10 }
def ad0 : Adapter := { st := .valid, rank := 2, fmt := 1, ctx := 0, planTag := 77, refs := 2, body := 0, bodySize := 128, alpha := [1,2,3,4,5,6,7,8] }
def bt (g : Ptn → Ptn := id) (h : Batch → Batch := id) : State :=
  let s := pl fg_3 planBytes (fun x => g { x with fig := { x.fig with st := .running, slot := 1 }, figure := some fg_3, cores := loadedCores fg_3, batches := [(2, bat h)], fe := { mode := .run, run := some rn_1 }, units := { x.units with plans := [(1, some pln)] } })
  let s := started (cmd 0x21 [(2,2)] (fun c => { c with phase := .running })) s
  { s with adapters := [(9, ad0), (10, { ad0 with ctx := 1 }), (11, { ad0 with refs := 0 }), (12, { ad0 with st := .retiring })], steers := [(4, st0), (5, { st0 with ctx := 1, refs := 0 }), (6, { st0 with refs := 0 })] }
def idleBt (g : Ptn → Ptn := id) : State := rs (fun x => { x with started := [], head := 1, tail := 4 }) (bt g)
def sset (a layers fmt base width : Nat) : Entry := en [(2,a),(3,(layers-1)*256+fmt*65536),(4,base),(6,width)]
def fbk (k : Nat) (o : Nat := 7) (sh : Nat := 6) : State := obm o (fun x => { x with fbKind := k, fbShadow := sh }) bt
def zp (s : State) : State := bp 0 (fun x => { x with mem := { x.mem with pages := tput (pageKey 5 1) { zero := true, t1 := some 4 } x.mem.pages } }) s
def mode (m : FeMode) (s : State) : State := bp 0 (fun x => { x with fe := { x.fe with mode := m } }) s
def fe (g : Fe → Fe) (s : State) : State := bp 0 (fun x => { x with fe := g x.fe }) s
def free_ (s : State) : State := fe (fun f => { f with mode := .idle, run := none, queue := [], saved := [] }) (rs (fun x => { x with started := [], head := 1, tail := 4 }) s)
def gap_ (s : State) : State := mode .gap (free_ s)
def tabBytes (fill logLen : Nat) (rec : Bool := false) (ctx : Nat := 0) : List Byte := w4 (ctx + if rec then 2^17 else 0) ++ w4 (1 + 4 * 65536) ++ w4 fill ++ w4 0 ++ w4 0x200400 ++ w4 0 ++ w4 100 ++ w4 logLen ++ List.replicate 32 0
def amap : AttMap := { layers := 1, kvHeads := 1, d := 64, g := 1, qpos := 1, kvFmt := 1, qFmt := 1, outFmt := 1, scaleLog2 := 0, kInv := 0, vInv := 0, vScale := 0, ropeBase := 0, window := 0, entries := [⟨0,0,4,0,1⟩], addr := 0, size := 128 }
def put0 (a : Nat) (bs : List Byte) (s : State) : State := { s with mem := { s.mem with t0 := mwrite s.mem.t0 ((9 + (a - 0x200000) / 65536) * 65536 + (a - 0x200000) % 65536) bs } }
def kv (fill logLen : Nat) (rec : Bool := false) (s : State := bt) : State :=
  put0 0x200000 (tabBytes fill logLen rec) (modCtx 0 (fun c => { c with attCur := { limit := 10 } }) (bp 0 (fun x => { x with att := { x.att with poolBase := 0x400000, poolPages := 10, maps := [(1, some amap)] } }) s))
def nostep (s : State) (g : Batch → Batch := id) : State := bp 0 (fun x => { x with batches := [(2, bat fun y => g { y with step := none })] }) s
def rF : Running := { rn_1 with opcode := 0x16, target := 3 }
def fgn : Figure := { fg_3 with steps := [{ ast1 with adapter := false }] }
def fgRun : State := bp 0 (fun x => { x with figure := some fgn, cores := loadedCores fgn, batches := [], fe := { mode := .run, run := some { rn_1 with opcode := 0x16, target := 3 } } }) (started (cmd 0x16 [(2,3)] (fun c => { c with phase := .running })) bt)
def two (s : State) : State := { fe (fun f => { f with queue := [{ rF with ctx := 1, ring := 0, idx := 9 }] }) s with ctxs := s.ctxs ++ [(1, { st := .enabled })] }
def bst (b : Bool) : Step := { ast1 with bow := b, adapter := false, layerEnd := !b, runLen := 2 }
def bp1 : List BowPoint := [⟨2, 0, 0⟩]
def fgb : Figure := { fg_3 with bowPoints := bp1, dir := [(2,0)], steps := [bst true, bst false] }
def bowF (s : State) : State := bp 0 (fun x => { x with figure := some fgb, cores := loadedCores fgb }) s
def bowRun : State := mode (.stopping false) (bowF fgRun)
def area (s : State) : State := modCtx 0 (fun c => { c with cur := { c.cur with saveObj := 7, saveVal := true } }) s
def savP : State := mode (.saving 0 false) (area (bowF fgRun))
def gq : State := fe (fun f => { f with mode := .gap, run := none, queue := [rF] }) fgRun
def sv : Saved := { run := rF, epoch := 0, point := 0, area := some 7, cores := [{ core := 0, lines := [(1,{data := [1,2]})], oc := [], bufs := [(0,[])], step := 1 }] }
def rst : State := fe (fun f => { f with mode := .restoring, run := none, resume := some sv }) fgRun
def rcRun (logLen : Nat) (g : Running → Running := id) : State := fe (fun f => { f with mode := .run, run := some (g { rn_1 with opcode := 0x28, chunk := some (10, 9), round := 3, target := 0 }) }) (started (cmd 0x28 [(2,0x200000)] (fun c => { c with phase := .running })) (kv 10 logLen true bt))
def many (s : State) : State := bp 0 (fun x => { x with batches := (List.range 8).map fun i => (10 + i, { open_ := true, ctx := 1 }) }) s
def rowBytes (ring pt : Nat) (f : Nat := 7) : List Byte := w4 0x99 ++ w4 ring ++ w4 0 ++ w4 f ++ w4 0 ++ w4 0 ++ w4 0x3F800000 ++ w4 1 ++ w4 1 ++ w4 0 ++ w4 0 ++ w4 0 ++ w4 pt ++ w4 0 ++ w4 3 ++ w4 100
def rws : List (List Byte) := [rowBytes 2 0x200000, rowBytes 2 0x200000, rowBytes 2 0x200040 8]
def bdBytes (rows : List (List Byte)) : List Byte := w4 0x48435442 ++ w4 (rows.length + 8192) ++ w4 (16 + 2^24) ++ w4 1 ++ List.replicate 48 0 ++ (w4 0 ++ w4 (16 * 2^18)) ++ List.replicate 56 0 ++ rows.flatten
def rsBytes : List Byte := leBytes 2 1 ++ leBytes 2 0 ++ List.replicate 60 0 ++ rowBytes 2 0x200000 ++ rowBytes 2 0x200040 8
def base : State := put0 0x218000 rsBytes (put0 0x210000 (bdBytes rws) (kv 10 10))
def bs1 : BStep := { computed := true, logits := (List.range 3).map fun r => ⟨r,0,0,0,0,(List.range 16).flatMap fun i => leBytes 4 (0x3F800000 + i * 4096),false⟩ }
def kc : Cmd := cmd 0x21 [(2,2)] (fun c => { c with phase := .running })
def row1 (pt : Nat) (st : RowSt := .active) (dl : Nat := 0) : BRow := { st := st, desc := { empty := false, ring := 2, pageTable := pt, deadline := dl }, finished := false }
def base2 (g : Batch → Batch := id) (ru : Running := rn_1) : State := bp 0 (fun x => { x with batches := [(2, bat fun y => g { y with desc := { y.desc with vocab := 16, vmap := [⟨0,0,0,0,16⟩] }, rows := [(0, row1 0x200000), (1, row1 0x200000 .active 5), (2, row1 0x200040 .sitting)], step := some bs1 })], fe := { x.fe with run := some ru } }) (kv 10 10)
def r3 : Running := { rn_1 with target := 3, done := 1 }
def maskL : List Byte := w4 0x4B53414D ++ w4 0 ++ w4 16 ++ w4 2 ++ List.replicate 48 0 ++ w4 3 ++ w4 5
def mk0 : Mask := { set := true, ctx := 0, vocab := 16, size := 64, tokens := [3] }
def maskA : List Byte := w4 0x4B53414D ++ w4 1 ++ w4 16 ++ w4 1 ++ w4 1 ++ List.replicate 44 0 ++ (w4 0 ++ w4 1 ++ w4 0 ++ w4 0) ++ List.replicate 48 0 ++ (w4 0x0F ++ List.replicate 60 0) ++ (w4 3 ++ w4 0)
def frM (s : State) : State := put0 0x21A000 maskL (put0 0x21B000 maskA (free_ s))
def tr : TokRec := { request := 1, seq := 2, type := 1, flags := 0, batch := 2, row := 1, value := 3, pos := 4, detail := 5 }
def rec_ (l : List TokRec) (s : State) : State := modRing 2 (fun x => { x with recs := l }) s
def lgd (s : State) : State := { s with flt := { s.flt with policy := [(0x0702, 1), (0x0703, 1)] } }
def po (n : Nat) (x : Port) (s : State := b) : State := modPort n (fun _ => x) { s with fab := { s.fab with coord := 7, valid := true } }
def act (x : Port) (g : Fab → Fab := id) : State := let s := po 0 { x with st := .active } (po 1 { st := .active, credits := [0,50,0,0] } b); { s with fab := g { s.fab with rx := [(3, 5 + 65536)], near := [(9, 1 + 2048), (5, 1+ 2048)], lostSet := [5], tx0 := [(2, 9 + 131072), (3, 65536 + 131072)], tx1 := [(2, 5), (3, 7)], chans := [(2, { credits := 4 })] } }
def sl (k : Nat) (v : Nat := 1) : FrameSlot := ⟨k, v, false, List.replicate 64 3⟩
def pk (d : Nat) (ch : Nat := 3) (g : Packet → Packet := id) : Packet := g { dest := d, mcast := false, vl := 3, src := 5, type := 0, channel := ch, epoch := 2, ctx := 0, body := [], flits := [{ data := [1], poison := false, epoch := 0, ctx := 0, tag := ⟨0,0,0,true⟩ }] }
def rtHead (fromStep : Nat := 4) (epoch : Nat := 9) : List Byte := w4 0x45545552 ++ w4 epoch ++ w4 (2 + 2048) ++ w4 2 ++ w4 fromStep ++ w4 0 ++ w4 (1 + 0 * 16 + 0 * 256 + 4 * 4096) ++ List.replicate 36 0
def pad64 (l : List Byte) : List Byte := l ++ List.replicate ((64 - l.length % 64) % 64) 0
def rtBytes (caps : Nat := 2) : List Byte := rtHead ++ pad64 (w4 5 ++ w4 7) ++ pad64 ((w4 (0 + 8192) ++ w4 caps) ++ (w4 (1 + 8192) ++ w4 caps)) ++ (w4 (7 + 3 * 2^21) ++ w4 (5 + 4 * 2^21))
def rtS : State := put0 0x218800 (rtBytes 40000) (put0 0x218400 ((rtBytes).set 64 99) (put0 0x218000 rtBytes (free_ bt)))
def coord7 (s : State) : State := { s with fab := { s.fab with coord := 7, valid := true, lostSet := [11], noted := [11] } }
def rt0 : RouteTbl := { epoch := 9, arrival := false, senders := [(5,0),(7,0)], experts := [(0,1,2),(1,1,2)], replicas := [(7,0,3),(5,0,4)], fromStep := 4, actFmt := 1, ansFmt := 4, combFmt := 4, width := 4 }
def sc : List Byte := leBytes 2 0 ++ leBytes 2 1 ++ List.replicate 28 0xFF ++ w4 0x3F800000 ++ w4 0x40000000 ++ List.replicate 24 0
def flt_ (l : List Byte) (row : Nat) : Flit := { data := l, poison := false, epoch := 0, ctx := 0, tag := ⟨row, 0, 0, true⟩ }
def gt : List Byte := List.replicate 64 0
def ex (g : Exch → Exch) (s : State := bt) : State := coord7 (bp 0 (fun x => { x with xch := { x.xch with bufPages := 10, bufAddr := 0x200000, exchs := [(0, g { cur := some rt0, step := 6 })] } }) s)
def xs (g : Exch → Exch := id) : State := ex (fun e => g { e with scoreIn := [flt_ sc 0, flt_ gt 0, flt_ sc 1, flt_ gt 1], actIn := [flt_ gt 0, flt_ gt 1] })
def pol (l : List (Nat × Nat)) (s : State) : State := { s with flt := { s.flt with policy := l } }
def uu (g : XUnit → XUnit := id) : XUnit := g { src := 5, exch := 0, step := 5, epoch := 9, generation := 5, batch := 2, srcPtn := 0, dstPtn := 0, row := 1, pos := 0, expert := 0, value := 0x3F800000, data := [1,2,3,4], poison := false }
def sp (s : State) : State := pol [(0x0705, 0), (0x0706, 0), (0x0704, 0)] s
def hc (src n : Nat) (e : Option Nat) (gone : Bool := false) : HomeCount := ⟨5, src, 0, n, e, 0, 2, gone⟩
def c0 : Cand := { score := 0x40000000, src := 5, ptn := 0, row := 0, pos := 0, expert := 0, gen := 5, batch := 2, data := none, gone := false }
def k0 : Card := { step := 5, card := 3, cap := 2, intake := 2, cands := [c0, { c0 with row := 1, score := 0x3F800000 }], closed := false, fed := 0, drawn := 0 }
def tc : TokCand := { expert := 0, gate := 0x3F80, replica := some (5,0,4), grant := none, void := false, answer := none }
def tk : XTok := { step := 5, batch := 2, gen := 5, row := 1, pos := 0, live := true, act := [1,2], poison := false, actBad := false, cands := [tc, { tc with expert := 1 }], arrived := [], out := false }
def tkg : XTok := { tk with cands := [{ tc with grant := some 1 }, { tc with expert := 1 }] }
def qt (q : Nat) (g : Qtr → Qtr) (s : State) : State := modQtr q g s
def pw (g : Pwr → Pwr) (s : State) : State := { s with pwr := g s.pwr }
def hot (q k t : Nat) (s : State) : State := modQtr q (fun x => { x with temps := tset 0 k t x.temps }) s
def pll (d : Nat) (s : State) : State := modDie d (fun x => { x with pll := false }) s
def ppw (p : Nat) (g : PPwr → PPwr) (s : State) : State := bp p (fun x => { x with pwr := g x.pwr }) s
def rset (s : State) : State := { at_ .resetting s with sets := [(0, {})] }
def run0_4 (s : State) : State := bp 0 (fun x => { x with fig := { x.fig with st := .running, slots := slots1_2, slot := 1 }, figure := some fg_3, cores := loadedCores fg_3 }) s
def rr : State := { rset (run0_4 mb_1) with fab := { coord := 3, kept := some 5 } }
def rsC (l : Nat) (s : State) : State := modCtx 0 (fun c => { c with st := .resetting, reset := some ⟨l, 0x0901, false, []⟩ }) s
def er (e : EngineSel) (s : State) : State := rsC 2 { s with flt := { s.flt with engResets := [⟨e, [0], 0x0901⟩] } }
def pr (k : Nat) (s : State) : State := bp 0 (fun x => { x with reset := some (0x0901, k), fig := { x.fig with st := if k = 0 then .faulted else .mirror } }) s
def fu : Fuses := { provisioned := 3, revoked := 2, ownerX := [(1, p256Gx), (2, 5)], ownerY := [(1, p256Gy)] }
def kst (s : State) : State := { s with fuses := fu, mgmt := { s.mgmt with nonce := some 77, eid := some 8 } }
def slk : State := { kst b with ptns := (modPtn 0 (fun x => { x with fig := { x.fig with slots := [(1, { st := .valid, fig := some { fg_3 with keySlot := 3 } })] } }) b).ptns }
def km (slot signer : Nat) : KeyMsg := { slot := slot, keyX := 11, keyY := 12, signer := signer, nonce := 77, sigR := 1, sigS := 1 }
def poS (n : Nat) (st : PortSt) (s : State := b) : State := modPort n (fun x => { x with st := st }) { s with fab := { s.fab with coord := 7, valid := true } }
def held (s : State) : State := { s with rings := [(0, { ringC with head := 3, tail := 5 })], fns := [(0, { memSpace := true }), (1, { fn0 with bme := false, pba := [0] })] }

def badPorts : State := put0 0x210000 (List.replicate 16 0xFF) (free_ bt)
def portsRead (s : State) : Except Nat (List Byte) := let e := en [(2,3),(4,0x210000)]; readDesc (begun s e 0x16) (newCmd s e 0x16) (opd e.ops 4) 8192

def rcK : Cmd := cmd 0x28 [(2,0x200000)] (fun c => { c with phase := .running })
def rcR : Running := { rn_1 with opcode := 0x28, chunk := some (10, 9), round := 3, target := 0 }

def idleSlots : List FrameSlot := List.replicate 8 ⟨0, 0, false, List.replicate 64 0⟩
def fr (seq ack : Nat) (ss : List FrameSlot) : Frame := ⟨seq, ack, false, ss, [0, 0, 0, 0]⟩
def zeroBody : List Byte := List.replicate 524 0
def wrongLast : List Byte := leBytes 4 (if crc24 zeroBody = 0 then 1 else 0)
def wrongCrc : List Byte := zeroBody ++ wrongLast ++ frameParity (zeroBody ++ wrongLast)

theorem readFrame_wrongCrc : readFrame wrongCrc = none := by
  unfold wrongCrc
  rw [readFrame_wire _ _ (by decide +kernel) (show wrongLast.length = 4 from leBytes_length 4 _), if_pos]
  unfold wrongLast
  rw [slice_leBytes, leNat_leBytes]
  split
  · rename_i h; rw [h]; decide
  · rename_i h; exact fun q => h q.symm

/-- A packet whose one route cannot take it. -/
theorem oneRoute {s : State} {k : Packet} {n : Nat} (h : routePort s k.dest = some n) (c : canSend s n k = false) :
    ∀ m, routePort s k.dest = some m → canSend s m k = false := by
  intro m hm; rw [h] at hm; cases hm; exact c

def fgM : Figure := { fg_2 with report := some ⟨3, 2, [(0, 100, 4)], []⟩ }
def mrun (n : Nat) : State := bp 0 (fun x => { x with figure := some fgM, mirrorRounds := n }) (pr 2 mb_1)

/-! ### Well-formedness: one ill-formed term for each check -/

def okEntry : Entry := { ring := 0, hdr := 0, notify := false, tag := 7, ops := List.replicate 14 0 }
def okFlit : Flit := { data := List.replicate 64 0, poison := false, epoch := 0, ctx := 0, tag := ⟨0, 0, 0, true⟩ }
def okUnit : XUnit :=
  { src := 0, exch := 0, step := 0, epoch := 0, generation := 0, batch := 0, srcPtn := 0, dstPtn := 0, row := 0, pos := 0, expert := 0,
    value := 0, data := [], poison := false }
def okKey : KeyMsg := { slot := 1, signer := 1, keyX := 0, keyY := 0, nonce := 0, sigR := 0, sigS := 0 }

theorem test_wf_entry : (Instr.nop okEntry).wf = true := by decide
theorem test_wf_entry_words : (Instr.nop { okEntry with ops := [] }).wf = false := by decide
theorem test_wf_entry_header : (Instr.nop { okEntry with hdr := 1 }).wf = false := by decide
theorem test_wf_reserved_header : (Instr.reservedOpcode { okEntry with hdr := 2 ^ 23 } 0x02).wf = false := by decide
theorem test_wf_reserved_opcode : (Instr.reservedOpcode okEntry 0x16).wf = false := by decide
theorem test_wf_access_size : (Instr.registerWrite 0 0 3 0).wf = false := by decide
theorem test_wf_access_offset : (Instr.rcRead 0 ⟨.registers, 2 ^ 26⟩ 4).wf = false := by decide
theorem test_wf_repair_set : (Instr.repairDone [⟨640, [], []⟩]).wf = false := by decide
theorem test_wf_repair_core : (Instr.repairDone [⟨0, [132], []⟩]).wf = false := by decide
theorem test_wf_repair_unit : (Instr.repairDone [⟨0, [], [(1056, 1)]⟩]).wf = false := by decide
theorem test_wf_repair_lanes : (Instr.repairDone [⟨0, [], [(0, 34)]⟩]).wf = false := by decide
theorem test_wf_flit : (Instr.streamFlit 0 (.partner 0) okFlit).wf = true := by decide
theorem test_wf_flit_data : (Instr.streamFlit 0 (.partner 0) { okFlit with data := [] }).wf = false := by decide
theorem test_wf_flit_epoch : (Instr.streamFlit 0 (.partner 0) { okFlit with epoch := 2 ^ 16 }).wf = false := by decide
theorem test_wf_flit_context : (Instr.streamFlit 0 (.partner 0) { okFlit with ctx := 4096 }).wf = false := by decide
theorem test_wf_flit_row : (Instr.streamFlit 0 (.partner 0) { okFlit with tag := ⟨4096, 0, 0, true⟩ }).wf = false := by decide
theorem test_wf_flit_pass : (Instr.streamFlit 0 (.partner 0) { okFlit with tag := ⟨0, 9, 0, true⟩ }).wf = false := by decide
theorem test_wf_flit_pos : (Instr.streamFlit 0 (.partner 0) { okFlit with tag := ⟨0, 0, 9, true⟩ }).wf = false := by decide
theorem test_wf_port_core : (Instr.streamFlit 0 (.core 81920 0 0) okFlit).wf = false := by decide
theorem test_wf_port_step : (Instr.streamFlit 0 (.core 0 8 0) okFlit).wf = false := by decide
theorem test_wf_port_input : (Instr.streamFlit 0 (.core 0 0 2) okFlit).wf = false := by decide
theorem test_wf_port_set : (Instr.streamFlit 0 (.partner 640) okFlit).wf = false := by decide
theorem test_wf_bar4_read : (Instr.bar4Read 0 (2 ^ 42) 1).wf = false := by decide
theorem test_wf_bar4_write : (Instr.bar4Write 0 (2 ^ 42) [0] false).wf = false := by decide
theorem test_wf_unit : (Instr.score okUnit).wf = true := by decide
theorem test_wf_unit_source : (Instr.score { okUnit with src := 2 ^ 16 }).wf = false := by decide
theorem test_wf_unit_exchange : (Instr.end_ { okUnit with exch := 16 }).wf = false := by decide
theorem test_wf_unit_epoch : (Instr.grant { okUnit with epoch := 2 ^ 16 }).wf = false := by decide
theorem test_wf_unit_generation : (Instr.grantEnd { okUnit with generation := 2 ^ 16 }).wf = false := by decide
theorem test_wf_unit_batch : (Instr.act { okUnit with batch := 64 }).wf = false := by decide
theorem test_wf_unit_sender : (Instr.answer { okUnit with srcPtn := 32 }).wf = false := by decide
theorem test_wf_unit_home : (Instr.cancel { okUnit with dstPtn := 32 }).wf = false := by decide
theorem test_wf_unit_row : (Instr.void { okUnit with row := 4096 }).wf = false := by decide
theorem test_wf_doorbell_offset : (Instr.rcRead 0 ⟨.doorbells, 2 ^ 18⟩ 4).wf = false := by decide
theorem test_wf_frame : (Instr.frameReceive 0 (List.replicate 543 0)).wf = false := by decide +kernel
theorem test_wf_sensor : (Instr.sensorSample (.quarter 0 0) 4096).wf = false := by decide
theorem test_wf_rail : (Instr.railFault 74 0).wf = false := by decide
theorem test_wf_key : (Instr.keyProvision 0 okKey).wf = true := by decide
theorem test_wf_key_slot : (Instr.keyProvision 0 { okKey with slot := 5 }).wf = false := by decide
theorem test_wf_key_signer : (Instr.keyRevoke 0 { okKey with signer := 5 }).wf = false := by decide
theorem test_wf_key_x : (Instr.vendorDisable 0 { okKey with keyX := 2 ^ 256 }).wf = false := by decide
theorem test_wf_key_y : (Instr.vendorDisable 0 { okKey with keyY := 2 ^ 256 }).wf = false := by decide
theorem test_wf_key_nonce : (Instr.vendorDisable 0 { okKey with nonce := 2 ^ 128 }).wf = false := by decide
theorem test_wf_measurement : (Instr.getMeasurements .doe [256]).wf = false := by decide

/-! ### The specification's worked values -/

/-- Quarter Q5 lies in quarter column 3 and row 0; its neighbours are Q4, Q7 and Q8 (the example after 01 R26). -/
theorem test_q5_neighbours : qtrCol 5 = 3 ∧ qtrRow 5 = 0 ∧ (List.range 32).filter (adjacent 5) = [4, 7, 8] := by decide

/-- The E4M3 byte 0x4C is 6.0 (the example of 03 R94). -/
theorem test_e4m3 : toF32 (ofElem 1 0x4C) = 0x40C00000 := by decide

/-- With D = 128 and FP8 a block covers 256 positions (the example of 06). -/
theorem test_block_positions : kvP 128 1 = 256 := by decide

/-- VF 3's vector 1 is host vector 2,177 when each VF has 64 vectors (the example of 12). -/
theorem test_host_vector : vecNo b 3 1 = 2177 ∧ vecOf b 2177 = (3, 1) := by decide +kernel

/-- Routing the pulse source 0x121: 0xA001 written to its EVC_SRC_CFG reads 0xA101 (the example of 12). -/
theorem test_source_route :
    (match exec (.evcSrcCfg 0 0x121 0xA001) b with
     | .next t => decide (regRead t 0 0x102908 = some 0xA101) && !isPending t 0x121
     | _ => false) = true := by decide +kernel

/-- CLK_VOLT[0] reads 650 mV (13). -/
theorem test_clk_volt : regRead b 0 0x201010 = some 0x28A := by decide +kernel

/-- The check value of CRC-32C over the nine digits. -/
theorem test_crc32c : crc32c (ascii "123456789") = 0xE3069283 := by decide +kernel

/-- The standard's digest of "abc". -/
theorem test_sha256 : beNat (sha256 (ascii "abc")) = 0xBA7816BF8F01CFEA414140DE5DAE2223B00361A396177A9CB410FF61F20015AD := by decide +kernel

/-- Commands are taken in order: the first of two waiting commands runs, and the second waits on. -/
theorem test_queue_order :
    (match step { b with pending := [.registerWrite 0 0xC00010 4 5, .registerWrite 0 0xC00010 4 6] } with
     | .next t => decide (t.mem.scrubInt = 5 ∧ t.pending = [.registerWrite 0 0xC00010 4 6])
     | _ => false) = true := by decide +kernel

/-! ### Witnesses: one for the hypotheses of each clause of each statement -/


theorem witness_EmptyQueueStepIsOneC0Cycle :
    (∃ (s : State),
      s.pending = [] ∧ s.boot.aon = false) ∧
    (∃ (s : State),
      s.pending = [] ∧ s.boot.aon = true) ∧
    (∃ (s : State) (p : Nat) (r : Running),
      s.pending = [] ∧ s.boot.aon = true ∧ livePtns s = [p] ∧ (getPtn s p).fe.run = some r ∧ feRuns (getPtn s p).fe = true) :=
  ⟨⟨off, by decide +kernel⟩,
    ⟨b, by decide +kernel⟩,
    ⟨{ b with ptns := [(0, { ptn0 with fe := { mode := .run, run := some rn } })] }, 0, rn, by decide +kernel⟩⟩

theorem witness_RegistersReadTheirResetValues :
    ∃ (e : Nat × Nat),
      e ∈ resetWords :=
  ⟨resetWords.head (by decide), by decide +kernel⟩

theorem witness_AccessesThatReachNoRegisterOnlySetTheirFlag :
    (∃ (c : Instr) (fn : FnId) (s : State),
      hostFn c = some fn ∧ barOpen s fn.val = false) ∧
    (∃ (fn : FnId) (off size : Nat) (_val : DWord) (s : State),
      wordAccess off size = false ∧ Served s fn (seesOff s fn.val (off / 4 * 4)) (earlyOff (off / 4 * 4))) ∧
    (∃ (fn : FnId) (off : Nat) (_val : DWord) (s : State),
      off % 4 = 0 ∧ regRead s fn.val off = none ∧ Served s fn (seesOff s fn.val off) (earlyOff off)) ∧
    (∃ (fn : FnId) (off size : Nat) (s : State),
      wordAccess off size = false ∧ Served s fn (seesOff s fn.val (off / 4 * 4)) (earlyOff (off / 4 * 4))) ∧
    (∃ (fn : FnId) (off : Nat) (s : State),
      off % 4 = 0 ∧ regRead s fn.val off = none ∧ Served s fn (seesOff s fn.val off) (earlyOff off)) :=
  ⟨⟨.registerWrite 0 0x20 3 5, 0, off, by decide +kernel⟩,
    ⟨0, 0, 0, 0, b, by unfold Served; decide +kernel⟩,
    ⟨0, 4, 0, b, by unfold Served; decide +kernel⟩,
    ⟨0, 0, 0, b, by unfold Served; decide +kernel⟩,
    ⟨0, 4, b, by unfold Served; decide +kernel⟩⟩

theorem witness_RegisterWritesFollowTheAccessCode :
    (∃ (_fn : FnId) (off : Nat) (_val : DWord) (_s : State),
      off % 8 = 0) ∧
    (∃ (fn : FnId) (_val : DWord) (s : State),
      Served s fn (fn.val == 0) false) ∧
    (∃ (fn : FnId) (p : PtnId) (_val : DWord) (s : State),
      Served s fn (seesPtn s fn.val p.val) false) ∧
    (∃ (fn : FnId) (_val : DWord) (s : State),
      barOpen s fn.val = true) ∧
    (∃ (fn : FnId) (p : PtnId) (_val : DWord) (s : State),
      Served s fn (seesPtn s fn.val p.val) false ∧ ptnRuns (getPtn s p.val) = true) ∧
    (∃ (fn : FnId) (p : PtnId) (_val : DWord) (s : State),
      Served s fn (seesPtn s fn.val p.val) false ∧ ptnRuns (getPtn s p.val) = false) :=
  ⟨⟨0, 0, 0, b, by decide +kernel⟩,
    ⟨0, 0, b, by unfold Served; decide +kernel⟩,
    ⟨0, 0, 0, b, by unfold Served; decide +kernel⟩,
    ⟨0, 0, b, by decide +kernel⟩,
    ⟨0, 0, 0, bp 0 fun x => { x with fig := { x.fig with st := .running } }, by unfold Served; decide +kernel⟩,
    ⟨0, 0, 0, b, by unfold Served; decide +kernel⟩⟩

theorem witness_ReadsShowTheValueThenClearOrLatch :
    (∃ (fn : FnId) (p : PtnId) (s : State),
      Served s fn (seesPtn s fn.val p.val) false) ∧
    (∃ (fn : FnId) (s : State),
      barOpen s fn.val = true) ∧
    (∃ (fn : FnId) (c : CtxId) (s : State),
      Served s fn (seesCtx s fn.val c.val) false) :=
  ⟨⟨0, 0, b, by unfold Served; decide +kernel⟩,
    ⟨0, b, by decide +kernel⟩,
    ⟨0, 0, b, by unfold Served; decide +kernel⟩⟩

theorem witness_EventWindowWritesActOnTheirSources :
    (∃ (fn : FnId) (k : Fin 128) (_val : Word) (s : State),
      Served s fn (fn.val == 0) true ∧ 64 ≤ k.val) ∧
    (∃ (fn : FnId) (k : Fin 128) (_val : Word) (s : State),
      Served s fn (fn.val == 0) true ∧ k.val < 64) ∧
    (∃ (fn : FnId) (_k : Fin 128) (_val : Word) (s : State),
      Served s fn (fn.val == 0) true) ∧
    (∃ (fn : FnId) (n : SrcId) (val : Word) (s : State),
      Served s fn (fn.val == 0) true ∧ pfOwns s n.val = true ∧ isUnmasked s n.val = false ∧
      (bits (BitVec.toNat val) 12 4 = 0 ∨ bits (BitVec.toNat val) 12 4 = 10)) ∧
    (∃ (fn : FnId) (n : SrcId) (val : Word) (s : State),
      Served s fn (fn.val == 0) true ∧
      (pfOwns s n.val = false ∨ isUnmasked s n.val = true ∨ ¬(bits (BitVec.toNat val) 12 4 = 0 ∨ bits (BitVec.toNat val) 12 4 = 10))) ∧
    (∃ (fn : FnId) (n : SrcId) (val : Word) (s : State),
      Served s fn (fn.val == 0) true ∧ pfOwns s n.val = true ∧ isUnmasked s n.val = false ∧ bits (BitVec.toNat val) 12 6 ≤ 32 ∧
      ((srcCfg s n.val).target = 10 → bits (BitVec.toNat val) 0 12 < tableSize s (bits (BitVec.toNat val) 12 6))) ∧
    (∃ (fn : FnId) (v : Fin 32) (val : Word) (s : State),
      Served s fn (fn.val == 0) true ∧ s.vfEnable = false ∧ 0 < bits (BitVec.toNat val) 0 12 ∧
      (List.map (fun (w : Nat) => if w = v.val then bits (BitVec.toNat val) 0 12 else tableSize s (w + 1)) (List.range 32)).sum ≤ 2048) ∧
    (∃ (fn : FnId) (_v : Fin 32) (_val : Word) (s : State),
      Served s fn (fn.val == 0) true ∧ s.vfEnable = true) :=
  ⟨⟨0, 127, 0, b, by unfold Served; decide +kernel⟩,
    ⟨0, 0, 0, b, by unfold Served; decide +kernel⟩,
    ⟨0, 0, 0, b, by unfold Served; decide +kernel⟩,
    ⟨0, Fin.ofNat _ 0, 0, b, by unfold Served; decide +kernel⟩,
    ⟨0, Fin.ofNat _ 0, 0xFFFFFFFF, b, by unfold Served; decide +kernel⟩,
    ⟨0, Fin.ofNat _ 0, 0, b, by unfold Served; decide +kernel⟩,
    ⟨0, 0, 1, {b with vfEnable := false}, by unfold Served; decide +kernel⟩,
    ⟨0, 0, 0, b, by unfold Served; decide +kernel⟩⟩

theorem witness_FiltersAndIntervalsMoveTheirSignals :
    (∃ (n : SrcId) (_level : Bool) (s : State),
      s.boot.aon = true ∧ isCondition n.val = true) ∧
    (∃ (e : Fin 4096) (f i : Nat) (s : State),
      (getHVec s e.val).running = true ∧ (getHVec s e.val).held = true ∧ vecOf s e.val = (f, i) ∧ vecNo s f i = e.val) ∧
    (∃ (e : Fin 4096) (s : State),
      (getHVec s e.val).running = true ∧ (getHVec s e.val).held = false) :=
  ⟨⟨Fin.ofNat _ 4, false, b, by decide +kernel⟩,
    ⟨Fin.ofNat _ 0, 0, 0, evb, by decide +kernel⟩,
    ⟨Fin.ofNat _ 1, evb, by decide +kernel⟩⟩

theorem witness_DeliveryChoosesAndEntersAndReturns :
    (∃ (target : Fin 16) (n : Nat) (s : State),
      1 ≤ target.val ∧ target.val ≤ 9 ∧ deliverable s target.val = some n) ∧
    (∃ (s : State) (k n : Nat),
      List.Pairwise (fun (x1 x2 : Nat) => x1 < x2) s.evc.pend ∧ deliverable s k = some n) ∧
    (∃ (s : State) (k n l : Nat),
      List.Pairwise (fun (x1 x2 : Nat) => x1 < x2) s.evc.pend ∧ deliverable s k = some n ∧ l ∈ (getTgt s k).levels.head?) ∧
    (∃ (s : State) (k n m : Nat),
      List.Pairwise (fun (x1 x2 : Nat) => x1 < x2) s.evc.pend ∧ deliverable s k = some n ∧ isPending s m = true ∧ isUnmasked s m = true ∧
      (srcCfg s m).target = k) ∧
    (∃ (k : Fin 16) (l : Nat) (ls : List Nat) (s : State),
      (getTgt s k.val).levels = l :: ls) ∧
    (∃ (k : Fin 16) (s : State),
      (getTgt s k.val).inGap = true) :=
  ⟨⟨1, 1, evb, by decide +kernel⟩,
    ⟨evb, 1, 1, by decide +kernel⟩,
    ⟨evx fun e => { e with tgts := [(1, { base := 2, mie := true, levels := [1] }), (3, { levels := [2, 1], gap := 5 }), (4, { inGap := true })] }, 1, 1, 1, by decide +kernel⟩,
    ⟨evb, 1, 1, 1, by decide +kernel⟩,
    ⟨1, 1, [], evx fun e => { e with tgts := [(1, { base := 2, mie := true, levels := [1] }), (3, { levels := [2, 1], gap := 5 }), (4, { inGap := true })] }, by decide +kernel⟩,
    ⟨4, evb, by decide +kernel⟩⟩

theorem witness_AProcessorAsleepWakesForAnySourceOfItsTarget :
    (∃ (k : Fin 16) (n : Nat) (s : State),
      (getTgt s k.val).sleeping = true ∧ isPending s n = true ∧ isUnmasked s n = true ∧ (srcCfg s n).target = k.val) ∧
    (∃ (k : Fin 16) (n : Nat) (s : State),
      (getTgt s k.val).sleeping = true ∧ isPending s n = true ∧ isUnmasked s n = true ∧ (srcCfg s n).target = k.val ∧ (getTgt s k.val).mie = false) ∧
    (∃ (k : Fin 16) (n : Nat) (s : State) (m : Nat),
      (getTgt s k.val).sleeping = true ∧ isPending s n = true ∧ isUnmasked s n = true ∧ (srcCfg s n).target = k.val ∧ (getTgt s k.val).mie = true ∧
      1 ≤ k.val ∧ k.val ≤ 9 ∧ deliverable s k.val = some m) :=
  ⟨⟨1, 1, evb, by decide +kernel⟩,
    ⟨1, 1, evx fun e => { e with tgts := [(1, { mie := false, sleeping := true })] }, by decide +kernel⟩,
    ⟨1, 1, evb, 1, by decide +kernel⟩⟩

theorem witness_AlertIsLowWhileAnAlertSourceIsPending :
    ∃ (s : State),
      List.Pairwise (fun (x1 x2 : Nat) => x1 < x2) s.evc.pend :=
  ⟨b, by decide +kernel⟩

theorem witness_PartitionCommandsChangeTheirPartition :
    (∃ (fn : FnId) (p : PtnId) (s : State),
      Served s fn (fn.val == 0) false ∧ s.ptnCmd.busy = false ∧ s.ptnCmd.arg ≠ 0 ∧ takenQtr s p.val s.ptnCmd.arg = none ∧ (getPtn s p.val).exists_ = false) ∧
    (∃ (fn : FnId) (p : PtnId) (s : State),
      Served s fn (fn.val == 0) false ∧ s.ptnCmd.busy = false ∧ s.ptnCmd.arg ≠ 0 ∧ takenQtr s p.val s.ptnCmd.arg = none ∧ (getPtn s p.val).exists_ = true ∧
      (getPtn s p.val).fig.st = FigSt.empty) ∧
    (∃ (fn : FnId) (p : PtnId) (s : State),
      Served s fn (fn.val == 0) false ∧ s.ptnCmd.busy = false ∧ s.ptnCmd.arg ≠ 0 ∧
      (∀ (q : Nat), q < 32 → bit s.ptnCmd.arg q = true → bit (getPtn s p.val).qtrs q = true ∧ pageBeneath s p.val q = false) ∧
      s.ptnCmd.arg ≠ (getPtn s p.val).qtrs ∧ (getPtn s p.val).exists_ = true ∧ (getPtn s p.val).fig.st = FigSt.empty) ∧
    (∃ (fn : FnId) (p : PtnId) (s : State),
      Served s fn (fn.val == 0) false ∧ s.ptnCmd.busy = false ∧ (getPtn s p.val).exists_ = true ∧ (getPtn s p.val).fig.st = FigSt.empty ∧
      ctxsOf s p.val = []) ∧
    (∃ (fn : FnId) (p : PtnId) (vf : Nat) (s : State),
      Served s fn (fn.val == 0) false ∧ s.ptnCmd.busy = false ∧ (getPtn s p.val).exists_ = true ∧ (getPtn s p.val).vf = 0 ∧ 0 < vf ∧ vf ≤ 32 ∧
      s.vfEnable = true ∧ (∀ (e : Nat × Ptn), e ∈ s.ptns → e.snd.exists_ = true → e.snd.vf ≠ vf)) ∧
    (∃ (fn : FnId) (p : PtnId) (s : State),
      Served s fn (fn.val == 0) false ∧ s.ptnCmd.busy = false ∧ (getPtn s p.val).exists_ = true ∧
      (∀ (e : Nat × Ring), e ∈ s.rings → e.snd.assigned = true → e.snd.ptn = p.val → e.snd.cur.enable = false)) ∧
    (∃ (s : State),
      s.ptnCmd.busy = true) ∧
    (∃ (fn : FnId) (p : PtnId) (vf : Nat) (s : State) (c : Instr),
      Served s fn (fn.val == 0) false ∧
      c ∈ [Instr.create fn p, Instr.grow fn p, Instr.shrink fn p, Instr.destroy fn p, Instr.bindVf fn p vf, Instr.unbindVf fn p]) :=
  ⟨⟨0, 3, cmdq 8, by unfold Served; decide +kernel⟩,
    ⟨0, 0, cmdq 8, by unfold Served; decide +kernel⟩,
    ⟨0, 0, cmdq 1, by unfold Served; decide +kernel⟩,
    ⟨0, 0, { b with ctxs := [], rings := [] }, by unfold Served; decide +kernel⟩,
    ⟨0, 1, 2, b, by unfold Served; decide +kernel⟩,
    ⟨0, 0, { b with rings := [] }, by unfold Served; decide +kernel⟩,
    ⟨{ cmdq 8 with ptnCmd := { arg := 8, busy := true, resCode := 3, resInfo := 9 } }, by decide +kernel⟩,
    ⟨0, 0, 0, b, .create 0 0, by unfold Served; decide +kernel⟩⟩

theorem witness_QuotaPoolReserveAndLockedWrites :
    (∃ (fn : FnId) (_p : PtnId) (_t2 : Bool) (_v : Word) (s : State),
      Served s fn (fn.val == 0) false) ∧
    (∃ (fn : FnId) (p : PtnId) (v : Word) (s : State),
      Served s fn (seesPtn s fn.val p.val) false ∧ ptnRuns (getPtn s p.val) = false ∧ (getPtn s p.val).att.poolUsed = [] ∧
      (getPtn s p.val).att.poolBase % 65536 = 0 ∧
      (BitVec.toNat v % 2 ^ 24 = 0 ∨ rangeNear s p.val (getPtn s p.val).att.poolBase (BitVec.toNat v % 2 ^ 24 * 65536) = true)) ∧
    (∃ (fn : FnId) (p : PtnId) (hi : Bool) (v : Word) (s : State),
      Served s fn (seesPtn s fn.val p.val) false ∧ ptnRuns (getPtn s p.val) = false ∧ (getPtn s p.val).att.poolUsed = [] ∧
      (getPtn s p.val).att.poolPages = 0 ∧
      (if hi = true then pair (getPtn s p.val).att.poolBase (BitVec.toNat v) else pair (BitVec.toNat v) ((getPtn s p.val).att.poolBase / 2 ^ 32)) % 65536 = 0) ∧
    (∃ (fn : FnId) (p : PtnId) (_r : PoolReg) (_v : Word) (s : State),
      Served s fn (seesPtn s fn.val p.val) false ∧ ptnRuns (getPtn s p.val) = false ∧ (getPtn s p.val).att.poolUsed ≠ []) ∧
    (∃ (fn : FnId) (c : CtxId) (v : Word) (s : State),
      Served s fn (seesCtx s fn.val c.val) false ∧ (getCtx s c.val).st ≠ CtxSt.disabled ∧ ptnRuns (getPtn s (getCtx s c.val).ptn) = false ∧
      BitVec.toNat v % 2 ^ 24 + (List.map (fun (d : Nat) => (getCtx s d).reserve) (List.filter (fun (d : Nat) => d != c.val) (ctxsOf s (getCtx s c.val).ptn))).sum ≤ (getPtn s (getCtx s c.val).ptn).att.poolPages) ∧
    (∃ (fn : FnId) (c : CtxId) (v : Word) (s : State),
      Served s fn (seesCtx s fn.val c.val) false ∧ (getCtx s c.val).st ≠ CtxSt.disabled ∧ ptnRuns (getPtn s (getCtx s c.val).ptn) = false ∧
      (getPtn s (getCtx s c.val).ptn).att.poolPages < BitVec.toNat v % 2 ^ 24 + (List.map (fun (d : Nat) => (getCtx s d).reserve) (List.filter (fun (d : Nat) => d != c.val) (ctxsOf s (getCtx s c.val).ptn))).sum) ∧
    (∃ (fn : FnId) (p : PtnId) (_r : PoolReg) (_v : Word) (s : State),
      Served s fn (seesPtn s fn.val p.val) false ∧ ptnRuns (getPtn s p.val) = true) ∧
    (∃ (fn : FnId) (c : CtxId) (_v : Word) (s : State),
      Served s fn (seesCtx s fn.val c.val) false ∧ (getCtx s c.val).st ≠ CtxSt.disabled ∧ ptnRuns (getPtn s (getCtx s c.val).ptn) = true) :=
  ⟨⟨0, 0, false, 0, b, by unfold Served; decide +kernel⟩,
    ⟨0, 0, 0, b, by unfold Served; decide +kernel⟩,
    ⟨0, 0, false, 0, b, by unfold Served; decide +kernel⟩,
    ⟨0, 0, .baseLo, 0, bp 0 (fun x => { x with att := { x.att with poolPages := 5, poolUsed := [1] } }), by unfold Served; decide +kernel⟩,
    ⟨0, 0, 0, b, by unfold Served; decide +kernel⟩,
    ⟨0, 0, 1, b, by unfold Served; decide +kernel⟩,
    ⟨0, 0, .baseLo, 0, run0, by unfold Served; decide +kernel⟩,
    ⟨0, 0, 0, run0, by unfold Served; decide +kernel⟩⟩

theorem witness_ContextCommandsAndCommits :
    (∃ (fn : FnId) (c : CtxId) (p : PtnId) (s : State),
      Served s fn (fn.val == 0) false ∧ (getCtx s c.val).st = CtxSt.disabled ∧ (getPtn s p.val).exists_ = true ∧ heldElsewhere s c.val p.val = false) ∧
    (∃ (fn : FnId) (c : CtxId) (s : State),
      Served s fn (fn.val == 0) false ∧ (getCtx s c.val).st = CtxSt.enabled ∧ ctxHolds s c.val = false) ∧
    (∃ (fn : FnId) (c : CtxId) (s : State),
      Served s fn (seesCtx s fn.val c.val) false ∧ (getCtx s c.val).st = CtxSt.enabled ∧ MirrorFree s) ∧
    (∃ (c : CtxId) (r : CtxReset) (s : State),
      isReady s = true ∧ (getCtx s c.val).st = CtxSt.resetting ∧ (getCtx s c.val).reset = some r ∧ r.level = 1 ∧ policyOf s 1283 = 0 ∧ MirrorFree s ∧
      (∀ (n : Nat), n ∈ ringsOfCtx s c.val 0 → ¬(getRing s n).cur.comp ∈ ringsOfCtx s c.val 0)) ∧
    (∃ (fn : FnId) (c : CtxId) (s : State),
      Served s fn (seesCtx s fn.val c.val) false ∧ (getCtx s c.val).st ≠ CtxSt.disabled ∧ ptnRuns (getPtn s (getCtx s c.val).ptn) = true) ∧
    (∃ (fn : FnId) (c : CtxId) (s : State),
      Served s fn (seesCtx s fn.val c.val) false ∧ (getCtx s c.val).st ≠ CtxSt.disabled ∧ ptnRuns (getPtn s (getCtx s c.val).ptn) = false ∧
      (getCtx s c.val).ptn < 32) ∧
    (∃ (fn : FnId) (p : PtnId) (s : State),
      Served s fn (seesPtn s fn.val p.val) false ∧ ptnRuns (getPtn s p.val) = true) ∧
    (∃ (fn : FnId) (p : PtnId) (s : State),
      Served s fn (seesPtn s fn.val p.val) false ∧ ptnRuns (getPtn s p.val) = false) ∧
    (∃ (fn : FnId) (r : RingId) (val : Word) (s : State),
      Served s fn (seesRing s fn.val r.val) false ∧ bit (BitVec.toNat val) 16 = true ∧ (getRing s r.val).assigned = true ∧
      ptnRuns (getPtn s (getRing s r.val).ptn) = true) ∧
    (∃ (fn : FnId) (r : RingId) (val : Word) (s : State),
      Served s fn (seesRing s fn.val r.val) false ∧ bit (BitVec.toNat val) 16 = true ∧ ptnRuns (getPtn s (getRing s r.val).ptn) = false ∧
      ringSetBad s r.val (ringCtlSh (BitVec.toNat val) (getRing s r.val).sh) = false ∧ (ringCtlSh (BitVec.toNat val) (getRing s r.val).sh).enable = true ∧
      (getRing s r.val).cur.enable = false) :=
  ⟨⟨0, 0, 0, { b with ctxs := [], rings := [] }, by unfold Served; decide +kernel⟩,
    ⟨0, 0, { b with rings := [] }, by unfold Served; decide +kernel⟩,
    ⟨0, 0, b, by unfold Served; rw [mirrorFree_iff]; decide +kernel⟩,
    ⟨0, ⟨1, 0x0901, false, []⟩, bc fun x => { x with st := .resetting, reset := some ⟨1, 0x0901, false, []⟩ }, by rw [mirrorFree_iff]; decide +kernel⟩,
    ⟨0, 0, run0, by unfold Served; decide +kernel⟩,
    ⟨0, 0, b, by unfold Served; decide +kernel⟩,
    ⟨0, 0, run0, by unfold Served; decide +kernel⟩,
    ⟨0, 0, b, by unfold Served; decide +kernel⟩,
    ⟨0, 0, 0x10604, run0, by unfold Served; decide +kernel⟩,
    ⟨0, 0, 0x10604, { b with rings := [(0, { ringC with cur := {}, sh := {ringC.cur with enable := false} }), (1, ringK)] }, by unfold Served; decide +kernel⟩⟩

theorem witness_Bar4AccessesReachTheObjectsBytes :
    (∃ (fn : FnId) (a n p : Nat) (s : State),
      barOpen s fn.val = true ∧ isReady s = true ∧ bar4Ptn s fn.val = some p ∧ rangeMapped s p a n = true) ∧
    (∃ (fn : FnId) (a n p : Nat) (s : State),
      barOpen s fn.val = true ∧ isReady s = true ∧ bar4Ptn s fn.val = some p ∧ 0 < n ∧ a % pageBytes + n ≤ pageBytes ∧ objAt s p a = none) ∧
    (∃ (fn : FnId) (_a _n : Nat) (s : State),
      barOpen s fn.val = true ∧ isReady s = false) ∧
    (∃ (fn : FnId) (_a _n : Nat) (s : State),
      barOpen s fn.val = true ∧ isReady s = true ∧ bar4Ptn s fn.val = none) ∧
    (∃ (fn : FnId) (a : Nat) (bs : List Byte) (_ep : Bool) (p o k phys : Nat) (x : Obj) (s : State),
      barOpen s fn.val = true ∧ isReady s = true ∧ bar4Ptn s fn.val = some p ∧ bs ≠ [] ∧ a % pageBytes + bs.length ≤ pageBytes ∧ objAt s p a = some (o, x) ∧
      pageRO s p x a = false ∧ (getPage s p (pageKey o ((a - x.base) / pageBytes))).zero = false ∧ k ≤ 2 ∧
      allCopies s p (getPage s p (pageKey o ((a - x.base) / pageBytes))) = [(k, phys)]) ∧
    (∃ (fn : FnId) (a : Nat) (bs : List Byte) (_ep : Bool) (p o : Nat) (x : Obj) (s : State),
      barOpen s fn.val = true ∧ isReady s = true ∧ bar4Ptn s fn.val = some p ∧ bs ≠ [] ∧ a % pageBytes + bs.length ≤ pageBytes ∧ objAt s p a = some (o, x) ∧
      pageRO s p x a = true) ∧
    (∃ (fn : FnId) (a : Nat) (bs : List Byte) (_ep : Bool) (p : Nat) (s : State),
      barOpen s fn.val = true ∧ isReady s = true ∧ bar4Ptn s fn.val = some p ∧ bs ≠ [] ∧ a % pageBytes + bs.length ≤ pageBytes ∧ objAt s p a = none) :=
  ⟨⟨0, 0, 0, 0, mb, by decide +kernel⟩,
    ⟨0, 0x300000, 1, 0, mb, by decide +kernel⟩,
    ⟨0, 0, 0, { mb with boot := { aon := true, stage := .standby } }, by decide +kernel⟩,
    ⟨1, 0, 4, { mb with ptns := [] }, by decide +kernel⟩,
    ⟨0, 0, [1,2,3,4], false, 0, 5, 1, 3, ((pm0.objs.map (·.2)).get ⟨0, by decide +kernel⟩), mb, by decide +kernel⟩,
    ⟨0, 0x100000, [1,2,3,4], false, 0, 6, ((pm0.objs.map (·.2)).get ⟨1, by decide +kernel⟩), mb, by decide +kernel⟩,
    ⟨0, 0x300000, [1,2,3,4], false, 0, mb, by decide +kernel⟩⟩

theorem witness_DoorbellsAndPlainEntries :
    (∃ (fn : FnId) (r : RingId) (size : Nat) (val : DWord) (s : State),
      Served s fn (seesRing s fn.val r.val) false ∧ (getRing s r.val).cur.enable = true ∧ (getRing s r.val).cur.type = 0 ∧
      diff32 (w32 (BitVec.toNat val)) (getRing s r.val).tail ≤ ringSize (getRing s r.val) ∧
      diff32 (w32 (BitVec.toNat val)) (getRing s r.val).head ≤ ringSize (getRing s r.val) ∧ (∀ (e : Nat × Ring), e ∈ s.rings → e.snd.resets = []) ∧
      (size = 4 ∨ size = 8)) ∧
    (∃ (fn : FnId) (r : RingId) (size : Nat) (val : DWord) (s : State),
      Served s fn (seesRing s fn.val r.val) false ∧ (getRing s r.val).cur.enable = true ∧ (getRing s r.val).cur.type ≠ 0 ∧
      diff32 (w32 (BitVec.toNat val)) (getRing s r.val).head ≤ diff32 (getRing s r.val).tail (getRing s r.val).head ∧
      (∀ (e : Nat × Ring), e ∈ s.rings → e.snd.resets = []) ∧ (∀ (e : Nat × List Byte × Bool), e ∈ (getRing s r.val).resetEnts → e.snd.snd = false) ∧
      (ringFull { getRing s r.val with head := w32 (BitVec.toNat val) } = false ∨ (getRing s r.val).fullNoted = true) ∧ (size = 4 ∨ size = 8)) ∧
    (∃ (fn : FnId) (r : RingId) (size : Nat) (val : DWord) (s : State),
      Served s fn (seesRing s fn.val r.val) false ∧ (getRing s r.val).cur.enable = true ∧ dbOk (getRing s r.val) (w32 (BitVec.toNat val)) = false ∧
      (size = 4 ∨ size = 8)) ∧
    (∃ (fn : FnId) (r : RingId) (size : Nat) (_val : DWord) (s : State),
      Served s fn (seesRing s fn.val r.val) false ∧ (getRing s r.val).cur.enable = false ∧ (size = 4 ∨ size = 8)) ∧
    (∃ (fn : FnId) (off size : Nat) (_val : DWord) (s : State),
      off < 2 ^ 18 ∧ wordAccess off size = false ∧ Served s fn (seesRing s fn.val (off / 8)) false) ∧
    (∃ (fn : FnId) (r : RingId) (s : State),
      Served s fn (seesRing s fn.val r.val) false) ∧
    (∃ (e : Entry) (s : State),
      Runs s e 0) ∧
    (∃ (e : Entry) (s : State),
      Runs s e 1 ∧ (∀ (k : Cmd), k ∈ (getRing s e.ring.val).started → k.gone = true)) ∧
    (∃ (e : Entry) (k : Cmd) (s : State),
      Runs s e 1 ∧ k ∈ (getRing s e.ring.val).started ∧ k.gone = false) ∧
    (∃ (e : Entry) (op : Byte) (s : State),
      canStart s e.ring.val = true ∧ getCmd s e.ring.val (getRing s e.ring.val).head = none ∧ opcodes.contains (BitVec.toNat op) = false) ∧
    (∃ (e : Entry) (s : State),
      canStart s e.ring.val = true ∧ getCmd s e.ring.val (getRing s e.ring.val).head = none ∧ e.hdr ≠ 0) ∧
    (∃ (e : Entry) (s : State),
      canStart s e.ring.val = true ∧ getCmd s e.ring.val (getRing s e.ring.val).head = none ∧ e.hdr = 0 ∧ opsClean 0 e.ops = false) :=
  ⟨⟨0, 0, 4, 1, b, by unfold Served; decide +kernel⟩,
    ⟨0, 1, 8, 0, b, by unfold Served; decide +kernel⟩,
    ⟨0, 0, 4, 0, b, by unfold Served; decide +kernel⟩,
    ⟨0, 0, 4, 0, rs fun x => { x with cur := { x.cur with enable := false } }, by unfold Served; decide +kernel⟩,
    ⟨0, 4, 2, 0, b, by unfold Served; decide +kernel⟩,
    ⟨0, 0, b, by unfold Served; decide +kernel⟩,
    ⟨e0, b, by unfold Runs; decide +kernel⟩,
    ⟨e0, b, by unfold Runs; decide +kernel⟩,
    ⟨e0, cm 0, rs fun x => { x with started := [cm 0 fun c => { c with phase := .done }, cm 0], head := 1, tail := 4 }, by unfold Runs; decide +kernel⟩,
    ⟨e0, 2, b, by decide +kernel⟩,
    ⟨{ e0 with hdr := 1 }, b, by decide +kernel⟩,
    ⟨{ e0 with ops := [0,0,1] ++ List.replicate 11 0 }, b, by decide +kernel⟩⟩

theorem witness_CompletionsTimeoutsAndDmaFailures :
    (∃ (r : RingId) (c : Cmd) (rest : List Cmd) (s : State),
      isReady s = true ∧ (getRing s r.val).started = c :: rest ∧ c.phase = Phase.done ∧ c.gone = false ∧ (getRing s r.val).resets = [] ∧
      policyOf s 1283 = 0 ∧ MirrorFree s ∧ (getRing s r.val).cur.comp ≠ r.val ∧ ringReach s (getRing s r.val).cur.comp = true ∧
      ringFull (getRing s (getRing s r.val).cur.comp) = false ∧
      ((getRing s (getRing s r.val).cur.comp).cur.wb = 0 ∨ (getRing s (getRing s r.val).cur.comp).cur.wb + 4 ≤ (getRing s (getRing s r.val).cur.comp).cur.base + (getRing s (getRing s r.val).cur.comp).tail % ringSize (getRing s (getRing s r.val).cur.comp) * 32 ∨ (getRing s (getRing s r.val).cur.comp).cur.base + (getRing s (getRing s r.val).cur.comp).tail % ringSize (getRing s (getRing s r.val).cur.comp) * 32 + 32 ≤ (getRing s (getRing s r.val).cur.comp).cur.wb)) ∧
    (∃ (r : RingId) (idx : Word) (k : Fin 4) (c : Cmd) (s : State),
      isReady s = true ∧ getCmd s r.val (BitVec.toNat idx) = some c ∧ timed s c k.val = true ∧ policyOf s 1281 = 1 ∧ (getCtx s c.ctx).st = CtxSt.enabled ∧
      MirrorFree s) ∧
    (∃ (r : RingId) (idx : Word) (_f : DmaFail) (s : State),
      isReady s = true ∧ (getRing s r.val).cur.enable = true ∧ resetEntAt (getRing s r.val) (BitVec.toNat idx) ≠ some true ∧ policyOf s 1282 = 1 ∧
      MirrorFree s ∧ (getCtx s (getRing s r.val).cur.ctx).st = CtxSt.enabled) ∧
    (∃ (r : RingId) (idx : Word) (_f : DmaFail) (s : State),
      isReady s = true ∧ (getRing s r.val).cur.enable = true ∧ resetEntAt (getRing s r.val) (BitVec.toNat idx) = some true) :=
  ⟨⟨0, cm 0 fun c => { c with phase := .done }, [], rs fun x => { x with started := [cm 0 fun c => { c with phase := .done }], head := 1 }, by rw [mirrorFree_iff]; decide +kernel⟩,
    ⟨0, 0, 1, mg7, started mg7 (mq 0 [mi 7 0]), by rw [mirrorFree_iff]; decide +kernel⟩,
    ⟨0, 0, ⟨1,false⟩, b, by rw [mirrorFree_iff]; decide +kernel⟩,
    ⟨0, 0, ⟨1,false⟩, rs fun x => { x with resetEnts := [(0, List.replicate 32 0, true)] }, by decide +kernel⟩⟩

theorem witness_ObjectCommandsActOnTheirEntry :
    (∃ (e : Entry) (s : State),
      Runs s e 64 ∧ heldBack s (newCmd s e 64) = false ∧ objSetBad (newCmd s e 64) = false ∧
      objRuleBad s (newCmd s e 64).ptn (objOfOps (newCmd s e 64)) = false ∧ (getObj s (newCmd s e 64).ptn (opf e.ops 2 0 16)).st = ObjSt.free ∧
      (objOfOps (newCmd s e 64)).manifest = 0 ∧ shadowBad s (newCmd s e 64) (objOfOps (newCmd s e 64)) = false ∧
      objOverlap s (newCmd s e 64).ptn (objOfOps (newCmd s e 64)) = false ∧
      canPlace s (newCmd s e 64).ptn (objOfOps (newCmd s e 64)).home (objOfOps (newCmd s e 64)).placeMode (objOfOps (newCmd s e 64)).place (List.range (objOfOps (newCmd s e 64)).pages) = true ∧
      shardsHeld s ≤ 1048576) ∧
    (∃ (e : Entry) (s : State),
      Runs s e 64 ∧ heldBack s (newCmd s e 64) = false ∧ objSetBad (newCmd s e 64) = false ∧
      objRuleBad s (newCmd s e 64).ptn (objOfOps (newCmd s e 64)) = false ∧ (getObj s (newCmd s e 64).ptn (opf e.ops 2 0 16)).st = ObjSt.valid ∧
      (getObj s (newCmd s e 64).ptn (opf e.ops 2 0 16)).ctx = (newCmd s e 64).ctx ∧
      (objOfOps (newCmd s e 64)).manifest = (getObj s (newCmd s e 64).ptn (opf e.ops 2 0 16)).manifest ∧
      shadowBad s (newCmd s e 64) (objOfOps (newCmd s e 64)) = false ∧
      objChanged (objOfOps (newCmd s e 64)) (getObj s (newCmd s e 64).ptn (opf e.ops 2 0 16)) = false) ∧
    (∃ (e : Entry) (s : State),
      Runs s e 64 ∧ heldBack s (newCmd s e 64) = false ∧ objSetBad (newCmd s e 64) = false ∧
      objRuleBad s (newCmd s e 64).ptn (objOfOps (newCmd s e 64)) = false ∧ (getObj s (newCmd s e 64).ptn (opf e.ops 2 0 16)).st = ObjSt.free ∧
      (objOfOps (newCmd s e 64)).manifest = 0 ∧ shadowBad s (newCmd s e 64) (objOfOps (newCmd s e 64)) = false ∧
      objOverlap s (newCmd s e 64).ptn (objOfOps (newCmd s e 64)) = true) ∧
    (∃ (e : Entry) (s : State),
      Runs s e 64 ∧ moverServes s (homeDie s (newCmd s e 64).ptn) = false ∧
      (∀ (k : Nat), k < 8 → k ≠ homeDie s (newCmd s e 64).ptn → (getDie s k).moverQ = [])) ∧
    (∃ (e : Entry) (s : State),
      Runs s e 65 ∧ heldBack s (newCmd s e 65) = false ∧ objGate s (newCmd s e 65) (opf e.ops 2 0 16) = none ∧
      clearBusy s (newCmd s e 65).ptn (opf e.ops 2 0 16) = false ∧
      (∀ (d : Nat), d < 8 → ∀ (i : MoverItem), i ∈ (getDie s d).moverQ → i.whole = false ∧ (i.ring = (newCmd s e 65).ring → i.idx ≠ (newCmd s e 65).idx))) ∧
    (∃ (p : PtnId) (o : ObjId) (s : State),
      (getObj s p.val o.val).st = ObjSt.clearing) ∧
    (∃ (e : Entry) (s : State),
      Runs s e 66 ∧ heldBack s (newCmd s e 66) = false ∧ 0 < opf e.ops 4 0 13 ∧ opf e.ops 4 0 13 ≤ 4096 ∧ opd e.ops 6 % 64 = 0 ∧
      objGate s (newCmd s e 66) (opf e.ops 2 0 16) = none ∧ opf e.ops 3 0 26 + opf e.ops 4 0 13 ≤ (getObj s (newCmd s e 66).ptn (opf e.ops 2 0 16)).pages ∧
      destOk s (newCmd s e 66).ptn (newCmd s e 66).ctx (opd e.ops 6) (64 + 16 * opf e.ops 4 0 13) = true) :=
  ⟨⟨en [(2,0x20),(3,4),(6,0x400000),(8,1)], mb_1, by unfold Runs; decide +kernel⟩,
    ⟨en [(2,5),(3,0x14),(6,0),(8,1)], mb_1, by unfold Runs; decide +kernel⟩,
    ⟨en [(2,0x20),(3,4),(6,0x10000),(8,1)], mb_1, by unfold Runs; decide +kernel⟩,
    ⟨en [(2,0x20),(3,4),(6,0x400000),(8,1)], { mb_1 with flt := { engResets := [⟨.mover 0, [], 0x0901⟩] } }, by unfold Runs; decide +kernel⟩,
    ⟨en [(2,5)], mb_1, by unfold Runs; decide +kernel⟩,
    ⟨0, 5, obm 5 fun x => { x with st := .clearing }, by decide +kernel⟩,
    ⟨en [(2,5),(3,0),(4,2),(6,0x200000)], mb_1, by unfold Runs; decide +kernel⟩⟩

theorem witness_MoverCommandsQueueAndEvict :
    (∃ (e : Entry) (s : State),
      Runs s e 67 ∧ (∀ (d : Nat), d < 8 → (getDie s d).moverQ = []) ∧ heldBack s (newCmd s e 67) = false ∧ rangeBad (newCmd s e 67) = false ∧
      placeValid s (newCmd s e 67).ptn (migTarget (newCmd s e 67)).fst (migTarget (newCmd s e 67)).snd.fst (migTarget (newCmd s e 67)).snd.snd = true ∧
      objGate s (newCmd s e 67) (opf e.ops 2 0 16) = none ∧ opf e.ops 3 0 26 + opf e.ops 4 0 27 ≤ (getObj s (newCmd s e 67).ptn (opf e.ops 2 0 16)).pages ∧
      (∀ (k : Nat), k ∈ pagesOf (newCmd s e 67) → placedAs s (newCmd s e 67).ptn (migTarget (newCmd s e 67)).fst (migTarget (newCmd s e 67)).snd.fst (migTarget (newCmd s e 67)).snd.snd k (getPage s (newCmd s e 67).ptn (pageKey (opf e.ops 2 0 16) k)) = false ∧ (fun (k : Nat) => match readCopy s (newCmd s e 67).ptn (getPage s (newCmd s e 67).ptn (pageKey (opf e.ops 2 0 16) k)) none with | some x => dieOfCopy x.fst x.snd | none => homeDie s (newCmd s e 67).ptn) k < 8)) ∧
    (∃ (e : Entry) (s : State),
      Runs s e 69 ∧ (∀ (d : Nat), d < 8 → (getDie s d).moverQ = []) ∧ heldBack s (newCmd s e 69) = false ∧ opd e.ops 6 % 4096 = 0 ∧ 0 < opf e.ops 4 0 17 ∧
      objGate s (newCmd s e 69) (opf e.ops 2 0 16) = none ∧
      opf e.ops 3 0 16 + opf e.ops 4 0 17 ≤ (getObj s (newCmd s e 69).ptn (opf e.ops 2 0 16)).shards.length ∧
      (∀ (i : Nat), i ∈ List.map (fun (i : Nat) => opf e.ops 3 0 16 + i) (List.range (opf e.ops 4 0 17)) → Option.map (fun (h : Shard) => h.st) (getObj s (newCmd s e 69).ptn (opf e.ops 2 0 16)).shards[i]? ≠ some ShardSt.verified)) ∧
    (∃ (e : Entry) (s : State),
      Runs s e 70 ∧ (∀ (d : Nat), d < 8 → (getDie s d).moverQ = []) ∧ heldBack s (newCmd s e 70) = false ∧
      objGate s (newCmd s e 70) (opf e.ops 2 0 16) = none ∧ (getObj s (newCmd s e 70).ptn (opf e.ops 2 0 16)).shards ≠ []) ∧
    (∃ (e : Entry) (s : State),
      Runs s e 68 ∧ (∀ (d : Nat), d < 8 → (getDie s d).moverQ = [] ∧ moverServes s d = true) ∧ rangeBad (newCmd s e 68) = false ∧
      objGate s (newCmd s e 68) (opf e.ops 2 0 16) = none ∧ opf e.ops 3 0 26 + opf e.ops 4 0 27 ≤ (getObj s (newCmd s e 68).ptn (opf e.ops 2 0 16)).pages ∧
      (∀ (j : Nat), j ∈ pagesOf (newCmd s e 68) → ([0, 1, 2].any fun (u : Nat) => u != opf e.ops 5 0 2 && hasCopy (getPage s (newCmd s e 68).ptn (pageKey (opf e.ops 2 0 16) j)) u) = true ∧ ∀ (x : Nat × Nat), x ∈ allCopies s (newCmd s e 68).ptn (getPage s (newCmd s e 68).ptn (pageKey (opf e.ops 2 0 16) j)) → dieOfCopy x.fst x.snd < 8)) :=
  ⟨⟨en [(2,5),(3,0),(4,1),(5,2)], mb_1, by unfold Runs; decide +kernel⟩,
    ⟨en [(2,8),(3,0),(4,1),(6,0x1000)], mb_1, by unfold Runs; decide +kernel⟩,
    ⟨en [(2,8)], mb_1, by unfold Runs; decide +kernel⟩,
    ⟨en [(2,5),(3,0),(4,1),(5,2)], mb_1, by unfold Runs; decide +kernel⟩⟩

theorem witness_FinishedPagesAndShards :
    (∃ (p : PtnId) (o : ObjId) (page d : Nat) (i : MoverItem) (k : Cmd) (src : Nat × Nat) (s : State),
      i.ptn = p.val ∧ i.obj = o.val ∧ i.unit = page ∧ i.whole = false ∧ d < 8 ∧ moverServes s d = true ∧ (getDie s d).moverQ = [i] ∧
      (∀ (q : Nat), q < 8 → q ≠ d → (getDie s q).moverQ = []) ∧ List.find? (fun (k : Cmd) => k.idx == i.idx) (getRing s i.ring).started = some k ∧
      k.gone = false ∧ k.opcode = 67 ∧ k.todo = [page] ∧ k.phase = Phase.running ∧ k.status = 0 ∧ k.failed = 0 ∧ (migTarget k).fst ≤ 2 ∧
      ((migTarget k).snd.fst = 3 → (migTarget k).fst = 0 ∧ qtrsOf s p.val ≠ []) ∧
      canPlace s p.val (migTarget k).fst (migTarget k).snd.fst (migTarget k).snd.snd [page] = true ∧
      readCopy s p.val (getPage s p.val (pageKey o.val page)) none = some src) ∧
    (∃ (p : PtnId) (o : ObjId) (shard d : Nat) (i : MoverItem) (k : Cmd) (h : Shard) (_data : List DmaLine) (s : State),
      policyOf s 1028 = 0 ∧ MirrorFree s ∧ i.ptn = p.val ∧ i.obj = o.val ∧ i.unit = shard ∧ i.whole = false ∧ d < 8 ∧ moverServes s d = true ∧
      (getDie s d).moverQ = [i] ∧ (∀ (q : Nat), q < 8 → q ≠ d → (getDie s q).moverQ = []) ∧ getCmd s i.ring i.idx = some k ∧ k.opcode = 69 ∧
      k.todo = [shard] ∧ k.phase = Phase.running ∧ k.status = 0 ∧ getShard s p.val o.val shard = some h ∧ canDma s (ptnFn s p.val) = true ∧
      canPlace s p.val (getObj s p.val o.val).home (getObj s p.val o.val).placeMode (getObj s p.val o.val).place (homeless s p.val o.val h) = true) ∧
    (∃ (p : PtnId) (o : ObjId) (shard d : Nat) (i : MoverItem) (k : Cmd) (h : Shard) (s : State),
      policyOf s 1028 = 0 ∧ MirrorFree s ∧ i.ptn = p.val ∧ i.obj = o.val ∧ i.unit = shard ∧ i.whole = false ∧ d < 8 ∧ moverServes s d = true ∧
      (getDie s d).moverQ = [i] ∧ (∀ (q : Nat), q < 8 → q ≠ d → (getDie s q).moverQ = []) ∧ getCmd s i.ring i.idx = some k ∧ k.opcode = 70 ∧
      k.todo = [shard] ∧ k.phase = Phase.running ∧ k.status = 0 ∧ getShard s p.val o.val shard = some h) ∧
    (∃ (p : PtnId) (o : ObjId) (shard : Nat) (h : Shard) (s : State),
      policyOf s 1028 = 0 ∧ isReady s = true ∧ getShard s p.val o.val shard = some h ∧ nextRecheck s (shard % 8) = some (p.val, o.val, shard) ∧
      noVerify s (shard % 8) = true ∧ moverServes s (shard % 8) = true) :=
  ⟨⟨0, 7, 0, 0, mi 7 0, mg7, (0,9), started mg7 (mq 0 [mi 7 0]), by decide +kernel⟩,
    ⟨0, 8, 0, 3, mi 8 0, ink, sh0, [], started ink (mq 3 [mi 8 0]), by rw [mirrorFree_iff]; decide +kernel⟩,
    ⟨0, 8, 0, 3, mi 8 0, vfy, sh0, started vfy (mq 3 [mi 8 0]), by rw [mirrorFree_iff]; decide +kernel⟩,
    ⟨0, 8, 0, sh0, obm 8 (fun x => { x with recheck := true }), by decide +kernel⟩⟩

theorem witness_ScrubsAndMemoryErrors :
    (∃ (s : State),
      isReady s = true ∧ s.mem.scrubInt ≠ 0 ∧ s.mem.scrubRate ≠ 0 ∧ s.mem.scrubOn = false ∧ verifiedShards s ≠ []) ∧
    (∃ (s : State),
      isReady s = true ∧ s.mem.scrubInt ≠ 0 ∧ s.mem.scrubRate ≠ 0 ∧ s.mem.scrubOn = true) ∧
    (∃ (s : State),
      isReady s = true ∧ (s.mem.scrubInt = 0 ∨ s.mem.scrubRate = 0)) ∧
    (∃ (s : State),
      isReady s = true ∧ s.mem.scrubInt ≠ 0 ∧ s.mem.scrubRate ≠ 0 ∧ s.mem.scrubOn = false ∧ s.mem.scrubDue = false ∧ verifiedShards s = []) ∧
    (∃ (p : PtnId) (o : ObjId) (i : Nat) (h : Shard) (s : State),
      isReady s = true ∧ s.mem.scrubOn = true ∧ (p.val, o.val, i) ∈ s.mem.scrubLeft ∧ getShard s p.val o.val i = some h ∧ h.st ≠ ShardSt.verified ∧
      (∃ (e : Nat × Nat × Nat), e ∈ s.mem.scrubLeft ∧ e ≠ (p.val, o.val, i))) ∧
    (∃ (p : PtnId) (o : ObjId) (i : Nat) (h : Shard) (s : State),
      policyOf s 1028 = 0 ∧ isReady s = true ∧ s.mem.scrubOn = true ∧ (p.val, o.val, i) ∈ s.mem.scrubLeft ∧ getShard s p.val o.val i = some h ∧
      h.st = ShardSt.verified) ∧
    (∃ (tier : Tier) (phys : Nat) (_line : Fin 1024) (s : State),
      switchedUp s = true ∧
      (List.filter (fun (x : Nat) => decide (s.time - x < 86400 * 100000000)) (tget [] s.mem.ceCount (tierNo tier * 2 ^ 32 + phys))).length < 15) ∧
    (∃ (tier : Tier) (phys : Nat) (_line : Fin 1024) (s : State),
      switchedUp s = true ∧ policyOf s 1031 = 0 ∧
      15 ≤ (List.filter (fun (x : Nat) => decide (s.time - x < 86400 * 100000000)) (tget [] s.mem.ceCount (tierNo tier * 2 ^ 32 + phys))).length) ∧
    (∃ (_tier : Tier) (_phys : Nat) (_line : Fin 1024) (s : State),
      switchedUp s = true ∧ policyOf s 1030 = 0 ∧ policyOf s 1031 = 0) :=
  ⟨⟨obm 8 (fun x => { x with shards := [{ sh0 with st := .verified }] }), by decide +kernel⟩,
    ⟨{ obm 8 (fun x => { x with shards := [{ sh0 with st := .verified }] }) with mem := { (mb_1).mem with scrubOn := true, scrubLeft := [(0,8,0)] } }, by decide +kernel⟩,
    ⟨{ mb_1 with mem := { (mb_1).mem with scrubRate := 0 } }, by decide +kernel⟩,
    ⟨mb_1, by decide +kernel⟩,
    ⟨0, 8, 0, sh0, { obm 8 (fun x => { x with shards := [sh0] }) with mem := { (mb_1).mem with scrubOn := true, scrubLeft := [(0,8,0),(0,8,1)] } }, by decide +kernel⟩,
    ⟨0, 8, 0, {sh0 with st := .verified}, { obm 8 (fun x => { x with shards := [{ sh0 with st := .verified }] }) with mem := { (mb_1).mem with scrubOn := true, scrubLeft := [(0,8,0)] } }, by decide +kernel⟩,
    ⟨.t0, 0, 0, mb_1, by decide +kernel⟩,
    ⟨.t1, 3, 0, { mb_1 with mem := { (mb_1).mem with ceCount := [(4294967296+3, List.replicate 15 999999)] } }, by decide +kernel⟩,
    ⟨.t0, 0, 0, mb_1, by decide +kernel⟩⟩

theorem witness_InstallRemoveAndLoadBegin :
    (∃ (fn : FnId) (p : PtnId) (slot : SlotId) (s : State),
      Served s fn (seesPtn s fn.val p.val) false ∧ (getPtn s p.val).exists_ = true ∧ (getPtn s p.val).fig.cmd = none ∧
      (getPtn s p.val).fig.st ∈ [FigSt.empty, FigSt.ready, FigSt.running] ∧ (getSlot s p.val slot.val).st ∈ [SlotState.empty, SlotState.invalid] ∧
      (getPtn s p.val).fig.instAddr % 64 = 0 ∧ rangeNear s p.val (getPtn s p.val).fig.instAddr (max 1 (getPtn s p.val).fig.instSize) = true) ∧
    (∃ (fn : FnId) (p : PtnId) (slot : SlotId) (s : State),
      Served s fn (seesPtn s fn.val p.val) false ∧ (getPtn s p.val).exists_ = true ∧ (getPtn s p.val).fig.cmd = none ∧ slotLoaded s p.val slot.val = false) ∧
    (∃ (fn : FnId) (p : PtnId) (slot : SlotId) (f : Figure) (s : State),
      Served s fn (seesPtn s fn.val p.val) false ∧ (getPtn s p.val).exists_ = true ∧ (getPtn s p.val).fig.cmd = none ∧
      (getPtn s p.val).fig.st ∈ [FigSt.empty, FigSt.ready] ∧ loadCheck s p.val slot.val = Except.ok f) ∧
    (∃ (fn : FnId) (p : PtnId) (slot : SlotId) (code info : Nat) (s : State),
      Served s fn (seesPtn s fn.val p.val) false ∧ (getPtn s p.val).exists_ = true ∧ (getPtn s p.val).fig.cmd = none ∧
      (getPtn s p.val).fig.st ∈ [FigSt.empty, FigSt.ready] ∧ (getSlot s p.val slot.val).st = SlotState.valid ∧
      loadCheck s p.val slot.val = Except.error (code, info)) :=
  ⟨⟨0, 0, 0, mb_1, by unfold Served; decide +kernel⟩,
    ⟨0, 0, 0, mb_1, by unfold Served; decide +kernel⟩,
    ⟨0, 0, 1, fg, slt, by unfold Served; decide +kernel⟩,
    ⟨0, 0, 1, 18, 0, fig (fun x => { x with slots := slots1, useChain := true }), by unfold Served; decide +kernel⟩⟩

theorem witness_StartDrainSwitchAndRefusals :
    (∃ (fn : FnId) (p : PtnId) (s : State),
      Served s fn (seesPtn s fn.val p.val) false ∧ (getPtn s p.val).exists_ = true ∧ (getPtn s p.val).fig.cmd = none ∧
      (getPtn s p.val).fig.st = FigSt.ready ∧ (getPtn s p.val).fe.mode = FeMode.idle ∧ (getPtn s p.val).fe.queue = [] ∧ (getPtn s p.val).fe.saved = []) ∧
    (∃ (fn : FnId) (p : PtnId) (s : State),
      Served s fn (seesPtn s fn.val p.val) false ∧ (getPtn s p.val).exists_ = true ∧ (getPtn s p.val).fig.cmd = none ∧
      (getPtn s p.val).fig.st = FigSt.running) ∧
    (∃ (fn : FnId) (p : PtnId) (slot : SlotId) (s : State),
      Served s fn (seesPtn s fn.val p.val) false ∧ (getPtn s p.val).exists_ = true ∧ (getPtn s p.val).fig.cmd = none ∧
      (getPtn s p.val).fig.st = FigSt.running ∧ (getSlot s p.val slot.val).st = SlotState.valid) ∧
    (∃ (fn : FnId) (p : PtnId) (slot : SlotId) (s : State) (c : Instr × FigOp × Nat),
      Served s fn (seesPtn s fn.val p.val) false ∧
      c ∈ [(Instr.install fn p slot, FigOp.install, slot.val), (Instr.remove fn p slot, FigOp.remove, slot.val), (Instr.load fn p slot, FigOp.load, slot.val), (Instr.start fn p, FigOp.start, 0), (Instr.drain fn p, FigOp.drain, 0), (Instr.switch fn p slot, FigOp.switch, slot.val)] ∧
      (figStateBad s p.val c.snd.snd c.snd.fst = true ∨ figSlotBad s p.val c.snd.snd c.snd.fst (getPtn s p.val).fig.instAddr (getPtn s p.val).fig.instSize = true)) :=
  ⟨⟨0, 0, rdy0, by unfold Served; decide +kernel⟩,
    ⟨0, 0, run0_1, by unfold Served; decide +kernel⟩,
    ⟨0, 0, 1, run0_1, by unfold Served; decide +kernel⟩,
    ⟨0, 0, 0, mb_1, (.start 0 0, .start, 0), by unfold Served; decide +kernel⟩⟩

theorem witness_FigureOpcodesActForTheirRing :
    (∃ (e : Entry) (s : State) (c : Instr × Nat),
      c ∈ [(Instr.figInstall e, 16), (Instr.figRemove e, 17), (Instr.figLoad e, 18), (Instr.figStart e, 19), (Instr.figDrain e, 20), (Instr.figSwitch e, 21)] ∧
      Runs s e c.snd ∧ (getCtx s (newCmd s e c.snd).ctx).cur.figOps = false) ∧
    (∃ (e : Entry) (s : State),
      Runs s e 16 ∧ (getCtx s (newCmd s e 16).ctx).cur.figOps = true ∧ figStateBad s (newCmd s e 16).ptn (opf e.ops 2 0 3) FigOp.install = false ∧
      figSlotBad s (newCmd s e 16).ptn (opf e.ops 2 0 3) FigOp.install (opd e.ops 4) (opw e.ops 6) = false) ∧
    (∃ (e : Entry) (s : State),
      Runs s e 17 ∧ (getCtx s (newCmd s e 17).ctx).cur.figOps = true ∧ figStateBad s (newCmd s e 17).ptn (opf e.ops 2 0 3) FigOp.remove = false ∧
      slotLoaded s (newCmd s e 17).ptn (opf e.ops 2 0 3) = false) ∧
    (∃ (e : Entry) (f : Figure) (s : State),
      Runs s e 18 ∧ (getCtx s (newCmd s e 18).ctx).cur.figOps = true ∧ figStateBad s (newCmd s e 18).ptn (opf e.ops 2 0 3) FigOp.load = false ∧
      loadCheck s (newCmd s e 18).ptn (opf e.ops 2 0 3) = Except.ok f) ∧
    (∃ (e : Entry) (s : State),
      Runs s e 19 ∧ (getCtx s (newCmd s e 19).ctx).cur.figOps = true ∧ figStateBad s (newCmd s e 19).ptn 0 FigOp.start = false ∧
      (getPtn s (newCmd s e 19).ptn).fe.mode = FeMode.idle ∧ (getPtn s (newCmd s e 19).ptn).fe.queue = [] ∧ (getPtn s (newCmd s e 19).ptn).fe.saved = []) ∧
    (∃ (e : Entry) (s : State),
      Runs s e 20 ∧ (getCtx s (newCmd s e 20).ctx).cur.figOps = true ∧ figStateBad s (newCmd s e 20).ptn 0 FigOp.drain = false) ∧
    (∃ (e : Entry) (s : State),
      Runs s e 21 ∧ (getCtx s (newCmd s e 21).ctx).cur.figOps = true ∧ figStateBad s (newCmd s e 21).ptn (opf e.ops 2 0 3) FigOp.switch = false ∧
      (getSlot s (newCmd s e 21).ptn (opf e.ops 2 0 3)).st = SlotState.valid) :=
  ⟨⟨en [], rdy0_1 { mb_1 with ctxs := [(0, { st := .enabled })] }, (Instr.figInstall (en []), 0x10), by unfold Runs; decide +kernel⟩,
    ⟨en [], mb_1, by unfold Runs; decide +kernel⟩,
    ⟨en [], mb_1, by unfold Runs; decide +kernel⟩,
    ⟨en [(2,1)], fg, slt, by unfold Runs; decide +kernel⟩,
    ⟨en [], rdy0_1, by unfold Runs; decide +kernel⟩,
    ⟨en [], run0_2, by unfold Runs; decide +kernel⟩,
    ⟨en [(2,1)], run0_2, by unfold Runs; decide +kernel⟩⟩

theorem witness_InstallsLoadsAndDrainsEnd :
    (∃ (p : PtnId) (c : FigCmd) (s : State),
      isReady s = true ∧ (getPtn s p.val).fig.cmd = some c ∧ c.op = FigOp.install) ∧
    (∃ (p : PtnId) (c : FigCmd) (f : Figure) (s : State),
      isReady s = true ∧ (getPtn s p.val).fig.cmd = some c ∧ (getPtn s p.val).fig.st = FigSt.loading ∧ c.op = FigOp.load ∧
      (getSlot s p.val c.slot).fig = some f) ∧
    (∃ (p : PtnId) (c : FigCmd) (f : Figure) (s : State),
      isReady s = true ∧ (getPtn s p.val).fig.cmd = some c ∧ (getPtn s p.val).fig.st = FigSt.loading ∧ c.op = FigOp.switch ∧
      (getSlot s p.val c.slot).fig = some f ∧ (getPtn s p.val).fe.mode = FeMode.idle ∧ (getPtn s p.val).fe.queue = [] ∧ (getPtn s p.val).fe.saved = []) ∧
    (∃ (p : PtnId) (c : FigCmd) (s : State),
      isReady s = true ∧ (getPtn s p.val).fig.cmd = some c ∧ c.op = FigOp.drain ∧ (getPtn s p.val).fig.st = FigSt.draining ∧ drained s p.val = true ∧
      (getPtn s p.val).fig.staged = none) ∧
    (∃ (p : PtnId) (c : FigCmd) (s : State),
      isReady s = true ∧ (getPtn s p.val).fig.cmd = some c ∧ c.op = FigOp.switch ∧ (getPtn s p.val).fig.st = FigSt.draining ∧ drained s p.val = true ∧
      (getPtn s p.val).fig.staged = none) ∧
    (∃ (p : PtnId) (_buffers : Nat) (s : State),
      isReady s = true ∧ (getPtn s p.val).fig.st = FigSt.draining ∧ (getPtn s p.val).exists_ = true ∧ (getPtn s p.val).reset = none ∧
      (getPtn s p.val).fig.cmd = some { op := FigOp.drain, slot := 0, back := FigSt.running, by_ := none } ∧ (getPtn s p.val).fe.run = none ∧
      policyOf s 515 = 3) :=
  ⟨⟨0, { op := (FigOp.install), slot := 1, back := .running, by_ := none }, wcmd .install .ready (fig (fun x => { x with slots := [(1, vst)] })), by decide +kernel⟩,
    ⟨0, { op := .load, slot := 1, back := .running, by_ := none }, fg_1, wcmd .load .loading slt_1, by decide +kernel⟩,
    ⟨0, { op := .switch, slot := 1, back := .running, by_ := none }, fg_1, wcmd .switch .loading slt_1, by decide +kernel⟩,
    ⟨0, { op := .drain, slot := 1, back := .running, by_ := none }, wcmd .drain .draining run0_1, by decide +kernel⟩,
    ⟨0, { op := .switch, slot := 1, back := .running, by_ := none }, wcmd .switch .draining run0_1, by decide +kernel⟩,
    ⟨0, 0, fig (fun x => { x with cmd := some {op := .drain, slot := 0, back := .running, by_ := none}}) (wcmd .drain .draining run0_1), by decide +kernel⟩⟩

theorem witness_FigCommitAndTheRoundBoundary :
    (∃ (fn : FnId) (p : PtnId) (s : State),
      Served s fn (seesPtn s fn.val p.val) false ∧ ptnRuns (getPtn s p.val) = true) ∧
    (∃ (fn : FnId) (p : PtnId) (s : State),
      Served s fn (seesPtn s fn.val p.val) false ∧ ptnRuns (getPtn s p.val) = false ∧ (getPtn s p.val).figure = none ∧
      settingRefused s p.val (getPtn s p.val).fig.sh.div = none) ∧
    (∃ (p : PtnId) (s : State),
      isReady s = true ∧ ptnRuns (getPtn s p.val) = true ∧ mirroring (getPtn s p.val) = false ∧ c1Runs s p.val = true ∧ (getPtn s p.val).fe.run = none ∧
      (getPtn s p.val).fig.staged = none) :=
  ⟨⟨0, 0, run0_1, by unfold Served; decide +kernel⟩,
    ⟨0, 0, mb_1, by unfold Served; decide +kernel⟩,
    ⟨0, run0_1, by decide +kernel⟩⟩

theorem witness_StreamsBarriersAndJoins :
    (∃ (p : PtnId) (c i k : Nat) (f : Flit) (g : Figure) (s : State),
      isReady s = true ∧ ptnRuns (getPtn s p.val) = true ∧ (getPtn s p.val).figure = some g ∧ c1Runs s p.val = true ∧ f.epoch = (getPtn s p.val).fig.epoch ∧
      (∀ (r : Running), (getPtn s p.val).fe.run = some r → f.ctx = r.ctx) ∧ i < stepCount g c ∧ 0 < bufRoom g s p.val c (inputPat (coreStep g c i) k)) ∧
    (∃ (p : PtnId) (_c _i _k : Nat) (f : Flit) (s : State),
      isReady s = true ∧ ptnRuns (getPtn s p.val) = true ∧ f.epoch ≠ (getPtn s p.val).fig.epoch ∧ mirroring (getPtn s p.val) = false ∧
      c1Runs s p.val = true ∧ policyOf s 514 = 0) ∧
    (∃ (p : PtnId) (_c _i _k : Nat) (f : Flit) (r : Running) (s : State),
      isReady s = true ∧ ptnRuns (getPtn s p.val) = true ∧ (getPtn s p.val).exists_ = true ∧ c1Runs s p.val = true ∧ (getPtn s p.val).reset = none ∧
      f.epoch = (getPtn s p.val).fig.epoch ∧ (getPtn s p.val).fe.run = some r ∧ f.ctx ≠ r.ctx ∧ policyOf s 516 = 3) ∧
    (∃ (p : PtnId) (k : Fin 65536) (e : Rt) (s : State),
      isReady s = true ∧ rtOf s p.val = some e ∧ c1Runs s p.val = true ∧ k.val = (getPtn s p.val).fig.epoch ∧
      (getPtn s p.val).barrier < barriersDone e.f (runSteps e none (some (getPtn s p.val).barrier) (roundFuel e.f) s) p.val) ∧
    (∃ (p : PtnId) (k : Fin 65536) (e : Rt) (s : State),
      isReady s = true ∧ rtOf s p.val = some e ∧ c1Runs s p.val = true ∧ k.val = (getPtn s p.val).fig.epoch ∧
      barriersDone e.f (runSteps e none (some (getPtn s p.val).barrier) (roundFuel e.f) s) p.val ≤ (getPtn s p.val).barrier) ∧
    (∃ (p : PtnId) (k : Fin 65536) (s : State),
      isReady s = true ∧ ptnRuns (getPtn s p.val) = true ∧ mirroring (getPtn s p.val) = false ∧ c1Runs s p.val = true ∧ k.val ≠ (getPtn s p.val).fig.epoch ∧
      policyOf s 514 = 0) ∧
    (∃ (p : PtnId) (core join q : Nat) (f : Figure) (s : State),
      isReady s = true ∧ ptnRuns (getPtn s p.val) = true ∧ (getPtn s p.val).figure = some f ∧ mirroring (getPtn s p.val) = false ∧ c1Runs s p.val = true ∧
      joinStarved f s p.val core join = true ∧ (getPtn s p.val).flt.snapFull = false ∧ (getPtn s p.val).flt.snapNamed = false ∧
      (figQtrs s p.val)[core / 2560]? = some q ∧ policyOf s 513 = 0) ∧
    (∃ (p : PtnId) (s : State),
      isReady s = true ∧ ptnRuns (getPtn s p.val) = true ∧ c1Runs s p.val = true ∧ (getPtn s p.val).flt.qsEnable = true ∧
      ownWritable s p.val (getPtn s p.val).flt.cur.qsObj 64 = true ∧
      ownWritable s p.val (getPtn s p.val).flt.cur.qsObj (64 * ((getPtn s p.val).flt.qsNext % ((getObj s p.val (getPtn s p.val).flt.cur.qsObj).pages * pageBytes / 64)) + 64) = true) :=
  ⟨⟨0, 0, 0, 0, fl, fg_2, bp 0 (fun x => { x with flt := { x.flt with qsEnable := true, cur := { x.flt.cur with qsObj := 5 } } }) (run0_3 mb), by decide +kernel⟩,
    ⟨0, 0, 0, 0, {fl with epoch := 3}, bp 0 (fun x => { x with flt := { x.flt with qsEnable := true, cur := { x.flt.cur with qsObj := 5 } } }) (run0_3 mb), by decide +kernel⟩,
    ⟨0, 0, 0, 0, fl, {rn with ctx := 3}, bp 0 (fun x => { x with fe := { x.fe with mode := .run, run := some {rn with ctx := 3} } }) run0_3, by decide +kernel⟩,
    ⟨0, 0, (rtOf (bp 0 (fun x => { x with fe := { x.fe with mode := .run, run := some rn } }) run0_3) 0).get (by decide +kernel), bp 0 (fun x => { x with fe := { x.fe with mode := .run, run := some rn } }) run0_3, by decide +kernel⟩,
    ⟨0, 0, (rtOf (bp 0 (fun x => { x with fe := { x.fe with mode := .run, run := some rn }, barrier := 1, cores := [(0, {bufs := [(0,[fl])]})] }) run0_3) 0).get (by decide +kernel), bp 0 (fun x => { x with fe := { x.fe with mode := .run, run := some rn }, barrier := 1, cores := [(0, {bufs := [(0,[fl])]})] }) run0_3, by decide +kernel⟩,
    ⟨0, 7, run0_3, by decide +kernel⟩,
    ⟨0, 0, 0, 0, fgJ, bp 0 (fun x => { x with figure := some fgJ, cores := [(0, { bufs := [(1, [fl])] })] }) (run0_3 mb), by decide +kernel⟩,
    ⟨0, bp 0 (fun x => { x with flt := { x.flt with qsEnable := true, cur := { x.flt.cur with qsObj := 5 } } }) (run0_3 mb), by decide +kernel⟩⟩

theorem witness_StartUpFollowsTheStageTable :
    (∃ (_slot : Fin 16) (s : State),
      s.boot.aon = false) ∧
    (∃ (s : State),
      s.boot.aon = true ∧ s.boot.stage ∈ [Stage.rom, Stage.verify] ∧ leNat (mread s.boot.flash 12 4) ≤ 8388608) ∧
    (∃ (s : State),
      s.boot.aon = true ∧ s.boot.stage = Stage.standby) ∧
    (∃ (s : State),
      s.boot.stage = Stage.powerUp ∧ (∀ (d : Nat), d < 8 → (getDie s d).pll = true)) ∧
    (∃ (s : State),
      s.boot.stage = Stage.training) ∧
    (∃ (_e : TrainPart) (s : State),
      s.boot.stage = Stage.training) ∧
    (∃ (s : State),
      s.boot.stage = Stage.init) :=
  ⟨⟨0, off, by decide +kernel⟩,
    ⟨at_ .rom aonOnly, by decide +kernel⟩,
    ⟨at_ .standby aonOnly, by decide +kernel⟩,
    ⟨at_ .powerUp b, by decide +kernel⟩,
    ⟨at_ .training b, by decide +kernel⟩,
    ⟨.hbm 0, at_ .training b, by decide +kernel⟩,
    ⟨at_ .init b, by decide +kernel⟩⟩

theorem witness_RepairSetsTheCoreMapsAndQuarters :
    ∃ (_found : List SelfTest) (s : State),
      s.boot.stage ∈ [Stage.repair, Stage.resetting] ∧ policyOf s 257 = 0 :=
  ⟨[], at_ .repair up, by decide +kernel⟩

theorem witness_PinsAndPowerActByStage :
    (∃ (s : State),
      s.boot.stage = Stage.ready ∧ policyOf s 2306 = 4) ∧
    (∃ (s : State),
      s.boot.stage ∈ [Stage.powerUp, Stage.repair, Stage.training, Stage.init]) ∧
    (∃ (s : State),
      s.boot.aon = true ∧ s.boot.stage ∈ [Stage.rom, Stage.verify, Stage.recoveryWait, Stage.standby, Stage.failed, Stage.resetting]) ∧
    (∃ (s : State),
      s.boot.aon = true ∧ s.boot.stage ∈ [Stage.powerUp, Stage.repair, Stage.training, Stage.init, Stage.ready, Stage.resetting, Stage.failed]) ∧
    (∃ (s : State),
      s.boot.aon = true ∧ s.boot.stage ∈ [Stage.rom, Stage.verify, Stage.recoveryWait, Stage.standby]) ∧
    (∃ (s : State),
      switchedUp s = true ∧ policyOf s 2056 = 5) ∧
    (∃ (s : State),
      s.boot.flashBusy = true) :=
  ⟨⟨b, by decide +kernel⟩,
    ⟨at_ .powerUp up, by decide +kernel⟩,
    ⟨up, by decide +kernel⟩,
    ⟨at_ .powerUp up, by decide +kernel⟩,
    ⟨up, by decide +kernel⟩,
    ⟨at_ .powerUp up, by decide +kernel⟩,
    ⟨{ b with boot := { b.boot with flashBusy := true, sram := [(1,2)] } }, by decide +kernel⟩⟩

theorem witness_PlanAndMapBindingsStartAndEnd :
    (∃ (fn : FnId) (p : PtnId) (slot : SlotId) (s : State) (bind : Bool),
      Served s fn (seesPtn s fn.val p.val) false ∧ (getPtn s p.val).units.binding = none ∧ (bind = true ∨ bindRefused s p.val slot.val = false)) ∧
    (∃ (fn : FnId) (p : PtnId) (slot : SlotId) (s : State),
      Served s fn (seesPtn s fn.val p.val) false ∧ (getPtn s p.val).units.binding = none ∧ bindRefused s p.val slot.val = true) ∧
    (∃ (p : PtnId) (b : Binding) (s : State),
      isReady s = true ∧ (getPtn s p.val).units.binding = some b ∧ b.bind = true) ∧
    (∃ (p : PtnId) (b : Binding) (s : State),
      isReady s = true ∧ (getPtn s p.val).units.binding = some b ∧ b.bind = false ∧ bindRefused s p.val b.slot = false) ∧
    (∃ (fn : FnId) (p : PtnId) (slot : SlotId) (s : State) (bind : Bool),
      Served s fn (seesPtn s fn.val p.val) false ∧ (getPtn s p.val).att.binding = none ∧ (bind = true ∨ bindRefused s p.val slot.val = false)) ∧
    (∃ (fn : FnId) (p : PtnId) (slot : SlotId) (s : State),
      Served s fn (seesPtn s fn.val p.val) false ∧ (getPtn s p.val).att.binding = none ∧ bindRefused s p.val slot.val = true) ∧
    (∃ (p : PtnId) (b : Binding) (s : State),
      isReady s = true ∧ (getPtn s p.val).att.binding = some b ∧ b.bind = true) ∧
    (∃ (p : PtnId) (b : Binding) (s : State),
      isReady s = true ∧ (getPtn s p.val).att.binding = some b ∧ b.bind = false ∧ bindRefused s p.val b.slot = false) :=
  ⟨⟨0, 0, 1, pl, false, by unfold Served; decide +kernel⟩,
    ⟨0, 0, 0, b, by unfold Served; decide +kernel⟩,
    ⟨0, ⟨1, true, 0, 80, false⟩, bnd 1 true pl, by decide +kernel⟩,
    ⟨0, ⟨1, false, 0, 80, false⟩, bnd 1 false pl, by decide +kernel⟩,
    ⟨0, 0, 1, pl, false, by unfold Served; decide +kernel⟩,
    ⟨0, 0, 0, b, by unfold Served; decide +kernel⟩,
    ⟨0, ⟨1, true, 0, 256, false⟩, bnd 1 true pl, by decide +kernel⟩,
    ⟨0, ⟨1, false, 0, 256, false⟩, bnd 1 false pl, by decide +kernel⟩⟩

theorem witness_DirectorySetsAndClears :
    (∃ (e : Entry) (st : Nat) (s : State),
      Runs s e 48 ∧ adapterRefused (begun s e 48) (newCmd s e 48) (getAdapter s (opf e.ops 2 0 16)) (adapterOf (newCmd s e 48)) = some st) ∧
    (∃ (e : Entry) (s : State),
      Runs s e 48 ∧ adapterRefused (begun s e 48) (newCmd s e 48) (getAdapter s (opf e.ops 2 0 16)) (adapterOf (newCmd s e 48)) = none ∧
      (getAdapter s (opf e.ops 2 0 16)).st = DirSt.free) ∧
    (∃ (e : Entry) (s : State),
      Runs s e 48 ∧ adapterRefused (begun s e 48) (newCmd s e 48) (getAdapter s (opf e.ops 2 0 16)) (adapterOf (newCmd s e 48)) = none ∧
      (getAdapter s (opf e.ops 2 0 16)).st = DirSt.valid) ∧
    (∃ (e : Entry) (st : Nat) (s : State),
      Runs s e 50 ∧ steerRefused (newCmd s e 50) (getSteer s (opf e.ops 2 0 16)) (steerOf (newCmd s e 50)) = some st) ∧
    (∃ (e : Entry) (s : State),
      Runs s e 50 ∧ steerRefused (newCmd s e 50) (getSteer s (opf e.ops 2 0 16)) (steerOf (newCmd s e 50)) = none) ∧
    (∃ (e : Entry) (s : State),
      Runs s e 49 ∧ ((getAdapter s (opf e.ops 2 0 16)).st ≠ DirSt.valid ∨ (getAdapter s (opf e.ops 2 0 16)).ctx ≠ (newCmd s e 49).ctx)) ∧
    (∃ (e : Entry) (s : State),
      Runs s e 49 ∧ (getAdapter s (opf e.ops 2 0 16)).st = DirSt.valid ∧ (getAdapter s (opf e.ops 2 0 16)).ctx = (newCmd s e 49).ctx) ∧
    (∃ (e : Entry) (s : State),
      Runs s e 51 ∧ ((getSteer s (opf e.ops 2 0 16)).st ≠ DirSt.valid ∨ (getSteer s (opf e.ops 2 0 16)).ctx ≠ (newCmd s e 51).ctx)) ∧
    (∃ (e : Entry) (s : State),
      Runs s e 51 ∧ (getSteer s (opf e.ops 2 0 16)).st = DirSt.valid ∧ (getSteer s (opf e.ops 2 0 16)).ctx = (newCmd s e 51).ctx) :=
  ⟨⟨aset 20 2 1 77 0 128 5, 0x0B, b, by unfold Runs; decide +kernel⟩,
    ⟨aset 20 2 1 77 0 128 5, idleBt, by unfold Runs; decide +kernel⟩,
    ⟨aset 9 2 1 77 0 128 9, idleBt, by unfold Runs; decide +kernel⟩,
    ⟨sset 20 2 3 64 10, 0x02, b, by unfold Runs; decide +kernel⟩,
    ⟨sset 20 2 1 64 10, mb_1, by unfold Runs; decide +kernel⟩,
    ⟨en [(2,9)], b, by unfold Runs; decide +kernel⟩,
    ⟨en [(2,9)], idleBt, by unfold Runs; decide +kernel⟩,
    ⟨en [(2,9)], b, by unfold Runs; decide +kernel⟩,
    ⟨en [(2,4)], idleBt, by unfold Runs; decide +kernel⟩⟩

theorem witness_GathersAndLateFetches :
    (∃ (p : PtnId) (set a i b : Nat) (k : Plan) (x : Piece) (r : Running) (s : State),
      isReady s = true ∧ stepBatch s p.val = some b ∧ (getPtn s p.val).fe.run = some r ∧ loadedPlan s p.val = some k ∧ k.pieces[i]? = some x ∧ x.set = set ∧
      (getAdapter s a).st ≠ DirSt.free ∧ (getAdapter s a).planTag = k.tag ∧
      adapterUse s p.val (getPartner s p.val set).seg a ≤ (getPartner s p.val set).seg + 3 ∧ (a, i, (getAdapter s a).rank) ∈ (getPartner s p.val set).pieces) ∧
    (∃ (p : PtnId) (set a i b : Nat) (k : Plan) (x : Piece) (r : Running) (s : State),
      isReady s = true ∧ stepBatch s p.val = some b ∧ (getPtn s p.val).fe.run = some r ∧ loadedPlan s p.val = some k ∧ k.pieces[i]? = some x ∧ x.set = set ∧
      (getAdapter s a).st ≠ DirSt.free ∧ (getAdapter s a).planTag = k.tag ∧
      adapterUse s p.val (getPartner s p.val set).seg a ≤ (getPartner s p.val set).seg + 3 ∧
      ¬(a, i, (getAdapter s a).rank) ∈ (getPartner s p.val set).pieces ∧
      makeFit (fun (y : Nat × Nat × Nat) => adapterUse s p.val (getPartner s p.val set).seg y.fst) (fun (y : Nat × Nat × Nat) => pieceBytes k y.snd.snd y.snd.fst) 229376 32 (pieceBytes k (getAdapter s a).rank i) (getPartner s p.val set).seg (adapterUse s p.val (getPartner s p.val set).seg a) (getPartner s p.val set).pieces = none) ∧
    (∃ (p : PtnId) (set a i b : Nat) (k : Plan) (x : Piece) (r : Running) (s : State) (kept : List (Nat × Nat × Nat)),
      isReady s = true ∧ stepBatch s p.val = some b ∧ (getPtn s p.val).fe.run = some r ∧ loadedPlan s p.val = some k ∧ k.pieces[i]? = some x ∧ x.set = set ∧
      (getAdapter s a).st ≠ DirSt.free ∧ (getAdapter s a).planTag = k.tag ∧
      adapterUse s p.val (getPartner s p.val set).seg a ≤ (getPartner s p.val set).seg + 3 ∧
      ¬(a, i, (getAdapter s a).rank) ∈ (getPartner s p.val set).pieces ∧
      makeFit (fun (y : Nat × Nat × Nat) => adapterUse s p.val (getPartner s p.val set).seg y.fst) (fun (y : Nat × Nat × Nat) => pieceBytes k y.snd.snd y.snd.fst) 229376 32 (pieceBytes k (getAdapter s a).rank i) (getPartner s p.val set).seg (adapterUse s p.val (getPartner s p.val set).seg a) (getPartner s p.val set).pieces = some kept ∧
      (engineRead s p.val (getAdapter s a).ctx (some (setQuarter s p.val set)) ((getAdapter s a).body + (getAdapter s a).rank * x.offset) ((getAdapter s a).rank * pieceUnits k x)).refuse = [] ∧
      (engineRead s p.val (getAdapter s a).ctx (some (setQuarter s p.val set)) ((getAdapter s a).body + (getAdapter s a).rank * x.offset) ((getAdapter s a).rank * pieceUnits k x)).unver = []) ∧
    (∃ (p : PtnId) (set n l b : Nat) (r : Running) (s : State),
      isReady s = true ∧ stepBatch s p.val = some b ∧ (getPtn s p.val).fe.run = some r ∧ (getSteer s n).st ≠ DirSt.free ∧ l < (getSteer s n).layers ∧
      steersSet s p.val set l = true ∧ steerUse s p.val (getPartner s p.val set).seg n ≤ (getPartner s p.val set).seg + 3 ∧
      (n, l) ∈ (getPartner s p.val set).vectors) ∧
    (∃ (p : PtnId) (set n l b : Nat) (r : Running) (s : State) (kept : List (Nat × Nat)),
      isReady s = true ∧ stepBatch s p.val = some b ∧ (getPtn s p.val).fe.run = some r ∧ (getSteer s n).st ≠ DirSt.free ∧ l < (getSteer s n).layers ∧
      steersSet s p.val set l = true ∧ steerUse s p.val (getPartner s p.val set).seg n ≤ (getPartner s p.val set).seg + 3 ∧
      ¬(n, l) ∈ (getPartner s p.val set).vectors ∧
      makeFit (fun (y : Nat × Nat) => steerUse s p.val (getPartner s p.val set).seg y.fst) (fun (x : Nat × Nat) => 16384) 32768 2 16384 (getPartner s p.val set).seg (steerUse s p.val (getPartner s p.val set).seg n) (getPartner s p.val set).vectors = some kept ∧
      (engineRead s p.val (getSteer s n).ctx (some (setQuarter s p.val set)) ((getSteer s n).base + l * steerVec (getSteer s n)) ((getSteer s n).width * steerElem (getSteer s n))).refuse = [] ∧
      (engineRead s p.val (getSteer s n).ctx (some (setQuarter s p.val set)) ((getSteer s n).base + l * steerVec (getSteer s n)) ((getSteer s n).width * steerElem (getSteer s n))).unver = []) ∧
    (∃ (p : PtnId) (o : ObjId) (what : FetchKind) (s : State),
      isReady s = true ∧
      ((getObj s p.val o.val).fbKind = 0 ∨ (getObj s p.val o.val).st ≠ ObjSt.valid ∨ isShadow s p.val o.val = true ∨ fetchOpen s p.val what = false)) ∧
    (∃ (p : PtnId) (o : ObjId) (_n _m b : Nat) (_d : Bool) (r : Running) (s : State),
      isReady s = true ∧ (getObj s p.val o.val).st = ObjSt.valid ∧ isShadow s p.val o.val = false ∧ (getPtn s p.val).fe.run = some r ∧
      stepBatch s p.val = some b ∧ (getObj s p.val o.val).fbKind = 1 ∧ shadowReady s p.val (getObj s p.val o.val) = true) ∧
    (∃ (p : PtnId) (o : ObjId) (_row _slot _blk _m b : Nat) (r : Running) (x : BStep) (s : State),
      isReady s = true ∧ (getObj s p.val o.val).st = ObjSt.valid ∧ isShadow s p.val o.val = false ∧ (getPtn s p.val).fe.run = some r ∧
      stepBatch s p.val = some b ∧ (getBatch s p.val b).step = some x ∧ (getObj s p.val o.val).fbKind = 2 ∧ holdsPool s p.val (getObj s p.val o.val) = true) ∧
    (∃ (p : PtnId) (o : ObjId) (_n _m b : Nat) (r : Running) (x : BStep) (s : State),
      isReady s = true ∧ (getObj s p.val o.val).st = ObjSt.valid ∧ isShadow s p.val o.val = false ∧ (getPtn s p.val).fe.run = some r ∧
      stepBatch s p.val = some b ∧ (getBatch s p.val b).step = some x ∧ (getObj s p.val o.val).fbKind = 3) ∧
    (∃ (p : PtnId) (o : ObjId) (set a i m b : Nat) (r : Running) (x : BStep) (k : Plan) (y : Piece) (s : State),
      isReady s = true ∧ (getObj s p.val o.val).st = ObjSt.valid ∧ isShadow s p.val o.val = false ∧ (getPtn s p.val).fe.run = some r ∧
      stepBatch s p.val = some b ∧ (getBatch s p.val b).step = some x ∧ (getObj s p.val o.val).fbKind = 4 ∧
      (getCtx s (getBatch s p.val b).ctx).cur.baseNoAd = true ∧ loadedPlan s p.val = some k ∧ k.pieces[i]? = some y ∧
      fetchOpen s p.val (FetchKind.gather set a i m) = true) :=
  ⟨⟨0, 0, 9, 0, 2, pln, ((pln.pieces).get ⟨0, by decide +kernel⟩), rn_1, idleBt (fun x => { x with partner := [(0, { pieces := [(9, 0, 2)] })] }), by decide +kernel⟩,
    ⟨0, 0, 9, 0, 2, pln, ((pln.pieces).get ⟨0, by decide +kernel⟩), rn_1, bp 0 (fun x => { x with partner := [(0, { pieces := (List.range 32).map fun j => (9, j + 5, 1) })], batches := [(2, bat fun y => { y with segs := [⟨2,1,none,false,none,false,0,0⟩, ⟨0,2,some 9,false,some 4,false,0,0⟩] })] }) idleBt, by decide +kernel⟩,
    ⟨0, 0, 9, 0, 2, pln, ((pln.pieces).get ⟨0, by decide +kernel⟩), rn_1, idleBt, [], by decide +kernel⟩,
    ⟨0, 0, 4, 0, 2, rn_1, idleBt (fun x => { x with partner := [(0, { vectors := [(4, 0)] })], units := { x.units with plans := [(1, some { pln with pieces := pln.pieces.map fun y => { y with steerLayer := 0 } })] } }), by decide +kernel⟩,
    ⟨0, 0, 4, 0, 2, rn_1, idleBt (fun x => { x with partner := [(0, { vectors := [] })], units := { x.units with plans := [(1, some { pln with pieces := pln.pieces.map fun y => { y with steerLayer := 0 } })] } }), [], by decide +kernel⟩,
    ⟨0, 5, .port 1 true 0, b, by decide +kernel⟩,
    ⟨0, 7, 0, 0, 2, false, rn_1, fbk 1, by decide +kernel⟩,
    ⟨0, 7, 0, 0, 0, 0, 2, rn_1, ({} : BStep), bp 0 (fun x => { x with att := { x.att with poolBase := 0x200000, poolPages := 2 } }) (fbk 2), by decide +kernel⟩,
    ⟨0, 7, 0, 0, 2, rn_1, ({} : BStep), fbk 3, by decide +kernel⟩,
    ⟨0, 7, 0, 9, 0, 0, 2, rn_1, ({} : BStep), pln, ((pln.pieces).get ⟨0, by decide +kernel⟩), modCtx 0 (fun c => { c with cur := { c.cur with baseNoAd := true } }) (fbk 4), by decide +kernel⟩⟩

theorem witness_FigureWorkSlicesAndSaves :
    (∃ (e : Entry) (s : State),
      Runs s e 22 ∧ opw e.ops 2 = 0) ∧
    (∃ (e : Entry) (s : State) (st : Nat),
      Runs s e 22 ∧ opw e.ops 2 ≠ 0 ∧ readDesc (begun s e 22) (newCmd s e 22) (opd e.ops 4) 8192 = Except.error st) ∧
    (∃ (e : Entry) (s : State) (b : List Byte),
      Runs s e 22 ∧ opw e.ops 2 ≠ 0 ∧ readDesc (begun s e 22) (newCmd s e 22) (opd e.ops 4) 8192 = Except.ok b ∧
      (List.map decPort (pieces 16 512 b)).any portBad = true) ∧
    (∃ (e : Entry) (b : List Byte) (s : State),
      Runs s e 22 ∧ opw e.ops 2 ≠ 0 ∧ readDesc (begun s e 22) (newCmd s e 22) (opd e.ops 4) 8192 = Except.ok b ∧
      (List.map decPort (pieces 16 512 b)).any portBad = false ∧ engineTaken s (newCmd s e 22).ptn (newCmd s e 22).ctx = true) ∧
    (∃ (e : Entry) (b : List Byte) (s : State),
      Runs s e 22 ∧ opw e.ops 2 ≠ 0 ∧ readDesc (begun s e 22) (newCmd s e 22) (opd e.ops 4) 8192 = Except.ok b ∧
      (List.map decPort (pieces 16 512 b)).any portBad = false ∧ EngineFree s (newCmd s e 22).ptn) ∧
    (∃ (e : Entry) (s : State),
      Runs s e 33 ∧
      (opf e.ops 3 0 16 = 0 ∨ (getBatch s (newCmd s e 33).ptn (opf e.ops 2 0 6)).open_ = false ∨ (getBatch s (newCmd s e 33).ptn (opf e.ops 2 0 6)).ctx ≠ (newCmd s e 33).ctx)) ∧
    (∃ (e : Entry) (s : State),
      Runs s e 33 ∧ opf e.ops 3 0 16 ≠ 0 ∧ (getBatch s (newCmd s e 33).ptn (opf e.ops 2 0 6)).open_ = true ∧
      (getBatch s (newCmd s e 33).ptn (opf e.ops 2 0 6)).ctx = (newCmd s e 33).ctx ∧ engineTaken s (newCmd s e 33).ptn (newCmd s e 33).ctx = true) ∧
    (∃ (e : Entry) (s : State),
      Runs s e 33 ∧ opf e.ops 3 0 16 ≠ 0 ∧ (getBatch s (newCmd s e 33).ptn (opf e.ops 2 0 6)).open_ = true ∧
      (getBatch s (newCmd s e 33).ptn (opf e.ops 2 0 6)).ctx = (newCmd s e 33).ctx ∧ EngineFree s (newCmd s e 33).ptn ∧
      (getBatch s (newCmd s e 33).ptn (opf e.ops 2 0 6)).step = none) ∧
    (∃ (e : Entry) (s : State),
      Runs s e 40 ∧ loadedMap s (newCmd s e 40).ptn = none) ∧
    (∃ (e : Entry) (s : State) (m : AttMap),
      Runs s e 40 ∧ loadedMap s (newCmd s e 40).ptn = some m ∧ tableMine s (newCmd s e 40) (opd e.ops 2) = true ∧
      tableOk s (newCmd s e 40).ptn (newCmd s e 40).ctx (opd e.ops 2) (some m) = true ∧ (readTab s (newCmd s e 40).ptn (opd e.ops 2)).recomputing = false ∧
      hasMissing (readTab s (newCmd s e 40).ptn (opd e.ops 2)) (kvP m.d m.kvFmt) = false) ∧
    (∃ (e : Entry) (s : State) (m : AttMap) (b : List Byte),
      Runs s e 40 ∧ loadedMap s (newCmd s e 40).ptn = some m ∧ tableMine s (newCmd s e 40) (opd e.ops 2) = true ∧
      tableOk s (newCmd s e 40).ptn (newCmd s e 40).ctx (opd e.ops 2) (some m) = true ∧ (readTab s (newCmd s e 40).ptn (opd e.ops 2)).recomputing = false ∧
      hasMissing (readTab s (newCmd s e 40).ptn (opd e.ops 2)) (kvP m.d m.kvFmt) = true ∧
      readDesc (begun s e 40) (newCmd s e 40) (opd e.ops 4) 8192 = Except.ok b ∧ (List.map decPort (pieces 16 512 b)).any portBad = false ∧
      engineTaken s (newCmd s e 40).ptn (newCmd s e 40).ctx = true) ∧
    (∃ (p : PtnId) (r : Running) (s : State),
      isReady s = true ∧ (getPtn s p.val).fe.mode = FeMode.run ∧ (getPtn s p.val).fe.run = some r ∧
      ((readyCtxs s p.val).any fun (c : Nat) => c != r.ctx && decide ((getCtx s r.ctx).cur.prio ≤ (getCtx s c).cur.prio)) = false) ∧
    (∃ (p : PtnId) (r : Running) (s : State),
      isReady s = true ∧ (getPtn s p.val).fe.mode = FeMode.run ∧ (getPtn s p.val).fe.run = some r ∧
      ((readyCtxs s p.val).any fun (c : Nat) => c != r.ctx && decide ((getCtx s r.ctx).cur.prio ≤ (getCtx s c).cur.prio)) = true ∧
      (getPtn s p.val).fe.noSave = false ∧ (hasBows s p.val = false ∨ (saveArea s p.val r.ctx).isSome = true)) ∧
    (∃ (p : PtnId) (r : Running) (s : State),
      isReady s = true ∧ (getPtn s p.val).fe.mode = FeMode.run ∧ (getPtn s p.val).fe.run = some r ∧
      ((readyCtxs s p.val).any fun (c : Nat) => c != r.ctx && decide ((getCtx s r.ctx).cur.prio ≤ (getCtx s c).cur.prio)) = true ∧
      (getPtn s p.val).fe.noSave = false ∧ hasBows s p.val = true ∧ saveArea s p.val r.ctx = none) ∧
    (∃ (p : PtnId) (s : State),
      isReady s = true ∧ (getPtn s p.val).fe.run = none) ∧
    (∃ (p : PtnId) (rep : Option Nat) (e : Rt) (park : Bool) (i : Nat) (x : BowPoint) (s : State) (c : Nat),
      isReady s = true ∧ ptnRuns (getPtn s p.val) = true ∧ c1Runs s p.val = true ∧ rtOf s p.val = some e ∧ (getPtn s p.val).fe.mode = FeMode.stopping park ∧
      nextBow e.f s p.val = some (i, x) ∧ allAt e.f (runSteps e (some x.position) none (roundFuel e.f) s) p.val x.position = true ∧
      pipesIdle (runSteps e (some x.position) none (roundFuel e.f) s) p.val = true ∧
      (rep <|> leftoverCore e.f (runSteps e (some x.position) none (roundFuel e.f) s) p.val x) = some c ∧
      policyOf (runSteps e (some x.position) none (roundFuel e.f) s) 517 = 0 ∧ MirrorFree (runSteps e (some x.position) none (roundFuel e.f) s) ∧
      ptnOfCtx (runSteps e (some x.position) none (roundFuel e.f) s) e.run.ctx < 32) ∧
    (∃ (p : PtnId) (rep : Option Nat) (e : Rt) (park : Bool) (i : Nat) (x : BowPoint) (s : State),
      isReady s = true ∧ ptnRuns (getPtn s p.val) = true ∧ c1Runs s p.val = true ∧ rtOf s p.val = some e ∧ (getPtn s p.val).fe.mode = FeMode.stopping park ∧
      nextBow e.f s p.val = some (i, x) ∧ allAt e.f (runSteps e (some x.position) none (roundFuel e.f) s) p.val x.position = true ∧
      pipesIdle (runSteps e (some x.position) none (roundFuel e.f) s) p.val = true ∧
      (rep <|> leftoverCore e.f (runSteps e (some x.position) none (roundFuel e.f) s) p.val x) = none ∧ e.run.opcode ≠ 33) ∧
    (∃ (p : PtnId) (i : Nat) (park : Bool) (r : Running) (f : Figure) (k : Cmd) (s : State),
      isReady s = true ∧ (getPtn s p.val).fe.mode = FeMode.saving i park ∧ (getPtn s p.val).fe.run = some r ∧ (getPtn s p.val).figure = some f ∧
      getCmd s r.ring r.idx = some k ∧ (getPtn s p.val).pwr.parkWant = false ∧
      have o := getObj s p.val (getCtx s r.ctx).cur.saveObj; inTransit s p.val o.base (o.pages * pageBytes) = false) ∧
    (∃ (p : PtnId) (s : State),
      isReady s = true ∧ (getPtn s p.val).fe.mode = FeMode.gap ∧ (getPtn s p.val).fe.queue = [] ∧ (getPtn s p.val).fe.saved = []) ∧
    (∃ (p : PtnId) (s : State) (r : Running) (k : Cmd),
      isReady s = true ∧ (getPtn s p.val).fe.mode = FeMode.gap ∧ (getPtn s p.val).fe.queue = [r] ∧ (getPtn s p.val).fe.saved = [] ∧
      canServe s p.val = true ∧ (getCtx s r.ctx).st = CtxSt.enabled ∧ getCmd s r.ring r.idx = some k ∧ r.opcode = 22) ∧
    (∃ (p : PtnId) (v : Saved) (s : State),
      isReady s = true ∧ (getPtn s p.val).fe.mode = FeMode.restoring ∧ (getPtn s p.val).fe.resume = some v) :=
  ⟨⟨en [(2,0),(4,0x10000)], b, by unfold Runs; decide +kernel⟩,
    ⟨en [(2,3),(4,0x210001)], free_ (zp bt), 2, by unfold Runs; decide +kernel⟩,
    ⟨en [(2,3),(4,0x210000)], badPorts, okBytes (portsRead badPorts), by unfold Runs; decide +kernel, by decide +kernel, okBytes_eq (x := portsRead badPorts) (by decide +kernel), by decide +kernel⟩,
    ⟨en [(2,3),(4,0x10000)], List.replicate 8192 0, gap_ (zp bt), by unfold Runs; decide +kernel, by decide +kernel, readsZeros_eq (by decide +kernel), zeroPorts, by decide +kernel⟩,
    ⟨en [(2,3),(4,0x10000)], List.replicate 8192 0, free_ (zp bt), by unfold Runs; decide +kernel, by decide +kernel, readsZeros_eq (by decide +kernel), zeroPorts, by unfold EngineFree; decide +kernel⟩,
    ⟨en [(2,2),(3,3)], b, by unfold Runs; decide +kernel⟩,
    ⟨en [(2,2),(3,3)], gap_ (kv 10 20), by unfold Runs; decide +kernel⟩,
    ⟨en [(2,2),(3,3)], free_ (nostep (kv 10 20)), by unfold Runs EngineFree; decide +kernel⟩,
    ⟨en [(2,3),(4,0x10000)], b, by unfold Runs; decide +kernel⟩,
    ⟨en [(2,0x200000),(4,0x10000)], free_ (kv 10 10), (loadedMap (gap_ (kv 10 20)) 0).getD amap, by unfold Runs; decide +kernel⟩,
    ⟨en [(2,0x200000),(4,0x10000)], gap_ (zp (kv 10 20)), (loadedMap (gap_ (kv 10 20)) 0).getD amap, List.replicate 8192 0, by unfold Runs; decide +kernel, by decide +kernel, by decide +kernel, by decide +kernel, by decide +kernel, by decide +kernel, readsZeros_eq (by decide +kernel), zeroPorts, by decide +kernel⟩,
    ⟨0, rF, fgRun, by decide +kernel⟩,
    ⟨0, rF, two fgRun, by decide +kernel⟩,
    ⟨0, rF, two (bowF fgRun), by decide +kernel⟩,
    ⟨0, b, by decide +kernel⟩,
    ⟨0, some 0, (rtOf bowRun 0).get (by decide +kernel), false, 0, ⟨2, 0, 0⟩, { bowRun with flt := { bowRun.flt with policy := [(0x0205, 0)] } }, 0, by rw [mirrorFree_iff]; decide +kernel⟩,
    ⟨0, none, (rtOf bowRun 0).get (by decide +kernel), false, 0, ⟨2, 0, 0⟩, bowRun, by decide +kernel⟩,
    ⟨0, 0, false, rF, fgb, cmd 0x16 [(2,3)] (fun c => { c with phase := .running }), savP, by decide +kernel⟩,
    ⟨0, gap_ (kv 10 20), by decide +kernel⟩,
    ⟨0, gq, rF, cmd 0x16 [(2,3)] (fun c => { c with phase := .running }), by decide +kernel⟩,
    ⟨0, sv, rst, by decide +kernel⟩⟩

theorem witness_RecomputeAndReleaseEndWithTheirCounts :
    (∃ (p : PtnId) (r : Running) (ch : Nat × Nat) (k : Cmd) (s : State),
      isReady s = true ∧ (getPtn s p.val).fe.run = some r ∧ r.chunk = some ch ∧ getCmd s r.ring r.idx = some k ∧ r.opcode = 40 ∧
      feRuns (getPtn s p.val).fe = true ∧ ceilDiv ch.snd (chunkPerRound s p.val) ≤ r.round ∧ r.late = [] ∧ inTransit s p.val (opd k.ops 2) 64 = false ∧
      (readTab (modRun p.val (fun (x : Running) => { ring := r.ring, idx := r.idx, ctx := r.ctx, opcode := r.opcode, target := r.target, ports := r.ports, round := 0, base := r.base + r.round, done := r.done + ch.snd, batch := r.batch, chunk := none, fb := r.fb, units := r.units + 1 }) (pastChunk s p.val (opd k.ops 2) (ch.fst + ch.snd))) p.val (opd k.ops 2)).logLen ≤ ch.fst + ch.snd + 1 ∧
      (getPtn s p.val).pwr.parkWant = false) ∧
    (∃ (p : PtnId) (r : Running) (ch : Nat × Nat) (k : Cmd) (s : State) (c : Nat × Nat) (s2 : State),
      isReady s = true ∧ (getPtn s p.val).fe.run = some r ∧ r.chunk = some ch ∧ getCmd s r.ring r.idx = some k ∧ r.opcode = 40 ∧
      feRuns (getPtn s p.val).fe = true ∧ ceilDiv ch.snd (chunkPerRound s p.val) ≤ r.round ∧ r.late = [] ∧ inTransit s p.val (opd k.ops 2) 64 = false ∧
      ch.fst + ch.snd + 1 < (readTab (modRun p.val (fun (x : Running) => { ring := r.ring, idx := r.idx, ctx := r.ctx, opcode := r.opcode, target := r.target, ports := r.ports, round := 0, base := r.base + r.round, done := r.done + ch.snd, batch := r.batch, chunk := none, fb := r.fb, units := r.units + 1 }) (pastChunk s p.val (opd k.ops 2) (ch.fst + ch.snd))) p.val (opd k.ops 2)).logLen ∧
      (getPtn s p.val).fe.mode = FeMode.run ∧
      alternate (modRun p.val (fun (x : Running) => { ring := r.ring, idx := r.idx, ctx := r.ctx, opcode := r.opcode, target := r.target, ports := r.ports, round := 0, base := r.base + r.round, done := r.done + ch.snd, batch := r.batch, chunk := none, fb := r.fb, units := r.units + 1 }) (pastChunk s p.val (opd k.ops 2) (ch.fst + ch.snd))) p.val { ring := r.ring, idx := r.idx, ctx := r.ctx, opcode := r.opcode, target := r.target, ports := r.ports, round := 0, base := r.base + r.round, done := r.done + ch.snd, batch := r.batch, chunk := none, fb := r.fb, units := r.units + 1 } = none ∧
      nextChunk p.val k (modRun p.val (fun (x : Running) => { ring := r.ring, idx := r.idx, ctx := r.ctx, opcode := r.opcode, target := r.target, ports := r.ports, round := 0, base := r.base + r.round, done := r.done + ch.snd, batch := r.batch, chunk := none, fb := r.fb, units := r.units + 1 }) (pastChunk s p.val (opd k.ops 2) (ch.fst + ch.snd))) = (some c, true, s2)) ∧
    (∃ (e : Entry) (s : State),
      Runs s e 41 ∧ tableMine s (newCmd s e 41) (opd e.ops 2) = false) ∧
    (∃ (e : Entry) (s : State),
      Runs s e 41 ∧ tableMine s (newCmd s e 41) (opd e.ops 2) = true ∧
      (rowNames s (newCmd s e 41).ptn (opd e.ops 2) || (readTab s (newCmd s e 41).ptn (opd e.ops 2)).recomputing) = true) ∧
    (∃ (e : Entry) (s : State),
      Runs s e 41 ∧ tableMine s (newCmd s e 41) (opd e.ops 2) = true ∧
      (rowNames s (newCmd s e 41).ptn (opd e.ops 2) || (readTab s (newCmd s e 41).ptn (opd e.ops 2)).recomputing) = false) :=
  ⟨⟨0, rcR, (10,9), rcK, rcRun 20, by decide +kernel⟩,
    by
      refine ⟨0, rcR, (10,9), rcK, rcRun 40, (19,20), _, ?_, ?_, ?_, ?_, ?_, ?_, ?_, ?_, ?_, ?_, ?_, ?_, triple_eq ?_ ?_⟩ <;> decide +kernel,
    ⟨en [(2,0x200000)], b, by unfold Runs; decide +kernel⟩,
    ⟨en [(2,0x200000)], rcRun 20, by unfold Runs; decide +kernel⟩,
    ⟨en [(2,0x200000)], bt, by unfold Runs; decide +kernel⟩⟩

theorem witness_BatchesOpenReplaceAndClose :
    (∃ (e : Entry) (s : State),
      Runs s e 32 ∧ ((getBatch s (newCmd s e 32).ptn (opf e.ops 2 0 6)).open_ = true ∨ 8 ≤ (openBatches s (newCmd s e 32).ptn).length)) ∧
    (∃ (e : Entry) (s : State) (h bs pb : List Byte),
      Runs s e 32 ∧ (getBatch s (newCmd s e 32).ptn (opf e.ops 2 0 6)).open_ = false ∧ (openBatches s (newCmd s e 32).ptn).length < 8 ∧ RowPolicies s ∧
      MirrorFree s ∧ readDesc (begun s e 32) (newCmd s e 32) (opd e.ops 4) 64 = Except.ok h ∧ headBad h = false ∧
      readDesc (begun s e 32) (newCmd s e 32) (opd e.ops 4) (rowsOff h + 64 * bits (wordAt h 1) 0 13) = Except.ok bs ∧ vmapBad bs = false ∧
      slotMismatch s (newCmd s e 32).ptn (decBDesc bs) = false ∧ readDesc (begun s e 32) (newCmd s e 32) (opd e.ops 6) 8192 = Except.ok pb ∧
      (List.map decPort (pieces 16 512 pb)).any portBad = false ∧
      (pieces 64 (decBDesc bs).rows (List.drop (rowsOff bs) bs)).any (rowBad (decBDesc bs).maxDraft) = false ∧
      ringsOk s (newCmd s e 32).ctx (List.map decRow (pieces 64 (decBDesc bs).rows (List.drop (rowsOff bs) bs))) = true) ∧
    (∃ (e : Entry) (bs : List Byte) (s : State),
      Runs s e 34 ∧ 0 < opf e.ops 3 0 13 ∧ opf e.ops 3 0 13 ≤ 4096 ∧ (getBatch s (newCmd s e 34).ptn (opf e.ops 2 0 6)).open_ = true ∧
      (getBatch s (newCmd s e 34).ptn (opf e.ops 2 0 6)).ctx = (newCmd s e 34).ctx ∧
      readList (begun s e 34) (newCmd s e 34) (opd e.ops 4) (alignUp (2 * opf e.ops 3 0 13) 64 + 64 * opf e.ops 3 0 13) = Except.ok bs ∧
      distinct (List.map leNat (pieces 2 (opf e.ops 3 0 13) bs)) = true ∧
      (∀ (r : Nat), r ∈ List.map leNat (pieces 2 (opf e.ops 3 0 13) bs) → r < (getBatch s (newCmd s e 34).ptn (opf e.ops 2 0 6)).desc.rows) ∧
      (pieces 64 (opf e.ops 3 0 13) (List.drop (alignUp (2 * opf e.ops 3 0 13) 64) bs)).any (rowBad (getBatch s (newCmd s e 34).ptn (opf e.ops 2 0 6)).desc.maxDraft) = false ∧
      ringsOk s (newCmd s e 34).ctx (List.map decRow (pieces 64 (opf e.ops 3 0 13) (List.drop (alignUp (2 * opf e.ops 3 0 13) 64) bs))) = true ∧
      (getBatch s (newCmd s e 34).ptn (opf e.ops 2 0 6)).step.isSome = true) ∧
    (∃ (e : Entry) (bs : List Byte) (s : State),
      Runs s e 34 ∧ 0 < opf e.ops 3 0 13 ∧ opf e.ops 3 0 13 ≤ 4096 ∧ (getBatch s (newCmd s e 34).ptn (opf e.ops 2 0 6)).open_ = true ∧
      (getBatch s (newCmd s e 34).ptn (opf e.ops 2 0 6)).ctx = (newCmd s e 34).ctx ∧
      readList (begun s e 34) (newCmd s e 34) (opd e.ops 4) (alignUp (2 * opf e.ops 3 0 13) 64 + 64 * opf e.ops 3 0 13) = Except.ok bs ∧
      distinct (List.map leNat (pieces 2 (opf e.ops 3 0 13) bs)) = true ∧
      (∀ (r : Nat), r ∈ List.map leNat (pieces 2 (opf e.ops 3 0 13) bs) → r < (getBatch s (newCmd s e 34).ptn (opf e.ops 2 0 6)).desc.rows) ∧
      (pieces 64 (opf e.ops 3 0 13) (List.drop (alignUp (2 * opf e.ops 3 0 13) 64) bs)).any (rowBad (getBatch s (newCmd s e 34).ptn (opf e.ops 2 0 6)).desc.maxDraft) = false ∧
      ringsOk s (newCmd s e 34).ctx (List.map decRow (pieces 64 (opf e.ops 3 0 13) (List.drop (alignUp (2 * opf e.ops 3 0 13) 64) bs))) = true ∧
      (getBatch s (newCmd s e 34).ptn (opf e.ops 2 0 6)).step = none ∧ (getBatch s (newCmd s e 34).ptn (opf e.ops 2 0 6)).rowSets = [] ∧ RowPolicies s ∧
      MirrorFree s) ∧
    (∃ (e : Entry) (s : State),
      Runs s e 35 ∧
      ((getBatch s (newCmd s e 35).ptn (opf e.ops 2 0 6)).open_ = false ∨ (getBatch s (newCmd s e 35).ptn (opf e.ops 2 0 6)).ctx ≠ (newCmd s e 35).ctx ∨ (getBatch s (newCmd s e 35).ptn (opf e.ops 2 0 6)).closing.isSome = true ∨ (getBatch s (newCmd s e 35).ptn (opf e.ops 2 0 6)).cancel.isSome = true)) ∧
    (∃ (e : Entry) (s : State),
      Runs s e 35 ∧ (getBatch s (newCmd s e 35).ptn (opf e.ops 2 0 6)).open_ = true ∧
      (getBatch s (newCmd s e 35).ptn (opf e.ops 2 0 6)).ctx = (newCmd s e 35).ctx ∧ (getBatch s (newCmd s e 35).ptn (opf e.ops 2 0 6)).closing = none ∧
      (getBatch s (newCmd s e 35).ptn (opf e.ops 2 0 6)).cancel = none ∧ opf e.ops 2 8 1 = 0 ∧
      (getBatch s (newCmd s e 35).ptn (opf e.ops 2 0 6)).step.isSome = true) ∧
    (∃ (e : Entry) (s : State),
      Runs s e 35 ∧ (getBatch s (newCmd s e 35).ptn (opf e.ops 2 0 6)).open_ = true ∧
      (getBatch s (newCmd s e 35).ptn (opf e.ops 2 0 6)).ctx = (newCmd s e 35).ctx ∧ (getBatch s (newCmd s e 35).ptn (opf e.ops 2 0 6)).closing = none ∧
      (getBatch s (newCmd s e 35).ptn (opf e.ops 2 0 6)).cancel = none ∧ opf e.ops 2 8 1 = 0 ∧
      (getBatch s (newCmd s e 35).ptn (opf e.ops 2 0 6)).step = none ∧ (getBatch s (newCmd s e 35).ptn (opf e.ops 2 0 6)).rowSets = []) ∧
    (∃ (e : Entry) (s : State),
      Runs s e 35 ∧ (getBatch s (newCmd s e 35).ptn (opf e.ops 2 0 6)).open_ = true ∧
      (getBatch s (newCmd s e 35).ptn (opf e.ops 2 0 6)).ctx = (newCmd s e 35).ctx ∧ (getBatch s (newCmd s e 35).ptn (opf e.ops 2 0 6)).closing = none ∧
      (getBatch s (newCmd s e 35).ptn (opf e.ops 2 0 6)).cancel = none ∧ opf e.ops 2 8 1 = 1 ∧
      (getBatch s (newCmd s e 35).ptn (opf e.ops 2 0 6)).step.isSome = true ∧ stepRuns s (newCmd s e 35).ptn (opf e.ops 2 0 6) = true) ∧
    (∃ (e : Entry) (s : State),
      Runs s e 35 ∧ (getBatch s (newCmd s e 35).ptn (opf e.ops 2 0 6)).open_ = true ∧
      (getBatch s (newCmd s e 35).ptn (opf e.ops 2 0 6)).ctx = (newCmd s e 35).ctx ∧ (getBatch s (newCmd s e 35).ptn (opf e.ops 2 0 6)).closing = none ∧
      (getBatch s (newCmd s e 35).ptn (opf e.ops 2 0 6)).cancel = none ∧ opf e.ops 2 8 1 = 1 ∧ (getPtn s (newCmd s e 35).ptn).fe.run = none ∧
      (getPtn s (newCmd s e 35).ptn).fe.resume = none ∧ (getPtn s (newCmd s e 35).ptn).fe.saved = [] ∧
      (getBatch s (newCmd s e 35).ptn (opf e.ops 2 0 6)).rowSets = [] ∧
      (∀ (r : Running), r ∈ (getPtn s (newCmd s e 35).ptn).fe.queue → (r.ring, r.idx) ≠ ((newCmd s e 35).ring, (newCmd s e 35).idx))) :=
  ⟨⟨en [(2,3),(4,0x210000),(6,0x10000)], free_ (many base), by unfold Runs; decide +kernel⟩,
    ⟨en [(2,3),(4,0x210000),(6,0x10000)], free_ (zp base), (bdBytes rws).take 64, bdBytes rws, List.replicate 8192 0, by unfold Runs; decide +kernel, by decide +kernel, by decide +kernel, by unfold RowPolicies; decide +kernel, by rw [mirrorFree_iff]; decide +kernel, by decide +kernel, by decide +kernel, by decide +kernel, by decide +kernel, by decide +kernel, readsZeros_eq (by decide +kernel), zeroPorts, by decide +kernel⟩,
    ⟨en [(2,2),(3,2),(4,0x218000)], rsBytes, free_ base, by unfold Runs; decide +kernel⟩,
    ⟨en [(2,2),(3,2),(4,0x218000)], rsBytes, free_ (nostep base), by unfold Runs RowPolicies; rw [mirrorFree_iff]; decide +kernel⟩,
    ⟨en [(2,2)], b, by unfold Runs; decide +kernel⟩,
    ⟨en [(2,2)], free_ base, by unfold Runs; decide +kernel⟩,
    ⟨en [(2,2)], free_ (nostep base), by unfold Runs; decide +kernel⟩,
    ⟨en [(2,2+256)], rs (fun x => { x with started := [], head := 1, tail := 4 }) base, by unfold Runs; decide +kernel⟩,
    ⟨en [(2,2+256)], free_ base, by unfold Runs; decide +kernel⟩⟩

theorem witness_StepBoundariesMasksAndRecords :
    (∃ (p : PtnId) (r : Running) (t : BStep) (k : Cmd) (s : State),
      isReady s = true ∧ (getPtn s p.val).fe.run = some r ∧ r.opcode = 33 ∧ (getPtn s p.val).fe.mode = FeMode.run ∧
      (getBatch s p.val r.batch).open_ = true ∧ (getBatch s p.val r.batch).step = some t ∧ t.computed = true ∧
      stepReady s p.val (getBatch s p.val r.batch) t = true ∧ (getBatch s p.val r.batch).cancel = none ∧ (getBatch s p.val r.batch).rowSets = [] ∧
      RowPolicies s ∧ MirrorFree s ∧ getCmd s r.ring r.idx = some k ∧ (getPtn s p.val).pwr.parkWant = false ∧ (getBatch s p.val r.batch).closing = none ∧
      r.target ≤ r.done + 1) ∧
    (∃ (p : PtnId) (r : Running) (t : BStep) (k : Cmd) (s : State),
      isReady s = true ∧ (getPtn s p.val).fe.run = some r ∧ r.opcode = 33 ∧ (getPtn s p.val).fe.mode = FeMode.run ∧
      (getBatch s p.val r.batch).open_ = true ∧ (getBatch s p.val r.batch).step = some t ∧ t.computed = true ∧
      stepReady s p.val (getBatch s p.val r.batch) t = true ∧ (getBatch s p.val r.batch).cancel = none ∧ (getBatch s p.val r.batch).rowSets = [] ∧
      RowPolicies s ∧ MirrorFree s ∧ getCmd s r.ring r.idx = some k ∧ (getPtn s p.val).pwr.parkWant = false ∧ (getBatch s p.val r.batch).closing = none ∧
      r.done + 1 < r.target ∧ alternate s p.val r = none) ∧
    (∃ (p : PtnId) (r : Running) (t : BStep) (k : Cmd) (s : State) (a : Nat × Nat),
      isReady s = true ∧ (getPtn s p.val).fe.run = some r ∧ r.opcode = 33 ∧ (getPtn s p.val).fe.mode = FeMode.run ∧
      (getBatch s p.val r.batch).open_ = true ∧ (getBatch s p.val r.batch).step = some t ∧ t.computed = true ∧
      stepReady s p.val (getBatch s p.val r.batch) t = true ∧ (getBatch s p.val r.batch).cancel = none ∧ (getBatch s p.val r.batch).rowSets = [] ∧
      RowPolicies s ∧ MirrorFree s ∧ getCmd s r.ring r.idx = some k ∧ (getPtn s p.val).pwr.parkWant = false ∧ (getBatch s p.val r.batch).closing = some a ∧
      a ≠ (r.ring, r.idx)) ∧
    (∃ (e : Entry) (s : State),
      Runs s e 80 ∧ engStopped s (EngineSel.mask (dieId (homeDie s (newCmd s e 80).ptn))) = true) ∧
    (∃ (e : Entry) (s : State),
      Runs s e 80 ∧ engStopped s (EngineSel.mask (dieId (homeDie s (newCmd s e 80).ptn))) = false ∧ (opw e.ops 6 < 64 ∨ 67108864 < opw e.ops 6)) ∧
    (∃ (e : Entry) (s : State),
      Runs s e 80 ∧ engStopped s (EngineSel.mask (dieId (homeDie s (newCmd s e 80).ptn))) = false ∧ 64 ≤ opw e.ops 6 ∧ opw e.ops 6 ≤ 67108864 ∧
      ((engineRead (begun s e 80) (newCmd s e 80).ptn (newCmd s e 80).ctx none (opd e.ops 4) (opw e.ops 6)).refuse ≠ [] ∨ (rangePoisoned (begun s e 80) (newCmd s e 80) (opd e.ops 4) 64 || maskHeadBad (engineRead (begun s e 80) (newCmd s e 80).ptn (newCmd s e 80).ctx none (opd e.ops 4) (opw e.ops 6)).data (opw e.ops 6) || maskPoisoned (begun s e 80) (newCmd s e 80) (opd e.ops 4) (opw e.ops 6) (engineRead (begun s e 80) (newCmd s e 80).ptn (newCmd s e 80).ctx none (opd e.ops 4) (opw e.ops 6)).data || maskBodyBad (engineRead (begun s e 80) (newCmd s e 80).ptn (newCmd s e 80).ctx none (opd e.ops 4) (opw e.ops 6)).data) = true)) ∧
    (∃ (e : Entry) (s : State),
      Runs s e 80 ∧ engStopped s (EngineSel.mask (dieId (homeDie s (newCmd s e 80).ptn))) = false ∧ 64 ≤ opw e.ops 6 ∧ opw e.ops 6 ≤ 67108864 ∧
      (engineRead (begun s e 80) (newCmd s e 80).ptn (newCmd s e 80).ctx none (opd e.ops 4) (opw e.ops 6)).refuse = [] ∧
      (rangePoisoned (begun s e 80) (newCmd s e 80) (opd e.ops 4) 64 || maskHeadBad (engineRead (begun s e 80) (newCmd s e 80).ptn (newCmd s e 80).ctx none (opd e.ops 4) (opw e.ops 6)).data (opw e.ops 6) || maskPoisoned (begun s e 80) (newCmd s e 80) (opd e.ops 4) (opw e.ops 6) (engineRead (begun s e 80) (newCmd s e 80).ptn (newCmd s e 80).ctx none (opd e.ops 4) (opw e.ops 6)).data || maskBodyBad (engineRead (begun s e 80) (newCmd s e 80).ptn (newCmd s e 80).ctx none (opd e.ops 4) (opw e.ops 6)).data) = false ∧
      (getMask s (opf e.ops 2 0 16)).set = true) ∧
    (∃ (e : Entry) (s : State),
      Runs s e 80 ∧ engStopped s (EngineSel.mask (dieId (homeDie s (newCmd s e 80).ptn))) = false ∧ 64 ≤ opw e.ops 6 ∧ opw e.ops 6 ≤ 67108864 ∧
      (engineRead (begun s e 80) (newCmd s e 80).ptn (newCmd s e 80).ctx none (opd e.ops 4) (opw e.ops 6)).refuse = [] ∧
      (rangePoisoned (begun s e 80) (newCmd s e 80) (opd e.ops 4) 64 || maskHeadBad (engineRead (begun s e 80) (newCmd s e 80).ptn (newCmd s e 80).ctx none (opd e.ops 4) (opw e.ops 6)).data (opw e.ops 6) || maskPoisoned (begun s e 80) (newCmd s e 80) (opd e.ops 4) (opw e.ops 6) (engineRead (begun s e 80) (newCmd s e 80).ptn (newCmd s e 80).ctx none (opd e.ops 4) (opw e.ops 6)).data || maskBodyBad (engineRead (begun s e 80) (newCmd s e 80).ptn (newCmd s e 80).ctx none (opd e.ops 4) (opw e.ops 6)).data) = false ∧
      (getMask s (opf e.ops 2 0 16)).set = false) ∧
    (∃ (e : Entry) (s : State),
      Runs s e 81 ∧ engStopped s (EngineSel.mask (dieId (homeDie s (newCmd s e 81).ptn))) = true) ∧
    (∃ (e : Entry) (s : State),
      Runs s e 81 ∧ engStopped s (EngineSel.mask (dieId (homeDie s (newCmd s e 81).ptn))) = false) ∧
    (∃ (r : RingId) (k : TokRec) (rest : List TokRec) (s : State),
      isReady s = true ∧ (getRing s r.val).recs = k :: rest ∧ recRoom s r.val = true ∧ k.needDb = false) ∧
    (∃ (r : RingId) (s : State),
      ((getRing s r.val).recs = [] ∨ recRoom s r.val = false)) :=
  ⟨⟨0, { rn_1 with target := 1 }, bs1, kc, base2 id { rn_1 with target := 1 }, by unfold RowPolicies; rw [mirrorFree_iff]; decide +kernel⟩,
    ⟨0, r3, bs1, kc, base2 id r3, by unfold RowPolicies; rw [mirrorFree_iff]; decide +kernel⟩,
    ⟨0, rn_1, bs1, kc, base2 (fun y => { y with closing := some (0,9) }), (0,9), by unfold RowPolicies; rw [mirrorFree_iff]; decide +kernel⟩,
    ⟨en [(2,1),(4,0x21A000),(6,72)], { frM bt with flt := { engResets := [⟨.mask 0, [], 0x0901⟩] } }, by unfold Runs; decide +kernel⟩,
    ⟨en [(2,1),(4,0x21A000),(6,63)], frM bt, by unfold Runs; decide +kernel⟩,
    ⟨en [(2,1),(4,0x21A040),(6,72)], frM bt, by unfold Runs; decide +kernel⟩,
    ⟨en [(2,1),(4,0x21A000),(6,72)], { frM bt with masks := [(1, mk0), (2, { mk0 with ctx := 1 })] }, by unfold Runs; decide +kernel⟩,
    ⟨en [(2,1),(4,0x21A000),(6,72)], frM bt, by unfold Runs; decide +kernel⟩,
    ⟨en [(2,1)], { frM bt with flt := { engResets := [⟨.mask 0, [], 0x0901⟩] } }, by unfold Runs; decide +kernel⟩,
    ⟨en [(2,1)], frM bt, by unfold Runs; decide +kernel⟩,
    ⟨2, tr, [], rec_ [tr] b, by decide +kernel⟩,
    ⟨0, b, by decide +kernel⟩⟩

theorem witness_PortsTrainAndLosePeers :
    (∃ (fn : FnId) (_n : PortId) (_on : Bool) (s : State),
      Served s fn (fn.val == 0) false) ∧
    (∃ (fn : FnId) (_n : PortId) (s : State),
      Served s fn (fn.val == 0) false) ∧
    (∃ (n : PortId) (_rev : Bool) (s : State),
      (getPort s n.val).st = PortSt.equalise) ∧
    (∃ (n : PortId) (s : State),
      (getPort s n.val).st = PortSt.equalise) ∧
    (∃ (n : PortId) (s : State),
      (getPort s n.val).st = PortSt.align) ∧
    (∃ (n : PortId) (coord _port : Nat) (_bufs : List Nat) (s : State),
      (getPort s n.val).st = PortSt.exchange ∧ QuietLinks s ∧ coord % 65536 ≠ s.fab.coord ∧ nhas s.fab.lostSet (coord % 65536) = false) ∧
    (∃ (n : PortId) (coord _port : Nat) (v : Bool) (_bufs : List Nat) (s : State),
      (getPort s n.val).st = PortSt.exchange ∧ (v = false ∨ coord % 65536 = s.fab.coord) ∧ policyOf s 1793 = 0) ∧
    (∃ (n : PortId) (s : State),
      (getPort s n.val).st = PortSt.active) ∧
    (∃ (n : PortId) (s : State),
      (getPort s n.val).st = PortSt.retrain ∧ QuietLinks s) ∧
    (∃ (n : PortId) (s : State),
      (getPort s n.val).st = PortSt.retrain ∧ QuietLinks s ∧ (∀ (h : HeldFrame), h ∈ (getPort s n.val).held → h.owners = []) ∧ policyOf s 1794 = 1 ∧
      (∃ (m : Nat), m < 18 ∧ m ≠ n.val ∧ (getPort s m).st = PortSt.active ∧ (getPort s m).peerCoord = (getPort s n.val).peerCoord)) ∧
    (∃ (n : PortId) (s : State),
      isReady s = true ∧ (getPort s n.val).st = PortSt.retrain ∧ MirrorFree s ∧ policyOf s 1794 = 1 ∧ policyOf s 1795 = 1) ∧
    (∃ (n : PortId) (s : State),
      (getPort s n.val).st = PortSt.active ∧ MirrorFree s ∧ policyOf s 1795 = 1) ∧
    (∃ (n : PortId) (_coord : Nat) (s : State),
      isReady s = true ∧ (getPort s n.val).st = PortSt.active ∧ MirrorFree s ∧ policyOf s 1795 = 1) ∧
    (∃ (n : PortId) (_coord : Nat) (s : State),
      (getPort s n.val).st = PortSt.active) :=
  ⟨⟨0, 0, false, lgd (po 0 {st := .active} { b with fab := { b.fab with rx := [(0, 5 + 65536)] } }), by unfold Served; decide +kernel⟩,
    ⟨0, 0, lgd (po 0 {st := .active} { b with fab := { b.fab with rx := [(0, 5 + 65536)] } }), by unfold Served; decide +kernel⟩,
    ⟨0, false, po 0 { st := .equalise }, by decide +kernel⟩,
    ⟨0, po 0 { st := .equalise }, by decide +kernel⟩,
    ⟨0, po 0 { st := .align }, by decide +kernel⟩,
    ⟨0, 0, 0, [], po 0 { st := .exchange }, by rw [quietLinks_iff]; decide +kernel⟩,
    ⟨0, 0, 0, false, [], po 0 { st := .exchange }, by decide +kernel⟩,
    ⟨0, lgd (po 0 {st := .active} { b with fab := { b.fab with rx := [(0, 5 + 65536)] } }), by decide +kernel⟩,
    ⟨0, po 0 { st := .retrain }, by rw [quietLinks_iff]; decide +kernel⟩,
    ⟨0, po 0 {st := .retrain, peerCoord := 9, held := [⟨1, [], [], [], 0⟩]} (po 1 {st := .active, peerCoord := 9} b), by rw [quietLinks_iff]; decide +kernel⟩,
    ⟨0, po 0 { st := .retrain }, by rw [mirrorFree_iff]; decide +kernel⟩,
    ⟨0, lgd (po 0 {st := .active} { b with fab := { b.fab with rx := [(0, 5 + 65536)] } }), by rw [mirrorFree_iff]; decide +kernel⟩,
    ⟨0, 0, lgd (po 0 {st := .active} { b with fab := { b.fab with rx := [(0, 5 + 65536)] } }), by rw [mirrorFree_iff]; decide +kernel⟩,
    ⟨0, 0, lgd (po 0 {st := .active} { b with fab := { b.fab with rx := [(0, 5 + 65536)] } }), by decide +kernel⟩⟩

theorem witness_FramesChannelsAndCredits :
    (∃ (n : PortId) (b : List Byte) (s : State),
      (getPort s n.val).st = PortSt.active ∧ IdleLinks s ∧ readFrame b = none) ∧
    (∃ (n : PortId) (b : List Byte) (f : Frame) (s : State),
      (getPort s n.val).st = PortSt.active ∧ IdleLinks s ∧ readFrame b = some f ∧ f.nak = false ∧ (f.slots.all fun (k : FrameSlot) => k.kind == 0) = true ∧
      f.seq = ((getPort s n.val).expect + 4095) % 4096 ∧ (getPort s n.val).held = []) ∧
    (∃ (n : PortId) (b : List Byte) (f : Frame) (s : State) (h1 : List HeldFrame) (a : HeldFrame) (h2 : List HeldFrame),
      (getPort s n.val).st = PortSt.active ∧ IdleLinks s ∧ readFrame b = some f ∧ f.nak = false ∧ (f.slots.all fun (k : FrameSlot) => k.kind == 0) = true ∧
      f.seq = ((getPort s n.val).expect + 4095) % 4096 ∧ (getPort s n.val).held = h1 ++ a :: h2 ∧ a.seq = f.ack ∧
      (∀ (h : HeldFrame), h ∈ h1 → h.seq ≠ f.ack)) ∧
    (∃ (n : PortId) (b : List Byte) (f : Frame) (s : State) (k : FrameSlot) (rest : List FrameSlot),
      (getPort s n.val).st = PortSt.active ∧ IdleLinks s ∧ readFrame b = some f ∧ f.nak = false ∧ f.seq = (getPort s n.val).expect ∧ f.slots = k :: rest ∧
      (k.kind = 1 ∨ k.kind = 2) ∧ (∀ (j : FrameSlot), j ∈ rest → j.kind = 0) ∧ (getPort s n.val).held = []) ∧
    (∃ (n : PortId) (b : List Byte) (f : Frame) (s : State),
      (getPort s n.val).st = PortSt.active ∧ IdleLinks s ∧ readFrame b = some f ∧ f.nak = false ∧
      ((f.slots.all fun (k : FrameSlot) => k.kind == 0) = true ∧ f.seq ≠ ((getPort s n.val).expect + 4095) % 4096 ∨ (f.slots.all fun (k : FrameSlot) => k.kind == 0) = false ∧ f.seq ≠ (getPort s n.val).expect) ∧
      (getPort s n.val).held = []) ∧
    (∃ (n : PortId) (s : State),
      (getPort s n.val).st = PortSt.active ∧ IdleLinks s) ∧
    (∃ (n : PortId) (c : Instr) (s : State),
      (getPort s n.val).st ≠ PortSt.active ∧
      ((∃ (b : List Byte), c = Instr.frameReceive n b) ∨ c = Instr.replayTimeout n ∨ c = Instr.leavingPacket n ∨ c = Instr.signalLoss n ∨ (∃ (k : Nat), c = Instr.lostNotice n k ∨ c = Instr.returnNotice n k) ∨ (∃ (k : Packet), c = Instr.channelPacket n k) ∨ ∃ (a : Nat), ∃ (k : Nat), ∃ (m : Nat), c = Instr.channelCredit n ⟨a, k⟩ m)) ∧
    (∃ (n : PortId) (k : Packet) (s : State),
      (getPort s n.val).st = PortSt.active ∧ QuietLinks s ∧ k.type = 0 ∧ k.vl = 3 ∧ k.mcast = false ∧ k.dest = s.fab.coord) ∧
    (∃ (n : PortId) (k : Packet) (s : State),
      (getPort s n.val).st = PortSt.active ∧ QuietLinks s ∧ k.type = 0 ∧ k.vl = 3 ∧ k.mcast = false ∧ k.dest ≠ s.fab.coord ∧
      nhas s.fab.lostSet k.dest = true) ∧
    (∃ (n : PortId) (k : Packet) (s : State),
      (getPort s n.val).st = PortSt.active ∧ QuietLinks s ∧ k.type = 0 ∧ k.vl = 3 ∧ k.mcast = false ∧ k.dest ≠ s.fab.coord ∧
      nhas s.fab.lostSet k.dest = false ∧ (∀ (m : Nat), routePort s k.dest = some m → canSend s m k = false)) ∧
    (∃ (n : PortId) (k : Packet) (s : State) (m : Nat),
      (getPort s n.val).st = PortSt.active ∧ QuietLinks s ∧ k.type = 0 ∧ k.vl = 3 ∧ k.mcast = false ∧ k.dest ≠ s.fab.coord ∧
      nhas s.fab.lostSet k.dest = false ∧ routePort s k.dest = some m ∧ canSend s m k = true) ∧
    (∃ (n : PortId) (_src _ch _cr : Nat) (s : State),
      (getPort s n.val).st = PortSt.active) :=
  ⟨⟨0, wrongCrc, act {}, by decide +kernel, by rw [idleLinks_iff, quietLinks_iff]; decide +kernel, readFrame_wrongCrc⟩,
    ⟨0, frameBytes (fr 0 0 idleSlots), fr 0 0 idleSlots, act {}, by decide +kernel, by rw [idleLinks_iff, quietLinks_iff]; decide +kernel, readFrame_frameBytes _ (by unfold FrameOk; decide +kernel), by decide +kernel⟩,
    ⟨0, frameBytes (fr 0 5 idleSlots), fr 0 5 idleSlots, act { held := [⟨5, [], [], [], 0⟩] }, [], ⟨5, [], [], [], 0⟩, [], by decide +kernel, by rw [idleLinks_iff, quietLinks_iff]; decide +kernel, readFrame_frameBytes _ (by unfold FrameOk; decide +kernel), by decide +kernel⟩,
    ⟨0, frameBytes (fr 1 0 (sl 1 :: idleSlots.tail)), fr 1 0 (sl 1 :: idleSlots.tail), act {}, sl 1, idleSlots.tail, by decide +kernel, by rw [idleLinks_iff, quietLinks_iff]; decide +kernel, readFrame_frameBytes _ (by unfold FrameOk; decide +kernel), by decide +kernel⟩,
    ⟨0, frameBytes (fr 7 0 idleSlots), fr 7 0 idleSlots, act {}, by decide +kernel, by rw [idleLinks_iff, quietLinks_iff]; decide +kernel, readFrame_frameBytes _ (by unfold FrameOk; decide +kernel), by decide +kernel⟩,
    ⟨0, act {}, by decide +kernel, by rw [idleLinks_iff, quietLinks_iff]; decide +kernel⟩,
    ⟨0, .replayTimeout 0, po 0 {}, by decide +kernel, Or.inr (Or.inl rfl)⟩,
    ⟨0, pk 7, act {}, by rw [quietLinks_iff]; decide +kernel⟩,
    ⟨0, pk 5, act {}, by rw [quietLinks_iff]; decide +kernel⟩,
    by
      refine ⟨0, pk 9, act {}, ?_, (quietLinks_iff _).2 ?_, ?_, ?_, ?_, ?_, ?_, oneRoute (n := 1) ?_ ?_⟩ <;> decide +kernel,
    ⟨0, pk 9, po 1 { st := .active, credits := [0,50,0,50] } (act {}), 1, by rw [quietLinks_iff]; decide +kernel⟩,
    ⟨0, 0, 0, 0, act {}, by decide +kernel⟩⟩

theorem witness_RoutesAreStagedAndExchangeStepsStart :
    (∃ (e : Entry) (s : State),
      Runs s e 24 ∧ (getCtx s (newCmd s e 24).ctx).cur.figOps = false) ∧
    (∃ (e : Entry) (s : State) (st : Nat),
      Runs s e 24 ∧ (getCtx s (newCmd s e 24).ctx).cur.figOps = true ∧ readDesc (begun s e 24) (newCmd s e 24) (opd e.ops 4) 64 = Except.error st) ∧
    (∃ (e : Entry) (s : State) (h : List Byte),
      Runs s e 24 ∧ (getCtx s (newCmd s e 24).ctx).cur.figOps = true ∧ readDesc (begun s e 24) (newCmd s e 24) (opd e.ops 4) 64 = Except.ok h ∧
      (routeHeadBad h = true ∨ opw e.ops 6 < (routeParts h).snd.snd.snd)) ∧
    (∃ (e : Entry) (h b : List Byte) (s : State),
      Runs s e 24 ∧ (getCtx s (newCmd s e 24).ctx).cur.figOps = true ∧ readDesc (begun s e 24) (newCmd s e 24) (opd e.ops 4) 64 = Except.ok h ∧
      routeHeadBad h = false ∧ (routeParts h).snd.snd.snd ≤ opw e.ops 6 ∧
      readDesc (begun s e 24) (newCmd s e 24) (opd e.ops 4) (min (opw e.ops 6) (alignUp (routeParts h).snd.snd.snd 64)) = Except.ok b ∧
      routeListsBad s (newCmd s e 24).ptn b (decRoute b) = true) ∧
    (∃ (e : Entry) (h b : List Byte) (s : State),
      Runs s e 24 ∧ (getCtx s (newCmd s e 24).ctx).cur.figOps = true ∧ readDesc (begun s e 24) (newCmd s e 24) (opd e.ops 4) 64 = Except.ok h ∧
      routeHeadBad h = false ∧ (routeParts h).snd.snd.snd ≤ opw e.ops 6 ∧
      readDesc (begun s e 24) (newCmd s e 24) (opd e.ops 4) (min (opw e.ops 6) (alignUp (routeParts h).snd.snd.snd 64)) = Except.ok b ∧
      routeListsBad s (newCmd s e 24).ptn b (decRoute b) = false ∧
      65536 < slotsElsewhere s (newCmd s e 24).ptn (bits (wordAt b 1) 16 4) + homedSlots s (decRoute b)) ∧
    (∃ (e : Entry) (h b : List Byte) (s : State),
      Runs s e 24 ∧ (getCtx s (newCmd s e 24).ctx).cur.figOps = true ∧ readDesc (begun s e 24) (newCmd s e 24) (opd e.ops 4) 64 = Except.ok h ∧
      routeHeadBad h = false ∧ (routeParts h).snd.snd.snd ≤ opw e.ops 6 ∧
      readDesc (begun s e 24) (newCmd s e 24) (opd e.ops 4) (min (opw e.ops 6) (alignUp (routeParts h).snd.snd.snd 64)) = Except.ok b ∧
      routeListsBad s (newCmd s e 24).ptn b (decRoute b) = false ∧
      slotsElsewhere s (newCmd s e 24).ptn (bits (wordAt b 1) 16 4) + homedSlots s (decRoute b) ≤ 65536) ∧
    (∃ (p : PtnId) (x : Fin 16) (r : Running) (s : State),
      isReady s = true ∧ (getPtn s p.val).fe.run = some r ∧ s.fab.here = [] ∧ xStepDue s p.val x.val = true ∧
      tableFor (getExch s p.val x.val) (getExch s p.val x.val).step = none ∧ policyOf s 1800 = 0 ∧ MirrorFree s ∧ ptnOfCtx s r.ctx < 32) ∧
    (∃ (p : PtnId) (x : Fin 16) (r : Running) (s : State) (t0 : RouteTbl),
      isReady s = true ∧ (getPtn s p.val).fe.run = some r ∧ s.fab.here = [] ∧ xStepDue s p.val x.val = true ∧
      tableFor (getExch s p.val x.val) (getExch s p.val x.val).step = some t0 ∧
      bufferPages s p.val r.ctx < xchPages s p.val x.val (roundPositions s p.val r (tokensOf s p.val x.val (getExch s p.val x.val).step t0 r (getExch s p.val x.val)).length) t0 ∧
      policyOf s 1799 = 0 ∧ MirrorFree s ∧ ptnOfCtx s r.ctx < 32) ∧
    (∃ (p : PtnId) (x : Fin 16) (r : Running) (s : State) (t0 : RouteTbl),
      isReady s = true ∧ (getPtn s p.val).fe.run = some r ∧ s.fab.here = [] ∧ xStepDue s p.val x.val = true ∧
      tableFor (getExch s p.val x.val) (getExch s p.val x.val).step = some t0 ∧
      xchPages s p.val x.val (roundPositions s p.val r (tokensOf s p.val x.val (getExch s p.val x.val).step t0 r (getExch s p.val x.val)).length) t0 ≤ bufferPages s p.val r.ctx ∧
      muted s = false) :=
  ⟨⟨en [(4,0x218000),(6,400)], modCtx 0 (fun c => { c with cur := { c.cur with figOps := false } }) (coord7 rtS), by unfold Runs; decide +kernel⟩,
    ⟨en [(4,0x218001),(6,400)], coord7 rtS, 2, by unfold Runs; decide +kernel⟩,
    ⟨en [(4,0x218040),(6,400)], coord7 rtS, slice rtBytes 64 64, by unfold Runs; decide +kernel⟩,
    ⟨en [(4,0x218800),(6,400)], (rtBytes).take 64, padTo 256 (rtBytes 40000), coord7 rtS, by unfold Runs; decide +kernel⟩,
    ⟨en [(4,0x218000),(6,400)], (rtBytes).take 64, padTo 256 (rtBytes), coord7 (bp 0 (fun x => { x with xch := { x.xch with exchs := [(1, { cur := some { rt0 with experts := [(0,1,70000)] } })] } }) rtS), by unfold Runs; decide +kernel⟩,
    ⟨en [(4,0x218000),(6,400)], (rtBytes).take 64, padTo 256 (rtBytes), coord7 rtS, by unfold Runs; decide +kernel⟩,
    ⟨0, 0, rn_1, pol [(0x0708, 0)] (xs fun e => { e with cur := none, step := 0 }), by rw [mirrorFree_iff]; decide +kernel⟩,
    ⟨0, 0, rn_1, pol [(0x0707, 0)] (bp 0 (fun x => { x with xch := { x.xch with bufPages := 0 } }) xs), rt0, by rw [mirrorFree_iff]; decide +kernel⟩,
    ⟨0, 0, rn_1, xs, rt0, by decide +kernel⟩⟩

theorem witness_DispatchUnitsActAtHomeAndSender :
    (∃ (u : XUnit) (k : Nat × Instr) (s : State),
      k ∈ [(1, Instr.score u), (2, Instr.end_ u), (3, Instr.grant u), (4, Instr.grantEnd u), (5, Instr.act u), (6, Instr.answer u), (7, Instr.cancel u), (8, Instr.void u)] ∧
      TakesUnit s u ∧ heldStep (unitExch s u) (u.step % 256) = none ∧ policyOf s 1797 = 0 ∧ MirrorFree s ∧ u.dstPtn < 32) ∧
    (∃ (u : XUnit) (k : Nat × Instr) (s : State),
      k ∈ [(1, Instr.score u), (2, Instr.end_ u), (3, Instr.grant u), (4, Instr.grantEnd u), (5, Instr.act u), (6, Instr.answer u), (7, Instr.cancel u), (8, Instr.void u)] ∧
      s.fab.here = [] ∧ xchStopped s u.dstPtn = true) ∧
    (∃ (u : XUnit) (n l : Nat) (t : RouteTbl) (s : State),
      HeldUnit s u n t ∧ cancelled s u.dstPtn (u.exch % 16) n u = false ∧ unitCard s u.dstPtn (u.exch % 16) t u = some l) ∧
    (∃ (u : XUnit) (n : Nat) (t : RouteTbl) (s : State),
      HeldUnit s u n t ∧ cancelled s u.dstPtn (u.exch % 16) n u = false ∧ MirrorFree s ∧ u.dstPtn < 32 ∧
      (countOf (unitExch s u) n u.src u.srcPtn).scores ≠ BitVec.toNat u.value ∧ policyOf s 1798 = 0) ∧
    (∃ (u : XUnit) (n : Nat) (t : RouteTbl) (s : State),
      HeldUnit s u n t ∧ cancelled s u.dstPtn (u.exch % 16) n u = false ∧ MirrorFree s ∧ u.dstPtn < 32 ∧
      (countOf (unitExch s u) n u.src u.srcPtn).scores = BitVec.toNat u.value ∧ policyOf s 1796 = 0) ∧
    (∃ (u : XUnit) (n l : Nat) (t : RouteTbl) (k : Card) (s : State),
      HeldUnit s u n t ∧ cancelled s u.dstPtn (u.exch % 16) n u = false ∧ unitCard s u.dstPtn (u.exch % 16) t u = some l ∧
      List.find? (isCard n l) (unitExch s u).cards = some k ∧ (List.map (fun (k : Card) => (k.step, k.card)) (unitExch s u).cards).Nodup ∧
      (k.cands.any fun (c : Cand) => c.src == u.src && c.ptn == u.srcPtn && c.row == u.row && c.pos == u.pos && c.expert == u.expert) = true) ∧
    (∃ (u : XUnit) (n : Nat) (t : RouteTbl) (s : State),
      HeldUnit s u n t ∧ policyOf s 1796 = 0 ∧ MirrorFree s ∧ u.dstPtn < 32) ∧
    (∃ (u : XUnit) (c : Instr) (n : Nat) (t : RouteTbl) (s : State),
      HeldUnit s u n t ∧ c ∈ [Instr.grant u, Instr.grantEnd u, Instr.answer u, Instr.void u] ∧ (getBatch s u.dstPtn (u.batch % 64)).gen ≠ u.generation) ∧
    (∃ (u : XUnit) (n : Nat) (t : RouteTbl) (k : XTok) (s : State),
      HeldUnit s u n t ∧ (getBatch s u.dstPtn (u.batch % 64)).gen = u.generation ∧ List.find? (sameTok n u) (unitExch s u).toks = some k) ∧
    (∃ (u : XUnit) (n : Nat) (t : RouteTbl) (s : State),
      HeldUnit s u n t ∧ (getBatch s u.dstPtn (u.batch % 64)).gen = u.generation ∧ u.dstPtn < 32 ∧
      (sendCountOf (unitExch s u) n u.src u.srcPtn).grants ≠ BitVec.toNat u.value ∧ policyOf s 1798 = 0 ∧ MirrorFree s) ∧
    (∃ (u : XUnit) (n : Nat) (t : RouteTbl) (s : State),
      HeldUnit s u n t ∧ (getBatch s u.dstPtn (u.batch % 64)).gen = u.generation ∧ u.dstPtn < 32 ∧
      (sendCountOf (unitExch s u) n u.src u.srcPtn).grants = BitVec.toNat u.value) ∧
    (∃ (u : XUnit) (n i : Nat) (t : RouteTbl) (k : XTok) (c : TokCand) (s : State),
      HeldUnit s u n t ∧ (getBatch s u.dstPtn (u.batch % 64)).gen = u.generation ∧ List.find? (sameTok n u) (unitExch s u).toks = some k ∧
      lpos (candFrom u) k.cands = some i ∧ k.cands[i]? = some c ∧ c.void = false ∧ c.grant.isSome = true) ∧
    (∃ (u : XUnit) (n : Nat) (t : RouteTbl) (k : XTok) (s : State),
      HeldUnit s u n t ∧ (getBatch s u.dstPtn (u.batch % 64)).gen = u.generation ∧ (unitExch s u).toks = [k] ∧ k.step = n ∧ k.batch = u.batch ∧
      k.gen = u.generation ∧ k.out = false) :=
  ⟨⟨uu (fun u => { u with step := 99 }), (1, .score (uu fun u => { u with step := 99 })), sp (ex id), by unfold TakesUnit; rw [mirrorFree_iff]; decide +kernel⟩,
    ⟨uu, (1, .score uu), { sp (ex id) with flt := { engResets := [⟨.exchange 0, [], 0x0901⟩] } }, by decide +kernel⟩,
    ⟨uu, 5, 3, rt0, sp (ex id), by unfold HeldUnit TakesUnit; decide +kernel⟩,
    ⟨uu, 5, rt0, sp (ex id), by unfold HeldUnit TakesUnit; rw [mirrorFree_iff]; decide +kernel⟩,
    ⟨uu (fun u => { u with value := 1 }), 5, rt0, sp (ex (fun e => { e with counts := [hc 5 1 none, hc 7 0 (some 0)] })), by unfold HeldUnit TakesUnit; rw [mirrorFree_iff]; decide +kernel⟩,
    ⟨uu, 5, 3, rt0, k0, sp (ex (fun e => { e with cards := [k0] })), by unfold HeldUnit TakesUnit; decide +kernel⟩,
    ⟨uu, 5, rt0, sp (ex id), by unfold HeldUnit TakesUnit; rw [mirrorFree_iff]; decide +kernel⟩,
    ⟨uu (fun u => { u with generation := 4 }), .grant (uu fun u => { u with generation := 4 }), 5, rt0, sp (ex id), by unfold HeldUnit TakesUnit; decide +kernel⟩,
    ⟨uu, 5, rt0, tk, sp (ex (fun e => { e with toks := [tk] })), by unfold HeldUnit TakesUnit; decide +kernel⟩,
    ⟨uu, 5, rt0, sp (ex id), by unfold HeldUnit TakesUnit; rw [mirrorFree_iff]; decide +kernel⟩,
    ⟨uu (fun u => { u with value := 2 }), 5, rt0, sp (ex (fun e => { e with toks := [tkg], sends := [⟨5,5,0,2,none⟩, ⟨5,7,0,0,some 0⟩] })), by unfold HeldUnit TakesUnit; decide +kernel⟩,
    ⟨uu, 5, 0, rt0, tkg, { tc with grant := some 1 }, sp (ex (fun e => { e with toks := [tkg], sends := [⟨5,5,0,2,none⟩, ⟨5,7,0,0,some 0⟩] })), by unfold HeldUnit TakesUnit; decide +kernel⟩,
    ⟨uu, 5, rt0, tk, sp (ex (fun e => { e with toks := [tk] })), by unfold HeldUnit TakesUnit; decide +kernel⟩⟩

theorem witness_CapBudgetsClampAndBrake :
    (∃ (_w : Nat) (s : State),
      s.boot.aon = true ∧ s.mgmt.eid.isSome = true) ∧
    (∃ (_m : Measure) (s : State),
      s.boot.aon = true ∧ policyOf s 2052 = 0 ∧ MirrorFree s) ∧
    (∃ (q : QtrId) (s : State),
      (getQtr s q.val).railOn = true) ∧
    (∃ (q : QtrId) (_n : Nat) (s : State),
      (getQtr s q.val).clamping = true) ∧
    (∃ (s : State),
      s.boot.aon = true ∧ s.pwr.brake = false ∧ policyOf s 2053 = 0) ∧
    (∃ (s : State),
      s.pwr.brake = true) ∧
    (∃ (s : State),
      s.pwr.brakeWait = true) ∧
    (∃ (s : State),
      s.pwr.brakeWait = false) ∧
    (∃ (s : State),
      s.pwr.brake = false) :=
  ⟨⟨0, at_ .standby { off with boot := { off.boot with aon := true }, mgmt := { eid := some 8 } }, by decide +kernel⟩,
    ⟨{ qtrAmps := [1,2,3,5000], volts := 900, amps := 10, inputW := 1000, coreW := 900 }, at_ .standby { off with boot := { off.boot with aon := true }, mgmt := { eid := some 8 } }, by rw [mirrorFree_iff]; decide +kernel⟩,
    ⟨0, pol [(0x0801,0),(0x0802,0)] (id b), by decide +kernel⟩,
    ⟨0, 0, pol [(0x0801,0),(0x0802,0)] ((qt 0 (fun x => { x with clamping := true, clampCycles := 5 })) b), by decide +kernel⟩,
    ⟨at_ .standby { off with boot := { off.boot with aon := true }, mgmt := { eid := some 8 } }, by decide +kernel⟩,
    ⟨pol [(0x0801,0),(0x0802,0)] ((pw (fun w => { w with brake := true })) b), by decide +kernel⟩,
    ⟨pol [(0x0801,0),(0x0802,0)] ((pw (fun w => { w with brakeWait := true })) b), by decide +kernel⟩,
    ⟨off, by decide +kernel⟩,
    ⟨off, by decide +kernel⟩⟩

theorem witness_SensorsStepPartitionsByTheirRows :
    (∃ (q : QtrId) (_k : Fin 4) (_temp : Nat) (s : State),
      switchedUp s = true ∧ ptnOfQtr s q.val = none) ∧
    (∃ (q : QtrId) (_k : Fin 4) (_temp p : Nat) (s : State),
      switchedUp s = true ∧ ptnOfQtr s q.val = some p ∧ policyOf s 2049 = 0 ∧ policyOf s 2050 = 0) ∧
    (∃ (d : DieId) (_k : Fin 2) (_temp : Nat) (s : State),
      switchedUp s = true ∧ ptnsOfDie s d.val = []) ∧
    (∃ (_h : DieId) (_temp : Nat) (s : State),
      switchedUp s = true ∧ policyOf s 2050 = 0) ∧
    (∃ (_n : Fin 24) (_temp : Nat) (s : State),
      switchedUp s = true ∧ policyOf s 2050 = 0) ∧
    (∃ (r : Fin 73) (_temp : Nat) (s : State),
      (switchedUp s = true ∨ s.boot.aon = true ∧ r.val = 72)) ∧
    (∃ (q1 q2 : QtrId) (a b : Nat) (s : State),
      ptnOfQtr s q1.val = some a ∧ ptnOfQtr s q2.val = some b ∧ a ≠ b ∧ adjacent q1.val q2.val = true ∧ qtrHot s q2.val + 320 < qtrHot s q1.val ∧
      policyOf s 2050 = 0) ∧
    (∃ (_n temp : Nat) (s : State),
      switchedUp s = true ∧ 1840 ≤ temp ∧ policyOf s 2051 = 5) :=
  ⟨⟨31, 0, 0, pol [(0x0801,0),(0x0802,0)] (id b), by decide +kernel⟩,
    ⟨0, 0, 0, 0, pol [(0x0801,0),(0x0802,0)] (id b), by decide +kernel⟩,
    ⟨1, 0, 0, pol [(0x0801,0),(0x0802,0)] (id b), by decide +kernel⟩,
    ⟨0, 0, pol [(0x0801,0),(0x0802,0)] (id b), by decide +kernel⟩,
    ⟨0, 0, pol [(0x0801,0),(0x0802,0)] (id b), by decide +kernel⟩,
    ⟨0, 0, pol [(0x0801,0),(0x0802,0)] (id b), by decide +kernel⟩,
    ⟨0, 2, 0, 1, pol [(0x0801,0),(0x0802,0)] ((hot 0 1 1600) b), by decide +kernel⟩,
    ⟨0, 5000, pol [(0x0801,0),(0x0802,0)] (id b), by decide +kernel⟩⟩

theorem witness_CoolantRailsAndClocks :
    (∃ (_inlet _outlet : Nat) (s : State),
      s.boot.aon = true ∧ policyOf s 2050 = 0) ∧
    (∃ (rail _amps : Nat) (s : State),
      switchedUp s = true ∧ s.boot.aon = true ∧ rail ≤ 73 ∧ policyOf s 2055 = 5) ∧
    (∃ (_amps : Nat) (s : State),
      switchedUp s = true ∧ s.boot.aon = true ∧ s.pwr.breaker = false ∧ policyOf s 2055 = 5) ∧
    (∃ (d : DieId) (s : State),
      isReady s = true ∧ (getDie s d.val).pll = true ∧ MirrorFree s ∧ policyOf s 258 = 3) ∧
    (∃ (d : DieId) (s : State),
      isReady s = true ∧ (getDie s d.val).pll = false ∧ policyOf s 259 = 4) ∧
    (∃ (_d : DieId) (s : State),
      switchedUp s = true) ∧
    (∃ (q : QtrId) (s : State),
      (∀ (p : Nat), ptnOfQtr s q.val = some p → ptnRuns (getPtn s p) = true ∨ (getPtn s p).fig.st = FigSt.mirror)) ∧
    (∃ (q : QtrId) (p : Nat) (s : State),
      ptnOfQtr s q.val = some p ∧ ptnRuns (getPtn s p) = false ∧ (getPtn s p).fig.st ≠ FigSt.mirror ∧ s.pwr.brake = false ∧ s.pwr.brakeWait = false ∧
      (getPtn s p).pwr.brakePos = none ∧ qtrsOf s p = [q.val] ∧ divTarget s p < (getPtn s p).pwr.divActive ∧
      fasterPos s p (divTarget s p) (getPtn s p).pwr.divActive < (getPtn s p).pwr.divActive ∧
      mvOf (fasterPos s p (divTarget s p) (getPtn s p).pwr.divActive) ≤ (getQtr s q.val).mvTarget) :=
  ⟨⟨0, 0, at_ .standby { off with boot := { off.boot with aon := true }, mgmt := { eid := some 8 } }, by decide +kernel⟩,
    ⟨0, 0, id b, by decide +kernel⟩,
    ⟨0, id b, by decide +kernel⟩,
    ⟨0, id b, by rw [mirrorFree_iff]; decide +kernel⟩,
    ⟨0, (pll 0) b, by decide +kernel⟩,
    ⟨0, id b, by decide +kernel⟩,
    ⟨0, off, by decide +kernel⟩,
    ⟨2, 1, (ppw 1 (fun x => { x with divActive := 3 })) b, by decide +kernel⟩⟩

theorem witness_ResetCommandsBeginTheirLevel :
    (∃ (fn : FnId) (s : State),
      Served s fn (fn.val == 0) true ∧ isReady s = true) ∧
    (∃ (fn : FnId) (s : State),
      Served s fn (fn.val == 0) true ∧ s.boot.stage = Stage.resetting) ∧
    (∃ (fn : FnId) (k : Nat) (d : DieId) (p : PtnId) (e : EngineSel) (s : State),
      Served s fn (fn.val == 0) true ∧ isReady s = true ∧ engineOf k d p = some e ∧ engExists s e = true ∧ engPending s e = false ∧
      (e = EngineSel.figure p → (getPtn s p.val).reset = none)) ∧
    (∃ (fn : FnId) (p : PtnId) (s : State),
      Served s fn (fn.val == 0) true ∧ isReady s = true ∧ (getPtn s p.val).exists_ = true ∧ (getPtn s p.val).reset = none) :=
  ⟨⟨0, b, by unfold Served; decide +kernel⟩,
    ⟨0, rr, by unfold Served; decide +kernel⟩,
    ⟨0, 1, 0, 0, .figure 0, b, by unfold Served; decide +kernel⟩,
    ⟨0, 0, b, by unfold Served; decide +kernel⟩⟩

theorem witness_ResetsEndAsTheirStepsSay :
    (∃ (e : EngineSel) (s : State),
      isReady s = true ∧ engPending s e = true ∧ (∀ (p : PtnId), e = EngineSel.figure p → (getPtn s p.val).fe.queue = [] ∧ (getPtn s p.val).fe.saved = []) ∧
      s.fab.here = [] ∧ policyOf s 1283 = 0 ∧ MirrorFree s) ∧
    (∃ (p : PtnId) (c : Nat) (s : State),
      isReady s = true ∧ (getPtn s p.val).reset = some (c, 0) ∧ policyOf s 1283 = 0 ∧ MirrorFree s) ∧
    (∃ (s : State),
      s.boot.stage = Stage.resetting ∧ List.isEmpty s.sets = false) :=
  ⟨⟨.figure 0, er (.figure 0) mb_1, by rw [mirrorFree_iff]; decide +kernel⟩,
    ⟨0, 0x0901, pr 0 mb_1, by rw [mirrorFree_iff]; decide +kernel⟩,
    ⟨rr, by decide +kernel⟩⟩

theorem witness_SnapshotsPoliciesAndModuleErrors :
    (∃ (fn : FnId) (s : State),
      Served s fn (fn.val == 0) true) ∧
    (∃ (fn : FnId) (group number : Nat) (_val : Word) (s : State),
      Served s fn (fn.val == 0) true ∧ number < 16 ∧ isFaultCode (256 * group + number) = true) ∧
    (∃ (_d : DieId) (_missed : Nat) (s : State),
      isReady s = true ∧ policyOf s 260 = 4) ∧
    (∃ (_d : DieId) (_missed : Nat) (s : State),
      switchedUp s = true ∧ isReady s = false ∧ policyOf s 260 = 4) ∧
    (∃ (s : State),
      s.boot.aon = true) ∧
    (∃ (_pc : Word) (s : State),
      s.boot.aon = true ∧ policyOf s 261 = 0) ∧
    (∃ (p : PtnId) (_core _addr : Nat) (s : State),
      isReady s = true ∧ (getPtn s p.val).exists_ = true ∧ (getPtn s p.val).reset = none ∧ policyOf s 262 = 3) ∧
    (∃ (e : EngineSel) (_entry : Nat) (s : State),
      isReady s = true ∧ engExists s e = true ∧ engPending s e = false ∧ (∀ (p : PtnId), e = EngineSel.figure p → (getPtn s p.val).reset = none) ∧
      policyOf s 1285 = 2 ∧ engDie s e < 8) ∧
    (∃ (s : State),
      s.boot.aon = true ∧ isReady s = true ∧ policyOf s 2307 = 4) :=
  ⟨⟨0, b, by unfold Served; decide +kernel⟩,
    ⟨0, 3, 3, 0, b, by unfold Served; decide +kernel⟩,
    ⟨0, 0, b, by decide +kernel⟩,
    ⟨0, 0, at_ .resetting b, by decide +kernel⟩,
    ⟨b, by decide +kernel⟩,
    ⟨0, b, by decide +kernel⟩,
    ⟨0, 0, 0, b, by decide +kernel⟩,
    ⟨.figure 0, 0, b, by decide +kernel⟩,
    ⟨b, by decide +kernel⟩⟩

theorem witness_ResetTimeoutsStartTheNextLevel :
    (∃ (c : CtxId) (stuck : List EngineSel) (s : State),
      isReady s = true ∧ ctxPending s c.val = true ∧ (∀ (p : PtnId), EngineSel.figure p ∈ holders s c.val stuck → (getPtn s p.val).reset = none)) ∧
    (∃ (e : EngineSel) (s : State),
      isReady s = true ∧ engPending s e = true ∧ engExists s e = true) ∧
    (∃ (p : PtnId) (s : State),
      isReady s = true ∧ ptnPending s p.val = true) ∧
    (∃ (s : State),
      s.boot.stage = Stage.resetting) :=
  ⟨⟨0, [], (rsC 1 mb_1), by decide +kernel⟩,
    ⟨.figure 0, (er (.figure 0) mb_1), by decide +kernel⟩,
    ⟨0, (pr 0 mb_1), by decide +kernel⟩,
    ⟨rr, by decide +kernel⟩⟩

theorem witness_MirrorModeRunsToItsEnd :
    (∃ (p : PtnId) (c : Nat) (s : State),
      isReady s = true ∧ (getPtn s p.val).reset = some (c, 1) ∧ (getPtn s p.val).fig.st = FigSt.mirror ∧ (getPtn s p.val).flt.cur.mirrorSlot < 8) ∧
    (∃ (p : PtnId) (s : State),
      isReady s = true ∧ mirroring (getPtn s p.val) = true ∧ policyOf s 518 = 4) :=
  ⟨⟨0, 0x0901, pr 1 mb_1, by decide +kernel⟩,
    ⟨0, pr 2 mb_1, by decide +kernel⟩⟩

theorem witness_MirrorModeEndsEmptyOrFaulted :
    (∃ (p : PtnId) (f : Figure) (ms : List MirrorRound) (s : State),
      isReady s = true ∧ mirroring (getPtn s p.val) = true ∧ (getPtn s p.val).figure = some f ∧
      mirrorTarget (getPtn s p.val) ≤ (getPtn s p.val).mirrorRounds ∧ mirrorDiffers f ms = none) ∧
    (∃ (p : PtnId) (f : Figure) (ms : List MirrorRound) (s : State) (q k : Nat),
      isReady s = true ∧ mirroring (getPtn s p.val) = true ∧ (getPtn s p.val).figure = some f ∧
      mirrorTarget (getPtn s p.val) ≤ (getPtn s p.val).mirrorRounds ∧ mirrorDiffers f ms = some (q, k) ∧ policyOf s 518 = 4) ∧
    (∃ (p : PtnId) (f : Figure) (_ms : List MirrorRound) (s : State),
      isReady s = true ∧ mirroring (getPtn s p.val) = true ∧ (getPtn s p.val).figure = some f ∧
      (getPtn s p.val).mirrorRounds < mirrorTarget (getPtn s p.val)) ∧
    (∃ (p : PtnId) (core _addr : Nat) (s : State),
      isReady s = true ∧ (getPtn s p.val).exists_ = true ∧ mirroring (getPtn s p.val) = true ∧ core < 81920 ∧ policyOf s 262 = 3 ∧ policyOf s 518 = 4) :=
  ⟨⟨0, fgM, [⟨[(0, 4)], []⟩, ⟨[(100, 4)], []⟩], mrun 2, by decide +kernel⟩,
    ⟨0, fgM, [⟨[(0, 4)], []⟩, ⟨[(100, 5)], []⟩], mrun 2, 0, 3, by decide +kernel⟩,
    ⟨0, fgM, [], mrun 1, by decide +kernel⟩,
    ⟨0, 0, 0, mrun 1, by decide +kernel⟩⟩

theorem witness_ManagementReadsAndFirmware :
    (∃ (_inst : Nat) (s : State),
      Reached s ∧ s.boot.stage ≠ Stage.recoveryWait) ∧
    (∃ (_inst _first count : Nat) (s : State),
      Reached s ∧ s.boot.stage ≠ Stage.recoveryWait ∧ 1 ≤ count ∧ count ≤ 32) ∧
    (∃ (_inst off len : Nat) (s : State),
      Reached s ∧ s.boot.stage ≠ Stage.recoveryWait ∧ 1 ≤ len ∧ len ≤ 1024 ∧ off + len ≤ 327680) ∧
    (∃ (_inst _a _b : Nat) (s : State),
      Reached s ∧ s.boot.stage = Stage.recoveryWait) ∧
    (∃ (_inst off : Nat) (data : List Byte) (s : State),
      Reached s ∧ s.boot.stage ∈ [Stage.recoveryWait, Stage.standby, Stage.ready, Stage.failed] ∧ data ≠ [] ∧ data.length ≤ 1024 ∧
      off + data.length ≤ 8388608) ∧
    (∃ (_inst size : Nat) (s : State),
      Reached s ∧ s.boot.stage ∈ [Stage.standby, Stage.ready, Stage.failed] ∧ s.boot.flashBusy = false ∧ size ≤ 8388608) ∧
    (∃ (_inst size : Nat) (s : State),
      Reached s ∧ s.boot.stage = Stage.recoveryWait ∧ s.boot.flashBusy = false ∧ size ≤ 8388608) ∧
    (∃ (_inst _size : Nat) (s : State),
      Reached s ∧ s.boot.stage ∈ [Stage.recoveryWait, Stage.standby, Stage.ready, Stage.failed] ∧ s.boot.flashBusy = true) :=
  ⟨⟨0, at_ .ready aonOnly, by unfold Reached; decide +kernel⟩,
    ⟨0, 0, 1, at_ .ready aonOnly, by unfold Reached; decide +kernel⟩,
    ⟨0, 0, 1, at_ .ready aonOnly, by unfold Reached; decide +kernel⟩,
    ⟨0, 0, 0, at_ .recoveryWait aonOnly, by unfold Reached; decide +kernel⟩,
    ⟨0, 0, [1], at_ .ready aonOnly, by unfold Reached; decide +kernel⟩,
    ⟨0, 0, at_ .ready aonOnly, by unfold Reached; decide +kernel⟩,
    ⟨0, 0, at_ .recoveryWait aonOnly, by unfold Reached; decide +kernel⟩,
    ⟨0, 0, { at_ .ready aonOnly with boot := { (at_ .ready aonOnly).boot with flashBusy := true } }, by unfold Reached; decide +kernel⟩⟩

theorem witness_KeyMessagesBurnTheirFuses :
    (∃ (_inst : Nat) (s : State),
      Reached s ∧ standbyUp s.boot.stage = true) ∧
    (∃ (_inst : Nat) (_m : KeyMsg) (s : State),
      Reached s ∧ standbyUp s.boot.stage = true) :=
  ⟨⟨0, slk, by unfold Reached; decide +kernel⟩,
    ⟨0, km 0 1, slk, by unfold Reached; decide +kernel⟩⟩

theorem witness_CoordinateAddressesAndMailbox :
    (∃ (_inst coord : Nat) (s : State),
      Reached s ∧ standbyUp s.boot.stage = true ∧ coord < 65536 ∧ (s.fab.valid = true → s.fab.coord ≠ coord) ∧
      (s.fab.valid = true → ∀ (n : Nat), n < 18 → ¬(getPort s n).st ∈ [PortSt.exchange, PortSt.active, PortSt.retrain])) ∧
    (∃ (_inst coord : Nat) (s : State),
      Reached s ∧ standbyUp s.boot.stage = true ∧ coord < 65536 ∧ s.fab.valid = true ∧ s.fab.coord = coord) ∧
    (∃ (_inst coord n : Nat) (s : State),
      Reached s ∧ standbyUp s.boot.stage = true ∧ coord < 65536 ∧ s.fab.valid = true ∧ s.fab.coord ≠ coord ∧ n < 18 ∧
      (getPort s n).st ∈ [PortSt.exchange, PortSt.active, PortSt.retrain]) ∧
    (∃ (_inst _coord : Nat) (s : State),
      Reached s ∧ s.boot.stage ∈ [Stage.rom, Stage.verify, Stage.recoveryWait]) ∧
    (∃ (eid : Byte) (s : State),
      s.boot.aon = true ∧ eid ≠ 0 ∧ eid ≠ 255) ∧
    (∃ (dyn : Nat) (s : State),
      s.boot.aon = true ∧ s.mgmt.dynAddr = none ∧ dyn < 128) ∧
    (∃ (static_ _dyn : Nat) (s : State),
      (static_ ≠ 64 + s.boot.slotId ∨ s.mgmt.dynAddr.isSome = true)) ∧
    (∃ (s : State),
      s.boot.aon = true) ∧
    (∃ (s : State),
      s.mbox.busy = true ∧ s.mbox.op = 1 ∧ 8 ≤ stageNo s.boot.stage) ∧
    (∃ (s : State),
      s.mbox.busy = true ∧ s.mbox.op = 2 ∧ 8 ≤ stageNo s.boot.stage ∧ bits (tget 0 s.mbox.req 0) 0 10 < 640) ∧
    (∃ (s : State),
      s.mbox.busy = true ∧ s.mbox.op = 2 ∧ 8 ≤ stageNo s.boot.stage ∧ 640 ≤ bits (tget 0 s.mbox.req 0) 0 10) ∧
    (∃ (s : State),
      s.mbox.busy = true ∧ stageNo s.boot.stage < 8 ∧ s.mbox.op = 1) ∧
    (∃ (s : State),
      s.mbox.busy = true ∧ stageNo s.boot.stage < 8 ∧ s.mbox.op = 2) :=
  ⟨⟨0, 0, b, by unfold Reached; decide +kernel⟩,
    ⟨0, 7, poS 0 (PortSt.off) (kst b), by unfold Reached; decide +kernel⟩,
    ⟨0, 0, 0, poS 0 .exchange (kst b), by unfold Reached; decide +kernel⟩,
    ⟨0, 0, kst (at_ .rom aonOnly), by unfold Reached; decide +kernel⟩,
    ⟨1, b, by decide +kernel⟩,
    ⟨0, b, by decide +kernel⟩,
    ⟨0, 0, off, by decide +kernel⟩,
    ⟨b, by decide +kernel⟩,
    ⟨{ at_ .ready b with mbox := { busy := true, op := 1, req := [(0, 5), (1, 2)] } }, by decide +kernel⟩,
    ⟨{ at_ .ready b with mbox := { busy := true, op := 2, req := [(0, 5), (1, 2)] } }, by decide +kernel⟩,
    ⟨{ b with mbox := { busy := true, op := 2, req := [(0, 640), (1, 3)] } }, by decide +kernel⟩,
    ⟨{ at_ .rom b with mbox := { busy := true, op := 1, req := [(0, 5), (1, 2)] } }, by decide +kernel⟩,
    ⟨{ at_ .rom b with mbox := { busy := true, op := 2, req := [(0, 5), (1, 2)] } }, by decide +kernel⟩⟩

theorem witness_AttestationAnswers :
    (∃ (tr : Transport) (_is : List Nat) (s : State),
      spdmOpen s tr = true) ∧
    (∃ (tr : Transport) (_r : SpdmReq) (s : State),
      spdmOpen s tr = true) :=
  ⟨⟨.doe, [], b, by decide +kernel⟩,
    ⟨.doe, .getVersion, b, by decide +kernel⟩⟩

theorem witness_HostLinkAndConfiguration :
    (∃ (vf : FnId) (s : State),
      s.linkUp = true ∧ s.vfEnable = true ∧ vf.val ≠ 0) ∧
    (∃ (_cause : LinkCause) (s : State),
      s.linkUp = true ∧ MirrorFree s) ∧
    (∃ (s : State),
      s.boot.aon = true ∧ s.linkUp = false) ∧
    (∃ (fn : FnId) (s : State),
      cfgOpen s fn.val = true ∧ (getFn s fn.val).bme = false) ∧
    (∃ (fn : FnId) (_b : Bool) (s : State),
      cfgOpen s fn.val = true) ∧
    (∃ (b : Bool) (s : State),
      s.linkUp = true ∧ s.vfEnable ≠ b) :=
  ⟨⟨1, b, by decide +kernel⟩,
    ⟨.perst, b, by rw [mirrorFree_iff]; decide +kernel⟩,
    ⟨kst (at_ .rom aonOnly), by decide +kernel⟩,
    ⟨0, held b, by decide +kernel⟩,
    ⟨0, false, b, by decide +kernel⟩,
    ⟨false, b, by decide +kernel⟩⟩

/-- A canonical state that steps, and a state that steps: the invariants speak about real steps. -/
theorem witness_EveryStepKeepsTheCanonicalForm : ∃ s t : State, canonical s ∧ step s = .next t :=
  ⟨{ State.reset with pending := [.aonPowerUp 3] }, _, by unfold canonical; decide +kernel, rfl⟩

theorem witness_EventSetupSurvivesEveryReset : ∃ (c : Instr) (s t : State), configuresEvents c = false ∧ exec c s = .next t :=
  ⟨.hardRstN, State.reset, _, rfl, rfl⟩

theorem witness_FusesOnlyChangeFromZeroToOne : ∃ s t : State, step s = .next t :=
  ⟨{ State.reset with pending := [.aonPowerUp 3] }, _, rfl⟩

end Sys2Proof.Tests
end

section
/-! PROOFS. Host accesses to BAR0: which block and offset a register address names, what a served 32-bit write or read does,
and the statements about register writes, reads with an effect and reset values (00 R7-R10, R13; 01 R41; 02 R81, R83; 08 R237). -/
namespace Sys2Proof.Proofs
open Sys2Proof Sys2Proof.Machine Sys2Proof.Safety

/-! ### The commands' meanings -/

theorem exec_registerWrite (fn : FnId) (off size : Nat) (val : DWord) (s : State) :
    exec (.registerWrite fn off size val) s = .next (hostWriteReg fn.val off size val.toNat s) := rfl

theorem exec_rcRead_registers (fn : FnId) (off size : Nat) (s : State) :
    exec (.rcRead fn ⟨.registers, off⟩ size) s = .next (hostReadReg fn.val off size s) := rfl

theorem exec_modTimeLoRead (fn : FnId) (wide : Bool) (s : State) :
    exec (.modTimeLoRead fn wide) s = .next (hostReadReg fn.val 0x20 (if wide then 8 else 4) s) := rfl

theorem exec_figRoundsLoRead (fn : FnId) (p : PtnId) (wide : Bool) (s : State) :
    exec (.figRoundsLoRead fn p wide) s = .next (hostReadReg fn.val (figOff p.val + 0x28) (if wide then 8 else 4) s) := rfl

theorem exec_ctxRunLoRead (fn : FnId) (c : CtxId) (wide : Bool) (s : State) :
    exec (.ctxRunLoRead fn c wide) s = .next (hostReadReg fn.val (ctxOff c.val + 0x40) (if wide then 8 else 4) s) := rfl

/-! ### Addresses (00 R14) -/

/-- An address inside block `k` of a run of blocks. -/
theorem blockOf_inside {base size n k o : Nat} (hk : k < n) (ho : o < size) : blockOf base size n (base + size * k + o) = some (k, o) := by
  have hspan : size * k + o < size * n :=
    calc size * k + o < size * (k + 1) := by rw [Nat.mul_succ]; omega
      _ ≤ size * n := Nat.mul_le_mul_left _ hk
  have hrange : base ≤ base + size * k + o ∧ base + size * k + o < base + size * n := by omega
  have hrel : base + size * k + o - base = o + size * k := by omega
  rw [blockOf, if_pos hrange, hrel, Nat.add_mul_div_left _ _ (by omega), Nat.div_eq_of_lt ho, Nat.add_mul_mod_self_left, Nat.mod_eq_of_lt ho,
    Nat.zero_add]

/-- An address outside a run of blocks. -/
theorem blockOf_outside {base size n off : Nat} (h : off < base ∨ base + size * n ≤ off) : blockOf base size n off = none :=
  if_neg (by omega)

theorem blockOf_fig {p o : Nat} (hp : p < 32) (ho : o < 0x1000) : blockOf 0x401000 0x1000 32 (figOff p + o) = some (p, o) := blockOf_inside hp ho

theorem blockOf_ctx {c o : Nat} (hc : c < 4096) (ho : o < 0x100) : blockOf 0xA00000 0x100 4096 (ctxOff c + o) = some (c, o) := blockOf_inside hc ho

/-- Where a partition's FIG_ block lies. -/
theorem figOff_range {p o : Nat} (hp : p < 32) (ho : o < 0x1000) : 0x401000 ≤ figOff p + o ∧ figOff p + o < 0x421000 := by
  unfold figOff; omega

/-- Where a context's CTX_ block lies. -/
theorem ctxOff_range {c o : Nat} (hc : c < 4096) (ho : o < 0x100) : 0xA00000 ≤ ctxOff c + o ∧ ctxOff c + o < 0xB00000 := by
  unfold ctxOff; omega

/-! ### Who sees a register (00 R15) -/

/-- The PF sees every register. -/
theorem seesOff_pf {s : State} {fn off : Nat} (h : (fn == 0) = true) : seesOff s fn off = true := by simp [seesOff, h]

/-- Every function sees the common registers MOD_ID, MOD_TIME and MOD_ERR. -/
theorem seesOff_common {s : State} {fn off : Nat} (h : [0x00, 0x20, 0x24, 0x100].contains off = true) : seesOff s fn off = true := by
  simp only [seesOff, h, Bool.or_true, Bool.true_or]

theorem seesOff_fig {s : State} {fn p o : Nat} (hp : p < 32) (ho : o < 0x1000) (h : seesPtn s fn p = true) : seesOff s fn (figOff p + o) = true := by
  rcases Bool.or_eq_true_iff.mp h with hpf | hvf
  · exact seesOff_pf hpf
  · have hown : ownBlock p 0x401000 0x1000 (figOff p + o) = true := by simp only [ownBlock, blockOf_fig hp ho, beq_self_eq_true]
    simp only [seesOff, eq_of_beq hvf, hown, Bool.true_or, Bool.or_true]

theorem seesOff_ctx {s : State} {fn c o : Nat} (hc : c < 4096) (ho : o < 0x100) (h : seesCtx s fn c = true) : seesOff s fn (ctxOff c + o) = true := by
  rcases Bool.or_eq_true_iff.mp h with hpf | hvf
  · exact seesOff_pf hpf
  · have hptn : ptnOfFn s fn = some (ptnOfCtx s c) := eq_of_beq (Bool.and_eq_true_iff.mp hvf).2
    simp only [seesOff, hptn, blockOf_ctx hc ho, h, Bool.true_or, Bool.or_true]

/-! ### What a register address reads and writes -/

theorem regRead_fig {s : State} {fn p o : Nat} (hp : p < 32) (ho : o < 0x1000) : regRead s fn (figOff p + o) = readFig s p o := by
  obtain ⟨hlo, hhi⟩ := figOff_range hp ho
  simp only [regRead, blockOf_fig hp ho]
  rw [if_neg (by omega), if_neg (by omega), if_neg (by omega), if_pos (by omega), if_neg (by omega)]

theorem regWrite_fig {s : State} {fn p o v : Nat} (hp : p < 32) (ho : o < 0x1000) : regWrite fn (figOff p + o) v s = writeFig fn p o v s := by
  obtain ⟨hlo, hhi⟩ := figOff_range hp ho
  simp only [regWrite, blockOf_fig hp ho]
  rw [if_neg (by omega), if_neg (by omega), if_neg (by omega), if_pos (by omega)]

theorem regRead_ctx {s : State} {fn c o : Nat} (hc : c < 4096) (ho : o < 0x100) : regRead s fn (ctxOff c + o) = readCtx s c o := by
  obtain ⟨hlo, hhi⟩ := ctxOff_range hc ho
  have hrel : ctxOff c + o - 0xA00000 = o + 0x100 * c := by unfold ctxOff; omega
  have hmod : (ctxOff c + o) % 0x100 = o := by unfold ctxOff; omega
  have hdiv : (o + 0x100 * c) / 0x100 = c := by omega
  unfold regRead
  rw [if_neg (by omega), if_neg (by omega), if_neg (by omega), if_neg (by omega), if_neg (by omega), if_pos (by omega), hrel, hmod, hdiv]

theorem regRead_timeLo (s : State) (fn : Nat) : regRead s fn 0x20 = some (w32 s.time) := by
  simp [regRead, readMod, blockOf]

theorem regRead_timeHi (s : State) (fn : Nat) : regRead s fn 0x24 = some (getFn s fn).timeHi := by
  simp [regRead, readMod, blockOf]

theorem regRead_modErr (s : State) (fn : Nat) : regRead s fn 0x100 = some (modErrWord (getFn s fn)) := by
  simp [regRead, readMod, blockOf]

theorem regWrite_modErr (s : State) (fn v : Nat) : regWrite fn 0x100 v s = modFn fn (clearModErr v) s := by
  simp [regWrite, writeMod, blockOf]

theorem regRead_scrubInt (s : State) (fn : Nat) : regRead s fn 0xC00010 = some s.mem.scrubInt := by
  simp [regRead, readMemMod, blockOf]

theorem regWrite_scrubInt (s : State) (fn v : Nat) : regWrite fn 0xC00010 v s = modMem (fun m => { m with scrubInt := bits v 0 24 }) s := by
  simp [regWrite, writeMemMod, blockOf]

/-! ### The effect of a read -/

theorem readEffect_timeLo (s : State) (fn : Nat) : readEffect fn 0x20 s = modFn fn (fun x => { x with timeHi := s.time / 2 ^ 32 }) s := by
  simp [readEffect]

/-- MOD_TIME_HI is read without an effect. -/
theorem readEffect_timeHi (s : State) (fn : Nat) : readEffect fn 0x24 s = s := by
  simp [readEffect, blockOf, readFltRc, readMemRc, modFlt, modMem]

theorem readEffect_fig {s : State} {fn p o : Nat} (hp : p < 32) (ho : o < 0x1000) :
    readEffect fn (figOff p + o) s = modPtn p (fun x => readPtnRc x 0 o) s := by
  obtain ⟨hlo, hhi⟩ := figOff_range hp ho
  unfold readEffect
  rw [if_neg (by omega)]
  simp only [blockOf_fig hp ho]

theorem readEffect_ctx {s : State} {fn c o : Nat} (hc : c < 4096) (ho : o < 0x100) :
    readEffect fn (ctxOff c + o) s = modCtx c (fun x => readCtxRc x o) s := by
  obtain ⟨hlo, hhi⟩ := ctxOff_range hc ho
  have hfig : blockOf 0x401000 0x1000 32 (ctxOff c + o) = none := blockOf_outside (by omega)
  have hunits : blockOf 0x1401000 0x1000 32 (ctxOff c + o) = none := blockOf_outside (by omega)
  have hatt : blockOf 0x1801000 0x1000 32 (ctxOff c + o) = none := blockOf_outside (by omega)
  have hmem : blockOf 0xC01000 0x1000 32 (ctxOff c + o) = none := blockOf_outside (by omega)
  have hxch : blockOf 0x1020000 0x1000 32 (ctxOff c + o) = none := blockOf_outside (by omega)
  unfold readEffect
  rw [if_neg (by omega)]
  simp only [hfig, hunits, hatt, hmem, hxch, blockOf_ctx hc ho]

/-! ### Served accesses (00 R7) -/

/-- A served access acts. -/
theorem hostAccess_served {s : State} {fn off : Nat} {seen early : Bool} (go : State → State) (hopen : barOpen s fn = true) (hseen : seen = true)
    (hup : early = true ∨ isReady s = true) : hostAccess fn off seen early go s = go s := by
  have hmapped : (!early && !isReady s) = false := by rcases hup with h | h <;> simp [h]
  simp [hostAccess, hopen, hseen, hmapped]

/-- A function's BARs are open, it sees the register at an offset, and the module serves the register now. -/
def Reaches (s : State) (fn off : Nat) : Prop := barOpen s fn = true ∧ seesOff s fn off = true ∧ (earlyOff off = true ∨ isReady s = true)

theorem writeWord_of_reaches {s : State} {fn off v : Nat} (h : Reaches s fn off) (hreg : (regRead s fn off).isSome = true) :
    writeWord fn off v s = regWrite fn off v s := by
  obtain ⟨hopen, hsees, hup⟩ := h
  rw [writeWord, hostAccess_served _ hopen hsees hup, if_pos hreg]

theorem readWord_of_reaches {s : State} {fn off : Nat} (h : Reaches s fn off) (hreg : (regRead s fn off).isSome = true) :
    readWord fn off s = readEffect fn off s := by
  obtain ⟨hopen, hsees, hup⟩ := h
  rw [readWord, hostAccess_served _ hopen hsees hup, if_pos hreg]

theorem shown_of_reaches {s : State} {fn off v : Nat} (h : Reaches s fn off) (hreg : regRead s fn off = some v) : shown s fn off = v := by
  obtain ⟨-, hsees, hup⟩ := h
  have hserved : (earlyOff off || isReady s) = true := Bool.or_eq_true_iff.mpr hup
  simp [shown, hsees, hserved, hreg]

/-- A served aligned 32-bit write of a register acts by its access code. -/
theorem hostWriteReg_word {s : State} {fn off v r : Nat} (h : Reaches s fn off) (ha : off % 4 = 0) (hreg : regRead s fn off = some r) :
    hostWriteReg fn off 4 v s = regWrite fn off (w32 v) s := by
  have hword : wordAccess off 4 = true := by simp [wordAccess, ha]
  simp [hostWriteReg, hword, writeWord_of_reaches h (by simp [hreg])]

/-- A served aligned 32-bit read of a register shows its value and has its effect. -/
theorem hostReadReg_word {s : State} {fn off v : Nat} (h : Reaches s fn off) (ha : off % 4 = 0) (hreg : regRead s fn off = some v) :
    hostReadReg fn off 4 s = readOut (leBytes 4 v) false (readEffect fn off s) := by
  have hword : wordAccess off 4 = true := by simp [wordAccess, ha]
  simp [hostReadReg, h.1, hword, shown_of_reaches h hreg, readWord_of_reaches h (by simp [hreg])]

/-- A served aligned 64-bit read shows the low register, and then the high one after the low one's effect. -/
theorem hostReadReg_pair {s t : State} {fn off v w : Nat} (h : Reaches s fn off) (ha : off % 8 = 0) (hreg : regRead s fn off = some v)
    (ht : t = readEffect fn off s) (h' : Reaches t fn (off + 4)) (hreg' : regRead t fn (off + 4) = some w) :
    hostReadReg fn off 8 s = readOut (leBytes 4 v ++ leBytes 4 w) false (readEffect fn (off + 4) t) := by
  have hword : wordAccess off 8 = true := by simp [wordAccess, ha]
  have hlow : readWord fn off s = t := by rw [ht]; exact readWord_of_reaches h (by simp [hreg])
  simp [hostReadReg, h.1, hword, hlow, shown_of_reaches h hreg, shown_of_reaches h' hreg', readWord_of_reaches h' (by simp [hreg'])]

/-- An aligned 64-bit write is two aligned 32-bit writes, low address first. -/
theorem hostWriteReg_pair {fn off v : Nat} {s : State} (ha : off % 8 = 0) :
    hostWriteReg fn off 8 v s = hostWriteReg fn (off + 4) 4 (v / 2 ^ 32) (hostWriteReg fn off 4 v s) := by
  have hwide : wordAccess off 8 = true := by simp [wordAccess, ha]
  have hlow : wordAccess off 4 = true := by simp [wordAccess]; omega
  have hhigh : wordAccess (off + 4) 4 = true := by simp [wordAccess]; omega
  simp [hostWriteReg, hwide, hlow, hhigh, w32]

/-- An aligned 32-bit write takes the low 32 bits. -/
theorem hostWriteReg_w32 (fn off v : Nat) (s : State) : hostWriteReg fn off 4 (w32 v) s = hostWriteReg fn off 4 v s := by
  simp [hostWriteReg, badSize, w32]

theorem reaches_pf {s : State} {fn : FnId} {off : Nat} (h : Served s fn (fn.val == 0) false) : Reaches s fn.val off := by
  obtain ⟨hopen, hsees, hup⟩ := h
  exact ⟨hopen, seesOff_pf hsees, .inr (by simpa using hup)⟩

theorem reaches_fig {s : State} {fn : FnId} {p : PtnId} {o : Nat} (h : Served s fn (seesPtn s fn.val p.val) false) (ho : o < 0x1000) :
    Reaches s fn.val (figOff p.val + o) := by
  obtain ⟨hopen, hsees, hup⟩ := h
  exact ⟨hopen, seesOff_fig p.isLt ho hsees, .inr (by simpa using hup)⟩

theorem reaches_ctx {s : State} {fn : FnId} {c : CtxId} {o : Nat} (h : Served s fn (seesCtx s fn.val c.val) false) (ho : o < 0x100) :
    Reaches s fn.val (ctxOff c.val + o) := by
  obtain ⟨hopen, hsees, hup⟩ := h
  exact ⟨hopen, seesOff_ctx c.isLt ho hsees, .inr (by simpa using hup)⟩

/-- MOD_ID, MOD_TIME and MOD_ERR are served to every function in every stage (14 R402; 15 R436). -/
theorem reaches_common {s : State} {fn off : Nat} (hopen : barOpen s fn = true) (h : off ∈ [0x00, 0x20, 0x24, 0x100]) : Reaches s fn off := by
  have hearly : earlyOff off = true := by
    simp only [List.mem_cons, List.not_mem_nil, or_false] at h
    rcases h with rfl | rfl | rfl | rfl <;> rfl
  exact ⟨hopen, seesOff_common (List.contains_iff_mem.mpr h), .inl hearly⟩

/-! ### Registers of a partition's FIG_ block (02 R75-R84) -/

theorem figOff_aligned (p : Nat) {o : Nat} (h : o % 4 = 0) : (figOff p + o) % 4 = 0 := by unfold figOff; omega

theorem ctxOff_aligned (c : Nat) {o : Nat} (h : o % 4 = 0) : (ctxOff c + o) % 4 = 0 := by unfold ctxOff; omega

/-- A served write of a register of a partition's FIG_ block. -/
theorem hostWriteReg_fig {s : State} {fn : FnId} {p : PtnId} {o v r : Nat} (h : Served s fn (seesPtn s fn.val p.val) false) (ho : o < 0x1000)
    (ha : o % 4 = 0) (hreg : readFig s p.val o = some r) : hostWriteReg fn.val (figOff p.val + o) 4 v s = writeFig fn.val p.val o (w32 v) s := by
  rw [hostWriteReg_word (reaches_fig h ho) (figOff_aligned _ ha) ((regRead_fig p.isLt ho).trans hreg), regWrite_fig p.isLt ho]

/-- A served read of a register of a partition's FIG_ block. -/
theorem hostReadReg_fig {s : State} {fn : FnId} {p : PtnId} {o v : Nat} (h : Served s fn (seesPtn s fn.val p.val) false) (ho : o < 0x1000)
    (ha : o % 4 = 0) (hreg : readFig s p.val o = some v) :
    hostReadReg fn.val (figOff p.val + o) 4 s = readOut (leBytes 4 v) false (modPtn p.val (fun x => readPtnRc x 0 o) s) := by
  rw [hostReadReg_word (reaches_fig h ho) (figOff_aligned _ ha) ((regRead_fig p.isLt ho).trans hreg), readEffect_fig p.isLt ho]

/-- A served read of a register of a context's CTX_ block. -/
theorem hostReadReg_ctx {s : State} {fn : FnId} {c : CtxId} {o v : Nat} (h : Served s fn (seesCtx s fn.val c.val) false) (ho : o < 0x100)
    (ha : o % 4 = 0) (hreg : readCtx s c.val o = some v) :
    hostReadReg fn.val (ctxOff c.val + o) 4 s = readOut (leBytes 4 v) false (modCtx c.val (fun x => readCtxRc x o) s) := by
  rw [hostReadReg_word (reaches_ctx h ho) (ctxOff_aligned _ ha) ((regRead_ctx c.isLt ho).trans hreg), readEffect_ctx c.isLt ho]

theorem readFig_div (s : State) (p : Nat) : readFig s p 0x14 = some (getPtn s p).fig.sh.div := by simp [readFig, blockOf]
theorem readFig_drainLimit (s : State) (p : Nat) : readFig s p 0x1C = some (getPtn s p).fig.drainLimit := by simp [readFig, blockOf]
theorem readFig_epochDrops (s : State) (p : Nat) : readFig s p 0x24 = some (getPtn s p).fig.epochDrops := by simp [readFig, blockOf]
theorem readFig_roundsLo (s : State) (p : Nat) : readFig s p 0x28 = some (w32 (getPtn s p).fig.rounds) := by simp [readFig, blockOf]

theorem readCtx_runLo (s : State) (c : Nat) : readCtx s c 0x40 = some (w32 (getCtx s c).run) := rfl

/-! ### Frames -/

theorem otherPtns_modPtn (p : Nat) (g : Ptn → Ptn) (s : State) : OtherPtns p s (modPtn p g s) := fun _ hq => getPtn_modPtn_ne s g hq

/-! ### Register writes by access code -/

/-- A bit of the written word is that bit of the value. -/
theorem bit_w32 {v i : Nat} (h : i < 32) : bit (w32 v) i = v.testBit i := by
  have hbit : bit (w32 v) i = (v % 2 ^ 32).testBit i := by
    simp only [bit, w32, Nat.testBit_eq_decide_div_mod_eq, beq_eq_decide]
  rw [hbit, Nat.testBit_mod_two_pow]; simp [h]

theorem toNat_low (val : DWord) : (val &&& 0xFFFFFFFF#64).toNat = w32 val.toNat := by
  rw [BitVec.toNat_and]; exact Nat.and_two_pow_sub_one_eq_mod val.toNat 32

theorem toNat_high (val : DWord) : (val >>> 32).toNat = val.toNat / 2 ^ 32 := by
  rw [BitVec.toNat_ushiftRight, Nat.shiftRight_eq_div_pow]

/-- A write of MOD_ERR clears the flags where the value has a 1. -/
theorem clearModErr_w32 (v : Nat) (x : Fn) : clearModErr (w32 v) x = { x with
    cfgWrIgnored := x.cfgWrIgnored && !v.testBit 0
    accessSize := x.accessSize && !v.testBit 1
    unmapped := x.unmapped && !v.testBit 2 } := by
  simp only [clearModErr, w1c, bit_w32 (show 0 < 32 by decide), bit_w32 (show 1 < 32 by decide), bit_w32 (show 2 < 32 by decide)]

/-- A write of the RWL register FIG_DRAIN_LIMIT. -/
theorem writeFig_drainLimit (fn p v : Nat) (s : State) : writeFig fn p 0x1C v s =
    if ptnRuns (getPtn s p) then flagLocked fn s else modPtn p (fun x => { x with fig := { x.fig with drainLimit := bits v 0 20 } }) s := rfl

theorem exec_registerWrite_wide (fn : FnId) (off : Nat) (val : DWord) (s : State) (ha : off % 8 = 0) :
    ∃ t, exec (.registerWrite fn off 4 (val &&& 0xFFFFFFFF#64)) s = .next t ∧
      exec (.registerWrite fn off 8 val) s = exec (.registerWrite fn (off + 4) 4 (val >>> 32)) t := by
  refine ⟨hostWriteReg fn.val off 4 val.toNat s, ?_, ?_⟩
  · rw [exec_registerWrite, toNat_low, hostWriteReg_w32]
  · rw [exec_registerWrite, exec_registerWrite, toNat_high, hostWriteReg_pair ha]

theorem exec_registerWrite_scrubInt (fn : FnId) (val : DWord) (s : State) (h : Served s fn (fn.val == 0) false) :
    exec (.registerWrite fn 0xC00010 4 val) s = .next { s with mem := { s.mem with scrubInt := bits (w32 val.toNat) 0 24 } } := by
  rw [exec_registerWrite, hostWriteReg_word (reaches_pf h) (by decide) (regRead_scrubInt s _), regWrite_scrubInt]; rfl

/-- A served write of a register of a partition's FIG_ block, at its address in BAR0. -/
theorem exec_registerWrite_fig {s : State} {fn : FnId} {p : PtnId} {off o r : Nat} (val : DWord) (h : Served s fn (seesPtn s fn.val p.val) false)
    (hoff : off = figOff p.val + o) (ho : o < 0x1000) (ha : o % 4 = 0) (hreg : readFig s p.val o = some r) :
    exec (.registerWrite fn off 4 val) s = .next (writeFig fn.val p.val o (w32 val.toNat) s) := by
  rw [exec_registerWrite, hoff, hostWriteReg_fig h ho ha hreg]

/-- Settles O5: each access is served, so it reaches the one write of its register, and the frame is that of the unit it changes. -/
theorem registerWritesFollowTheAccessCode : Obligations.RegisterWritesFollowTheAccessCode := by
  refine ⟨fun fn off val s ha => exec_registerWrite_wide fn off val s ha, exec_registerWrite_scrubInt, ?shadow, ?flags, ?locked, ?unlocked⟩
  case shadow =>
    intro fn p val s h
    have hexec := exec_registerWrite_fig val h (off := 0x401014 + 0x1000 * p.val) (by unfold figOff; omega) (by decide) (by decide) (readFig_div s p.val)
    exact ⟨_, hexec, rfl, otherPtns_modPtn _ _ s, getPtn_modPtn_self ..⟩
  case flags =>
    intro fn val s hopen
    refine ⟨modFn fn.val (clearModErr (w32 val.toNat)) s, ?_, rfl, fun f hf => getFn_modFn_ne s _ hf, ?_⟩
    · rw [exec_registerWrite, hostWriteReg_word (reaches_common hopen (by decide)) (by decide) (regRead_modErr s _), regWrite_modErr]
    · rw [getFn_modFn_self, clearModErr_w32]
  case locked =>
    intro fn p val s h hruns
    have hexec := exec_registerWrite_fig val h (off := 0x40101C + 0x1000 * p.val) (by unfold figOff; omega) (by decide) (by decide)
      (readFig_drainLimit s p.val)
    rw [writeFig_drainLimit, if_pos hruns] at hexec
    exact ⟨_, hexec, rfl, getFn_modFn_self .., fun f hf => getFn_modFn_ne s _ hf⟩
  case unlocked =>
    intro fn p val s h hruns
    have hexec := exec_registerWrite_fig val h (off := 0x40101C + 0x1000 * p.val) (by unfold figOff; omega) (by decide) (by decide)
      (readFig_drainLimit s p.val)
    rw [writeFig_drainLimit, if_neg (by simp [hruns])] at hexec
    exact ⟨_, hexec, rfl, otherPtns_modPtn _ _ s, getPtn_modPtn_self ..⟩

/-! ### Reads with an effect -/

/-- What a read that changed one partition leaves: its data, and that partition's change. -/
theorem readOut_modPtn (bs : List Byte) (p : Nat) (g : Ptn → Ptn) (s : State) :
    ∃ t, Host.Outcome.next (φ := Fault) (ρ := Refusal) (readOut bs false (modPtn p g s)) = .next t ∧ t = { s with ptns := t.ptns, out := t.out } ∧
      OtherPtns p s t ∧ t.out = { s.out with read := bs, readEp := false } ∧ getPtn t p = g (getPtn s p) :=
  ⟨_, rfl, rfl, fun _ hq => getPtn_modPtn_ne s g hq, rfl, getPtn_modPtn_self s p g⟩

/-- What a read that changed one context leaves. -/
theorem readOut_modCtx (bs : List Byte) (c : Nat) (g : Ctx → Ctx) (s : State) :
    ∃ t, Host.Outcome.next (φ := Fault) (ρ := Refusal) (readOut bs false (modCtx c g s)) = .next t ∧ t = { s with ctxs := t.ctxs, out := t.out } ∧
      OtherCtxs c s t ∧ t.out = { s.out with read := bs, readEp := false } ∧ getCtx t c = g (getCtx s c) :=
  ⟨_, rfl, rfl, fun _ hd => getCtx_modCtx_ne s g hd, rfl, getCtx_modCtx_self s c g⟩

/-- What a read that changed one function leaves. -/
theorem readOut_modFn (bs : List Byte) (fn : Nat) (g : Fn → Fn) (s : State) :
    ∃ t, Host.Outcome.next (φ := Fault) (ρ := Refusal) (readOut bs false (modFn fn g s)) = .next t ∧ t = { s with fns := t.fns, out := t.out } ∧
      (∀ f, f ≠ fn → getFn t f = getFn s f) ∧ t.out = { s.out with read := bs, readEp := false } ∧ getFn t fn = g (getFn s fn) :=
  ⟨_, rfl, rfl, fun _ hf => getFn_modFn_ne s g hf, rfl, getFn_modFn_self s fn g⟩

/-- A read of MOD_TIME_LO latches MOD_TIME_HI for the function (01 R444). -/
theorem hostReadReg_timeLo {s : State} {fn : Nat} (hopen : barOpen s fn = true) :
    hostReadReg fn 0x20 4 s = readOut (leBytes 4 (w32 s.time)) false (modFn fn (fun x => { x with timeHi := s.time / 2 ^ 32 }) s) := by
  rw [hostReadReg_word (reaches_common hopen (by decide)) (by decide) (regRead_timeLo s fn), readEffect_timeLo]

/-- A 64-bit read of MOD_TIME shows the high half that its low half has just latched. -/
theorem hostReadReg_time {s : State} {fn : Nat} (hopen : barOpen s fn = true) :
    hostReadReg fn 0x20 8 s =
      readOut (leBytes 4 (w32 s.time) ++ leBytes 4 (s.time / 2 ^ 32)) false (modFn fn (fun x => { x with timeHi := s.time / 2 ^ 32 }) s) := by
  have hopen' : barOpen (modFn fn (fun x => { x with timeHi := s.time / 2 ^ 32 }) s) fn = true := by simpa [barOpen] using hopen
  rw [hostReadReg_pair (reaches_common hopen (by decide)) (by decide) (regRead_timeLo s fn) (readEffect_timeLo s fn).symm
    (reaches_common hopen' (by decide)) (regRead_timeHi _ fn), readEffect_timeHi, getFn_modFn_self]

/-- Settles O6: a served read shows the register before its effect, and the effect changes one unit. -/
theorem readsShowTheValueThenClearOrLatch : Obligations.ReadsShowTheValueThenClearOrLatch := by
  refine ⟨?epochDrops, ?timeLo, ?time, ?roundsLo, ?runLo⟩
  case epochDrops =>
    intro fn p s h
    have hoff : 0x401024 + 0x1000 * p.val = figOff p.val + 0x24 := by unfold figOff; omega
    rw [exec_rcRead_registers, hoff, hostReadReg_fig h (by decide) (by decide) (readFig_epochDrops s _)]
    exact readOut_modPtn _ p.val _ s
  case timeLo =>
    intro fn s hopen
    rw [exec_modTimeLoRead, if_neg (by decide), hostReadReg_timeLo hopen]
    exact readOut_modFn _ fn.val _ s
  case time =>
    intro fn s hopen
    rw [exec_modTimeLoRead, if_pos rfl, hostReadReg_time hopen]
    exact readOut_modFn _ fn.val _ s
  case roundsLo =>
    intro fn p s h
    rw [exec_figRoundsLoRead, if_neg (by decide), hostReadReg_fig h (by decide) (by decide) (readFig_roundsLo s _)]
    exact readOut_modPtn _ p.val _ s
  case runLo =>
    intro fn c s h
    rw [exec_ctxRunLoRead, if_neg (by decide), hostReadReg_ctx h (by decide) (by decide) (readCtx_runLo s _)]
    exact readOut_modCtx _ c.val _ s

/-! ### Reset values -/

/-- Settles O3: the registers with a reset value in the manual are finitely many, and each is computed. -/
theorem registersReadTheirResetValues : Obligations.RegistersReadTheirResetValues := by
  unfold Obligations.RegistersReadTheirResetValues
  decide +kernel

end Sys2Proof.Proofs
end

section
/-! PROOFS. FIG_COMMIT and the round boundary (00 R10; 02 R67, R72, R80, R83): what moving a divider, taking staged sets and counting cycles leave
unchanged, that staging a set does not change whether a setting is refused, and the statement about both. -/
namespace Sys2Proof.Proofs
open Sys2Proof Sys2Proof.Machine Sys2Proof.Safety

theorem exec_figCommit (fn : FnId) (p : PtnId) (s : State) :
    exec (.figCommit fn p) s = .next (hostAccess fn.val (figOff p.val + 0x10) (seesPtn s fn.val p.val) false (figCommitNow p.val) s) := rfl

theorem exec_partitionRoundBoundary (p : PtnId) (s : State) :
    exec (.partitionRoundBoundary p) s = .next (if isReady s then roundBoundary p.val s else s) := rfl

/-! ### Signals -/

/-- A pulse of any source, listed or not, changes no unit, and sources that are pending stay so. -/
theorem pulse_keeps (n : Nat) (s : State) :
    (pulse n s).ptns = s.ptns ∧ (pulse n s).ctxs = s.ctxs ∧ ∀ m, isPending s m = true → isPending (pulse n s) m = true := by
  cases h : isListed n with
  | true =>
    have hsig := pulse_signalled n s h
    obtain ⟨hptns, hctxs, -⟩ := hsig.units
    exact ⟨hptns, hctxs, fun m hm => by rw [hsig.2.1 m, hm, Bool.true_or]⟩
  | false =>
    have hid : pulse n s = s := by simp [pulse, setPend, h]
    rw [hid]; exact ⟨rfl, rfl, fun _ => id⟩

theorem isPending_pulse_self {n : Nat} (s : State) (h : isListed n = true) : isPending (pulse n s) n = true := by
  rw [(pulse_signalled n s h).2.1 n]; simp

/-- A partition's sources are listed (12 R362). -/
theorem isListed_srcPtn {p k : Nat} (hp : p < 32) (hk : k < 8) : isListed (srcPtn p k) = true := by
  have hmod : (256 + 32 * p + k) % 32 ≤ 7 := by omega
  have hlo : 256 ≤ 256 + 32 * p + k := by omega
  have hhi : 256 + 32 * p + k < 1280 := by omega
  simp [isListed, srcPtn, hmod, hlo, hhi]

/-! ### What the moves at a boundary leave unchanged -/

/-- Between the states no loader register and no core changed, no context's set in force or staged set did, and no source stopped being pending. -/
structure RoundFrame (s t : State) : Prop where
  fig    : ∀ q, (getPtn t q).fig = (getPtn s q).fig
  cores  : ∀ q, (getPtn t q).cores = (getPtn s q).cores
  cur    : ∀ c, (getCtx t c).cur = (getCtx s c).cur
  staged : ∀ c, (getCtx t c).staged = (getCtx s c).staged
  pend   : ∀ n, isPending s n = true → isPending t n = true

theorem RoundFrame.refl (s : State) : RoundFrame s s := ⟨fun _ => rfl, fun _ => rfl, fun _ => rfl, fun _ => rfl, fun _ => id⟩

theorem RoundFrame.trans {s t u : State} (h : RoundFrame s t) (k : RoundFrame t u) : RoundFrame s u :=
  ⟨fun q => (k.fig q).trans (h.fig q), fun q => (k.cores q).trans (h.cores q), fun c => (k.cur c).trans (h.cur c),
    fun c => (k.staged c).trans (h.staged c), fun n hn => k.pend n (h.pend n hn)⟩

/-- Partitions, contexts and pending sources are the same, or more sources are pending. -/
theorem RoundFrame.of_units {s t : State} (hptns : t.ptns = s.ptns) (hctxs : t.ctxs = s.ctxs)
    (hpend : ∀ n, isPending s n = true → isPending t n = true) : RoundFrame s t := by
  have hptn (q : Nat) : getPtn t q = getPtn s q := by simp only [getPtn, hptns]
  have hctx (c : Nat) : getCtx t c = getCtx s c := by simp only [getCtx, hctxs]
  exact ⟨fun q => by rw [hptn], fun q => by rw [hptn], fun c => by rw [hctx], fun c => by rw [hctx], hpend⟩

theorem roundFrame_pulse (n : Nat) (s : State) : RoundFrame s (pulse n s) :=
  .of_units (pulse_keeps n s).1 (pulse_keeps n s).2.1 (pulse_keeps n s).2.2

theorem roundFrame_modQtr (q : Nat) (g : Qtr → Qtr) (s : State) : RoundFrame s (modQtr q g s) := .of_units rfl rfl fun _ => id

theorem roundFrame_modRing (r : Nat) (g : Ring → Ring) (s : State) : RoundFrame s (modRing r g s) := .of_units rfl rfl fun _ => id

theorem roundFrame_drawFree (s : State) : RoundFrame s (drawFree s).2 := .of_units rfl rfl fun _ => id

theorem roundFrame_modPtn (p : Nat) (g : Ptn → Ptn) (s : State) (hfig : ∀ x, (g x).fig = x.fig) (hcores : ∀ x, (g x).cores = x.cores) :
    RoundFrame s (modPtn p g s) := by
  have hptn (q : Nat) : getPtn (modPtn p g s) q = g (getPtn s q) ∨ getPtn (modPtn p g s) q = getPtn s q := by
    by_cases hq : q = p
    · subst hq; exact .inl (getPtn_modPtn_self ..)
    · exact .inr (getPtn_modPtn_ne s g hq)
  refine ⟨fun q => ?_, fun q => ?_, fun _ => rfl, fun _ => rfl, fun _ => id⟩
  · rcases hptn q with h | h
    · rw [h, hfig]
    · rw [h]
  · rcases hptn q with h | h
    · rw [h, hcores]
    · rw [h]

theorem roundFrame_modCtx (c : Nat) (g : Ctx → Ctx) (s : State) (hcur : ∀ x, (g x).cur = x.cur) (hstaged : ∀ x, (g x).staged = x.staged) :
    RoundFrame s (modCtx c g s) := by
  have hctx (d : Nat) : getCtx (modCtx c g s) d = g (getCtx s d) ∨ getCtx (modCtx c g s) d = getCtx s d := by
    by_cases hd : d = c
    · subst hd; exact .inl (getCtx_modCtx_self ..)
    · exact .inr (getCtx_modCtx_ne s g hd)
  refine ⟨fun _ => rfl, fun _ => rfl, fun d => ?_, fun d => ?_, fun _ => id⟩
  · rcases hctx d with h | h
    · rw [h, hcur]
    · rw [h]
  · rcases hctx d with h | h
    · rw [h, hstaged]
    · rw [h]

theorem roundFrame_foldl {α : Type} {f : State → α → State} (hf : ∀ s a, RoundFrame s (f s a)) :
    ∀ (l : List α) (s : State), RoundFrame s (l.foldl f s)
  | [], s => .refl s
  | a :: l, s => (hf s a).trans (roundFrame_foldl hf l (f s a))

/-! #### The divider (13 R384-R388) -/

theorem roundFrame_aimVolts (p mv : Nat) (s : State) : RoundFrame s (aimVolts p mv s) := roundFrame_foldl (fun s q => roundFrame_modQtr q _ s) _ s

theorem roundFrame_takeBudgets (p : Nat) (s : State) : RoundFrame s (takeBudgets p s) := roundFrame_foldl (fun s q => roundFrame_modQtr q _ s) _ s

theorem roundFrame_setTickets (p : Nat) (s : State) : RoundFrame s (setTickets p s) :=
  roundFrame_foldl (fun s (e : Nat × Nat) => roundFrame_modQtr e.2 _ s) _ s

theorem roundFrame_setDivider (p d : Nat) (s : State) : RoundFrame s (setDivider p d s) := by
  have hdiv : RoundFrame s (modPPwr p (fun x => { x with divActive := d }) s) := roundFrame_modPtn p _ s (fun _ => rfl) fun _ => rfl
  exact hdiv.trans ((roundFrame_setTickets p _).trans ((roundFrame_takeBudgets p _).trans (roundFrame_aimVolts p _ _)))

theorem roundFrame_afterReturnStep (p t : Nat) (s : State) : RoundFrame s (afterReturnStep p t s) :=
  roundFrame_modPtn p _ s (fun _ => rfl) fun _ => rfl

theorem roundFrame_takeDivider (p : Nat) (s : State) : RoundFrame s (takeDivider p s) := by
  simp only [takeDivider]
  split
  · exact .refl s
  · split
    · split
      · exact roundFrame_setDivider p _ s
      · exact roundFrame_aimVolts p _ s
    · split
      · split
        · exact .refl s
        · split
          · exact (roundFrame_setDivider p _ s).trans (roundFrame_afterReturnStep p _ _)
          · exact roundFrame_aimVolts p _ s
      · exact (roundFrame_afterReturnStep p _ s).trans ((roundFrame_takeBudgets p _).trans (roundFrame_aimVolts p _ _))

theorem roundFrame_retargetOne (s : State) (p : Nat) : RoundFrame s (retargetOne s p) := by
  simp only [retargetOne]
  split
  · exact roundFrame_takeDivider p s
  · split
    · exact .refl s
    · split
      · split
        · exact roundFrame_aimVolts p _ s
        · exact .refl s
      · exact .refl s

/-! #### Staged sets other than a context's (00 R10) -/

theorem roundFrame_attTakeStaged (p : Nat) (s : State) : RoundFrame s (attTakeStaged p s) := by
  simp only [attTakeStaged]
  split
  · refine RoundFrame.trans ?_ (roundFrame_pulse _ _)
    refine RoundFrame.trans ?_ (roundFrame_modPtn p (fun x => { x with att := { x.att with pending := false } }) _ (fun _ => rfl) fun _ => rfl)
    refine roundFrame_foldl (fun s c => roundFrame_modCtx c _ s (fun x => ?_) fun x => ?_) _ s
    · cases x.attStaged <;> rfl
    · cases x.attStaged <;> rfl
  · exact .refl s

theorem roundFrame_ringTake (r : Nat) (n : RingSh) (s : State) : RoundFrame s (ringTake r n s) := by
  simp only [ringTake]
  split
  · exact roundFrame_modRing r _ s
  · exact roundFrame_modRing r _ s

theorem roundFrame_ringsTakeStaged (p : Nat) (s : State) : RoundFrame s (ringsTakeStaged p s) := by
  refine roundFrame_foldl (fun s e => ?_) _ s
  split
  · exact roundFrame_ringTake _ _ s
  · exact .refl s

/-- A fault block's staged fields take effect (11 R360). -/
theorem roundFrame_modPFlt (p : Nat) (g : PFlt → PFlt) (s : State) : RoundFrame s (modPFlt p g s) :=
  roundFrame_modPtn p _ s (fun _ => rfl) fun _ => rfl

/-! #### Cycle counters (02 R85) -/

theorem roundFrame_countStalls (p : Nat) (s : State) : RoundFrame s (countStalls p s) :=
  roundFrame_foldl (fun s q => (roundFrame_drawFree s).trans ((roundFrame_drawFree _).trans (roundFrame_modQtr q _ _))) _ s

theorem roundFrame_countCycles (p : Nat) (s : State) : RoundFrame s (countCycles p s) := by
  simp only [countCycles]
  refine RoundFrame.trans ?_ (roundFrame_modPtn p _ _ (fun _ => rfl) fun _ => rfl)
  refine RoundFrame.trans ?_ (roundFrame_drawFree _)
  refine RoundFrame.trans ?_ (roundFrame_drawFree _)
  refine RoundFrame.trans ?_ (roundFrame_foldl (fun s q => roundFrame_modQtr q _ s) _ _)
  exact (roundFrame_countStalls p s).trans (roundFrame_drawFree _)


/-! ### A context's staged set takes effect -/

/-- A context with its staged set, if it has one, in force. -/
def takeSet (x : Ctx) : Ctx :=
  match x.staged with
  | some y => { x with cur := y, staged := none }
  | none => x

theorem takeSet_of_staged {x : Ctx} {y : CtxSh} (h : x.staged = some y) : takeSet x = { x with cur := y, staged := none } := by simp [takeSet, h]

theorem takeSet_of_none {x : Ctx} (h : x.staged = none) : takeSet x = x := by simp [takeSet, h]

theorem takeSet_takeSet (x : Ctx) : takeSet (takeSet x) = takeSet x := by
  cases h : x.staged with
  | none => rw [takeSet_of_none h, takeSet_of_none h]
  | some y => rw [takeSet_of_staged h]; rfl

theorem getCtx_ctxTakeStaged (d c : Nat) (s : State) : getCtx (ctxTakeStaged d s) c = if c = d then takeSet (getCtx s d) else getCtx s c := by
  cases h : (getCtx s d).staged with
  | none =>
    simp only [ctxTakeStaged, h, takeSet_of_none h]
    split
    · next hc => rw [hc]
    · rfl
  | some y =>
    simp only [ctxTakeStaged, h, takeSet_of_staged h]
    rw [getCtx, (pulse_keeps _ _).2.1, ← getCtx, getCtx_modCtx]

theorem ptns_ctxTakeStaged (d : Nat) (s : State) : (ctxTakeStaged d s).ptns = s.ptns := by
  cases h : (getCtx s d).staged with
  | none => simp only [ctxTakeStaged, h]
  | some y => simp only [ctxTakeStaged, h, (pulse_keeps _ _).1, modCtx_ptns]

/-- The staged sets of a list of contexts take effect. -/
def ctxsTake (l : List Nat) (s : State) : State := l.foldl (fun s c => ctxTakeStaged c s) s

theorem ptns_ctxsTake : ∀ (l : List Nat) (s : State), (ctxsTake l s).ptns = s.ptns
  | [], _ => rfl
  | d :: l, s => (ptns_ctxsTake l (ctxTakeStaged d s)).trans (ptns_ctxTakeStaged d s)

theorem getCtx_ctxsTake (c : Nat) : ∀ (l : List Nat) (s : State), getCtx (ctxsTake l s) c = if c ∈ l then takeSet (getCtx s c) else getCtx s c
  | [], _ => rfl
  | d :: l, s => by
    have ih := getCtx_ctxsTake c l (ctxTakeStaged d s)
    rw [getCtx_ctxTakeStaged] at ih
    refine ih.trans ?_
    by_cases hd : c = d
    · subst hd; simp [takeSet_takeSet]
    · simp [hd]

/-- Apart from the contexts' sets, taking staged sets changes no loader register, core or context set. -/
theorem takeStaged_frame (p : Nat) (s : State) : RoundFrame (ctxsTake (ctxsOf s p) s) (takeStaged p s) := by
  unfold takeStaged
  dsimp only
  refine RoundFrame.trans ?_ (roundFrame_modPFlt p _ _)
  exact (roundFrame_attTakeStaged p _).trans (roundFrame_ringsTakeStaged p _)

/-! ### The round boundary without a running command -/

theorem rtOf_idle {s : State} {p : Nat} (hm : mirroring (getPtn s p) = false) (hrun : (getPtn s p).fe.run = none) : rtOf s p = none := by
  simp only [rtOf, hm, hrun]
  cases (getPtn s p).figure <;> rfl

theorem roundBoundary_idle {s : State} {p : Nat} (hruns : ptnRuns (getPtn s p) = true) (hm : mirroring (getPtn s p) = false)
    (hclk : c1Runs s p = true) (hrun : (getPtn s p).fe.run = none) :
    roundBoundary p s = countCycles p (roundChanges p (countRound p s)) := by
  simp [roundBoundary, hruns, hclk, hm, rtOf_idle hm hrun, hrun]

theorem getPtn_countRound_self (p : Nat) (s : State) : (getPtn (countRound p s) p).fig = { (getPtn s p).fig with rounds := (getPtn s p).fig.rounds + 1 } ∧
    (getPtn (countRound p s) p).cores = tmap {} restCore (getPtn s p).cores := by
  simp [countRound, newRound]

theorem figTakeStaged_none {s : State} {p : Nat} (h : (getPtn s p).fig.staged = none) : figTakeStaged p s = s := by simp [figTakeStaged, h]

/-- A boundary with no staged FIG_ set: the round is counted and begun, then the context sets are taken, and the rest keeps both. -/
theorem roundBoundary_frame {s : State} {p : Nat} (hst : (getPtn s p).fig.staged = none) :
    RoundFrame (ctxsTake (ctxsOf s p) (countRound p s)) (countCycles p (roundChanges p (countRound p s))) := by
  have hnone : (getPtn (countRound p s) p).fig.staged = none := by rw [(getPtn_countRound_self p s).1]; exact hst
  rw [roundChanges, figTakeStaged_none hnone]
  exact (takeStaged_frame p (countRound p s)).trans ((roundFrame_takeDivider p _).trans (roundFrame_countCycles p _))

/-! ### A staged FIG_ set does not change whether a setting is refused (13 R388) -/

/-- A partition with its staged FIG_ set replaced. -/
def withStaged (o : Option FigSh) (x : Ptn) : Ptn := { x with fig := { x.fig with staged := o } }

/-- What does not read the staged set is as before, in every partition. -/
theorem getPtn_withStaged {β : Type} (F : Ptn → β) {o : Option FigSh} (hF : ∀ x, F (withStaged o x) = F x) (p q : Nat) (s : State) :
    F (getPtn (modPtn p (withStaged o) s) q) = F (getPtn s q) := by
  rw [getPtn_modPtn]
  split
  · next h => rw [hF, h]
  · rfl

section
variable (o : Option FigSh) (p q : Nat) (s : State)

theorem qtrsOf_withStaged : qtrsOf (modPtn p (withStaged o) s) q = qtrsOf s q := by
  rw [qtrsOf, getPtn_withStaged Ptn.qtrs fun _ => rfl]; rfl

theorem thermDiv_withStaged : thermDiv (getPtn (modPtn p (withStaged o) s) q) = thermDiv (getPtn s q) := getPtn_withStaged thermDiv (fun _ => rfl) ..

theorem baseDiv_withStaged : baseDiv (getPtn (modPtn p (withStaged o) s) q) = baseDiv (getPtn s q) := getPtn_withStaged baseDiv (fun _ => rfl) ..

theorem ticketsFit_withStaged (f : Figure) (d : Nat) : ticketsFit (modPtn p (withStaged o) s) q f d = ticketsFit s q f d := by
  have hqtrs : figQtrs (modPtn p (withStaged o) s) q = figQtrs s q := by simp only [figQtrs, qtrsOf_withStaged]
  rw [ticketsFit, hqtrs]; rfl

theorem capDivOf_withStaged : capDivOf (modPtn p (withStaged o) s) q = capDivOf s q := by
  have hfig : (getPtn (modPtn p (withStaged o) s) q).figure = (getPtn s q).figure := getPtn_withStaged Ptn.figure (fun _ => rfl) ..
  simp only [capDivOf, hfig, ticketsFit_withStaged]

theorem limitDiv_withStaged : limitDiv (modPtn p (withStaged o) s) q = limitDiv s q := by
  simp only [limitDiv, capDivOf_withStaged, thermDiv_withStaged, modPtn_pwr]

theorem nbrVolts_withStaged (n : Nat) : nbrVolts (modPtn p (withStaged o) s) n q = nbrVolts s n q := by
  have hpwr : (getPtn (modPtn p (withStaged o) s) q).pwr = (getPtn s q).pwr := getPtn_withStaged Ptn.pwr (fun _ => rfl) ..
  simp only [nbrVolts, hpwr, baseDiv_withStaged, limitDiv_withStaged, modPtn_pwr, getQtr_modPtn]

end

/-- The first entry that passes a test, after the entry of one key was put: the entry put, or the one that was first before. -/
theorem find?_tput {α : Type} (d : α) (test : Nat × α → Bool) {p : Nat} {v : α} {e : Nat × α} (hne : e.1 ≠ p) :
    ∀ (t : Tbl α), test (p, v) = test (p, tget d t p) → (tput p v t).find? test = some e → t.find? test = some e
  | [], _, h => by
    simp only [tput, List.find?_cons, List.find?_nil] at h
    split at h
    · exact absurd (congrArg Prod.fst (Option.some.inj h)).symm hne
    · exact absurd h (by simp)
  | (k, w) :: rest, hv, h => by
    have hput : ∀ l : Tbl α, ((p, v) :: l).find? test = some e → test (p, v) = false ∧ l.find? test = some e := by
      intro l hl
      rw [List.find?_cons] at hl
      split at hl
      · exact absurd (congrArg Prod.fst (Option.some.inj hl)).symm hne
      · next hf => exact ⟨by simpa using hf, hl⟩
    simp only [tput] at h
    split at h
    · exact (hput _ h).2
    · split at h
      · next hk =>
        subst hk
        obtain ⟨hf, hrest⟩ := hput _ h
        rw [hv] at hf
        simp only [tget, if_true] at hf
        rw [List.find?_cons, hf]; exact hrest
      · next hk =>
        rw [List.find?_cons] at h ⊢
        split
        · next hw => simpa [hw] using h
        · next hw =>
          simp only [hw] at h
          exact find?_tput d test hne rest (by simpa [tget, hk] using hv) h

/-- A neighbour pair: a quarter of the partition, and an adjacent quarter that another partition holds. -/
theorem mem_nbrPairs {s : State} {p q n o : Nat} :
    (q, n, o) ∈ nbrPairs s p ↔ q ∈ qtrsOf s p ∧ n < 32 ∧ adjacent q n = true ∧ ptnOfQtr s n = some o ∧ o ≠ p := by
  simp only [nbrPairs, List.mem_flatMap, List.mem_filterMap, List.mem_range]
  constructor
  · rintro ⟨q', hq, n', hn, h⟩
    split at h
    · next hadj =>
      split at h
      · next o' ho =>
        split at h
        · exact absurd h (by simp)
        · next hne => cases h; exact ⟨hq, hn, hadj, ho, hne⟩
      · exact absurd h (by simp)
    · exact absurd h (by simp)
  · rintro ⟨hq, hn, hadj, ho, hne⟩
    exact ⟨q, hq, n, hn, by simp [hadj, ho, hne]⟩

/-- Staging a set makes no new neighbour: a quarter's holder is as before, or the partition itself. -/
theorem ptnOfQtr_withStaged {o : Option FigSh} {p n k : Nat} {s : State} (hq : (getPtn s p).qtrs ≠ 0) (hk : k ≠ p)
    (h : ptnOfQtr (modPtn p (withStaged o) s) n = some k) : ptnOfQtr s n = some k := by
  obtain ⟨e, he, hek⟩ := Option.map_eq_some_iff.mp h
  have hput : (modPtn p (withStaged o) s).ptns = tput p (withStaged o (getPtn s p)) s.ptns := by
    have hlisted : withStaged o (getPtn s p) ≠ {} := fun hd => hq (congrArg Ptn.qtrs hd)
    simp only [modPtn, tmod, tset]; exact if_neg hlisted
  rw [hput] at he
  have hfind := find?_tput ({} : Ptn) _ (by rw [hek]; exact hk) s.ptns (by rfl) he
  exact Option.map_eq_some_iff.mpr ⟨e, hfind, hek⟩

theorem nbrPairs_withStaged {o : Option FigSh} {p : Nat} {s : State} {e : Nat × Nat × Nat} (h : e ∈ nbrPairs (modPtn p (withStaged o) s) p) :
    e ∈ nbrPairs s p := by
  obtain ⟨q, n, k⟩ := e
  obtain ⟨hq, hn, hadj, hk, hne⟩ := mem_nbrPairs.mp h
  rw [qtrsOf_withStaged] at hq
  have hqtrs : (getPtn s p).qtrs ≠ 0 := by
    intro h0
    have hnone : maskBits 0 32 = [] := by decide
    rw [qtrsOf, h0, hnone] at hq
    exact List.not_mem_nil hq
  exact mem_nbrPairs.mpr ⟨hq, hn, hadj, ptnOfQtr_withStaged hqtrs hne hk, hne⟩

/-- A setting that is not refused stays so when a set is staged or unstaged. -/
theorem settingRefused_withStaged {o : Option FigSh} {p d : Nat} {s : State} (h : settingRefused s p d = none) :
    settingRefused (modPtn p (withStaged o) s) p d = none := by
  have hcur : (getPtn (modPtn p (withStaged o) s) p).fig.cur = (getPtn s p).fig.cur := getPtn_withStaged (fun x => x.fig.cur) (fun _ => rfl) ..
  simp only [settingRefused, hcur, thermDiv_withStaged, baseDiv_withStaged, limitDiv_withStaged, nbrVolts_withStaged, modPtn_pwr] at h ⊢
  split at h
  · exact absurd h (by simp)
  · next hslow =>
    rw [if_neg hslow, List.findSome?_eq_none_iff]
    exact fun e he => List.findSome?_eq_none_iff.mp h e (nbrPairs_withStaged he)

/-! ### FIG_COMMIT (02 R72, R80) -/

theorem ptnRuns_withStaged (o : Option FigSh) (x : Ptn) : ptnRuns (withStaged o x) = ptnRuns x := rfl

/-- FIG_COMMIT stages the shadow set, which takes effect at once where no round boundary will come. -/
theorem figCommitNow_eq (p : Nat) (s : State) : figCommitNow p s =
    if ptnRuns (getPtn s p) then modPtn p (withStaged (some (getPtn s p).fig.sh)) s
    else figTakeStaged p (modPtn p (withStaged (some (getPtn s p).fig.sh)) s) := by
  have hstage : modFig p (fun f => { f with staged := some f.sh }) s = modPtn p (withStaged (some (getPtn s p).fig.sh)) s := rfl
  simp only [figCommitNow, hstage, getPtn_modPtn_self, ptnRuns_withStaged]

/-- The FIG_ block with a set in force and no error: what a successful commit writes (02 R79, R80; log 43). -/
def inForce (n : FigSh) (f : Fig) : Fig := { f with cur := n, staged := none, errCode := 0, errSlot := 0, errInfo := 0 }

/-- An allowed staged set of a partition without a figure takes effect, its source pulses, and only then the divider may move. -/
theorem figTakeStaged_allowed {s : State} {p : Nat} {n : FigSh} (hst : (getPtn s p).fig.staged = some n) (hfig : (getPtn s p).figure = none)
    (hok : settingRefused s p n.div = none) :
    ∃ u, (getPtn u p).fig = inForce n (getPtn s p).fig ∧ figTakeStaged p s = retargetOne (pulse (srcPtn p 4) u) p := by
  have hok' : settingRefused (modPtn p (withStaged none) s) p n.div = none := settingRefused_withStaged hok
  have hunstage : modFig p (fun f => { f with staged := none }) s = modPtn p (withStaged none) s := rfl
  have hfig' : (getPtn (modPtn p (withStaged none) s) p).figure = none := by rw [getPtn_modPtn_self]; exact hfig
  refine ⟨figErr p 0 0 0 (modFig p (fun f => { f with cur := n }) (modPtn p (withStaged none) s)), ?_, ?_⟩
  · simp only [figErr, modFig_eq, getPtn_modPtn_self, inForce, withStaged]
  · simp only [figTakeStaged, hst, hunstage, hfig', hok']

theorem hostAccess_fig {s : State} {fn : FnId} {p : PtnId} {o : Nat} (go : State → State) (h : Served s fn (seesPtn s fn.val p.val) false) :
    hostAccess fn.val (figOff p.val + o) (seesPtn s fn.val p.val) false go s = go s := by
  obtain ⟨hopen, hsees, hup⟩ := h
  exact hostAccess_served go hopen hsees hup

/-- FIG_COMMIT of a stopped partition without a figure: an allowed set is in force at once, and its source is pending. -/
theorem figCommitNow_stopped {s : State} {p : PtnId} (hstop : ptnRuns (getPtn s p.val) = false) (hfig : (getPtn s p.val).figure = none)
    (hok : settingRefused s p.val (getPtn s p.val).fig.sh.div = none) :
    (getPtn (figCommitNow p.val s) p.val).fig = inForce (getPtn s p.val).fig.sh (getPtn s p.val).fig ∧
      isPending (figCommitNow p.val s) (srcPtn p.val 4) = true := by
  rw [figCommitNow_eq, if_neg (by simp [hstop])]
  have hst : (getPtn (modPtn p.val (withStaged (some (getPtn s p.val).fig.sh)) s) p.val).fig.staged = some (getPtn s p.val).fig.sh := by
    rw [getPtn_modPtn_self]; rfl
  have hfig' : (getPtn (modPtn p.val (withStaged (some (getPtn s p.val).fig.sh)) s) p.val).figure = none := by
    rw [getPtn_modPtn_self]; exact hfig
  obtain ⟨u, hu, heq⟩ := figTakeStaged_allowed hst hfig' (settingRefused_withStaged hok)
  have hpulse := roundFrame_pulse (srcPtn p.val 4) u
  have hmove := roundFrame_retargetOne (pulse (srcPtn p.val 4) u) p.val
  rw [heq]
  refine ⟨?_, hmove.pend _ (isPending_pulse_self u (isListed_srcPtn p.isLt (by decide)))⟩
  rw [hmove.fig, hpulse.fig, hu, getPtn_modPtn_self]; rfl

/-- The contexts after a round boundary without a running command: those of the partition have their staged sets in force. -/
theorem getCtx_roundTaken (p c : Nat) (s : State) :
    getCtx (ctxsTake (ctxsOf s p) (countRound p s)) c = if c ∈ ctxsOf s p then takeSet (getCtx s c) else getCtx s c :=
  getCtx_ctxsTake c _ _

theorem getPtn_roundTaken (p q : Nat) (s : State) : getPtn (ctxsTake (ctxsOf s p) (countRound p s)) q = getPtn (countRound p s) q := by
  rw [getPtn, ptns_ctxsTake, getPtn]

/-- Settles O26: staging changes only the staged set; an allowed set in force survives the divider's move; and what follows the count of a round
keeps the loader's registers, the cores and the contexts' sets. -/
theorem figCommitAndTheRoundBoundary : Obligations.FigCommitAndTheRoundBoundary := by
  refine ⟨⟨?running, ?stopped⟩, ?boundary⟩
  case running =>
    intro fn p s h hruns
    rw [exec_figCommit, hostAccess_fig _ h, figCommitNow_eq, if_pos hruns]
    exact ⟨_, rfl, rfl, otherPtns_modPtn _ _ s, getPtn_modPtn_self ..⟩
  case stopped =>
    intro fn p s h hstop hfig hok
    rw [exec_figCommit, hostAccess_fig _ h]
    exact ⟨_, rfl, figCommitNow_stopped hstop hfig hok⟩
  case boundary =>
    intro p s hready hruns hm hclk hrun hst
    rw [exec_partitionRoundBoundary, if_pos hready, roundBoundary_idle hruns hm hclk hrun]
    have hframe := roundBoundary_frame hst
    obtain ⟨hfig, hcores⟩ := getPtn_countRound_self p.val s
    refine ⟨_, rfl, ?_, ?_, ?_, fun c hc y hy => ?_, fun c hc => ?_⟩
    · rw [hframe.fig, getPtn_roundTaken, hfig]
    · rw [hframe.fig, getPtn_roundTaken, hfig]
    · rw [hframe.cores, getPtn_roundTaken, hcores]
    · rw [hframe.cur, hframe.staged, getCtx_roundTaken, if_pos hc, takeSet_of_staged hy]; exact ⟨rfl, rfl⟩
    · rw [hframe.cur, getCtx_roundTaken, takeSet_of_none hc, ite_self]

end Sys2Proof.Proofs
end

section
/-! PROOFS. A step on an empty queue: one C0 cycle moves the time-stamp counter and the CTX_RUN counters of the contexts whose commands run
(01 R41; 08 R237; log 12). -/
namespace Sys2Proof.Proofs
open Sys2Proof Sys2Proof.Machine Sys2Proof.Safety

theorem step_of_empty {s : State} (h : s.pending = []) : step s = .next (tick s) := by
  simp only [step, h]

theorem tick_off {s : State} (h : s.boot.aon = false) : tick s = s := if_neg (by simp [h])

/-- One partition's part of a C0 cycle: the context whose command its front-end runs counts in CTX_RUN. -/
def countCtxRun (s : State) (p : Nat) : State :=
  match (getPtn s p).fe.run with
  | some r => if feRuns (getPtn s p).fe then modCtx r.ctx (fun c => { c with run := c.run + 1 }) s else s
  | none => s

theorem tick_on {s : State} (h : s.boot.aon = true) : tick s = (livePtns s).foldl countCtxRun { s with time := s.time + 1 } := if_pos h

theorem countCtxRun_running {s : State} {p : Nat} {r : Running} (hrun : (getPtn s p).fe.run = some r) (hfe : feRuns (getPtn s p).fe = true) :
    countCtxRun s p = modCtx r.ctx (fun c => { c with run := c.run + 1 }) s := by
  simp only [countCtxRun, hrun, hfe, if_true]

/-- A partition's count changes no context, or that of a command that runs there. -/
theorem countCtxRun_cases (s : State) (p : Nat) : countCtxRun s p = s ∨ ∃ r, (getPtn s p).fe.run = some r ∧ feRuns (getPtn s p).fe = true ∧
    countCtxRun s p = modCtx r.ctx (fun c => { c with run := c.run + 1 }) s := by
  cases hrun : (getPtn s p).fe.run with
  | none => exact .inl (by simp only [countCtxRun, hrun])
  | some r =>
    cases hfe : feRuns (getPtn s p).fe with
    | false => exact .inl (by simp [countCtxRun, hrun, hfe])
    | true => exact .inr ⟨r, rfl, rfl, countCtxRun_running hrun hfe⟩

theorem countCtxRun_frame (s : State) (p : Nat) : countCtxRun s p = { s with ctxs := (countCtxRun s p).ctxs } := by
  rcases countCtxRun_cases s p with h | ⟨r, -, -, h⟩
  · rw [h]
  · rw [h]; rfl

/-- A context whose command does not run in the partition is as before. -/
theorem getCtx_countCtxRun_other {s : State} {p c : Nat} (h : ∀ r, (getPtn s p).fe.run = some r → feRuns (getPtn s p).fe = true → r.ctx ≠ c) :
    getCtx (countCtxRun s p) c = getCtx s c := by
  rcases countCtxRun_cases s p with heq | ⟨r, hrun, hfe, heq⟩
  · rw [heq]
  · rw [heq, getCtx_modCtx_ne s _ (h r hrun hfe).symm]

theorem countCtxRuns_frame : ∀ (l : List Nat) (s : State), l.foldl countCtxRun s = { s with ctxs := (l.foldl countCtxRun s).ctxs }
  | [], _ => rfl
  | p :: l, s => by
    rw [List.foldl_cons, countCtxRuns_frame l (countCtxRun s p), countCtxRun_frame s p]

theorem getCtx_countCtxRuns_other {c : Nat} : ∀ (l : List Nat) (s : State),
    (∀ p ∈ l, ∀ r, (getPtn s p).fe.run = some r → feRuns (getPtn s p).fe = true → r.ctx ≠ c) → getCtx (l.foldl countCtxRun s) c = getCtx s c
  | [], _, _ => rfl
  | p :: l, s, h => by
    have hptn (q : Nat) : getPtn (countCtxRun s p) q = getPtn s q := by rw [countCtxRun_frame]; rfl
    have htail := getCtx_countCtxRuns_other (c := c) l (countCtxRun s p) fun q hq r => by
      rw [hptn]; exact h q (List.mem_cons_of_mem p hq) r
    rw [List.foldl_cons, htail, getCtx_countCtxRun_other (h p List.mem_cons_self)]

/-- Settles O2: a powered idle step counts the cycle and then folds the partitions' CTX_RUN counts, which change no other context. -/
theorem emptyQueueStepIsOneC0Cycle : Obligations.EmptyQueueStepIsOneC0Cycle := by
  refine ⟨fun s hq hoff => ?off, fun s hq hon => ?on, fun s p r hq hon hlive hrun hfe => ?single⟩
  case off => rw [step_of_empty hq, tick_off hoff]
  case on =>
    refine ⟨tick s, step_of_empty hq, ?_, fun c hc => ?_⟩
    · rw [tick_on hon]; exact countCtxRuns_frame _ _
    · rw [tick_on hon]; exact getCtx_countCtxRuns_other _ { s with time := s.time + 1 } hc
  case single =>
    refine ⟨tick s, step_of_empty hq, ?_⟩
    rw [tick_on hon, hlive, List.foldl_cons, List.foldl_nil, countCtxRun_running (s := { s with time := s.time + 1 }) hrun hfe, getCtx_modCtx_self]
    rfl

end Sys2Proof.Proofs
end

section
/-! PROOFS. Repair (01 R31-R33; 11 R329, R331, R342; 14 R400): the sets' results and the quarters in service in the state after repair, one record
for each withheld set in the module log, and what the records and signals leave unchanged. -/
namespace Sys2Proof.Proofs
open Sys2Proof Sys2Proof.Machine Sys2Proof.Safety

/-! ### Bit masks -/

theorem bit_eq_testBit (n i : Nat) : bit n i = n.testBit i := by
  simp only [bit, Nat.testBit_eq_decide_div_mod_eq, beq_eq_decide]

/-- Adding a power of two whose bit is clear sets that bit. -/
theorem add_two_pow_eq_or {m i : Nat} (h : m.testBit i = false) : m + 2 ^ i = m ||| 2 ^ i := by
  have hsplit : m = 2 ^ (i + 1) * (m / 2 ^ (i + 1)) + m % 2 ^ i := by
    have hbit : m / 2 ^ i % 2 = 0 := by simpa [Nat.testBit_eq_decide_div_mod_eq] using h
    have hmod : m % 2 ^ (i + 1) = m % 2 ^ i := by rw [Nat.mod_pow_succ, hbit, Nat.mul_zero, Nat.add_zero]
    rw [← hmod, Nat.div_add_mod]
  have hlow : m % 2 ^ i < 2 ^ i := Nat.mod_lt _ (Nat.two_pow_pos i)
  have hlow' : m % 2 ^ i < 2 ^ (i + 1) := by rw [Nat.pow_succ]; omega
  have hsum : m % 2 ^ i + 2 ^ i < 2 ^ (i + 1) := by rw [Nat.pow_succ]; omega
  calc m + 2 ^ i = 2 ^ (i + 1) * (m / 2 ^ (i + 1)) + (m % 2 ^ i + 2 ^ i) := by omega
    _ = 2 ^ (i + 1) * (m / 2 ^ (i + 1)) ||| (m % 2 ^ i ||| 2 ^ i) := by rw [Nat.two_pow_add_eq_or_of_lt hsum, Nat.or_two_pow_eq_add_of_lt hlow]
    _ = m ||| 2 ^ i := by rw [← Nat.or_assoc, ← Nat.two_pow_add_eq_or_of_lt hlow', ← hsplit]

theorem bit_setBit (m i j : Nat) : bit (setBit m i) j = (bit m j || i == j) := by
  rw [setBit, bit_eq_testBit m i]
  cases h : m.testBit i with
  | true =>
    by_cases hij : i = j
    · subst hij; simp [bit_eq_testBit, h]
    · simp [hij]
  | false => rw [if_neg Bool.false_ne_true, bit_eq_testBit, bit_eq_testBit, add_two_pow_eq_or h, Nat.testBit_or, Nat.testBit_two_pow, beq_eq_decide]

/-- The mask of a list has exactly the listed bits. -/
theorem bit_bitsMask (l : List Nat) (j : Nat) : bit (bitsMask l) j = true ↔ j ∈ l := by
  have hfold : ∀ (l : List Nat) (m : Nat), bit (l.foldl setBit m) j = true ↔ bit m j = true ∨ j ∈ l := by
    intro l
    induction l with
    | nil => intro m; simp
    | cons i l ih => intro m; rw [List.foldl_cons, ih, bit_setBit, Bool.or_eq_true, beq_iff_eq, or_assoc, List.mem_cons, eq_comm (a := i)]
  have hzero : bit 0 j = false := by simp [bit]
  have hmask : bitsMask l = l.foldl setBit 0 := rfl
  simp [hmask, hfold, hzero]

/-! ### Records -/

/-- A record that does not coalesce into the log's newest one is written in front of it (11 R331). -/
theorem addRecord_cases {cap : Nat} (hcap : 0 < cap) (seq now : Nat) (r : FaultRec) (log : List FaultRec) :
    (∃ x rest, log = x :: rest ∧ sameFault x r = true ∧ (addRecord cap seq now r log).1 = { x with count := satAdd 8 x.count 1 } :: rest) ∨
    (addRecord cap seq now r log).1 = ({ r with seq := w32 seq, time := now } :: log).take cap := by
  cases log with
  | nil => right; rw [List.take_of_length_le hcap]; rfl
  | cons x rest =>
    simp only [addRecord]
    split
    · rename_i h
      simp only [Bool.and_eq_true] at h
      exact .inl ⟨x, rest, rfl, h.1.2, rfl⟩
    · exact .inr rfl

/-- A fault outside every partition with the action LOG is recorded and signalled, and nothing more (11 R329, R332). -/
theorem raise_of_log {r : FaultRec} (s : State) (haction : r.action = 0) (hptn : r.ptn = none) : raise r s = pulse srcModuleFault (logModule r s) := by
  simp [raise, raisePlain, takeAction, recordFault, haction, hptn]

/-- The record of a withheld set: QUARTER_WITHHELD with the set, its quarter and its die (01 R33). -/
def withheldRec (s : State) (n : Nat) : FaultRec := (faultRec s 0x0101 n 0).withQtr (n / 20)

/-- The record says that the set is withheld. -/
def SaysWithheld (n : Nat) (r : FaultRec) : Prop := r.code = 0x0101 ∧ r.index = n ∧ r.qtr = some (n / 20) ∧ r.die = some (n / 80)

theorem withheldRec_says {n : Nat} (s : State) (hn : n < 640) : SaysWithheld n (withheldRec s n) := by
  refine ⟨rfl, ?_, rfl, ?_⟩
  · exact Nat.mod_eq_of_lt (by omega)
  · rw [← Nat.div_div_eq_div_mul n 20 4]; rfl

/-- A record that coalesces with that of a withheld set names the same set, quarter and die. -/
theorem SaysWithheld.of_sameFault {n : Nat} {x r : FaultRec} (h : SaysWithheld n r) (hsame : sameFault x r = true) : SaysWithheld n x := by
  obtain ⟨hcode, hindex, hqtr, hdie⟩ := h
  simp only [sameFault, Bool.and_eq_true, beq_iff_eq] at hsame
  obtain ⟨⟨⟨⟨⟨⟨⟨⟨hc, hi⟩, -⟩, -⟩, -⟩, hq⟩, hd⟩, -⟩, -⟩ := hsame
  have hc' : x.code = 0x0101 := hc.trans hcode
  have hi' : x.index = r.index := by simpa [hc'] using hi
  exact ⟨hc', hi'.trans hindex, hq.trans hqtr, hd.trans hdie⟩

/-- One of the `k` newest records says that the set is withheld, and the module's fault source is pending. -/
def Reported (n k : Nat) (s : State) : Prop := isPending s srcModuleFault = true ∧ ∃ r ∈ s.flt.log.take k, SaysWithheld n r

theorem log_raise_withheld {s : State} (n : Nat) (hpol : policyOf s 0x0101 = 0) :
    (raise (withheldRec s n) s).flt.log = (addRecord 4096 s.flt.seq s.time (withheldRec s n) s.flt.log).1 := by
  have hsig := pulse_signalled srcModuleFault (logModule (withheldRec s n) s) rfl
  rw [raise_of_log s hpol rfl, hsig.1]; rfl

theorem isPending_raise_withheld {s : State} (n : Nat) (hpol : policyOf s 0x0101 = 0) : isPending (raise (withheldRec s n) s) srcModuleFault = true := by
  rw [raise_of_log s hpol rfl]; exact isPending_pulse_self _ rfl

/-- The fault of a withheld set reports it in the newest record. -/
theorem reported_raise_self {s : State} {n : Nat} (hn : n < 640) (hpol : policyOf s 0x0101 = 0) : Reported n 1 (raise (withheldRec s n) s) := by
  refine ⟨isPending_raise_withheld n hpol, ?_⟩
  have hsays := withheldRec_says s hn
  rw [log_raise_withheld n hpol]
  rcases addRecord_cases (cap := 4096) (by decide) s.flt.seq s.time (withheldRec s n) s.flt.log with ⟨x, rest, -, hsame, hlog⟩ | hlog
  · rw [hlog]; exact ⟨_, List.mem_cons_self, hsays.of_sameFault hsame⟩
  · rw [hlog]; exact ⟨_, List.mem_cons_self, hsays⟩

/-- A further withheld set's fault moves a report at most one record back, as long as the log has room (11 R331). -/
theorem Reported.raise_withheld {s : State} {n k : Nat} (m : Nat) (h : Reported n k s) (hpol : policyOf s 0x0101 = 0) (hk : k < 4096) :
    Reported n (k + 1) (raise (withheldRec s m) s) := by
  obtain ⟨-, r, hr, hsays⟩ := h
  refine ⟨isPending_raise_withheld m hpol, ?_⟩
  rw [log_raise_withheld m hpol]
  rcases addRecord_cases (cap := 4096) (by decide) s.flt.seq s.time (withheldRec s m) s.flt.log with ⟨x, rest, hold, -, hlog⟩ | hlog
  · rw [hlog, List.take_succ_cons]
    have hr' : r ∈ x :: rest.take k := by
      rw [hold] at hr
      exact (List.take_sublist_take_left (Nat.le_succ k)).subset hr
    rcases List.mem_cons.1 hr' with rfl | hrest
    · exact ⟨_, List.mem_cons_self, hsays⟩
    · exact ⟨r, List.mem_cons_of_mem _ hrest, hsays⟩
  · rw [hlog, List.take_take, Nat.min_eq_left (by omega), List.take_succ_cons]
    exact ⟨r, List.mem_cons_of_mem _ hr, hsays⟩

theorem Reported.mono {s : State} {n k l : Nat} (h : Reported n k s) (hkl : k ≤ l) : Reported n l s := by
  obtain ⟨hpend, r, hr, hsays⟩ := h
  exact ⟨hpend, r, (List.take_sublist_take_left hkl).subset hr, hsays⟩

/-! ### What records and signals leave unchanged -/

/-- Between the states only records, signals and measurements lie: policies are as before, and no source stopped being pending. -/
structure ReportFrame (s t : State) : Prop where
  frame  : t = { s with evc := t.evc, fns := t.fns, out := t.out, flt := t.flt, mgmt := t.mgmt }
  policy : t.flt.policy = s.flt.policy
  pend   : ∀ n, isPending s n = true → isPending t n = true

theorem ReportFrame.refl (s : State) : ReportFrame s s := ⟨rfl, rfl, fun _ => id⟩

theorem ReportFrame.trans {s t u : State} (h : ReportFrame s t) (k : ReportFrame t u) : ReportFrame s u :=
  ⟨by rw [k.frame, h.frame], k.policy.trans h.policy, fun n hn => k.pend n (h.pend n hn)⟩

theorem ReportFrame.policyOf_eq {s t : State} (h : ReportFrame s t) (code : Nat) : policyOf t code = policyOf s code := by
  rw [policyOf, h.policy, policyOf]

theorem ReportFrame.of_signalled {ns : List Nat} {s t : State} (h : Signalled ns s t) : ReportFrame s t :=
  ⟨by rw [h.1], by rw [h.1], fun n hn => by rw [h.2.1 n, hn, Bool.true_or]⟩

/-- Repair's results are measured (14 R413). -/
def measured (s : State) : State := setMeas 5 (measureRepair s) s

theorem reportFrame_measured (s : State) : ReportFrame s (measured s) := ⟨rfl, rfl, fun _ => id⟩

theorem measured_flt (s : State) : (measured s).flt = s.flt := rfl

theorem reportFrame_raise {r : FaultRec} (s : State) (haction : r.action = 0) (hptn : r.ptn = none) : ReportFrame s (raise r s) := by
  have hlog : ReportFrame s (logModule r s) := ⟨rfl, rfl, fun _ => id⟩
  rw [raise_of_log s haction hptn]
  exact hlog.trans (.of_signalled (pulse_signalled srcModuleFault _ rfl))

/-- The faults of a list of withheld sets, in turn. -/
def reportWithheld (l : List Nat) (s : State) : State := l.foldl (fun s n => raise (withheldRec s n) s) s

theorem reportFrame_reportWithheld : ∀ (l : List Nat) {s : State}, policyOf s 0x0101 = 0 → ReportFrame s (reportWithheld l s)
  | [], s, _ => .refl s
  | n :: l, s, hpol => by
    have hraise : ReportFrame s (raise (withheldRec s n) s) := reportFrame_raise s hpol rfl
    exact hraise.trans (reportFrame_reportWithheld l ((hraise.policyOf_eq _).trans hpol))

/-- Every listed set is reported, and so is one that was, while the log has room for all of them. -/
theorem reported_reportWithheld {n : Nat} : ∀ (l : List Nat) {s : State} {k : Nat}, policyOf s 0x0101 = 0 → (∀ m ∈ l, m < 640) →
    k + l.length ≤ 4096 → n ∈ l ∨ Reported n k s → Reported n (k + l.length) (reportWithheld l s)
  | [], _, _, _, _, _, h => h.resolve_left List.not_mem_nil
  | m :: l, s, k, hpol, hlt, hroom, h => by
    have hraise : ReportFrame s (raise (withheldRec s m) s) := reportFrame_raise s hpol rfl
    rw [List.length_cons] at hroom
    have hhead : n ∈ l ∨ Reported n (k + 1) (raise (withheldRec s m) s) := by
      rcases h with hmem | hold
      · rcases List.mem_cons.1 hmem with rfl | hmem
        · exact .inr ((reported_raise_self (hlt n List.mem_cons_self) hpol).mono (by omega))
        · exact .inl hmem
      · exact .inr (hold.raise_withheld m hpol (by omega))
    have htail := reported_reportWithheld l ((hraise.policyOf_eq _).trans hpol) (fun x hx => hlt x (List.mem_cons_of_mem m hx)) (by omega) hhead
    rw [List.length_cons, Nat.add_comm l.length 1, ← Nat.add_assoc]
    exact htail

/-- Pulses of listed sources set their pending bits, and only signals follow. -/
theorem pulses_signalled : ∀ (l : List Nat) (s : State), (∀ n ∈ l, isListed n = true) → Signalled l s (l.foldl (fun s n => pulse n s) s)
  | [], s, _ => .refl s
  | n :: l, s, h => by
    have hhead := pulse_signalled n s (h n List.mem_cons_self)
    exact hhead.trans (pulses_signalled l (pulse n s) fun m hm => h m (List.mem_cons_of_mem n hm))

/-! ### The sets and quarters after repair -/

theorem tget_map_of_mem {α : Type} (d : α) (f : Nat → α) {n : Nat} : ∀ (l : List Nat), n ∈ l → tget d (l.map fun m => (m, f m)) n = f n
  | m :: l, h => by
    simp only [List.map_cons, tget]
    split
    · rename_i heq; rw [heq]
    · rename_i hne; exact tget_map_of_mem d f l ((List.mem_cons.1 h).resolve_left fun e => hne e.symm)

/-- What self-test found in a set; nothing when it reports none. -/
def foundIn (found : List SelfTest) (n : Nat) : SelfTest := (found.find? fun x => x.set == n).getD ⟨n, [], []⟩

/-- The results of repair, set by set (01 R32). -/
def repairResults (found : List SelfTest) : Tbl SetRepair := (List.range 640).map fun n => (n, repairSet n (foundIn found n))

/-- The sets that repair withholds (01 R33). -/
def withheldSets (found : List SelfTest) : List Nat := ((repairResults found).filter fun e => e.2.withheld).map (·.1)

/-- The quarters without a withheld set. -/
def quartersInService (held : List Nat) : Nat := bitsMask ((List.range 32).filter fun q => !held.any fun n => n / 20 == q)

/-- The rails that fed listed quarters for self-test are off. -/
def railsOff (l : List Nat) (s : State) : State := l.foldl (fun s q => modQtr q (fun x => { x with railOn := false, selfTest := false }) s) s

/-- The state with repair's results, before its records and signals. -/
def repaired (found : List SelfTest) (s : State) : State :=
  railsOff (List.range 32) { s with sets := repairResults found, qtrAvail := quartersInService (withheldSets found) }

theorem mem_withheldSets {found : List SelfTest} {n : Nat} :
    n ∈ withheldSets found ↔ n < 640 ∧ (repairSet n (foundIn found n)).withheld = true := by
  simp [withheldSets, repairResults]

theorem length_withheldSets (found : List SelfTest) : (withheldSets found).length ≤ 640 := by
  have hfilter := List.length_filter_le (fun e : Nat × SetRepair => e.2.withheld) (repairResults found)
  simpa [withheldSets, repairResults] using hfilter

theorem bit_quartersInService {held : List Nat} {q : Nat} (hq : q < 32) : bit (quartersInService held) q = true ↔ ∀ n ∈ held, n / 20 ≠ q := by
  simp [quartersInService, bit_bitsMask, hq]

theorem railsOff_frame : ∀ (l : List Nat) (s : State), railsOff l s = { s with qtrs := (railsOff l s).qtrs }
  | [], _ => rfl
  | q :: l, s => railsOff_frame l (modQtr q (fun x => { x with railOn := false, selfTest := false }) s)

/-- A quarter that is listed, or was off before, is off. -/
theorem getQtr_railsOff {q : Nat} : ∀ (l : List Nat) (s : State), q ∈ l ∨ (getQtr s q).railOn = false ∧ (getQtr s q).selfTest = false →
    (getQtr (railsOff l s) q).railOn = false ∧ (getQtr (railsOff l s) q).selfTest = false
  | [], _, h => h.resolve_left List.not_mem_nil
  | k :: l, s, h => by
    refine getQtr_railsOff l (modQtr k _ s) ?_
    rw [getQtr_modQtr]
    by_cases hqk : q = k
    · rw [if_pos hqk]; exact .inr ⟨rfl, rfl⟩
    · rw [if_neg hqk]; exact h.imp_left fun hmem => (List.mem_cons.1 hmem).resolve_left hqk

theorem repaired_frame (found : List SelfTest) (s : State) : repaired found s =
    { s with sets := repairResults found, qtrAvail := quartersInService (withheldSets found), qtrs := (repaired found s).qtrs } := by
  rw [repaired, railsOff_frame]

theorem sets_repaired (found : List SelfTest) (s : State) : (repaired found s).sets = repairResults found := by rw [repaired_frame]

theorem flt_repaired (found : List SelfTest) (s : State) : (repaired found s).flt = s.flt := by rw [repaired_frame]

theorem getSet_repaired {found : List SelfTest} {n : Nat} (s : State) (hn : n < 640) : getSet (repaired found s) n = repairSet n (foundIn found n) := by
  rw [getSet, sets_repaired, repairResults, tget_map_of_mem _ _ _ (List.mem_range.2 hn)]

theorem policyOf_repaired (found : List SelfTest) (s : State) (code : Nat) : policyOf (repaired found s) code = policyOf s code := by
  rw [policyOf, flt_repaired, policyOf]

/-! ### The end of repair -/

/-- The dies' REPAIR_DONE sources. -/
def repairDoneSources : List Nat := (List.range 8).map fun d => srcDie d 4

/-- Repair writes its results, reports the withheld sets, is measured, and signals each die's REPAIR_DONE. -/
theorem finishRepair_eq (found : List SelfTest) (s : State) : finishRepair found s =
    repairDoneSources.foldl (fun s n => pulse n s) (measured (reportWithheld (withheldSets found) (repaired found s))) := by
  rw [repairDoneSources, List.foldl_map]; rfl

theorem finishRepair_signalled (found : List SelfTest) (s : State) :
    Signalled repairDoneSources (measured (reportWithheld (withheldSets found) (repaired found s))) (finishRepair found s) := by
  rw [finishRepair_eq]; exact pulses_signalled repairDoneSources _ (by decide)

/-- The records, measurement and signals at the end of repair change none of its results. -/
theorem reportFrame_finishRepair (found : List SelfTest) {s : State} (hpol : policyOf s 0x0101 = 0) :
    ReportFrame (repaired found s) (finishRepair found s) := by
  have hreport : ReportFrame (repaired found s) (reportWithheld (withheldSets found) (repaired found s)) :=
    reportFrame_reportWithheld _ (by rw [policyOf_repaired, hpol])
  exact hreport.trans ((reportFrame_measured _).trans (.of_signalled (finishRepair_signalled found s)))

theorem isPending_repairDone (found : List SelfTest) (s : State) {d : Nat} (hd : d < 8) : isPending (finishRepair found s) (srcDie d 4) = true := by
  have hmem : srcDie d 4 ∈ repairDoneSources := List.mem_map_of_mem (List.mem_range.2 hd)
  rw [(finishRepair_signalled found s).2.1, List.contains_iff_mem.2 hmem, Bool.or_true]

theorem reported_finishRepair {found : List SelfTest} {s : State} {n : Nat} (hpol : policyOf s 0x0101 = 0) (hn : n ∈ withheldSets found) :
    Reported n 640 (finishRepair found s) := by
  have hlen := length_withheldSets found
  have hreported : Reported n (0 + (withheldSets found).length) (reportWithheld (withheldSets found) (repaired found s)) :=
    reported_reportWithheld _ (by rw [policyOf_repaired, hpol]) (fun m hm => (mem_withheldSets.1 hm).1) (by omega) (.inl hn)
  obtain ⟨hpend, hlog⟩ := hreported.mono (l := 640) (by omega)
  have hsig := finishRepair_signalled found s
  refine ⟨(ReportFrame.of_signalled hsig).pend _ ((reportFrame_measured _).pend _ hpend), ?_⟩
  obtain ⟨-, -, -, -, -, -, -, hflt, -⟩ := hsig.units
  rw [hflt, measured_flt]; exact hlog

/-- Repair leads to TRAINING at start-up; in a module reset the stage stays (14 R400; 11 R342). -/
theorem exec_repairDone (found : List SelfTest) {s : State} (hstage : s.boot.stage ∈ [Stage.repair, .resetting]) (hpol : policyOf s 0x0101 = 0) :
    exec (.repairDone found) s =
      .next (modBoot (fun b => { b with stage := if s.boot.stage = .repair then .training else .resetting }) (finishRepair found s)) := by
  have hexec : exec (.repairDone found) s = execRepairDone found s := rfl
  have hboot : (finishRepair found s).boot = s.boot := by rw [(reportFrame_finishRepair found hpol).frame, repaired_frame]
  rw [hexec, execRepairDone]
  simp only [List.mem_cons, List.not_mem_nil, or_false] at hstage
  rcases hstage with h | h
  · simp only [h, if_true]
  · have hkeep : modBoot (fun b => { b with stage := .resetting }) (finishRepair found s) = finishRepair found s := by
      rw [modBoot, hboot, ← h, ← hboot]
    simp only [h, reduceCtorEq, if_false, hkeep]

theorem getSet_finishRepair {found : List SelfTest} {s : State} {n : Nat} (hpol : policyOf s 0x0101 = 0) (hn : n < 640) :
    getSet (finishRepair found s) n = repairSet n (foundIn found n) := by
  rw [← getSet_repaired s hn, getSet, (reportFrame_finishRepair found hpol).frame, getSet]

/-- A quarter is in service when none of its twenty sets is withheld (01 R33). -/
theorem bit_qtrAvail_finishRepair {found : List SelfTest} {s : State} {q : Nat} (hpol : policyOf s 0x0101 = 0) (hq : q < 32) :
    bit (finishRepair found s).qtrAvail q = true ↔ ∀ n, n < 640 → n / 20 = q → (getSet (finishRepair found s) n).withheld = false := by
  have havail : (finishRepair found s).qtrAvail = quartersInService (withheldSets found) := by
    rw [(reportFrame_finishRepair found hpol).frame, repaired_frame]
  rw [havail, bit_quartersInService hq]
  constructor
  · intro h n hn hnq
    rw [getSet_finishRepair hpol hn]
    exact Bool.eq_false_iff.2 fun hheld => h n (mem_withheldSets.2 ⟨hn, hheld⟩) hnq
  · intro h n hmem hnq
    obtain ⟨hn, hheld⟩ := mem_withheldSets.1 hmem
    have hnot := h n hn hnq
    rw [getSet_finishRepair hpol hn, hheld] at hnot
    exact Bool.noConfusion hnot

theorem getQtr_finishRepair {found : List SelfTest} {s : State} {q : Nat} (hpol : policyOf s 0x0101 = 0) (hq : q < 32) :
    (getQtr (finishRepair found s) q).railOn = false ∧ (getQtr (finishRepair found s) q).selfTest = false := by
  have hqtr : getQtr (finishRepair found s) q = getQtr (repaired found s) q := by rw [getQtr, (reportFrame_finishRepair found hpol).frame, getQtr]
  rw [hqtr]; exact getQtr_railsOff (List.range 32) _ (.inl (List.mem_range.2 hq))

/-- Repair changes no partition, context, ring, fuse or memory. -/
theorem units_finishRepair (found : List SelfTest) {s : State} (hpol : policyOf s 0x0101 = 0) :
    (finishRepair found s).ptns = s.ptns ∧ (finishRepair found s).ctxs = s.ctxs ∧ (finishRepair found s).rings = s.rings ∧
    (finishRepair found s).fuses = s.fuses ∧ (finishRepair found s).mem = s.mem := by
  rw [(reportFrame_finishRepair found hpol).frame, repaired_frame]
  exact ⟨rfl, rfl, rfl, rfl, rfl⟩

/-- Settles O29: what follows the results of repair only reports them, and the log has room for a record of each of the 640 sets. -/
theorem repairSetsTheCoreMapsAndQuarters : Obligations.RepairSetsTheCoreMapsAndQuarters := by
  intro found s hstage hpol
  have hset (n : Nat) (hn : n < 640) := getSet_finishRepair (found := found) hpol hn
  have havail (q : Nat) (hq : q < 32) := bit_qtrAvail_finishRepair (found := found) hpol hq
  have hrails (q : Nat) (hq : q < 32) := getQtr_finishRepair (found := found) hpol hq
  have hdone (d : Nat) (hd : d < 8) := isPending_repairDone found s hd
  have hreported (n : Nat) (hn : n < 640) (hheld : (getSet (finishRepair found s) n).withheld = true) : Reported n 640 (finishRepair found s) := by
    rw [hset n hn] at hheld
    exact reported_finishRepair hpol (mem_withheldSets.2 ⟨hn, hheld⟩)
  have hunits := units_finishRepair found hpol
  have hexec := exec_repairDone found hstage hpol
  generalize finishRepair found s = t at *
  refine ⟨_, hexec, rfl, hset, havail, hrails, hdone, fun n hn hheld => ?_, hunits⟩
  obtain ⟨hpend, r, hr, hsays⟩ := hreported n hn hheld
  exact ⟨hpend, r, List.mem_of_mem_take hr, hsays⟩

end Sys2Proof.Proofs
end

section
/-! PROOFS. Figure commands begin (02 R64-R69, R77, R79): what each command does once its checks pass, and what a refusal writes. -/
namespace Sys2Proof.Proofs
open Sys2Proof Sys2Proof.Machine Sys2Proof.Safety

/-! ### One partition changes -/

/-- Only partition `p` changed. -/
structure OnlyPtn (p : Nat) (s t : State) : Prop where
  frame  : t = { s with ptns := t.ptns }
  others : OtherPtns p s t

theorem OnlyPtn.trans {p : Nat} {s t u : State} (h : OnlyPtn p s t) (k : OnlyPtn p t u) : OnlyPtn p s u :=
  ⟨by rw [k.frame, h.frame], fun q hq => (k.others q hq).trans (h.others q hq)⟩

theorem onlyPtn_modPtn (p : Nat) (g : Ptn → Ptn) (s : State) : OnlyPtn p s (modPtn p g s) := ⟨rfl, otherPtns_modPtn p g s⟩

theorem onlyPtn_modFig (p : Nat) (g : Fig → Fig) (s : State) : OnlyPtn p s (modFig p g s) := onlyPtn_modPtn p _ s

theorem getPtn_modFig_self (p : Nat) (g : Fig → Fig) (s : State) : getPtn (modFig p g s) p = { getPtn s p with fig := g (getPtn s p).fig } :=
  getPtn_modPtn_self ..

/-! ### The commands' meanings -/

theorem exec_install (fn : FnId) (p : PtnId) (slot : SlotId) (s : State) :
    exec (.install fn p slot) s = .next (figCmd fn.val p.val slot.val .install s) := rfl

theorem exec_remove (fn : FnId) (p : PtnId) (slot : SlotId) (s : State) :
    exec (.remove fn p slot) s = .next (figCmd fn.val p.val slot.val .remove s) := rfl

theorem exec_load (fn : FnId) (p : PtnId) (slot : SlotId) (s : State) :
    exec (.load fn p slot) s = .next (figCmd fn.val p.val slot.val .load s) := rfl

theorem exec_start (fn : FnId) (p : PtnId) (s : State) : exec (.start fn p) s = .next (figCmd fn.val p.val 0 .start s) := rfl

theorem exec_drain (fn : FnId) (p : PtnId) (s : State) : exec (.drain fn p) s = .next (figCmd fn.val p.val 0 .drain s) := rfl

theorem exec_switch (fn : FnId) (p : PtnId) (slot : SlotId) (s : State) :
    exec (.switch fn p slot) s = .next (figCmd fn.val p.val slot.val .switch s) := rfl

theorem figCmd_served {s : State} {fn : FnId} {p : PtnId} (slot : Nat) (op : FigOp) (h : Served s fn (seesPtn s fn.val p.val) false) :
    figCmd fn.val p.val slot op s = figGo p.val slot op none (getPtn s p.val).fig.instAddr (getPtn s p.val).fig.instSize s :=
  hostAccess_fig (o := 0) _ h

/-! ### Checks 0x10 and 0x11 (02 R65) -/

/-- A figure command as it begins. -/
def newFigCmd (s : State) (p slot : Nat) (op : FigOp) (by_ : Option (Nat × Nat)) : FigCmd :=
  { op := op, slot := slot, back := (getPtn s p).fig.st, by_ := by_ }

/-- A figure command in progress. -/
def busyWith (p : Nat) (c : FigCmd) (s : State) : State := modFig p (fun x => { x with cmd := some c }) s

section
variable {s : State} {p slot : Nat} {op : FigOp} {by_ : Option (Nat × Nat)} {addr size : Nat}

theorem figGo_of_stateBad (h : figStateBad s p slot op = true) : figGo p slot op by_ addr size s = refuseFig p slot by_ (0x10, 0) s := if_pos h

theorem figGo_of_slotBad (h : figStateBad s p slot op = false) (hslot : figSlotBad s p slot op addr size = true) :
    figGo p slot op by_ addr size s = refuseFig p slot by_ (0x11, slot) s := by
  simp only [figGo, h, hslot, if_true, if_false, Bool.false_eq_true]

theorem figGo_install (h : figStateBad s p slot .install = false) (hslot : figSlotBad s p slot .install addr size = false) :
    figGo p slot .install by_ addr size s = modSlot p slot (fun _ => { st := .verifying, addr := addr, size := size })
      (busyWith p (newFigCmd s p slot .install by_) s) := by
  simp only [figGo, h, hslot, if_false, Bool.false_eq_true, busyWith, newFigCmd]

theorem figGo_remove (h : figStateBad s p slot .remove = false) (hslot : figSlotBad s p slot .remove addr size = false) :
    figGo p slot .remove by_ addr size s =
      endFig p (newFigCmd s p slot .remove by_) 0 0 slot (emptySlot p slot (busyWith p (newFigCmd s p slot .remove by_) s)) := by
  simp only [figGo, h, hslot, if_false, Bool.false_eq_true, busyWith, newFigCmd]

theorem figGo_load (h : figStateBad s p slot .load = false) (hslot : figSlotBad s p slot .load addr size = false) :
    figGo p slot .load by_ addr size s =
      tryLoad p (newFigCmd s p slot .load by_) (busyWith p (newFigCmd s p slot .load by_) s) := by
  simp only [figGo, h, hslot, if_false, Bool.false_eq_true, busyWith, newFigCmd]

theorem figGo_start (h : figStateBad s p slot .start = false) :
    figGo p slot .start by_ addr size s =
      endFig p (newFigCmd s p slot .start by_) 0 0 0 (startFigure p (busyWith p (newFigCmd s p slot .start by_) s)) := by
  simp only [figGo, h, figSlotBad, if_false, Bool.false_eq_true, busyWith, newFigCmd]

/-- DRAIN and SWITCH ask the running work to stop, and the partition drains. -/
theorem figGo_stop (hop : op = .drain ∨ op = .switch) (h : figStateBad s p slot op = false) (hslot : figSlotBad s p slot op addr size = false) :
    figGo p slot op by_ addr size s = requestStop p false (modFig p (fun x => { x with st := .draining })
      (busyWith p (newFigCmd s p slot op by_) s)) := by
  rcases hop with rfl | rfl <;> simp only [figGo, h, hslot, if_false, Bool.false_eq_true, busyWith, newFigCmd]

end

/-! ### Answers and ends (02 R77, R79) -/

/-- A figure command from FIG_CMD that is refused writes FIG_ERR and pulses the figure-done source (log 43). -/
theorem refuseFig_none (p slot : Nat) (e : Nat × Nat) (s : State) :
    refuseFig p slot none e s = pulse (srcPtn p 0) (figErr p e.1 slot e.2 s) := rfl

theorem getPtn_figErr_self (p code slot info : Nat) (s : State) :
    getPtn (figErr p code slot info s) p =
      { getPtn s p with fig := { (getPtn s p).fig with errCode := code, errSlot := slot, errInfo := info } } := getPtn_modPtn_self ..

theorem onlyPtn_figErr (p code slot info : Nat) (s : State) : OnlyPtn p s (figErr p code slot info s) := onlyPtn_modFig p _ s

theorem pulse_figDone (p : PtnId) (s : State) : Signalled [srcPtn p.val 0] s (pulse (srcPtn p.val 0) s) :=
  pulse_signalled _ s (isListed_srcPtn p.isLt (by decide))

/-- The FIG_ block at a command's end: BUSY is clear and FIG_ERR written. -/
def endedFig (c : FigCmd) (code info : Nat) (x : Fig) : Fig := { x with cmd := none, errCode := code, errSlot := c.slot, errInfo := info }

/-- The state at a figure command's end, before it is answered and signalled. -/
def figEnded (p : Nat) (c : FigCmd) (code info : Nat) (s : State) : State := figErr p code c.slot info (modFig p (fun f => { f with cmd := none }) s)

theorem getPtn_figEnded_self (p : Nat) (c : FigCmd) (code info : Nat) (s : State) :
    getPtn (figEnded p c code info s) p = { getPtn s p with fig := endedFig c code info (getPtn s p).fig } := by
  rw [figEnded, getPtn_figErr_self, getPtn_modFig_self]; rfl

theorem onlyPtn_figEnded (p : Nat) (c : FigCmd) (code info : Nat) (s : State) : OnlyPtn p s (figEnded p c code info s) :=
  (onlyPtn_modFig p (fun f => { f with cmd := none }) s).trans (onlyPtn_figErr ..)

/-- A command from FIG_CMD ends in its partition, and only signals follow. -/
theorem endFig_fromHost {p : PtnId} {c : FigCmd} {s v : State} (hby : c.by_ = none) (h : OnlyPtn p.val s v) (code info result : Nat) :
    ∃ u, OnlyPtn p.val s u ∧ Signalled [srcPtn p.val 0] u (endFig p.val c code info result v) ∧
      getPtn u p.val = { getPtn v p.val with fig := endedFig c code info (getPtn v p.val).fig } := by
  refine ⟨figEnded p.val c code info v, h.trans (onlyPtn_figEnded ..), ?_, getPtn_figEnded_self ..⟩
  rw [endFig, hby]
  exact pulse_figDone p _

/-! ### Slots (02 R64, R84) -/

theorem onlyPtn_modSlot (p k : Nat) (g : Slot → Slot) (s : State) : OnlyPtn p s (modSlot p k g s) := onlyPtn_modFig p _ s

theorem getSlot_modSlot (p k j : Nat) (g : Slot → Slot) (s : State) : getSlot (modSlot p k g s) p j = if j = k then g (getSlot s p k) else getSlot s p j := by
  simp only [getSlot, modSlot, modFig_eq, getPtn_modPtn_self, tget_tmod]

/-- What removing a figure leaves in the partition: the slot EMPTY, and no plan or map bound to it (05 R148; 06 R177). -/
def withoutSlot (slot : Nat) (x : Ptn) : Ptn :=
  { x with
    fig := { x.fig with slots := tmod {} slot (fun _ => {}) x.fig.slots }
    units := { x.units with plans := tset none slot none x.units.plans }
    att := { x.att with maps := tset none slot none x.att.maps } }

theorem getPtn_emptySlot_self (p slot : Nat) (s : State) : getPtn (emptySlot p slot s) p = withoutSlot slot (getPtn s p) := by
  simp only [emptySlot, modSlot, modUnits, modFig_eq, modAtt_eq, getPtn_modPtn_self, withoutSlot]

theorem onlyPtn_emptySlot (p slot : Nat) (s : State) : OnlyPtn p s (emptySlot p slot s) :=
  (onlyPtn_modFig p _ s).trans ((onlyPtn_modPtn p _ _).trans (onlyPtn_modPtn p _ _))

/-! ### Load checks do not look at BUSY -/

theorem getPtn_busyWith_self (p : Nat) (c : FigCmd) (s : State) :
    getPtn (busyWith p c s) p = { getPtn s p with fig := { (getPtn s p).fig with cmd := some c } } := getPtn_modPtn_self ..

theorem onlyPtn_busyWith (p : Nat) (c : FigCmd) (s : State) : OnlyPtn p s (busyWith p c s) := onlyPtn_modFig p _ s

theorem loadCheck_busyWith (p slot : Nat) (c : FigCmd) (s : State) : loadCheck (busyWith p c s) p slot = loadCheck s p slot := by
  have hqtrs : qtrsOf (busyWith p c s) p = qtrsOf s p := by rw [qtrsOf, getPtn_busyWith_self]; rfl
  have hplace (f : Figure) : placementBad (busyWith p c s) p f = placementBad s p f := by simp only [placementBad, hqtrs]; rfl
  have hdiv (f : Figure) (d : Nat) : dividerBad (busyWith p c s) p f d = dividerBad s p f d := by simp only [dividerBad, figQtrs, hqtrs]; rfl
  have hchan (f : Figure) : channelBad (busyWith p c s) p f = channelBad s p f := rfl
  have hslot : getSlot (busyWith p c s) p slot = getSlot s p slot := by rw [getSlot, getPtn_busyWith_self, getSlot]
  have hvalid : validFigure (busyWith p c s) p slot = validFigure s p slot := by rw [validFigure, hslot, validFigure]
  simp only [loadCheck, hvalid, getPtn_busyWith_self, hplace, hchan, hdiv]

/-- A figure that passes the load checks is in a VALID slot. -/
theorem valid_of_loadCheck {s : State} {p slot : Nat} {f : Figure} (h : loadCheck s p slot = .ok f) : (getSlot s p slot).st = .valid := by
  by_contra hst
  simp [loadCheck, validFigure, hst] at h

theorem tryLoad_ok {s : State} {p : Nat} {c : FigCmd} {f : Figure} (h : loadCheck s p c.slot = .ok f) : tryLoad p c s = beginLoad p c.slot f s := by
  simp only [tryLoad, h]

theorem tryLoad_error {s : State} {p : Nat} {c : FigCmd} {e : Nat × Nat} (h : loadCheck s p c.slot = .error e) :
    tryLoad p c s = endFig p c e.1 e.2 0 (modFig p (fun x => { x with st := c.back }) s) := by
  simp only [tryLoad, h]

/-! ### When a command is permitted (02 R65, R77) -/

section
variable {s : State} {p slot : Nat}

theorem figStateBad_install (hex : (getPtn s p).exists_ = true) (hcmd : (getPtn s p).fig.cmd = none)
    (hst : (getPtn s p).fig.st ∈ [FigSt.empty, .ready, .running]) : figStateBad s p slot .install = false := by
  simp only [List.mem_cons, List.not_mem_nil, or_false] at hst
  rcases hst with hst | hst | hst <;> simp [figStateBad, hcmd, hex, hst]

theorem figStateBad_remove (hex : (getPtn s p).exists_ = true) (hcmd : (getPtn s p).fig.cmd = none) (hslot : slotLoaded s p slot = false) :
    figStateBad s p slot .remove = false := by
  cases hst : (getPtn s p).fig.st <;> simp [figStateBad, hcmd, hex, hst, hslot]

theorem figStateBad_load (hex : (getPtn s p).exists_ = true) (hcmd : (getPtn s p).fig.cmd = none)
    (hst : (getPtn s p).fig.st ∈ [FigSt.empty, .ready]) : figStateBad s p slot .load = false := by
  simp only [List.mem_cons, List.not_mem_nil, or_false] at hst
  rcases hst with hst | hst <;> simp [figStateBad, hcmd, hex, hst]

theorem figSlotBad_install {addr size : Nat} (hst : (getSlot s p slot).st ∈ [SlotState.empty, .invalid]) (haddr : addr % 64 = 0)
    (hnear : rangeNear s p addr (max 1 size) = true) : figSlotBad s p slot .install addr size = false := by
  simp only [List.mem_cons, List.not_mem_nil, or_false] at hst
  rcases hst with hst | hst <;> simp [figSlotBad, hst, haddr, hnear]

theorem figSlotBad_load {addr size : Nat} (hst : (getSlot s p slot).st = .valid) : figSlotBad s p slot .load addr size = false := by
  simp [figSlotBad, hst]

end

/-! ### LOAD begins (02 R67, R68) -/

/-- The loader's registers as a load begins: LOADING under the next epoch, or the chain's. -/
def loadingFig (x : Fig) : Fig := { x with st := .loading, epoch := if x.useChain then x.chainEpoch else (x.epoch + 1) % 65536 }

theorem beginLoad_frame (p slot : Nat) (f : Figure) (s : State) :
    beginLoad p slot f s = { s with
      ptns := (modFig p loadingFig s).ptns, mgmt := { s.mgmt with meas := (beginLoad p slot f s).mgmt.meas } } := rfl

theorem getPtn_beginLoad (p slot q : Nat) (f : Figure) (s : State) : getPtn (beginLoad p slot f s) q = getPtn (modFig p loadingFig s) q := rfl

/-- Settles O22: each command passes or fails its checks in `figGo`, and what follows changes the partition only. -/
theorem installRemoveAndLoadBegin : Obligations.InstallRemoveAndLoadBegin := by
  refine ⟨⟨?install, ?remove⟩, ?loads, ?fails⟩
  case install =>
    intro fn p slot s h hex hcmd hst hslot haddr hnear
    rw [exec_install, figCmd_served _ _ h, figGo_install (figStateBad_install hex hcmd hst) (figSlotBad_install hslot haddr hnear)]
    obtain ⟨hframe, hothers⟩ := (onlyPtn_busyWith p.val (newFigCmd s p.val slot.val .install none) s).trans (onlyPtn_modSlot p.val slot.val
      (fun _ => { st := .verifying, addr := (getPtn s p.val).fig.instAddr, size := (getPtn s p.val).fig.instSize }) _)
    refine ⟨_, rfl, hframe, hothers, ?_, ?_, fun k hk => ?_⟩
    · rw [modSlot, getPtn_modFig_self, getPtn_busyWith_self]; rfl
    · rw [getSlot_modSlot, if_pos rfl]
    · rw [getSlot_modSlot, if_neg hk, getSlot, getPtn_busyWith_self, getSlot]
  case remove =>
    intro fn p slot s h hex hcmd hslot
    rw [exec_remove, figCmd_served _ _ h, figGo_remove (figStateBad_remove hex hcmd hslot) hslot]
    obtain ⟨u, hu, hsig, hptn⟩ := endFig_fromHost (c := newFigCmd s p.val slot.val .remove none) rfl
      ((onlyPtn_busyWith p.val (newFigCmd s p.val slot.val .remove none) s).trans (onlyPtn_emptySlot p.val slot.val _)) 0 0 slot.val
    refine ⟨_, u, rfl, hu.frame, hu.others, hsig, ?_⟩
    simp only [getSlot, hptn, getPtn_emptySlot_self, getPtn_busyWith_self, withoutSlot, tget_tmod_self, tget_tset_self, endedFig]
    exact ⟨trivial, fun k hk => tget_tmod_ne _ _ _ hk, trivial, trivial, trivial, trivial, trivial⟩
  case loads =>
    intro fn p slot f s h hex hcmd hst hok
    rw [exec_load, figCmd_served _ _ h, figGo_load (figStateBad_load hex hcmd hst) (figSlotBad_load (valid_of_loadCheck hok)),
      tryLoad_ok ((loadCheck_busyWith ..).trans hok)]
    refine ⟨_, rfl, beginLoad_frame .., fun q hq => ?_, ?_⟩
    · rw [getPtn_beginLoad, (onlyPtn_modFig _ _ _).others q hq, (onlyPtn_busyWith _ _ _).others q hq]
    · rw [getPtn_beginLoad, getPtn_modFig_self, getPtn_busyWith_self]; rfl
  case fails =>
    intro fn p slot code info s h hex hcmd hst hslot hbad
    rw [exec_load, figCmd_served _ _ h, figGo_load (figStateBad_load hex hcmd hst) (figSlotBad_load hslot),
      tryLoad_error ((loadCheck_busyWith ..).trans hbad)]
    obtain ⟨u, hu, hsig, hptn⟩ := endFig_fromHost (c := newFigCmd s p.val slot.val .load none) rfl
      ((onlyPtn_busyWith p.val (newFigCmd s p.val slot.val .load none) s).trans
        (onlyPtn_modFig p.val (fun x => { x with st := (getPtn s p.val).fig.st }) _)) code info 0
    refine ⟨_, u, rfl, hu.frame, hu.others, hsig, ?_⟩
    rw [hptn, getPtn_modFig_self, getPtn_busyWith_self, endedFig, ← hcmd]; rfl

/-! ### The engine without figure work (08 R250, R251) -/

section
variable {p : Nat} {s : State}

theorem readyCtxs_nil (hqueue : (getPtn s p).fe.queue = []) (hsaved : (getPtn s p).fe.saved = []) : readyCtxs s p = [] := by
  simp [readyCtxs, hqueue, hsaved, naddAll]

theorem pickCtx_nil (h : readyCtxs s p = []) : ∀ n, pickCtx n p s = (none, s)
  | 0 => rfl
  | n + 1 => by simp [pickCtx, h]

/-- Serving an empty queue at most forgets which command was to follow. -/
theorem serveFuel_nil (hqueue : (getPtn s p).fe.queue = []) (hsaved : (getPtn s p).fe.saved = []) :
    ∀ n, serveFuel n p s = s ∨ serveFuel n p s = modFe p (fun f => { f with next := none }) s
  | 0 => .inl rfl
  | n + 1 => by
    have hforget : getPtn (modFe p (fun f => { f with next := none }) s) p = { getPtn s p with fe := { (getPtn s p).fe with next := none } } :=
      getPtn_modPtn_self ..
    have hready : readyCtxs (modFe p (fun f => { f with next := none }) s) p = [] :=
      readyCtxs_nil (by rw [hforget]; exact hqueue) (by rw [hforget]; exact hsaved)
    rw [serveFuel]
    split
    · exact .inl rfl
    · right
      cases hnext : (getPtn s p).fe.next <;> simp only [hnext, hqueue, hsaved, List.find?_nil, pickCtx_nil hready]

/-- An engine without work stays idle. -/
theorem serve_nil (hqueue : (getPtn s p).fe.queue = []) (hsaved : (getPtn s p).fe.saved = []) :
    OnlyPtn p s (serve p s) ∧ getPtn (serve p s) p =
      { getPtn s p with fe := { (getPtn s p).fe with mode := .idle, next := (getPtn (serve p s) p).fe.next } } := by
  have hidle : getPtn (modFe p (fun f => { f with mode := .idle }) s) p = { getPtn s p with fe := { (getPtn s p).fe with mode := .idle } } :=
    getPtn_modPtn_self ..
  have hframe : OnlyPtn p s (modFe p (fun f => { f with mode := .idle }) s) := onlyPtn_modPtn p _ s
  rcases serveFuel_nil (p := p) (s := modFe p (fun f => { f with mode := .idle }) s) (by rw [hidle]; exact hqueue) (by rw [hidle]; exact hsaved)
    ((getPtn s p).fe.queue.length + (getPtn s p).fe.saved.length + 1) with h | h
  · rw [serve, h]
    exact ⟨hframe, by rw [hidle]⟩
  · rw [serve, h]
    exact ⟨hframe.trans (onlyPtn_modPtn p _ _), by rw [modFe_eq, getPtn_modPtn_self, hidle]⟩

theorem kick_idle (h : (getPtn s p).fe.mode = .idle) : kick p s = serve p s := by simp only [kick, h]

/-- The partition whose figure runs from its first round: every core is before step 0 (02 R67). -/
def begunRounds (x : Ptn) : Ptn :=
  { x with fig := { x.fig with st := .running, rounds := 0 }, cores := tmap {} restCore x.cores, barrier := 0, flow := {} }

theorem startFigure_eq (p : Nat) (s : State) : startFigure p s = kick p (modPtn p begunRounds s) := rfl

/-- A figure without waiting work starts, and its engine stays idle. -/
theorem startFigure_idle (hmode : (getPtn s p).fe.mode = .idle) (hqueue : (getPtn s p).fe.queue = []) (hsaved : (getPtn s p).fe.saved = []) :
    OnlyPtn p s (startFigure p s) ∧ getPtn (startFigure p s) p =
      { begunRounds (getPtn s p) with fe := { (getPtn s p).fe with next := (getPtn (startFigure p s) p).fe.next } } := by
  have hfe : (getPtn (modPtn p begunRounds s) p).fe = (getPtn s p).fe := by rw [getPtn_modPtn_self]; rfl
  obtain ⟨hserve, hptn⟩ := serve_nil (p := p) (s := modPtn p begunRounds s) (by rw [hfe]; exact hqueue) (by rw [hfe]; exact hsaved)
  rw [startFigure_eq, kick_idle (by rw [hfe]; exact hmode)]
  refine ⟨(onlyPtn_modPtn p begunRounds s).trans hserve, hptn.trans ?_⟩
  rw [hfe, ← hmode, getPtn_modPtn_self]

end

/-! ### The running work is asked to stop (08 R255, R256; 02 R69) -/

/-- Only the partition and its contexts' SAVE_UNUSABLE changed, and of the engine only its mode. -/
structure Stopping (p : Nat) (s t : State) : Prop where
  frame  : t = { s with ptns := t.ptns, ctxs := t.ctxs }
  others : OtherPtns p s t
  own    : getPtn t p = { getPtn s p with fe := { (getPtn s p).fe with mode := (getPtn t p).fe.mode, noSave := (getPtn t p).fe.noSave } }
  ctxs   : ∀ c, getCtx t c = { getCtx s c with saveUnus := (getCtx t c).saveUnus }

theorem Stopping.refl (p : Nat) (s : State) : Stopping p s s := ⟨rfl, fun _ _ => rfl, rfl, fun _ => rfl⟩

theorem stopping_mode (p : Nat) (m : FeMode) (s : State) : Stopping p s (modFe p (fun f => { f with mode := m }) s) :=
  ⟨rfl, otherPtns_modPtn p _ s, by rw [modFe_eq, getPtn_modPtn_self], fun _ => rfl⟩

theorem stopping_noSave (p c : Nat) (s : State) :
    Stopping p s (modCtx c (fun x => { x with saveUnus := true }) (modFe p (fun f => { f with noSave := true }) s)) := by
  refine ⟨rfl, fun q hq => otherPtns_modPtn p (fun x => { x with fe := { x.fe with noSave := true } }) s q hq, ?_, fun d => ?_⟩
  · rw [getPtn_modCtx, modFe_eq, getPtn_modPtn_self]
  · rw [getCtx_modCtx, modFe_eq, getCtx_modPtn]
    split
    · next h => rw [h]
    · rfl

theorem requestStop_stopping (p : Nat) (park : Bool) (s : State) : Stopping p s (requestStop p park s) := by
  simp only [requestStop]
  split
  · split
    · exact .refl p s
    · split
      · exact stopping_noSave p _ s
      · exact stopping_mode p _ s
  · split
    · exact stopping_mode p _ s
    · exact .refl p s
  · exact .refl p s

/-! ### START, DRAIN and SWITCH (02 R67, R69, R77) -/

theorem figStateBad_of_st {s : State} {p slot : Nat} {op : FigOp} (hex : (getPtn s p).exists_ = true) (hcmd : (getPtn s p).fig.cmd = none)
    (hst : ((getPtn s p).fig.st = .ready ∧ op = .start) ∨ ((getPtn s p).fig.st = .running ∧ (op = .drain ∨ op = .switch))) :
    figStateBad s p slot op = false := by
  rcases hst with ⟨hst, rfl⟩ | ⟨hst, rfl | rfl⟩ <;> simp [figStateBad, hcmd, hex, hst]

/-- The partition that drains for the command `c`. -/
def drainingFor (c : FigCmd) (x : Fig) : Fig := { x with st := .draining, cmd := some c }

/-- Stopping for DRAIN or SWITCH changes the partition's figure state, its engine's mode and its contexts' SAVE_UNUSABLE (02 R69). -/
theorem requestStop_draining (p : Nat) (c : FigCmd) (s : State) :
    let t := requestStop p false (modFig p (fun x => { x with st := .draining }) (busyWith p c s))
    t = { s with ptns := t.ptns, ctxs := t.ctxs } ∧ OtherPtns p s t ∧
      getPtn t p = { getPtn s p with
        fig := drainingFor c (getPtn s p).fig, fe := { (getPtn s p).fe with mode := (getPtn t p).fe.mode, noSave := (getPtn t p).fe.noSave } } ∧
      ∀ d, getCtx t d = { getCtx s d with saveUnus := (getCtx t d).saveUnus } := by
  have hdrain : OnlyPtn p s (modFig p (fun x => { x with st := .draining }) (busyWith p c s)) := (onlyPtn_busyWith p c s).trans (onlyPtn_modFig p _ _)
  have hown : getPtn (modFig p (fun x => { x with st := .draining }) (busyWith p c s)) p = { getPtn s p with fig := drainingFor c (getPtn s p).fig } := by
    rw [getPtn_modFig_self, getPtn_busyWith_self]; rfl
  obtain ⟨hframe, hothers, hptn, hctxs⟩ := requestStop_stopping p false (modFig p (fun x => { x with st := .draining }) (busyWith p c s))
  refine ⟨?_, fun q hq => (hothers q hq).trans (hdrain.others q hq), hptn.trans (by rw [hown]), hctxs⟩
  rw [hframe, hdrain.frame]

/-! ### Refusals (02 R65, R77; log 43) -/

/-- The FIG_ block after a refusal: FIG_ERR names code 0x10 for the state, 0x11 with the slot for the slot. -/
def refusedFig (bad : Bool) (slot : Nat) (x : Fig) : Fig :=
  { x with errCode := if bad then 0x10 else 0x11, errSlot := slot, errInfo := if bad then 0 else slot }

/-- A command that fails one of its first two checks only writes FIG_ERR and pulses the figure-done source. -/
theorem figGo_refused {s : State} (p : PtnId) {slot addr size : Nat} {op : FigOp}
    (h : figStateBad s p.val slot op = true ∨ figSlotBad s p.val slot op addr size = true) :
    ∃ u, OnlyPtn p.val s u ∧ Signalled [srcPtn p.val 0] u (figGo p.val slot op none addr size s) ∧
      getPtn u p.val = { getPtn s p.val with fig := refusedFig (figStateBad s p.val slot op) slot (getPtn s p.val).fig } := by
  cases hbad : figStateBad s p.val slot op
  · refine ⟨figErr p.val 0x11 slot slot s, onlyPtn_figErr .., ?_, getPtn_figErr_self ..⟩
    rw [figGo_of_slotBad hbad (h.resolve_left (by simp [hbad])), refuseFig_none]
    exact pulse_figDone p _
  · refine ⟨figErr p.val 0x10 slot 0 s, onlyPtn_figErr .., ?_, getPtn_figErr_self ..⟩
    rw [figGo_of_stateBad hbad, refuseFig_none]
    exact pulse_figDone p _

/-- Settles O23: START restarts the rounds on an idle engine, DRAIN and SWITCH stop the running work, and `figGo_refused` says what a refusal writes. -/
theorem startDrainSwitchAndRefusals : Obligations.StartDrainSwitchAndRefusals := by
  refine ⟨⟨?start, ?drain, ?switch⟩, ?refused⟩
  case start =>
    intro fn p s h hex hcmd hst hmode hqueue hsaved
    have hfe := congrArg Ptn.fe (getPtn_busyWith_self p.val (newFigCmd s p.val 0 .start none) s)
    obtain ⟨hstart, hown⟩ := startFigure_idle (p := p.val) (s := busyWith p.val (newFigCmd s p.val 0 .start none) s)
      (by rw [hfe]; exact hmode) (by rw [hfe]; exact hqueue) (by rw [hfe]; exact hsaved)
    obtain ⟨u, hu, hsig, hptn⟩ := endFig_fromHost (c := newFigCmd s p.val 0 .start none) rfl ((onlyPtn_busyWith ..).trans hstart) 0 0 0
    refine ⟨_, u, (exec_start ..).trans ?_, hu.frame, hu.others, hsig, ?_⟩
    · rw [figCmd_served _ _ h, figGo_start (figStateBad_of_st hex hcmd (.inl ⟨hst, rfl⟩))]
    · rw [hptn, hown, getPtn_busyWith_self]; rfl
  case drain =>
    intro fn p s h hex hcmd hst
    rw [exec_drain, figCmd_served _ _ h, figGo_stop (.inl rfl) (figStateBad_of_st hex hcmd (.inr ⟨hst, .inl rfl⟩)) rfl]
    obtain ⟨hframe, hothers, hown, hctxs⟩ := requestStop_draining p.val (newFigCmd s p.val 0 .drain none) s
    exact ⟨_, rfl, hframe, hothers, hown.trans (by rw [newFigCmd, hst]; rfl), hctxs⟩
  case switch =>
    intro fn p slot s h hex hcmd hst hslot
    rw [exec_switch, figCmd_served _ _ h, figGo_stop (.inr rfl) (figStateBad_of_st hex hcmd (.inr ⟨hst, .inr rfl⟩)) (by simp [figSlotBad, hslot])]
    obtain ⟨hframe, hothers, hown, hctxs⟩ := requestStop_draining p.val (newFigCmd s p.val slot.val .switch none) s
    exact ⟨_, rfl, hframe, hothers, hown.trans (by rw [newFigCmd, hst]; rfl), hctxs⟩
  case refused =>
    intro fn p slot s c h hc
    have hexec : exec c.1 s = .next (figCmd fn.val p.val c.2.2 c.2.1 s) := by
      simp only [List.mem_cons, List.not_mem_nil, or_false] at hc
      rcases hc with rfl | rfl | rfl | rfl | rfl | rfl
      · exact exec_install ..
      · exact exec_remove ..
      · exact exec_load ..
      · exact exec_start ..
      · exact exec_drain ..
      · exact exec_switch ..
    intro x bad hbad
    obtain ⟨u, hu, hsig, hptn⟩ := figGo_refused p hbad
    exact ⟨_, u, hexec.trans (by rw [figCmd_served _ _ h]), hu.frame, hu.others, hsig, hptn⟩

end Sys2Proof.Proofs
end

section
/-! PROOFS. A fault whose action is PARTITION (11 R329, R332, R337, R341): it is logged, and its partition is FAULTED and in reset. -/
namespace Sys2Proof.Proofs
open Sys2Proof Sys2Proof.Machine Sys2Proof.Safety

theorem getPtn_eq_of_ptns {s t : State} (h : t.ptns = s.ptns) (q : Nat) : getPtn t q = getPtn s q := by simp only [getPtn, h]

/-! ### What sending packets changes (10 R299-R308, R324) -/

/-- Only the fabric block and what has left the module changed. -/
def SendsOnly (s t : State) : Prop := t = { s with fab := t.fab, out := t.out }

section
variable {s t u : State}

theorem SendsOnly.refl (s : State) : SendsOnly s s := rfl

theorem SendsOnly.trans (h : SendsOnly s t) (k : SendsOnly t u) : SendsOnly s u := by
  unfold SendsOnly at h k ⊢
  rw [k, h]

theorem SendsOnly.foldl {α : Type} {f : State → α → State} (hf : ∀ s a, SendsOnly s (f s a)) : ∀ (l : List α) (s : State), SendsOnly s (l.foldl f s)
  | [], s => .refl s
  | a :: l, s => (hf s a).trans (SendsOnly.foldl hf l (f s a))

theorem SendsOnly.ptns (h : SendsOnly s t) : t.ptns = s.ptns := by rw [h]

theorem SendsOnly.flt (h : SendsOnly s t) : t.flt = s.flt := by rw [h]

end

theorem sendsOnly_modPort (n : Nat) (g : Port → Port) (s : State) : SendsOnly s (modPort n g s) := rfl

theorem sendsOnly_modFab (g : Fab → Fab) (s : State) : SendsOnly s (modFab g s) := rfl

theorem sendsOnly_modOut (g : Out → Out) (s : State) : SendsOnly s (modOut g s) := rfl

theorem sendsOnly_sendFrame (n : Nat) (slots : List FrameSlot) (owners : NSet) (s : State) : SendsOnly s (sendFrame n slots owners s) := by
  unfold sendFrame putFrame
  refine SendsOnly.trans ?_ (sendsOnly_modOut _ _)
  exact (sendsOnly_modPort n _ s).trans (sendsOnly_modPort n _ _)

theorem sendsOnly_emitPacket (n : Nat) (j : Sending) (s : State) : SendsOnly s (emitPacket n j s) := by
  unfold emitPacket
  refine SendsOnly.trans ?_ (sendsOnly_modOut _ _)
  exact (sendsOnly_modPort n _ s).trans (.foldl (fun s c => sendsOnly_sendFrame n c _ s) _ _)

theorem sendsOnly_sendPacket (n : Nat) (j : Sending) (s : State) : SendsOnly s (sendPacket n j s) := by
  simp only [sendPacket]
  split
  · exact sendsOnly_emitPacket n j s
  · exact sendsOnly_modPort n _ s

theorem sendsOnly_sendTo (coord : Nat) (j : Sending) (s : State) : SendsOnly s (sendTo coord j s) := by
  simp only [sendTo]
  split
  · exact .refl s
  · split
    · exact sendsOnly_modFab _ s
    · split
      · exact sendsOnly_modFab _ s
      · split
        · exact sendsOnly_modFab _ s
        · exact sendsOnly_sendPacket _ j s

theorem sendsOnly_sendUnits (owner : Option Nat) (us : List (Nat × Nat × XUnit)) (s : State) : SendsOnly s (sendUnits owner us s) := by
  simp only [sendUnits]
  split
  · exact .refl s
  · exact (SendsOnly.foldl (fun s k => sendsOnly_sendTo _ _ s) _ _).trans (sendsOnly_modOut _ _)

/-! ### What removing work keeps (11 R339) -/

/-- The fault block, and every partition's loader registers and reset, are as before. -/
structure KeepsResets (s t : State) : Prop where
  flt   : t.flt = s.flt
  fig   : ∀ q, (getPtn t q).fig = (getPtn s q).fig
  reset : ∀ q, (getPtn t q).reset = (getPtn s q).reset

section
variable {s t u : State}

theorem KeepsResets.refl (s : State) : KeepsResets s s := ⟨rfl, fun _ => rfl, fun _ => rfl⟩

theorem KeepsResets.trans (h : KeepsResets s t) (k : KeepsResets t u) : KeepsResets s u :=
  ⟨k.flt.trans h.flt, fun q => (k.fig q).trans (h.fig q), fun q => (k.reset q).trans (h.reset q)⟩

theorem KeepsResets.of_ptns (hflt : t.flt = s.flt) (hptns : t.ptns = s.ptns) : KeepsResets s t :=
  ⟨hflt, fun q => by rw [getPtn_eq_of_ptns hptns], fun q => by rw [getPtn_eq_of_ptns hptns]⟩

theorem KeepsResets.foldl {α : Type} {f : State → α → State} (hf : ∀ s a, KeepsResets s (f s a)) : ∀ (l : List α) (s : State), KeepsResets s (l.foldl f s)
  | [], s => .refl s
  | a :: l, s => (hf s a).trans (KeepsResets.foldl hf l (f s a))

theorem SendsOnly.keepsResets (h : SendsOnly s t) : KeepsResets s t := .of_ptns h.flt h.ptns

end

theorem keepsResets_modPtn (p : Nat) {g : Ptn → Ptn} (s : State) (hfig : ∀ x, (g x).fig = x.fig) (hreset : ∀ x, (g x).reset = x.reset) :
    KeepsResets s (modPtn p g s) := by
  refine ⟨rfl, fun q => ?_, fun q => ?_⟩
  · rw [getPtn_modPtn]; split
    · next h => rw [hfig, h]
    · rfl
  · rw [getPtn_modPtn]; split
    · next h => rw [hreset, h]
    · rfl

theorem keepsResets_modPMem (p : Nat) (g : PMem → PMem) (s : State) : KeepsResets s (modPMem p g s) := keepsResets_modPtn p s (fun _ => rfl) fun _ => rfl

theorem keepsResets_modPage (p key : Nat) (g : PageEnt → PageEnt) (s : State) : KeepsResets s (modPage p key g s) := keepsResets_modPMem p _ s

theorem keepsResets_modFe (p : Nat) (g : Fe → Fe) (s : State) : KeepsResets s (modFe p g s) := keepsResets_modPtn p s (fun _ => rfl) fun _ => rfl

theorem keepsResets_modExch (p x : Nat) (g : Exch → Exch) (s : State) : KeepsResets s (modExch p x g s) := keepsResets_modPtn p s (fun _ => rfl) fun _ => rfl

theorem keepsResets_clearStreams (p : Nat) (s : State) : KeepsResets s (clearStreams p s) := keepsResets_modPtn p s (fun _ => rfl) fun _ => rfl

theorem keepsResets_stopFe (p : Nat) (s : State) : KeepsResets s (stopFe p s) := keepsResets_modFe p _ s

theorem keepsResets_clearChans (p : Nat) (s : State) : KeepsResets s (clearChans p s) := (sendsOnly_modFab _ s).keepsResets

/-! #### Page tables (06 R198) -/

theorem keepsResets_writePart (p a : Nat) (bs : List Byte) (poison : Bool) (s : State) : KeepsResets s (writePart p a bs poison s) := by
  simp only [writePart]
  split
  · exact .refl s
  · refine KeepsResets.trans ?_ (keepsResets_modPage p _ _ _)
    exact .of_ptns rfl rfl

theorem keepsResets_writeRange (p a : Nat) (bs : List Byte) (poison : Bool) (s : State) : KeepsResets s (writeRange p a bs poison s) :=
  .foldl (fun s _ => keepsResets_writePart p _ _ poison s) _ s

theorem keepsResets_clearRecomputing (c : Nat) (s : State) : KeepsResets s (clearRecomputing c s) := by
  refine .foldl (fun s k => ?_) _ s
  split
  · exact keepsResets_writeRange _ _ _ _ s
  · exact .refl s

/-! #### Exchanges (10 R325) -/

theorem keepsResets_cancelSender (p x : Nat) (sel : XTok → Bool) (s : State) : KeepsResets s (cancelSender p x sel s) := by
  refine KeepsResets.trans (.foldl (fun s k => ?_) _ s) (keepsResets_modExch p x _ _)
  split
  · exact .refl s
  · exact (sendsOnly_sendUnits _ _ s).keepsResets

theorem keepsResets_voidHome (p x : Nat) (sel : Nat → Bool) (s : State) : KeepsResets s (voidHome p x sel s) :=
  (sendsOnly_sendUnits _ _ s).keepsResets.trans (keepsResets_modExch p x _ _)

theorem keepsResets_abortExch (p x : Nat) (s : State) : KeepsResets s (abortExch p x s) :=
  (keepsResets_cancelSender p x _ s).trans ((keepsResets_voidHome p x _ _).trans (keepsResets_modExch p x _ _))

theorem keepsResets_abortAllExch (p : Nat) (s : State) : KeepsResets s (abortAllExch p s) := .foldl (fun s x => keepsResets_abortExch p x s) _ s

theorem keepsResets_dropExch (p c x : Nat) (run : Bool) (s : State) : KeepsResets s (dropExch p c x run s) := by
  simp only [dropExch]
  split
  · exact keepsResets_cancelSender p x _ s
  · exact (keepsResets_cancelSender p x _ s).trans ((keepsResets_voidHome p x _ _).trans (keepsResets_modExch p x _ _))

/-! #### A context's work (11 R339) -/

theorem keepsResets_dropTransit (i : MoverItem) (s : State) : KeepsResets s (dropTransit i s) := keepsResets_modPMem i.ptn _ s

theorem keepsResets_dropMoverItems (sel : MoverItem → Bool) (s : State) : KeepsResets s (dropMoverItems sel s) := by
  refine .foldl (fun s d => ?_) _ s
  refine KeepsResets.trans ?_ (.foldl (fun s i => keepsResets_dropTransit i s) _ _)
  exact .of_ptns rfl rfl

theorem keepsResets_markGone (c : Nat) (s : State) : KeepsResets s (markGone c s) := .of_ptns rfl rfl

theorem keepsResets_removeWork (c : Nat) (s : State) : KeepsResets s (removeWork c s) := by
  simp only [removeWork]
  have hstreams (b : Bool) (p : Nat) (u : State) : KeepsResets u (if b then clearStreams p u else u) := by
    split
    · exact keepsResets_clearStreams p u
    · exact .refl u
  refine KeepsResets.trans ?_ (keepsResets_markGone c _)
  refine KeepsResets.trans ?_ (keepsResets_modPtn _ _ (fun _ => rfl) fun _ => rfl)
  refine KeepsResets.trans ?_ ((keepsResets_modFe _ _ _).trans (keepsResets_dropMoverItems _ _))
  refine KeepsResets.trans ?_ (.foldl (fun s x => keepsResets_dropExch _ _ x _ s) _ _)
  exact (keepsResets_clearRecomputing c s).trans (hstreams _ _ _)

/-- A context's reset with its partition counts nothing and touches no loader register. -/
theorem keepsResets_beginCtxReset (c cause : Nat) (db : Bool) (s : State) : KeepsResets s (beginCtxReset c 3 cause db s) := by
  simp only [beginCtxReset]
  split
  · exact .refl s
  · exact KeepsResets.trans (t := modCtx c _ s) (.of_ptns rfl rfl) (keepsResets_removeWork c _)
  · split
    · split
      · exact .of_ptns rfl rfl
      · exact .refl s
    · exact .refl s

/-! ### A partition reset begins (11 R337, R341) -/

theorem flt_pulse (n : Nat) (s : State) : (pulse n s).flt = s.flt := by
  cases h : isListed n with
  | true => exact (pulse_signalled n s h).units.2.2.2.2.2.2.2.1
  | false => simp [pulse, setPend, h]

/-- A figure command that the reset cuts is over; the rest of the partition and the fault block stay. -/
theorem cutFig_cuts (p : Nat) (s : State) :
    (cutFig p s).flt = s.flt ∧ getPtn (cutFig p s) p = { getPtn s p with fig := { (getPtn s p).fig with cmd := none } } := by
  simp only [cutFig]
  split
  · refine ⟨flt_pulse _ _, ?_⟩
    rw [getPtn_eq_of_ptns (pulse_keeps _ _).1, getPtn_modFig_self]
  · next h =>
    have hnone : (getPtn s p).fig.cmd = none := by simpa using h
    exact ⟨rfl, by rw [← hnone]⟩

/-- The partition as its reset begins: FAULTED, with the cause, no mirror run wanted, and slots in verification empty. -/
def resetBegun (cause : Nat) (x : Ptn) : Ptn :=
  { x with
    reset := some (cause, 0), pwr := { x.pwr with mirrorWant := none }
    fig := { x.fig with st := .faulted, slots := x.fig.slots.map fun e => if e.2.st = .verifying then (e.1, {}) else e } }

/-- The fault block counts a partition reset, which takes over a reset of its figure engine. -/
def countPtnReset (p : Nat) (f : Flt) : Flt :=
  { f with n3 := satAdd 32 f.n3 1, engResets := f.engResets.filter fun r => decide (r.eng ≠ .figure (ptnId p)) }

/-- The partition's flits, its contexts' work and its exchanges are removed, and its engine stops. -/
def removePtn (p cause : Nat) (s : State) : State :=
  let t := clearChans p (clearStreams p s)
  stopFe p (abortAllExch p ((ctxsOf t p).foldl (fun s c => beginCtxReset c 3 cause false s) t))

theorem keepsResets_removePtn (p cause : Nat) (s : State) : KeepsResets s (removePtn p cause s) := by
  unfold removePtn
  refine KeepsResets.trans ?_ ((keepsResets_abortAllExch p _).trans (keepsResets_stopFe p _))
  refine KeepsResets.trans ?_ (.foldl (fun s c => keepsResets_beginCtxReset c cause false s) _ _)
  exact (keepsResets_clearStreams p s).trans (keepsResets_clearChans p _)

section
variable {s : State} {p cause : Nat} (hex : (getPtn s p).exists_ = true) (hreset : (getPtn s p).reset = none)
include hex hreset

theorem beginPtnReset_eq :
    beginPtnReset p cause s = removePtn p cause (cutFig p (modPtn p (resetBegun cause) (modFlt (countPtnReset p) s))) := by
  simp only [beginPtnReset, ptnInReset, hex, hreset]
  rfl

/-- A partition reset that begins counts itself and leaves the partition FAULTED, its figure command over, and in reset. -/
theorem beginPtnReset_resets :
    (beginPtnReset p cause s).flt = countPtnReset p s.flt ∧ (getPtn (beginPtnReset p cause s) p).fig.st = .faulted ∧
      (getPtn (beginPtnReset p cause s) p).fig.cmd = none ∧ (getPtn (beginPtnReset p cause s) p).reset = some (cause, 0) := by
  obtain ⟨hflt, hcut⟩ := cutFig_cuts p (modPtn p (resetBegun cause) (modFlt (countPtnReset p) s))
  rw [getPtn_modPtn_self] at hcut
  rw [beginPtnReset_eq hex hreset]
  have hrest := keepsResets_removePtn p cause (cutFig p (modPtn p (resetBegun cause) (modFlt (countPtnReset p) s)))
  refine ⟨hrest.flt.trans hflt, ?_, ?_, ?_⟩
  · exact (congrArg Fig.st (hrest.fig p)).trans (congrArg (fun x => x.fig.st) hcut)
  · exact (congrArg Fig.cmd (hrest.fig p)).trans (congrArg (fun x => x.fig.cmd) hcut)
  · exact (hrest.reset p).trans (congrArg Ptn.reset hcut)

end

/-! ### The fault's record (11 R329, R331) -/

/-- A record whose action is not LOG never coalesces: it is the newest. -/
theorem head_addRecord {r : FaultRec} (h : r.action ≠ 0) (cap seq now : Nat) (log : List FaultRec) :
    (addRecord (cap + 1) seq now r log).1.head? = some { r with seq := w32 seq, time := now } := by
  cases log with
  | nil => rfl
  | cons n rest => simp [addRecord, h]

/-- What recording a fault of a partition keeps, and where its record stands. -/
theorem recordFault_records {r : FaultRec} {p : PtnId} {s : State} (hptn : r.ptn = some p.val) (haction : r.action ≠ 0) :
    (recordFault r s).boot = s.boot ∧ (recordFault r s).flt.n3 = s.flt.n3 ∧
      (recordFault r s).flt.log.head? = some { r with seq := w32 s.flt.seq, time := s.time } ∧
      ∀ q, getPtn (recordFault r s) q = { getPtn s q with flt := (getPtn (recordFault r s) q).flt } := by
  obtain ⟨hptns, -, -, -, -, -, -, hflt, hboot, -⟩ := (recordFault_signalled r s fun q hq => by
    rw [hptn] at hq; cases hq; exact p.isLt).units
  have hlogged : (logged r s).boot = s.boot ∧ (logged r s).flt = (logModule r s).flt ∧
      ∀ q, getPtn (logged r s) q = { getPtn s q with flt := (getPtn (logged r s) q).flt } := by
    simp only [logged, hptn]
    split
    · exact ⟨rfl, rfl, fun _ => rfl⟩
    · refine ⟨rfl, rfl, fun q => ?_⟩
      rw [logPtn, modPFlt, getPtn_modPtn]
      split
      · next h => rw [h]; rfl
      · rfl
  obtain ⟨hboot', hflt', hown⟩ := hlogged
  refine ⟨hboot.trans hboot', ?_, ?_, fun q => ?_⟩
  · rw [hflt, hflt']; rfl
  · rw [hflt, hflt']
    exact head_addRecord haction 4095 s.flt.seq s.time s.flt.log
  · rw [getPtn_eq_of_ptns hptns]; exact hown q

/-- A fault with the action PARTITION, raised while READY in a partition that is not in reset, leaves it FAULTED and in reset (11 R332, R341). -/
theorem raise_resets {r : FaultRec} {p : PtnId} {s : State} (hready : isReady s = true) (hex : (getPtn s p.val).exists_ = true)
    (hreset : (getPtn s p.val).reset = none) (hptn : r.ptn = some p.val) (haction : r.action = 3) :
    (getPtn (raise r s) p.val).fig.st = .faulted ∧ (getPtn (raise r s) p.val).fig.cmd = none ∧ (getPtn (raise r s) p.val).reset = some (r.code, 0) ∧
      (raise r s).flt.n3 = satAdd 32 s.flt.n3 1 ∧ (raise r s).flt.log.head? = some { r with seq := w32 s.flt.seq, time := s.time } := by
  obtain ⟨hboot, hn3, hlog, hown⟩ := recordFault_records (s := s) hptn (by rw [haction]; decide)
  have hready' : isReady (recordFault r s) = true := by rw [isReady, hboot]; exact hready
  have hplain : raise r s = beginPtnReset p.val r.code (recordFault r s) := by
    simp only [raise, raisePlain, takeAction, hptn, haction, hready', if_true]
    rw [if_neg]
    simp [mirroring, hreset]
  obtain ⟨hflt, hst, hcmd, hcause⟩ := beginPtnReset_resets (s := recordFault r s) (p := p.val) (cause := r.code)
    (by rw [hown]; exact hex) (by rw [hown]; exact hreset)
  rw [hplain]
  refine ⟨hst, hcmd, hcause, ?_, ?_⟩
  · rw [hflt, ← hn3]; rfl
  · rw [hflt, ← hlog]; rfl

end Sys2Proof.Proofs
end

section
/-! PROOFS. Figure commands end (02 R64-R70; 11 R332, R341): INSTALL's verdict, LOAD, and a drain that completes or that its limit ends. -/
namespace Sys2Proof.Proofs
open Sys2Proof Sys2Proof.Machine Sys2Proof.Safety

/-! ### A figure command's end, answered to its ring or to FIG_CMD -/

theorem ptns_answerRing (by_ : Option (Nat × Nat)) (code info result : Nat) (s : State) : (answerRing by_ code info result s).ptns = s.ptns := by
  cases by_ with
  | none => rfl
  | some e =>
    simp only [answerRing]
    split <;> rfl

theorem ptns_endFig (p : Nat) (c : FigCmd) (code info result : Nat) (s : State) : (endFig p c code info result s).ptns = (figEnded p c code info s).ptns :=
  (pulse_keeps _ _).1.trans (ptns_answerRing ..)

theorem getPtn_endFig_self (p : Nat) (c : FigCmd) (code info result : Nat) (s : State) :
    getPtn (endFig p c code info result s) p = { getPtn s p with fig := endedFig c code info (getPtn s p).fig } :=
  (getPtn_eq_of_ptns (ptns_endFig ..) p).trans (getPtn_figEnded_self ..)

theorem otherPtns_endFig (p : Nat) (c : FigCmd) (code info result : Nat) (s : State) : OtherPtns p s (endFig p c code info result s) :=
  fun q hq => (getPtn_eq_of_ptns (ptns_endFig ..) q).trans ((onlyPtn_figEnded ..).others q hq)

theorem isPending_endFig (p : PtnId) (c : FigCmd) (code info result : Nat) (s : State) :
    isPending (endFig p.val c code info result s) (srcPtn p.val 0) = true :=
  isPending_pulse_self _ (isListed_srcPtn p.isLt (by decide))

theorem getSlot_endFig (p k : Nat) (c : FigCmd) (code info result : Nat) (s : State) : getSlot (endFig p c code info result s) p k = getSlot s p k := by
  simp only [getSlot, getPtn_endFig_self, endedFig]

/-! ### INSTALL ends (02 R64, R65) -/

theorem exec_installDone {p : PtnId} {s : State} (h : isReady s = true) : exec (.installDone p) s = .next (installEnd p.val s) := by
  show Host.Outcome.next _ = _
  rw [if_pos h]

section
variable {s : State} {p : Nat} {c : FigCmd} (hcmd : (getPtn s p).fig.cmd = some c) (hop : c.op = .install)
include hcmd hop

theorem installEnd_ok {f : Figure} (h : installVerdict s p (getSlot s p c.slot) = .ok f) :
    installEnd p s = endFig p c 0 0 c.slot (modSlot p c.slot (fun y => { y with st := .valid, fig := some f }) s) := by
  simp only [installEnd, hcmd, hop, if_true, h]

theorem installEnd_error {e : Nat × Nat} (h : installVerdict s p (getSlot s p c.slot) = .error e) :
    installEnd p s = endFig p c e.1 e.2 0 (modSlot p c.slot (fun y => { y with st := .invalid, err := e.1 }) s) := by
  simp only [installEnd, hcmd, hop, if_true, h]

end

/-- What a command's end on a changed slot leaves: the slot changed, the other slots and partitions as they were, BUSY clear, the source pending. -/
theorem endFig_modSlot (p : PtnId) (c : FigCmd) (code info result : Nat) (g : Slot → Slot) (s : State) :
    let t := endFig p.val c code info result (modSlot p.val c.slot g s)
    (getPtn t p.val).fig.cmd = none ∧ isPending t (srcPtn p.val 0) = true ∧ OtherPtns p.val s t ∧
      (∀ k, k ≠ c.slot → getSlot t p.val k = getSlot s p.val k) ∧ getSlot t p.val c.slot = g (getSlot s p.val c.slot) ∧
      (getPtn t p.val).fig.errCode = code ∧ (getPtn t p.val).fig.errInfo = info := by
  refine ⟨?_, isPending_endFig .., fun q hq => ?_, fun k hk => ?_, ?_, ?_, ?_⟩
  · rw [getPtn_endFig_self]; rfl
  · rw [otherPtns_endFig p.val c code info result _ q hq, (onlyPtn_modSlot p.val c.slot g s).others q hq]
  · rw [getSlot_endFig, getSlot_modSlot, if_neg hk]
  · rw [getSlot_endFig, getSlot_modSlot, if_pos rfl]
  · rw [getPtn_endFig_self]; rfl
  · rw [getPtn_endFig_self]; rfl

/-! ### What settings and credits leave of a partition (13 R383-R388; 00 R10; 10 R301) -/

/-- A partition without the fields that settings move: its power block, its attention and its fault block. -/
def unsettled (x : Ptn) : Ptn := { x with pwr := {}, att := {}, flt := {} }

section
variable {x y : Ptn}

theorem fig_of_unsettled (h : unsettled x = unsettled y) : x.fig = y.fig := show (unsettled x).fig = (unsettled y).fig by rw [h]
theorem figure_of_unsettled (h : unsettled x = unsettled y) : x.figure = y.figure := show (unsettled x).figure = (unsettled y).figure by rw [h]
theorem cores_of_unsettled (h : unsettled x = unsettled y) : x.cores = y.cores := show (unsettled x).cores = (unsettled y).cores by rw [h]
theorem flow_of_unsettled (h : unsettled x = unsettled y) : x.flow = y.flow := show (unsettled x).flow = (unsettled y).flow by rw [h]
theorem fe_of_unsettled (h : unsettled x = unsettled y) : x.fe = y.fe := show (unsettled x).fe = (unsettled y).fe by rw [h]

/-- The loader's registers are none of the settings. -/
theorem unsettled_withFig (g : Fig → Fig) (h : unsettled x = unsettled y) :
    unsettled { x with fig := g x.fig } = unsettled { y with fig := g y.fig } :=
  congrArg (fun x : Ptn => { x with fig := g x.fig }) h

end

/-- Only settings of partition `p` moved, and no other partition's fields. -/
structure SettingsOnly (p : Nat) (s t : State) : Prop where
  others : OtherPtns p s t
  own    : unsettled (getPtn t p) = unsettled (getPtn s p)

section
variable {p : Nat} {s t u : State}

theorem SettingsOnly.refl (p : Nat) (s : State) : SettingsOnly p s s := ⟨fun _ _ => rfl, rfl⟩

theorem SettingsOnly.trans (h : SettingsOnly p s t) (k : SettingsOnly p t u) : SettingsOnly p s u :=
  ⟨fun q hq => (k.others q hq).trans (h.others q hq), k.own.trans h.own⟩

theorem SettingsOnly.of_ptns (h : t.ptns = s.ptns) : SettingsOnly p s t :=
  ⟨fun q _ => getPtn_eq_of_ptns h q, congrArg unsettled (getPtn_eq_of_ptns h p)⟩

theorem SettingsOnly.foldl {α : Type} {f : State → α → State} (hf : ∀ s a, SettingsOnly p s (f s a)) :
    ∀ (l : List α) (s : State), SettingsOnly p s (l.foldl f s)
  | [], s => .refl p s
  | a :: l, s => (hf s a).trans (SettingsOnly.foldl hf l (f s a))

theorem ptns_foldl {α : Type} {f : State → α → State} (hf : ∀ s a, (f s a).ptns = s.ptns) : ∀ (l : List α) (s : State), (l.foldl f s).ptns = s.ptns
  | [], _ => rfl
  | a :: l, s => (ptns_foldl hf l (f s a)).trans (hf s a)


end

theorem settingsOnly_modPtn (p : Nat) {g : Ptn → Ptn} (s : State) (h : ∀ x, unsettled (g x) = unsettled x) : SettingsOnly p s (modPtn p g s) :=
  ⟨otherPtns_modPtn p g s, by rw [getPtn_modPtn_self, h]⟩

theorem settingsOnly_modQtrs (p : Nat) (g : Nat → Qtr → Qtr) (l : List Nat) (s : State) :
    SettingsOnly p s (l.foldl (fun s q => modQtr q (g q) s) s) := .of_ptns (ptns_foldl (fun _ _ => by rfl) l s)

theorem settingsOnly_aimVolts (p mv : Nat) (s : State) : SettingsOnly p s (aimVolts p mv s) := settingsOnly_modQtrs p _ _ s

theorem settingsOnly_takeBudgets (p : Nat) (s : State) : SettingsOnly p s (takeBudgets p s) := settingsOnly_modQtrs p _ _ s

theorem settingsOnly_setTickets (p : Nat) (s : State) : SettingsOnly p s (setTickets p s) := .of_ptns (ptns_foldl (fun _ _ => by rfl) _ s)

theorem settingsOnly_modPPwr (p : Nat) (g : PPwr → PPwr) (s : State) : SettingsOnly p s (modPPwr p g s) := settingsOnly_modPtn p s fun _ => rfl

theorem settingsOnly_setDivider (p d : Nat) (s : State) : SettingsOnly p s (setDivider p d s) :=
  (settingsOnly_modPPwr p _ s).trans ((settingsOnly_setTickets p _).trans ((settingsOnly_takeBudgets p _).trans (settingsOnly_aimVolts p _ _)))

theorem settingsOnly_afterReturnStep (p t : Nat) (s : State) : SettingsOnly p s (afterReturnStep p t s) := settingsOnly_modPPwr p _ s

theorem settingsOnly_takeDivider (p : Nat) (s : State) : SettingsOnly p s (takeDivider p s) := by
  simp only [takeDivider]
  split
  · exact .refl p s
  · split
    · split
      · exact settingsOnly_setDivider p _ s
      · exact settingsOnly_aimVolts p _ s
    · split
      · split
        · exact .refl p s
        · split
          · exact (settingsOnly_setDivider p _ s).trans (settingsOnly_afterReturnStep p _ _)
          · exact settingsOnly_aimVolts p _ s
      · exact (settingsOnly_afterReturnStep p _ s).trans ((settingsOnly_takeBudgets p _).trans (settingsOnly_aimVolts p _ _))

theorem settingsOnly_retargetOne (p : Nat) (s : State) : SettingsOnly p s (retargetOne s p) := by
  simp only [retargetOne]
  split
  · exact settingsOnly_takeDivider p s
  · split
    · exact .refl p s
    · split
      · split
        · exact settingsOnly_aimVolts p _ s
        · exact .refl p s
      · exact .refl p s

theorem settingsOnly_pulse (p n : Nat) (s : State) : SettingsOnly p s (pulse n s) := .of_ptns (pulse_keeps n s).1

theorem settingsOnly_attTakeStaged (p : Nat) (s : State) : SettingsOnly p s (attTakeStaged p s) := by
  simp only [attTakeStaged]
  split
  · refine SettingsOnly.trans ?_ (settingsOnly_pulse p _ _)
    refine SettingsOnly.trans ?_ (settingsOnly_modPtn p (g := fun x => { x with att := { x.att with pending := false } }) _ fun _ => rfl)
    exact .of_ptns (ptns_foldl (fun _ _ => by rfl) _ s)
  · exact .refl p s

theorem ptns_ringTake (r : Nat) (n : RingSh) (s : State) : (ringTake r n s).ptns = s.ptns := by
  simp only [ringTake]
  split <;> rfl

theorem settingsOnly_ringsTakeStaged (p : Nat) (s : State) : SettingsOnly p s (ringsTakeStaged p s) := by
  refine .foldl (fun s e => ?_) _ s
  split
  · exact .of_ptns (ptns_ringTake ..)
  · exact .refl p s

theorem settingsOnly_takeStaged (p : Nat) (s : State) : SettingsOnly p s (takeStaged p s) := by
  have hctxs : SettingsOnly p s (ctxsTake (boundCtxs s p) s) := .of_ptns (ptns_ctxsTake ..)
  exact hctxs.trans ((settingsOnly_attTakeStaged p _).trans ((settingsOnly_ringsTakeStaged p _).trans (settingsOnly_modPtn p _ fun _ => rfl)))

/-- Without a staged FIG_ set the staged sets that take effect move settings only. -/
theorem settingsOnly_roundChanges {p : Nat} {s : State} (h : (getPtn s p).fig.staged = none) : SettingsOnly p s (roundChanges p s) := by
  rw [roundChanges, figTakeStaged_none h]
  exact (settingsOnly_takeStaged p s).trans (settingsOnly_takeDivider p _)

theorem settingsOnly_countStalls (p : Nat) (s : State) : SettingsOnly p s (countStalls p s) := .of_ptns (ptns_foldl (fun _ _ => by rfl) _ s)

/-! #### Credits sent to receive channels' sources (10 R301, R311) -/

theorem sendsOnly_returnCredits (c k : Nat) (s : State) : SendsOnly s (returnCredits c k s) := by
  simp only [returnCredits]
  split
  · exact .refl s
  · exact sendsOnly_sendTo _ _ s

/-! ### The cores are written (02 R67) -/

/-- The partition with a figure in its cores. -/
def withFigure (slot : Nat) (f : Figure) (x : Ptn) : Ptn :=
  { x with figure := some f, cores := loadedCores f, partner := [], barrier := 0, flow := {}, fig := { x.fig with slot := slot } }

theorem settingsOnly_putFigure (p slot : Nat) (f : Figure) (s : State) : SettingsOnly p (modPtn p (withFigure slot f) s) (putFigure p slot f s) := by
  show SettingsOnly p _ (List.foldl (fun s e => returnCredits e.1 e.2 s) (retargetOne (setTickets p _) p) (rxConsumers f))
  refine SettingsOnly.trans ?_ (.of_ptns (SendsOnly.foldl (fun s e => sendsOnly_returnCredits _ _ s) _ _).ptns)
  refine SettingsOnly.trans ?_ ((settingsOnly_setTickets p _).trans (settingsOnly_retargetOne p _))
  exact .of_ptns (ptns_foldl (fun _ _ => by rfl) _ _)

/-- The partition whose load is complete: the figure in the cores, READY. -/
def loadedPtn (p slot : Nat) (f : Figure) (s : State) : State := modFig p (fun y => { y with st := .ready }) (putFigure p slot f s)

theorem unsettled_loadedPtn (p slot : Nat) (f : Figure) (s : State) :
    unsettled (getPtn (loadedPtn p slot f s) p) =
      unsettled { withFigure slot f (getPtn s p) with fig := { (getPtn s p).fig with slot := slot, st := .ready } } := by
  have hput := (settingsOnly_putFigure p slot f s).own
  rw [getPtn_modPtn_self] at hput
  rw [loadedPtn, getPtn_modFig_self]
  exact unsettled_withFig (fun y => { y with st := .ready }) hput

theorem otherPtns_loadedPtn (p slot : Nat) (f : Figure) (s : State) : OtherPtns p s (loadedPtn p slot f s) := fun q hq => by
  rw [loadedPtn, (onlyPtn_modFig _ _ _).others q hq, (settingsOnly_putFigure p slot f s).others q hq, getPtn_modPtn_ne s _ hq]

theorem exec_loadDone {p : PtnId} {s : State} (h : isReady s = true) : exec (.loadDone p) s = .next (loadEnd p.val s) := by
  show Host.Outcome.next _ = _
  rw [if_pos h]

/-- A load that completes ends its command, after a SWITCH with the first round begun. -/
theorem loadEnd_loaded {s : State} {p : Nat} {c : FigCmd} {f : Figure} (hcmd : (getPtn s p).fig.cmd = some c) (hst : (getPtn s p).fig.st = .loading)
    (hslot : (getSlot s p c.slot).fig = some f) :
    loadEnd p s = endFig p c 0 0 (getPtn s p).fig.epoch (if c.op = .switch then startFigure p (loadedPtn p c.slot f s) else loadedPtn p c.slot f s) := by
  simp only [loadEnd, hcmd, hst, hslot, ne_eq, not_true_eq_false, if_false, loadedPtn]

/-! ### A drain is complete (02 R67, R69) -/

theorem exec_drainComplete {p : PtnId} {s : State} (h : isReady s = true) : exec (.drainComplete p) s = .next (drainEnd p.val s) := by
  show Host.Outcome.next _ = _
  rw [if_pos h]

/-- A drained partition: empty buffers, an idle engine, READY. -/
def drainedPtn (x : Ptn) : Ptn :=
  { x with
    cores := tmap {} (fun e : Core => { restCore e with bufs := [] }) x.cores, barrier := 0, flow := {}
    fe := { x.fe with mode := .idle }
    fig := { x.fig with st := .ready } }

/-- The state of a drained partition before its staged sets take effect. -/
def drainedState (p : Nat) (s : State) : State :=
  modFig p (fun y => { y with st := .ready }) (modFe p (fun f => { f with mode := .idle }) (clearStreams p (countStalls p s)))

theorem drainEnd_drained {s : State} {p : Nat} {c : FigCmd} (hcmd : (getPtn s p).fig.cmd = some c) (hst : (getPtn s p).fig.st = .draining)
    (h : drained s p = true) :
    drainEnd p s = if c.op = .switch then tryLoad p { c with back := .ready } (roundChanges p (drainedState p s))
      else endFig p c 0 0 0 (roundChanges p (drainedState p s)) := by
  simp only [drainEnd, hcmd, hst, h, ne_eq, not_true_eq_false, Bool.true_eq_false, or_self, if_false, drainedState]

theorem unsettled_drainedState (p : Nat) (s : State) : unsettled (getPtn (drainedState p s) p) = unsettled (drainedPtn (getPtn s p)) := by
  rw [drainedState, getPtn_modFig_self, modFe_eq, getPtn_modPtn_self, clearStreams, getPtn_modPtn_self]
  exact congrArg drainedPtn (settingsOnly_countStalls p s).own

/-- Draining and the staged sets' effect leave a drained partition, but for its settings. -/
theorem unsettled_afterDrain {s : State} {p : Nat} (h : (getPtn s p).fig.staged = none) :
    unsettled (getPtn (roundChanges p (drainedState p s)) p) = unsettled (drainedPtn (getPtn s p)) := by
  have hstaged : (getPtn (drainedState p s) p).fig.staged = none :=
    (congrArg Fig.staged (fig_of_unsettled (unsettled_drainedState p s))).trans h
  exact (settingsOnly_roundChanges hstaged).own.trans (unsettled_drainedState p s)

/-- A drained core's buffers are empty. -/
theorem bufs_nil_of_mem_drained {x : Ptn} {e : Nat × Core} (he : e ∈ (drainedPtn x).cores) : e.2.bufs = [] := by
  obtain ⟨d, -, rfl⟩ := List.mem_map.1 (List.mem_filter.1 he).1
  rfl

/-- A failed load check has a code. -/
theorem loadCheck_code_ne_zero {s : State} {p slot : Nat} {e : Nat × Nat} (h : loadCheck s p slot = .error e) : e.1 ≠ 0 := by
  have hdiv {f : Figure} {d : Nat} {e : Nat × Nat} (h : dividerBad s p f d = some e) : e.1 ≠ 0 := by
    simp only [dividerBad] at h
    split at h
    · cases h; simp
    · obtain ⟨x, -, rfl⟩ := Option.map_eq_some_iff.1 h
      simp
  simp only [loadCheck] at h
  split at h
  · cases h; simp
  · split at h
    · cases h; simp
    · split at h
      · cases h; simp
      · split at h
        · cases h; simp
        · split at h
          · cases h; simp
          · split at h
            · cases h; simp
            · split at h
              · next hbad => cases h; exact hdiv hbad
              · cases h

/-- A load is begun, or its failed check ends the command with a code; neither touches the cores. -/
theorem tryLoad_outcome (p : Nat) (c : FigCmd) (s : State) :
    (getPtn (tryLoad p c s) p).cores = (getPtn s p).cores ∧
      (((getPtn (tryLoad p c s) p).fig.st = .loading ∧ (getPtn (tryLoad p c s) p).fig.cmd = (getPtn s p).fig.cmd) ∨
       ((getPtn (tryLoad p c s) p).fig.st = c.back ∧ (getPtn (tryLoad p c s) p).fig.cmd = none ∧ (getPtn (tryLoad p c s) p).fig.errCode ≠ 0)) := by
  cases hcheck : loadCheck s p c.slot with
  | ok f =>
    rw [tryLoad_ok hcheck, getPtn_beginLoad, getPtn_modFig_self]
    exact ⟨rfl, .inl ⟨rfl, rfl⟩⟩
  | error e =>
    rw [tryLoad_error hcheck, getPtn_endFig_self, getPtn_modFig_self]
    exact ⟨rfl, .inr ⟨rfl, rfl, loadCheck_code_ne_zero hcheck⟩⟩

/-! ### O25 but for the drain's limit -/

/-- INSTALL's end (02 R64, R65). -/
theorem installDone_ends (p : PtnId) (c : FigCmd) (s : State) (hready : isReady s = true) (hcmd : (getPtn s p.val).fig.cmd = some c)
    (hop : c.op = .install) :
    ∃ t, exec (.installDone p) s = .next t ∧ (getPtn t p.val).fig.cmd = none ∧ isPending t (srcPtn p.val 0) = true ∧ OtherPtns p.val s t ∧
      (∀ k, k ≠ c.slot → getSlot t p.val k = getSlot s p.val k) ∧
      match installVerdict s p.val (getSlot s p.val c.slot) with
      | .ok f => getSlot t p.val c.slot = { getSlot s p.val c.slot with st := .valid, fig := some f } ∧ (getPtn t p.val).fig.errCode = 0
      | .error (code, info) =>
        getSlot t p.val c.slot = { getSlot s p.val c.slot with st := .invalid, err := code } ∧ (getPtn t p.val).fig.errCode = code ∧
          (getPtn t p.val).fig.errInfo = info := by
  refine ⟨_, exec_installDone hready, ?_⟩
  cases hverdict : installVerdict s p.val (getSlot s p.val c.slot) with
  | ok f =>
    rw [installEnd_ok hcmd hop hverdict]
    obtain ⟨hbusy, hpend, hothers, hslots, hslot, hcode, -⟩ := endFig_modSlot p c 0 0 c.slot (fun y => { y with st := .valid, fig := some f }) s
    exact ⟨hbusy, hpend, hothers, hslots, hslot, hcode⟩
  | error e =>
    rw [installEnd_error hcmd hop hverdict]
    exact endFig_modSlot p c e.1 e.2 0 (fun y => { y with st := .invalid, err := e.1 }) s

/-- LOAD's end: READY with the figure in the cores (02 R67). -/
theorem loadDone_load {p : PtnId} {c : FigCmd} {f : Figure} {s : State} (hready : isReady s = true) (hcmd : (getPtn s p.val).fig.cmd = some c)
    (hst : (getPtn s p.val).fig.st = .loading) (hop : c.op = .load) (hslot : (getSlot s p.val c.slot).fig = some f) :
    ∃ t, exec (.loadDone p) s = .next t ∧ isPending t (srcPtn p.val 0) = true ∧ OtherPtns p.val s t ∧
      unsettled (getPtn t p.val) = unsettled { withFigure c.slot f (getPtn s p.val) with
        fig := endedFig c 0 0 { (getPtn s p.val).fig with slot := c.slot, st := .ready } } := by
  refine ⟨_, exec_loadDone hready, ?_⟩
  rw [loadEnd_loaded hcmd hst hslot, if_neg (by simp [hop])]
  refine ⟨isPending_endFig .., fun q hq => ?_, ?_⟩
  · rw [otherPtns_endFig _ _ _ _ _ _ q hq, otherPtns_loadedPtn _ _ _ _ q hq]
  · rw [getPtn_endFig_self]
    exact unsettled_withFig (endedFig c 0 0) (unsettled_loadedPtn p.val c.slot f s)

/-- SWITCH's end: the new figure runs from round 0 (02 R67). -/
theorem loadDone_switch {p : PtnId} {c : FigCmd} {f : Figure} {s : State} (hready : isReady s = true) (hcmd : (getPtn s p.val).fig.cmd = some c)
    (hst : (getPtn s p.val).fig.st = .loading) (hop : c.op = .switch) (hslot : (getSlot s p.val c.slot).fig = some f)
    (hmode : (getPtn s p.val).fe.mode = .idle) (hqueue : (getPtn s p.val).fe.queue = []) (hsaved : (getPtn s p.val).fe.saved = []) :
    ∃ t, exec (.loadDone p) s = .next t ∧ (getPtn t p.val).fig.st = .running ∧ (getPtn t p.val).figure = some f ∧ (getPtn t p.val).fig.rounds = 0 ∧
      (getPtn t p.val).fig.cmd = none ∧ isPending t (srcPtn p.val 0) = true := by
  have hloaded := unsettled_loadedPtn p.val c.slot f s
  have hfe : (getPtn (loadedPtn p.val c.slot f s) p.val).fe = (getPtn s p.val).fe := (fe_of_unsettled hloaded).trans rfl
  have hfigure : (getPtn (loadedPtn p.val c.slot f s) p.val).figure = some f := (figure_of_unsettled hloaded).trans rfl
  obtain ⟨-, hstart⟩ := startFigure_idle (p := p.val) (s := loadedPtn p.val c.slot f s) (by rw [hfe]; exact hmode) (by rw [hfe]; exact hqueue)
    (by rw [hfe]; exact hsaved)
  refine ⟨_, exec_loadDone hready, ?_⟩
  rw [loadEnd_loaded hcmd hst hslot, if_pos hop, getPtn_endFig_self, hstart]
  exact ⟨rfl, hfigure, rfl, rfl, isPending_endFig ..⟩

/-- DRAIN's end: READY with empty buffers (02 R69). -/
theorem drainComplete_drain {p : PtnId} {c : FigCmd} {s : State} (hready : isReady s = true) (hcmd : (getPtn s p.val).fig.cmd = some c)
    (hop : c.op = .drain) (hst : (getPtn s p.val).fig.st = .draining) (hdrained : drained s p.val = true) (hstaged : (getPtn s p.val).fig.staged = none) :
    ∃ t, exec (.drainComplete p) s = .next t ∧ isPending t (srcPtn p.val 0) = true ∧
      unsettled (getPtn t p.val) = unsettled { drainedPtn (getPtn s p.val) with fig := endedFig c 0 0 (drainedPtn (getPtn s p.val)).fig } := by
  refine ⟨_, exec_drainComplete hready, ?_⟩
  rw [drainEnd_drained hcmd hst hdrained, if_neg (by simp [hop])]
  refine ⟨isPending_endFig .., ?_⟩
  rw [getPtn_endFig_self]
  exact unsettled_withFig (endedFig c 0 0) (unsettled_afterDrain hstaged)

/-- After a SWITCH's drain the load begins, or its failed check ends the command (02 R67, R69). -/
theorem drainComplete_switch {p : PtnId} {c : FigCmd} {s : State} (hready : isReady s = true) (hcmd : (getPtn s p.val).fig.cmd = some c)
    (hop : c.op = .switch) (hst : (getPtn s p.val).fig.st = .draining) (hdrained : drained s p.val = true) (hstaged : (getPtn s p.val).fig.staged = none) :
    ∃ t, exec (.drainComplete p) s = .next t ∧ (∀ e ∈ (getPtn t p.val).cores, e.2.bufs = []) ∧
      (((getPtn t p.val).fig.st = .loading ∧ (getPtn t p.val).fig.cmd.isSome = true) ∨
       ((getPtn t p.val).fig.st = .ready ∧ (getPtn t p.val).fig.cmd = none ∧ (getPtn t p.val).fig.errCode ≠ 0)) := by
  refine ⟨_, exec_drainComplete hready, ?_⟩
  rw [drainEnd_drained hcmd hst hdrained, if_pos hop]
  have hafter := unsettled_afterDrain hstaged
  have hcores : (getPtn (roundChanges p.val (drainedState p.val s)) p.val).cores = (drainedPtn (getPtn s p.val)).cores := cores_of_unsettled hafter
  have hbusy : (getPtn (roundChanges p.val (drainedState p.val s)) p.val).fig.cmd = some c := (congrArg Fig.cmd (fig_of_unsettled hafter)).trans hcmd
  obtain ⟨hkept, hend⟩ := tryLoad_outcome p.val { c with back := .ready } (roundChanges p.val (drainedState p.val s))
  refine ⟨fun e he => bufs_nil_of_mem_drained ((hkept.trans hcores) ▸ he), hend.imp (fun ⟨hload, hcmd'⟩ => ⟨hload, ?_⟩) id⟩
  rw [hcmd', hbusy]; rfl

/-! ### A drain that its limit ends (02 R70; 11 R332, R341) -/

theorem exec_drainTimeout {p : PtnId} {buffers : Nat} {s : State} (h : isReady s = true) : exec (.drainTimeout p buffers) s = .next (drainLate p.val buffers s) := by
  show Host.Outcome.next _ = _
  rw [if_pos h]

/-- The record of a FIG_CMD drain's timeout. -/
def drainRec (s : State) (p buffers : Nat) : FaultRec := (faultRec s 0x0203 0 buffers).withPtn p

/-- A FIG_CMD drain without a running command that its limit ends raises the timeout in a FAULTED partition. -/
theorem drainLate_fromHost {s : State} {p buffers : Nat} {c : FigCmd} (hst : (getPtn s p).fig.st = .draining) (hcmd : (getPtn s p).fig.cmd = some c)
    (hby : c.by_ = none) (hrun : (getPtn s p).fe.run = none) :
    drainLate p buffers s = raise (drainRec (pulse (srcPtn p 0) s) p buffers)
      (modFig p (fun f => { f with st := .faulted, cmd := none }) (pulse (srcPtn p 0) s)) := by
  simp only [drainLate, hst, hcmd, hrun, Option.bind_some, hby, Option.isSome_some, true_or, if_true, Option.map_none, Option.getD_none, drainRec]

theorem drainTimeout_resets {p : PtnId} {buffers : Nat} {s : State} {c : FigCmd} (hready : isReady s = true) (hst : (getPtn s p.val).fig.st = .draining)
    (hex : (getPtn s p.val).exists_ = true) (hreset : (getPtn s p.val).reset = none) (hcmd : (getPtn s p.val).fig.cmd = some c) (hby : c.by_ = none)
    (hrun : (getPtn s p.val).fe.run = none) (haction : policyOf s 0x0203 = 3) :
    ∃ t, exec (.drainTimeout p buffers) s = .next t ∧ (getPtn t p.val).fig.st = .faulted ∧ (getPtn t p.val).fig.cmd = none ∧
      (getPtn t p.val).reset = some (0x0203, 0) ∧ t.flt.n3 = satAdd 32 s.flt.n3 1 ∧
      t.flt.log.head? = some { (faultRec s 0x0203 0 buffers).withPtn p.val with seq := w32 s.flt.seq, time := s.time } := by
  obtain ⟨hptns, -, -, -, -, -, -, hflt, hboot, -, -, -, htime⟩ := (pulse_figDone p s).units
  have hrec : drainRec (pulse (srcPtn p.val 0) s) p.val buffers = drainRec s p.val buffers := by simp only [drainRec, faultRec, policyOf, hflt]
  have hown : getPtn (modFig p.val (fun f => { f with st := .faulted, cmd := none }) (pulse (srcPtn p.val 0) s)) p.val =
      { getPtn s p.val with fig := { (getPtn s p.val).fig with st := .faulted, cmd := none } } := by
    rw [getPtn_modFig_self, getPtn_eq_of_ptns hptns]
  refine ⟨_, (exec_drainTimeout hready).trans (by rw [drainLate_fromHost hst hcmd hby hrun, hrec]), ?_⟩
  obtain ⟨hst', hcmd', hcause, hn3, hlog⟩ := raise_resets (p := p) (r := drainRec s p.val buffers)
    (s := modFig p.val (fun f => { f with st := .faulted, cmd := none }) (pulse (srcPtn p.val 0) s))
    (by rw [← hready]; exact congrArg (fun b : Boot => decide (b.stage = .ready)) hboot) (by rw [hown]; exact hex) (by rw [hown]; exact hreset) rfl haction
  refine ⟨hst', hcmd', hcause, hn3.trans (congrArg (fun f : Flt => satAdd 32 f.n3 1) hflt), hlog.trans ?_⟩
  exact congrArg₂ (fun n m => some { drainRec s p.val buffers with seq := w32 n, time := m }) (congrArg Flt.seq hflt) htime

/-- Settles O25: each end's own theorem, its fields read from `unsettled` where settings may move. -/
theorem installsLoadsAndDrainsEnd : Obligations.InstallsLoadsAndDrainsEnd := by
  refine ⟨⟨installDone_ends, ?load, ?loadSwitch⟩, ?drain, ?drainSwitch, ?late⟩
  case load =>
    intro p c f s hready hcmd hst hop hslot
    obtain ⟨t, hexec, hpend, hothers, hown⟩ := loadDone_load hready hcmd hst hop hslot
    have hfig := fig_of_unsettled hown
    exact ⟨t, hexec, by rw [hfig]; rfl, figure_of_unsettled hown, by rw [hfig]; rfl, cores_of_unsettled hown, by rw [hfig]; rfl, by rw [hfig]; rfl, hpend, hothers⟩
  case loadSwitch =>
    intro p c f s hready hcmd hst hop hslot hmode hqueue hsaved
    exact loadDone_switch hready hcmd hst hop hslot hmode hqueue hsaved
  case drain =>
    intro p c s hready hcmd hop hst hdrained hstaged
    obtain ⟨t, hexec, hpend, hown⟩ := drainComplete_drain hready hcmd hop hst hdrained hstaged
    have hfig := fig_of_unsettled hown
    have hcores : (getPtn t p.val).cores = (drainedPtn (getPtn s p.val)).cores := (cores_of_unsettled hown).trans rfl
    exact ⟨t, hexec, by rw [hfig]; rfl, fun e he => bufs_nil_of_mem_drained (hcores ▸ he), flow_of_unsettled hown, by rw [hfig]; rfl, by rw [hfig]; rfl,
      (figure_of_unsettled hown).trans rfl, hpend⟩
  case drainSwitch =>
    intro p c s hready hcmd hop hst hdrained hstaged
    exact drainComplete_switch hready hcmd hop hst hdrained hstaged
  case late =>
    intro p buffers s hready hst hex hreset hcmd hrun haction
    exact drainTimeout_resets hready hst hex hreset hcmd rfl hrun haction

end Sys2Proof.Proofs
end

section
/-! PROOFS. Stream flits, partition barriers, starved joins and queue-depth samples (02 R52, R68; 04 R139; 07 R221; 11 R356, R357). -/
namespace Sys2Proof.Proofs
open Sys2Proof Sys2Proof.Machine Sys2Proof.Safety

/-! ### The events' meanings in a partition that runs -/

section
variable {p : PtnId} {s : State} (hready : isReady s = true) (hruns : ptnRuns (getPtn s p.val) = true) (hclk : c1Runs s p.val = true)
include hready hruns hclk

theorem exec_streamFlit (port : FlitPort) (f : Flit) : exec (.streamFlit p port f) s = .next (flitArrives p.val port f s) := by
  show Host.Outcome.next _ = _
  rw [hready, hruns, hclk]; rfl

theorem exec_joinImbalance (core join : Nat) : exec (.joinImbalance p core join) s = .next (joinImbalance p.val core join s) := by
  show Host.Outcome.next _ = _
  rw [hready, hruns, hclk]; rfl

theorem exec_qsSample : exec (.qsSample p) s = .next (qsSample p.val s) := by
  show Host.Outcome.next _ = _
  rw [hready, hruns, hclk]; rfl

theorem exec_partitionBarrier_epoch {k : Fin 65536} (hk : k.val = (getPtn s p.val).fig.epoch) :
    exec (.partitionBarrier ⟨p, k⟩) s = .next (barrierNext p.val s) := by
  show Host.Outcome.next _ = _
  rw [hready, hruns, hclk]
  simp [hk]

theorem exec_partitionBarrier_wrongEpoch {k : Fin 65536} (hk : k.val ≠ (getPtn s p.val).fig.epoch) :
    exec (.partitionBarrier ⟨p, k⟩) s = .next (wrongEpoch p.val 0 k.val s) := by
  show Host.Outcome.next _ = _
  rw [hready, hruns, hclk]
  simp [hk]

end

/-! ### A fault of a partition with the action LOG (11 R329, R332) -/

/-- Outside mirror mode such a fault is logged and signalled at the partition's fault source, and no action follows. -/
theorem raisePtn_logged {p : PtnId} {code : Nat} (index detail : Nat) {s : State} (hcode : code ≠ 0x0506) (hmirror : mirroring (getPtn s p.val) = false)
    (haction : policyOf s code = 0) :
    Signalled [srcPtn p.val 1] (logged ((faultRec s code index detail).withPtn p.val) s) (raisePtn code p.val index detail s) := by
  have hraise : raisePtn code p.val index detail s = recordFault ((faultRec s code index detail).withPtn p.val) s := by
    simp [raisePtn, raise, raisePlain, takeAction, FaultRec.withPtn, faultRec, haction, hmirror]
  have hsource : faultSource ((faultRec s code index detail).withPtn p.val) = srcPtn p.val 1 := if_neg hcode
  rw [hraise, ← hsource]
  exact recordFault_signalled _ s fun q hq => by cases hq; exact p.isLt

/-! ### Flits and barrier messages of another epoch (02 R68; log 31) -/

/-- The loader's registers when a flit is dropped: the drop is counted. -/
def droppedFlit (x : Fig) : Fig := { x with epochDrops := satAdd 32 x.epochDrops 1 }

theorem wrongEpoch_drops {p : PtnId} {s : State} (core epoch : Nat) (hmirror : mirroring (getPtn s p.val) = false) (haction : policyOf s 0x0202 = 0) :
    ∃ u, OnlyPtn p.val s u ∧ getPtn u p.val = { getPtn s p.val with fig := droppedFlit (getPtn s p.val).fig } ∧
      Signalled [srcPtn p.val 1] (logged ((faultRec s 0x0202 core ((getPtn s p.val).fig.epoch + 65536 * epoch)).withPtn p.val) u)
        (wrongEpoch p.val core epoch s) := by
  refine ⟨modFig p.val droppedFlit s, onlyPtn_modFig _ _ s, getPtn_modFig_self .., ?_⟩
  exact raisePtn_logged core ((getPtn s p.val).fig.epoch + 65536 * epoch) (s := modFig p.val droppedFlit s) (by decide)
    (by rw [getPtn_modFig_self]; exact hmirror) haction

section
variable {s : State} {p c i k : Nat} {f : Flit}

theorem flitArrives_wrongEpoch (h : f.epoch ≠ (getPtn s p).fig.epoch) : flitArrives p (.core c i k) f s = wrongEpoch p c f.epoch s := by
  simp only [flitArrives, flitRefused, h, ne_eq, not_false_eq_true, if_true]

theorem flitArrives_wrongCtx {r : Running} (h : f.epoch = (getPtn s p).fig.epoch) (hrun : (getPtn s p).fe.run = some r) (hctx : f.ctx ≠ r.ctx) :
    flitArrives p (.core c i k) f s = raisePtn 0x0204 p c (pack [(0, 3, i), (4, 12, r.ctx), (16, 12, f.ctx)]) s := by
  simp only [flitArrives, flitRefused, h, hrun, hctx, Option.map_some, ne_eq, not_true_eq_false, not_false_eq_true, if_true, if_false]

/-- A flit of the epoch, and of the running command's context if one runs, joins a buffer with room. -/
theorem flitArrives_joins {g : Figure} (h : f.epoch = (getPtn s p).fig.epoch) (hctx : ∀ r, (getPtn s p).fe.run = some r → f.ctx = r.ctx)
    (hfigure : (getPtn s p).figure = some g) (hi : i < stepCount g c) (hroom : 0 < bufRoom g s p c (inputPat (coreStep g c i) k)) :
    flitArrives p (.core c i k) f s = pushBuf p c (inputPat (coreStep g c i) k) [f] s := by
  have hok : flitRefused p c i ((getPtn s p).fe.run.map fun r => r.ctx) f s = none := by
    cases hrun : (getPtn s p).fe.run with
    | none => simp [flitRefused, h]
    | some r => simp [flitRefused, h, hctx r hrun]
  simp only [flitArrives, hok, hfigure, hi, hroom, and_self, if_true]

end

/-! ### Buffers (04 R139) -/

theorem onlyPtn_pushBuf (p c q : Nat) (fs : List Flit) (s : State) : OnlyPtn p s (pushBuf p c q fs s) := onlyPtn_modPtn p _ s

theorem getCore_pushBuf (p c q d : Nat) (fs : List Flit) (s : State) :
    getCore (pushBuf p c q fs s) p d = if d = c then { getCore s p c with bufs := tmod [] q (· ++ fs) (getCore s p c).bufs } else getCore s p d := by
  simp only [getCore, pushBuf, modCore, getPtn_modPtn_self, tget_tmod]

theorem coreBuf_pushBuf (p c q j : Nat) (fs : List Flit) (s : State) :
    coreBuf (pushBuf p c q fs s) p c j = if j = q then coreBuf s p c q ++ fs else coreBuf s p c j := by
  rw [coreBuf, getCore_pushBuf, if_pos rfl, tget_tmod]; rfl

/-! ### Barriers (07 R221) -/

/-- A partition with rounds runs. -/
theorem ptnRuns_of_rtOf {s : State} {p : Nat} {e : Rt} (h : rtOf s p = some e) : ptnRuns (getPtn s p) = true := by
  by_contra hstop
  have hmirror : mirroring (getPtn s p) = false := by
    by_contra hm
    have hm : mirroring (getPtn s p) = true := by simpa using hm
    have hst : (getPtn s p).fig.st = .mirror := by simp only [mirroring, Bool.and_eq_true, decide_eq_true_eq] at hm; exact hm.1
    exact hstop (by simp only [ptnRuns, hst, hm])
  simp only [rtOf, hmirror, Bool.not_eq_true] at h hstop
  cases hfigure : (getPtn s p).figure <;> cases hrun : (getPtn s p).fe.run <;> simp [hfigure, hrun, hstop] at h

section
variable {s : State} {p : Nat} {e : Rt} (he : rtOf s p = some e)
include he

theorem barrierNext_done (h : (getPtn s p).barrier < barriersDone e.f (runSteps e none (some (getPtn s p).barrier) (roundFuel e.f) s) p) :
    barrierNext p s =
      modPtn p (fun x => { x with barrier := (getPtn s p).barrier + 1 }) (runSteps e none (some (getPtn s p).barrier) (roundFuel e.f) s) := by
  simp only [barrierNext, he, h, if_true]

theorem barrierNext_waits (h : barriersDone e.f (runSteps e none (some (getPtn s p).barrier) (roundFuel e.f) s) p ≤ (getPtn s p).barrier) :
    barrierNext p s = runSteps e none (some (getPtn s p).barrier) (roundFuel e.f) s := by
  simp only [barrierNext, he, Nat.not_lt.mpr h, if_false]

end

/-! ### Starved joins (02 R52; 11 R356) -/

/-- Without a named snapshot object a starved join counts in its quarter and is raised with reason 1. -/
theorem joinImbalance_unnamed {s : State} {p core join q : Nat} {f : Figure} (hfigure : (getPtn s p).figure = some f)
    (hstarved : joinStarved f s p core join = true) (hfull : (getPtn s p).flt.snapFull = false) (hnamed : (getPtn s p).flt.snapNamed = false)
    (hq : (figQtrs s p)[core / 2560]? = some q) :
    joinImbalance p core join s =
      raisePtn 0x0201 p core (pack [(0, 16, join), (16, 2, 1)]) (modQtr q (fun y => { y with joinEvents := satAdd 16 y.joinEvents 1 }) s) := by
  simp only [joinImbalance, hfigure, hstarved, Bool.not_true, if_false, Bool.false_eq_true, writeJoinSnap, hfull, hnamed, Bool.not_false, if_true, hq]

/-! ### The queue-depth sampler (11 R357) -/

/-- Only memory and partition `p` changed, and not its fault block. -/
structure MemOnly (p : Nat) (s t : State) : Prop where
  frame  : t = { s with ptns := t.ptns, mem := t.mem }
  others : OtherPtns p s t
  flt    : (getPtn t p).flt = (getPtn s p).flt

theorem MemOnly.trans {p : Nat} {s t u : State} (h : MemOnly p s t) (k : MemOnly p t u) : MemOnly p s u :=
  ⟨by rw [k.frame, h.frame], fun q hq => (k.others q hq).trans (h.others q hq), k.flt.trans h.flt⟩

theorem MemOnly.foldl {α : Type} {p : Nat} {f : State → α → State} (hf : ∀ s a, MemOnly p s (f s a)) : ∀ (l : List α) (s : State), MemOnly p s (l.foldl f s)
  | [], _ => ⟨rfl, fun _ _ => rfl, rfl⟩
  | a :: l, s => (hf s a).trans (MemOnly.foldl hf l (f s a))

theorem memOnly_modPage (p key : Nat) (g : PageEnt → PageEnt) (s : State) : MemOnly p s (modPage p key g s) :=
  ⟨rfl, otherPtns_modPtn p _ s, by rw [modPage, modPMem, getPtn_modPtn_self]⟩

theorem memOnly_writePart (p a : Nat) (bs : List Byte) (poison : Bool) (s : State) : MemOnly p s (writePart p a bs poison s) := by
  simp only [writePart]
  split
  · exact ⟨rfl, fun _ _ => rfl, rfl⟩
  · refine MemOnly.trans ?_ (memOnly_modPage p _ _ _)
    exact ⟨rfl, fun _ _ => rfl, rfl⟩

theorem memOnly_writeRange (p a : Nat) (bs : List Byte) (poison : Bool) (s : State) : MemOnly p s (writeRange p a bs poison s) :=
  .foldl (fun s _ => memOnly_writePart p _ _ poison s) _ s

/-- The sampler's record is in memory: its block's index moves to the entry written. -/
def sampled (x : PFlt) : PFlt := { x with qsIndex := x.qsNext, qsNext := w32 (x.qsNext + 1) }

/-- The state after a queue-depth record is written and the index moved, before a full ring is signalled. -/
def sampleWritten (p : Nat) (s : State) : State :=
  let o := getObj s p (getPtn s p).flt.cur.qsObj
  modPFlt p (fun y => { y with qsIndex := (getPtn s p).flt.qsNext, qsNext := w32 ((getPtn s p).flt.qsNext + 1) })
    (writeRange p (o.base + 64 * ((getPtn s p).flt.qsNext % (o.pages * pageBytes / 64))) (qsRecord s p) false s)

theorem mem_sampleWritten (p : Nat) (s : State) :
    (sampleWritten p s).mem = (writeRange p ((getObj s p (getPtn s p).flt.cur.qsObj).base +
      64 * ((getPtn s p).flt.qsNext % ((getObj s p (getPtn s p).flt.cur.qsObj).pages * pageBytes / 64))) (qsRecord s p) false s).mem := by
  unfold sampleWritten
  simp only [modPFlt_eq, modPtn_mem]

theorem qsSample_written {s : State} {p : Nat} (henable : (getPtn s p).flt.qsEnable = true)
    (hfirst : ownWritable s p (getPtn s p).flt.cur.qsObj 64 = true)
    (hentry : ownWritable s p (getPtn s p).flt.cur.qsObj
      (64 * ((getPtn s p).flt.qsNext % ((getObj s p (getPtn s p).flt.cur.qsObj).pages * pageBytes / 64)) + 64) = true) :
    qsSample p s = if ((getPtn s p).flt.qsNext + 1) % ((getObj s p (getPtn s p).flt.cur.qsObj).pages * pageBytes / 64) = 0
      then pulse (srcPtn p 6) (sampleWritten p s) else sampleWritten p s := by
  simp only [qsSample, henable, hfirst, hentry, Bool.not_true, Bool.or_self, if_false, Bool.false_eq_true, sampleWritten]

theorem sampleWritten_frame (p : Nat) (s : State) :
    sampleWritten p s = { s with ptns := (sampleWritten p s).ptns, mem := (sampleWritten p s).mem } ∧ OtherPtns p s (sampleWritten p s) ∧
      (getPtn (sampleWritten p s) p).flt = sampled (getPtn s p).flt := by
  have hwrite := memOnly_writeRange p ((getObj s p (getPtn s p).flt.cur.qsObj).base +
    64 * ((getPtn s p).flt.qsNext % ((getObj s p (getPtn s p).flt.cur.qsObj).pages * pageBytes / 64))) (qsRecord s p) false s
  refine ⟨?_, fun q hq => (otherPtns_modPtn p _ _ q hq).trans (hwrite.others q hq), ?_⟩
  · rw [sampleWritten, modPFlt, modPtn, hwrite.frame]
  · rw [sampleWritten, modPFlt, getPtn_modPtn_self, hwrite.flt]; rfl

/-- A queue-depth sample that its object can take (11 R357). -/
theorem qsSample_samples {p : PtnId} {s : State} (henable : (getPtn s p.val).flt.qsEnable = true)
    (hfirst : ownWritable s p.val (getPtn s p.val).flt.cur.qsObj 64 = true)
    (hentry : ownWritable s p.val (getPtn s p.val).flt.cur.qsObj
      (64 * ((getPtn s p.val).flt.qsNext % ((getObj s p.val (getPtn s p.val).flt.cur.qsObj).pages * pageBytes / 64)) + 64) = true) :
    let n := (getObj s p.val (getPtn s p.val).flt.cur.qsObj).pages * pageBytes / 64
    let t := qsSample p.val s
    t = { s with ptns := t.ptns, mem := t.mem, evc := t.evc, fns := t.fns, out := t.out } ∧ t.mem = (sampleWritten p.val s).mem ∧
      (getPtn t p.val).flt = sampled (getPtn s p.val).flt ∧
      (((getPtn s p.val).flt.qsNext + 1) % n = 0 → isPending t (srcPtn p.val 6) = true) ∧ OtherPtns p.val s t := by
  obtain ⟨hframe, hothers, hflt⟩ := sampleWritten_frame p.val s
  dsimp only
  rw [qsSample_written henable hfirst hentry]
  split
  · have hlisted : isListed (srcPtn p.val 6) = true := isListed_srcPtn p.isLt (by decide)
    have hsig := pulse_signalled _ (sampleWritten p.val s) hlisted
    obtain ⟨hptns, -, -, -, -, hmem, -⟩ := hsig.units
    refine ⟨?_, hmem, ?_, fun _ => isPending_pulse_self _ hlisted, fun q hq => ?_⟩
    · rw [hsig.1, hframe]
    · rw [getPtn_eq_of_ptns hptns, hflt]
    · rw [getPtn_eq_of_ptns hptns, hothers q hq]
  · next hfull =>
    refine ⟨?_, rfl, hflt, fun h => absurd h hfull, hothers⟩
    rw [hframe]

/-- Settles O27: an arriving flit, a barrier message, a starved join and a sample each take the branch that their premises choose. -/
theorem streamsBarriersAndJoins : Obligations.StreamsBarriersAndJoins := by
  refine ⟨⟨?joins, ?epoch, ?cross⟩, ?barrier, ?message, ?imbalance, ?sample⟩
  case joins =>
    intro p c i k f g s hready hruns hfigure hclk hepoch hctx hi hroom
    refine ⟨_, exec_streamFlit hready hruns hclk _ _, ?_⟩
    rw [flitArrives_joins hepoch hctx hfigure hi hroom]
    obtain ⟨hframe, hothers⟩ := onlyPtn_pushBuf p.val c (inputPat (coreStep g c i) k) [f] s
    refine ⟨hframe, hothers, ?_, fun q hq => ?_, fun d hd => ?_⟩
    · rw [coreBuf_pushBuf, if_pos rfl]
    · rw [coreBuf_pushBuf, if_neg hq]
    · rw [getCore_pushBuf, if_neg hd]
  case epoch =>
    intro p c i k f s hready hruns hepoch hmirror hclk haction
    obtain ⟨u, hu, hptn, hsig⟩ := wrongEpoch_drops c f.epoch hmirror haction
    exact ⟨_, u, exec_streamFlit hready hruns hclk _ _, hu.frame, hu.others, hptn, by rw [flitArrives_wrongEpoch hepoch]; exact hsig⟩
  case cross =>
    intro p c i k f r s hready hruns hex hclk hreset hepoch hrun hctx haction
    refine ⟨_, exec_streamFlit hready hruns hclk _ _, ?_⟩
    rw [flitArrives_wrongCtx hepoch hrun hctx]
    obtain ⟨hst, -, hcause, -, hlog⟩ := raise_resets (p := p)
      (r := (faultRec s 0x0204 c (pack [(0, 3, i), (4, 12, r.ctx), (16, 12, f.ctx)])).withPtn p.val) hready hex hreset rfl haction
    exact ⟨hst, hcause, hlog⟩
  case barrier =>
    intro p k e s hready he hclk hk
    rw [exec_partitionBarrier_epoch hready (ptnRuns_of_rtOf he) hclk hk]
    refine ⟨fun hdone => ⟨_, rfl, ?_⟩, fun hwaits => by rw [barrierNext_waits he hwaits]⟩
    rw [barrierNext_done he hdone]
    exact ⟨rfl, otherPtns_modPtn _ _ _, getPtn_modPtn_self ..⟩
  case message =>
    intro p k s hready hruns hmirror hclk hk haction
    obtain ⟨u, hu, hptn, hsig⟩ := wrongEpoch_drops 0 k.val hmirror haction
    exact ⟨_, u, exec_partitionBarrier_wrongEpoch hready hruns hclk hk, hu.frame, hu.others, hptn, hsig⟩
  case imbalance =>
    intro p core join q f s hready hruns hfigure hmirror hclk hstarved hfull hnamed hq haction
    refine ⟨_, modQtr q (fun y => { y with joinEvents := satAdd 16 y.joinEvents 1 }) s, exec_joinImbalance hready hruns hclk core join, rfl,
      getQtr_modQtr_self .., fun k hk => getQtr_modQtr_ne _ _ hk, ?_⟩
    rw [joinImbalance_unnamed hfigure hstarved hfull hnamed hq]
    exact raisePtn_logged core (pack [(0, 16, join), (16, 2, 1)]) (s := modQtr q (fun y => { y with joinEvents := satAdd 16 y.joinEvents 1 }) s)
      (by decide) hmirror haction
  case sample =>
    intro p s hready hruns hclk henable x o n hfirst hentry
    obtain ⟨hframe, hmem, hflt, hpend, hothers⟩ := qsSample_samples henable hfirst hentry
    exact ⟨_, exec_qsSample hready hruns hclk, hframe, hmem.trans (mem_sampleWritten p.val s), hflt, hpend, hothers⟩

end Sys2Proof.Proofs
end

section
/-! PROOFS. Adapter plans and attention maps are bound and unbound (05 R148, R151; 06 R177, R179; log 29): how a command starts, what its end
writes, and that a BIND binds nothing where STATE applies. -/
namespace Sys2Proof.Proofs
open Sys2Proof Sys2Proof.Machine Sys2Proof.Safety

/-! ### The commands' meanings -/

section
variable {s : State} {fn : FnId} {p : PtnId}

/-- A served BIND or UNBIND of a plan reaches PTN_PLAN_CMD. -/
theorem exec_planCmd (bind : Bool) (slot : SlotId) (h : Served s fn (seesPtn s fn.val p.val) false) :
    exec (if bind then .planBind fn p slot else .planUnbind fn p slot) s = .next (planCmd p.val slot.val bind s) := by
  obtain ⟨hopen, hsees, hup⟩ := h
  cases bind <;> exact congrArg Host.Outcome.next (hostAccess_served (off := planOff p.val) _ hopen hsees hup)

/-- A served BIND or UNBIND of a map reaches ATT_MAP_CMD. -/
theorem exec_mapCmd (bind : Bool) (slot : SlotId) (h : Served s fn (seesPtn s fn.val p.val) false) :
    exec (if bind then .mapBind fn p slot else .mapUnbind fn p slot) s = .next (mapCmd p.val slot.val bind s) := by
  obtain ⟨hopen, hsees, hup⟩ := h
  cases bind <;> exact congrArg Host.Outcome.next (hostAccess_served (off := mapOff p.val) _ hopen hsees hup)

theorem exec_planBindDone (h : isReady s = true) : exec (.planBindDone p) s = .next (planBindEnd p.val s) :=
  congrArg Host.Outcome.next (if_pos h)

theorem exec_mapBindDone (h : isReady s = true) : exec (.mapBindDone p) s = .next (mapBindEnd p.val s) :=
  congrArg Host.Outcome.next (if_pos h)

end

/-! ### The checks' verdict (05 R151; 06 R179) -/

/-- Where the command met STATE, or the slot does now, no table passes. -/
theorem tableVerdict_ne_ok {α : Type} {check : List Byte → Except (Nat × Nat) α} {s : State} {p : Nat} {b : Binding}
    (h : b.refused = true ∨ bindRefused s p b.slot = true) (k : α) : tableVerdict check s p b ≠ .ok k := by
  have hstate : (b.refused || bindRefused s p b.slot) = true := by simpa using h
  intro hok
  simp only [tableVerdict, hstate, if_true] at hok
  split at hok
  · cases hok
  · split at hok
    · cases hok
    · split at hok <;> cases hok

/-! ### Starts and ends -/

/-- PTN_PLAN_CMD at a command's end: CODE and INFO are written and BUSY is clear. -/
def endedUnits (code info : Nat) (x : Ptnu) : Ptnu := { x with code := code, info := info, binding := none }

/-- ATT_MAP_CMD at a command's end: CODE and INFO are written and BUSY is clear. -/
def endedAtt (code info : Nat) (x : Att) : Att := { x with code := code, info := info, binding := none }

theorem OnlyPtn.refl (p : Nat) (s : State) : OnlyPtn p s s := ⟨rfl, fun _ _ => rfl⟩

/-- After a change of one partition, a pulse of one of its sources only signals. -/
theorem pulse_modPtn (p : PtnId) {k : Nat} (hk : k < 8) (g : Ptn → Ptn) {s v : State} (h : OnlyPtn p.val s v) :
    OnlyPtn p.val s (modPtn p.val g v) ∧ Signalled [srcPtn p.val k] (modPtn p.val g v) (pulse (srcPtn p.val k) (modPtn p.val g v)) :=
  ⟨h.trans (onlyPtn_modPtn ..), pulse_signalled _ _ (isListed_srcPtn p.isLt hk)⟩

theorem planEnd_ends (p : PtnId) (code info : Nat) {s v : State} (h : OnlyPtn p.val s v) :
    ∃ u, u = { s with ptns := u.ptns } ∧ OtherPtns p.val s u ∧ Signalled [srcPtn p.val 2] u (planEnd p.val code info v) ∧
      getPtn u p.val = { getPtn v p.val with units := endedUnits code info (getPtn v p.val).units } := by
  obtain ⟨hu, hsig⟩ := pulse_modPtn p (k := 2) (by decide) (fun x => { x with units := endedUnits code info x.units }) h
  exact ⟨_, hu.frame, hu.others, hsig, getPtn_modPtn_self ..⟩

theorem mapEnd_ends (p : PtnId) (code info : Nat) {s v : State} (h : OnlyPtn p.val s v) :
    ∃ u, u = { s with ptns := u.ptns } ∧ OtherPtns p.val s u ∧ Signalled [srcPtn p.val 3] u (mapEnd p.val code info v) ∧
      getPtn u p.val = { getPtn v p.val with att := endedAtt code info (getPtn v p.val).att } := by
  obtain ⟨hu, hsig⟩ := pulse_modPtn p (k := 3) (by decide) (fun x => { x with att := endedAtt code info x.att }) h
  exact ⟨_, hu.frame, hu.others, hsig, getPtn_modPtn_self ..⟩

/-- A plan command that passes ends with the slot's plan, or none, bound. -/
theorem planEnd_binds (p : PtnId) (slot : Nat) (k : Option Plan) (s : State) :
    ∃ u, u = { s with ptns := u.ptns } ∧ OtherPtns p.val s u ∧
      Signalled [srcPtn p.val 2] u (planEnd p.val 0 0 (modUnits p.val (fun x => { x with plans := tset none slot k x.plans }) s)) ∧
      getPtn u p.val = { getPtn s p.val with
        units := endedUnits 0 0 { (getPtn s p.val).units with plans := tset none slot k (getPtn s p.val).units.plans } } := by
  obtain ⟨u, hframe, hothers, hsig, hptn⟩ := planEnd_ends p 0 0 (onlyPtn_modPtn p.val
    (fun x => { x with units := { x.units with plans := tset none slot k x.units.plans } }) s)
  exact ⟨u, hframe, hothers, hsig, by rw [hptn, getPtn_modPtn_self]⟩

/-- A map command that passes ends with the slot's map, or none, bound. -/
theorem mapEnd_binds (p : PtnId) (slot : Nat) (k : Option AttMap) (s : State) :
    ∃ u, u = { s with ptns := u.ptns } ∧ OtherPtns p.val s u ∧
      Signalled [srcPtn p.val 3] u (mapEnd p.val 0 0 (modAtt p.val (fun x => { x with maps := tset none slot k x.maps }) s)) ∧
      getPtn u p.val = { getPtn s p.val with
        att := endedAtt 0 0 { (getPtn s p.val).att with maps := tset none slot k (getPtn s p.val).att.maps } } := by
  obtain ⟨u, hframe, hothers, hsig, hptn⟩ := mapEnd_ends p 0 0 (onlyPtn_modPtn p.val
    (fun x => { x with att := { x.att with maps := tset none slot k x.att.maps } }) s)
  exact ⟨u, hframe, hothers, hsig, by rw [hptn, getPtn_modPtn_self]⟩

section
variable {s : State} {p slot : Nat} {bind : Bool}

/-- Only an UNBIND is refused before it starts. -/
theorem goes_on (h : bind = true ∨ bindRefused s p slot = false) : (!bind && bindRefused s p slot) = false := by
  rcases h with h | h <;> simp [h]

theorem planCmd_starts (hfree : (getPtn s p).units.binding = none) (h : bind = true ∨ bindRefused s p slot = false) :
    planCmd p slot bind s = modUnits p (fun u => { u with binding := some (newBinding s p slot bind u.addr u.size) }) s := by
  simp only [planCmd, hfree, goes_on h, Option.isSome_none, Bool.false_eq_true, if_false]

theorem planCmd_refused (hfree : (getPtn s p).units.binding = none) (h : bindRefused s p slot = true) :
    planCmd p slot false s = planEnd p 8 slot s := by
  simp [planCmd, hfree, h]

theorem mapCmd_starts (hfree : (getPtn s p).att.binding = none) (h : bind = true ∨ bindRefused s p slot = false) :
    mapCmd p slot bind s = modAtt p (fun u => { u with binding := some (newBinding s p slot bind u.mapAddr u.mapSize) }) s := by
  simp only [mapCmd, hfree, goes_on h, Option.isSome_none, Bool.false_eq_true, if_false]

theorem mapCmd_refused (hfree : (getPtn s p).att.binding = none) (h : bindRefused s p slot = true) :
    mapCmd p slot false s = mapEnd p 8 slot s := by
  simp [mapCmd, hfree, h]

end

section
variable {s : State} {p : Nat} {b : Binding}

theorem planBindEnd_error {e : Nat × Nat} (hb : (getPtn s p).units.binding = some b) (hbind : b.bind = true)
    (h : tableVerdict (fun t => planCheck (getSlot s p b.slot).fig b.slot t b.addr b.size) s p b = .error e) :
    planBindEnd p s = planEnd p e.1 e.2 s := by
  simp [planBindEnd, hb, hbind, h]

theorem planBindEnd_ok {k : Plan} (hb : (getPtn s p).units.binding = some b) (hbind : b.bind = true)
    (h : tableVerdict (fun t => planCheck (getSlot s p b.slot).fig b.slot t b.addr b.size) s p b = .ok k) :
    planBindEnd p s = planEnd p 0 0 (modUnits p (fun u => { u with plans := tset none b.slot (some k) u.plans }) s) := by
  simp [planBindEnd, hb, hbind, h]

theorem planBindEnd_unbind (hb : (getPtn s p).units.binding = some b) (hbind : b.bind = false) (h : bindRefused s p b.slot = false) :
    planBindEnd p s = planEnd p 0 0 (modUnits p (fun u => { u with plans := tset none b.slot none u.plans }) s) := by
  simp [planBindEnd, hb, hbind, h]

theorem mapBindEnd_error {e : Nat × Nat} (hb : (getPtn s p).att.binding = some b) (hbind : b.bind = true)
    (h : tableVerdict (fun t => mapCheck (getSlot s p b.slot).fig b.slot t b.addr b.size) s p b = .error e) :
    mapBindEnd p s = mapEnd p e.1 e.2 s := by
  simp [mapBindEnd, hb, hbind, h]

theorem mapBindEnd_ok {k : AttMap} (hb : (getPtn s p).att.binding = some b) (hbind : b.bind = true)
    (h : tableVerdict (fun t => mapCheck (getSlot s p b.slot).fig b.slot t b.addr b.size) s p b = .ok k) :
    mapBindEnd p s = mapEnd p 0 0 (modAtt p (fun u => { u with maps := tset none b.slot (some k) u.maps }) s) := by
  simp [mapBindEnd, hb, hbind, h]

theorem mapBindEnd_unbind (hb : (getPtn s p).att.binding = some b) (hbind : b.bind = false) (h : bindRefused s p b.slot = false) :
    mapBindEnd p s = mapEnd p 0 0 (modAtt p (fun u => { u with maps := tset none b.slot none u.maps }) s) := by
  simp [mapBindEnd, hb, hbind, h]

end

/-- Settles O31: a command starts by writing its binding, and each end writes CODE, INFO and what it binds before its source is pulsed. -/
theorem planAndMapBindingsStartAndEnd : Obligations.PlanAndMapBindingsStartAndEnd := by
  refine ⟨?planStart, ?planRefused, ?planBind, ?planUnbind, ?mapStart, ?mapRefused, ?mapBind, ?mapUnbind⟩
  case planStart =>
    intro fn p slot s bind hserved hfree hgo
    refine ⟨_, exec_planCmd bind slot hserved, ?_⟩
    rw [planCmd_starts hfree hgo]
    exact ⟨rfl, otherPtns_modPtn _ _ s, getPtn_modPtn_self ..⟩
  case planRefused =>
    intro fn p slot s hserved hfree hrefused
    obtain ⟨u, hframe, hothers, hsig, hptn⟩ := planEnd_ends p 8 slot.val (OnlyPtn.refl p.val s)
    refine ⟨_, u, exec_planCmd false slot hserved, hframe, hothers, by rw [planCmd_refused hfree hrefused]; exact hsig, ?_⟩
    rw [hptn, endedUnits, ← hfree]
  case planBind =>
    intro p b s hready hb hbind
    cases hv : tableVerdict (fun t => planCheck (getSlot s p.val b.slot).fig b.slot t b.addr b.size) s p.val b with
    | error e =>
      obtain ⟨u, hframe, hothers, hsig, hptn⟩ := planEnd_ends p e.1 e.2 (OnlyPtn.refl p.val s)
      exact ⟨_, u, exec_planBindDone hready, hframe, hothers, by rw [planBindEnd_error hb hbind hv]; exact hsig, hptn, fun _ => by rw [hptn]; rfl⟩
    | ok k =>
      obtain ⟨u, hframe, hothers, hsig, hptn⟩ := planEnd_binds p b.slot (some k) s
      exact ⟨_, u, exec_planBindDone hready, hframe, hothers, by rw [planBindEnd_ok hb hbind hv]; exact hsig, hptn,
        fun hstate => absurd hv (tableVerdict_ne_ok hstate k)⟩
  case planUnbind =>
    intro p b s hready hb hbind hgo
    obtain ⟨u, hframe, hothers, hsig, hptn⟩ := planEnd_binds p b.slot none s
    exact ⟨_, u, exec_planBindDone hready, hframe, hothers, by rw [planBindEnd_unbind hb hbind hgo]; exact hsig, hptn⟩
  case mapStart =>
    intro fn p slot s bind hserved hfree hgo
    refine ⟨_, exec_mapCmd bind slot hserved, ?_⟩
    rw [mapCmd_starts hfree hgo]
    exact ⟨rfl, otherPtns_modPtn _ _ s, getPtn_modPtn_self ..⟩
  case mapRefused =>
    intro fn p slot s hserved hfree hrefused
    obtain ⟨u, hframe, hothers, hsig, hptn⟩ := mapEnd_ends p 8 slot.val (OnlyPtn.refl p.val s)
    refine ⟨_, u, exec_mapCmd false slot hserved, hframe, hothers, by rw [mapCmd_refused hfree hrefused]; exact hsig, ?_⟩
    rw [hptn, endedAtt, ← hfree]
  case mapBind =>
    intro p b s hready hb hbind
    cases hv : tableVerdict (fun t => mapCheck (getSlot s p.val b.slot).fig b.slot t b.addr b.size) s p.val b with
    | error e =>
      obtain ⟨u, hframe, hothers, hsig, hptn⟩ := mapEnd_ends p e.1 e.2 (OnlyPtn.refl p.val s)
      exact ⟨_, u, exec_mapBindDone hready, hframe, hothers, by rw [mapBindEnd_error hb hbind hv]; exact hsig, hptn, fun _ => by rw [hptn]; rfl⟩
    | ok k =>
      obtain ⟨u, hframe, hothers, hsig, hptn⟩ := mapEnd_binds p b.slot (some k) s
      exact ⟨_, u, exec_mapBindDone hready, hframe, hothers, by rw [mapBindEnd_ok hb hbind hv]; exact hsig, hptn,
        fun hstate => absurd hv (tableVerdict_ne_ok hstate k)⟩
  case mapUnbind =>
    intro p b s hready hb hbind hgo
    obtain ⟨u, hframe, hothers, hsig, hptn⟩ := mapEnd_binds p b.slot none s
    exact ⟨_, u, exec_mapBindDone hready, hframe, hothers, by rw [mapBindEnd_unbind hb hbind hgo]; exact hsig, hptn⟩

end Sys2Proof.Proofs
end

section
/-! PROOFS. A ring entry starts as a command (08 R242, R244): its ring's HEAD and write-back, the command's place among the started commands,
and what changing that command leaves as it was. -/
namespace Sys2Proof.Proofs
open Sys2Proof Sys2Proof.Machine Sys2Proof.Safety

/-! ### Lists and tables -/

section
variable {α : Type} {test : α → Bool} {g : α → α}

theorem lmodFirst_append_last {l : List α} {x : α} (hl : l.find? test = none) (hx : test x = true) : lmodFirst test g (l ++ [x]) = l ++ [g x] := by
  induction l with
  | nil => simp [lmodFirst, hx]
  | cons y l ih =>
    obtain ⟨hy, hrest⟩ : test y = false ∧ l.find? test = none := by
      cases h : test y <;> simp_all
    simp [lmodFirst, hy, ih hrest]

theorem find?_lmodFirst_self (hkeep : ∀ x, test (g x) = test x) (l : List α) : (lmodFirst test g l).find? test = (l.find? test).map g := by
  induction l with
  | nil => rfl
  | cons y l ih => cases h : test y <;> simp [lmodFirst, h, hkeep, ih]

theorem find?_lmodFirst_other {other : α → Bool} (hkeep : ∀ x, other (g x) = other x) (hdisj : ∀ x, test x = true → other x = false) (l : List α) :
    (lmodFirst test g l).find? other = l.find? other := by
  induction l with
  | nil => rfl
  | cons y l ih => cases h : test y <;> simp [lmodFirst, h, hkeep, hdisj, ih, List.find?_cons]

theorem mem_lmodFirst {x : α} : ∀ {l : List α}, x ∈ lmodFirst test g l → ∃ y ∈ l, x = y ∨ x = g y
  | [], h => absurd h List.not_mem_nil
  | y :: l, h => by
    simp only [lmodFirst] at h
    split at h
    · rcases List.mem_cons.1 h with rfl | h
      · exact ⟨y, List.mem_cons_self, .inr rfl⟩
      · exact ⟨x, List.mem_cons_of_mem y h, .inl rfl⟩
    · rcases List.mem_cons.1 h with rfl | h
      · exact ⟨x, List.mem_cons_self, .inl rfl⟩
      · obtain ⟨z, hz, hx⟩ := mem_lmodFirst h
        exact ⟨z, List.mem_cons_of_mem y hz, hx⟩

end

section
variable {α : Type}

/-- What a table reads as something else than its default is listed in it. -/
theorem mem_of_tget_ne {d : α} {n : Nat} : ∀ {t : Tbl α}, tget d t n ≠ d → (n, tget d t n) ∈ t
  | [], h => absurd rfl h
  | (k, v) :: t, h => by
    simp only [tget] at h ⊢
    split
    · next hk => rw [hk]; exact List.mem_cons_self
    · next hk =>
      rw [if_neg hk] at h
      exact List.mem_cons_of_mem _ (mem_of_tget_ne h)

theorem mem_tput {n : Nat} {v : α} {e : Nat × α} : ∀ {t : Tbl α}, e ∈ tput n v t → e = (n, v) ∨ e ∈ t
  | [], h => .inl (List.mem_singleton.1 h)
  | (k, w) :: t, h => by
    simp only [tput] at h
    split at h
    · exact (List.mem_cons.1 h).imp_right id
    · split at h
      · exact (List.mem_cons.1 h).imp_right (List.mem_cons_of_mem _)
      · rcases List.mem_cons.1 h with rfl | h
        · exact .inr List.mem_cons_self
        · exact (mem_tput h).imp_right (List.mem_cons_of_mem _)

theorem mem_tdel {n : Nat} {e : Nat × α} : ∀ {t : Tbl α}, e ∈ tdel n t → e ∈ t
  | [], h => h
  | (k, w) :: t, h => by
    simp only [tdel] at h
    split at h
    · exact List.mem_cons_of_mem _ (mem_tdel h)
    · rcases List.mem_cons.1 h with rfl | h
      · exact List.mem_cons_self
      · exact List.mem_cons_of_mem _ (mem_tdel h)

theorem mem_tmod [DecidableEq α] {d : α} {n : Nat} {f : α → α} {e : Nat × α} {t : Tbl α} (h : e ∈ tmod d n f t) : e = (n, f (tget d t n)) ∨ e ∈ t := by
  unfold tmod tset at h
  split at h
  · exact .inr (mem_tdel h)
  · exact mem_tput h

end

/-! ### The started commands of a ring -/

section
variable {s t : State}

theorem mem_allCmds_of_started {r : Nat} {k : Cmd} (hk : k ∈ (getRing s r).started) (hgone : k.gone = false) : k ∈ allCmds s := by
  have hne : tget {} s.rings r ≠ {} := fun h => by
    rw [getRing, h] at hk; exact absurd hk List.not_mem_nil
  exact List.mem_flatMap.2 ⟨_, mem_of_tget_ne hne, List.mem_filter.2 ⟨hk, by simp [hgone]⟩⟩

theorem mem_allCmds_modRing {r : Nat} {g : Ring → Ring} {k : Cmd} (h : k ∈ allCmds (modRing r g s)) :
    k ∈ allCmds s ∨ (k ∈ (g (getRing s r)).started ∧ k.gone = false) := by
  obtain ⟨e, he, hk⟩ := List.mem_flatMap.1 h
  obtain ⟨hmem, hgone⟩ := List.mem_filter.1 hk
  rcases mem_tmod he with rfl | he
  · exact .inr ⟨hmem, by simpa using hgone⟩
  · exact .inl (List.mem_flatMap.2 ⟨e, he, hk⟩)

/-- A change of a command that leaves it the same entry of the same ring. -/
structure SameEntry (g : Cmd → Cmd) : Prop where
  ring   : ∀ k, (g k).ring = k.ring
  idx    : ∀ k, (g k).idx = k.idx
  opcode : ∀ k, (g k).opcode = k.opcode
  ops    : ∀ k, (g k).ops = k.ops
  gone   : ∀ k, (g k).gone = k.gone

theorem mem_allCmds_modCmd {r i : Nat} {g : Cmd → Cmd} (hg : SameEntry g) {k : Cmd} (h : k ∈ allCmds (modCmd r i g s)) :
    ∃ j ∈ allCmds s, k.ring = j.ring ∧ k.idx = j.idx ∧ k.opcode = j.opcode ∧ k.ops = j.ops := by
  rcases mem_allCmds_modRing h with h | ⟨h, hgone⟩
  · exact ⟨k, h, rfl, rfl, rfl, rfl⟩
  · obtain ⟨j, hj, rfl | rfl⟩ := mem_lmodFirst h
    · exact ⟨k, mem_allCmds_of_started hj hgone, rfl, rfl, rfl, rfl⟩
    · exact ⟨j, mem_allCmds_of_started hj (by rw [← hg.gone, hgone]), hg.ring j, hg.idx j, hg.opcode j, hg.ops j⟩

theorem getCmd_modCmd {g : Cmd → Cmd} (hg : SameEntry g) (r i q j : Nat) :
    getCmd (modCmd r i g s) q j = if q = r ∧ j = i then (getCmd s r i).map g else getCmd s q j := by
  simp only [getCmd, modCmd, getRing_modRing]
  by_cases hq : q = r
  · subst hq
    by_cases hj : j = i
    · subst hj
      simp only [if_true, and_self]
      exact find?_lmodFirst_self (fun x => by rw [hg.idx, hg.gone]) _
    · simp only [if_true, hj, and_false, if_false]
      refine find?_lmodFirst_other (fun x => by rw [hg.idx, hg.gone]) (fun x hx => ?_) _
      have hidx : x.idx = i := by simpa using (Bool.and_eq_true_iff.1 hx).1
      simp [hidx, Ne.symm hj]
  · simp [hq]

/-- The state has the started command `k` in its place. -/
theorem mem_of_getCmd {r i : Nat} {k : Cmd} (h : getCmd s r i = some k) : k ∈ allCmds s := by
  have htest := List.find?_some h
  exact mem_allCmds_of_started (List.mem_of_find?_eq_some h) (by simpa using (Bool.and_eq_true_iff.1 htest).2)

end

/-! ### An entry starts (08 R242, R244) -/

section
variable {s t : State} {e : Entry} {op : Nat}

theorem writeBack_frame (r idx : Nat) (s : State) :
    writeBack r idx s = { s with out := { s.out with hostMem := (writeBack r idx s).out.hostMem } } := by
  simp only [writeBack]
  split <;> rfl

theorem hostMem_writeBack (r idx : Nat) (s : State) : (writeBack r idx s).out.hostMem =
    if (getRing s r).cur.wb = 0 then s.out.hostMem else mwrite s.out.hostMem (getRing s r).cur.wb (leBytes 4 idx) := by
  simp only [writeBack]
  split <;> rfl

/-- The entry's ring has started it as a command, and its HEAD is not yet written back. -/
def entered (s : State) (e : Entry) (op : Nat) : State :=
  modRing e.ring.val (fun x => { x with started := x.started ++ [newCmd s e op], head := w32 (x.head + 1) }) s

theorem begun_eq (s : State) (e : Entry) (op : Nat) :
    begun s e op = writeBack e.ring.val (getRing (entered s e op) e.ring.val).head (entered s e op) := rfl

theorem begun_frame (s : State) (e : Entry) (op : Nat) :
    begun s e op = { s with rings := (begun s e op).rings, out := { s.out with hostMem := (begun s e op).out.hostMem } } := by
  rw [begun_eq, writeBack_frame]; rfl

theorem rings_begun (s : State) (e : Entry) (op : Nat) : (begun s e op).rings = (entered s e op).rings := by
  rw [begun_eq, writeBack_frame]

theorem getRing_begun (s : State) (e : Entry) (op r : Nat) : getRing (begun s e op) r = getRing (entered s e op) r := by
  simp only [getRing, rings_begun]

theorem started_begun (s : State) (e : Entry) (op : Nat) : Started s (begun s e op) e (newCmd s e op) := by
  refine ⟨?_, fun r hr => ?_, ?_⟩
  · rw [getRing_begun, entered, getRing_modRing_self]
  · rw [getRing_begun, entered, getRing_modRing_ne _ _ hr]
  · rw [begun_eq, hostMem_writeBack, entered, getRing_modRing_self]; rfl

theorem runEntry_begun (h : Runs s e op) (go : Cmd → State → State) : runEntry e op s go = go (newCmd s e op) (begun s e op) := by
  obtain ⟨hstart, hhdr, hops, -⟩ := h
  simp [runEntry, hstart, hhdr, hops, begun]

section
variable (h : Runs s e op) {k : Cmd} (hk : Started s t e k) (hidx : k.idx = (getRing s e.ring.val).head) (hgone : k.gone = false)
include h hk hidx hgone

/-- A change of the command that the entry started as. -/
theorem started_modCmd (g : Cmd → Cmd) : Started s (modCmd e.ring.val (getRing s e.ring.val).head g t) e (g k) := by
  obtain ⟨-, -, -, hnone, -⟩ := h
  obtain ⟨hring, hothers, hmem⟩ := hk
  refine ⟨?_, fun r hr => (getRing_modRing_ne _ _ hr).trans (hothers r hr), hmem⟩
  rw [modCmd, getRing_modRing_self, hring]
  simp only [lmodFirst_append_last hnone (show (k.idx == (getRing s e.ring.val).head && !k.gone) = true by simp [hidx, hgone])]

theorem getCmd_of_started : getCmd t e.ring.val (getRing s e.ring.val).head = some k := by
  obtain ⟨-, -, -, hnone, -⟩ := h
  rw [getCmd] at hnone
  rw [getCmd, hk.1, List.find?_append, hnone]
  simp [hidx, hgone]

end

/-- A command that ends as it has started. -/
theorem ended_of_started (h : Runs s e op) (hk : Started s t e (newCmd s e op)) (st res : Nat) :
    Ended s (endCmd (newCmd s e op).ring (newCmd s e op).idx st res t) e op st res :=
  started_modCmd h hk rfl rfl _

/-- No other started command is taken for the one that the entry started as. -/
theorem started_unique (h : Runs s e op) {k : Cmd} (hmem : k ∈ allCmds (begun s e op)) (hring : k.ring = e.ring.val)
    (hidx : k.idx = (getRing s e.ring.val).head) : k = newCmd s e op := by
  obtain ⟨-, -, -, -, hfresh⟩ := h
  have hmem : k ∈ allCmds (entered s e op) := by rwa [allCmds, rings_begun] at hmem
  rcases mem_allCmds_modRing hmem with hold | ⟨hnew, hgone⟩
  · exact absurd hidx (hfresh k hold hring)
  · rcases List.mem_append.1 hnew with hold | hnew
    · exact absurd hidx (hfresh k (mem_allCmds_of_started hold hgone) hring)
    · exact List.mem_singleton.1 hnew

end

end Sys2Proof.Proofs
end

section
/-! PROOFS. The adapter and steering directories (05 R144-R147, R165, R166): what ADAPTER_SET and STEER_SET write, and what recounting the
standing rows that name an entry makes of a RETIRING entry and of its CLEAR. -/
namespace Sys2Proof.Proofs
open Sys2Proof Sys2Proof.Machine Sys2Proof.Safety

/-! ### Folds and rings -/

/-- A fold reaches `Q` when one element of the list leads there from `P`, which every element keeps, and no element leaves `Q`. -/
theorem foldl_reaches {α : Type} {P Q : State → Prop} {f : State → α → State} (hP : ∀ s e, P s → P (f s e)) (hQ : ∀ s e, Q s → Q (f s e)) :
    ∀ {l : List α} {s : State}, (∃ e ∈ l, ∀ s, P s → Q (f s e)) → P s → Q (l.foldl f s)
  | [], _, ⟨_, he, _⟩, _ => absurd he List.not_mem_nil
  | a :: l, s, ⟨e, he, hPQ⟩, h => by
    rcases List.mem_cons.1 he with rfl | hrest
    · exact List.foldlRecOn l f (motive := Q) (hPQ s h) fun t ht e _ => hQ t e ht
    · exact foldl_reaches (l := l) hP hQ ⟨e, hrest, hPQ⟩ (hP s a h)

theorem getCmd_of_rings {s t : State} (h : t.rings = s.rings) (r i : Nat) : getCmd t r i = getCmd s r i := by simp only [getCmd, getRing, h]

/-! ### Waiting commands end (05 R146, R165) -/

/-- A command after it has ended with OK. -/
def endedOk (k : Cmd) : Cmd := { k with phase := .done, status := 0, result := w32 0, todo := [] }

theorem sameEntry_endedOk : SameEntry endedOk := ⟨fun _ => rfl, fun _ => rfl, fun _ => rfl, fun _ => rfl, fun _ => rfl⟩

/-- The commands of a list end with OK. -/
def endAll (l : List Cmd) (s : State) : State := l.foldl (fun s k => modCmd k.ring k.idx endedOk s) s

theorem endWaiting_eq (op id : Nat) (s : State) : endWaiting op id s =
    endAll ((allCmds s).filter fun k => k.opcode == op && decide (k.phase = .waiting) && opf k.ops 2 0 16 == id) s := rfl

theorem endAll_frame : ∀ (l : List Cmd) (s : State), endAll l s = { s with rings := (endAll l s).rings }
  | [], _ => rfl
  | k :: l, s => by
    show endAll l (modCmd k.ring k.idx endedOk s) = { s with rings := (endAll l (modCmd k.ring k.idx endedOk s)).rings }
    rw [endAll_frame l]; rfl

theorem endWaiting_frame (op id : Nat) (s : State) : endWaiting op id s = { s with rings := (endWaiting op id s).rings } := endAll_frame _ s

/-- At a ring's index stands the command of one entry and no other: its opcode and the directory entry that it names. -/
def OneEntry (r i op id : Nat) (s : State) : Prop := ∀ k ∈ allCmds s, k.ring = r → k.idx = i → k.opcode = op ∧ opf k.ops 2 0 16 = id

section
variable {r i op id : Nat} {s : State}

theorem OneEntry.of_rings {t : State} (h : OneEntry r i op id s) (hrings : t.rings = s.rings) : OneEntry r i op id t := by
  simpa only [OneEntry, allCmds, hrings] using h

theorem oneEntry_modCmd {g : Cmd → Cmd} (hg : SameEntry g) (q j : Nat) (h : OneEntry r i op id s) : OneEntry r i op id (modCmd q j g s) := by
  intro k hk hring hidx
  obtain ⟨m, hm, hr, hi, ho, hops⟩ := mem_allCmds_modCmd hg hk
  rw [ho, hops]
  exact h m hm (hr ▸ hring) (hi ▸ hidx)

theorem oneEntry_endAll : ∀ (l : List Cmd) {s : State}, OneEntry r i op id s → OneEntry r i op id (endAll l s)
  | [], _, h => h
  | k :: l, _, h => oneEntry_endAll l (oneEntry_modCmd sameEntry_endedOk k.ring k.idx h)

/-- A command that is not in the list stays as it is. -/
theorem getCmd_endAll_other : ∀ (l : List Cmd) (s : State), (∀ k ∈ l, k.ring = r → k.idx ≠ i) → getCmd (endAll l s) r i = getCmd s r i
  | [], _, _ => rfl
  | k :: l, s, h => by
    have hk : ¬ (r = k.ring ∧ i = k.idx) := fun ⟨hr, hi⟩ => h k List.mem_cons_self hr.symm hi.symm
    have hrest := getCmd_endAll_other l (modCmd k.ring k.idx endedOk s) fun j hj => h j (List.mem_cons_of_mem k hj)
    exact hrest.trans (by rw [getCmd_modCmd sameEntry_endedOk, if_neg hk])

/-- A command that has ended stays so. -/
theorem getCmd_endAll_ended {c : Cmd} : ∀ (l : List Cmd) (s : State), getCmd s r i = some (endedOk c) → getCmd (endAll l s) r i = some (endedOk c)
  | [], _, h => h
  | k :: l, s, h => by
    refine getCmd_endAll_ended l (modCmd k.ring k.idx endedOk s) ?_
    rw [getCmd_modCmd sameEntry_endedOk]
    split
    · next hk => rw [← hk.1, ← hk.2, h]; rfl
    · exact h

/-- A command in the list ends. -/
theorem getCmd_endAll_mem {c : Cmd} : ∀ (l : List Cmd) (s : State), getCmd s r i = some c → (∃ k ∈ l, k.ring = r ∧ k.idx = i) →
    getCmd (endAll l s) r i = some (endedOk c)
  | [], _, _, ⟨_, hk, _⟩ => absurd hk List.not_mem_nil
  | j :: l, s, h, ⟨k, hk, hr, hi⟩ => by
    show getCmd (endAll l (modCmd j.ring j.idx endedOk s)) r i = some (endedOk c)
    by_cases hj : r = j.ring ∧ i = j.idx
    · refine getCmd_endAll_ended l _ ?_
      rw [getCmd_modCmd sameEntry_endedOk, if_pos hj, ← hj.1, ← hj.2, h]; rfl
    · refine getCmd_endAll_mem l _ (by rw [getCmd_modCmd sameEntry_endedOk, if_neg hj, h]) ?_
      rcases List.mem_cons.1 hk with rfl | hk
      · exact absurd ⟨hr.symm, hi.symm⟩ hj
      · exact ⟨k, hk, hr, hi⟩

theorem oneEntry_endWaiting (o n : Nat) (h : OneEntry r i op id s) : OneEntry r i op id (endWaiting o n s) := by
  rw [endWaiting_eq]; exact oneEntry_endAll _ h

/-- Commands of another opcode, or for another directory entry, are not ended. -/
theorem getCmd_endWaiting_other {o n : Nat} (h : OneEntry r i op id s) (hne : ¬ (o = op ∧ n = id)) : getCmd (endWaiting o n s) r i = getCmd s r i := by
  refine getCmd_endAll_other _ s fun k hk hring hidx => hne ?_
  obtain ⟨hmem, htest⟩ := List.mem_filter.1 hk
  obtain ⟨hop, hid⟩ := h k hmem hring hidx
  simp only [Bool.and_eq_true, beq_iff_eq] at htest
  exact ⟨htest.1.1.symm.trans hop, htest.2.symm.trans hid⟩

/-- A waiting command for the directory entry ends; one that has ended stays so. -/
theorem getCmd_endWaiting_self {c : Cmd} (hring : c.ring = r) (hidx : c.idx = i) (hop : c.opcode = op) (hid : opf c.ops 2 0 16 = id)
    (hwait : c.phase = .waiting) (h : getCmd s r i = some c ∨ getCmd s r i = some (endedOk c)) :
    getCmd (endWaiting op id s) r i = some (endedOk c) := by
  rcases h with h | h
  · refine getCmd_endAll_mem _ s h ⟨c, List.mem_filter.2 ⟨mem_of_getCmd h, ?_⟩, hring, hidx⟩
    simp [hop, hid, hwait]
  · exact getCmd_endAll_ended _ s h

end

/-! ### Recounting the rows that name an entry (05 R146, R165) -/

/-- One directory entry's part of a recount: a RETIRING entry that no standing row names becomes FREE and its CLEARs end, and REFS of any other
is written. -/
def recountOne {α : Type} (op : Nat) (refs : Nat → Nat) (st : α → DirSt) (free count : Nat → State → State) (s : State) (e : Nat × α) : State :=
  if refs e.1 = 0 ∧ st e.2 = .retiring then endWaiting op e.1 (free e.1 s) else count e.1 s

/-- Standing rows that name an adapter, and a steering set. -/
def adapterRefs (s : State) (a : Nat) : Nat := ((standing s).filter fun d => !d.aNone && d.adapter == a).length
def steerRefs (s : State) (a : Nat) : Nat := ((standing s).filter fun d => !d.sNone && d.steer == a).length

/-- The entries of a directory that are not FREE. -/
def heldAdapters (s : State) : List (Nat × Adapter) := s.adapters.filter fun e => decide (e.2.st ≠ .free)
def heldSteers (s : State) : List (Nat × Steer) := s.steers.filter fun e => decide (e.2.st ≠ .free)

/-- A change of a directory entry that no ring sees. -/
def KeepsRings (f : Nat → State → State) : Prop := ∀ n s, (f n s).rings = s.rings

/-- An entry becomes FREE, and an entry's REFS is written. -/
def freeAdapter (a : Nat) : State → State := modAdapter a fun _ => {}
def freeSteer (a : Nat) : State → State := modSteer a fun _ => {}
def countAdapter (refs : Nat → Nat) (a : Nat) : State → State := modAdapter a fun x => { x with refs := refs a }
def countSteer (refs : Nat → Nat) (a : Nat) : State → State := modSteer a fun x => { x with refs := refs a }

theorem keepsRings_freeAdapter : KeepsRings freeAdapter := fun _ _ => rfl
theorem keepsRings_freeSteer : KeepsRings freeSteer := fun _ _ => rfl
theorem keepsRings_countAdapter (refs : Nat → Nat) : KeepsRings (countAdapter refs) := fun _ _ => rfl
theorem keepsRings_countSteer (refs : Nat → Nat) : KeepsRings (countSteer refs) := fun _ _ => rfl

/-- The two halves of a recount. -/
def recountAdapters (refs : Nat → Nat) (s : State) : State :=
  (heldAdapters s).foldl (recountOne 0x31 refs Adapter.st freeAdapter (countAdapter refs)) s
def recountSteers (refs : Nat → Nat) (s : State) : State :=
  (heldSteers s).foldl (recountOne 0x33 refs Steer.st freeSteer (countSteer refs)) s

theorem recountRefs_eq (s : State) : recountRefs s = recountSteers (steerRefs s) (recountAdapters (adapterRefs s) s) := rfl

section
variable {α : Type} {op : Nat} {refs : Nat → Nat} {st : α → DirSt} {free count : Nat → State → State}

/-- What freeing and counting an entry leave unchanged, and no ring holds, a recount leaves unchanged. -/
theorem recount_keeps {β : Type} (view : State → β) (hview : ∀ (s : State) (r : Tbl Ring), view { s with rings := r } = view s)
    (hfree : ∀ n s, view (free n s) = view s) (hcount : ∀ n s, view (count n s) = view s) :
    ∀ (l : List (Nat × α)) (s : State), view (l.foldl (recountOne op refs st free count) s) = view s
  | [], _ => rfl
  | e :: l, s => by
    rw [List.foldl_cons, recount_keeps view hview hfree hcount l, recountOne]
    split
    · rw [endWaiting_frame, hview, hfree]
    · exact hcount _ s

/-- `look` reads the state of the directory entry `id`: only freeing that entry changes it, to FREE. -/
structure Reads (look : State → DirSt) (id : Nat) (free count : Nat → State → State) : Prop where
  rings : ∀ (s : State) (r : Tbl Ring), look { s with rings := r } = look s
  free  : ∀ n s, look (free n s) = if n = id then .free else look s
  count : ∀ n s, look (count n s) = look s

section
variable (hfree : KeepsRings free) (hcount : KeepsRings count) {r i op' id : Nat}
include hfree hcount

theorem oneEntry_recountOne (s : State) (e : Nat × α) (hone : OneEntry r i op' id s) : OneEntry r i op' id (recountOne op refs st free count s e) := by
  unfold recountOne
  split
  · exact oneEntry_endWaiting _ _ (hone.of_rings (hfree e.1 s))
  · exact hone.of_rings (hcount e.1 s)

theorem oneEntry_recount (l : List (Nat × α)) (s : State) (hone : OneEntry r i op' id s) :
    OneEntry r i op' id (l.foldl (recountOne op refs st free count) s) :=
  List.foldlRecOn l _ hone fun s h e _ => oneEntry_recountOne hfree hcount s e h

/-- A recount keeps a command of another directory, or of an entry that standing rows name. -/
theorem getCmd_recount_other (h : op = op' → refs id ≠ 0) : ∀ (l : List (Nat × α)) (s : State), OneEntry r i op' id s →
    getCmd (l.foldl (recountOne op refs st free count) s) r i = getCmd s r i
  | [], _, _ => rfl
  | e :: l, s, hone => by
    rw [List.foldl_cons, getCmd_recount_other h l _ (oneEntry_recountOne hfree hcount s e hone), recountOne]
    split
    · next hends =>
      have hne : ¬ (op = op' ∧ e.1 = id) := by
        rintro ⟨hop, rfl⟩
        exact h hop hends.1
      rw [getCmd_endWaiting_other (hone.of_rings (hfree e.1 s)) hne, getCmd_of_rings (hfree e.1 s)]
    · exact getCmd_of_rings (hcount e.1 s) r i

end

section
variable {look : State → DirSt} {id : Nat} (hlook : Reads look id free count)
include hlook

/-- A recount leaves the state of an entry that standing rows name. -/
theorem recount_keeps_named (h : refs id ≠ 0) : ∀ (l : List (Nat × α)) (s : State), look (l.foldl (recountOne op refs st free count) s) = look s
  | [], _ => rfl
  | e :: l, s => by
    rw [List.foldl_cons, recount_keeps_named h l, recountOne]
    split
    · next hends =>
      have hne : ¬ e.1 = id := by
        rintro rfl
        exact h hends.1
      rw [endWaiting_frame, hlook.rings, hlook.free, if_neg hne]
    · exact hlook.count _ s

/-- A recount frees a RETIRING entry that no standing row names, and ends its waiting CLEAR. -/
theorem recount_frees (hfree : KeepsRings free) (hcount : KeepsRings count) {r i : Nat} {c : Cmd}
    (hc : c.ring = r ∧ c.idx = i ∧ c.opcode = op ∧ opf c.ops 2 0 16 = id ∧ c.phase = .waiting) (h : refs id = 0)
    {l : List (Nat × α)} (hl : ∃ e ∈ l, e.1 = id ∧ st e.2 = .retiring) {s : State} (hone : OneEntry r i op id s) (hcmd : getCmd s r i = some c) :
    getCmd (l.foldl (recountOne op refs st free count) s) r i = some (endedOk c) ∧ look (l.foldl (recountOne op refs st free count) s) = .free := by
  obtain ⟨hring, hidx, hop, hid, hwait⟩ := hc
  refine foldl_reaches (P := fun s => OneEntry r i op id s ∧ (getCmd s r i = some c ∨ getCmd s r i = some (endedOk c)))
    (Q := fun s => getCmd s r i = some (endedOk c) ∧ look s = .free) (fun s e hP => ?stays) (fun s e hQ => ?done) ?frees ⟨hone, .inl hcmd⟩
  case stays =>
    obtain ⟨hone, hcmd⟩ := hP
    refine ⟨oneEntry_recountOne hfree hcount s e hone, ?_⟩
    unfold recountOne
    split
    · by_cases he : e.1 = id
      · rw [he]
        exact .inr (getCmd_endWaiting_self hring hidx hop hid hwait (by rwa [getCmd_of_rings (hfree id s)]))
      · rwa [getCmd_endWaiting_other (hone.of_rings (hfree e.1 s)) fun h => he h.2, getCmd_of_rings (hfree e.1 s)]
    · rwa [getCmd_of_rings (hcount e.1 s)]
  case done =>
    obtain ⟨hcmd, hfreed⟩ := hQ
    unfold recountOne
    split
    · refine ⟨getCmd_endAll_ended _ _ (by rwa [getCmd_of_rings (hfree e.1 s)]), ?_⟩
      rw [endWaiting_frame, hlook.rings, hlook.free, hfreed, ite_self]
    · exact ⟨by rwa [getCmd_of_rings (hcount e.1 s)], by rw [hlook.count, hfreed]⟩
  case frees =>
    obtain ⟨e, he, heid, hret⟩ := hl
    refine ⟨e, he, fun s ⟨_, hcmd⟩ => ?_⟩
    rw [recountOne, if_pos ⟨by rw [heid, h], hret⟩, heid]
    exact ⟨getCmd_endWaiting_self hring hidx hop hid hwait (by rwa [getCmd_of_rings (hfree id s)]),
      by rw [endWaiting_frame, hlook.rings, hlook.free, if_pos rfl]⟩

end
end

/-! ### A CLEAR waits or ends (05 R146, R165) -/

theorem steers_recountAdapters (refs : Nat → Nat) (s : State) : (recountAdapters refs s).steers = s.steers :=
  recount_keeps (free := freeAdapter) (count := countAdapter refs) State.steers (fun _ _ => rfl) (fun _ _ => rfl) (fun _ _ => rfl) _ s

theorem adapters_recountSteers (refs : Nat → Nat) (s : State) : (recountSteers refs s).adapters = s.adapters :=
  recount_keeps (free := freeSteer) (count := countSteer refs) State.adapters (fun _ _ => rfl) (fun _ _ => rfl) (fun _ _ => rfl) _ s

/-- A state but for its rings' commands and its directories. -/
def undirected (s : State) : State := { s with rings := [], adapters := [], steers := [] }

theorem undirected_recountAdapters (refs : Nat → Nat) (s : State) : undirected (recountAdapters refs s) = undirected s :=
  recount_keeps (free := freeAdapter) (count := countAdapter refs) undirected (fun _ _ => rfl) (fun _ _ => rfl) (fun _ _ => rfl) _ s

theorem undirected_recountSteers (refs : Nat → Nat) (s : State) : undirected (recountSteers refs s) = undirected s :=
  recount_keeps (free := freeSteer) (count := countSteer refs) undirected (fun _ _ => rfl) (fun _ _ => rfl) (fun _ _ => rfl) _ s

theorem undirected_recountRefs (s : State) : undirected (recountRefs s) = undirected s := by
  rw [recountRefs_eq, undirected_recountSteers, undirected_recountAdapters]

/-- What a recount may change: the rings' commands and the directories. -/
theorem recountRefs_frame (s : State) :
    recountRefs s = { s with rings := (recountRefs s).rings, adapters := (recountRefs s).adapters, steers := (recountRefs s).steers } :=
  congrArg (fun v : State => { v with rings := (recountRefs s).rings, adapters := (recountRefs s).adapters, steers := (recountRefs s).steers })
    (undirected_recountRefs s)

theorem reads_adapter (refs : Nat → Nat) (a : Nat) : Reads (fun s => (getAdapter s a).st) a freeAdapter (countAdapter refs) where
  rings _ _ := rfl
  free n s := by
    rw [freeAdapter, getAdapter_modAdapter, apply_ite Adapter.st]
    simp only [eq_comm (a := n)]
  count n s := by
    rw [countAdapter, getAdapter_modAdapter]
    split
    · next h => rw [h]
    · rfl

theorem reads_steer (refs : Nat → Nat) (a : Nat) : Reads (fun s => (getSteer s a).st) a freeSteer (countSteer refs) where
  rings _ _ := rfl
  free n s := by
    rw [freeSteer, getSteer_modSteer, apply_ite Steer.st]
    simp only [eq_comm (a := n)]
  count n s := by
    rw [countSteer, getSteer_modSteer]
    split
    · next h => rw [h]
    · rfl

theorem mem_heldAdapters {s : State} {a : Nat} (h : (getAdapter s a).st ≠ .free) : (a, getAdapter s a) ∈ heldAdapters s :=
  List.mem_filter.2 ⟨mem_of_tget_ne fun heq => h (by rw [getAdapter, heq]), by simpa using h⟩

theorem mem_heldSteers {s : State} {a : Nat} (h : (getSteer s a).st ≠ .free) : (a, getSteer s a) ∈ heldSteers s :=
  List.mem_filter.2 ⟨mem_of_tget_ne fun heq => h (by rw [getSteer, heq]), by simpa using h⟩

section
variable {s : State} {r i a : Nat} {c : Cmd}

/-- An adapter's CLEAR: while a standing row names the entry, it stays RETIRING and the CLEAR waits; otherwise it is FREE and the CLEAR has ended. -/
theorem recountRefs_adapter (hc : c.ring = r ∧ c.idx = i ∧ c.opcode = 0x31 ∧ opf c.ops 2 0 16 = a ∧ c.phase = .waiting)
    (hst : (getAdapter s a).st = .retiring) (hone : OneEntry r i 0x31 a s) (hcmd : getCmd s r i = some c) :
    (getAdapter (recountRefs s) a).st = (if adapterRefs s a = 0 then .free else .retiring) ∧
      getCmd (recountRefs s) r i = some (if adapterRefs s a = 0 then endedOk c else c) := by
  have hfree := keepsRings_freeAdapter
  have hcount := keepsRings_countAdapter (adapterRefs s)
  have hreads := reads_adapter (adapterRefs s) a
  have hone' : OneEntry r i 0x31 a (recountAdapters (adapterRefs s) s) := oneEntry_recount hfree hcount _ s hone
  have hsteer : getCmd (recountSteers (steerRefs s) (recountAdapters (adapterRefs s) s)) r i = getCmd (recountAdapters (adapterRefs s) s) r i :=
    getCmd_recount_other (op := 0x33) keepsRings_freeSteer (keepsRings_countSteer (steerRefs s)) (fun h => absurd h (by decide)) _ _ hone'
  have hadapter : getAdapter (recountSteers (steerRefs s) (recountAdapters (adapterRefs s) s)) a = getAdapter (recountAdapters (adapterRefs s) s) a := by
    rw [getAdapter, adapters_recountSteers, getAdapter]
  rw [recountRefs_eq, hsteer, hadapter]
  by_cases hrefs : adapterRefs s a = 0
  · rw [if_pos hrefs, if_pos hrefs]
    exact (recount_frees hreads hfree hcount hc hrefs ⟨_, mem_heldAdapters (by rw [hst]; decide), rfl, hst⟩ hone hcmd).symm
  · rw [if_neg hrefs, if_neg hrefs]
    exact ⟨(recount_keeps_named hreads hrefs _ s).trans hst, (getCmd_recount_other hfree hcount (fun _ => hrefs) _ s hone).trans hcmd⟩

/-- A steering set's CLEAR, likewise. -/
theorem recountRefs_steer (hc : c.ring = r ∧ c.idx = i ∧ c.opcode = 0x33 ∧ opf c.ops 2 0 16 = a ∧ c.phase = .waiting)
    (hst : (getSteer s a).st = .retiring) (hone : OneEntry r i 0x33 a s) (hcmd : getCmd s r i = some c) :
    (getSteer (recountRefs s) a).st = (if steerRefs s a = 0 then .free else .retiring) ∧
      getCmd (recountRefs s) r i = some (if steerRefs s a = 0 then endedOk c else c) := by
  have hfree := keepsRings_freeSteer
  have hcount := keepsRings_countSteer (steerRefs s)
  have hreads := reads_steer (steerRefs s) a
  have hone' : OneEntry r i 0x33 a (recountAdapters (adapterRefs s) s) :=
    oneEntry_recount keepsRings_freeAdapter (keepsRings_countAdapter (adapterRefs s)) _ s hone
  have hcmd' : getCmd (recountAdapters (adapterRefs s) s) r i = some c :=
    (getCmd_recount_other (op := 0x31) keepsRings_freeAdapter (keepsRings_countAdapter (adapterRefs s)) (fun h => absurd h (by decide)) _ s hone).trans hcmd
  have hst' : (getSteer (recountAdapters (adapterRefs s) s) a).st = .retiring := by
    rw [getSteer, steers_recountAdapters]; exact hst
  rw [recountRefs_eq]
  by_cases hrefs : steerRefs s a = 0
  · rw [if_pos hrefs, if_pos hrefs]
    exact (recount_frees hreads hfree hcount hc hrefs ⟨_, mem_heldSteers (by rw [hst']; decide), rfl, hst'⟩ hone' hcmd').symm
  · rw [if_neg hrefs, if_neg hrefs]
    exact ⟨(recount_keeps_named hreads hrefs _ _).trans hst', (getCmd_recount_other hfree hcount (fun _ => hrefs) _ _ hone').trans hcmd'⟩

end

/-! ### ADAPTER_SET and STEER_SET (05 R145-R147, R165, R166) -/

section
variable {s : State} {c : Cmd}

theorem adapterSet_refused {st : Nat} (h : adapterRefused s c (getAdapter s (opf c.ops 2 0 16)) (adapterOf c) = some st) :
    adapterSet c s = endCmd c.ring c.idx st 0 s := by
  simp only [adapterSet, h]

theorem adapterSet_free (h : adapterRefused s c (getAdapter s (opf c.ops 2 0 16)) (adapterOf c) = none)
    (hst : (getAdapter s (opf c.ops 2 0 16)).st = .free) :
    adapterSet c s = endCmd c.ring c.idx 0 0 (modAdapter (opf c.ops 2 0 16) (fun _ => adapterOf c) s) := by
  simp only [adapterSet, h, hst, reduceCtorEq, if_false]

/-- The scales of an adapter change: the context's open batches keep those that they have. -/
def takeAlpha (n : Adapter) (bs : List Nat) (x : Adapter) : Adapter :=
  { x with alpha := n.alpha, oldAlpha := bs.foldl (fun t b => if t.any (fun e => e.1 == b) then t else tput b x.alpha t) x.oldAlpha }

/-- A changed ALPHA ends at once where the context has no open batch. -/
theorem adapterSet_valid (h : adapterRefused s c (getAdapter s (opf c.ops 2 0 16)) (adapterOf c) = none)
    (hst : (getAdapter s (opf c.ops 2 0 16)).st = .valid) :
    adapterSet c s =
      (let x := modAdapter (opf c.ops 2 0 16) (takeAlpha (adapterOf c) (batchesOfCtx s c.ctx)) s
       if batchesOfCtx s c.ctx = [] then endCmd c.ring c.idx 0 0 x else modCmd c.ring c.idx (fun k => { k with phase := .waiting }) x) := by
  simp only [adapterSet, h, hst, if_true, changeAlpha, List.isEmpty_iff]
  rfl

theorem steerSet_refused {st : Nat} (h : steerRefused c (getSteer s (opf c.ops 2 0 16)) (steerOf c) = some st) :
    steerSet c s = endCmd c.ring c.idx st 0 s := by
  simp only [steerSet, h]

theorem steerSet_valid (h : steerRefused c (getSteer s (opf c.ops 2 0 16)) (steerOf c) = none) (hst : (getSteer s (opf c.ops 2 0 16)).st = .valid) :
    steerSet c s = endCmd c.ring c.idx 0 0 s := by
  simp only [steerSet, h, hst, if_true]

theorem steerSet_new (h : steerRefused c (getSteer s (opf c.ops 2 0 16)) (steerOf c) = none) (hst : (getSteer s (opf c.ops 2 0 16)).st ≠ .valid) :
    steerSet c s = endCmd c.ring c.idx 0 0 (modSteer (opf c.ops 2 0 16) (fun _ => steerOf c) s) := by
  simp only [steerSet, h, hst, if_false]

/-! ### ADAPTER_CLEAR and STEER_CLEAR (05 R146, R165) -/

theorem adapterClear_refused (h : (getAdapter s (opf c.ops 2 0 16)).st ≠ .valid ∨ (getAdapter s (opf c.ops 2 0 16)).ctx ≠ c.ctx) :
    adapterClear c s = endCmd c.ring c.idx (if (getAdapter s (opf c.ops 2 0 16)).st ≠ .valid then 0x0A else 3) 0 s := by
  unfold adapterClear
  by_cases hst : (getAdapter s (opf c.ops 2 0 16)).st = .valid
  · simp only [hst, ne_eq, not_true_eq_false, if_false, h.resolve_left (fun hne => hne hst), not_false_eq_true, if_true]
  · simp only [hst, ne_eq, not_false_eq_true, if_true]

theorem adapterClear_retires (hst : (getAdapter s (opf c.ops 2 0 16)).st = .valid) (hctx : (getAdapter s (opf c.ops 2 0 16)).ctx = c.ctx) :
    adapterClear c s = recountRefs (modCmd c.ring c.idx (fun k => { k with phase := .waiting })
      (modAdapter (opf c.ops 2 0 16) (fun x => { x with st := .retiring }) s)) := by
  simp only [adapterClear, hst, hctx, ne_eq, not_true_eq_false, if_false]

theorem steerClear_refused (h : (getSteer s (opf c.ops 2 0 16)).st ≠ .valid ∨ (getSteer s (opf c.ops 2 0 16)).ctx ≠ c.ctx) :
    steerClear c s = endCmd c.ring c.idx (if (getSteer s (opf c.ops 2 0 16)).st ≠ .valid then 0x0A else 3) 0 s := by
  unfold steerClear
  by_cases hst : (getSteer s (opf c.ops 2 0 16)).st = .valid
  · simp only [hst, ne_eq, not_true_eq_false, if_false, h.resolve_left (fun hne => hne hst), not_false_eq_true, if_true]
  · simp only [hst, ne_eq, not_false_eq_true, if_true]

theorem steerClear_retires (hst : (getSteer s (opf c.ops 2 0 16)).st = .valid) (hctx : (getSteer s (opf c.ops 2 0 16)).ctx = c.ctx) :
    steerClear c s = recountRefs (modCmd c.ring c.idx (fun k => { k with phase := .waiting })
      (modSteer (opf c.ops 2 0 16) (fun x => { x with st := .retiring }) s)) := by
  simp only [steerClear, hst, hctx, ne_eq, not_true_eq_false, if_false]

end

/-! ### The entry's own state -/

section
variable {s : State} {e : Entry} {op : Nat}

theorem getAdapter_begun (s : State) (e : Entry) (op a : Nat) : getAdapter (begun s e op) a = getAdapter s a := by rw [begun_frame]; rfl

theorem getSteer_begun (s : State) (e : Entry) (op a : Nat) : getSteer (begun s e op) a = getSteer s a := by rw [begun_frame]; rfl

theorem batchesOfCtx_begun (s : State) (e : Entry) (op c : Nat) : batchesOfCtx (begun s e op) c = batchesOfCtx s c := by rw [begun_frame]; rfl

theorem standing_begun (s : State) (e : Entry) (op : Nat) : standing (begun s e op) = standing s := by rw [begun_frame]; rfl

@[simp] theorem adapters_modCmd (r i : Nat) (g : Cmd → Cmd) (s : State) : (modCmd r i g s).adapters = s.adapters := rfl
@[simp] theorem steers_modCmd (r i : Nat) (g : Cmd → Cmd) (s : State) : (modCmd r i g s).steers = s.steers := rfl
@[simp] theorem adapters_endCmd (r i st res : Nat) (s : State) : (endCmd r i st res s).adapters = s.adapters := rfl
@[simp] theorem steers_endCmd (r i st res : Nat) (s : State) : (endCmd r i st res s).steers = s.steers := rfl
@[simp] theorem getAdapter_modCmd (r i : Nat) (g : Cmd → Cmd) (s : State) (a : Nat) : getAdapter (modCmd r i g s) a = getAdapter s a := rfl
@[simp] theorem getAdapter_endCmd (r i st res : Nat) (s : State) (a : Nat) : getAdapter (endCmd r i st res s) a = getAdapter s a := rfl
@[simp] theorem getSteer_modCmd (r i : Nat) (g : Cmd → Cmd) (s : State) (a : Nat) : getSteer (modCmd r i g s) a = getSteer s a := rfl
@[simp] theorem getSteer_endCmd (r i st res : Nat) (s : State) (a : Nat) : getSteer (endCmd r i st res s) a = getSteer s a := rfl

/-- Beside its ring and the write-back, a command changes directories only. -/
def DirectoryFrame (s t : State) : Prop :=
  t = { s with rings := t.rings, out := { s.out with hostMem := t.out.hostMem }, adapters := t.adapters, steers := t.steers }

theorem adapters_begun (s : State) (e : Entry) (op : Nat) : (begun s e op).adapters = s.adapters := by rw [begun_frame]

theorem steers_begun (s : State) (e : Entry) (op : Nat) : (begun s e op).steers = s.steers := by rw [begun_frame]

theorem directoryFrame_begun (s : State) (e : Entry) (op : Nat) : DirectoryFrame s (begun s e op) := by
  rw [DirectoryFrame, adapters_begun, steers_begun]
  exact begun_frame s e op

namespace DirectoryFrame
variable {s t : State} (h : DirectoryFrame s t)
include h

theorem modCmd (r i : Nat) (g : Cmd → Cmd) : DirectoryFrame s (Machine.modCmd r i g t) := by
  rw [h]; rfl

theorem endCmd (r i st res : Nat) : DirectoryFrame s (Machine.endCmd r i st res t) := h.modCmd r i _

theorem modAdapter (a : Nat) (f : Adapter → Adapter) : DirectoryFrame s (Machine.modAdapter a f t) := by
  rw [h]; rfl

theorem modSteer (a : Nat) (f : Steer → Steer) : DirectoryFrame s (Machine.modSteer a f t) := by
  rw [h]; rfl

theorem recountRefs : DirectoryFrame s (Machine.recountRefs t) := by
  rw [DirectoryFrame, recountRefs_frame t]
  generalize (Machine.recountRefs t).rings = rings
  generalize (Machine.recountRefs t).adapters = adapters
  generalize (Machine.recountRefs t).steers = steers
  rw [h]

theorem keepsSteers (hsteers : t.steers = s.steers) :
    t = { s with rings := t.rings, out := { s.out with hostMem := t.out.hostMem }, adapters := t.adapters } :=
  h.trans (by rw [hsteers])

theorem keepsAdapters (hadapters : t.adapters = s.adapters) :
    t = { s with rings := t.rings, out := { s.out with hostMem := t.out.hostMem }, steers := t.steers } :=
  h.trans (by rw [hadapters])

end DirectoryFrame

theorem started_of_rings {s t u : State} {e : Entry} {k : Cmd} (h : Started s t e k) (hrings : u.rings = t.rings) (hout : u.out = t.out) : Started s u e k := by
  simpa only [Started, getRing, hrings, hout] using h

/-- The CLEAR that the entry started as waits, and no other command is taken for it. -/
theorem waits_begun (h : Runs s e op) {x : State} (hx : x.rings = (begun s e op).rings) :
    let t := modCmd (newCmd s e op).ring (newCmd s e op).idx (fun k => { k with phase := .waiting }) x
    OneEntry e.ring.val (getRing s e.ring.val).head op (opf e.ops 2 0 16) t ∧
      getCmd t e.ring.val (getRing s e.ring.val).head = some { newCmd s e op with phase := .waiting } := by
  have hsame : SameEntry fun k => { k with phase := .waiting } := ⟨fun _ => rfl, fun _ => rfl, fun _ => rfl, fun _ => rfl, fun _ => rfl⟩
  have hone : OneEntry e.ring.val (getRing s e.ring.val).head op (opf e.ops 2 0 16) (begun s e op) := fun k hk hring hidx => by
    rw [started_unique h hk hring hidx]; exact ⟨rfl, rfl⟩
  refine ⟨oneEntry_modCmd hsame _ _ (hone.of_rings hx), ?_⟩
  have hcmd : getCmd (begun s e op) (newCmd s e op).ring (newCmd s e op).idx = some (newCmd s e op) :=
    getCmd_of_started h (started_begun s e op) rfl rfl
  rw [getCmd_modCmd hsame, if_pos ⟨rfl, rfl⟩, getCmd_of_rings hx, hcmd]
  rfl

end

/-! ### Rows that name an entry -/

theorem adapterRefs_eq_zero {s t : State} (h : standing t = standing s) (a : Nat) :
    adapterRefs t a = 0 ↔ ((standing s).any fun d => !d.aNone && d.adapter == a) = false := by
  simp [adapterRefs, h, List.filter_eq_nil_iff, List.any_eq_false]

theorem steerRefs_eq_zero {s t : State} (h : standing t = standing s) (a : Nat) :
    steerRefs t a = 0 ↔ ((standing s).any fun d => !d.sNone && d.steer == a) = false := by
  simp [steerRefs, h, List.filter_eq_nil_iff, List.any_eq_false]

theorem DirectoryFrame.standing {s t : State} (h : DirectoryFrame s t) : Machine.standing t = Machine.standing s := by
  rw [h]; rfl

theorem ite_named {α : Type} {n : Nat} {named : Bool} (h : n = 0 ↔ named = false) (x y : α) : (if n = 0 then x else y) = if named then y else x := by
  cases named <;> simp [h]

section
variable {s : State} {e : Entry} {op : Nat}

/-- A command writes an adapter entry and changes itself. -/
theorem adapter_written (h : Runs s e op) (a : Nat) (f : Adapter → Adapter) (g : Cmd → Cmd) {t : State}
    (ht : t = modCmd (newCmd s e op).ring (newCmd s e op).idx g (modAdapter a f (begun s e op))) :
    t = { s with rings := t.rings, out := { s.out with hostMem := t.out.hostMem }, adapters := t.adapters } ∧ Started s t e (g (newCmd s e op)) ∧
      getAdapter t a = f (getAdapter s a) ∧ ∀ b, b ≠ a → getAdapter t b = getAdapter s b := by
  have hframe : DirectoryFrame s t := by
    rw [ht]; exact ((directoryFrame_begun s e op).modAdapter a f).modCmd ..
  have hsteers : t.steers = s.steers := by
    rw [ht, steers_modCmd, modAdapter_steers, steers_begun]
  have hstarted : Started s (modAdapter a f (begun s e op)) e (newCmd s e op) :=
    started_of_rings (started_begun s e op) (modAdapter_rings ..) (modAdapter_out ..)
  refine ⟨hframe.keepsSteers hsteers, ?_, ?_, fun b hb => ?_⟩
  · rw [ht]; exact started_modCmd h hstarted rfl rfl g
  · rw [ht, getAdapter_modCmd, getAdapter_modAdapter_self, getAdapter_begun]
  · rw [ht, getAdapter_modCmd, getAdapter_modAdapter_ne _ _ hb, getAdapter_begun]

/-- A command writes a steering entry and changes itself. -/
theorem steer_written (h : Runs s e op) (a : Nat) (f : Steer → Steer) (g : Cmd → Cmd) {t : State}
    (ht : t = modCmd (newCmd s e op).ring (newCmd s e op).idx g (modSteer a f (begun s e op))) :
    t = { s with rings := t.rings, out := { s.out with hostMem := t.out.hostMem }, steers := t.steers } ∧ Started s t e (g (newCmd s e op)) ∧
      getSteer t a = f (getSteer s a) ∧ ∀ b, b ≠ a → getSteer t b = getSteer s b := by
  have hframe : DirectoryFrame s t := by
    rw [ht]; exact ((directoryFrame_begun s e op).modSteer a f).modCmd ..
  have hadapters : t.adapters = s.adapters := by
    rw [ht, adapters_modCmd, modSteer_adapters, adapters_begun]
  have hstarted : Started s (modSteer a f (begun s e op)) e (newCmd s e op) :=
    started_of_rings (started_begun s e op) (modSteer_rings ..) (modSteer_out ..)
  refine ⟨hframe.keepsAdapters hadapters, ?_, ?_, fun b hb => ?_⟩
  · rw [ht]; exact started_modCmd h hstarted rfl rfl g
  · rw [ht, getSteer_modCmd, getSteer_modSteer_self, getSteer_begun]
  · rw [ht, getSteer_modCmd, getSteer_modSteer_ne _ _ hb, getSteer_begun]

/-- A command that only ends. -/
theorem only_ends (h : Runs s e op) (st res : Nat) {t : State} (ht : t = endCmd (newCmd s e op).ring (newCmd s e op).idx st res (begun s e op)) :
    t = { s with rings := t.rings, out := { s.out with hostMem := t.out.hostMem } } ∧ Ended s t e op st res := by
  have hframe := (directoryFrame_begun s e op).endCmd (newCmd s e op).ring (newCmd s e op).idx st res
  rw [← ht] at hframe
  have hadapters : t.adapters = s.adapters := by rw [ht, adapters_endCmd, adapters_begun]
  have hsteers : t.steers = s.steers := by rw [ht, steers_endCmd, steers_begun]
  constructor
  · have h := hframe.keepsSteers hsteers
    rwa [hadapters] at h
  · rw [ht]; exact ended_of_started h (started_begun s e op) st res

end

/-- An adapter that its CLEAR retires: RETIRING with the CLEAR waiting while a standing row names it, and otherwise FREE with the CLEAR done. -/
theorem adapter_retires {s : State} {e : Entry} (h : Runs s e 0x31) {t : State}
    (ht : t = recountRefs (modCmd (newCmd s e 0x31).ring (newCmd s e 0x31).idx (fun k => { k with phase := .waiting })
      (modAdapter (opf e.ops 2 0 16) (fun x => { x with st := .retiring }) (begun s e 0x31)))) :
    DirectoryFrame s t ∧
      (let named := (standing s).any fun d => !d.aNone && d.adapter == opf e.ops 2 0 16
       (getAdapter t (opf e.ops 2 0 16)).st = (if named then .retiring else .free) ∧
       getCmd t e.ring.val (getRing s e.ring.val).head =
         some (if named then { newCmd s e 0x31 with phase := .waiting } else { newCmd s e 0x31 with phase := .done })) := by
  have hframe := ((directoryFrame_begun s e 0x31).modAdapter (opf e.ops 2 0 16) fun x => { x with st := .retiring }).modCmd
    (newCmd s e 0x31).ring (newCmd s e 0x31).idx fun k => { k with phase := .waiting }
  obtain ⟨hone, hcmd⟩ := waits_begun h (modAdapter_rings (s := begun s e 0x31) (opf e.ops 2 0 16) fun x => { x with st := .retiring })
  have hst := getAdapter_modAdapter_self (s := begun s e 0x31) (opf e.ops 2 0 16) fun x => { x with st := .retiring }
  obtain ⟨hst', hcmd'⟩ := recountRefs_adapter (a := opf e.ops 2 0 16) (c := { newCmd s e 0x31 with phase := .waiting }) ⟨rfl, rfl, rfl, rfl, rfl⟩
    (by rw [getAdapter_modCmd, hst]) hone hcmd
  have hrefs := adapterRefs_eq_zero hframe.standing (opf e.ops 2 0 16)
  rw [ht]
  exact ⟨hframe.recountRefs, hst'.trans (ite_named hrefs ..), hcmd'.trans (congrArg some (ite_named hrefs ..))⟩

/-- A steering set that its CLEAR retires: RETIRING with the CLEAR waiting while a standing row names it, and otherwise FREE with the CLEAR done. -/
theorem steer_retires {s : State} {e : Entry} (h : Runs s e 0x33) {t : State}
    (ht : t = recountRefs (modCmd (newCmd s e 0x33).ring (newCmd s e 0x33).idx (fun k => { k with phase := .waiting })
      (modSteer (opf e.ops 2 0 16) (fun x => { x with st := .retiring }) (begun s e 0x33)))) :
    DirectoryFrame s t ∧
      (let named := (standing s).any fun d => !d.sNone && d.steer == opf e.ops 2 0 16
       (getSteer t (opf e.ops 2 0 16)).st = (if named then .retiring else .free) ∧
       getCmd t e.ring.val (getRing s e.ring.val).head =
         some (if named then { newCmd s e 0x33 with phase := .waiting } else { newCmd s e 0x33 with phase := .done })) := by
  have hframe := ((directoryFrame_begun s e 0x33).modSteer (opf e.ops 2 0 16) fun x => { x with st := .retiring }).modCmd
    (newCmd s e 0x33).ring (newCmd s e 0x33).idx fun k => { k with phase := .waiting }
  obtain ⟨hone, hcmd⟩ := waits_begun h (modSteer_rings (s := begun s e 0x33) (opf e.ops 2 0 16) fun x => { x with st := .retiring })
  have hst := getSteer_modSteer_self (s := begun s e 0x33) (opf e.ops 2 0 16) fun x => { x with st := .retiring }
  obtain ⟨hst', hcmd'⟩ := recountRefs_steer (a := opf e.ops 2 0 16) (c := { newCmd s e 0x33 with phase := .waiting }) ⟨rfl, rfl, rfl, rfl, rfl⟩
    (by rw [getSteer_modCmd, hst]) hone hcmd
  have hrefs := steerRefs_eq_zero hframe.standing (opf e.ops 2 0 16)
  rw [ht]
  exact ⟨hframe.recountRefs, hst'.trans (ite_named hrefs ..), hcmd'.trans (congrArg some (ite_named hrefs ..))⟩

/-! ### The commands' meanings -/

section
variable {s : State} {e : Entry}

theorem exec_adapterSet (h : Runs s e 0x30) : exec (.adapterSet e) s = .next (adapterSet (newCmd s e 0x30) (begun s e 0x30)) :=
  congrArg Host.Outcome.next (runEntry_begun h adapterSet)

theorem exec_adapterClear (h : Runs s e 0x31) : exec (.adapterClear e) s = .next (adapterClear (newCmd s e 0x31) (begun s e 0x31)) :=
  congrArg Host.Outcome.next (runEntry_begun h adapterClear)

theorem exec_steerSet (h : Runs s e 0x32) : exec (.steerSet e) s = .next (steerSet (newCmd s e 0x32) (begun s e 0x32)) :=
  congrArg Host.Outcome.next (runEntry_begun h steerSet)

theorem exec_steerClear (h : Runs s e 0x33) : exec (.steerClear e) s = .next (steerClear (newCmd s e 0x33) (begun s e 0x33)) :=
  congrArg Host.Outcome.next (runEntry_begun h steerClear)

end

/-- Settles O32: a SET ends with the first reason that refuses it, or writes its entry; a CLEAR is refused, or retires its entry and recounts the
rows that name it. -/
theorem directorySetsAndClears : Obligations.DirectorySetsAndClears := by
  refine ⟨⟨?setRefused, ?setNew, ?setAlpha, ?steerRefused, ?steerSet⟩, ⟨?clearRefused, ?clear, ?steerClearRefused, ?steerClear⟩⟩
  case setRefused =>
    intro e st s h c hrefused
    refine ⟨_, exec_adapterSet h, only_ends h st 0 (adapterSet_refused ?_)⟩
    rw [getAdapter_begun]; exact hrefused
  case setNew =>
    intro e s h c a hgo hst
    have hset := adapterSet_free (c := c) (s := begun s e 0x30) (by rw [getAdapter_begun]; exact hgo) (by rw [getAdapter_begun]; exact hst)
    obtain ⟨hframe, hstarted, hself, hothers⟩ := adapter_written h a (fun _ => adapterOf c) _ hset
    exact ⟨_, exec_adapterSet h, hframe, hstarted, hself, hothers⟩
  case setAlpha =>
    intro e s h c a hgo hst
    have hset := adapterSet_valid (c := c) (s := begun s e 0x30) (by rw [getAdapter_begun]; exact hgo) (by rw [getAdapter_begun]; exact hst)
    rw [batchesOfCtx_begun] at hset
    by_cases hopen : batchesOfCtx s c.ctx = []
    · rw [if_pos hopen] at hset
      obtain ⟨hframe, hstarted, hself, hothers⟩ := adapter_written h a _ _ hset
      exact ⟨_, exec_adapterSet h, hframe, by rw [hself]; rfl, hothers, by rw [if_pos hopen]; exact hstarted⟩
    · rw [if_neg hopen] at hset
      obtain ⟨hframe, hstarted, hself, hothers⟩ := adapter_written h a _ _ hset
      exact ⟨_, exec_adapterSet h, hframe, by rw [hself]; rfl, hothers, by rw [if_neg hopen]; exact hstarted⟩
  case steerRefused =>
    intro e st s h c hrefused
    refine ⟨_, exec_steerSet h, only_ends h st 0 (steerSet_refused ?_)⟩
    rw [getSteer_begun]; exact hrefused
  case steerSet =>
    intro e s h c a hgo
    have hgo' : steerRefused c (getSteer (begun s e 0x32) a) (steerOf c) = none := by rw [getSteer_begun]; exact hgo
    by_cases hst : (getSteer s a).st = .valid
    · obtain ⟨hframe, hended⟩ := only_ends h 0 0 (steerSet_valid hgo' (by rw [getSteer_begun]; exact hst))
      have hkept (b : Nat) : getSteer (steerSet c (begun s e 0x32)) b = getSteer s b := by
        rw [steerSet_valid hgo' (by rw [getSteer_begun]; exact hst), getSteer_endCmd, getSteer_begun]
      have hsteers : (steerSet c (begun s e 0x32)).steers = s.steers := by rw [hframe]
      refine ⟨_, exec_steerSet h, ?_, hended, by rw [if_pos hst]; exact hkept a, fun b _ => hkept b⟩
      rw [hsteers]; exact hframe
    · obtain ⟨hframe, hstarted, hself, hothers⟩ := steer_written h a (fun _ => steerOf c) _ (steerSet_new hgo' (by rw [getSteer_begun]; exact hst))
      exact ⟨_, exec_steerSet h, hframe, hstarted, by rw [if_neg hst]; exact hself, hothers⟩
  case clearRefused =>
    intro e s h c o hrefused
    have hclear := adapterClear_refused (c := c) (s := begun s e 0x31) (by rw [getAdapter_begun]; exact hrefused)
    rw [getAdapter_begun] at hclear
    exact ⟨_, exec_adapterClear h, only_ends h _ 0 hclear⟩
  case clear =>
    intro e s h c a named hst hctx
    have hclear := adapterClear_retires (c := c) (s := begun s e 0x31) (by rw [getAdapter_begun]; exact hst) (by rw [getAdapter_begun]; exact hctx)
    obtain ⟨hframe, hst', hcmd⟩ := adapter_retires h hclear
    exact ⟨_, exec_adapterClear h, hframe, hst', hcmd⟩
  case steerClearRefused =>
    intro e s h c o hrefused
    have hclear := steerClear_refused (c := c) (s := begun s e 0x33) (by rw [getSteer_begun]; exact hrefused)
    rw [getSteer_begun] at hclear
    exact ⟨_, exec_steerClear h, only_ends h _ 0 hclear⟩
  case steerClear =>
    intro e s h c a named hst hctx
    have hclear := steerClear_retires (c := c) (s := begun s e 0x33) (by rw [getSteer_begun]; exact hst) (by rw [getSteer_begun]; exact hctx)
    obtain ⟨hframe, hst', hcmd⟩ := steer_retires h hclear
    exact ⟨_, exec_steerClear h, hframe, hst', hcmd⟩

end Sys2Proof.Proofs
end

section
/-! PROOFS. A gather in a state whose object table lists an object twice (07 R205, R206): the read that brings the piece marks its object as used,
that changes which object holds the address, and the gather then counts a cold source where the piece lay in the stage tier. -/
namespace Sys2Proof.Proofs
open Sys2Proof Sys2Proof.Machine Sys2Proof.Safety

/-- A piece of one unit for set 0. -/
def onePiece : Piece := { set := 0, step := 0, group := 0, shares := [], cols := [⟨0, 0, 1, 0, 0⟩], offset := 0, steerLayer := 0xFF }

/-- A plan of that piece. -/
def onePlan : Plan := { tag := 0, maxRank := 1, projs := 1, pieces := [onePiece], groups := [], bodyUnits := 1, addr := 0, size := 64 }

/-- A BATCH_RUN of batch 0. -/
def oneRun : Running := { ring := 0, idx := 0, ctx := 0, opcode := 0x21, target := 1, ports := [], round := 0, base := 0, done := 0, batch := 0, chunk := none }

/-- A batch step whose one segment uses adapter 0. The object table lists object 5 twice: first as an entry that says nothing, then as the VALID
object that holds the adapter's body, whose one page lies in the stage tier. Marking object 5 as used at time 0 leaves its first entry the default,
and so takes both entries out of the table. -/
def twiceListed : State :=
  { boot := { stage := .ready }
    ptns := [(0,
      { figure := some {}
        units := { plans := [(0, some onePlan)] }
        mem := { objs := [(5, {}), (5, { st := .valid, pages := 1 })], pages := [(pageKey 5 0, { t0 := some 0 })] }
        fe := { run := some oneRun }
        batches := [(0, { step := some {}, segs := [⟨0, 1, some 0, false, none, false, 0, 0⟩] })] })]
    adapters := [(0, { st := .valid })] }

/-- The body lies in the stage tier before the gather. -/
theorem rangeT0_twiceListed : rangeT0 twiceListed 0 0 1 none = true := by decide

/-- The gather counts a cold source all the same. -/
theorem cold_twiceListed : ∀ t, exec (.gatherDone 0 0 (.piece 0 0)) twiceListed = .next t → (getAdapter t 0).cold = 1 := by
  intro t h
  have hcold : (match exec (.gatherDone 0 0 (.piece 0 0)) twiceListed with | .next t => (getAdapter t 0).cold | _ => 0) = 1 := by decide +kernel
  rw [h] at hcold
  exact hcold

/-- Refutes O33: the statement speaks of every state, and in one whose object table lists an object twice the gather of a piece counts a cold source
although the piece lay in the stage tier. No step leads to such a table; where its keys rise strictly, marking an object as used moves no object. -/
theorem not_gathersAndLateFetches : ¬ Obligations.GathersAndLateFetches := by
  rintro ⟨⟨hpiece, -⟩, -⟩
  obtain ⟨-, -, hclean⟩ := hpiece 0 0 0 0 0 onePlan onePiece oneRun twiceListed rfl rfl rfl rfl rfl rfl (by decide) rfl (by decide)
  obtain ⟨t, hexec, -, -, -, -, -, hadapter, -⟩ := hclean [] (by decide) (by decide) (by decide) (by decide)
  have hsame : getAdapter t 0 = getAdapter twiceListed 0 := hadapter.trans (if_pos rangeT0_twiceListed)
  have hcold : (getAdapter t 0).cold = 1 := cold_twiceListed t hexec
  rw [hsame] at hcold
  exact absurd hcold (by decide)

end Sys2Proof.Proofs
end

section
/-! PROOFS. Quotas, the KV pool's registers and a context's reserve (06 R192, R201; 07 R209, R232; 00 R9): what each write does once its access is
served, stored, refused with its flag, or ignored while the partition runs. -/
namespace Sys2Proof.Proofs
open Sys2Proof Sys2Proof.Machine Sys2Proof.Safety

/-! ### The commands' meanings -/

section
variable {s : State} {fn : FnId}

theorem exec_quotaWrite (p : PtnId) (t2 : Bool) (v : Word) (h : Served s fn (fn.val == 0) false) :
    exec (.quotaWrite fn p t2 v) s = .next (writeQuota p.val (if t2 then 2 else 1) v.toNat s) := by
  obtain ⟨hopen, hsees, hup⟩ := h
  exact congrArg Host.Outcome.next (hostAccess_served _ hopen hsees hup)

theorem exec_poolWrite {p : PtnId} (r : PoolReg) (v : Word) (h : Served s fn (seesPtn s fn.val p.val) false) :
    exec (.poolWrite fn p r v) s = .next (writePool fn.val p.val r v.toNat s) := by
  obtain ⟨hopen, hsees, hup⟩ := h
  exact congrArg Host.Outcome.next (hostAccess_served _ hopen hsees hup)

theorem exec_reserveWrite {c : CtxId} (v : Word) (h : Served s fn (seesCtx s fn.val c.val) false) :
    exec (.reserveWrite fn c v) s = .next (writeReserve fn.val c.val v.toNat s) := by
  obtain ⟨hopen, hsees, hup⟩ := h
  exact congrArg Host.Outcome.next (hostAccess_served _ hopen hsees hup)

end

/-! ### Locked registers (00 R9) -/

/-- A write of an RWL register of a running partition sets CFG_WR_IGNORED of the function that wrote it, and nothing else. -/
theorem flagLocked_flags (fn : Nat) (s : State) :
    flagLocked fn s = { s with fns := (flagLocked fn s).fns } ∧ getFn (flagLocked fn s) fn = { getFn s fn with cfgWrIgnored := true } ∧
      ∀ f, f ≠ fn → getFn (flagLocked fn s) f = getFn s f :=
  ⟨rfl, getFn_modFn_self .., fun _ hf => getFn_modFn_ne s _ hf⟩

/-! ### Quotas (07 R209, R232) -/

/-- The memory block after a quota write of `v` for tier `t`: the quota taken, or refused below the use or above what the others leave. -/
def quotaWritten (s : State) (p t v : Nat) (m : PMem) : PMem :=
  if v < tierUse s p t ∨ tierTotal t < ((s.ptns.filter fun e => e.1 != p).map fun e => quotaOf t e.2.mem).sum + v then { m with quotaRefused := true }
  else if t = 1 then { m with t1Quota := v } else { m with t2Quota := v }

theorem writeQuota_eq (p t v : Nat) (s : State) :
    writeQuota p t v s = modPMem p (quotaWritten s p t (v % 2 ^ (if t = 1 then 24 else 27))) s := by
  have hbranch {refused : Prop} [Decidable refused] (f g : PMem → PMem) :
      (if refused then modPMem p f s else modPMem p g s) = modPMem p (fun m => if refused then f m else g m) s := by
    by_cases h : refused <;> simp only [h, if_true, if_false]
  exact hbranch _ _

/-! ### The KV page pool (06 R201) -/

/-- A pool register takes a value. -/
def poolSet (r : PoolReg) (v : Nat) (a : Att) : Att :=
  match r with
  | .baseLo => { a with poolBase := pair v (a.poolBase / 2 ^ 32) }
  | .baseHi => { a with poolBase := pair a.poolBase v }
  | .pages => { a with poolPages := v % 2 ^ 24 }

section
variable {s : State} {p : Nat}

theorem writePool_locked (fn : Nat) (r : PoolReg) (v : Nat) (hruns : ptnRuns (getPtn s p) = true) : writePool fn p r v s = flagLocked fn s :=
  if_pos hruns

theorem writePool_busy (fn : Nat) (r : PoolReg) (v : Nat) (hruns : ptnRuns (getPtn s p) = false) (hused : (getPtn s p).att.poolUsed ≠ []) :
    writePool fn p r v s = modAtt p (fun a => { a with poolBusy := true }) s := by
  simp only [writePool, hruns, Bool.false_eq_true, if_false, if_pos hused]

/-- Where pages have their copies does not depend on the attention block. -/
theorem rangeNear_modAtt (g : Att → Att) (q a n : Nat) : rangeNear (modAtt p g s) q a n = rangeNear s q a n := by
  have hmem : (getPtn (modAtt p g s) q).mem = (getPtn s q).mem := by
    rw [modAtt_eq, getPtn_modPtn]; split
    · next h => rw [h]
    · rfl
  simp only [rangeNear, objAt, mappedObjs, getPage, hmem]

/-- A pool lies on 64 KiB, and near its partition unless it is empty. -/
def PoolPlaced (s : State) (p : Nat) (a : Att) : Prop :=
  a.poolBase % 65536 = 0 ∧ (a.poolPages = 0 ∨ rangeNear s p a.poolBase (a.poolPages * pageBytes) = true)

theorem poolMisplaced_modAtt {g : Att → Att} (h : PoolPlaced s p (g (getPtn s p).att)) : poolMisplaced (modAtt p g s) p = false := by
  obtain ⟨hbase, hnear⟩ := h
  have hatt : (getPtn (modAtt p g s) p).att = g (getPtn s p).att := by rw [modAtt_eq, getPtn_modPtn_self]
  simp only [poolMisplaced, rangeNear_modAtt, hatt, hbase]
  rcases hnear with h | h <;> simp [h]

/-- A stopped partition's pool that holds no page takes the value where its place stays good. -/
theorem writePool_takes (fn : Nat) (r : PoolReg) (v : Nat) (hruns : ptnRuns (getPtn s p) = false) (hused : (getPtn s p).att.poolUsed = [])
    (hplaced : PoolPlaced s p (poolSet r v (getPtn s p).att)) : writePool fn p r v s = modAtt p (poolSet r v) s := by
  have hfree : ¬ (getPtn s p).att.poolUsed ≠ [] := fun h => h hused
  have hmis := poolMisplaced_modAtt hplaced
  cases r <;> simp only [writePool, hruns, Bool.false_eq_true, if_false, if_neg hfree] <;> exact if_neg (by simpa [poolSet] using hmis)

end

/-- What a change of a partition's attention block leaves. -/
theorem modAtt_changes (p : Nat) (g : Att → Att) (s : State) :
    modAtt p g s = { s with ptns := (modAtt p g s).ptns } ∧ OtherPtns p s (modAtt p g s) ∧
      getPtn (modAtt p g s) p = { getPtn s p with att := g (getPtn s p).att } :=
  ⟨rfl, otherPtns_modPtn p _ s, getPtn_modPtn_self ..⟩

/-! ### The KV reserve (06 R192) -/

/-- The reserves of a partition's other contexts. -/
def otherReserves (s : State) (c : Nat) : Nat := (((ctxsOf s (getCtx s c).ptn).filter fun d => d != c).map fun d => (getCtx s d).reserve).sum

section
variable {s : State} {c : Nat} (fn v : Nat) (hst : (getCtx s c).st ≠ .disabled)
include hst

theorem writeReserve_locked (hruns : ptnRuns (getPtn s (getCtx s c).ptn) = true) : writeReserve fn c v s = flagLocked fn s := by
  simp only [writeReserve, if_neg hst, hruns, if_true]

theorem writeReserve_takes (hruns : ptnRuns (getPtn s (getCtx s c).ptn) = false)
    (hroom : v % 2 ^ 24 + otherReserves s c ≤ (getPtn s (getCtx s c).ptn).att.poolPages) :
    writeReserve fn c v s = modCtx c (fun x => { x with reserve := v % 2 ^ 24 }) s := by
  simp only [writeReserve, if_neg hst, hruns, Bool.false_eq_true, if_false]
  exact if_neg (Nat.not_lt.mpr hroom)

theorem writeReserve_refused (hruns : ptnRuns (getPtn s (getCtx s c).ptn) = false)
    (hover : (getPtn s (getCtx s c).ptn).att.poolPages < v % 2 ^ 24 + otherReserves s c) :
    writeReserve fn c v s = modAtt (getCtx s c).ptn (fun a => { a with resRefused := true }) s := by
  simp only [writeReserve, if_neg hst, hruns, Bool.false_eq_true, if_false]
  exact if_pos hover

end

/-- Settles O13: each access is served, so it reaches the one write of its register, which is stored, refused or locked by the branch that applies. -/
theorem quotaPoolReserveAndLockedWrites : Obligations.QuotaPoolReserveAndLockedWrites := by
  refine ⟨⟨?quota, ?pages, ?base, ?busy, ?reserve, ?refused⟩, ?poolLocked, ?reserveLocked⟩
  case quota =>
    intro fn p t2 v s h
    refine ⟨_, exec_quotaWrite p t2 v h, ?_⟩
    rw [writeQuota_eq]
    refine ⟨rfl, otherPtns_modPtn _ _ s, ?_⟩
    rw [modPMem_eq, getPtn_modPtn_self]
    cases t2 <;> rfl
  case pages =>
    intro fn p v s h hruns hused hbase hnear
    have hplaced : PoolPlaced s p.val (poolSet .pages v.toNat (getPtn s p.val).att) := ⟨hbase, hnear⟩
    refine ⟨_, exec_poolWrite .pages v h, ?_⟩
    rw [writePool_takes _ _ _ hruns hused hplaced]
    exact modAtt_changes ..
  case base =>
    intro fn p hi v s h hruns hused hempty b hb
    have hset : poolSet (if hi then .baseHi else .baseLo) v.toNat (getPtn s p.val).att = { (getPtn s p.val).att with poolBase := b } := by
      cases hi <;> rfl
    have hplaced : PoolPlaced s p.val (poolSet (if hi then .baseHi else .baseLo) v.toNat (getPtn s p.val).att) := by
      rw [hset]; exact ⟨hb, .inl hempty⟩
    refine ⟨_, exec_poolWrite _ v h, ?_⟩
    rw [writePool_takes _ _ _ hruns hused hplaced, ← hset]
    exact modAtt_changes ..
  case busy =>
    intro fn p r v s h hruns hused
    refine ⟨_, exec_poolWrite r v h, ?_⟩
    rw [writePool_busy _ _ _ hruns hused]
    exact modAtt_changes ..
  case reserve =>
    intro fn c v s h hst hruns hroom
    refine ⟨_, exec_reserveWrite v h, ?_⟩
    rw [writeReserve_takes _ _ hst hruns hroom]
    exact ⟨rfl, fun d hd => getCtx_modCtx_ne s _ hd, getCtx_modCtx_self ..⟩
  case refused =>
    intro fn c v s h hst hruns hover
    refine ⟨_, exec_reserveWrite v h, ?_⟩
    rw [writeReserve_refused _ _ hst hruns hover]
    obtain ⟨hframe, -, hptn⟩ := modAtt_changes (getCtx s c.val).ptn (fun a => { a with resRefused := true }) s
    exact ⟨hframe, hptn⟩
  case poolLocked =>
    intro fn p r v s h hruns
    exact ⟨_, exec_poolWrite r v h, by rw [writePool_locked _ _ _ hruns]; exact flagLocked_flags fn.val s⟩
  case reserveLocked =>
    intro fn c v s h hst hruns
    exact ⟨_, exec_reserveWrite v h, by rw [writeReserve_locked _ _ hst hruns]; exact flagLocked_flags fn.val s⟩

end Sys2Proof.Proofs
end

section
/-! PROOFS. Page tables, the KV page pool and what RECOMPUTE and KV_RELEASE make of them (06 R188, R193-R198): what writing the range, returning
pages, allocating blocks and ending figure work leave as it was, and the ends of a chunk and of a release. -/
namespace Sys2Proof.Proofs
open Sys2Proof Sys2Proof.Machine Sys2Proof.Safety

/-! ### Bytes of a partition's range are written (07 R211, R212) -/

/-- Only memory and the page map of partition `p` changed. -/
structure RangeWritten (p : Nat) (s t : State) : Prop where
  frame  : t = { s with ptns := t.ptns, mem := t.mem }
  others : OtherPtns p s t
  own    : getPtn t p = { getPtn s p with mem := (getPtn t p).mem }

section
variable {p : Nat} {s t u : State}

theorem RangeWritten.refl (p : Nat) (s : State) : RangeWritten p s s := ⟨rfl, fun _ _ => rfl, rfl⟩

theorem RangeWritten.trans (h : RangeWritten p s t) (k : RangeWritten p t u) : RangeWritten p s u :=
  ⟨by rw [k.frame, h.frame], fun q hq => (k.others q hq).trans (h.others q hq), by rw [k.own, h.own]⟩

theorem RangeWritten.foldl {α : Type} {f : State → α → State} (hf : ∀ s a, RangeWritten p s (f s a)) :
    ∀ (l : List α) (s : State), RangeWritten p s (l.foldl f s)
  | [], s => .refl p s
  | a :: l, s => (hf s a).trans (RangeWritten.foldl hf l (f s a))

theorem RangeWritten.rings (h : RangeWritten p s t) : t.rings = s.rings := by rw [h.frame]

theorem RangeWritten.fe (h : RangeWritten p s t) : (getPtn t p).fe = (getPtn s p).fe := by rw [h.own]

theorem RangeWritten.pwr (h : RangeWritten p s t) : (getPtn t p).pwr = (getPtn s p).pwr := by rw [h.own]

end

theorem rangeWritten_writePart (p a : Nat) (bs : List Byte) (poison : Bool) (s : State) : RangeWritten p s (writePart p a bs poison s) := by
  simp only [writePart]
  split
  · exact .refl p s
  · exact ⟨rfl, fun q hq => getPtn_modPtn_ne _ _ hq, by rw [modPage, modPMem_eq, getPtn_modPtn_self]; rfl⟩

theorem rangeWritten_writeRange (p a : Nat) (bs : List Byte) (poison : Bool) (s : State) : RangeWritten p s (writeRange p a bs poison s) :=
  .foldl (fun s _ => rangeWritten_writePart p _ _ poison s) _ s

theorem rangeWritten_modTab (p a : Nat) (g : KvTab → KvTab) (s : State) : RangeWritten p s (modTab p a g s) := rangeWritten_writeRange p _ _ _ s

theorem rangeWritten_writeEnt (p a e w : Nat) (s : State) : RangeWritten p s (writeEnt p a e w s) := rangeWritten_writeRange p _ _ _ s

/-! ### Pages return to the pool (06 R194, R195, R198) -/

theorem mem_of_mem_ndel {n i : Nat} {l : NSet} (h : i ∈ ndel n l) : i ∈ l := by
  have hhas : nhas (ndel n l) i = true := by simpa [nhas] using h
  rw [nhas_ndel] at hhas
  simpa [nhas] using (Bool.and_eq_true_iff.1 hhas).1

/-- Context `c` of partition `p` holds `n` pages fewer, and no page joined those in use; beside these only the range was written. -/
structure Returned (p c n : Nat) (s t : State) : Prop where
  frame     : t = { s with ptns := t.ptns, ctxs := t.ctxs, mem := t.mem }
  others    : OtherPtns p s t
  own       : getPtn t p = { getPtn s p with mem := (getPtn t p).mem, att := { (getPtn s p).att with poolUsed := (getPtn t p).att.poolUsed } }
  used      : ∀ i ∈ (getPtn t p).att.poolUsed, i ∈ (getPtn s p).att.poolUsed
  otherCtxs : OtherCtxs c s t
  held      : getCtx t c = { getCtx s c with held := (getCtx s c).held - n }

section
variable {p c n m : Nat} {s t u : State}

theorem Returned.trans (h : Returned p c n s t) (k : Returned p c m t u) : Returned p c (n + m) s u where
  frame     := by rw [k.frame, h.frame]
  others    := fun q hq => (k.others q hq).trans (h.others q hq)
  own       := by rw [k.own, h.own]
  used      := fun i hi => h.used i (k.used i hi)
  otherCtxs := fun d hd => (k.otherCtxs d hd).trans (h.otherCtxs d hd)
  held      := by rw [k.held, h.held, Nat.sub_sub]

theorem RangeWritten.returned (h : RangeWritten p s t) (c : Nat) : Returned p c 0 s t where
  frame     := by rw [h.frame]
  others    := h.others
  own       := by rw [h.own]
  used      := fun i hi => by rwa [h.own] at hi
  otherCtxs := fun d _ => by rw [h.frame]; rfl
  held      := by rw [h.frame]; rfl

end

/-- One page leaves those in use and its context's count. -/
theorem returned_page (p c page : Nat) (s : State) :
    Returned p c 1 s (modCtx c (fun x => { x with held := x.held - 1 }) (modAtt p (fun x => { x with poolUsed := ndel page x.poolUsed }) s)) where
  frame     := rfl
  others    := fun q hq => by rw [getPtn_modCtx, modAtt_eq, getPtn_modPtn_ne _ _ hq]
  own       := by rw [getPtn_modCtx, modAtt_eq, getPtn_modPtn_self]
  used      := fun i hi => by
    rw [getPtn_modCtx, modAtt_eq, getPtn_modPtn_self] at hi
    exact mem_of_mem_ndel hi
  otherCtxs := fun d hd => by rw [getCtx_modCtx_ne _ _ hd, modAtt_eq, getCtx_modPtn]
  held      := by rw [getCtx_modCtx_self, modAtt_eq, getCtx_modPtn]

theorem returned_returnPages (p c a : Nat) (mark : Nat → Nat) :
    ∀ (es : List Nat) (s : State), Returned p c es.length s (returnPages p c a es mark s)
  | [], s => (RangeWritten.refl p s).returned c
  | e :: es, s => by
    have hpage := (returned_page p c (entPage (readEnt s p a e)) s).trans ((rangeWritten_writeEnt p a e (mark (readEnt s p a e)) _).returned c)
    have hrest := hpage.trans (returned_returnPages p c a mark es _)
    rwa [Nat.add_zero, Nat.add_comm, ← List.length_cons] at hrest

/-! ### KV_RELEASE (06 R198) -/

/-- Entries of the page table at `a` that hold pages. -/
def heldEnts (s : State) (p a : Nat) : List Nat :=
  (List.range ((readTab s p a).lh * (readTab s p a).blocks)).filter fun i => entValid (readEnt s p a i)

/-- The sequence's pages returned and its table cleared, before it leaves its context's list. -/
def clearedSeq (p c a : Nat) (s : State) : State :=
  modTab p a (fun t => { t with fill := 0, hasDrop := false })
    ((List.range ((readTab s p a).lh * (readTab s p a).blocks)).foldl (fun s e => writeEnt p a e 0 s)
      (returnPages p c a (heldEnts s p a) (fun _ => 0) s))

theorem releaseSeq_eq (p c a : Nat) (s : State) : releaseSeq p c a s =
    ((heldEnts s p a).length, modAtt p (fun x => { x with seqs := x.seqs.filter fun e => e.2 != a }) (clearedSeq p c a s)) := rfl

theorem returned_clearedSeq (p c a : Nat) (s : State) : Returned p c (heldEnts s p a).length s (clearedSeq p c a s) :=
  (returned_returnPages p c a _ (heldEnts s p a) s).trans
    (((RangeWritten.foldl (fun s e => rangeWritten_writeEnt p a e 0 s) _ _).trans (rangeWritten_modTab p a _ _)).returned c)

/-- Beside its ring and the write-back, a release changes partitions, contexts and memory only. -/
def ReleaseFrame (s t : State) : Prop :=
  t = { s with rings := t.rings, out := { s.out with hostMem := t.out.hostMem }, ptns := t.ptns, ctxs := t.ctxs, mem := t.mem }

section
variable {s : State} {e : Entry} {op : Nat}

theorem releaseFrame_endCmd {u : State} (h : u = { begun s e op with ptns := u.ptns, ctxs := u.ctxs, mem := u.mem }) (r i st res : Nat) :
    ReleaseFrame s (endCmd r i st res u) := by
  rw [ReleaseFrame, h, begun_frame]; rfl

theorem getPtn_begun (s : State) (e : Entry) (op p : Nat) : getPtn (begun s e op) p = getPtn s p := by rw [begun_frame]; rfl

theorem getCtx_begun (s : State) (e : Entry) (op c : Nat) : getCtx (begun s e op) c = getCtx s c := by rw [begun_frame]; rfl

theorem getPtn_endCmd (r i st res : Nat) (s : State) (p : Nat) : getPtn (endCmd r i st res s) p = getPtn s p := rfl

theorem readTab_begun (s : State) (e : Entry) (op p a : Nat) : readTab (begun s e op) p a = readTab s p a := by rw [begun_frame]; rfl

theorem heldEnts_begun (s : State) (e : Entry) (op p a : Nat) : heldEnts (begun s e op) p a = heldEnts s p a := by rw [begun_frame]; rfl

theorem tableMine_begun (s : State) (e : Entry) (op : Nat) (c : Cmd) (a : Nat) : tableMine (begun s e op) c a = tableMine s c a := by
  rw [begun_frame]; rfl

theorem rowNames_begun (s : State) (e : Entry) (op p a : Nat) : rowNames (begun s e op) p a = rowNames s p a := by rw [begun_frame]; rfl

end

theorem exec_kvRelease {s : State} {e : Entry} (h : Runs s e 0x29) :
    exec (.kvRelease e) s = .next (kvReleaseGo (newCmd s e 0x29) (begun s e 0x29)) :=
  congrArg Host.Outcome.next (runEntry_begun h kvReleaseGo)

section
variable {s : State} {c : Cmd}

theorem kvReleaseGo_foreign (h : tableMine s c (opd c.ops 2) = false) : kvReleaseGo c s = endCmd c.ring c.idx 0x0D 0 s := by
  simp only [kvReleaseGo, h, Bool.not_false, if_true]

theorem kvReleaseGo_inUse (hmine : tableMine s c (opd c.ops 2) = true)
    (h : (rowNames s c.ptn (opd c.ops 2) || (readTab s c.ptn (opd c.ops 2)).recomputing) = true) :
    kvReleaseGo c s = endCmd c.ring c.idx 7 0 s := by
  simp only [kvReleaseGo, hmine, h, Bool.not_true, Bool.false_eq_true, if_false, if_true]

theorem kvReleaseGo_releases (hmine : tableMine s c (opd c.ops 2) = true)
    (h : (rowNames s c.ptn (opd c.ops 2) || (readTab s c.ptn (opd c.ops 2)).recomputing) = false) :
    kvReleaseGo c s = endCmd c.ring c.idx 0 (heldEnts s c.ptn (opd c.ops 2)).length
      (modAtt c.ptn (fun x => { x with seqs := x.seqs.filter fun q => q.2 != opd c.ops 2 }) (clearedSeq c.ptn c.ctx (opd c.ops 2) s)) := by
  simp only [kvReleaseGo, hmine, h, Bool.not_true, Bool.false_eq_true, if_false, releaseSeq_eq]

end

/-- What a release leaves: the command ended with the pages' number, its context's count lower by them, and its sequence off the list. -/
theorem kvRelease_releases {s : State} {e : Entry} (h : Runs s e 0x29) {u t : State} {p c a n : Nat} (hback : Returned p c n (begun s e 0x29) u)
    (ht : t = endCmd (newCmd s e 0x29).ring (newCmd s e 0x29).idx 0 n (modAtt p (fun x => { x with seqs := x.seqs.filter fun q => q.2 != a }) u)) :
    ReleaseFrame s t ∧ Ended s t e 0x29 0 n ∧ OtherPtns p s t ∧ OtherCtxs c s t ∧
      getCtx t c = { getCtx s c with held := (getCtx s c).held - n } ∧ (getPtn t p).att.seqs = (getPtn s p).att.seqs.filter (fun q => q.2 != a) ∧
      ∀ i ∈ (getPtn t p).att.poolUsed, i ∈ (getPtn s p).att.poolUsed := by
  have hptn : getPtn t p = { getPtn u p with att := { (getPtn u p).att with seqs := (getPtn u p).att.seqs.filter fun q => q.2 != a } } := by
    rw [ht, getPtn_endCmd, modAtt_eq, getPtn_modPtn_self]
  have hctx (d : Nat) : getCtx t d = getCtx u d := by rw [ht]; rfl
  refine ⟨?frame, ?ended, ?others, ?otherCtxs, ?held, ?seqs, ?used⟩
  case frame =>
    rw [ht]
    exact releaseFrame_endCmd (by rw [modAtt_eq, hback.frame]; rfl) ..
  case ended =>
    have hstarted : Started s (modAtt p (fun x => { x with seqs := x.seqs.filter fun q => q.2 != a }) u) e (newCmd s e 0x29) :=
      started_of_rings (started_begun s e 0x29) (by rw [modAtt_eq, modPtn_rings, hback.frame]) (by rw [modAtt_eq, modPtn_out, hback.frame])
    rw [ht]
    exact ended_of_started h hstarted 0 n
  case others =>
    intro q hq
    rw [ht, getPtn_endCmd, modAtt_eq, getPtn_modPtn_ne _ _ hq, hback.others q hq, getPtn_begun]
  case otherCtxs =>
    intro d hd
    rw [hctx, hback.otherCtxs d hd, getCtx_begun]
  case held => rw [hctx, hback.held, getCtx_begun]
  case seqs => rw [hptn, hback.own, getPtn_begun]
  case used =>
    intro i hi
    rw [hptn] at hi
    rw [← getPtn_begun s e 0x29]
    exact hback.used i hi

/-! ### Blocks are allocated (06 R193-R195, R197) -/

/-- Only partitions, contexts, memory and the free draws changed, and of partition `p` its attention block and its memory block. -/
structure KvMoved (p : Nat) (s t : State) : Prop where
  frame : t = { s with ptns := t.ptns, ctxs := t.ctxs, mem := t.mem, free := t.free }
  own   : getPtn t p = { getPtn s p with att := (getPtn t p).att, mem := (getPtn t p).mem }

section
variable {p : Nat} {s t u : State}

theorem KvMoved.refl (p : Nat) (s : State) : KvMoved p s s := ⟨rfl, rfl⟩

theorem KvMoved.trans (h : KvMoved p s t) (k : KvMoved p t u) : KvMoved p s u := ⟨by rw [k.frame, h.frame], by rw [k.own, h.own]⟩

theorem KvMoved.foldl {α : Type} {f : State → α → State} (hf : ∀ s a, KvMoved p s (f s a)) : ∀ (l : List α) (s : State), KvMoved p s (l.foldl f s)
  | [], s => .refl p s
  | a :: l, s => (hf s a).trans (KvMoved.foldl hf l (f s a))

theorem KvMoved.rings (h : KvMoved p s t) : t.rings = s.rings := by rw [h.frame]

theorem KvMoved.fe (h : KvMoved p s t) : (getPtn t p).fe = (getPtn s p).fe := by rw [h.own]

theorem RangeWritten.kvMoved (h : RangeWritten p s t) : KvMoved p s t := ⟨by rw [h.frame], by rw [h.own]⟩

theorem Returned.kvMoved {c n : Nat} (h : Returned p c n s t) : KvMoved p s t := ⟨by rw [h.frame], by rw [h.own]⟩

end

theorem kvMoved_modAtt (p : Nat) (g : Att → Att) (s : State) : KvMoved p s (modAtt p g s) := ⟨rfl, by rw [modAtt_eq, getPtn_modPtn_self]⟩

theorem kvMoved_modCtx (p c : Nat) (g : Ctx → Ctx) (s : State) : KvMoved p s (modCtx c g s) := ⟨rfl, rfl⟩

theorem kvMoved_drawChoice (p n : Nat) (s : State) : KvMoved p s (drawChoice n s).2 := ⟨rfl, rfl⟩

theorem kvMoved_leaveList (p a : Nat) (s : State) : KvMoved p s (leaveList p a s) := by
  unfold leaveList
  split
  · exact .refl p s
  · exact kvMoved_modAtt p _ s

theorem kvMoved_dropBlock (p c a b : Nat) (s : State) : KvMoved p s (dropBlock p c a b s) := by
  simp only [dropBlock]
  refine KvMoved.trans ?_ (kvMoved_modAtt p _ _)
  refine KvMoved.trans ?_ (kvMoved_modCtx p c _ _)
  refine KvMoved.trans ?_ (rangeWritten_modTab p a _ _).kvMoved
  exact (returned_returnPages p c a dropMark _ s).kvMoved.trans (kvMoved_leaveList p a _)

theorem kvMoved_makeRoom (p c a n : Nat) (fresh : List Nat) : ∀ (fuel : Nat) (s : State), KvMoved p s (makeRoom fuel p c a n fresh s).2
  | 0, s => .refl p s
  | fuel + 1, s => by
    simp only [makeRoom]
    split
    · exact .refl p s
    · split
      · exact .refl p s
      · exact (kvMoved_dropBlock p c _ _ s).trans (kvMoved_makeRoom p c a n fresh fuel _)

theorem kvMoved_takeKvPage (p a : Nat) (s : State) (e : Nat) : KvMoved p s (takeKvPage p a s e) := by
  refine KvMoved.trans ?_ (rangeWritten_writeEnt p a e _ _).kvMoved
  exact (kvMoved_drawChoice p (poolFree (getPtn s p).att) s).trans (kvMoved_modAtt p _ _)

theorem kvMoved_allocBlock (p c a b : Nat) (fresh : List Nat) (s : State) : KvMoved p s (allocBlock p c a b fresh s).2 := by
  simp only [allocBlock]
  split
  · exact .refl p s
  · have hroom := kvMoved_makeRoom p c a (blockGaps s p a b).length fresh ((getPtn s p).att.poolUsed.length + 1) s
    split
    · next h => rwa [h] at hroom
    · next h =>
      rw [h] at hroom
      dsimp only
      refine KvMoved.trans ?_ (kvMoved_modAtt p _ _)
      refine KvMoved.trans ?_ (kvMoved_modCtx p c _ _)
      exact hroom.trans (.foldl (kvMoved_takeKvPage p a) _ _)

theorem kvMoved_allocBlocks (p c a : Nat) (fresh : List Nat) : ∀ (bs : List Nat) (s : State), KvMoved p s (allocBlocks p c a fresh bs s).2
  | [], s => .refl p s
  | b :: bs, s => by
    have hblock := kvMoved_allocBlock p c a b fresh s
    simp only [allocBlocks]
    split
    · next h =>
      rw [h] at hblock
      exact hblock.trans (kvMoved_allocBlocks p c a fresh bs _)
    · next h => rwa [h] at hblock

theorem kvMoved_nextChunk (p : Nat) (k : Cmd) (s : State) : KvMoved p s (nextChunk p k s).2.2 := by
  simp only [nextChunk]
  split
  · exact .refl p s
  · split
    · exact .refl p s
    · split <;> next h => exact (congrArg Prod.snd h) ▸ kvMoved_allocBlocks ..

/-! ### Figure work ends (08 R251, R252) -/

section
variable {p : Nat} {s : State}

/-- The running command's slice is closed: only its engine's slice and contexts changed. -/
theorem bookOverrun_keeps (p : Nat) (s : State) :
    (bookOverrun p s).rings = s.rings ∧ (bookOverrun p s).mem = s.mem ∧ (getPtn (bookOverrun p s) p).pwr = (getPtn s p).pwr := by
  simp only [bookOverrun]
  split
  · refine ⟨rfl, rfl, ?_⟩
    rw [modFe_eq, getPtn_modPtn_self, getPtn_modCtx]
  · exact ⟨rfl, rfl, rfl⟩

/-- Work that is over leaves an engine that does not park: the engine runs nothing, and no ring and no memory changes. -/
theorem leaveEngine_leaves (h : (getPtn s p).pwr.parkWant = false) :
    (leaveEngine p s).rings = s.rings ∧ (leaveEngine p s).mem = s.mem ∧ (getPtn (leaveEngine p s) p).fe.run = none := by
  simp only [leaveEngine, modFe_eq, getPtn_modPtn_self, h, Bool.false_eq_true, if_false]
  split
  · exact ⟨rfl, rfl, by rw [getPtn_modPtn_self, getPtn_modPtn_self]⟩
  · exact ⟨rfl, rfl, by rw [getPtn_modPtn_self]⟩

/-- A command after its work has ended. -/
def endedWith (st res : Nat) (k : Cmd) : Cmd := { k with phase := .done, status := st, result := w32 res, todo := [] }

theorem sameEntry_endedWith (st res : Nat) : SameEntry (endedWith st res) := ⟨fun _ => rfl, fun _ => rfl, fun _ => rfl, fun _ => rfl, fun _ => rfl⟩

theorem endWork_ends {r : Running} {k : Cmd} (st res : Nat) (hcmd : getCmd s r.ring r.idx = some k) (hpark : (getPtn s p).pwr.parkWant = false) :
    (getPtn (endWork p r st res s) p).fe.run = none ∧ (endWork p r st res s).mem = s.mem ∧
      getCmd (endWork p r st res s) r.ring r.idx = some (endedWith st res k) := by
  obtain ⟨hrings, hmem, hpwr⟩ := bookOverrun_keeps p s
  have hpark' : (getPtn (endCmd r.ring r.idx st res (bookOverrun p s)) p).pwr.parkWant = false := (congrArg PPwr.parkWant hpwr).trans hpark
  obtain ⟨hrings', hmem', hrun⟩ := leaveEngine_leaves hpark'
  have hended : getCmd (modCmd r.ring r.idx (endedWith st res) (bookOverrun p s)) r.ring r.idx = some (endedWith st res k) := by
    rw [getCmd_modCmd (sameEntry_endedWith st res), if_pos ⟨rfl, rfl⟩, getCmd_of_rings hrings, hcmd]; rfl
  exact ⟨hrun, hmem'.trans hmem, (getCmd_of_rings hrings' ..).trans hended⟩

end

/-! ### A chunk is done (06 R197) -/

theorem exec_recomputeChunkDone {p : PtnId} {s : State} (h : isReady s = true) : exec (.recomputeChunkDone p) s = .next (chunkDone p.val s) :=
  congrArg Host.Outcome.next (if_pos h)

/-- The running RECOMPUTE once a chunk of it is done. -/
def chunkCounted (r : Running) (ch : Nat × Nat) : Running :=
  { r with chunk := none, done := r.done + ch.2, units := r.units + 1, base := r.base + r.round, round := 0, late := [] }

/-- The sequence extended by the chunk, which its command counts. -/
def chunkTaken (s : State) (p : Nat) (r : Running) (ch : Nat × Nat) (a : Nat) : State :=
  modRun p (fun _ => chunkCounted r ch) (pastChunk s p a (ch.1 + ch.2))

theorem rangeWritten_pastChunk (s : State) (p a top : Nat) : RangeWritten p s (pastChunk s p a top) := by
  simp only [pastChunk]
  split
  · exact .refl p s
  · exact rangeWritten_modTab p a _ s

theorem rangeWritten_recomputeEnd (p a : Nat) (s : State) : RangeWritten p s (recomputeEnd p a s) := rangeWritten_modTab p a _ s

section
variable {s : State} {p : Nat} {r : Running} {ch : Nat × Nat} {k : Cmd}

theorem getPtn_modRun_self (p : Nat) (g : Running → Running) (s : State) :
    getPtn (modRun p g s) p = { getPtn s p with fe := { (getPtn s p).fe with run := (getPtn s p).fe.run.map g } } := getPtn_modPtn_self ..

/-- What taking a chunk keeps: the rings, and of the engine all but the running command. -/
theorem chunkTaken_keeps (hrun : (getPtn s p).fe.run = some r) (ch : Nat × Nat) (a : Nat) :
    (chunkTaken s p r ch a).rings = s.rings ∧ (getPtn (chunkTaken s p r ch a) p).pwr = (getPtn s p).pwr ∧
      (getPtn (chunkTaken s p r ch a) p).fe = { (getPtn s p).fe with run := some (chunkCounted r ch) } := by
  have hpast := rangeWritten_pastChunk s p a (ch.1 + ch.2)
  refine ⟨hpast.rings, ?_, ?_⟩
  · rw [chunkTaken, getPtn_modRun_self]; exact hpast.pwr
  · rw [chunkTaken, getPtn_modRun_self, hpast.fe, hrun]; rfl

/-- What follows a chunk that leaves positions missing: the next chunk, or the command's end where its blocks cannot be had. -/
def nextOrEnd (p : Nat) (k : Cmd) (r : Running) (s : State) : State :=
  match nextChunk p k s with
  | (some c, _, s) => modRun p (fun _ => { r with chunk := some c }) s
  | (none, ok, s) => endWork p r (if ok then 0 else 0x0E) r.done (endRecompute p (opd k.ops 2) s)

theorem nextOrEnd_next {c : Nat × Nat} {ok : Bool} {t : State} (r : Running) (h : nextChunk p k s = (some c, ok, t)) :
    nextOrEnd p k r s = modRun p (fun _ => { r with chunk := some c }) t := by
  simp only [nextOrEnd, h]

theorem giveWay_goesOn (go : State → State) (hmode : (getPtn s p).fe.mode = .run) (halone : alternate s p r = none) : giveWay p r go s = go s := by
  simp only [giveWay, hmode, halone]

/-- A chunk whose rounds are over, with no block late, is taken; RECOMPUTE ends with it, or gives way or goes on. -/
theorem chunkDone_taken (hrun : (getPtn s p).fe.run = some r) (hchunk : r.chunk = some ch) (hcmd : getCmd s r.ring r.idx = some k)
    (hop : r.opcode = 0x28) (hserves : feRuns (getPtn s p).fe = true) (hrounds : ceilDiv ch.2 (chunkPerRound s p) ≤ r.round) (hlate : r.late = [])
    (hstays : inTransit s p (opd k.ops 2) 64 = false) :
    chunkDone p s =
      if (readTab (chunkTaken s p r ch (opd k.ops 2)) p (opd k.ops 2)).logLen ≤ ch.1 + ch.2 + 1 then
        endWork p (chunkCounted r ch) 0 (r.done + ch.2) (recomputeEnd p (opd k.ops 2) (chunkTaken s p r ch (opd k.ops 2)))
      else giveWay p (chunkCounted r ch) (nextOrEnd p k (chunkCounted r ch)) (chunkTaken s p r ch (opd k.ops 2)) := by
  have hgo : ¬ (r.opcode ≠ 0x28 ∨ feRuns (getPtn s p).fe = false ∨ r.round < ceilDiv ch.2 (chunkPerRound s p) ∨ inTransit s p (opd k.ops 2) 64 = true) := by
    simp [hop, hserves, hrounds, hstays]
  simp only [chunkDone, hrun, hchunk, hcmd, if_neg hgo, hlate, List.map_nil, List.eraseDups_nil, List.foldl_nil, and_true]
  rfl

end

/-- Settles O35: a chunk's end is that of its work or the next chunk on the same command, and a release returns its pages one by one. -/
theorem recomputeAndReleaseEndWithTheirCounts : Obligations.RecomputeAndReleaseEndWithTheirCounts := by
  refine ⟨fun p r ch k s hready hrun hchunk hcmd hop hserves hrounds hlate hstays => ⟨?ends, ?goesOn⟩, fun e s h => ⟨?foreign, ?inUse, ?releases⟩⟩
  case ends =>
    intro hall hpark
    obtain ⟨hrings, hpwr, -⟩ := chunkTaken_keeps hrun ch (opd k.ops 2)
    have hend := rangeWritten_recomputeEnd p.val (opd k.ops 2) (chunkTaken s p.val r ch (opd k.ops 2))
    have hdone := (chunkDone_taken hrun hchunk hcmd hop hserves hrounds hlate hstays).trans (if_pos hall)
    refine ⟨_, exec_recomputeChunkDone hready, ?_⟩
    rw [hdone]
    exact endWork_ends (r := chunkCounted r ch) 0 (r.done + ch.2) ((getCmd_of_rings (hend.rings.trans hrings) ..).trans hcmd)
      (by rw [hend.pwr, hpwr, hpark])
  case goesOn =>
    intro c t hmore hmode halone hnext
    obtain ⟨hrings, -, hfe⟩ := chunkTaken_keeps hrun ch (opd k.ops 2)
    have hnext : nextChunk p.val k (chunkTaken s p.val r ch (opd k.ops 2)) = (some c, true, t) := hnext
    have hmoved : KvMoved p.val (chunkTaken s p.val r ch (opd k.ops 2)) t := by
      have h := kvMoved_nextChunk p.val k (chunkTaken s p.val r ch (opd k.ops 2))
      rwa [hnext] at h
    have hdone : chunkDone p.val s = modRun p.val (fun _ => { chunkCounted r ch with chunk := some c }) t :=
      calc chunkDone p.val s
        _ = giveWay p.val (chunkCounted r ch) (nextOrEnd p.val k (chunkCounted r ch)) (chunkTaken s p.val r ch (opd k.ops 2)) :=
          (chunkDone_taken hrun hchunk hcmd hop hserves hrounds hlate hstays).trans (if_neg (Nat.not_le.mpr hmore))
        _ = nextOrEnd p.val k (chunkCounted r ch) (chunkTaken s p.val r ch (opd k.ops 2)) := giveWay_goesOn _ (by rw [hfe]; exact hmode) halone
        _ = modRun p.val (fun _ => { chunkCounted r ch with chunk := some c }) t := nextOrEnd_next _ hnext
    refine ⟨_, exec_recomputeChunkDone hready, ?_⟩
    rw [hdone]
    refine ⟨?_, (getCmd_of_rings (hmoved.rings.trans hrings) ..).trans hcmd⟩
    rw [getPtn_modRun_self, hmoved.fe, hfe]; rfl
  case foreign =>
    intro hforeign
    refine ⟨_, exec_kvRelease h, ?_⟩
    exact only_ends h 0x0D 0 (kvReleaseGo_foreign ((tableMine_begun ..).trans hforeign))
  case inUse =>
    intro hmine huse
    refine ⟨_, exec_kvRelease h, ?_⟩
    refine only_ends h 7 0 (kvReleaseGo_inUse ((tableMine_begun ..).trans hmine) ?_)
    rw [rowNames_begun, readTab_begun]; exact huse
  case releases =>
    intro hmine hfree
    refine ⟨_, exec_kvRelease h, ?_⟩
    have hgo := kvReleaseGo_releases (c := newCmd s e 0x29) ((tableMine_begun s e 0x29 ..).trans hmine)
      (by rw [rowNames_begun, readTab_begun]; exact hfree)
    have hback := returned_clearedSeq (newCmd s e 0x29).ptn (newCmd s e 0x29).ctx (opd e.ops 2) (begun s e 0x29)
    rw [heldEnts_begun] at hgo hback
    exact kvRelease_releases h hback hgo

end Sys2Proof.Proofs
end
section
/-! PROOFS. What every command keeps: the canonical form of the memories and the pending set (07 R203; 12 R363; 11 R358; 14 R404), the queue, the
fuses' bits, and, unless the command configures events, the event set-up. One lemma per operation of the model, in the model's order, each
following its definition; the whole machine's statements each take one part of the last one. -/
namespace Sys2Proof.Proofs
open Sys2Proof Sys2Proof.Machine Sys2Proof.Safety

-- The lemmas are many and short: elaborated one after the other, they need no thread each.
set_option Elab.async false

/-! ### What a step keeps -/

/-- The three tiers' bytes are in canonical form. -/
def MemWf (m : MemUnit) : Prop := Memory.wf m.t0 = true ∧ Memory.wf m.t1 = true ∧ Memory.wf m.t2 = true

/-- Between two states memories and the pending set stay canonical, the queue is the same, fuses only grow, and the event set-up is the same
unless `cfg` says that it may change. -/
structure Keeps (cfg : Bool) (s t : State) : Prop where
  canonical : canonical s → canonical t
  pending   : t.pending = s.pending
  fuses     : fusesGrow s.fuses t.fuses
  setup     : cfg = false → sameEventSetup s t

/-- An outcome is a next state, which keeps that of `s`. -/
def Answers (cfg : Bool) (s : State) (o : Host.Outcome State Fault Refusal) : Prop := ∃ t, o = .next t ∧ Keeps cfg s t

/-- What the canonical form speaks of: the tiers, the firmware's memories, the snapshot, the host's memory, and the pending set. -/
abbrev written (s : State) : (Memory × Memory × Memory) × (Memory × Memory × Memory) × Memory × Memory × NSet :=
  ((s.mem.t0, s.mem.t1, s.mem.t2), (s.boot.flash, s.boot.sram, s.boot.upload), s.flt.snap, s.out.hostMem, s.evc.pend)

/-- The other parts that `Keeps` speaks of: the event set-up, the queue and the fuses. -/
abbrev settled (s : State) : NSet × Tbl SrcCfg × Tbl Nat × List Instr × Fuses := (s.evc.unmasked, s.evc.src, s.evc.vfVec, s.pending, s.fuses)

/-- The canonical form of the written parts. -/
def WrittenWf : (Memory × Memory × Memory) × (Memory × Memory × Memory) × Memory × Memory × NSet → Prop
  | ((t0, t1, t2), (flash, sram, upload), snap, hostMem, pend) =>
    Memory.wf t0 = true ∧ Memory.wf t1 = true ∧ Memory.wf t2 = true ∧ Memory.wf flash = true ∧ Memory.wf sram = true ∧ Memory.wf upload = true ∧
    Memory.wf snap = true ∧ Memory.wf hostMem = true ∧ pend.Pairwise (· < ·)

theorem canonical_iff (s : State) : canonical s ↔ WrittenWf (written s) := Iff.rfl

theorem fusesGrow_refl (f : Fuses) : fusesGrow f f := ⟨id, fun _ => id, fun _ => id, Nat.le_refl _, fun _ _ => ⟨rfl, rfl⟩⟩

theorem fusesGrow_trans {f g k : Fuses} (h : fusesGrow f g) (i : fusesGrow g k) : fusesGrow f k := by
  obtain ⟨hv, hp, hr, hs, ho⟩ := h
  obtain ⟨iv, ip, ir, is_, io⟩ := i
  exact ⟨iv ∘ hv, fun n => ip n ∘ hp n, fun n => ir n ∘ hr n, hs.trans is_, fun n hn =>
    ⟨(io n (hp n hn)).1.trans (ho n hn).1, (io n (hp n hn)).2.trans (ho n hn).2⟩⟩

theorem sameEventSetup_refl (s : State) : sameEventSetup s s := ⟨fun _ => rfl, fun _ => rfl, rfl⟩

/-! ### The canonical form of sets and tiers -/

theorem mem_of_mem_nadd {n m : Nat} : ∀ {l : NSet}, m ∈ nadd n l → m = n ∨ m ∈ l
  | [], h => by simpa [nadd] using h
  | k :: rest, h => by
    simp only [nadd] at h
    split at h
    · simpa using h
    · split at h
      · exact .inr h
      · rcases List.mem_cons.mp h with rfl | h
        · exact .inr (List.mem_cons_self ..)
        · exact (mem_of_mem_nadd h).imp_right (List.mem_cons_of_mem _)

theorem pairwise_nadd (n : Nat) : ∀ {l : NSet}, l.Pairwise (· < ·) → (nadd n l).Pairwise (· < ·)
  | [], _ => List.pairwise_singleton ..
  | k :: rest, h => by
    obtain ⟨hk, hrest⟩ := List.pairwise_cons.mp h
    simp only [nadd]
    split
    · rename_i hn
      refine List.pairwise_cons.mpr ⟨fun m hm => ?_, h⟩
      rcases List.mem_cons.mp hm with rfl | hm
      · exact hn
      · exact hn.trans (hk m hm)
    · split
      · exact h
      · refine List.pairwise_cons.mpr ⟨fun m hm => ?_, pairwise_nadd n hrest⟩
        rcases mem_of_mem_nadd hm with rfl | hm
        · omega
        · exact hk m hm

theorem ndel_sublist (n : Nat) : ∀ l : NSet, (ndel n l).Sublist l
  | [] => .refl _
  | k :: rest => by
    simp only [ndel]
    split
    · exact (ndel_sublist n rest).cons _
    · exact (ndel_sublist n rest).cons_cons _

theorem pairwise_ndel (n : Nat) {l : NSet} (h : l.Pairwise (· < ·)) : (ndel n l).Pairwise (· < ·) := h.sublist (ndel_sublist n l)

/-- A snapshot is a memory that only writes have filled. -/
theorem wf_snapshotOf (cause : Nat) (s : State) : Memory.wf (snapshotOf cause s) = true := by
  have hfold {α : Type} (l : List α) (at_ : α → Nat) (bs : α → List Byte) {m : Memory} (hm : Memory.wf m = true) :
      Memory.wf (l.foldl (fun m x => mwrite m (at_ x) (bs x)) m) = true :=
    List.foldlRecOn (motive := fun m => Memory.wf m = true) l _ hm fun m hm x _ => wf_mwrite _ m _ hm
  unfold snapshotOf
  exact hfold _ _ _ (hfold _ _ _ (hfold _ _ _ (hfold _ _ _ (hfold _ _ _ (hfold _ _ _ (wf_mwrite _ _ _ wf_empty))))))

/-! ### The fuses -/

theorem testBit_setBit_of_testBit {m i k : Nat} (hk : m.testBit k = true) : (setBit m i).testBit k = true := by
  rw [← bit_eq_testBit, bit_setBit, bit_eq_testBit, hk, Bool.true_or]

/-- A key provisioned in a free slot burns its bit and leaves the other keys. -/
theorem fusesGrow_provision {f : Fuses} {n x y : Nat} (hfree : f.provisioned.testBit n = false) :
    fusesGrow f { f with provisioned := setBit f.provisioned n, ownerX := tset 0 (n + 1) x f.ownerX, ownerY := tset 0 (n + 1) y f.ownerY } := by
  refine ⟨id, fun _ => testBit_setBit_of_testBit, fun _ => id, Nat.le_refl _, fun k hk => ?_⟩
  have hne : k + 1 ≠ n + 1 := by
    rintro heq
    obtain rfl : n = k := by omega
    simp [hk] at hfree
  exact ⟨tget_tset_ne _ _ _ hne, tget_tset_ne _ _ _ hne⟩

theorem fusesGrow_revoke (f : Fuses) (n : Nat) : fusesGrow f { f with revoked := setBit f.revoked n } :=
  ⟨id, fun _ => id, fun _ => testBit_setBit_of_testBit, Nat.le_refl _, fun _ _ => ⟨rfl, rfl⟩⟩

theorem fusesGrow_vendorOff (f : Fuses) : fusesGrow f { f with vendorOff := true } :=
  ⟨fun _ => rfl, fun _ => id, fun _ => id, Nat.le_refl _, fun _ _ => ⟨rfl, rfl⟩⟩

theorem fusesGrow_svn (f : Fuses) (n : Nat) : fusesGrow f { f with svn := max f.svn n } :=
  ⟨id, fun _ => id, fun _ => id, Nat.le_max_left _ _, fun _ _ => ⟨rfl, rfl⟩⟩

namespace MemWf

section
variable {m : MemUnit} (h : MemWf m)
include h

theorem tierMem (t : Nat) : Memory.wf (Machine.tierMem m t) = true := by
  obtain ⟨h0, h1, h2⟩ := h
  simp only [Machine.tierMem]
  split
  · exact h0
  · split
    · exact h1
    · exact h2

theorem setTierMem {t : Nat} {x : Memory} (hx : Memory.wf x = true) : MemWf (Machine.setTierMem t x m) := by
  obtain ⟨h0, h1, h2⟩ := h
  simp only [Machine.setTierMem]
  split
  · exact ⟨hx, h1, h2⟩
  · split
    · exact ⟨h0, hx, h2⟩
    · exact ⟨h0, h1, hx⟩

theorem setTierBad {t : Nat} {x : NSet} : MemWf (Machine.setTierBad t x m) := by
  simp only [Machine.setTierBad]
  split
  · exact h
  · split <;> exact h

theorem setTierUsed {t : Nat} {x : NSet} : MemWf (Machine.setTierUsed t x m) := by
  simp only [Machine.setTierUsed]
  split
  · exact h
  · split <;> exact h

theorem setTierRetired {t : Nat} {x : NSet} : MemWf (Machine.setTierRetired t x m) := by
  simp only [Machine.setTierRetired]
  split
  · exact h
  · split <;> exact h

theorem writePhys {t phys off : Nat} {bs : List Byte} {poison : Bool} : MemWf (Machine.writePhys t phys off bs poison m) := by
  have hw := h.setTierMem (t := t) (wf_mwrite bs _ (phys * pageBytes + off) (h.tierMem t))
  simp only [Machine.writePhys]
  split
  · exact h
  · split
    · exact hw.setTierBad
    · exact hw.setTierBad

theorem clearPhys {t phys : Nat} : MemWf (Machine.clearPhys t phys m) := (h.setTierMem (wf_mzero _ _ _ (h.tierMem t))).setTierBad

theorem copyPhys {t phys t' phys' : Nat} : MemWf (Machine.copyPhys t phys t' phys' m) := by
  have hc : MemWf (Machine.clearPhys t' phys' m) := h.clearPhys
  exact (hc.setTierMem (List.foldlRecOn (motive := fun x => Memory.wf x = true) _ _ (hc.tierMem t') fun x hx c _ => wf_mset _ _ x hx)).setTierBad

theorem releasePhys {t phys : Nat} : MemWf (Machine.releasePhys t phys m) := h.setTierUsed.clearPhys

theorem ite {c : Prop} [Decidable c] {m' : MemUnit} (h' : MemWf m') : MemWf (if c then m else m') := by
  split
  · exact h
  · exact h'

theorem foldl {α : Type} {f : MemUnit → α → MemUnit} {l : List α} (hf : ∀ {m a}, MemWf m → MemWf (f m a)) : MemWf (l.foldl f m) :=
  List.foldlRecOn l f h fun _ hm _ _ => hf hm

end

end MemWf

namespace Keeps

theorem refl (cfg : Bool) (s : State) : Keeps cfg s s := ⟨id, rfl, fusesGrow_refl _, fun _ => sameEventSetup_refl s⟩

theorem trans {cfg : Bool} {s t u : State} (h : Keeps cfg s t) (k : Keeps cfg t u) : Keeps cfg s u :=
  ⟨k.canonical ∘ h.canonical, k.pending.trans h.pending, fusesGrow_trans h.fuses k.fuses, fun hc => by
    obtain ⟨hsrc, hmask, hvec⟩ := h.setup hc
    obtain ⟨ksrc, kmask, kvec⟩ := k.setup hc
    exact ⟨fun n => (ksrc n).trans (hsrc n), fun n => (kmask n).trans (hmask n), kvec.trans hvec⟩⟩

section
variable {b : Bool} {s t u : State} (h : Keeps b s t)
include h

/-- A step may go on to a state whose memories and pending set are canonical when the former ones are, the other kept parts being the same. -/
theorem rewrite (hu : Safety.canonical t → Safety.canonical u) (hsame : settled u = settled t := by exact rfl) : Keeps b s u := by
  simp only [settled, Prod.mk.injEq] at hsame
  obtain ⟨hmask, hsrc, hvec, hqueue, hfuses⟩ := hsame
  exact h.trans ⟨hu, hqueue, hfuses ▸ fusesGrow_refl _, fun _ =>
    ⟨fun n => by simp only [srcCfg, hsrc], fun n => by simp only [isUnmasked, hmask], hvec⟩⟩

/-- A step may go on to any state with the same memories, pending set and other kept parts. -/
theorem same (hmem : written u = written t := by exact rfl) (hsame : settled u = settled t := by rfl) : Keeps b s u :=
  h.rewrite (fun w => (canonical_iff u).mpr (hmem ▸ (canonical_iff t).mp w)) hsame

theorem ringTable {x : Tbl Ring} : Keeps b s { t with rings := x } := h.same

theorem ite {c : Prop} [Decidable c] (hu : Keeps b s u) : Keeps b s (if c then t else u) := by
  split
  · exact h
  · exact hu

theorem foldl {α : Type} {f : State → α → State} {l : List α} (hf : ∀ {u a}, Keeps b s u → Keeps b s (f u a)) : Keeps b s (l.foldl f t) :=
  List.foldlRecOn l f h fun _ hu _ _ => hf hu

omit h in
theorem foldlFst {α β : Type} {p : State × β} {f : State × β → α → State × β} {l : List α} (h : Keeps b s p.1)
    (hf : ∀ {q a}, Keeps b s q.1 → Keeps b s (f q a).1) : Keeps b s (l.foldl f p).1 :=
  List.foldlRecOn (motive := fun q => Keeps b s q.1) l f h fun _ hq _ _ => hf hq

omit h in
theorem foldlSnd {α β : Type} {p : β × State} {f : β × State → α → β × State} {l : List α} (h : Keeps b s p.2)
    (hf : ∀ {q a}, Keeps b s q.2 → Keeps b s (f q a).2) : Keeps b s (l.foldl f p).2 :=
  List.foldlRecOn (motive := fun q => Keeps b s q.2) l f h fun _ hq _ _ => hf hq

omit h in
/-- The state of a pair, under the name that a match gives it. -/
theorem snd {α : Type} {p : α × State} {x : α} (h : Keeps b s p.2) (hp : p = (x, u)) : Keeps b s u := by rw [hp] at h; exact h

omit h in
theorem snd₂ {α β : Type} {p : α × β × State} {x : α} {y : β} (h : Keeps b s p.2.2) (hp : p = (x, y, u)) : Keeps b s u := by
  rw [hp] at h; exact h

/-! ### The units that hold memories -/

theorem modMem {g : MemUnit → MemUnit}
    (hg : ∀ m, (g m).t0 = m.t0 ∧ (g m).t1 = m.t1 ∧ (g m).t2 = m.t2 := by exact fun _ => ⟨rfl, rfl, rfl⟩) :
    Keeps b s (Machine.modMem g t) := by
  obtain ⟨h0, h1, h2⟩ := hg t.mem
  exact h.same (by simp only [written, Machine.modMem, h0, h1, h2])

theorem modBoot {g : Boot → Boot}
    (hg : ∀ x, (g x).flash = x.flash ∧ (g x).sram = x.sram ∧ (g x).upload = x.upload := by exact fun _ => ⟨rfl, rfl, rfl⟩) :
    Keeps b s (Machine.modBoot g t) := by
  obtain ⟨hflash, hsram, hupload⟩ := hg t.boot
  exact h.same (by simp only [written, Machine.modBoot, hflash, hsram, hupload])

theorem modFlt {g : Flt → Flt} (hg : ∀ f, (g f).snap = f.snap := by exact fun _ => rfl) : Keeps b s (Machine.modFlt g t) :=
  h.same (by simp only [written, Machine.modFlt, hg t.flt])

theorem modOut {g : Out → Out} (hg : ∀ o, (g o).hostMem = o.hostMem := by exact fun _ => rfl) : Keeps b s (Machine.modOut g t) :=
  h.same (by simp only [written, Machine.modOut, hg t.out])

/-- The event set-up of the controller. -/
abbrev setupOf (e : Evc) : NSet × Tbl SrcCfg × Tbl Nat := (e.unmasked, e.src, e.vfVec)

theorem modEvc {g : Evc → Evc} (hg : ∀ e, (g e).pend = e.pend := by exact fun _ => rfl)
    (hsame : ∀ e, setupOf (g e) = setupOf e := by exact fun _ => rfl) : Keeps b s (Machine.modEvc g t) := by
  have hs := hsame t.evc
  simp only [setupOf, Prod.mk.injEq] at hs
  obtain ⟨hmask, hsrc, hvec⟩ := hs
  exact h.same (by simp only [written, Machine.modEvc, hg t.evc]) (by simp only [settled, Machine.modEvc, hmask, hsrc, hvec])

/-- The tiers are rewritten. -/
theorem tiers {g : MemUnit → MemUnit} (hg : MemWf t.mem → MemWf (g t.mem)) : Keeps b s (Machine.modMem g t) := by
  refine h.rewrite fun w => ?_
  obtain ⟨h0, h1, h2, hrest⟩ := w
  obtain ⟨g0, g1, g2⟩ := hg ⟨h0, h1, h2⟩
  exact ⟨g0, g1, g2, hrest⟩

/-- The pending set is rewritten. -/
theorem pends {g : Evc → Evc} (hg : t.evc.pend.Pairwise (· < ·) → (g t.evc).pend.Pairwise (· < ·))
    (hsame : ∀ e, setupOf (g e) = setupOf e := by exact fun _ => rfl) : Keeps b s (Machine.modEvc g t) := by
  have hs := hsame t.evc
  simp only [setupOf, Prod.mk.injEq] at hs
  obtain ⟨hmask, hsrc, hvec⟩ := hs
  refine h.rewrite (fun w => ?_) (by simp only [settled, Machine.modEvc, hmask, hsrc, hvec])
  obtain ⟨h0, h1, h2, hflash, hsram, hupload, hsnap, hhost, hpend⟩ := w
  exact ⟨h0, h1, h2, hflash, hsram, hupload, hsnap, hhost, hg hpend⟩

/-- Fuses are burned. -/
theorem burn {f : Fuses} (hf : fusesGrow t.fuses f) : Keeps b s { t with fuses := f } :=
  h.trans ⟨id, rfl, hf, fun _ => sameEventSetup_refl t⟩

omit h in
/-- The event set-up is written. -/
theorem modSetup {g : Evc → Evc} (h : Keeps true s t) (hg : written (Machine.modEvc g t) = written t := by exact rfl) :
    Keeps true s (Machine.modEvc g t) :=
  h.trans ⟨fun w => (canonical_iff _).mpr (hg ▸ (canonical_iff t).mp w), rfl, fusesGrow_refl _, nofun⟩

end

section
variable {b : Bool} {s t : State} (h : Keeps b s t)
include h

/-! ### Ops -/

theorem modFn {f : Nat} {g : Fn → Fn} : Keeps b s (Machine.modFn f g t) := h.same

theorem modPtn {p : Nat} {g : Ptn → Ptn} : Keeps b s (Machine.modPtn p g t) := h.same

theorem modCtx {c : Nat} {g : Ctx → Ctx} : Keeps b s (Machine.modCtx c g t) := h.same

theorem modRing {r : Nat} {g : Ring → Ring} : Keeps b s (Machine.modRing r g t) := h.same

theorem modQtr {q : Nat} {g : Qtr → Qtr} : Keeps b s (Machine.modQtr q g t) := h.same

theorem modDie {d : Nat} {g : Die → Die} : Keeps b s (Machine.modDie d g t) := h.same

theorem modAdapter {a : Nat} {g : Adapter → Adapter} : Keeps b s (Machine.modAdapter a g t) := h.same

theorem modSteer {a : Nat} {g : Steer → Steer} : Keeps b s (Machine.modSteer a g t) := h.same

theorem modPort {n : Nat} {g : Port → Port} : Keeps b s (Machine.modPort n g t) := h.same

theorem modFig {p : Nat} {g : Fig → Fig} : Keeps b s (Machine.modFig p g t) := h.modPtn

theorem modFe {p : Nat} {g : Fe → Fe} : Keeps b s (Machine.modFe p g t) := h.modPtn

theorem modAtt {p : Nat} {g : Att → Att} : Keeps b s (Machine.modAtt p g t) := h.modPtn

theorem modPMem {p : Nat} {g : PMem → PMem} : Keeps b s (Machine.modPMem p g t) := h.modPtn

theorem modPFlt {p : Nat} {g : PFlt → PFlt} : Keeps b s (Machine.modPFlt p g t) := h.modPtn

theorem modPPwr {p : Nat} {g : PPwr → PPwr} : Keeps b s (Machine.modPPwr p g t) := h.modPtn

theorem modXch {p : Nat} {g : PXch → PXch} : Keeps b s (Machine.modXch p g t) := h.modPtn

theorem modFlow {p : Nat} {g : Flow → Flow} : Keeps b s (Machine.modFlow p g t) := h.modPtn

theorem modBatch {p batch : Nat} {g : Batch → Batch} : Keeps b s (Machine.modBatch p batch g t) := h.modPtn

theorem modRow {p batch r : Nat} {g : BRow → BRow} : Keeps b s (Machine.modRow p batch r g t) := h.modBatch

theorem modObj {p o : Nat} {g : Obj → Obj} : Keeps b s (Machine.modObj p o g t) := h.modPMem

theorem modSlot {p k : Nat} {g : Slot → Slot} : Keeps b s (Machine.modSlot p k g t) := h.modFig

theorem modPwr {g : Pwr → Pwr} : Keeps b s (Machine.modPwr g t) := h.same

theorem modFab {g : Fab → Fab} : Keeps b s (Machine.modFab g t) := h.same

theorem modMgmt {g : Mgmt → Mgmt} : Keeps b s (Machine.modMgmt g t) := h.same

theorem tick : Keeps b s (Machine.tick t) := (h.same.foldl fun h => by split; exacts [h.modCtx.ite h, h]).ite h

theorem drawFree : Keeps b s (Machine.drawFree t).2 := h.same

theorem drawChoice {n : Nat} : Keeps b s (Machine.drawChoice n t).2 := h.same

theorem hostWrite {a : Nat} {bs : List Byte} : Keeps b s (Machine.hostWrite a bs t) :=
  h.rewrite fun ⟨h0, h1, h2, hflash, hsram, hupload, hsnap, hhost, hpend⟩ =>
    ⟨h0, h1, h2, hflash, hsram, hupload, hsnap, wf_mwrite bs _ a hhost, hpend⟩

theorem countTgt {tgt : Nat} : Keeps b s (Machine.countTgt tgt t) := h.modEvc

theorem sendMsix {f i : Nat} : Keeps b s (Machine.sendMsix f i t) := by
  simp only [Machine.sendMsix]
  exact h.modOut.countTgt.ite h.modFn

theorem flushPba {f : Nat} : Keeps b s (Machine.flushPba f t) := h.foldl fun h => h.modFn.sendMsix

theorem mctpOut {code status inst : Nat} {payload : List Byte} : Keeps b s (Machine.mctpOut code status inst payload t) := h.modOut

theorem readOut {bs : List Byte} {ep : Bool} : Keeps b s (Machine.readOut bs ep t) := h.modOut

/-! ### EventCtl -/

theorem modTgt {tgt : Nat} {g : Tgt → Tgt} : Keeps b s (Machine.modTgt tgt g t) := h.modEvc

theorem modHVec {e : Nat} {g : HVec → HVec} : Keeps b s (Machine.modHVec e g t) := h.modEvc

theorem vecMessage {f i : Nat} : Keeps b s (Machine.vecMessage f i t) := h.modHVec.sendMsix

theorem signalHost {f i : Nat} {ringsIdle : Bool} {src : Option Nat} : Keeps b s (Machine.signalHost f i ringsIdle src t) := by
  simp only [Machine.signalHost]
  split
  · exact h.modEvc
  · exact h.vecMessage.ite h.modHVec

theorem countAlert {before : State} : Keeps b s (Machine.countAlert before t) := h.countTgt.ite h

theorem deliver {n : Nat} : Keeps b s (Machine.deliver n t) := by
  simp only [Machine.deliver]
  exact h.signalHost.ite h

theorem setPend {n : Nat} : Keeps b s (Machine.setPend n t) := by
  simp only [Machine.setPend]
  split
  · have hp := h.pends (g := fun e => { e with pend := nadd n e.pend }) (pairwise_nadd n)
    exact (hp.deliver.ite hp).countAlert
  · exact h

theorem pulse {n : Nat} : Keeps b s (Machine.pulse n t) := h.setPend

theorem dropPend {n : Nat} : Keeps b s (Machine.dropPend n t) := h.pends (pairwise_ndel n)

theorem reassert {n : Nat} : Keeps b s (Machine.reassert n t) := h.setPend.ite h

theorem setLevel {n : Nat} {level : Bool} : Keeps b s (Machine.setLevel n level t) := by
  unfold Machine.setLevel
  extract_lets u
  have hu : Keeps b s u := h.modEvc
  exact (hu.ite hu.setPend).ite (hu.ite (hu.pends (pairwise_ndel n)))

theorem mctpSend {code status inst : Nat} {payload : List Byte} : Keeps b s (Machine.mctpSend code status inst payload t) := h.mctpOut.pulse

theorem mctpGot : Keeps b s (Machine.mctpGot t) := h.pulse

/-! ### FaultRec -/

theorem logModule {r : FaultRec} : Keeps b s (Machine.logModule r t) := by
  simp only [Machine.logModule]
  exact h.modFlt

theorem logPtn {p : Nat} {r : FaultRec} : Keeps b s (Machine.logPtn p r t) := by
  simp only [Machine.logPtn]
  exact h.modPFlt

theorem recordFault {r : FaultRec} : Keeps b s (Machine.recordFault r t) := by
  simp only [Machine.recordFault]
  split
  · exact h.logModule.pulse.ite h.logModule.logPtn.pulse
  · exact h.logModule.pulse

/-! ### RingOps -/

theorem writeBack {r idx : Nat} : Keeps b s (Machine.writeBack r idx t) := by
  simp only [Machine.writeBack]
  exact h.ite h.hostWrite

theorem putEntry {r : Nat} {bytes : List Byte} : Keeps b s (Machine.putEntry r bytes t) := by
  simp only [Machine.putEntry]
  exact h.hostWrite.modRing.writeBack

theorem signalRing {r : Nat} {idle : Bool} : Keeps b s (Machine.signalRing r idle t) := by
  simp only [Machine.signalRing]
  exact h.signalHost.ite h

theorem putCompletion {r : Nat} {c : Cmd} : Keeps b s (Machine.putCompletion r c t) := by
  simp only [Machine.putCompletion]
  exact h.putEntry.signalRing.ite h.putEntry

theorem putResetEntry {r : Nat} {bytes : List Byte} : Keeps b s (Machine.putResetEntry r bytes t) := by
  simp only [Machine.putResetEntry]
  exact h.putEntry.modRing

theorem retryResets {r : Nat} : Keeps b s (Machine.retryResets r t) := by
  simp only [Machine.retryResets]
  exact (h.foldl fun h => h.hostWrite).ite h

theorem putReset {r : Nat} {c : ResetComp} : Keeps b s (Machine.putReset r c t) := by
  simp only [Machine.putReset]
  exact h.putResetEntry.signalRing

theorem flushResets {r : Nat} {doorbell : Bool} : Keeps b s (Machine.flushResets r doorbell t) := h.foldl fun h => h.modRing.putReset.ite h

theorem addReset {r : Nat} {c : ResetComp} : Keeps b s (Machine.addReset r c t) := h.modRing.flushResets

theorem startCmd {c : Cmd} : Keeps b s (Machine.startCmd c t) := by
  simp only [Machine.startCmd]
  exact h.modRing.writeBack

theorem modCmd {r idx : Nat} {g : Cmd → Cmd} : Keeps b s (Machine.modCmd r idx g t) := h.modRing

theorem endCmd {r idx status result : Nat} : Keeps b s (Machine.endCmd r idx status result t) := h.modCmd

theorem endFigure {r idx code info : Nat} : Keeps b s (Machine.endFigure r idx code info t) := h.modCmd

theorem runEntry {e : Entry} {opcode : Nat} {go : Cmd → State → State} (hgo : ∀ {a0 u}, Keeps b s u → Keeps b s (go a0 u)) :
    Keeps b s (Machine.runEntry e opcode t go) := by
  simp only [Machine.runEntry]
  split
  · exact h.startCmd.endCmd.ite ((hgo h.startCmd).ite h.startCmd.endCmd)
  · exact h

theorem putRec {r : Nat} {k : TokRec} : Keeps b s (Machine.putRec r k t) := by
  simp only [Machine.putRec]
  exact h.putResetEntry.ite h.putEntry

theorem makeRec {r : Nat} {k : TokRec} : Keeps b s (Machine.makeRec r k t) := by
  simp only [Machine.makeRec]
  exact h.putRec.ite h.modRing

theorem flushOneRec {r : Nat} : Keeps b s (Machine.flushOneRec r t) := by
  simp only [Machine.flushOneRec]
  split
  · exact h
  · split
    · exact h.modRing.putRec.signalRing
    · exact h

theorem makeRecNow {r : Nat} {k : TokRec} : Keeps b s (Machine.makeRecNow r k t) := by
  simp only [Machine.makeRecNow]
  exact h.makeRec.ite h.makeRec.signalRing

theorem clearMade {r : Nat} : Keeps b s (Machine.clearMade r t) := h.modRing

theorem boundaryRecs {r : Nat} : Keeps b s (Machine.boundaryRecs r t) := by
  unfold Machine.boundaryRecs
  extract_lets _ u
  have hu : Keeps b s u := h.clearMade.foldl fun h => h.makeRec
  exact hu.ite hu.signalRing

theorem withRingSignals {act : State → State} (hact : ∀ {u}, Keeps b s u → Keeps b s (act u)) : Keeps b s (Machine.withRingSignals act t) := by
  simp only [Machine.withRingSignals]
  exact (hact h).foldl fun h => h.boundaryRecs

theorem eachSignals {act : State → State} (hact : ∀ {u}, Keeps b s u → Keeps b s (act u)) : Keeps b s (Machine.eachSignals act t) := by
  simp only [Machine.eachSignals]
  exact (hact h).foldl fun h => h.clearMade.foldl fun h => h.makeRecNow

/-! ### MemOps -/

theorem modPage {p key : Nat} {g : PageEnt → PageEnt} : Keeps b s (Machine.modPage p key g t) := h.modPMem

theorem touchObjs {p : Nat} {os : List Nat} : Keeps b s (Machine.touchObjs p os t) := h.foldl fun h => h.modObj

theorem writePart {p a : Nat} {bs : List Byte} {poison : Bool} : Keeps b s (Machine.writePart p a bs poison t) := by
  unfold Machine.writePart
  split
  · exact h
  · extract_lets key e cs m m'
    have hm (w : MemWf t.mem) : MemWf m' := MemWf.foldl ((w.foldl fun w => w.clearPhys).ite w) fun w => w.writePhys
    exact (h.tiers (g := fun _ => m') hm).modPage

theorem writeRange {p a : Nat} {bs : List Byte} {poison : Bool} : Keeps b s (Machine.writeRange p a bs poison t) := h.foldl fun h => h.writePart

theorem engineWrite {p c a : Nat} {bs : List Byte} {poison : Bool} :
    Keeps b s (Machine.engineWrite p c a bs poison t).1 := h.foldlFst fun h => by split; exacts [h, h.writePart]

theorem takePage {tier unit : Nat} : Keeps b s (Machine.takePage tier unit t).2 := h.same.tiers fun w => w.setTierUsed

theorem takeRepl {p : Nat} : Keeps b s (Machine.takeRepl p t).2 := by
  simp only [Machine.takeRepl]
  exact h.same.modMem

theorem addCopy {p o tier mode place k : Nat} : Keeps b s (Machine.addCopy p o tier mode place k t) := h.takeRepl.modPage.ite h.takePage.modPage

theorem dropCopies {p key tier : Nat} : Keeps b s (Machine.dropCopies p key tier t) := (h.tiers fun w => w.foldl fun w => w.releasePhys).modPage

theorem freePage {p key : Nat} : Keeps b s (Machine.freePage p key t) := (h.tiers fun w => w.foldl fun w => w.releasePhys).modPage

/-! ### KvOps -/

theorem writeTab {p a : Nat} {t2 : KvTab} : Keeps b s (Machine.writeTab p a t2 t) := h.writeRange

theorem modTab {p a : Nat} {g : KvTab → KvTab} : Keeps b s (Machine.modTab p a g t) := h.writeTab

theorem writeEnt {p a e w : Nat} : Keeps b s (Machine.writeEnt p a e w t) := h.writeRange

theorem writeLog {p la y tok : Nat} : Keeps b s (Machine.writeLog p la y tok t) := h.writeRange

theorem returnPages {p c a : Nat} {es : List Nat} {mark : Nat → Nat} :
    Keeps b s (Machine.returnPages p c a es mark t) := h.foldl fun h => h.modAtt.modCtx.writeEnt

theorem leaveList {p a : Nat} : Keeps b s (Machine.leaveList p a t) := h.ite h.modAtt

theorem dropBlock {p c a blk : Nat} : Keeps b s (Machine.dropBlock p c a blk t) := by
  simp only [Machine.dropBlock]
  exact h.returnPages.leaveList.modTab.modCtx.modAtt

theorem makeRoom {n p c a k : Nat} {fresh : List Nat} : Keeps b s (Machine.makeRoom n p c a k fresh t).2 := by
  induction n generalizing t with
  | zero => exact h
  | succ n ih =>
    simp only [Machine.makeRoom]
    split
    · exact h
    · split
      · exact h
      · exact ih h.dropBlock

theorem takeKvPage {p a e : Nat} : Keeps b s (Machine.takeKvPage p a t e) := by
  simp only [Machine.takeKvPage]
  exact h.same.modAtt.writeEnt

theorem allocBlock {p c a blk : Nat} {fresh : List Nat} : Keeps b s (Machine.allocBlock p c a blk fresh t).2 := by
  unfold Machine.allocBlock
  extract_lets es
  split
  · exact h
  · split
    · exact h.makeRoom.snd ‹_›
    · rename_i u hroom
      have hu : Keeps b s u := h.makeRoom.snd hroom
      dsimp only
      refine Keeps.modAtt (Keeps.modCtx (hu.foldl ?_))
      exact fun h => h.takeKvPage

theorem clearRecomputing {c : Nat} : Keeps b s (Machine.clearRecomputing c t) := h.foldl fun h => h.modTab.ite h

theorem releaseSeq {p c a : Nat} : Keeps b s (Machine.releaseSeq p c a t).2 := by
  simp only [Machine.releaseSeq]
  exact (h.returnPages.foldl fun h => h.writeEnt).modTab.modAtt

/-! ### ObjOps -/

theorem dropTransit {i : MoverItem} : Keeps b s (Machine.dropTransit i t) := h.modPMem

theorem objCmd {bad : Cmd → Bool} {go : Cmd → Nat → State → State} {c : Cmd} (hgo : ∀ {a0 a1 u}, Keeps b s u → Keeps b s (go a0 a1 u)) :
    Keeps b s (Machine.objCmd bad go c t) := by
  simp only [Machine.objCmd]
  split
  · exact h.endCmd
  · split
    · exact h.endCmd
    · exact hgo h

theorem objSetGo {c : Cmd} {o : Nat} : Keeps b s (Machine.objSetGo c o t) := by
  simp only [Machine.objSetGo]
  split
  · exact h.endCmd
  · split
    · exact h.endCmd
    · split
      · split
        · exact h.endCmd
        · split
          · exact h.endCmd
          · exact (h.modObj.foldl fun h => h.addCopy).endCmd
      · exact h.endCmd.ite h.modObj.endCmd

theorem objSet {c : Cmd} : Keeps b s (Machine.objSet c t) := by
  simp only [Machine.objSet]
  exact h.endCmd.ite (h.endCmd.ite (h.endCmd.ite h.objSetGo))

theorem putItems {is : List (Nat × MoverItem)} : Keeps b s (Machine.putItems is t) := h.foldl fun h => h.modDie

theorem takeItems {sel : MoverItem → Bool} : Keeps b s (Machine.takeItems sel t) := h.foldl fun h => h.modDie.foldl fun h => h.dropTransit

theorem dealUnits {c : Cmd} {o : Nat} {us : List (Nat × Nat)} : Keeps b s (Machine.dealUnits c o us t) := h.endCmd.ite h.modCmd.putItems

theorem migrate {c : Cmd} : Keeps b s (Machine.migrate c t) := by
  simp only [Machine.migrate]
  exact h.objCmd (fun h => h.endCmd.ite h.dealUnits)

theorem evict {c : Cmd} : Keeps b s (Machine.evict c t) := h.objCmd (fun h => h.endCmd.ite h.dealUnits)

theorem modShard {p o i : Nat} {g : Shard → Shard} : Keeps b s (Machine.modShard p o i g t) := h.modObj

theorem intake {c : Cmd} : Keeps b s (Machine.intake c t) := by
  simp only [Machine.intake]
  exact h.objCmd (fun h => h.endCmd.ite (h.endCmd.ite (h.foldl fun h => h.modShard).dealUnits))

theorem verify {c : Cmd} : Keeps b s (Machine.verify c t) := h.objCmd (fun h => h.endCmd.ite h.dealUnits)

theorem cancelObj {p o : Nat} : Keeps b s (Machine.cancelObj p o t) := by
  simp only [Machine.cancelObj]
  exact (h.foldl fun h => h.endCmd).takeItems

theorem objClear {c : Cmd} : Keeps b s (Machine.objClear c t) := h.objCmd (fun h => h.endCmd.ite h.modObj.cancelObj.modCmd)

theorem objQuery {c : Cmd} : Keeps b s (Machine.objQuery c t) := h.objCmd (fun h => h.endCmd.ite h.writeRange.endCmd)

theorem serveObj {c : Cmd} : Keeps b s (Machine.serveObj c t) := by
  unfold Machine.serveObj
  split
  · exact h.objSet
  · exact h.objClear
  · exact h.objQuery
  · exact h.migrate
  · exact h.evict
  · exact h.intake
  · exact h.verify
  · exact h

/-! ### MoverOps -/

theorem evictFor {p own tier mode place k : Nat} :
    Keeps b s (Machine.evictFor p own tier mode place k t) := h.foldl fun h => h.ite (h.dropCopies.modPMem.ite h)

theorem migratePage {p o tier mode place k : Nat} : Keeps b s (Machine.migratePage p o tier mode place k t).2 := by
  unfold Machine.migratePage
  extract_lets key u e old u' new
  have hu : Keeps b s u := h.evictFor
  split
  · exact hu
  · split
    · exact hu
    · extract_lets v w
      have hv : Keeps b s v :=
        hu.modPage.addCopy.tiers fun w => MemWf.foldl (MemWf.foldl w fun w => w.copyPhys) fun w => w.releasePhys
      exact (hv.dropCopies.ite hv).modPage.touchObjs

theorem unitDone {i : MoverItem} {count : Nat} : Keeps b s (Machine.unitDone i count t) := by
  simp only [Machine.unitDone]
  split
  · exact h.modCmd.endCmd.ite h.modCmd
  · exact h.modCmd

theorem advanceMover {d : Nat} : Keeps b s (Machine.advanceMover d t) := h.modDie

theorem evictPage {i : MoverItem} {t1 : Nat} : Keeps b s (Machine.evictPage i t1 t) := by
  simp only [Machine.evictPage]
  exact h.dropCopies.unitDone.ite h.unitDone

theorem doneAtOnce {i : MoverItem} : Keeps b s (Machine.doneAtOnce i t) := by
  unfold Machine.doneAtOnce
  split
  · exact h
  · exact (h.ite h.serveObj).ite (h.evictPage.ite h.unitDone)

theorem settleFuel {n : Nat} : Keeps b s (Machine.settleFuel n t) := by
  induction n generalizing t with
  | zero => exact h
  | succ n ih =>
    simp only [Machine.settleFuel]
    split
    · exact h
    · refine ih (Keeps.advanceMover ?_)
      split
      · exact h.doneAtOnce
      · exact h

theorem markTransit {d : Nat} : Keeps b s (Machine.markTransit d t) := by
  unfold Machine.markTransit
  split
  · exact h
  · split
    · exact h.modPage.ite h
    · exact h

theorem settleMovers : Keeps b s (Machine.settleMovers t) := h.settleFuel.foldl fun h => h.markTransit

theorem toMover {c : Cmd} : Keeps b s (Machine.toMover c t) := by
  simp only [Machine.toMover]
  split
  · exact h.putItems.settleMovers
  · exact h.serveObj.ite h.serveObj.settleMovers

theorem finishHead {d : Nat} : Keeps b s (Machine.finishHead d t) := h.advanceMover.settleMovers

/-! ### FabricOps -/

theorem putFrame {n seq : Nat} {slots : List FrameSlot} {credits : List Nat} : Keeps b s (Machine.putFrame n seq slots credits t) := by
  simp only [Machine.putFrame]
  exact h.modPort.modOut

theorem sendFrame {n : Nat} {slots : List FrameSlot} {owners : NSet} : Keeps b s (Machine.sendFrame n slots owners t) := by
  simp only [Machine.sendFrame]
  exact h.modPort.putFrame

theorem sendOwed : Keeps b s (Machine.sendOwed t) := h.foldl fun h => h.sendFrame.ite h

theorem emitPacket {n : Nat} {j : Sending} : Keeps b s (Machine.emitPacket n j t) := by
  simp only [Machine.emitPacket]
  exact (h.modPort.foldl fun h => h.sendFrame).modOut

theorem sendPacket {n : Nat} {j : Sending} : Keeps b s (Machine.sendPacket n j t) := h.emitPacket.ite h.modPort

theorem drainPort {n k : Nat} : Keeps b s (Machine.drainPort n k t) := by
  induction k generalizing t with
  | zero => exact h
  | succ k ih =>
    simp only [Machine.drainPort]
    split
    · exact h
    · exact ih h.modPort.emitPacket

theorem setPort {n : Nat} {st : PortSt} : Keeps b s (Machine.setPort n st t) := h.ite h.modPort.pulse

theorem fence : Keeps b s (Machine.fence t) := by
  simp only [Machine.fence]
  exact (h.foldl fun h => h.emitPacket).modFab.foldl fun h => h.ite h.setPort.modPort

theorem dropPackets {m : Nat} : Keeps b s (Machine.dropPackets m t) := h.modFab

theorem sendTo {coord : Nat} {j : Sending} : Keeps b s (Machine.sendTo coord j t) := by
  unfold Machine.sendTo
  split
  · exact h
  · split
    · exact h.modFab
    · split
      · exact h.dropPackets
      · split
        · exact h.modFab
        · exact h.sendPacket

theorem reroute : Keeps b s (Machine.reroute t) := by
  simp only [Machine.reroute]
  exact (h.foldl fun h => h.ite h.modPort).modFab.foldl fun h => h.sendTo

theorem sendUnits {owner : Option Nat} {us : List (Nat × Nat × XUnit)} : Keeps b s (Machine.sendUnits owner us t) := by
  simp only [Machine.sendUnits]
  split
  · exact h
  · exact (h.foldl fun h => h.sendTo).modOut

theorem modExch {p x : Nat} {g : Exch → Exch} : Keeps b s (Machine.modExch p x g t) := h.modXch

theorem cancelSender {p x : Nat} {sel : XTok → Bool} : Keeps b s (Machine.cancelSender p x sel t) := by
  simp only [Machine.cancelSender]
  exact (h.foldl fun h => by split; exacts [h, h.sendUnits]).modExch

theorem voidHome {p x : Nat} {sel : Nat → Bool} : Keeps b s (Machine.voidHome p x sel t) := by
  simp only [Machine.voidHome]
  exact h.sendUnits.modExch

theorem abortExch {p x : Nat} : Keeps b s (Machine.abortExch p x t) := h.cancelSender.voidHome.modExch

theorem abortAllExch {p : Nat} : Keeps b s (Machine.abortAllExch p t) := h.foldl fun h => h.abortExch

theorem dropExch {p c x : Nat} {run : Bool} : Keeps b s (Machine.dropExch p c x run t) := by
  simp only [Machine.dropExch]
  split
  · exact h.cancelSender
  · exact h.cancelSender.voidHome.modExch

/-! ### BatchOps -/

theorem emitRec {p batch r type value pos detail flags : Nat} : Keeps b s (Machine.emitRec p batch r type value pos detail flags t) := by
  simp only [Machine.emitRec]
  exact h.ite h.modRing.modRow

theorem emitRecNow {p batch r type value pos detail flags : Nat} : Keeps b s (Machine.emitRecNow p batch r type value pos detail flags t) := by
  simp only [Machine.emitRecNow]
  exact (h.eachSignals (fun h => h.emitRec)).ite h.emitRec

theorem finishRow {p batch r : Nat} : Keeps b s (Machine.finishRow p batch r t) := h.modRow

theorem freeBatch {p batch : Nat} : Keeps b s (Machine.freeBatch p batch t) := h.modBatch

theorem bumpGen {p batch : Nat} : Keeps b s (Machine.bumpGen p batch t) := h.modBatch

theorem closeRows {p batch type value detail : Nat} : Keeps b s (Machine.closeRows p batch type value detail t) :=
  h.foldl fun h => h.emitRecNow.finishRow

theorem resetBatches {c level cause : Nat} {records : Bool} : Keeps b s (Machine.resetBatches c level cause records t) := by
  simp only [Machine.resetBatches]
  exact h.foldl fun h => (h.closeRows.ite h).bumpGen.freeBatch

/-! ### ResetOps -/

theorem takeSnapshot {cause : Nat} : Keeps b s (Machine.takeSnapshot cause t) := by
  unfold Machine.takeSnapshot
  split
  · exact h.modFlt
  · extract_lets snap
    have hu : Keeps b s (Machine.modFlt (fun f => { f with snap := snap, snapValid := true, snapLock := true }) t) :=
      h.rewrite fun ⟨h0, h1, h2, hflash, hsram, hupload, _, hhost, hpend⟩ =>
        ⟨h0, h1, h2, hflash, hsram, hupload, wf_snapshotOf cause t, hhost, hpend⟩
    exact hu.pulse

theorem switchOff {stage : Stage} : Keeps b s (Machine.switchOff stage t) := by
  unfold Machine.switchOff
  extract_lets u
  have hu : Keeps b s u := h.fence
  clear_value u
  refine hu.rewrite (fun w => ?_) rfl
  obtain ⟨_, _, _, hflash, hsram, hupload, hsnap, hhost, hpend⟩ := w
  exact ⟨wf_empty, wf_empty, wf_empty, hflash, hsram, hupload, hsnap, hhost, hpend⟩

theorem requestCycle {cause : Nat} : Keeps b s (Machine.requestCycle cause t) := h.modFlt.mctpSend.pulse

theorem dropMoverItems {sel : MoverItem → Bool} : Keeps b s (Machine.dropMoverItems sel t) := h.foldl fun h => h.modDie.foldl fun h => h.dropTransit

theorem purgeMoverItems {sel : MoverItem → Bool} : Keeps b s (Machine.purgeMoverItems sel t) := h.takeItems.settleMovers

theorem markGone {c : Nat} : Keeps b s (Machine.markGone c t) := h.same

theorem clearStreams {p : Nat} : Keeps b s (Machine.clearStreams p t) := h.modPtn

theorem removeWork {c : Nat} : Keeps b s (Machine.removeWork c t) := by
  simp only [Machine.removeWork]
  exact ((h.clearRecomputing.clearStreams.ite h.clearRecomputing).foldl fun h => h.dropExch).modFe.dropMoverItems.modPtn.markGone

theorem beginCtxReset {c level cause : Nat} {db : Bool} : Keeps b s (Machine.beginCtxReset c level cause db t) := by
  simp only [Machine.beginCtxReset]
  split
  · exact h
  · exact (h.modCtx.modFlt.ite h.modCtx).removeWork
  · split
    · exact h.modCtx.ite h
    · exact h

theorem beginEngReset {e : EngineSel} {cause : Nat} : Keeps b s (Machine.beginEngReset e cause t) := by
  unfold Machine.beginEngReset
  refine h.ite ?_
  extract_lets cs u v
  have hv : Keeps b s v := h.modFlt.foldl fun h => h.beginCtxReset
  split
  · exact hv.modDie.foldl fun h => h.dropTransit
  · exact hv.clearStreams.modFe
  · exact hv.foldl fun h => h.abortAllExch.ite h
  · exact hv

theorem stopFe {p : Nat} : Keeps b s (Machine.stopFe p t) := h.modFe

theorem clearChans {p : Nat} : Keeps b s (Machine.clearChans p t) := h.modFab

theorem cutFig {p : Nat} : Keeps b s (Machine.cutFig p t) := h.modFig.pulse.ite h

theorem beginPtnReset {p cause : Nat} : Keeps b s (Machine.beginPtnReset p cause t) := by
  simp only [Machine.beginPtnReset]
  split
  · exact h
  · exact (h.modFlt.modPtn.cutFig.clearStreams.clearChans.foldl fun h => h.beginCtxReset).abortAllExch.stopFe

theorem resetRing {r level cause : Nat} {db : Bool} : Keeps b s (Machine.resetRing r level cause db t) := by
  simp only [Machine.resetRing]
  exact (h.modRing.writeBack.ite h.modRing).addReset

theorem railsForRepair : Keeps b s (Machine.railsForRepair t) := h.foldl fun h => h.modQtr

theorem moduleEntries {c : Nat} : Keeps b s (Machine.moduleEntries t c) := by
  simp only [Machine.moduleEntries]
  split
  · exact (h.resetBatches.foldl fun h => h.resetRing).modCtx
  · exact h

theorem faultFig {p : Nat} : Keeps b s (Machine.faultFig p t) := by
  unfold Machine.faultFig
  split
  · exact h.cutFig.modFig
  · exact h.cutFig.modFig
  · exact h.cutFig.modFig
  · exact h

theorem beginModReset {cause : Nat} : Keeps b s (Machine.beginModReset cause t) := by
  unfold Machine.beginModReset
  split
  · exact h
  · extract_lets _ _ _ stopped emptied told rails
    have hstopped : Keeps b s stopped :=
      (h.takeSnapshot.fence.foldl fun h => h.beginCtxReset).foldl fun h => h.faultFig.clearStreams.abortAllExch.stopFe
    have hemptied : Keeps b s emptied := hstopped.foldl fun h => h.modDie.foldl fun h => h.dropTransit
    clear_value emptied
    have htold : Keeps b s told := Keeps.ite hemptied.modFlt (hemptied.foldl fun h => h.moduleEntries)
    clear_value told
    have hrails : Keeps b s rails := Keeps.railsForRepair htold.modBoot
    clear_value rails
    have hfenced := hrails.same (u := { rails with sets := [], qtrAvail := 0 })
    exact hfenced.modFlt

theorem takeAction {r : FaultRec} : Keeps b s (Machine.takeAction r t) := by
  unfold Machine.takeAction
  split
  · split
    · exact h.beginCtxReset.ite h
    · exact h
  · split
    · exact h.beginEngReset.ite h
    · exact h
  · split
    · exact h.beginPtnReset.ite h
    · exact h
  · exact h.beginModReset
  · exact h.takeSnapshot.switchOff.requestCycle.ite h.takeSnapshot.requestCycle
  · exact h

theorem raisePlain {r : FaultRec} : Keeps b s (Machine.raisePlain r t) := h.recordFault.takeAction

theorem dropMirror {p : Nat} {st : FigSt} : Keeps b s (Machine.dropMirror p st t) := by
  simp only [Machine.dropMirror]
  exact h.modPtn.foldl fun h => h.modQtr

theorem mirrorFail {p quarter kind : Nat} : Keeps b s (Machine.mirrorFail p quarter kind t) := h.dropMirror.pulse.raisePlain

theorem raise {r : FaultRec} : Keeps b s (Machine.raise r t) := by
  simp only [Machine.raise]
  split
  · exact h.raisePlain.mirrorFail.ite h.raisePlain
  · exact h.raisePlain

theorem raiseCtx {code c index detail : Nat} : Keeps b s (Machine.raiseCtx code c index detail t) := h.raise

theorem raisePtn {code p index detail : Nat} : Keeps b s (Machine.raisePtn code p index detail t) := h.raise

theorem raiseMod {code index detail : Nat} : Keeps b s (Machine.raiseMod code index detail t) := h.raise

theorem noteFull {r : Nat} : Keeps b s (Machine.noteFull r t) := by
  simp only [Machine.noteFull]
  exact h.modRing.raise.ite h

theorem vfAccess {fn off : Nat} : Keeps b s (Machine.vfAccess fn off t) := h.raise

theorem flagLocked {fn : Nat} : Keeps b s (Machine.flagLocked fn t) := h.modFn

theorem flagSize {fn : Nat} : Keeps b s (Machine.flagSize fn t) := h.modFn

theorem flagUnmapped {fn : Nat} : Keeps b s (Machine.flagUnmapped fn t) := h.modFn

/-! ### PowerOps -/

theorem aimVolts {p mv : Nat} : Keeps b s (Machine.aimVolts p mv t) := h.foldl fun h => h.modQtr

theorem setTickets {p : Nat} : Keeps b s (Machine.setTickets p t) := by
  simp only [Machine.setTickets]
  exact h.foldl fun h => h.modQtr

theorem takeBudgets {p : Nat} : Keeps b s (Machine.takeBudgets p t) := h.foldl fun h => h.modQtr

theorem setDivider {p d : Nat} : Keeps b s (Machine.setDivider p d t) := by
  simp only [Machine.setDivider]
  exact h.modPPwr.setTickets.takeBudgets.aimVolts

theorem afterReturnStep {p t1 : Nat} : Keeps b s (Machine.afterReturnStep p t1 t) := h.modPPwr

theorem takeDivider {p : Nat} : Keeps b s (Machine.takeDivider p t) := by
  simp only [Machine.takeDivider]
  split
  · exact h
  · split
    · exact h.setDivider.ite h.aimVolts
    · split
      · exact h.ite (h.setDivider.afterReturnStep.ite h.aimVolts)
      · exact h.afterReturnStep.takeBudgets.aimVolts

theorem retargetOne {p : Nat} : Keeps b s (Machine.retargetOne t p) := by
  simp only [Machine.retargetOne]
  split
  · exact h.takeDivider
  · split
    · exact h
    · split
      · exact h.aimVolts.ite h
      · exact h

theorem retarget : Keeps b s (Machine.retarget t) := h.foldl fun h => h.retargetOne

theorem guardOne {p : Nat} : Keeps b s (Machine.guardOne t p) := by
  simp only [Machine.guardOne]
  split
  · exact h.modPtn.setTickets.ite h
  · exact h

theorem mirrorGuard : Keeps b s (Machine.mirrorGuard t) := h.foldl fun h => h.guardOne

theorem limitsChanged : Keeps b s (Machine.limitsChanged t) := h.retarget.mirrorGuard

theorem railsTo {p : Nat} : Keeps b s (Machine.railsTo p t) := by
  simp only [Machine.railsTo]
  exact h.modPPwr.foldl fun h => h.modQtr

theorem refuseSetting {p code q : Nat} : Keeps b s (Machine.refuseSetting p code q t) := by
  simp only [Machine.refuseSetting]
  exact h.modPPwr.pulse.raise

/-! ### RowOps -/

theorem rowRecord {p batch r type value detail flags : Nat} : Keeps b s (Machine.rowRecord p batch r type value detail flags t) := by
  simp only [Machine.rowRecord]
  exact h.ite h.emitRec

theorem killRow {p batch r : Nat} : Keeps b s (Machine.killRow p batch r t) := h.modRow

theorem rowFault {p batch r code index detail : Nat} {die : Option Nat} {kill : Bool} :
    Keeps b s (Machine.rowFault p batch r code index detail die kill t) := by
  simp only [Machine.rowFault]
  split
  · exact h.raise.rowRecord.killRow.ite h.raise.rowRecord
  · exact h.raise

theorem replaceRow {p batch r : Nat} {d : RowDesc} : Keeps b s (Machine.replaceRow p batch r d t) := by
  simp only [Machine.replaceRow]
  exact (h.ite h.rowRecord).modRow

theorem applyRowSets {p batch : Nat} : Keeps b s (Machine.applyRowSets p batch t) := by
  simp only [Machine.applyRowSets]
  exact h.modBatch.foldl fun h => (h.foldl fun h => h.replaceRow).endCmd

theorem endWaiting {opcode id : Nat} : Keeps b s (Machine.endWaiting opcode id t) := h.foldl fun h => h.endCmd

theorem passAlpha {c batch : Nat} : Keeps b s (Machine.passAlpha c batch t) := h.foldl fun h => h.modAdapter.endWaiting.ite h.modAdapter

theorem recountRefs : Keeps b s (Machine.recountRefs t) := by
  simp only [Machine.recountRefs]
  exact (h.foldl fun h => h.modAdapter.endWaiting.ite h.modAdapter).foldl fun h => h.modSteer.endWaiting.ite h.modSteer

theorem dropRuns {p batch status : Nat} {queued : Bool} : Keeps b s (Machine.dropRuns p batch status queued t) := by
  simp only [Machine.dropRuns]
  exact h.modFe.foldl fun h => h.endCmd

theorem closeBatch {p batch detail : Nat} : Keeps b s (Machine.closeBatch p batch detail t) := by
  unfold Machine.closeBatch
  extract_lets _ _ _ u v
  have hu : Keeps b s u := (h.dropRuns.foldl fun h => h.rowRecord.finishRow).foldl fun h => h.endCmd
  have hv : Keeps b s v := by simp only [v]; split; exacts [hu.endCmd, hu]
  exact (hv.bumpGen.ite hv).freeBatch.passAlpha.recountRefs

theorem deadlines {p batch tb : Nat} : Keeps b s (Machine.deadlines p batch tb t) := h.foldl fun h => h.rowRecord.killRow

theorem buildSegments {p batch : Nat} : Keeps b s (Machine.buildSegments p batch t) := by
  simp only [Machine.buildSegments]
  exact h.modBatch.recountRefs.foldl fun h => h.rowFault.ite (h.rowFault.ite h)

theorem checkMasks {p batch : Nat} : Keeps b s (Machine.checkMasks p batch t) := by
  simp only [Machine.checkMasks]
  exact h.foldl fun h => h.rowFault.ite h

theorem dropPoisoned {p c a : Nat} {es : List Nat} : Keeps b s (Machine.dropPoisoned p c a es t) := by
  simp only [Machine.dropPoisoned]
  split
  · exact h
  · exact h.returnPages.modTab

theorem allocBlocks {p c a : Nat} {fresh bs : List Nat} : Keeps b s (Machine.allocBlocks p c a fresh bs t).2 := by
  induction bs generalizing t with
  | nil => exact h
  | cons blk bs ih =>
    simp only [Machine.allocBlocks]
    split
    · exact ih (h.allocBlock.snd ‹_›)
    · exact h.allocBlock.snd ‹_›

theorem allocRow {p c a : Nat} {dup : Bool} {fresh : List Nat} : Keeps b s (Machine.allocRow p c a dup fresh t).2.2 := by
  simp only [Machine.allocRow]
  split
  · exact h
  · split
    · exact h
    · split
      · exact h
      · split
        · exact h
        · split
          · exact h.dropPoisoned
          · split
            · exact h.dropPoisoned
            · exact h.dropPoisoned.allocBlocks

theorem rowOutcome {p batch r : Nat} {o : KvOut} : Keeps b s (Machine.rowOutcome p batch r o t) := by
  unfold Machine.rowOutcome
  extract_lets x tab miss first u
  split
  · exact h.rowFault
  · extract_lets w
    exact (h.ite h.rowFault).modRow
  · split
    · exact (h.ite h.rowRecord).modRow
    · exact h.modRow

theorem allocPass {p batch : Nat} : Keeps b s (Machine.allocPass p batch t) := by
  unfold Machine.allocPass
  extract_lets x r
  have hr : Keeps b s r.2.2 :=
    List.foldlRecOn (motive := fun (acc : List (Nat × KvOut) × List Nat × State) => Keeps b s acc.2.2) _ _ h fun _ h _ _ => h.allocRow
  exact hr.foldl fun h => h.rowOutcome

theorem admitRing {p batch ring : Nat} : Keeps b s (Machine.admitRing p batch ring t) := by
  unfold Machine.admitRing
  extract_lets _ _ _ _ _ _ _ u
  have hu : Keeps b s u := h.foldl fun h => h.modRow
  exact hu.modRing.ite (hu.ite hu.raise.modRing)

theorem seatRows {p batch : Nat} : Keeps b s (Machine.seatRows p batch t) := h.modBatch

theorem admitRows {p batch : Nat} : Keeps b s (Machine.admitRows p batch t) := by
  simp only [Machine.admitRows]
  exact (h.foldl fun h => h.admitRing).seatRows

theorem rowPhases {p batch tb : Nat} {replaced : Bool} : Keeps b s (Machine.rowPhases p batch tb replaced t) := by
  unfold Machine.rowPhases
  extract_lets _ u
  have hu : Keeps b s u := (h.deadlines.buildSegments.ite h.deadlines).checkMasks
  exact hu.allocPass.admitRows.ite hu

theorem startStep {p batch : Nat} : Keeps b s (Machine.startStep p batch t) := by
  simp only [Machine.startStep]
  exact (h.eachSignals (fun h => h.deadlines)).modPtn.modBatch

/-! ### FeOps -/

theorem pickCtx {n p : Nat} : Keeps b s (Machine.pickCtx n p t).2 := by
  induction n generalizing t with
  | zero => exact h
  | succ n ih =>
    unfold Machine.pickCtx
    extract_lets
    split
    · exact h
    · extract_lets u
      have hu : Keeps b s u := h.modFe
      split
      · exact ih hu.modCtx
      · exact hu

theorem endRecompute {p a : Nat} : Keeps b s (Machine.endRecompute p a t) := h.modTab

theorem nextChunk {p : Nat} {k : Cmd} : Keeps b s (Machine.nextChunk p k t).2.2 := by
  simp only [Machine.nextChunk]
  split
  · exact h
  · split
    · exact h
    · split
      · exact (h.allocBlocks.snd ‹_›)
      · exact (h.allocBlocks.snd ‹_›)

theorem beginTurn {p : Nat} {r : Running} : Keeps b s (Machine.beginTurn p r t) := by
  simp only [Machine.beginTurn]
  exact (h.ite h.modCtx).modFe.modCmd

theorem parkDone {p : Nat} : Keeps b s (Machine.parkDone p t) := by
  simp only [Machine.parkDone]
  exact h.modPPwr.mirrorGuard.raisePtn

theorem leaveEngine {p : Nat} : Keeps b s (Machine.leaveEngine p t) := by
  simp only [Machine.leaveEngine]
  exact h.modFe.parkDone.ite (h.modFe.modFe.ite h.modFe)

theorem beginWork {p : Nat} {r : Running} : Keeps b s (Machine.beginWork p r t).1 := by
  simp only [Machine.beginWork]
  split
  · exact h
  · split
    · split
      · exact (h.ite h.startStep).beginTurn
      · exact h.endCmd
    · split
      · split
        · exact (h.nextChunk.snd₂ ‹_›).beginTurn
        · exact (h.nextChunk.snd₂ ‹_›).endRecompute.endCmd
      · exact h.beginTurn

theorem endEpoch {p : Nat} {r : Running} : Keeps b s (Machine.endEpoch p r t) := by
  unfold Machine.endEpoch
  extract_lets u
  have hu : Keeps b s u := by simp only [u]; split; exacts [h.endRecompute.ite h, h]
  exact hu.endCmd

theorem beginSaved {p : Nat} {v : Saved} : Keeps b s (Machine.beginSaved p v t).1 := by
  unfold Machine.beginSaved
  extract_lets u
  have hu : Keeps b s u := h.modFe
  split
  · exact hu.endEpoch
  · split
    · exact hu.modFe (g := fun f => { f with mode := .restoring, resume := some v })
    · exact hu.beginWork

theorem serveFuel {n p : Nat} : Keeps b s (Machine.serveFuel n p t) := by
  induction n generalizing t with
  | zero => exact h
  | succ n ih =>
    simp only [Machine.serveFuel]
    split
    · exact h
    · split
      · exact (ih h.modFe.beginWork).ite h.modFe.beginWork
      · exact (ih h.modFe.beginSaved).ite h.modFe.beginSaved
      · split
        · exact h.modFe.pickCtx.snd ‹_›
        · rename_i u hpick
          have hu : Keeps b s u := h.modFe.pickCtx.snd hpick
          split
          · exact (ih hu.beginSaved).ite hu.beginSaved
          · split
            · exact hu
            · exact (ih hu.modFe.beginWork).ite hu.modFe.beginWork

theorem serve {p : Nat} : Keeps b s (Machine.serve p t) := h.modFe.serveFuel

theorem requestStop {p : Nat} {park : Bool} : Keeps b s (Machine.requestStop p park t) := by
  simp only [Machine.requestStop]
  split
  · exact h.ite (h.modFe.modCtx.ite h.modFe)
  · exact h.modFe.ite h
  · exact h

theorem kick {p : Nat} : Keeps b s (Machine.kick p t) := by
  simp only [Machine.kick]
  split
  · exact h.serve
  · exact h.requestStop.ite h
  · exact h

theorem enqueueWork {p : Nat} {r : Running} : Keeps b s (Machine.enqueueWork p r t) := h.modFe.kick

theorem bookOverrun {p : Nat} : Keeps b s (Machine.bookOverrun p t) := by
  simp only [Machine.bookOverrun]
  split
  · exact h.modCtx.modFe
  · exact h

theorem setAside {p : Nat} {r : Running} : Keeps b s (Machine.setAside p r t) := by
  simp only [Machine.setAside]
  exact h.bookOverrun.modFe.modCmd.leaveEngine

theorem endWork {p : Nat} {r : Running} {status result : Nat} : Keeps b s (Machine.endWork p r status result t) := h.bookOverrun.endCmd.leaveEngine

theorem startPark {p : Nat} : Keeps b s (Machine.startPark p t) := by
  simp only [Machine.startPark]
  split
  · exact h.modPPwr.modFe.parkDone
  · exact h.modPPwr.modFe.parkDone
  · split
    · exact h.modPPwr.modFe.parkDone
    · exact h.modPPwr
  · exact h.modPPwr.requestStop

theorem unpark {p : Nat} : Keeps b s (Machine.unpark p t) := by
  simp only [Machine.unpark]
  split
  · exact h.modPPwr.modFe
  · exact h.modPPwr.kick

/-! ### HostOps -/

theorem hostAccess {fn off : Nat} {seen early : Bool} {go : State → State} (hgo : ∀ {u}, Keeps b s u → Keeps b s (go u)) :
    Keeps b s (Machine.hostAccess fn off seen early go t) := h.ite (h.vfAccess.ite (h.flagUnmapped.ite (hgo h)))

theorem mgmtServe {code inst : Nat} {ok : Stage → Bool} {go : State → Nat × List Byte × State} (hgo : ∀ {u}, Keeps b s u → Keeps b s (go u).2.2) :
    Keeps b s (Machine.mgmtServe code inst ok go t) := by
  simp only [Machine.mgmtServe]
  split
  · exact h
  · split
    · exact (hgo h.mctpGot).mctpSend
    · exact h.mctpGot.mctpSend

/-! ### Objects -/

theorem raiseRefused {c ring idx eng die : Nat} {l : List (Nat × Nat)} :
    Keeps b s (Machine.raiseRefused c ring idx eng die l t) := h.foldl fun h => h.raise

theorem raiseUnver {p c ring idx eng die : Nat} {l : List (Nat × Nat)} :
    Keeps b s (Machine.raiseUnver p c ring idx eng die l t) := h.foldl fun h => h.ite h.modPMem.raise

theorem afterRead {p c ring idx eng : Nat} {g : Got} : Keeps b s (Machine.afterRead p c ring idx eng g t) := h.touchObjs.raiseUnver.raiseRefused

theorem execObjSet {e : Entry} : Answers b s (Machine.execObjSet e t) := ⟨_, rfl, h.runEntry (fun h => h.toMover)⟩

theorem execObjClear {e : Entry} : Answers b s (Machine.execObjClear e t) := ⟨_, rfl, h.runEntry (fun h => h.toMover)⟩

theorem releaseObj {p o : Nat} : Keeps b s (Machine.releaseObj p o t) := (h.foldl fun h => h.freePage).modObj

theorem execObjClearDone {p : PtnId} {obj : ObjId} : Answers b s (Machine.execObjClearDone p obj t) := by
  simp only [Machine.execObjClearDone]
  refine ⟨_, rfl, ?_⟩
  split
  · split
    · exact h.releaseObj.endCmd
    · exact h.releaseObj
  · exact h

theorem execObjQuery {e : Entry} : Answers b s (Machine.execObjQuery e t) := ⟨_, rfl, h.runEntry (fun h => h.toMover)⟩

/-! ### Firmware -/

theorem setMeas {i : Nat} {d : List Byte} : Keeps b s (Machine.setMeas i d t) := h.modMgmt

theorem deriveAlias : Keeps b s (Machine.deriveAlias t) := h.modMgmt

theorem bootNotice : Keeps b s (Machine.bootNotice t) := h.mctpSend

/-! ### Plans -/

theorem modUnits {p : Nat} {g : Ptnu → Ptnu} : Keeps b s (Machine.modUnits p g t) := h.modPtn

theorem planEnd {p code info : Nat} : Keeps b s (Machine.planEnd p code info t) := h.modUnits.pulse

theorem mapEnd {p code info : Nat} : Keeps b s (Machine.mapEnd p code info t) := h.modAtt.pulse

theorem planCmd {p slot : Nat} {bind : Bool} : Keeps b s (Machine.planCmd p slot bind t) := by
  simp only [Machine.planCmd]
  exact h.ite (h.planEnd.ite h.modUnits)

theorem mapCmd {p slot : Nat} {bind : Bool} : Keeps b s (Machine.mapCmd p slot bind t) := by
  simp only [Machine.mapCmd]
  exact h.ite (h.mapEnd.ite h.modAtt)

theorem planBindEnd {p : Nat} : Keeps b s (Machine.planBindEnd p t) := by
  unfold Machine.planBindEnd
  split
  · exact h
  · split
    · exact h.planEnd.ite h.modUnits.planEnd
    · split
      · exact h.planEnd
      · exact h.modUnits.planEnd

theorem mapBindEnd {p : Nat} : Keeps b s (Machine.mapBindEnd p t) := by
  unfold Machine.mapBindEnd
  split
  · exact h
  · split
    · exact h.mapEnd.ite h.modAtt.mapEnd
    · split
      · exact h.mapEnd
      · exact h.modAtt.mapEnd

theorem execPlanBind {fn : FnId} {p : PtnId} {slot : SlotId} :
    Answers b s (Machine.execPlanBind fn p slot t) := ⟨_, rfl, h.hostAccess (fun h => h.planCmd)⟩

theorem execPlanUnbind {fn : FnId} {p : PtnId} {slot : SlotId} :
    Answers b s (Machine.execPlanUnbind fn p slot t) := ⟨_, rfl, h.hostAccess (fun h => h.planCmd)⟩

theorem execPlanBindDone {p : PtnId} : Answers b s (Machine.execPlanBindDone p t) := ⟨_, rfl, h.planBindEnd.ite h⟩

theorem execMapBind {fn : FnId} {p : PtnId} {slot : SlotId} :
    Answers b s (Machine.execMapBind fn p slot t) := ⟨_, rfl, h.hostAccess (fun h => h.mapCmd)⟩

theorem execMapUnbind {fn : FnId} {p : PtnId} {slot : SlotId} :
    Answers b s (Machine.execMapUnbind fn p slot t) := ⟨_, rfl, h.hostAccess (fun h => h.mapCmd)⟩

theorem execMapBindDone {p : PtnId} : Answers b s (Machine.execMapBindDone p t) := ⟨_, rfl, h.mapBindEnd.ite h⟩

/-! ### Directory -/

theorem changeAlpha {c : Cmd} {a : Nat} {n : Adapter} : Keeps b s (Machine.changeAlpha c a n t) := by
  simp only [Machine.changeAlpha]
  exact h.modAdapter.endCmd.ite h.modAdapter.modCmd

theorem adapterSet {c : Cmd} : Keeps b s (Machine.adapterSet c t) := by
  simp only [Machine.adapterSet]
  split
  · exact h.endCmd
  · exact h.changeAlpha.ite h.modAdapter.endCmd

theorem execAdapterSet {e : Entry} : Answers b s (Machine.execAdapterSet e t) := ⟨_, rfl, h.runEntry (fun h => h.adapterSet)⟩

theorem adapterClear {c : Cmd} : Keeps b s (Machine.adapterClear c t) := by
  simp only [Machine.adapterClear]
  exact h.endCmd.ite (h.endCmd.ite h.modAdapter.modCmd.recountRefs)

theorem execAdapterClear {e : Entry} : Answers b s (Machine.execAdapterClear e t) := ⟨_, rfl, h.runEntry (fun h => h.adapterClear)⟩

theorem steerSet {c : Cmd} : Keeps b s (Machine.steerSet c t) := by
  simp only [Machine.steerSet]
  split
  · exact h.endCmd
  · exact (h.ite h.modSteer).endCmd

theorem execSteerSet {e : Entry} : Answers b s (Machine.execSteerSet e t) := ⟨_, rfl, h.runEntry (fun h => h.steerSet)⟩

theorem steerClear {c : Cmd} : Keeps b s (Machine.steerClear c t) := by
  simp only [Machine.steerClear]
  exact h.endCmd.ite (h.endCmd.ite h.modSteer.modCmd.recountRefs)

theorem execSteerClear {e : Entry} : Answers b s (Machine.execSteerClear e t) := ⟨_, rfl, h.runEntry (fun h => h.steerClear)⟩

theorem modPartner {p set : Nat} {g : Partner → Partner} : Keeps b s (Machine.modPartner p set g t) := h.modPtn

theorem countGather {p set a n : Nat} {cold : State → State} {hot : Bool} (hcold : ∀ {u}, Keeps b s u → Keeps b s (cold u)) :
    Keeps b s (Machine.countGather p set a n cold hot t) := by
  simp only [Machine.countGather]
  exact (h.ite (hcold h)).modUnits

theorem gatherRead {p c set a n : Nat} : Keeps b s (Machine.gatherRead p c set a n t) := by
  unfold Machine.gatherRead
  split
  · exact h.afterRead
  · exact h

theorem gatherPiece {p set a i : Nat} : Keeps b s (Machine.gatherPiece p set a i t) := by
  simp only [Machine.gatherPiece]
  split
  · exact h
  · split
    · exact h
    · split
      · exact h
      · split
        · exact h.modPartner
        · split
          · exact h
          · exact (h.gatherRead.countGather (fun h => h.modAdapter)).modPartner

theorem gatherVector {p set t2 l : Nat} : Keeps b s (Machine.gatherVector p set t2 l t) := by
  simp only [Machine.gatherVector]
  split
  · exact h
  · split
    · exact h.modPartner
    · split
      · exact h
      · exact (h.gatherRead.countGather (fun h => h)).modPartner

theorem execGatherDone {p : PtnId} {set : Nat} {what : GatherKind} : Answers b s (Machine.execGatherDone p set what t) := by
  simp only [Machine.execGatherDone]
  refine ⟨_, rfl, ?_⟩
  split
  · exact h
  · split
    · exact h.gatherPiece.ite h
    · exact h.gatherVector.ite h

theorem markRows {p : Nat} {rows : List Nat} : Keeps b s (Machine.markRows p rows t) := by
  unfold Machine.markRows
  split
  · exact h.modBatch
  · exact h

theorem modRun {p : Nat} {g : Running → Running} : Keeps b s (Machine.modRun p g t) := h.modFe

theorem modStep {p batch : Nat} {g : BStep → BStep} : Keeps b s (Machine.modStep p batch g t) := h.modBatch

theorem takeShadow {p : Nat} {what : FetchKind} : Keeps b s (Machine.takeShadow p what t) := by
  simp only [Machine.takeShadow]
  split
  · exact h.modPMem.modRun.markRows
  · exact h.modPMem.gatherPiece.modPartner
  · exact h.modPMem.gatherVector.modPartner
  · exact h.modPMem.modRun.markRows

theorem takeBase {p batch set a i : Nat} : Keeps b s (Machine.takeBase p batch set a i t) := by
  simp only [Machine.takeBase]
  split
  · exact h
  · exact h.modPMem.modUnits.modStep.markRows

theorem takeRecompute {p r n blk : Nat} : Keeps b s (Machine.takeRecompute p r n blk t) := by
  simp only [Machine.takeRecompute]
  split
  · exact h.modPMem.modStep
  · exact h.modPMem.modRun

theorem lateFetch {p o : Nat} {what : FetchKind} : Keeps b s (Machine.lateFetch p o what t) := by
  simp only [Machine.lateFetch]
  split
  · exact h
  · split
    · exact h.takeShadow.ite h
    · exact h.takeRecompute.ite h
    · exact h.modPMem.modRun.modStep
    · exact h.takeBase.ite h
    · exact h

theorem execFetchDeadline {p : PtnId} {obj : ObjId} {what : FetchKind} :
    Answers b s (Machine.execFetchDeadline p obj what t) := ⟨_, rfl, h.lateFetch.ite h⟩

/-! ### Exchange -/

theorem stageRoute {p x : Nat} {t2 : RouteTbl} : Keeps b s (Machine.stageRoute p x t2 t) := h.modExch

theorem routeGo {c : Cmd} : Keeps b s (Machine.routeGo c t) := by
  simp only [Machine.routeGo]
  split
  · exact h.endCmd
  · split
    · exact h.endCmd
    · split
      · exact h.endCmd
      · exact h.endCmd.ite (h.endCmd.ite h.stageRoute.endCmd)

theorem routeStart {c : Cmd} : Keeps b s (Machine.routeStart c t) := h.routeGo.ite h.endCmd

theorem execRouteSet {e : Entry} : Answers b s (Machine.execRouteSet e t) := ⟨_, rfl, h.runEntry (fun h => h.routeStart)⟩

theorem xchFault {code p index detail : Nat} : Keeps b s (Machine.xchFault code p index detail t) := h.raise

theorem issueToks {p x n : Nat} : Keeps b s (Machine.issueToks p x n t) := by
  induction n generalizing t with
  | zero => exact h
  | succ n ih =>
    simp only [Machine.issueToks]
    split
    · exact h
    · split
      · exact h
      · exact h.ite (ih (h.modExch.modXch.ite h.modExch))

theorem issueAll {p x : Nat} : Keeps b s (Machine.issueAll p x t) := h.issueToks

theorem beginXStep {p x n : Nat} : Keeps b s (Machine.beginXStep p x n t) := h.modExch

theorem startXStep {p x : Nat} : Keeps b s (Machine.startXStep p x t) := by
  simp only [Machine.startXStep]
  split
  · exact h
  · split
    · exact h.raise
    · split
      · exact h.raise
      · exact h.beginXStep.modExch.sendUnits.issueAll

theorem feedCards {p x : Nat} : Keeps b s (Machine.feedCards p x t) := h.foldl fun h => by split; exacts [h, h.modExch.ite h]

theorem closeCard {p x n l : Nat} : Keeps b s (Machine.closeCard p x n l t) := by
  simp only [Machine.closeCard]
  split
  · exact h
  · exact h.modExch.ite h.modExch.modXch.xchFault

theorem tryClose {p x n : Nat} {t3 : RouteTbl} : Keeps b s (Machine.tryClose p x n t3 t) := by
  simp only [Machine.tryClose]
  split
  · exact h
  · exact ((h.foldl fun h => h.modExch).foldl fun h => h.closeCard).sendUnits.feedCards

theorem drawAnswers {p x n : Nat} : Keeps b s (Machine.drawAnswers p x n t) := by
  induction n generalizing t with
  | zero => exact h
  | succ n ih =>
    simp only [Machine.drawAnswers]
    split
    · exact h
    · split
      · exact h
      · refine ih ?_
        split
        · exact h.modExch.ite h.modExch.sendUnits
        · exact h.modExch

theorem onUnit {kind : Nat} {x : XUnit} {go : Nat → Nat → Nat → RouteTbl → State → State}
    (hgo : ∀ {a0 a1 a2 a3 u}, Keeps b s u → Keeps b s (go a0 a1 a2 a3 u)) :
    Keeps b s (Machine.onUnit kind x go t) := by
  simp only [Machine.onUnit]
  split
  · exact h
  · split
    · exact h.xchFault
    · split
      · exact h.xchFault
      · exact (hgo h).ite h.xchFault

theorem ifCurrent {u0 : XUnit} {p : Nat} {go : State → State} (hgo : ∀ {u}, Keeps b s u → Keeps b s (go u)) :
    Keeps b s (Machine.ifCurrent u0 p go t) := (hgo h).ite h.modXch

theorem scoreUnit {u : XUnit} {p x n : Nat} {t4 : RouteTbl} : Keeps b s (Machine.scoreUnit u p x n t4 t) := by
  simp only [Machine.scoreUnit]
  split
  · exact h
  · split
    · exact h
    · exact h.modExch

theorem endUnit {u : XUnit} {p x n : Nat} {t4 : RouteTbl} : Keeps b s (Machine.endUnit u p x n t4 t) := by
  simp only [Machine.endUnit]
  split
  · exact h
  · exact h.modExch.tryClose.ite h.xchFault

theorem grantUnit {u : XUnit} {p x n : Nat} {t4 : RouteTbl} :
    Keeps b s (Machine.grantUnit u p x n t4 t) := h.ifCurrent (fun h => by extract_lets; split; exacts [h.modExch, h.modExch.sendUnits])

theorem grantEndUnit {u : XUnit} {p x n : Nat} {_t : RouteTbl} :
    Keeps b s (Machine.grantEndUnit u p x n _t t) := h.ifCurrent (fun h => h.modExch.issueAll.ite h.xchFault)

theorem actUnit {u : XUnit} {p x n : Nat} {t4 : RouteTbl} : Keeps b s (Machine.actUnit u p x n t4 t) := by
  simp only [Machine.actUnit]
  split
  · exact h
  · split
    · exact h
    · exact h.modExch.feedCards

theorem answerUnit {u : XUnit} {p x n : Nat} {_t : RouteTbl} :
    Keeps b s (Machine.answerUnit u p x n _t t) := h.ifCurrent (fun h => h.modExch.issueAll)

theorem cancelUnit {u : XUnit} {p x n : Nat} {t4 : RouteTbl} : Keeps b s (Machine.cancelUnit u p x n t4 t) := by
  simp only [Machine.cancelUnit]
  exact h.modExch.tryClose.feedCards

theorem voidUnit {u : XUnit} {p x n : Nat} {_t : RouteTbl} :
    Keeps b s (Machine.voidUnit u p x n _t t) := h.ifCurrent (fun h => h.modXch.modExch.modBatch.issueAll)

theorem handleUnit {kind : Nat} {x : XUnit} : Keeps b s (Machine.handleUnit kind x t) := by
  unfold Machine.handleUnit
  split
  · exact h.onUnit (fun h => h.scoreUnit)
  · exact h.onUnit (fun h => h.endUnit)
  · exact h.onUnit (fun h => h.grantUnit)
  · exact h.onUnit (fun h => h.grantEndUnit)
  · exact h.onUnit (fun h => h.actUnit)
  · exact h.onUnit (fun h => h.answerUnit)
  · exact h.onUnit (fun h => h.cancelUnit)
  · exact h.onUnit (fun h => h.voidUnit)
  · exact h

/-! ### Fabric -/

theorem badPacket {n : Nat} : Keeps b s (Machine.badPacket n t) := h.modPort

theorem portOff {n : Nat} : Keeps b s (Machine.portOff n t) := by
  simp only [Machine.portOff]
  exact h.setPort.modPort

theorem writeEnable {n : Nat} {on : Bool} : Keeps b s (Machine.writeEnable n on t) := by
  simp only [Machine.writeEnable]
  exact (h.modPort.setPort.ite h.modPort).ite (h.modPort.portOff.ite h.modPort)

theorem execPortEnable {fn : FnId} {n : PortId} {on : Bool} :
    Answers b s (Machine.execPortEnable fn n on t) := ⟨_, rfl, h.hostAccess (fun h => h.writeEnable)⟩

theorem writeRetrain {n : Nat} : Keeps b s (Machine.writeRetrain n t) := h.setPort.reroute.ite h

theorem execRetrain {fn : FnId} {n : PortId} : Answers b s (Machine.execRetrain fn n t) := ⟨_, rfl, h.hostAccess (fun h => h.writeRetrain)⟩

theorem execSignalDetect {n : PortId} : Answers b s (Machine.execSignalDetect n t) := by
  simp only [Machine.execSignalDetect]
  refine ⟨_, rfl, ?_⟩
  exact h.setPort.ite (h.setPort.ite h)

theorem execEqualiseDone {n : PortId} {reversed : Bool} : Answers b s (Machine.execEqualiseDone n reversed t) := ⟨_, rfl, h.setPort.modPort.ite h⟩

theorem trainFail {n : Nat} : Keeps b s (Machine.trainFail n t) := h.modPort.setPort

theorem execEqualiseTimeout {n : PortId} : Answers b s (Machine.execEqualiseTimeout n t) := ⟨_, rfl, h.trainFail.ite h⟩

theorem execAlignDone {n : PortId} : Answers b s (Machine.execAlignDone n t) := ⟨_, rfl, h.setPort.ite h⟩

theorem execAlignTimeout {n : PortId} : Answers b s (Machine.execAlignTimeout n t) := ⟨_, rfl, h.trainFail.ite h⟩

theorem sendNotice {type coord from_ : Nat} : Keeps b s (Machine.sendNotice type coord from_ t) := h.foldl fun h => h.sendPacket

theorem dropLost {coord : Nat} : Keeps b s (Machine.dropLost coord t) := by
  simp only [Machine.dropLost]
  exact h.modFab.foldl fun h => h.modPort.dropPackets

theorem peerLost {coord from_ : Nat} : Keeps b s (Machine.peerLost coord from_ t) := by
  simp only [Machine.peerLost]
  split
  · exact h
  · exact (h.modFab.sendNotice.pulse.foldl fun h => h.raiseCtx).dropLost

theorem peerBack {coord from_ : Nat} : Keeps b s (Machine.peerBack coord from_ t) := h.modFab.sendNotice.ite h

theorem linkConfig {n coord : Nat} : Keeps b s (Machine.linkConfig n coord t) := h.setPort.raise

theorem execExchangeDone {n : PortId} {peerCoord peerPort : Nat} {peerValid : Bool} {peerBuffers : List Nat} :
    Answers b s (Machine.execExchangeDone n peerCoord peerPort peerValid peerBuffers t) := by
  simp only [Machine.execExchangeDone]
  refine ⟨_, rfl, ?_⟩
  split
  · split
    · exact h.modPort.linkConfig
    · exact h.modPort.modPort.setPort.peerBack.reroute.drainPort
  · exact h

theorem execSignalLoss {n : PortId} : Answers b s (Machine.execSignalLoss n t) := ⟨_, rfl, h.writeRetrain⟩

theorem resendHeld {n : Nat} : Keeps b s (Machine.resendHeld n t) := h.foldl fun h => h.putFrame

theorem execRetrainDone {n : PortId} : Answers b s (Machine.execRetrainDone n t) := by
  simp only [Machine.execRetrainDone]
  refine ⟨_, rfl, ?_⟩
  split
  · exact h.setPort.modPort.resendHeld.reroute.drainPort
  · exact h

theorem linkDown {n : Nat} : Keeps b s (Machine.linkDown n t) := by
  unfold Machine.linkDown
  extract_lets x cs u _ r v
  have hu : Keeps b s u := h.setPort.modPort.reroute
  have hv : Keeps b s v := hu.raise.ite (hu.foldl fun h => h.raise)
  exact hv.ite hv.peerLost

theorem execRetrainTimeout {n : PortId} : Answers b s (Machine.execRetrainTimeout n t) := ⟨_, rfl, h.linkDown.ite h⟩

theorem peerLeaves {n : Nat} : Keeps b s (Machine.peerLeaves n t) := by
  simp only [Machine.peerLeaves]
  split
  · exact h.setPort.modPort.peerLost.reroute
  · exact h

theorem execLeavingPacket {n : PortId} : Answers b s (Machine.execLeavingPacket n t) := ⟨_, rfl, h.peerLeaves⟩

theorem execLostNotice {n : PortId} {coord : Nat} : Answers b s (Machine.execLostNotice n coord t) := ⟨_, rfl, h.peerLost.ite h⟩

theorem execReturnNotice {n : PortId} {coord : Nat} : Answers b s (Machine.execReturnNotice n coord t) := ⟨_, rfl, h.peerBack.ite h⟩

theorem modChan {c : Nat} {g : Chan → Chan} : Keeps b s (Machine.modChan c g t) := h.modFab

theorem returnCredits {c k : Nat} : Keeps b s (Machine.returnCredits c k t) := by
  simp only [Machine.returnCredits]
  exact h.ite h.sendTo

theorem deliverChannel {k : Packet} : Keeps b s (Machine.deliverChannel k t) := by
  simp only [Machine.deliverChannel]
  split
  · exact h.modChan
  · exact h.modChan.ite h.modChan.sendTo

theorem sendGroup {k : Packet} : Keeps b s (Machine.sendGroup k t) := by
  unfold Machine.sendGroup
  extract_lets u
  have hu : Keeps b s u := h.foldl fun h => h.sendPacket
  exact hu.deliverChannel.ite hu

theorem pumpChannel {c n : Nat} : Keeps b s (Machine.pumpChannel c n t) := by
  induction n generalizing t with
  | zero => exact h
  | succ n ih =>
    simp only [Machine.pumpChannel]
    split
    · exact h
    · split
      · exact (ih h.modChan.sendGroup).ite h
      · exact h.ite (ih h.modChan.sendTo)

theorem channelSend {c : Nat} {fs : List Flit} : Keeps b s (Machine.channelSend c fs t) := h.modChan.pumpChannel

theorem creditsBack {src channel credits : Nat} : Keeps b s (Machine.creditsBack src channel credits t) := by
  unfold Machine.creditsBack
  split
  · exact h
  · exact h.modChan.pumpChannel

theorem unitArrives {kind : Nat} {x : XUnit} : Keeps b s (Machine.unitArrives kind x t) := by
  simp only [Machine.unitArrives]
  split
  · exact h.handleUnit
  · exact h.modFab.ite h.modFab.handleUnit

theorem packetHere {k : Packet} : Keeps b s (Machine.packetHere k t) := by
  unfold Machine.packetHere
  split
  · exact h.deliverChannel
  · exact h.foldl fun h => h.unitArrives
  · exact h.creditsBack

theorem settleHere {n : Nat} : Keeps b s (Machine.settleHere n t) := by
  induction n generalizing t with
  | zero => exact h
  | succ n ih =>
    simp only [Machine.settleHere]
    split
    · exact h
    · exact ih h.modFab.packetHere

theorem settleLocal : Keeps b s (Machine.settleLocal t) := h.settleHere

theorem moveOn {k : RxPacket} : Keeps b s (Machine.moveOn k t).2 := by
  unfold Machine.moveOn
  extract_lets free y k'
  have hy : Keeps b s y.2 := h.foldlSnd fun h => by split; exacts [h.emitPacket, h]
  clear_value y
  split
  rename_i _ u hu
  have hmoved : Keeps b s u := by
    split at hu
    · obtain ⟨-, rfl⟩ := Prod.mk.inj hu
      exact hy
    · split at hu
      · obtain ⟨-, rfl⟩ := Prod.mk.inj hu
        exact hy.dropPackets
      · split at hu
        · split at hu
          · obtain ⟨-, rfl⟩ := Prod.mk.inj hu
            exact hy.emitPacket
          · obtain ⟨-, rfl⟩ := Prod.mk.inj hu
            exact hy
        · obtain ⟨-, rfl⟩ := Prod.mk.inj hu
          exact hy
  split
  · exact hmoved.packetHere
  · exact hmoved

theorem freePlaces {n v k : Nat} : Keeps b s (Machine.freePlaces n v k t) := by
  unfold Machine.freePlaces
  split
  · exact h
  · exact h.modPort

theorem pumpLane {n v k : Nat} : Keeps b s (Machine.pumpLane n v k t) := by
  induction k generalizing t with
  | zero => exact h
  | succ k ih =>
    simp only [Machine.pumpLane]
    split
    · exact h
    · exact (ih h.modPort.moveOn.freePlaces).ite h.modPort.moveOn.modPort

theorem pumpLinks : Keeps b s (Machine.pumpLinks t) := by
  simp only [Machine.pumpLinks]
  exact ((h.foldl fun h => (h.foldl fun h => h.pumpLane).drainPort).foldl fun h => h.pumpChannel.ite h).sendOwed

theorem packetArrives {n : Nat} {k : Packet} {lane places : Nat} : Keeps b s (Machine.packetArrives n k lane places t) := by
  simp only [Machine.packetArrives]
  split
  · exact h.badPacket.freePlaces
  · split
    · exact h.freePlaces.peerLost
    · exact h.freePlaces.peerLeaves
    · exact h.freePlaces.peerBack
    · exact h.modPort.pumpLane

theorem execChannelPacket {n : PortId} {pk : Packet} : Answers b s (Machine.execChannelPacket n pk t) := ⟨_, rfl, h.packetArrives.ite h⟩

theorem execChannelCredit {n : PortId} {from_ : ChanEnd} {credits : Nat} :
    Answers b s (Machine.execChannelCredit n from_ credits t) := ⟨_, rfl, h.creditsBack.ite h⟩

theorem replay {n : Nat} : Keeps b s (Machine.replay n t) := by
  simp only [Machine.replay]
  split
  · exact h
  · exact h.modPort.resendHeld.writeRetrain.ite h.modPort.resendHeld

theorem takeAck {n ack : Nat} : Keeps b s (Machine.takeAck n ack t) := h.modPort

theorem takeCredits {n : Nat} {cs : List Nat} : Keeps b s (Machine.takeCredits n cs t) := h.modPort

theorem takeSlot {n : Nat} {f : FrameSlot} : Keeps b s (Machine.takeSlot n f t) := by
  simp only [Machine.takeSlot]
  split
  · exact h
  · split
    · exact h.modPort
    · split
      · exact h.modPort.badPacket.freePlaces
      · split
        · exact h.modPort
        · exact h.modPort.packetArrives

theorem takeFrame {n : Nat} {f : Frame} : Keeps b s (Machine.takeFrame n f t) := by
  unfold Machine.takeFrame
  extract_lets _ _ _ _ u
  have hu : Keeps b s u := h.takeAck.replay.ite h.takeAck
  split
  · exact hu.takeCredits.ite hu.modPort
  · split
    · exact hu.modPort.takeCredits.foldl fun h => h.takeSlot
    · exact hu.modPort

theorem execFrameReceive {n : PortId} {bytes : List Byte} :
    Answers b s (Machine.execFrameReceive n bytes t) := ⟨_, rfl, (Keeps.pumpLinks (by split; exacts [h.settleLocal.takeFrame, h.modPort])).ite h⟩

theorem execReplayTimeout {n : PortId} : Answers b s (Machine.execReplayTimeout n t) := ⟨_, rfl, h.replay.ite h⟩

theorem takeUnit {kind : Nat} {x : XUnit} : Keeps b s (Machine.takeUnit kind x t) := by
  simp only [Machine.takeUnit]
  exact h.settleLocal.modFab.ite h.settleLocal.handleUnit

theorem execExchangeStep {p : PtnId} {x : Fin 16} : Answers b s (Machine.execExchangeStep p x t) := by
  simp only [Machine.execExchangeStep]
  refine ⟨_, rfl, ?_⟩
  exact h.settleLocal.startXStep.ite h.settleLocal

theorem execScore {u : XUnit} : Answers b s (Machine.execScore u t) := ⟨_, rfl, h.takeUnit⟩

theorem execEnd {u : XUnit} : Answers b s (Machine.execEnd u t) := ⟨_, rfl, h.takeUnit⟩

theorem execGrant {u : XUnit} : Answers b s (Machine.execGrant u t) := ⟨_, rfl, h.takeUnit⟩

theorem execGrantEnd {u : XUnit} : Answers b s (Machine.execGrantEnd u t) := ⟨_, rfl, h.takeUnit⟩

theorem execAct {u : XUnit} : Answers b s (Machine.execAct u t) := ⟨_, rfl, h.takeUnit⟩

theorem execAnswer {u : XUnit} : Answers b s (Machine.execAnswer u t) := ⟨_, rfl, h.takeUnit⟩

theorem execCancel {u : XUnit} : Answers b s (Machine.execCancel u t) := ⟨_, rfl, h.takeUnit⟩

theorem execVoid {u : XUnit} : Answers b s (Machine.execVoid u t) := ⟨_, rfl, h.takeUnit⟩

/-! ### DataOps -/

theorem modCore {p c : Nat} {g : Core → Core} : Keeps b s (Machine.modCore p c g t) := h.modPtn

theorem pushBuf {p c q : Nat} {fs : List Flit} : Keeps b s (Machine.pushBuf p c q fs t) := h.modCore

theorem dropBuf {p c q n : Nat} : Keeps b s (Machine.dropBuf p c q n t) := h.modCore

theorem queueOut {p k place : Nat} {fs : List Flit} : Keeps b s (Machine.queueOut p k place fs t) := h.modFlow

theorem addMoved {p k n : Nat} : Keeps b s (Machine.addMoved p k n t) := h.modFlow

theorem readPort {e : Rt} {n k : Nat} {q : Option Nat} : Keeps b s (Machine.readPort e n k q t).2 := by
  simp only [Machine.readPort]
  split
  · exact h
  · exact h.foldlSnd fun h => by split; exacts [h, h.afterRead]

theorem writePort {e : Rt} {n o : Nat} {fs : List Flit} : Keeps b s (Machine.writePort e n o fs t) := by
  unfold Machine.writePort
  split
  · exact h
  · exact h.foldl fun h => h.engineWrite.raiseRefused

theorem wrongEpoch {p core epoch : Nat} : Keeps b s (Machine.wrongEpoch p core epoch t) := h.modFig.raisePtn

theorem flitRefused {p core step : Nat} {own : Option Nat} {f : Flit} (hu : Machine.flitRefused p core step own f t = some u) : Keeps b s u := by
  simp only [Machine.flitRefused] at hu
  split at hu
  · exact Option.some.inj hu ▸ h.wrongEpoch
  · split at hu
    · split at hu
      · exact Option.some.inj hu ▸ h.raisePtn
      · cases hu
    · cases hu

theorem flitRefusedElse {p core step : Nat} {own : Option Nat} {f : Flit} (hu : Keeps b s u) :
    Keeps b s ((Machine.flitRefused p core step own f t).getD u) := by
  cases hr : Machine.flitRefused p core step own f t with
  | none => exact hu
  | some v => exact h.flitRefused hr

theorem deliverFlits {e : Rt} {ends : List (Nat × Nat × Nat)} {fs : List Flit} :
    Keeps b s (Machine.deliverFlits e ends fs t) := h.foldl fun h => h.pushBuf

theorem fromChannel {e : Rt} {k c core step n : Nat} : Keeps b s (Machine.fromChannel e k c core step n t) := by
  induction n generalizing t with
  | zero => exact h
  | succ n ih =>
    simp only [Machine.fromChannel]
    split
    · exact h
    · split
      · exact ih (h.modChan.flitRefused ‹_›).returnCredits
      · exact ih h.modChan.queueOut.addMoved

theorem issueFlits {e : Rt} {ep k core : Nat} : Keeps b s (Machine.issueFlits e ep k core t).2 := by
  simp only [Machine.issueFlits]
  split
  · exact h.readPort
  · split
    · exact h
    · split
      · split
        · exact h.modExch
        · exact h
      · split
        · split
          · exact h.modExch
          · exact h
        · exact h

theorem toSampler {e : Rt} {die core step : Nat} {f : Flit} : Keeps b s (Machine.toSampler e die core step f t) := by
  simp only [Machine.toSampler]
  split
  · exact h
  · split
    · exact (h.eachSignals (fun h => h.rowFault)).ite h
    · exact h.ite h.modStep

theorem sinkFlits {e : Rt} {core step k : Nat} {x : Stream} {fs : List Flit} : Keeps b s (Machine.sinkFlits e core step k x fs t) := by
  simp only [Machine.sinkFlits]
  split
  · exact h.writePort
  · split
    · exact h.foldl fun h => h.flitRefusedElse h.toSampler
    · split
      · split
        · exact h.pushBuf
        · exact h
      · split
        · exact h.channelSend
        · split
          · exact h.modExch.ite h.modExch
          · exact h.modExch.drawAnswers.ite h

theorem toCrossing {p key n : Nat} : Keeps b s (Machine.toCrossing p key n t) := h.modFlow

theorem acrossMesh {p k key n : Nat} {issued : Bool} {sets : List Nat} : Keeps b s (Machine.acrossMesh p k key n issued sets t) := h.modFlow

theorem moveStream {e : Rt} {k : Nat} {x : Stream} : Keeps b s (Machine.moveStream e k x t).2 := by
  unfold Machine.moveStream
  extract_lets ends sets here flow u v
  have hu : Keeps b s u.2 := h.foldlSnd fun h => by
    dsimp only
    split
    · exact h
    · exact h.modFlow.deliverFlits
  have hv : Keeps b s v.2 := hu.foldlSnd fun h => by
    dsimp only
    split
    · split
      · exact h
      · exact h.modFlow.sinkFlits.addMoved
    · split
      · exact h
      · exact h.acrossMesh
  refine hv.foldlSnd fun h => ?_
  extract_lets place n
  split
  · exact h
  · exact h.acrossMesh.ite h.toCrossing

theorem moveFlits {e : Rt} : Keeps b s (Machine.moveFlits e t).2 := by
  simp only [Machine.moveFlits]
  exact h.foldlSnd fun h => by split; exacts [h.moveStream, h]

/-! ### Batches -/

theorem withDesc {c : Cmd} {a n : Nat} {go : List Byte → State → State} (hgo : ∀ {a0 u}, Keeps b s u → Keeps b s (go a0 u)) :
    Keeps b s (Machine.withDesc c a n go t) := by
  unfold Machine.withDesc
  split
  · exact h.endCmd
  · exact hgo h

theorem withList {c : Cmd} {a n : Nat} {go : List Byte → State → State} (hgo : ∀ {a0 u}, Keeps b s u → Keeps b s (go a0 u)) :
    Keeps b s (Machine.withList c a n go t) := by
  unfold Machine.withList
  split
  · exact h.endCmd
  · exact hgo h

theorem withPorts {c : Cmd} {a : Nat} {go : List PortEnt → State → State} (hgo : ∀ {a0 u}, Keeps b s u → Keeps b s (go a0 u)) :
    Keeps b s (Machine.withPorts c a go t) := h.withDesc (fun h => h.endCmd.ite (hgo h))

theorem figRunGo {c : Cmd} : Keeps b s (Machine.figRunGo c t) := h.endCmd.ite (h.withPorts (fun h => h.enqueueWork))

theorem execFigRun {e : Entry} : Answers b s (Machine.execFigRun e t) := ⟨_, rfl, h.runEntry (fun h => h.figRunGo)⟩

theorem standingPhases {p batch : Nat} {replaced : Bool} : Keeps b s (Machine.standingPhases p batch replaced t) := h.rowPhases

theorem openGo {c : Cmd} {batch : Nat} {bs : List Byte} {ps : List PortEnt} : Keeps b s (Machine.openGo c batch bs ps t) := by
  simp only [Machine.openGo]
  split
  · exact h.endCmd
  · split
    · exact h.endCmd
    · exact (h.modBatch.withRingSignals (fun h => h.standingPhases)).endCmd

theorem batchOpenGo {c : Cmd} : Keeps b s (Machine.batchOpenGo c t) := by
  simp only [Machine.batchOpenGo]
  exact h.endCmd.ite (h.endCmd.ite (h.withDesc (fun h => h.endCmd.ite (h.withDesc (fun h => h.endCmd.ite (h.withPorts (fun h => h.openGo)))))))

theorem execBatchOpen {e : Entry} : Answers b s (Machine.execBatchOpen e t) := ⟨_, rfl, h.runEntry (fun h => h.batchOpenGo)⟩

theorem onBatch {c : Cmd} {go : Nat → Batch → State → State} (hgo : ∀ {a0 a1 u}, Keeps b s u → Keeps b s (go a0 a1 u)) :
    Keeps b s (Machine.onBatch c go t) := by
  simp only [Machine.onBatch]
  exact h.endCmd.ite (h.endCmd.ite (hgo h))

theorem batchRunGo {c : Cmd} : Keeps b s (Machine.batchRunGo c t) := h.endCmd.ite (h.onBatch (fun h => h.enqueueWork))

theorem execBatchRun {e : Entry} : Answers b s (Machine.execBatchRun e t) := ⟨_, rfl, h.runEntry (fun h => h.batchRunGo)⟩

theorem rowSetList {c : Cmd} {batch : Nat} {x : Batch} {bs : List Byte} : Keeps b s (Machine.rowSetList c batch x bs t) := by
  simp only [Machine.rowSetList]
  split
  · exact h.endCmd
  · split
    · exact h.endCmd
    · exact h.modBatch.modCmd.ite (h.modBatch.withRingSignals (fun h => h.applyRowSets.passAlpha.standingPhases))

theorem rowSetGo {c : Cmd} : Keeps b s (Machine.rowSetGo c t) := by
  simp only [Machine.rowSetGo]
  exact h.endCmd.ite (h.onBatch (fun h => h.withList (fun h => h.rowSetList)))

theorem execRowSet {e : Entry} : Answers b s (Machine.execRowSet e t) := ⟨_, rfl, h.runEntry (fun h => h.rowSetGo)⟩

theorem cancelTokens {p batch : Nat} : Keeps b s (Machine.cancelTokens p batch t) := h.foldl fun h => h.cancelSender

theorem cancelBatch {p batch : Nat} : Keeps b s (Machine.cancelBatch p batch t) := by
  unfold Machine.cancelBatch
  extract_lets _ _ u v _
  have hu : Keeps b s u := by simp only [u]; split; exacts [h.cancelTokens.endCmd, h.cancelTokens]
  have hv : Keeps b s v := hu.dropRuns.eachSignals (fun h => h.closeBatch)
  split
  · exact hv.clearStreams.endWork.ite hv
  · exact hv.endWork.ite hv
  · exact hv

theorem batchCloseGo {c : Cmd} : Keeps b s (Machine.batchCloseGo c t) := h.onBatch fun h => by
  extract_lets u v
  have hu : Keeps b s u := h.modBatch
  have hv : Keeps b s v := h.modBatch
  exact h.endCmd.ite ((hu.modCmd.ite hu.cancelBatch).ite (hv.modCmd.ite (hv.withRingSignals fun h => h.closeBatch)))

theorem execBatchClose {e : Entry} : Answers b s (Machine.execBatchClose e t) := ⟨_, rfl, h.runEntry (fun h => h.batchCloseGo)⟩

theorem recomputeGo {c : Cmd} : Keeps b s (Machine.recomputeGo c t) := by
  simp only [Machine.recomputeGo]
  split
  · exact h.endCmd
  · exact h.endCmd.ite (h.endCmd.ite (h.endCmd.ite (h.withPorts (fun h => h.modTab.enqueueWork))))

theorem execRecompute {e : Entry} : Answers b s (Machine.execRecompute e t) := ⟨_, rfl, h.runEntry (fun h => h.recomputeGo)⟩

theorem kvReleaseGo {c : Cmd} : Keeps b s (Machine.kvReleaseGo c t) := by
  simp only [Machine.kvReleaseGo]
  split
  · exact h.endCmd
  · split
    · exact h.endCmd
    · exact h.releaseSeq.endCmd

theorem execKvRelease {e : Entry} : Answers b s (Machine.execKvRelease e t) := ⟨_, rfl, h.runEntry (fun h => h.kvReleaseGo)⟩

theorem maskSetGo {c : Cmd} : Keeps b s (Machine.maskSetGo c t) := by
  simp only [Machine.maskSetGo]
  exact h.endCmd.ite (h.endCmd.ite (h.endCmd.ite (h.endCmd.ite (h.endCmd.ite (h.endCmd.ite h.same.endCmd)))))

theorem maskClearGo {c : Cmd} : Keeps b s (Machine.maskClearGo c t) := by
  simp only [Machine.maskClearGo]
  exact h.endCmd.ite (h.endCmd.ite (h.endCmd.ite h.same.endCmd))

theorem toMaskEngine {go : Cmd → State → State} {c : Cmd} (hgo : ∀ {a0 u}, Keeps b s u → Keeps b s (go a0 u)) :
    Keeps b s (Machine.toMaskEngine go c t) := h.ite (hgo h)

theorem execMaskSet {e : Entry} : Answers b s (Machine.execMaskSet e t) := ⟨_, rfl, h.runEntry (fun h => h.toMaskEngine (fun h => h.maskSetGo))⟩

theorem execMaskClear {e : Entry} : Answers b s (Machine.execMaskClear e t) := ⟨_, rfl, h.runEntry (fun h => h.toMaskEngine (fun h => h.maskClearGo))⟩

theorem serveMasks {d : Nat} : Keeps b s (Machine.serveMasks d t) := h.foldl fun h => h.maskSetGo.ite h.maskClearGo

theorem execPendingRecordWrite {r : RingId} : Answers b s (Machine.execPendingRecordWrite r t) := ⟨_, rfl, h.flushOneRec.ite h⟩

/-! ### Boot -/

theorem setPlls {b0 : Bool} : Keeps b s (Machine.setPlls b0 t) := h.foldl fun h => h.modDie

theorem execPowerUp : Answers b s (Machine.execPowerUp t) := ⟨_, rfl, h.modBoot.modPwr.setPlls.ite h⟩

theorem startDies : Keeps b s (Machine.startDies t) := h.foldl fun h => h.modTgt.modDie

theorem execPowerUpComplete : Answers b s (Machine.execPowerUpComplete t) := ⟨_, rfl, h.modBoot.railsForRepair.startDies.ite h⟩

theorem finishRepair {found : List SelfTest} : Keeps b s (Machine.finishRepair found t) := by
  unfold Machine.finishRepair
  extract_lets found sets held avail u v w x
  have hu : Keeps b s u := h.same rfl rfl
  have hw : Keeps b s w := (hu.foldl fun h => h.modQtr).foldl fun h => h.raise
  exact hw.setMeas.foldl fun h => h.pulse

theorem execRepairDone {found : List SelfTest} : Answers b s (Machine.execRepairDone found t) := by
  unfold Machine.execRepairDone
  refine ⟨_, rfl, ?_⟩
  split
  · exact h.finishRepair.modBoot
  · exact h.finishRepair
  · exact h

theorem execTrainingDone {failed : Option TrainPart} : Answers b s (Machine.execTrainingDone failed t) := by
  unfold Machine.execTrainingDone
  refine ⟨_, rfl, ?_⟩
  split
  · split
    · exact h.modBoot
    · exact (h.switchOff.modBoot).bootNotice
    · exact (h.switchOff.modBoot).bootNotice
  · exact h

theorem startPorts : Keeps b s (Machine.startPorts t) := (h.foldl fun h => h.setPort.ite h).ite h

theorem execInitDone : Answers b s (Machine.execInitDone t) := by
  unfold Machine.execInitDone
  refine ⟨_, rfl, ?_⟩
  extract_lets _ u _ v
  have hu : Keeps b s u := h.rewrite fun ⟨_, _, h2, hflash, hsram, hupload, hsnap, hhost, hpend⟩ =>
    ⟨wf_empty, wf_empty, h2, hflash, hsram, hupload, hsnap, hhost, hpend⟩
  have hv : Keeps b s v := (hu.burn (fusesGrow_svn _ _)).ite hu
  exact hv.deriveAlias.modBoot.bootNotice.startPorts.ite h

theorem recordPin : Keeps b s (Machine.recordPin t) := h.recordFault

theorem execHardRstN : Answers b s (Machine.execHardRstN t) := by
  unfold Machine.execHardRstN
  refine ⟨_, rfl, ?_⟩
  split
  · exact h.raiseMod
  · exact h.recordPin.switchOff.modPwr.setPlls
  · exact h.recordPin.switchOff.modPwr.setPlls
  · exact h.recordPin.switchOff.modPwr.setPlls
  · exact h.recordPin.switchOff.modPwr.setPlls
  · exact h.recordPin.ite h

theorem execPwrEnDeasserted : Answers b s (Machine.execPwrEnDeasserted t) := by
  unfold Machine.execPwrEnDeasserted
  refine ⟨_, rfl, ?_⟩
  extract_lets u
  have hu : Keeps b s u := h.modFlt.modPwr
  exact h.ite (hu.switchOff.ite (hu.same.ite hu))

theorem execCoolantLost : Answers b s (Machine.execCoolantLost t) := ⟨_, rfl, h.raiseMod.ite h⟩

theorem execFlashWriteDone : Answers b s (Machine.execFlashWriteDone t) := by
  refine ⟨_, rfl, Keeps.ite ?_ h⟩
  exact h.rewrite fun ⟨h0, h1, h2, _, hsram, hupload, hsnap, hhost, hpend⟩ =>
    ⟨h0, h1, h2, hsram, hsram, hupload, hsnap, hhost, hpend⟩

/-! ### Contexts -/

theorem ctxCode {c k : Nat} : Keeps b s (Machine.ctxCode c k t) := h.modCtx

theorem ctxEnable {fn c p : Nat} :
    Keeps b s (Machine.ctxEnable fn c p t) := h.ctxCode.ite (h.ctxCode.ite (h.ctxCode.ite (h.ctxCode.ite (h.ctxCode.ite h.modCtx))))

theorem ctxDisable {fn c : Nat} : Keeps b s (Machine.ctxDisable fn c t) := h.ctxCode.ite (h.ctxCode.ite (h.ctxCode.ite (h.ctxCode.ite h.modCtx)))

theorem ctxReset {c : Nat} : Keeps b s (Machine.ctxReset c t) := h.ctxCode.ite h.raise.ctxCode

theorem execEnable {fn : FnId} {c : CtxId} {p : PtnId} : Answers b s (Machine.execEnable fn c p t) := ⟨_, rfl, h.hostAccess (fun h => h.ctxEnable)⟩

theorem execDisable {fn : FnId} {c : CtxId} : Answers b s (Machine.execDisable fn c t) := ⟨_, rfl, h.hostAccess (fun h => h.ctxDisable)⟩

theorem execReset {fn : FnId} {c : CtxId} : Answers b s (Machine.execReset fn c t) := ⟨_, rfl, h.hostAccess (fun h => h.ctxReset)⟩

theorem recsWaitDb {c : Nat} : Keeps b s (Machine.recsWaitDb c t) := h.foldl fun h => h.modRing

theorem resetEntries {c level cause : Nat} {db : Bool} : Keeps b s (Machine.resetEntries c level cause db t) := by
  unfold Machine.resetEntries
  extract_lets _ _ u _
  have hu : Keeps b s u := (h.purgeMoverItems.resetBatches.foldl fun h => h.passAlpha).recountRefs
  exact (hu.recsWaitDb.ite hu).foldl fun h => h.resetRing.noteFull

theorem serveCtxReset {c : Nat} : Keeps b s (Machine.serveCtxReset c t) := by
  unfold Machine.serveCtxReset
  split
  · exact h.resetEntries.modCtx
  · exact h

theorem finishCtxReset {c : Nat} : Keeps b s (Machine.finishCtxReset c t) := h.serveCtxReset.modCtx.ite h

theorem execContextResetDone {c : CtxId} : Answers b s (Machine.execContextResetDone c t) := by
  unfold Machine.execContextResetDone
  refine ⟨_, rfl, ?_⟩
  split
  · exact h.finishCtxReset.ite h
  · exact h

theorem ctxCommitNow {c : Nat} : Keeps b s (Machine.ctxCommitNow c t) := by
  simp only [Machine.ctxCommitNow]
  split
  · exact h.modCtx
  · exact h.modCtx.ite h.modCtx.pulse

theorem execCtxCommit {fn : FnId} {c : CtxId} : Answers b s (Machine.execCtxCommit fn c t) := ⟨_, rfl, h.hostAccess (fun h => h.ctxCommitNow)⟩

theorem ctxTakeStaged {c : Nat} : Keeps b s (Machine.ctxTakeStaged c t) := by
  unfold Machine.ctxTakeStaged
  split
  · exact h.modCtx.pulse
  · exact h

theorem attCommitNow {p : Nat} :
    Keeps b s (Machine.attCommitNow p t) := (h.foldl fun h => h.modCtx).modAtt.ite (h.foldl fun h => h.modCtx).modAtt.pulse

theorem attTakeStaged {p : Nat} : Keeps b s (Machine.attTakeStaged p t) := (h.foldl fun h => h.modCtx).modAtt.pulse.ite h

theorem execAttCommit {fn : FnId} {p : PtnId} : Answers b s (Machine.execAttCommit fn p t) := ⟨_, rfl, h.hostAccess (fun h => h.attCommitNow)⟩

theorem writeReserve {fn c v : Nat} : Keeps b s (Machine.writeReserve fn c v t) := by
  simp only [Machine.writeReserve]
  exact h.modCtx.ite (h.flagLocked.ite (h.modAtt.ite h.modCtx))

theorem execReserveWrite {fn : FnId} {c : CtxId} {val : Word} :
    Answers b s (Machine.execReserveWrite fn c val t) := ⟨_, rfl, h.hostAccess (fun h => h.writeReserve)⟩

theorem ringTake {r : Nat} {n : RingSh} : Keeps b s (Machine.ringTake r n t) := h.modRing.ite h.modRing

theorem writeRingCtl {r v : Nat} : Keeps b s (Machine.writeRingCtl r v t) := by
  simp only [Machine.writeRingCtl]
  exact h.modRing.ite (h.modRing.modRing.ite h.modRing.ringTake)

theorem execRingCommit {fn : FnId} {r : RingId} {val : Word} :
    Answers b s (Machine.execRingCommit fn r val t) := ⟨_, rfl, h.hostAccess (fun h => h.writeRingCtl)⟩

theorem ringsTakeStaged {p : Nat} : Keeps b s (Machine.ringsTakeStaged p t) := h.foldl fun h => by split; exacts [h.ringTake, h]

theorem takeStaged {p : Nat} : Keeps b s (Machine.takeStaged p t) := by
  simp only [Machine.takeStaged]
  exact (h.foldl fun h => h.ctxTakeStaged).attTakeStaged.ringsTakeStaged.modPFlt

/-! ### Events -/

theorem onSources {ok : State → Nat → Bool} {act : Nat → State → State} {ns : List Nat} (hact : ∀ {a0 u}, Keeps b s u → Keeps b s (act a0 u)) :
    Keeps b s (Machine.onSources ok act ns t) := h.foldl fun h => (hact h).ite h.modEvc

theorem clearPends {ns : List Nat} : Keeps b s (Machine.clearPends ns t) := (h.onSources (fun h => h.dropPend)).foldl fun h => h.reassert

theorem execEvcPendSet {fn : FnId} {k : Fin 128} {val : Word} :
    Answers b s (Machine.execEvcPendSet fn k val t) := ⟨_, rfl, h.hostAccess (fun h => h.onSources (fun h => h.setPend))⟩

theorem execEvcPendClr {fn : FnId} {k : Fin 128} {val : Word} :
    Answers b s (Machine.execEvcPendClr fn k val t) := ⟨_, rfl, h.hostAccess (fun h => h.clearPends)⟩

theorem cfgFlags {owned unm inv : Bool} : Keeps b s (Machine.cfgFlags owned unm inv t) := h.modEvc

theorem execFilterExpiry {n : SrcId} {level : Bool} : Answers b s (Machine.execFilterExpiry n level t) := ⟨_, rfl, h.setLevel.ite h⟩

theorem deliverTo {target n : Nat} : Keeps b s (Machine.deliverTo target n t) := by
  simp only [Machine.deliverTo]
  split
  · exact h.modTgt.countTgt.pends (pairwise_ndel n)
  · exact h.modTgt.countTgt

theorem execEventDelivery {target : Fin 16} : Answers b s (Machine.execEventDelivery target t) := by
  unfold Machine.execEventDelivery
  refine ⟨_, rfl, ?_⟩
  split
  · split
    · exact h.deliverTo
    · exact h
  · exact h

theorem execWfiWake {target : Fin 16} : Answers b s (Machine.execWfiWake target t) := ⟨_, rfl, h.modTgt.ite h⟩

theorem execHandlerReturn {target : Fin 16} : Answers b s (Machine.execHandlerReturn target t) := ⟨_, rfl, h.ite h.modTgt⟩

theorem execModerationGapEnd {target : Fin 16} : Answers b s (Machine.execModerationGapEnd target t) := ⟨_, rfl, h.modTgt.ite h⟩

theorem execHoldIntervalEnd {e : Fin 4096} : Answers b s (Machine.execHoldIntervalEnd e t) := by
  simp only [Machine.execHoldIntervalEnd]
  refine ⟨_, rfl, ?_⟩
  exact h.ite (h.vecMessage.ite h.modHVec)

/-! ### HostMem -/

theorem bar4Access {fn addr : Nat} {go : Nat → State → State} {closed : State → State} (hgo : ∀ {a0 u}, Keeps b s u → Keeps b s (go a0 u))
    (hclosed : ∀ {u}, Keeps b s u → Keeps b s (closed u)) :
    Keeps b s (Machine.bar4Access fn addr go closed t) := by
  unfold Machine.bar4Access
  split
  · exact h
  · split
    · exact hclosed h.flagUnmapped
    · split
      · exact hgo h
      · exact hclosed h.vfAccess

theorem bar4ReadGo {a n p : Nat} : Keeps b s (Machine.bar4ReadGo a n p t) := by
  simp only [Machine.bar4ReadGo]
  exact (h.modPMem.ite h).readOut

theorem execBar4Read {fn : FnId} {addr len : Nat} :
    Answers b s (Machine.execBar4Read fn addr len t) := ⟨_, rfl, h.bar4Access (fun h => h.bar4ReadGo) (fun h => h.readOut)⟩

theorem logPoisoned {fn : Nat} {ep : Bool} : Keeps b s (Machine.logPoisoned fn ep t) := h.modFn.ite h

theorem bar4WriteGo {a : Nat} {data : List Byte} {ep : Bool} {p : Nat} :
    Keeps b s (Machine.bar4WriteGo a data ep p t) := h.foldl fun h => by split; exacts [h.modPMem, h.modPMem.ite h.writePart]

theorem execBar4Write {fn : FnId} {addr : Nat} {data : List Byte} {ep : Bool} :
    Answers b s (Machine.execBar4Write fn addr data ep t) := ⟨_, rfl, h.bar4Access (fun h => h.logPoisoned.bar4WriteGo) (fun h => h)⟩

theorem writeQuota {p t1 v : Nat} : Keeps b s (Machine.writeQuota p t1 v t) := by
  simp only [Machine.writeQuota]
  exact h.modPMem.ite h.modPMem

theorem execQuotaWrite {fn : FnId} {p : PtnId} {t2 : Bool} {pages : Word} :
    Answers b s (Machine.execQuotaWrite fn p t2 pages t) := ⟨_, rfl, h.hostAccess (fun h => h.writeQuota)⟩

theorem writePool {fn p : Nat} {r : PoolReg} {v : Nat} : Keeps b s (Machine.writePool fn p r v t) := by
  simp only [Machine.writePool]
  split
  · exact h.flagLocked
  · split
    · exact h.modAtt
    · exact h.modAtt.modAtt.ite h.modAtt

theorem execPoolWrite {fn : FnId} {p : PtnId} {reg : PoolReg} {val : Word} :
    Answers b s (Machine.execPoolWrite fn p reg val t) := ⟨_, rfl, h.hostAccess (fun h => h.writePool)⟩

/-! ### Power -/

theorem storeMeasure {m : Measure} : Keeps b s (Machine.storeMeasure m t) := by
  simp only [Machine.storeMeasure]
  exact (h.foldl fun h => h.modQtr).modPwr

theorem moveCap : Keeps b s (Machine.moveCap t) := by
  simp only [Machine.moveCap]
  exact h.modPwr.modPwr.mctpSend.ite h.modPwr

theorem giveBudget {byte q : Nat} : Keeps b s (Machine.giveBudget byte q t) := h.modQtr

theorem setBudgets : Keeps b s (Machine.setBudgets t) := by
  simp only [Machine.setBudgets]
  exact ((h.foldl fun h => h.foldl fun h => h.giveBudget).foldl fun h => h.ite h.modQtr).foldl fun h => h.takeBudgets.ite h

theorem parkOrUnpark : Keeps b s (Machine.parkOrUnpark t) := by
  unfold Machine.parkOrUnpark
  split
  · split
    · exact h.startPark
    · exact h
  · extract_lets u
    have hu : Keeps b s u := (h.foldl fun h => h.unpark).ite h
    split
    · exact hu.unpark.ite hu
    · exact hu

theorem setCap {capW : Nat} : Keeps b s (Machine.setCap capW t).2.2 := by
  unfold Machine.setCap
  split
  · exact h
  · exact h.modPwr.pulse

theorem execSetCap {capW : Nat} : Answers b s (Machine.execSetCap capW t) := ⟨_, rfl, h.mgmtServe (fun h => h.setCap)⟩

theorem execClampStart {q : QtrId} : Answers b s (Machine.execClampStart q t) := ⟨_, rfl, h.modQtr.mirrorGuard.ite h⟩

theorem execClampEnd {q : QtrId} {gated : Nat} : Answers b s (Machine.execClampEnd q gated t) := ⟨_, rfl, h.modQtr.ite h⟩

theorem execBrake : Answers b s (Machine.execBrake t) := by
  simp only [Machine.execBrake]
  refine ⟨_, rfl, ?_⟩
  split
  · exact (h.modPwr.foldl fun h => h.modPPwr.setDivider).mirrorGuard.raiseMod
  · exact h

theorem execBrakeRelease : Answers b s (Machine.execBrakeRelease t) := ⟨_, rfl, h.modPwr.ite h⟩

theorem execBrakeReturn : Answers b s (Machine.execBrakeReturn t) := by
  simp only [Machine.execBrakeReturn]
  refine ⟨_, rfl, ?_⟩
  split
  · exact (h.modPwr.foldl fun h => h.modPPwr.ite h).limitsChanged
  · exact h

theorem junctionStep {p : Nat} : Keeps b s (Machine.junctionStep p t) := by
  simp only [Machine.junctionStep]
  split
  · exact h
  · split
    · exact h.modPPwr.raise.ite h.modPPwr.raise.pulse
    · exact h

theorem memoryHot {key die t2 : Nat} : Keeps b s (Machine.memoryHot key die t2 t) := (h.ite h.modPwr.raise).ite h.modPwr

theorem execSensorSample {sensor : Sensor} {temp : Nat} : Answers b s (Machine.execSensorSample sensor temp t) := by
  simp only [Machine.execSensorSample]
  refine ⟨_, rfl, ?_⟩
  split
  · split
    · exact h
    · split
      · exact h.modQtr.junctionStep.limitsChanged
      · exact h.modQtr
  · split
    · exact h
    · exact (h.modDie.foldl fun h => h.junctionStep).limitsChanged
  · exact h.ite h.modPwr.memoryHot
  · exact h.ite h.modPwr.memoryHot
  · exact h.modPwr.ite h

theorem execThermalRowLeave {p : PtnId} : Answers b s (Machine.execThermalRowLeave p t) := by
  simp only [Machine.execThermalRowLeave]
  refine ⟨_, rfl, ?_⟩
  exact h.modPPwr.limitsChanged.ite h

theorem stepDown {p q t2 : Nat} : Keeps b s (Machine.stepDown p q t2 t) := by
  simp only [Machine.stepDown]
  exact h.modPPwr.limitsChanged.ite (h.ite h.modPPwr.raise)

theorem execNeighbourStep {q1 q2 : QtrId} : Answers b s (Machine.execNeighbourStep q1 q2 t) := by
  simp only [Machine.execNeighbourStep]
  refine ⟨_, rfl, ?_⟩
  split
  · exact h.ite (h.stepDown.ite (h.stepDown.ite h))
  · exact h

theorem execNeighbourStepLift {p : PtnId} : Answers b s (Machine.execNeighbourStepLift p t) := ⟨_, rfl, h.modPPwr.limitsChanged.ite h⟩

theorem execThermalTrip {sensor temp : Nat} : Answers b s (Machine.execThermalTrip sensor temp t) := ⟨_, rfl, h.pulse.raiseMod.ite h⟩

theorem execCoolantSample {inlet outlet : Nat} : Answers b s (Machine.execCoolantSample inlet outlet t) := by
  simp only [Machine.execCoolantSample]
  refine ⟨_, rfl, ?_⟩
  split
  · split
    · exact (h.modPwr.modPwr.raise.ite h.modPwr.modPwr).limitsChanged
    · exact h.modPwr
  · exact h

theorem execCoolantLift : Answers b s (Machine.execCoolantLift t) := ⟨_, rfl, h.modPwr.limitsChanged.ite h⟩

theorem execRailFault {rail amps : Nat} : Answers b s (Machine.execRailFault rail amps t) := ⟨_, rfl, h.raiseMod.ite h⟩

theorem execBreakerOpen {amps : Nat} : Answers b s (Machine.execBreakerOpen amps t) := ⟨_, rfl, h.modPwr.raiseMod.ite h⟩

theorem execPllUnlock {d : DieId} : Answers b s (Machine.execPllUnlock d t) := by
  simp only [Machine.execPllUnlock]
  refine ⟨_, rfl, ?_⟩
  split
  · exact h.modDie.pulse.foldl fun h => h.raise
  · exact h

theorem execPllLost {d : DieId} : Answers b s (Machine.execPllLost d t) := ⟨_, rfl, h.raise.ite h⟩

theorem execPllRelock {d : DieId} : Answers b s (Machine.execPllRelock d t) := ⟨_, rfl, h.modDie.ite h⟩

theorem execVoltageReached {q : QtrId} : Answers b s (Machine.execVoltageReached q t) := by
  simp only [Machine.execVoltageReached]
  refine ⟨_, rfl, ?_⟩
  split
  · exact h.modQtr.takeDivider.ite h.modQtr
  · exact h.modQtr

/-! ### Flags -/

theorem readEffect {fn off : Nat} : Keeps b s (Machine.readEffect fn off t) := by
  unfold Machine.readEffect
  split
  · exact h.modFn
  · split
    · exact h.modPtn
    · exact h.modPtn
    · exact h.modPtn
    · exact h.modPtn
    · exact h.modPtn
    · split
      · exact h.modCtx
      · exact h.modCtx.ite h
      · exact h.modQtr
      · exact h.modTgt.ite h
      · exact h.modPort
      · exact h.modQtr
      · have hmem := h.modMem (g := fun m => readMemRc m off) fun m => by unfold readMemRc; split <;> exact ⟨rfl, rfl, rfl⟩
        exact hmem.modFlt fun f => by unfold readFltRc; split <;> rfl

/-! ### Partitions -/

theorem ptnResult {code info : Nat} : Keeps b s (Machine.ptnResult code info t) := h.same

theorem qtrRails {on : Bool} {mask : Nat} : Keeps b s (Machine.qtrRails on mask t) := h.foldl fun h => h.modQtr

theorem returnObjects {p : Nat} : Keeps b s (Machine.returnObjects p t) := by
  simp only [Machine.returnObjects]
  exact (h.modMem.foldl fun h => h.modPMem).modPMem

theorem ptnCreate {p : Nat} : Keeps b s (Machine.ptnCreate p t) := by
  simp only [Machine.ptnCreate]
  split
  · exact h.ptnResult
  · split
    · exact h.ptnResult
    · exact h.ptnResult.ite h.modPtn.qtrRails.returnObjects.railsTo.retarget.ptnResult

theorem growRepl {p : Nat} {qs : List Nat} : Keeps b s (Machine.growRepl p qs t) := h.foldl fun h => by
  split
  · exact h.foldl fun h => h.tiers fun w => MemWf.copyPhys (by exact w)
  · exact h

theorem ptnGrow {p : Nat} : Keeps b s (Machine.ptnGrow p t) := by
  simp only [Machine.ptnGrow]
  split
  · exact h.ptnResult
  · split
    · exact h.ptnResult
    · exact h.ptnResult.ite (h.ptnResult.ite h.growRepl.modPtn.qtrRails.railsTo.retarget.ptnResult)

theorem ptnShrink {p : Nat} : Keeps b s (Machine.ptnShrink p t) := by
  simp only [Machine.ptnShrink]
  split
  · exact h.ptnResult
  · split
    · exact h.ptnResult
    · split
      · exact h.ptnResult
      · split
        · exact h.ptnResult
        · split
          · exact h.ptnResult
          · exact h.modPtn.qtrRails.retarget.ptnResult

theorem freeAllPages {p : Nat} : Keeps b s (Machine.freeAllPages p t) := h.foldl fun h => h.freePage

theorem ptnDestroy {p : Nat} : Keeps b s (Machine.ptnDestroy p t) := by
  simp only [Machine.ptnDestroy]
  exact h.ptnResult.ite (h.ptnResult.ite h.freeAllPages.qtrRails.modPtn.retarget.ptnResult)

theorem ptnBind {p vf : Nat} : Keeps b s (Machine.ptnBind p vf t) := by
  simp only [Machine.ptnBind]
  exact h.ptnResult.ite (h.ptnResult.ite (h.ptnResult.ite h.modPtn.ptnResult))

theorem ptnUnbind {p : Nat} : Keeps b s (Machine.ptnUnbind p t) := by
  simp only [Machine.ptnUnbind]
  exact h.ptnResult.ite (h.ptnResult.ite h.modPtn.ptnResult)

theorem ptnWrite {fn : FnId} {go : State → State} (hgo : ∀ {u}, Keeps b s u → Keeps b s (go u)) :
    Answers b s (Machine.ptnWrite fn go t) := ⟨_, rfl, h.hostAccess (fun h => h.ite (hgo h))⟩

theorem execCreate {fn : FnId} {p : PtnId} : Answers b s (Machine.execCreate fn p t) := h.ptnWrite (fun h => h.ptnCreate)

theorem execGrow {fn : FnId} {p : PtnId} : Answers b s (Machine.execGrow fn p t) := h.ptnWrite (fun h => h.ptnGrow)

theorem execShrink {fn : FnId} {p : PtnId} : Answers b s (Machine.execShrink fn p t) := h.ptnWrite (fun h => h.ptnShrink)

theorem execDestroy {fn : FnId} {p : PtnId} : Answers b s (Machine.execDestroy fn p t) := h.ptnWrite (fun h => h.ptnDestroy)

theorem execBindVf {fn : FnId} {p : PtnId} {vf : Nat} : Answers b s (Machine.execBindVf fn p vf t) := h.ptnWrite (fun h => h.ptnBind)

theorem execUnbindVf {fn : FnId} {p : PtnId} : Answers b s (Machine.execUnbindVf fn p t) := h.ptnWrite (fun h => h.ptnUnbind)

theorem execModPtnDone : Answers b s (Machine.execModPtnDone t) := ⟨_, rfl, h.same.pulse.ite h⟩

/-! ### Dataflow -/

theorem putOutput {e : Rt} {c : Nat} {t2 : Step} {outs : List (List Byte × Bool × RowTag)} : Keeps b s (Machine.putOutput e c t2 outs t) := by
  unfold Machine.putOutput
  extract_lets u _
  have hu : Keeps b s u := by simp only [u]; split; exacts [h.ite h.modCore, h]
  exact hu.foldl fun h => by split; exacts [h.ite h.queueOut, h]

theorem runChain {e : Rt} {c i : Nat} {t3 : Step} {rows : List (List (List Lane) × RowTag)} : Keeps b s (Machine.runChain e c i t3 rows t).2 := by
  simp only [Machine.runChain]
  exact h.same.modCore

theorem gatherOnce {p set i : Nat} {go : State → State} (hgo : ∀ {u}, Keeps b s u → Keeps b s (go u)) :
    Keeps b s (Machine.gatherOnce p set i go t) := h.ite (hgo h.modPartner)

theorem bySegment {e : Rt} {set : Nat} {rows : List RowTag} {go : Segment → State → State} {fell : State → Segment → Bool}
    (hgo : ∀ {a0 u}, Keeps b s u → Keeps b s (go a0 u)) :
    Keeps b s (Machine.bySegment e set rows go fell t) := h.foldl fun h => by split; exacts [h, (hgo h.modPartner).markRows.ite (hgo h.modPartner)]

theorem gatherSteer {e : Rt} {set i : Nat} {tags : List RowTag} : Keeps b s (Machine.gatherSteer e set i tags t) := by
  unfold Machine.gatherSteer
  split
  · exact h
  · exact h.gatherOnce (fun h => h.bySegment (fun h => by split; exacts [h.gatherVector, h]))

theorem fireVector {e : Rt} {c i : Nat} {t3 : Step} : Keeps b s (Machine.fireVector e c i t3 t) := by
  simp only [Machine.fireVector]
  exact (h.gatherSteer.ite h).runChain.putOutput

theorem fireRelay {e : Rt} {c : Nat} {t2 : Step} : Keeps b s (Machine.fireRelay e c t2 t) := by
  simp only [Machine.fireRelay]
  exact h.putOutput

theorem gatherFor {e : Rt} {set i : Nat} {tags : List RowTag} : Keeps b s (Machine.gatherFor e set i tags t) := by
  unfold Machine.gatherFor
  split
  · exact h
  · exact h.gatherOnce (fun h => h.bySegment (fun h => by split; exacts [h.gatherPiece, h]))

theorem fireCore {e : Rt} {c i : Nat} {xs : List Opnd} {tags : List RowTag} {terms : List (Option (Plan × Nat × Piece × Nat × List (List Lane)))} :
    Keeps b s (Machine.fireCore e c i xs tags terms t) := by
  simp only [Machine.fireCore]
  split
  · exact h.runChain.putOutput
  · exact h.same.putOutput

theorem markFired {e : Rt} {c : Nat} : Keeps b s (Machine.markFired e c t) := h.modCore

theorem fireSet {e : Rt} {set i : Nat} {cs : List Nat} : Keeps b s (Machine.fireSet e set i cs t) := by
  simp only [Machine.fireSet]
  exact (h.gatherFor.ite h).foldl fun h => h.fireCore.markFired

theorem notedKv {e : Rt} {m : AttMap} {q row tab slot v y : Nat} : Keeps b s (Machine.notedKv e m q row tab slot v y t) := by
  simp only [Machine.notedKv]
  exact h.afterRead.writeEnt.ite h.afterRead

theorem writeKv {e : Rt} {a : Nat} {bs : List Byte} {poison : Bool} : Keeps b s (Machine.writeKv e a bs poison t) := by
  simp only [Machine.writeKv]
  exact h.engineWrite.raiseRefused

theorem pipeSlot {e : Rt} {m : AttMap} {q row tab x0 slot : Nat} {qs kvs : Nat → Nat → List Byte × Bool} :
    Keeps b s (Machine.pipeSlot e m q row tab x0 slot qs kvs t).2 := by
  simp only [Machine.pipeSlot]
  exact ((h.same.foldl fun h => h.foldl fun h => h.notedKv).foldl fun h => h.writeKv.writeKv.ite h)

theorem siftBuf {e : Rt} {c i q : Nat} : Keeps b s (Machine.siftBuf e c i q t) := h.ite (h.dropBuf.foldl fun h => h.flitRefusedElse h.pushBuf)

theorem firePipe {e : Rt} {m : AttMap} {x : MapEntry} : Keeps b s (Machine.firePipe e m x t).2 := by
  unfold Machine.firePipe
  extract_lets lead u qb
  have hu : Keeps b s u := h.siftBuf.siftBuf
  split
  · extract_lets qf kf waits v r
    split
    · exact hu
    · have hv : Keeps b s v := hu.dropBuf.dropBuf
      have hr : Keeps b s r.2 := Keeps.foldlSnd (p := ([], v)) hv fun h => h.foldlSnd fun h => by
        dsimp only
        split
        · exact h
        · dsimp only
          exact Keeps.pipeSlot h
      clear_value r
      exact hr.queueOut.addMoved
  · exact hu

theorem supply {e : Rt} {bar c i : Nat} : Keeps b s (Machine.supply e bar c i t).2 := h.foldlSnd fun h => by
  extract_lets
  split
  · exact h
  · split
    · exact h.settleLocal.ite h.settleLocal.fromChannel.pumpLinks
    · split
      · exact ((h.settleLocal.ite h).issueFlits.snd ‹_›).queueOut.addMoved
      · exact (h.settleLocal.ite h).issueFlits.snd ‹_›

theorem creditTaken {e : Rt} {c i input n : Nat} : Keeps b s (Machine.creditTaken e c i input n t) := by
  unfold Machine.creditTaken
  split
  · exact h.returnCredits.ite h
  · exact h

theorem takeInput {e : Rt} {c i input : Nat} : Keeps b s (Machine.takeInput e c i input t).2 := by
  simp only [Machine.takeInput]
  split
  · exact h
  · refine Keeps.creditTaken (h.dropBuf.foldl fun h => ?_)
    split
    · exact h.flitRefused ‹_›
    · exact h.modCore

theorem endStep {e : Rt} {c i : Nat} : Keeps b s (Machine.endStep e c i t).2 := by
  unfold Machine.endStep
  extract_lets
  split
  · exact h.modCore
  · exact h

theorem trySet {e : Rt} {stop : Option Nat} {set i : Nat} : Keeps b s (Machine.trySet e stop set i t).2 := by
  simp only [Machine.trySet]
  split
  · exact h
  · split
    · exact h
    · exact h.fireSet

theorem tryCore {e : Rt} {stop : Option Nat} {bar c : Nat} : Keeps b s (Machine.tryCore e stop bar c t).2 := by
  simp only [Machine.tryCore]
  split
  · exact h
  · split
    · exact h.endStep
    · split
      · split
        · exact h.supply.takeInput.takeInput.trySet
        · exact h.supply.takeInput.takeInput
      · split
        · refine Keeps.markFired ?_
          split
          · exact h.supply.takeInput.takeInput.fireVector
          · exact h.supply.takeInput.takeInput.fireRelay
          · exact h.supply.takeInput.takeInput
        · exact h.supply.takeInput.takeInput

theorem runSteps {e : Rt} {stop held : Option Nat} {n : Nat} : Keeps b s (Machine.runSteps e stop held n t) := by
  induction n generalizing t with
  | zero => exact h
  | succ n ih =>
    unfold Machine.runSteps
    extract_lets u v m
    have hu : Keeps b s u.2 := h.foldlSnd fun h => h.tryCore
    have hv : Keeps b s v.2 := hu.foldlSnd fun h => h.firePipe
    exact (ih hv.moveFlits).ite hv.moveFlits

theorem newRound {p : Nat} : Keeps b s (Machine.newRound p t) := h.modPtn

/-! ### LoadOps -/

theorem figErr {p code slot info : Nat} : Keeps b s (Machine.figErr p code slot info t) := h.modFig

theorem answerRing {by_ : Option (Nat × Nat)} {code info result : Nat} : Keeps b s (Machine.answerRing by_ code info result t) := by
  unfold Machine.answerRing
  split
  · exact h
  · exact h.endCmd.ite h.endFigure

theorem refuseFig {p slot : Nat} {by_ : Option (Nat × Nat)} {e : Nat × Nat} :
    Keeps b s (Machine.refuseFig p slot by_ e t) := h.figErr.answerRing.pulse

theorem endFig {p : Nat} {c : FigCmd} {code info result : Nat} : Keeps b s (Machine.endFig p c code info result t) := h.modFig.figErr.answerRing.pulse

theorem measureFigure {p slot : Nat} {f : Figure} : Keeps b s (Machine.measureFigure p slot f t) := by
  simp only [Machine.measureFigure]
  exact h.setMeas

theorem beginLoad {p slot : Nat} {f : Figure} : Keeps b s (Machine.beginLoad p slot f t) := h.modFig.measureFigure

theorem putFigure {p slot : Nat} {f : Figure} : Keeps b s (Machine.putFigure p slot f t) := by
  simp only [Machine.putFigure]
  exact (h.modPtn.foldl fun h => h.modQtr).setTickets.retargetOne.foldl fun h => h.returnCredits

theorem startFigure {p : Nat} : Keeps b s (Machine.startFigure p t) := h.modPtn.kick

theorem countStalls {p : Nat} : Keeps b s (Machine.countStalls p t) := h.foldl fun h => h.same.same.modQtr

theorem figTakeStaged {p : Nat} : Keeps b s (Machine.figTakeStaged p t) := by
  simp only [Machine.figTakeStaged]
  split
  · exact h
  · split
    · exact h.modFig.figErr
    · split
      · exact h.modFig.refuseSetting
      · exact h.modFig.modFig.figErr.pulse.retargetOne

theorem roundChanges {p : Nat} : Keeps b s (Machine.roundChanges p t) := h.figTakeStaged.takeStaged.takeDivider

/-! ### Loader -/

theorem emptySlot {p slot : Nat} : Keeps b s (Machine.emptySlot p slot t) := h.modSlot.modUnits.modAtt

theorem tryLoad {p : Nat} {c : FigCmd} : Keeps b s (Machine.tryLoad p c t) := by
  unfold Machine.tryLoad
  split
  · exact h.modFig.endFig
  · exact h.beginLoad

theorem figGo {p slot : Nat} {op : FigOp} {by_ : Option (Nat × Nat)} {addr size : Nat} : Keeps b s (Machine.figGo p slot op by_ addr size t) := by
  simp only [Machine.figGo]
  split
  · exact h.refuseFig
  · split
    · exact h.refuseFig
    · split
      · exact h.modFig.modSlot
      · exact h.modFig.emptySlot.endFig
      · exact h.modFig.tryLoad
      · exact h.modFig.startFigure.endFig
      · exact h.modFig.modFig.requestStop
      · exact h.modFig.modFig.requestStop

theorem figCmd {fn p slot : Nat} {op : FigOp} : Keeps b s (Machine.figCmd fn p slot op t) := h.hostAccess (fun h => h.figGo)

theorem execInstall {fn : FnId} {p : PtnId} {slot : SlotId} : Answers b s (Machine.execInstall fn p slot t) := ⟨_, rfl, h.figCmd⟩

theorem execRemove {fn : FnId} {p : PtnId} {slot : SlotId} : Answers b s (Machine.execRemove fn p slot t) := ⟨_, rfl, h.figCmd⟩

theorem execLoad {fn : FnId} {p : PtnId} {slot : SlotId} : Answers b s (Machine.execLoad fn p slot t) := ⟨_, rfl, h.figCmd⟩

theorem execStart {fn : FnId} {p : PtnId} : Answers b s (Machine.execStart fn p t) := ⟨_, rfl, h.figCmd⟩

theorem execDrain {fn : FnId} {p : PtnId} : Answers b s (Machine.execDrain fn p t) := ⟨_, rfl, h.figCmd⟩

theorem execSwitch {fn : FnId} {p : PtnId} {slot : SlotId} : Answers b s (Machine.execSwitch fn p slot t) := ⟨_, rfl, h.figCmd⟩

theorem figOpcode {op : FigOp} {c : Cmd} : Keeps b s (Machine.figOpcode op c t) := h.endCmd.ite h.modCmd.figGo

theorem execFigInstall {e : Entry} : Answers b s (Machine.execFigInstall e t) := ⟨_, rfl, h.runEntry (fun h => h.figOpcode)⟩

theorem execFigRemove {e : Entry} : Answers b s (Machine.execFigRemove e t) := ⟨_, rfl, h.runEntry (fun h => h.figOpcode)⟩

theorem execFigLoad {e : Entry} : Answers b s (Machine.execFigLoad e t) := ⟨_, rfl, h.runEntry (fun h => h.figOpcode)⟩

theorem execFigStart {e : Entry} : Answers b s (Machine.execFigStart e t) := ⟨_, rfl, h.runEntry (fun h => h.figOpcode)⟩

theorem execFigDrain {e : Entry} : Answers b s (Machine.execFigDrain e t) := ⟨_, rfl, h.runEntry (fun h => h.figOpcode)⟩

theorem execFigSwitch {e : Entry} : Answers b s (Machine.execFigSwitch e t) := ⟨_, rfl, h.runEntry (fun h => h.figOpcode)⟩

theorem installEnd {p : Nat} : Keeps b s (Machine.installEnd p t) := by
  simp only [Machine.installEnd]
  split
  · split
    · split
      · exact h.modSlot.endFig
      · exact h.modSlot.endFig
    · exact h
  · exact h

theorem execInstallDone {p : PtnId} : Answers b s (Machine.execInstallDone p t) := ⟨_, rfl, h.installEnd.ite h⟩

theorem loadEnd {p : Nat} : Keeps b s (Machine.loadEnd p t) := by
  simp only [Machine.loadEnd]
  split
  · split
    · exact h
    · split
      · exact h
      · exact (h.putFigure.modFig.startFigure.ite h.putFigure.modFig).endFig
  · exact h

theorem execLoadDone {p : PtnId} : Answers b s (Machine.execLoadDone p t) := ⟨_, rfl, h.loadEnd.ite h⟩

theorem drainEnd {p : Nat} : Keeps b s (Machine.drainEnd p t) := by
  unfold Machine.drainEnd
  extract_lets x u v
  split
  · split
    · exact h
    · have hv : Keeps b s v := h.countStalls.clearStreams.modFe.modFig.roundChanges
      exact hv.tryLoad.ite hv.endFig
  · exact h

theorem execDrainComplete {p : PtnId} : Answers b s (Machine.execDrainComplete p t) := ⟨_, rfl, h.drainEnd.ite h⟩

theorem drainLate {p buffers : Nat} : Keeps b s (Machine.drainLate p buffers t) := by
  simp only [Machine.drainLate]
  split
  · exact (h.pulse.ite h).modFig.raise
  · exact h

theorem execDrainTimeout {p : PtnId} {buffers : Nat} : Answers b s (Machine.execDrainTimeout p buffers t) := ⟨_, rfl, h.drainLate.ite h⟩

theorem figCommitNow {p : Nat} : Keeps b s (Machine.figCommitNow p t) := by
  simp only [Machine.figCommitNow]
  exact h.modFig.ite h.modFig.figTakeStaged

theorem execFigCommit {fn : FnId} {p : PtnId} : Answers b s (Machine.execFigCommit fn p t) := ⟨_, rfl, h.hostAccess (fun h => h.figCommitNow)⟩

/-! ### Rounds -/

theorem roundDone {p : Nat} : Keeps b s (Machine.roundDone p t) := by
  simp only [Machine.roundDone]
  split
  · exact h.modRun
  · split
    · exact h.modRun.modRun.endWork.ite h.modRun.modRun
    · split
      · exact h.modRun.modRun.modStep
      · exact h.modRun.modRun

theorem countRound {p : Nat} : Keeps b s (Machine.countRound p t) := h.newRound.modFig

theorem countCycles {p : Nat} : Keeps b s (Machine.countCycles p t) := by
  simp only [Machine.countCycles]
  exact Keeps.modPtn (Keeps.drawFree (Keeps.drawFree (h.countStalls.drawFree.foldl fun h => h.modQtr)))

theorem mirrorRoundDone {p : Nat} : Keeps b s (Machine.mirrorRoundDone p t) := h.newRound.modPtn.roundChanges.countCycles

theorem mirrorBoundary {p : Nat} : Keeps b s (Machine.mirrorBoundary p t) := by
  simp only [Machine.mirrorBoundary]
  split
  · exact h
  · split
    · exact h
    · exact h.runSteps.mirrorRoundDone.ite h.runSteps

theorem roundBoundary {p : Nat} : Keeps b s (Machine.roundBoundary p t) := by
  simp only [Machine.roundBoundary]
  split
  · exact h
  · split
    · exact h.mirrorBoundary
    · split
      · exact h.countRound.roundChanges.countCycles.ite h
      · exact h.runSteps.countRound.roundChanges.roundDone.countCycles.ite h.runSteps

theorem execPartitionRoundBoundary {p : PtnId} : Answers b s (Machine.execPartitionRoundBoundary p t) := ⟨_, rfl, h.roundBoundary.ite h⟩

theorem barrierNext {p : Nat} : Keeps b s (Machine.barrierNext p t) := by
  simp only [Machine.barrierNext]
  split
  · exact h
  · exact h.runSteps.modPtn.ite h.runSteps

theorem execPartitionBarrier {m : BarrierMsg} : Answers b s (Machine.execPartitionBarrier m t) := ⟨_, rfl, h.ite (h.wrongEpoch.ite h.barrierNext)⟩

theorem flitArrives {p : Nat} {port : FlitPort} {f : Flit} : Keeps b s (Machine.flitArrives p port f t) := by
  simp only [Machine.flitArrives]
  split
  · split
    · exact h.flitRefused ‹_›
    · split
      · exact h.pushBuf.ite h
      · exact h
  · exact h.flitRefusedElse h
  · exact h.flitRefusedElse h.pushBuf
  · refine h.flitRefusedElse ?_
    split
    · exact h.toSampler
    · exact h

theorem execStreamFlit {p : PtnId} {port : FlitPort} {flit : Flit} :
    Answers b s (Machine.execStreamFlit p port flit t) := ⟨_, rfl, h.flitArrives.ite h⟩

theorem giveWay {p : Nat} {r : Running} {go : State → State} (hgo : ∀ {u}, Keeps b s u → Keeps b s (go u)) :
    Keeps b s (Machine.giveWay p r go t) := by
  unfold Machine.giveWay
  split
  · exact h.setAside
  · split
    · exact h.modFe.setAside
    · exact hgo h

theorem pastChunk {p a top : Nat} : Keeps b s (Machine.pastChunk t p a top) := by
  unfold Machine.pastChunk
  split
  · exact h
  · exact h.modTab

theorem recomputeEnd {p a : Nat} : Keeps b s (Machine.recomputeEnd p a t) := h.modTab

theorem dropLate {p c a blk : Nat} : Keeps b s (Machine.dropLate p c a blk t) := by
  simp only [Machine.dropLate]
  exact h.returnPages.modTab

theorem chunkDone {p : Nat} : Keeps b s (Machine.chunkDone p t) := by
  unfold Machine.chunkDone
  split
  · exact h
  · split
    · split
      · exact h
      · extract_lets _ _ _ _ u
        have hu : Keeps b s u := h.pastChunk.modRun.foldl fun h => h.dropLate
        split
        · exact hu.recomputeEnd.endWork
        · exact hu.giveWay (fun h => by split; exacts [(h.nextChunk.snd₂ ‹_›).modRun, (h.nextChunk.snd₂ ‹_›).endRecompute.endWork])
    · exact h

theorem execRecomputeChunkDone {p : PtnId} : Answers b s (Machine.execRecomputeChunkDone p t) := ⟨_, rfl, h.chunkDone.ite h⟩

theorem lateRow {p batch r : Nat} {bs : List Nat} : Keeps b s (Machine.lateRow p batch r bs t) := by
  simp only [Machine.lateRow]
  exact (h.foldl fun h => h.dropLate).rowRecord.modRow

theorem emitTokens {p batch r tb : Nat} {t4 : BStep} {toks : List Nat} {acc d : Nat} : Keeps b s (Machine.emitTokens p batch r tb t4 toks acc d t) :=
  by
  unfold Machine.emitTokens
  extract_lets _ _ _ _ _ _ _ _ _ u _ _ _
  have hu : Keeps b s u := h.foldl fun h => h.emitRec.writeLog
  exact hu.modTab.modRow.finishRow.killRow.ite hu.modTab.modRow

theorem rowStep {p batch tb : Nat} {t3 : BStep} {r : Nat} : Keeps b s (Machine.rowStep p batch tb t3 t r) := by
  simp only [Machine.rowStep]
  split
  · exact h
  · split
    · exact h.rowRecord.killRow
    · split
      · exact h.lateRow
      · split
        · exact h.rowRecord.killRow
        · split
          · exact h.rowRecord.killRow
          · exact h.rowRecord.killRow.ite h.emitTokens

theorem boundaryPhases {p batch : Nat} {t2 : BStep} : Keeps b s (Machine.boundaryPhases p batch t2 t) := by
  unfold Machine.boundaryPhases
  extract_lets _ _ _ _ u
  have hu : Keeps b s u := (h.foldl fun h => h.rowStep).modBatch.applyRowSets.passAlpha
  exact hu.closeBatch.ite hu.rowPhases

theorem afterStep {p : Nat} {r : Running} : Keeps b s (Machine.afterStep p r t) := by
  simp only [Machine.afterStep]
  exact h.modRun.ite (h.modRun.endWork.ite (h.modRun.endWork.ite (h.modRun.giveWay (fun h => h.startStep))))

theorem stepBoundary {p : Nat} : Keeps b s (Machine.stepBoundary p t) := by
  simp only [Machine.stepBoundary]
  split
  · exact h
  · split
    · exact h
    · exact h.ite (h.cancelBatch.ite (h.withRingSignals (fun h => h.boundaryPhases)).afterStep)

theorem execBatchStepBoundary {p : PtnId} : Answers b s (Machine.execBatchStepBoundary p t) := ⟨_, rfl, h.stepBoundary.ite h⟩

/-! ### Preempt -/

theorem sliceEnds {p : Nat} : Keeps b s (Machine.sliceEnds p t) := by
  simp only [Machine.sliceEnds]
  split
  · exact h.modFe.requestStop.ite h.modCtx
  · exact h.modFe
  · exact h.modFe

theorem execSliceEnd {p : PtnId} : Answers b s (Machine.execSliceEnd p t) := ⟨_, rfl, h.sliceEnds.ite h⟩

theorem bowStop {p : Nat} {f : Figure} {r : Running} {i : Nat} {x : BowPoint} {park : Bool} {reported : Option Nat} :
    Keeps b s (Machine.bowStop p f r i x park reported t) := by
  unfold Machine.bowStop
  split
  · exact h.raise
  · exact h.cancelBatch.ite (h.bookOverrun.modFe.ite h.modFe.modCtx)

theorem preempt {p : Nat} {reported : Option Nat} : Keeps b s (Machine.preempt p reported t) := by
  simp only [Machine.preempt]
  split
  · exact h
  · split
    · exact h.runSteps.bowStop.ite h.runSteps
    · exact h

theorem execPreemptStop {p : PtnId} {leftover : Option Nat} : Answers b s (Machine.execPreemptStop p leftover t) := ⟨_, rfl, h.preempt.ite h⟩

theorem saveQuarter {p base q m : Nat} {ls : List (List Byte × Bool)} :
    Keeps b s (Machine.saveQuarter p base q m ls t) := h.foldl fun h => h.writeRange

theorem saveEnd {p : Nat} : Keeps b s (Machine.saveEnd p t) := by
  simp only [Machine.saveEnd]
  split
  · split
    · exact h
    · exact (h.foldl fun h => h.saveQuarter).clearStreams.modFe.modCmd.modCtx.leaveEngine
  · exact h

theorem execSaveDone {p : PtnId} : Answers b s (Machine.execSaveDone p t) := ⟨_, rfl, h.saveEnd.ite h⟩

theorem execSwitchGapEnd {p : PtnId} : Answers b s (Machine.execSwitchGapEnd p t) := by
  unfold Machine.execSwitchGapEnd
  refine ⟨_, rfl, ?_⟩
  split
  · split
    · exact h.serve
    · exact h
  · exact h

theorem quarterBack {p base q m : Nat} {cores : List CoreSave} {gs : List BowRange} :
    Keeps b s (Machine.quarterBack p base q m cores gs t) := h.foldlSnd fun h => by split; exacts [h, h.modCore]

theorem takeBack {p : Nat} {v : Saved} : Keeps b s (Machine.takeBack p v t) := by
  unfold Machine.takeBack
  extract_lets _ u
  have hu : Keeps b s u := h.modPtn.foldl fun h => h.modCore
  split
  · extract_lets
    exact hu.foldl fun h => h.quarterBack
  · exact hu

theorem restoreEnd {p : Nat} : Keeps b s (Machine.restoreEnd p t) := by
  unfold Machine.restoreEnd
  extract_lets
  split
  · extract_lets u
    have hu : Keeps b s u := h.takeBack.modFe.beginTurn
    exact hu.requestStop.ite hu.kick
  · exact h

theorem execRestoreDone {p : PtnId} : Answers b s (Machine.execRestoreDone p t) := ⟨_, rfl, h.restoreEnd.ite h⟩

/-! ### Rings -/

theorem flushHeld {r : Nat} {doorbell : Bool} : Keeps b s (Machine.flushHeld r doorbell t) := h.foldl fun h => h.flushResets

theorem doorbell {r v : Nat} : Keeps b s (Machine.doorbell r v t) := by
  simp only [Machine.doorbell]
  split
  · exact h.modRing
  · split
    · exact h.modRing
    · split
      · exact h.modRing.flushHeld
      · exact (h.modRing.retryResets.ite h.modRing.retryResets.modRing).flushHeld.noteFull

theorem bar2Access {fn off : Nat} {go : Nat → State → State} (hgo : ∀ {a0 u}, Keeps b s u → Keeps b s (go a0 u)) :
    Keeps b s (Machine.bar2Access fn off go t) := h.hostAccess (fun h => (hgo h).ite h.flagUnmapped)

theorem doorbellAccess {fn off size v : Nat} :
    Keeps b s (Machine.doorbellAccess fn off size v t) := (h.bar2Access (fun h => h.doorbell.ite h)).ite (h.bar2Access (fun h => h.flagSize))

theorem execDoorbellWrite {fn : FnId} {span : BarSpan} {val : DWord} :
    Answers b s (Machine.execDoorbellWrite fn span val t) := ⟨_, rfl, h.doorbellAccess⟩

theorem doorbellRead {fn off size : Nat} : Keeps b s (Machine.doorbellRead fn off size t) := by
  simp only [Machine.doorbellRead]
  split
  · exact h
  · exact (h.bar2Access (fun h => h.ite h.flagSize)).readOut

theorem execNop {e : Entry} : Answers b s (Machine.execNop e t) := ⟨_, rfl, h.runEntry (fun h => h.endCmd)⟩

theorem fenceDone {r : Nat} : Keeps b s (Machine.fenceDone r t) := by
  unfold Machine.fenceDone
  split
  · exact h.endCmd.ite h
  · exact h

theorem execFence {e : Entry} : Answers b s (Machine.execFence e t) := ⟨_, rfl, h.runEntry (fun h => h.modCmd.fenceDone)⟩

theorem execReservedOpcode {e : Entry} {opcode : Byte} : Answers b s (Machine.execReservedOpcode e opcode t) := by
  simp only [Machine.execReservedOpcode]
  refine ⟨_, rfl, ?_⟩
  split
  · exact h.startCmd.endCmd
  · exact h

theorem completeFirst {r : Nat} : Keeps b s (Machine.completeFirst r t) := by
  unfold Machine.completeFirst
  extract_lets u _ _
  have hu : Keeps b s u := h.flushResets.fenceDone
  exact Keeps.noteFull (by split; exacts [hu, hu.ite hu.modRing.putCompletion.modPMem])

theorem execCompletionWrite {r : RingId} : Answers b s (Machine.execCompletionWrite r t) := ⟨_, rfl, h.completeFirst.ite h⟩

theorem cmdTimeout {r idx k : Nat} : Keeps b s (Machine.cmdTimeout r idx k t) := by
  simp only [Machine.cmdTimeout]
  split
  · exact h
  · split
    · exact h.modCtx.raise
    · exact h

theorem execCmdTimeout {r : RingId} {index : Word} {engineClass : Fin 4} :
    Answers b s (Machine.execCmdTimeout r index engineClass t) := ⟨_, rfl, h.cmdTimeout.ite h⟩

theorem logDma {fn : Nat} {f : DmaFail} : Keeps b s (Machine.logDma fn f t) := h.modFn

theorem holdReset {r idx : Nat} : Keeps b s (Machine.holdReset r idx t) := h.modRing

theorem ringDma {r idx : Nat} {intake : Bool} {f : DmaFail} : Keeps b s (Machine.ringDma r idx intake f t) := by
  simp only [Machine.ringDma]
  split
  · exact h
  · split
    · split
      · split
        · exact h.logDma.raise
        · exact h
      · exact h
    · exact h.modRing.logDma.ite h.modRing.logDma.holdReset.raise

theorem execRingDma {r : RingId} {index : Word} {intake : Bool} {fail : DmaFail} :
    Answers b s (Machine.execRingDma r index intake fail t) := ⟨_, rfl, h.ringDma.ite h⟩

theorem writeJoinSnap {p join : Nat} {f : Figure} : Keeps b s (Machine.writeJoinSnap p join f t).2 := by
  simp only [Machine.writeJoinSnap]
  split
  · exact h
  · split
    · exact h
    · split
      · exact h
      · exact h.writeRange.modPFlt.pulse

theorem joinImbalance {p core join : Nat} : Keeps b s (Machine.joinImbalance p core join t) := by
  unfold Machine.joinImbalance
  split
  · exact h
  · split
    · exact h
    · extract_lets _ u
      have hu : Keeps b s u := by simp only [u]; split; exacts [h.writeJoinSnap.modQtr, h.writeJoinSnap]
      exact hu.raisePtn

theorem execJoinImbalance {p : PtnId} {core join : Nat} : Answers b s (Machine.execJoinImbalance p core join t) := ⟨_, rfl, h.joinImbalance.ite h⟩

theorem qsSample {p : Nat} : Keeps b s (Machine.qsSample p t) := by
  simp only [Machine.qsSample]
  split
  · exact h
  · split
    · exact h.modPFlt
    · exact h.writeRange.modPFlt.pulse.ite h.writeRange.modPFlt

theorem execQsSample {p : PtnId} : Answers b s (Machine.execQsSample p t) := ⟨_, rfl, h.qsSample.ite h⟩

/-! ### Mirror -/

theorem calmNeighbours {p d : Nat} : Keeps b s (Machine.calmNeighbours p d t) := h.ite h.modPPwr.limitsChanged

theorem loadMirror {p c slot : Nat} {f : Figure} {cores : Tbl Core} : Keeps b s (Machine.loadMirror p c slot f cores t) := by
  simp only [Machine.loadMirror]
  exact (h.modFig.modPtn.measureFigure.foldl fun h => h.modQtr).setDivider

theorem mirrorBegin {p : Nat} : Keeps b s (Machine.mirrorBegin p t) := by
  unfold Machine.mirrorBegin
  extract_lets x n pick u d v w
  split
  · have hu : Keeps b s u := h.modPFlt.ite h
    have hv : Keeps b s v := hu.calmNeighbours
    have hw : Keeps b s w := hv.modPFlt
    exact hu.ite (hv.modPFlt.ite (hw.ite (hw.aimVolts.ite hw.loadMirror)))
  · exact h

theorem execMirrorStart {p : PtnId} : Answers b s (Machine.execMirrorStart p t) := ⟨_, rfl, h.mirrorBegin.ite h⟩

theorem mirrorPass {p : Nat} : Keeps b s (Machine.mirrorPass p t) := by
  simp only [Machine.mirrorPass]
  exact (h.dropMirror.foldl fun h => h.modCtx).pulse.limitsChanged

theorem execMirrorDone {p : PtnId} {rounds : List MirrorRound} : Answers b s (Machine.execMirrorDone p rounds t) := by
  simp only [Machine.execMirrorDone]
  refine ⟨_, rfl, ?_⟩
  split
  · split
    · split
      · exact h.mirrorPass
      · exact h.mirrorFail
    · exact h
  · exact h

theorem execMirrorTimeout {p : PtnId} : Answers b s (Machine.execMirrorTimeout p t) := ⟨_, rfl, h.mirrorFail.ite h⟩

/-! ### Resets -/

theorem fltCmd {fn : Nat} {go : State → State} (hgo : ∀ {u}, Keeps b s u → Keeps b s (go u)) :
    Answers b s (Machine.fltCmd fn go t) := ⟨_, rfl, h.hostAccess (fun h => hgo h)⟩

theorem resetCmd {rec : State → FaultRec} : Keeps b s (Machine.resetCmd rec t) := h.raise.ite h

theorem execModuleReset {fn : FnId} : Answers b s (Machine.execModuleReset fn t) := h.fltCmd (fun h => h.resetCmd)

theorem engineReset {k : Nat} {d : DieId} {p : PtnId} : Keeps b s (Machine.engineReset k d p t) := by
  unfold Machine.engineReset
  split
  · exact h.resetCmd.ite h
  · exact h

theorem execEngineReset {fn : FnId} {engine : Nat} {d : DieId} {p : PtnId} :
    Answers b s (Machine.execEngineReset fn engine d p t) := h.fltCmd (fun h => h.engineReset)

theorem partitionReset {p : Nat} : Keeps b s (Machine.partitionReset p t) := h.resetCmd.ite h

theorem execPartitionReset {fn : FnId} {p : PtnId} : Answers b s (Machine.execPartitionReset fn p t) := h.fltCmd (fun h => h.partitionReset)

theorem execSnapshot {fn : FnId} : Answers b s (Machine.execSnapshot fn t) := h.fltCmd (fun h => h.takeSnapshot)

theorem snapRelease : Keeps b s (Machine.snapRelease t) := h.modFlt

theorem execSnapRelease {fn : FnId} : Answers b s (Machine.execSnapRelease fn t) := h.fltCmd (fun h => h.snapRelease)

theorem engineExpired {e : EngineSel} : Keeps b s (Machine.engineExpired e t) := by
  unfold Machine.engineExpired
  split
  · exact h.raise
  · exact h.raise

theorem resetExpired {sc : ResetScope} : Keeps b s (Machine.resetExpired sc t) := by
  unfold Machine.resetExpired
  split
  · exact (h.foldl fun h => h.raise).ite h
  · exact h.engineExpired.ite h
  · exact h.raise.ite h
  · exact h.raise.ite h

theorem execResetTimeout {sc : ResetScope} : Answers b s (Machine.execResetTimeout sc t) := ⟨_, rfl, h.resetExpired⟩

theorem engineDone {e : EngineSel} : Keeps b s (Machine.engineDone e t) := by
  unfold Machine.engineDone
  extract_lets _ _ u
  have hu : Keeps b s u := h.modFlt.foldl fun h => h.finishCtxReset.ite h
  split
  · exact hu.ite hu.modFe.serve
  · exact hu.settleMovers
  · exact hu.serveMasks
  · exact hu.settleLocal
  · exact hu

theorem execEngineResetDone {e : EngineSel} {r : SelfTestResult} : Answers b s (Machine.execEngineResetDone e r t) := by
  unfold Machine.execEngineResetDone
  refine ⟨_, rfl, ?_⟩
  split
  · split
    · exact h.engineDone
    · exact h.engineExpired
  · exact h

theorem ptnResetDone {p : Nat} : Keeps b s (Machine.ptnResetDone p t) := by
  simp only [Machine.ptnResetDone]
  split
  · exact (h.modPtn.roundChanges.foldl fun h => h.serveCtxReset).setTickets.modPtn
  · exact h

theorem execPartitionResetDone {p : PtnId} : Answers b s (Machine.execPartitionResetDone p t) := ⟨_, rfl, h.ptnResetDone.ite h⟩

theorem moduleDone : Keeps b s (Machine.moduleDone t) := by
  unfold Machine.moduleDone
  extract_lets
  rename_i u v w
  have hu : Keeps b s u := h.rewrite (fun ⟨_, _, h2, hflash, hsram, hupload, hsnap, hhost, hpend⟩ =>
    ⟨wf_empty, wf_empty, twf_filter _ _ _ h2, hflash, hsram, hupload, hsnap, hhost, hpend⟩) rfl
  have hv : Keeps b s v := hu.same rfl rfl
  have hw : Keeps b s w := hv.pulse.ite hv
  exact hw.modBoot.startDies.startPorts.pulse

theorem execModuleResetDone : Answers b s (Machine.execModuleResetDone t) := ⟨_, rfl, h.moduleDone.ite h⟩

theorem writePolicy {code v : Nat} : Keeps b s (Machine.writePolicy code v t) := h.modFlt.ite h.modFlt

theorem policyWrite {fn group number v : Nat} : Keeps b s (Machine.policyWrite fn group number v t) := h.writePolicy.ite h.flagUnmapped

theorem execPolicyWrite {fn : FnId} {group number : Nat} {val : Word} :
    Answers b s (Machine.execPolicyWrite fn group number val t) := ⟨_, rfl, h.hostAccess (fun h => h.policyWrite)⟩

theorem execDieWatchdog {d : DieId} {missed : Nat} : Answers b s (Machine.execDieWatchdog d missed t) := by
  simp only [Machine.execDieWatchdog]
  refine ⟨_, rfl, ?_⟩
  split
  · exact (h.pulse.ite h.pulse.takeSnapshot).raise
  · exact h

theorem execCallerWdogWarn : Answers b s (Machine.execCallerWdogWarn t) := ⟨_, rfl, h.pulse.ite h⟩

theorem execCallerRestart {pc : Word} : Answers b s (Machine.execCallerRestart pc t) := ⟨_, rfl, h.raiseMod.ite h⟩

theorem execCoreMemUe {p : PtnId} {core addr : Nat} : Answers b s (Machine.execCoreMemUe p core addr t) := ⟨_, rfl, h.raisePtn.ite h⟩

theorem engineFails {e : EngineSel} {entry : Nat} : Keeps b s (Machine.engineFails e entry t) := by
  simp only [Machine.engineFails]
  exact h.pulse.raise

theorem execEngineError {e : EngineSel} {queueEntry : Nat} : Answers b s (Machine.execEngineError e queueEntry t) := ⟨_, rfl, h.engineFails.ite h⟩

theorem sendLeaving : Keeps b s (Machine.sendLeaving t) := h.mctpSend

theorem recordPresence : Keeps b s (Machine.recordPresence t) := h.recordFault

theorem execPresenceLost : Answers b s (Machine.execPresenceLost t) := by
  simp only [Machine.execPresenceLost]
  refine ⟨_, rfl, ?_⟩
  split
  · exact h
  · split
    · exact ((h.fence.raiseMod.modFlt).ite h.fence.recordPresence).sendLeaving.switchOff
    · exact h.recordPresence.sendLeaving

/-! ### Registers -/

theorem writePtnCmd {v : Nat} : Keeps b s (Machine.writePtnCmd v t) := by
  simp only [Machine.writePtnCmd]
  split
  · exact h
  · split
    · exact h.ptnCreate
    · exact h.ptnGrow
    · exact h.ptnShrink
    · exact h.ptnDestroy
    · exact h.ptnBind
    · exact h.ptnUnbind
    · exact h.ptnResult

theorem writeMbox {v : Nat} : Keeps b s (Machine.writeMbox v t) := by
  simp only [Machine.writeMbox]
  exact h.ite (h.same.ite h.same)

theorem writeMsix {fn i o v : Nat} : Keeps b s (Machine.writeMsix fn i o v t) := h.modFn.flushPba

theorem writeMod {fn off v : Nat} : Keeps b s (Machine.writeMod fn off v t) := by
  unfold Machine.writeMod
  split
  · exact h.same
  · exact h.writeMsix
  · split
    · exact h.modFn
    · exact h.writePtnCmd
    · exact h.same
    · exact h.writeMbox
    · exact h

theorem writeHVec {e v : Nat} : Keeps b s (Machine.writeHVec e v t) := by
  simp only [Machine.writeHVec]
  exact h.modHVec.vecMessage.ite h.modHVec

theorem writePwr {off v : Nat} : Keeps b s (Machine.writePwr off v t) := by
  unfold Machine.writePwr
  split
  · exact h.modPPwr
  · exact h.modPwr.ite (h.modPwr.ite h)

theorem writeFigCmd {p v : Nat} : Keeps b s (Machine.writeFigCmd p v t) := by
  simp only [Machine.writeFigCmd]
  split
  · exact h.figGo
  · exact h.figGo
  · exact h.figGo
  · exact h.figGo
  · exact h.figGo
  · exact h.figGo
  · exact h.refuseFig

theorem rwlPtn {fn p : Nat} {g : Ptn → Ptn} : Keeps b s (Machine.rwlPtn fn p g t) := h.flagLocked.ite h.modPtn

theorem writeFig {fn p o v : Nat} : Keeps b s (Machine.writeFig fn p o v t) := by
  unfold Machine.writeFig
  split
  · exact h.writeFigCmd
  · exact h.figCommitNow.ite h
  · exact h.modFig
  · exact h.modFig
  · exact h.rwlPtn
  · exact h.rwlPtn
  · exact h.modFig
  · exact h.modFig
  · exact h.modFig
  · exact h

theorem writeRing {fn r o v off : Nat} : Keeps b s (Machine.writeRing fn r o v off t) := by
  simp only [Machine.writeRing]
  split
  · exact h.writeRingCtl
  · exact h.modRing
  · exact h.modRing
  · exact h.modRing
  · exact h.modRing
  · exact h.modRing
  · exact h.modRing
  · exact h.modRing
  · exact h.modRing
  · exact h.modRing.ite h.vfAccess
  · exact h

theorem writeCtxCmd {fn c v : Nat} : Keeps b s (Machine.writeCtxCmd fn c v t) := by
  unfold Machine.writeCtxCmd
  split
  · exact h
  · exact h.ctxEnable
  · exact h.ctxDisable
  · exact h.ctxReset
  · exact h.ctxCode

theorem writeCtx {fn c o v : Nat} : Keeps b s (Machine.writeCtx fn c o v t) := by
  simp only [Machine.writeCtx]
  split
  · exact h.writeCtxCmd
  · exact h.modCtx
  · exact h.ctxCommitNow.ite h
  · exact h.modCtx
  · exact h.modCtx
  · exact h.modCtx
  · exact h.modCtx
  · exact h.modCtx
  · exact h.modCtx
  · exact h.modCtx
  · exact h

theorem writeMemMod {off v : Nat} : Keeps b s (Machine.writeMemMod off v t) := by
  unfold Machine.writeMemMod
  split
  · exact h.modMem
  · exact h.modMem
  · exact h.modMem
  · exact h.modMem
  · exact h

theorem writeMem {fn p o v off : Nat} : Keeps b s (Machine.writeMem fn p o v off t) := by
  unfold Machine.writeMem
  split
  · exact h.writeQuota.ite h.vfAccess
  · exact h.writeQuota.ite h.vfAccess
  · exact h.modPMem
  · exact h

theorem writeTx {fn c o v : Nat} : Keeps b s (Machine.writeTx fn c o v t) := by
  simp only [Machine.writeTx]
  split
  · exact h.flagLocked
  · split
    · exact h.modFab.ite h.modFab.modChan
    · exact h.modFab

theorem writeRx {fn c v : Nat} : Keeps b s (Machine.writeRx fn c v t) := by
  simp only [Machine.writeRx]
  split
  · exact h.flagLocked
  · exact h.modFab.ite h.modFab.modChan

theorem rwlFab {fn : Nat} {g : Fab → Fab} : Keeps b s (Machine.rwlFab fn g t) := h.flagLocked.ite h.modFab.reroute

theorem writePortCtl {n v : Nat} : Keeps b s (Machine.writePortCtl n v t) := by
  simp only [Machine.writePortCtl]
  exact h.writeEnable.writeRetrain.ite h.writeEnable

theorem writeFab {fn off v : Nat} : Keeps b s (Machine.writeFab fn off v t) := by
  unfold Machine.writeFab
  split
  · exact h.writePortCtl
  · exact h.rwlFab
  · exact h.rwlFab
  · exact h.writeTx
  · exact h.writeRx
  · exact h.rwlFab
  · exact h

theorem writeXch {fn p o v : Nat} : Keeps b s (Machine.writeXch fn p o v t) := by
  unfold Machine.writeXch
  split
  · exact h.rwlPtn
  · exact h.rwlPtn
  · exact h.rwlPtn
  · exact h

theorem writePlanCmd {p v : Nat} : Keeps b s (Machine.writePlanCmd p v t) := by
  simp only [Machine.writePlanCmd]
  split
  · exact h.planCmd
  · exact h.planCmd
  · exact h.ite h.planEnd

theorem writeMapCmd {p v : Nat} : Keeps b s (Machine.writeMapCmd p v t) := by
  simp only [Machine.writeMapCmd]
  split
  · exact h.mapCmd
  · exact h.mapCmd
  · exact h.ite h.mapEnd

theorem writeUnits {p o v : Nat} : Keeps b s (Machine.writeUnits p o v t) := by
  unfold Machine.writeUnits
  split
  · exact h.modUnits
  · exact h.modUnits
  · exact h.modUnits
  · exact h.writePlanCmd
  · exact h

theorem writeAtt {fn p o v : Nat} : Keeps b s (Machine.writeAtt fn p o v t) := by
  unfold Machine.writeAtt
  split
  · exact h.writePool
  · exact h.writePool
  · exact h.writePool
  · exact h.modAtt
  · exact h.attCommitNow.ite h
  · exact h.modAtt
  · exact h.modAtt
  · exact h.modAtt
  · exact h.writeMapCmd
  · exact h

theorem writeAttCtx {fn c o v : Nat} : Keeps b s (Machine.writeAttCtx fn c o v t) := by
  unfold Machine.writeAttCtx
  split
  · exact h.modCtx
  · exact h.writeReserve.ite (h.modCtx.ite h)

theorem writeFltCmd {v : Nat} : Keeps b s (Machine.writeFltCmd v t) := by
  unfold Machine.writeFltCmd
  split
  · exact h.resetCmd
  · exact h.takeSnapshot
  · exact h.snapRelease
  · exact h.engineReset
  · exact h.partitionReset
  · exact h

theorem writeFltSh {fn p : Nat} {g : FltSh → FltSh} : Keeps b s (Machine.writeFltSh fn p g t) := (h.modPFlt.ite h.flagLocked).ite h.modPFlt

theorem writeFltPtn {fn p o v : Nat} : Keeps b s (Machine.writeFltPtn fn p o v t) := by
  unfold Machine.writeFltPtn
  split
  · exact h.writeFltSh
  · split
    · exact h.modPFlt
    · exact h.writeFltSh
    · exact h.modPFlt
    · exact h.modPFlt
    · exact h.writeFltSh
    · exact h

theorem writeFlt {fn off v : Nat} : Keeps b s (Machine.writeFlt fn off v t) := by
  unfold Machine.writeFlt
  split
  · exact h.policyWrite
  · exact h.writeFltPtn
  · exact h.modFlt.ite (h.writeFltCmd.ite h)

theorem badSize {fn off : Nat} : Keeps b s (Machine.badSize fn off t) := h.hostAccess (fun h => h.flagSize)

theorem readWord {fn off : Nat} : Keeps b s (Machine.readWord fn off t) := h.hostAccess (fun h => h.readEffect.ite h.flagUnmapped)

theorem hostReadReg {fn off size : Nat} : Keeps b s (Machine.hostReadReg fn off size t) := by
  simp only [Machine.hostReadReg]
  split
  · exact h
  · split
    · exact h.badSize.readOut
    · split
      · exact h.readWord.readOut
      · exact h.readWord.readWord.readOut

theorem execRcRead {fn : FnId} {addr : BarAddr} {size : Nat} : Answers b s (Machine.execRcRead fn addr size t) := by
  unfold Machine.execRcRead
  refine ⟨_, rfl, ?_⟩
  split
  · exact h.hostReadReg
  · exact h.doorbellRead

theorem execModTimeLoRead {fn : FnId} {wide : Bool} : Answers b s (Machine.execModTimeLoRead fn wide t) := ⟨_, rfl, h.hostReadReg⟩

theorem execFigRoundsLoRead {fn : FnId} {p : PtnId} {wide : Bool} : Answers b s (Machine.execFigRoundsLoRead fn p wide t) := ⟨_, rfl, h.hostReadReg⟩

theorem execCtxRunLoRead {fn : FnId} {c : CtxId} {wide : Bool} : Answers b s (Machine.execCtxRunLoRead fn c wide t) := ⟨_, rfl, h.hostReadReg⟩

/-! ### Management -/

theorem budgetRecompute {m : Measure} : Keeps b s (Machine.budgetRecompute m t) := by
  simp only [Machine.budgetRecompute]
  exact h.storeMeasure.moveCap.setBudgets.parkOrUnpark.limitsChanged.modPwr

theorem execBudgetRecompute {m : Measure} : Answers b s (Machine.execBudgetRecompute m t) := ⟨_, rfl, h.budgetRecompute.ite h⟩

theorem execGetTelemetry {inst : Nat} : Answers b s (Machine.execGetTelemetry inst t) := ⟨_, rfl, h.mgmtServe (fun h => h)⟩

theorem getLog {first count : Nat} : Keeps b s (Machine.getLog first count t).2.2 := by
  unfold Machine.getLog
  split
  · exact h
  · exact h

theorem execGetLog {inst first count : Nat} : Answers b s (Machine.execGetLog inst first count t) := ⟨_, rfl, h.mgmtServe (fun h => h.getLog)⟩

theorem getSnapshot {off len : Nat} : Keeps b s (Machine.getSnapshot off len t).2.2 := by
  unfold Machine.getSnapshot
  split
  · exact h
  · exact h

theorem execGetSnapshot {inst offset len : Nat} :
    Answers b s (Machine.execGetSnapshot inst offset len t) := ⟨_, rfl, h.mgmtServe (fun h => h.getSnapshot)⟩

theorem execMctpSnapRelease {inst : Nat} : Answers b s (Machine.execMctpSnapRelease inst t) := ⟨_, rfl, h.mgmtServe (fun h => h.snapRelease)⟩

theorem fwTransfer {off : Nat} {data : List Byte} : Keeps b s (Machine.fwTransfer off data t).2.2 := by
  simp only [Machine.fwTransfer]
  split
  · exact h
  · exact h.rewrite fun ⟨h0, h1, h2, hflash, hsram, hupload, hsnap, hhost, hpend⟩ =>
      ⟨h0, h1, h2, hflash, hsram, wf_mwrite data _ off hupload, hsnap, hhost, hpend⟩

theorem execFwTransfer {inst offset : Nat} {data : List Byte} :
    Answers b s (Machine.execFwTransfer inst offset data t) := ⟨_, rfl, h.mgmtServe (fun h => h.fwTransfer)⟩

theorem freshNonce : Keeps b s (Machine.freshNonce t).2 := h.same.same.same.same

theorem getNonce : Keeps b s (Machine.getNonce t).2.2 := by
  simp only [Machine.getNonce]
  exact h.freshNonce.modMgmt

theorem execGetNonce {inst : Nat} : Answers b s (Machine.execGetNonce inst t) := ⟨_, rfl, h.mgmtServe (fun h => h.getNonce)⟩

theorem keysChanged : Keeps b s (Machine.keysChanged t) := h.setMeas

theorem keyProvision {m : KeyMsg} : Keeps b s (Machine.keyProvision m t).2.2 := by
  unfold Machine.keyProvision
  extract_lets f
  split
  · exact h
  · rename_i hslot
    split
    · exact h
    · split
      · exact h
      · rename_i hfree
        obtain ⟨n, hn⟩ : ∃ n, m.slot = n + 1 := ⟨m.slot - 1, by omega⟩
        rw [hn, Nat.add_sub_cancel, bit_eq_testBit, Bool.not_eq_true] at hfree
        have hu := h.burn (fusesGrow_provision (x := m.keyX) (y := m.keyY) hfree)
        rw [hn, Nat.add_sub_cancel]
        exact hu.keysChanged

theorem execKeyProvision {inst : Nat} {m : KeyMsg} :
    Answers b s (Machine.execKeyProvision inst m t) := ⟨_, rfl, h.mgmtServe (fun h => h.keyProvision)⟩

theorem dropSigned {k : Nat} : Keeps b s (Machine.dropSigned k t) := h.same

theorem keyRevoke {m : KeyMsg} : Keeps b s (Machine.keyRevoke m t).2.2 := by
  simp only [Machine.keyRevoke]
  split
  · exact h
  · split
    · exact h
    · exact (h.burn (fusesGrow_revoke _ _)).dropSigned.keysChanged

theorem execKeyRevoke {inst : Nat} {m : KeyMsg} : Answers b s (Machine.execKeyRevoke inst m t) := ⟨_, rfl, h.mgmtServe (fun h => h.keyRevoke)⟩

theorem vendorDisable {m : KeyMsg} : Keeps b s (Machine.vendorDisable m t).2.2 := by
  simp only [Machine.vendorDisable]
  split
  · exact h
  · split
    · exact h
    · split
      · exact h
      · exact (h.burn (fusesGrow_vendorOff _)).keysChanged

theorem execVendorDisable {inst : Nat} {m : KeyMsg} :
    Answers b s (Machine.execVendorDisable inst m t) := ⟨_, rfl, h.mgmtServe (fun h => h.vendorDisable)⟩

theorem retrainPorts : Keeps b s (Machine.retrainPorts t) := h.foldl fun h => h.setPort.ite h

theorem setCoord {coord : Nat} : Keeps b s (Machine.setCoord coord t).2.2 := by
  unfold Machine.setCoord
  split
  · exact h
  · split
    · exact h
    · split
      · exact h
      · extract_lets u _
        have hu : Keeps b s u := h.modFab.retrainPorts
        exact (hu.ite hu.pulse).startPorts.ite (hu.ite hu.pulse)

theorem execSetCoord {inst coord : Nat} : Answers b s (Machine.execSetCoord inst coord t) := ⟨_, rfl, h.mgmtServe (fun h => h.setCoord)⟩

theorem spdmSend {t0 : Transport} {bs : List Byte} : Keeps b s (Machine.spdmSend t0 bs t) := by
  simp only [Machine.spdmSend]
  split
  · exact h.modOut
  · exact h.modOut.pulse

theorem spdmGot {t0 : Transport} : Keeps b s (Machine.spdmGot t0 t) := by
  unfold Machine.spdmGot
  split
  · exact h
  · exact h.mctpGot

theorem sendSigned {t0 : Transport} {code : Nat} {body : List Byte} : Keeps b s (Machine.sendSigned t0 code body t) := h.same.spdmSend

theorem measResponse {t0 : Transport} {is : List Nat} : Keeps b s (Machine.measResponse t0 is t) := h.sendSigned

theorem execGetMeasurements {t0 : Transport} {indices : List Nat} :
    Answers b s (Machine.execGetMeasurements t0 indices t) := ⟨_, rfl, h.spdmGot.measResponse.ite h⟩

theorem setConn {t0 : Transport} {b1 : Bool} : Keeps b s (Machine.setConn t0 b1 t) := h.modMgmt

theorem spdmAnswer {t0 : Transport} {r : SpdmReq} : Keeps b s (Machine.spdmAnswer t0 r t) := by
  unfold Machine.spdmAnswer
  split
  · exact h.setConn.spdmSend
  · exact h.spdmSend
  · exact h.setConn.spdmSend
  · exact h.spdmSend
  · exact h.spdmSend.ite h.spdmSend
  · exact h.sendSigned.ite h.spdmSend

theorem execSpdmRequest {t0 : Transport} {r : SpdmReq} : Answers b s (Machine.execSpdmRequest t0 r t) := ⟨_, rfl, h.spdmGot.spdmAnswer.ite h⟩

theorem execSetEndpointId {eid : Byte} : Answers b s (Machine.execSetEndpointId eid t) := by
  simp only [Machine.execSetEndpointId]
  refine ⟨_, rfl, ?_⟩
  split
  · exact h
  · exact (h.mctpGot.ite h.mctpGot.modMgmt).pulse

theorem execSetdasa {static_ dyn : Nat} : Answers b s (Machine.execSetdasa static_ dyn t) := ⟨_, rfl, h.modMgmt.ite h⟩

theorem execEntdaa {dyn : Nat} : Answers b s (Machine.execEntdaa dyn t) := ⟨_, rfl, h.modMgmt.ite h⟩

theorem execRstdaa : Answers b s (Machine.execRstdaa t) := ⟨_, rfl, h.modMgmt.ite h⟩

theorem mboxAnswer {code : Nat} {rsp : List Nat} : Keeps b s (Machine.mboxAnswer code rsp t) := h.same

theorem mboxServe {op : Nat} {go : State → State} (hgo : ∀ {u}, Keeps b s u → Keeps b s (go u)) :
    Keeps b s (Machine.mboxServe op go t) := (h.mboxAnswer.ite (hgo h)).ite h

theorem execFwInfo : Answers b s (Machine.execFwInfo t) := ⟨_, rfl, h.mboxServe (fun h => h.mboxAnswer)⟩

theorem repairMap : Keeps b s (Machine.repairMap t) := by
  simp only [Machine.repairMap]
  exact h.mboxAnswer.ite h.mboxAnswer

theorem execRepairMap : Answers b s (Machine.execRepairMap t) := ⟨_, rfl, h.mboxServe (fun h => h.repairMap)⟩

/-! ### Link -/

theorem dropHeld {f : Nat} : Keeps b s (Machine.dropHeld f t) := h.foldl fun h => h.modHVec

theorem flrCtx {c : Nat} : Keeps b s (Machine.flrCtx t c) := by
  simp only [Machine.flrCtx]
  exact h.recordFault.beginCtxReset.ite h.recordFault

theorem flr {v : Nat} : Keeps b s (Machine.flr v t) := by
  simp only [Machine.flr]
  exact (h.dropHeld.modFn.pulse.foldl fun h => h.flrCtx).ite h.dropHeld.modFn.pulse

theorem execFlr {vf : FnId} : Answers b s (Machine.execFlr vf t) := ⟨_, rfl, h.flr.ite h⟩

theorem loseRings : Keeps b s (Machine.loseRings t) := h.ringTable

theorem loseCtx {c : Nat} : Keeps b s (Machine.loseCtx t c) := h.raise.resetBatches

theorem loseLink : Keeps b s (Machine.loseLink t) := by
  simp only [Machine.loseLink]
  exact ((h.pulse.ite h).same.foldl fun h => h.loseCtx).modFlt.loseRings.pulse

theorem execLinkLoss {cause : LinkCause} : Answers b s (Machine.execLinkLoss cause t) := by
  unfold Machine.execLinkLoss
  refine ⟨_, rfl, ?_⟩
  split
  · exact h.loseLink.ite h
  · exact h.loseLink.ite h
  · exact h.loseLink.ite h

theorem execLinkUp : Answers b s (Machine.execLinkUp t) := ⟨_, rfl, h.same.pulse.ite h⟩

theorem releaseRings {f : Nat} : Keeps b s (Machine.releaseRings f t) := h.foldl fun h => h.writeBack.flushResets

theorem setBme {f : Nat} : Keeps b s (Machine.setBme f t) := h.modFn.pulse.flushPba.releaseRings

theorem execBusMasterEnable {fn : FnId} : Answers b s (Machine.execBusMasterEnable fn t) := ⟨_, rfl, h.setBme.ite h⟩

theorem writeVfEnable {b0 : Bool} : Keeps b s (Machine.writeVfEnable b0 t) := by
  simp only [Machine.writeVfEnable]
  split
  · exact h
  · exact (h.same.ite h.same.same).pulse

theorem configWrite {f : Nat} {ch : CfgChange} : Keeps b s (Machine.configWrite f ch t) := by
  unfold Machine.configWrite
  split
  · exact h.modFn.flushPba
  · exact h.modFn.flushPba
  · exact h.modFn
  · exact h.writeVfEnable.ite h

theorem execConfigurationWrite {fn : FnId} {ch : CfgChange} : Answers b s (Machine.execConfigurationWrite fn ch t) := ⟨_, rfl, h.configWrite.ite h⟩

/-! ### Movers -/

theorem execMigrate {e : Entry} : Answers b s (Machine.execMigrate e t) := ⟨_, rfl, h.runEntry (fun h => h.toMover)⟩

theorem pageCopied {d : Nat} {i : MoverItem} : Keeps b s (Machine.pageCopied d i t) := by
  simp only [Machine.pageCopied]
  split
  · exact h.dropTransit.finishHead
  · split
    · exact h
    · split
      · exact (h.migratePage.snd ‹_›).unitDone.finishHead
      · exact (h.migratePage.snd ‹_›).modCmd.dropMoverItems.dropTransit.unitDone.finishHead

theorem execMigratePageDone {p : PtnId} {obj : ObjId} {page : Nat} : Answers b s (Machine.execMigratePageDone p obj page t) := by
  unfold Machine.execMigratePageDone
  refine ⟨_, rfl, ?_⟩
  split
  · exact h.pageCopied
  · exact h

theorem execEvict {e : Entry} : Answers b s (Machine.execEvict e t) := ⟨_, rfl, h.runEntry (fun h => h.toMover)⟩

theorem rebuild {good bad : List (Nat × Option (Nat × Nat) × Bool)} : Keeps b s (Machine.rebuild good bad t) := h.foldl fun h => by
  split
  · exact (h.tiers fun w => w.copyPhys).ite h
  · exact h

theorem judgeShard {p o i : Nat} {ctx : Option Nat} : Keeps b s (Machine.judgeShard p o i ctx t).1 := by
  unfold Machine.judgeShard
  split
  · exact h
  · extract_lets cs u v r
    split
    · rename_i good _
      dsimp only
      have hr {l} : Keeps b s (List.foldl (fun s c => Machine.rebuild good c s) t l) := h.foldl fun h => h.rebuild
      exact hr.modShard
    · have hu : Keeps b s u := h.modShard
      have hv : Keeps b s v := hu.ite hu.modPMem
      exact hv.raise

theorem execIntake {e : Entry} : Answers b s (Machine.execIntake e t) := ⟨_, rfl, h.runEntry (fun h => h.toMover)⟩

theorem writeShard {p o : Nat} {shard : Shard} {data : List DmaLine} : Keeps b s (Machine.writeShard p o shard data t) := by
  unfold Machine.writeShard
  extract_lets x u
  have hu : Keeps b s u := h.foldl fun h =>
    (((h.ite h.addCopy).foldl fun h => h.ite h.dropCopies).tiers fun w => w.foldl fun w => w.clearPhys).modPage
  exact hu.foldl fun h => h.writePart.ite h

theorem shardArrived {d : Nat} {i : MoverItem} {data : List DmaLine} : Keeps b s (Machine.shardArrived d i data t) := by
  simp only [Machine.shardArrived]
  split
  · split
    · exact h
    · split
      · exact (h.writeShard.judgeShard.ite h.writeShard.judgeShard.modCmd).unitDone.finishHead
      · exact h.modCmd.dropMoverItems.unitDone.finishHead
  · exact h.finishHead

theorem execIntakeShardDone {p : PtnId} {obj : ObjId} {shard : Nat} {data : List DmaLine} :
    Answers b s (Machine.execIntakeShardDone p obj shard data t) := by
  unfold Machine.execIntakeShardDone
  refine ⟨_, rfl, ?_⟩
  split
  · exact h.shardArrived
  · exact h

theorem execVerify {e : Entry} : Answers b s (Machine.execVerify e t) := ⟨_, rfl, h.runEntry (fun h => h.toMover)⟩

theorem shardVerified {d : Nat} {i : MoverItem} : Keeps b s (Machine.shardVerified d i t) := by
  simp only [Machine.shardVerified]
  split
  · split
    · exact h
    · exact (h.touchObjs.judgeShard.ite h.touchObjs.judgeShard.modCmd).unitDone.finishHead
  · exact h.finishHead

theorem execVerifyShardDone {p : PtnId} {obj : ObjId} {shard : Nat} : Answers b s (Machine.execVerifyShardDone p obj shard t) := by
  unfold Machine.execVerifyShardDone
  refine ⟨_, rfl, ?_⟩
  split
  · exact h.shardVerified
  · exact h

theorem scrubEnd : Keeps b s (Machine.scrubEnd t) := by
  simp only [Machine.scrubEnd]
  split
  · exact h.modMem.pulse
  · exact h

theorem scrubStart : Keeps b s (Machine.scrubStart t) := h.ite (h.modMem.pulse.ite h.modMem.scrubEnd)

theorem execScrubPassStart : Answers b s (Machine.execScrubPassStart t) := ⟨_, rfl, h.scrubStart.ite h⟩

theorem scrubShard {p o i : Nat} : Keeps b s (Machine.scrubShard p o i t) := by
  simp only [Machine.scrubShard]
  split
  · exact (h.judgeShard.ite h).modMem.scrubEnd
  · exact h

theorem execScrubShardDone {p : PtnId} {obj : ObjId} {shard : Nat} :
    Answers b s (Machine.execScrubShardDone p obj shard t) := ⟨_, rfl, h.scrubShard.ite h⟩

theorem recheckShard {p o i : Nat} : Keeps b s (Machine.recheckShard p o i t) := by
  simp only [Machine.recheckShard]
  exact h.judgeShard.modObj.ite h.judgeShard

theorem execRecheckShardDone {p : PtnId} {obj : ObjId} {shard : Nat} : Answers b s (Machine.execRecheckShardDone p obj shard t) := by
  simp only [Machine.execRecheckShardDone]
  refine ⟨_, rfl, ?_⟩
  exact h.recheckShard.ite h

theorem moveCopy {p key tier phys new : Nat} : Keeps b s (Machine.moveCopy p key tier phys new t) :=
  (h.tiers fun w => w.setTierUsed.copyPhys.releasePhys).modPage

theorem replacePage {p key tier phys : Nat} : Keeps b s (Machine.replacePage p key tier phys t) := by
  unfold Machine.replacePage
  extract_lets e o k others last busy
  have hlast : Keeps b s (last t) := by
    simp -zeta only [last]
    split
    · exact h.dropCopies
    · split
      · exact h
      · extract_lets u v
        have hv : Keeps b s v := (h.modPage.ite h).addCopy
        split
        · rename_i n _
          extract_lets w
          have hw : Keeps b s w := hv.tiers fun w => w.copyPhys
          exact (hw.tiers fun w => w.releasePhys).ite hw.dropCopies
        · exact h
  split
  · split
    · split
      rename_i i u htake
      have hu : Keeps b s u := h.takeRepl.snd htake
      extract_lets v w
      have hv : Keeps b s v := hu.tiers fun w => w.foldl fun w => w.copyPhys
      have hw : Keeps b s w := hv.tiers fun w => w.foldl fun w => w.releasePhys
      exact hw.modPage
    · exact hlast
  · split
    · exact h.moveCopy
    · split
      · exact h.takePage.moveCopy
      · exact hlast

theorem replaceRetained {phys : Nat} : Keeps b s (Machine.replaceRetained phys t) := by
  unfold Machine.replaceRetained
  extract_lets move
  have hmove {n : Nat} {u : State} (h : Keeps b s u) : Keeps b s (move n u) :=
    h.tiers fun w => MemWf.releasePhys (MemWf.copyPhys (by exact w))
  split
  · exact hmove h
  · exact h.ite (hmove h.takePage)

theorem retirePage {tier phys : Nat} {ue : Bool} : Keeps b s (Machine.retirePage tier phys ue t) := by
  unfold Machine.retirePage
  split
  · exact h
  · extract_lets full u v w
    have hv : Keeps b s v := (h.tiers fun w => w.setTierRetired).modMem
    have hw : Keeps b s w := by simp only [w]; split; exacts [hv.replacePage, hv.replaceRetained.ite hv]
    exact hw.raiseMod.pulse

theorem eccHit {tier phys line : Nat} {ue : Bool} : Keeps b s (Machine.eccHit tier phys line ue t) := by
  unfold Machine.eccHit
  split
  · extract_lets u
    have hu : Keeps b s u := h.tiers fun w => w.setTierBad
    exact hu.raiseMod.retirePage
  · extract_lets times u
    have hu : Keeps b s u := h.tiers fun w => by
      split
      · exact w
      · split <;> exact w
    exact hu.retirePage.ite hu

theorem execEccError {tier : Tier} {phys : Nat} {line : Fin 1024} {uncorrectable : Bool} :
    Answers b s (Machine.execEccError tier phys line uncorrectable t) := ⟨_, rfl, h.eccHit.ite h⟩

end

section
variable {s t : State} (h : Keeps true s t)
include h

/-! ### EventCtl -/

theorem unmask {n : Nat} : Keeps true s (Machine.unmask n t) := by
  simp only [Machine.unmask]
  have hu := h.modSetup (g := fun e => { e with unmasked := nadd n e.unmasked })
  exact h.ite (hu.deliver.ite hu).countAlert

theorem mask {n : Nat} : Keeps true s (Machine.mask n t) := h.modSetup

theorem route {n target fn index prio filter : Nat} {edge unm : Bool} : Keeps true s (Machine.route n target fn index prio filter edge unm t) := by
  unfold Machine.route
  extract_lets u
  have hu : Keeps true s u := h.modSetup
  exact hu.unmask.ite hu

theorem firmwareRouting : Keeps true s (Machine.firmwareRouting t) := by
  simp only [Machine.firmwareRouting]
  exact ((h.foldl fun h => h.route).foldl fun h => h.route).route.modTgt.foldl fun h => h.modTgt

/-! ### Firmware -/

theorem runFirmware {i : FwInfo} {recovered : Bool} : Keeps true s (Machine.runFirmware i recovered t) := by
  simp only [Machine.runFirmware]
  exact h.modBoot.setMeas.setMeas.setMeas.setMeas.deriveAlias.firmwareRouting

/-! ### Boot -/

theorem unpowered : Keeps true s (Machine.unpowered t) := by
  refine h.trans ⟨fun ⟨_, _, _, hflash, _, _, _, hhost, _⟩ => ?_, rfl, fusesGrow_refl _, nofun⟩
  refine ⟨wf_empty, wf_empty, wf_empty, ?_, wf_empty, wf_empty, wf_empty, hhost, List.Pairwise.nil⟩
  simp only [Machine.unpowered]
  split
  · exact wf_empty
  · exact hflash

theorem execAonPowerUp {slotId : Fin 16} : Answers true s (Machine.execAonPowerUp slotId t) := by
  refine ⟨_, rfl, ?_⟩
  split
  · exact h
  · have hu : Keeps true s (Machine.unpowered t) := h.unpowered
    have hpend : List.Pairwise (· < ·) [4, 6, 7] := by decide
    exact hu.trans ⟨fun ⟨h0, h1, h2, hflash, hsram, hupload, hsnap, hhost, _⟩ =>
      ⟨h0, h1, h2, hflash, hsram, hupload, hsnap, hhost, hpend⟩, rfl, fusesGrow_refl _, nofun⟩

theorem execBootVerify : Answers true s (Machine.execBootVerify t) := by
  unfold Machine.execBootVerify
  refine ⟨_, rfl, ?_⟩
  split
  · extract_lets size n
    split
    · have hu : Keeps true s (Machine.modBoot (fun b => { b with sram := b.flash, sramSize := n }) t) :=
        h.rewrite fun ⟨h0, h1, h2, hflash, _, hupload, hsnap, hhost, hpend⟩ =>
          ⟨h0, h1, h2, hflash, hflash, hupload, hsnap, hhost, hpend⟩
      exact hu.runFirmware
    · exact h.modBoot.bootNotice
  · exact h

theorem execAlwaysOnLoss : Answers true s (Machine.execAlwaysOnLoss t) := ⟨_, rfl, h.unpowered⟩

/-! ### Events -/

theorem execEvcMaskSet {fn : FnId} {k : Fin 128} {val : Word} :
    Answers true s (Machine.execEvcMaskSet fn k val t) := ⟨_, rfl, h.hostAccess (fun h => h.onSources (fun h => h.mask))⟩

theorem execEvcMaskClr {fn : FnId} {k : Fin 128} {val : Word} :
    Answers true s (Machine.execEvcMaskClr fn k val t) := ⟨_, rfl, h.hostAccess (fun h => h.onSources (fun h => h.unmask))⟩

theorem writeSrcCfg {n v : Nat} : Keeps true s (Machine.writeSrcCfg n v t) := by
  simp only [Machine.writeSrcCfg]
  split
  · exact h.cfgFlags
  · exact Keeps.reassert h.modSetup

theorem execEvcSrcCfg {fn : FnId} {n : SrcId} {val : Word} :
    Answers true s (Machine.execEvcSrcCfg fn n val t) := ⟨_, rfl, h.hostAccess (fun h => h.writeSrcCfg)⟩

theorem writeSrcDest {n v : Nat} : Keeps true s (Machine.writeSrcDest n v t) := by
  simp only [Machine.writeSrcDest]
  split
  · exact h.cfgFlags
  · exact h.modSetup

theorem execEvcSrcDest {fn : FnId} {n : SrcId} {val : Word} :
    Answers true s (Machine.execEvcSrcDest fn n val t) := ⟨_, rfl, h.hostAccess (fun h => h.writeSrcDest)⟩

theorem writeVfVectors {v count : Nat} : Keeps true s (Machine.writeVfVectors v count t) := by
  simp only [Machine.writeVfVectors]
  split
  · exact h.modEvc
  · exact h.modSetup

theorem execEvcVfVectors {fn : FnId} {v : Fin 32} {val : Word} :
    Answers true s (Machine.execEvcVfVectors fn v val t) := ⟨_, rfl, h.hostAccess (fun h => h.writeVfVectors)⟩

/-! ### Registers -/

theorem writeEvc {off v : Nat} : Keeps true s (Machine.writeEvc off v t) := by
  unfold Machine.writeEvc
  split
  · exact h.onSources (fun h => h.setPend)
  · exact h.clearPends
  · exact h.onSources (fun h => h.mask)
  · exact h.onSources (fun h => h.unmask)
  · exact h.writeSrcCfg.ite h.writeSrcDest
  · exact h.writeHVec
  · exact h.writeVfVectors
  · exact h.modEvc.ite h

theorem regWrite {fn off v : Nat} : Keeps true s (Machine.regWrite fn off v t) := by
  unfold Machine.regWrite
  split
  · exact h.writeMod
  · split
    · exact h.writeEvc
    · split
      · exact h.writePwr
      · split
        · split
          · exact h.writeFig
          · exact h
        · split
          · exact h.writeRing
          · split
            · exact h.writeCtx
            · split
              · split
                · exact h.writeMem
                · exact h.writeMemMod
              · split
                · split
                  · exact h.writeXch
                  · exact h.writeFab
                · split
                  · split
                    · exact h.writeUnits
                    · exact h
                  · split
                    · split
                      · exact h.writeAtt
                      · exact h.writeAttCtx
                      · exact h
                    · exact h.writeFlt.ite h

theorem writeWord {fn off v : Nat} : Keeps true s (Machine.writeWord fn off v t) := h.hostAccess (fun h => h.regWrite.ite h.flagUnmapped)

theorem hostWriteReg {fn off size v : Nat} :
    Keeps true s (Machine.hostWriteReg fn off size v t) := h.badSize.ite (h.writeWord.ite h.writeWord.writeWord)

theorem execRegisterWrite {fn : FnId} {off size : Nat} {val : DWord} :
    Answers true s (Machine.execRegisterWrite fn off size val t) := ⟨_, rfl, h.hostWriteReg⟩

/-! ### Management -/

theorem fwCommit {size : Nat} : Keeps true s (Machine.fwCommit size t).2.2 := by
  unfold Machine.fwCommit
  extract_lets n
  split
  · exact h
  · split
    · exact h.modBoot.ite h
    · split
      · have hu : Keeps true s (Machine.modBoot (fun b => { b with sram := b.upload, sramSize := n, flashBusy := true }) t) :=
          h.rewrite fun ⟨h0, h1, h2, hflash, _, hupload, hsnap, hhost, hpend⟩ =>
            ⟨h0, h1, h2, hflash, hupload, hupload, hsnap, hhost, hpend⟩
        exact hu.runFirmware
      · exact h.rewrite fun ⟨h0, h1, h2, _, hsram, hupload, hsnap, hhost, hpend⟩ =>
          ⟨h0, h1, h2, hupload, hsram, hupload, hsnap, hhost, hpend⟩

theorem execFwCommit {inst size : Nat} : Answers true s (Machine.execFwCommit inst size t) := ⟨_, rfl, h.mgmtServe (fun h => h.fwCommit)⟩

end

end Keeps

/-! ### Every command -/

/-- Every command answers with a next state, which keeps what it held. -/
theorem exec_answers (c : Instr) (s : State) : Answers (configuresEvents c) s (exec c s) := by
  have h (b : Bool) : Keeps b s s := .refl b s
  cases c with
  | registerWrite => exact (h _).execRegisterWrite
  | rcRead => exact (h _).execRcRead
  | modTimeLoRead => exact (h _).execModTimeLoRead
  | figRoundsLoRead => exact (h _).execFigRoundsLoRead
  | ctxRunLoRead => exact (h _).execCtxRunLoRead
  | aonPowerUp => exact (h _).execAonPowerUp
  | bootVerify => exact (h _).execBootVerify
  | powerUp => exact (h _).execPowerUp
  | powerUpComplete => exact (h _).execPowerUpComplete
  | repairDone => exact (h _).execRepairDone
  | trainingDone => exact (h _).execTrainingDone
  | initDone => exact (h _).execInitDone
  | hardRstN => exact (h _).execHardRstN
  | pwrEnDeasserted => exact (h _).execPwrEnDeasserted
  | coolantLost => exact (h _).execCoolantLost
  | flashWriteDone => exact (h _).execFlashWriteDone
  | install => exact (h _).execInstall
  | installDone => exact (h _).execInstallDone
  | remove => exact (h _).execRemove
  | load => exact (h _).execLoad
  | loadDone => exact (h _).execLoadDone
  | start => exact (h _).execStart
  | drain => exact (h _).execDrain
  | switch => exact (h _).execSwitch
  | drainComplete => exact (h _).execDrainComplete
  | drainTimeout => exact (h _).execDrainTimeout
  | partitionRoundBoundary => exact (h _).execPartitionRoundBoundary
  | figCommit => exact (h _).execFigCommit
  | attCommit => exact (h _).execAttCommit
  | ctxCommit => exact (h _).execCtxCommit
  | ringCommit => exact (h _).execRingCommit
  | joinImbalance => exact (h _).execJoinImbalance
  | streamFlit => exact (h _).execStreamFlit
  | partitionBarrier => exact (h _).execPartitionBarrier
  | planBind => exact (h _).execPlanBind
  | planUnbind => exact (h _).execPlanUnbind
  | planBindDone => exact (h _).execPlanBindDone
  | mapBind => exact (h _).execMapBind
  | mapUnbind => exact (h _).execMapUnbind
  | mapBindDone => exact (h _).execMapBindDone
  | adapterSet => exact (h _).execAdapterSet
  | adapterClear => exact (h _).execAdapterClear
  | steerSet => exact (h _).execSteerSet
  | steerClear => exact (h _).execSteerClear
  | gatherDone => exact (h _).execGatherDone
  | fetchDeadline => exact (h _).execFetchDeadline
  | recompute => exact (h _).execRecompute
  | recomputeChunkDone => exact (h _).execRecomputeChunkDone
  | kvRelease => exact (h _).execKvRelease
  | objSet => exact (h _).execObjSet
  | objClear => exact (h _).execObjClear
  | objClearDone => exact (h _).execObjClearDone
  | objQuery => exact (h _).execObjQuery
  | migrate => exact (h _).execMigrate
  | migratePageDone => exact (h _).execMigratePageDone
  | evict => exact (h _).execEvict
  | intake => exact (h _).execIntake
  | intakeShardDone => exact (h _).execIntakeShardDone
  | verify => exact (h _).execVerify
  | verifyShardDone => exact (h _).execVerifyShardDone
  | scrubPassStart => exact (h _).execScrubPassStart
  | scrubShardDone => exact (h _).execScrubShardDone
  | recheckShardDone => exact (h _).execRecheckShardDone
  | eccError => exact (h _).execEccError
  | bar4Read => exact (h _).execBar4Read
  | bar4Write => exact (h _).execBar4Write
  | quotaWrite => exact (h _).execQuotaWrite
  | poolWrite => exact (h _).execPoolWrite
  | reserveWrite => exact (h _).execReserveWrite
  | create => exact (h _).execCreate
  | grow => exact (h _).execGrow
  | shrink => exact (h _).execShrink
  | destroy => exact (h _).execDestroy
  | bindVf => exact (h _).execBindVf
  | unbindVf => exact (h _).execUnbindVf
  | modPtnDone => exact (h _).execModPtnDone
  | enable => exact (h _).execEnable
  | disable => exact (h _).execDisable
  | reset => exact (h _).execReset
  | contextResetDone => exact (h _).execContextResetDone
  | doorbellWrite => exact (h _).execDoorbellWrite
  | nop => exact (h _).execNop
  | fence => exact (h _).execFence
  | reservedOpcode => exact (h _).execReservedOpcode
  | figInstall => exact (h _).execFigInstall
  | figRemove => exact (h _).execFigRemove
  | figLoad => exact (h _).execFigLoad
  | figStart => exact (h _).execFigStart
  | figDrain => exact (h _).execFigDrain
  | figSwitch => exact (h _).execFigSwitch
  | figRun => exact (h _).execFigRun
  | routeSet => exact (h _).execRouteSet
  | completionWrite => exact (h _).execCompletionWrite
  | sliceEnd => exact (h _).execSliceEnd
  | preemptStop => exact (h _).execPreemptStop
  | saveDone => exact (h _).execSaveDone
  | switchGapEnd => exact (h _).execSwitchGapEnd
  | restoreDone => exact (h _).execRestoreDone
  | cmdTimeout => exact (h _).execCmdTimeout
  | ringDma => exact (h _).execRingDma
  | batchOpen => exact (h _).execBatchOpen
  | batchRun => exact (h _).execBatchRun
  | rowSet => exact (h _).execRowSet
  | batchClose => exact (h _).execBatchClose
  | batchStepBoundary => exact (h _).execBatchStepBoundary
  | pendingRecordWrite => exact (h _).execPendingRecordWrite
  | maskSet => exact (h _).execMaskSet
  | maskClear => exact (h _).execMaskClear
  | portEnable => exact (h _).execPortEnable
  | retrain => exact (h _).execRetrain
  | signalDetect => exact (h _).execSignalDetect
  | equaliseDone => exact (h _).execEqualiseDone
  | equaliseTimeout => exact (h _).execEqualiseTimeout
  | alignDone => exact (h _).execAlignDone
  | alignTimeout => exact (h _).execAlignTimeout
  | exchangeDone => exact (h _).execExchangeDone
  | signalLoss => exact (h _).execSignalLoss
  | retrainDone => exact (h _).execRetrainDone
  | retrainTimeout => exact (h _).execRetrainTimeout
  | frameReceive => exact (h _).execFrameReceive
  | replayTimeout => exact (h _).execReplayTimeout
  | leavingPacket => exact (h _).execLeavingPacket
  | lostNotice => exact (h _).execLostNotice
  | returnNotice => exact (h _).execReturnNotice
  | channelPacket => exact (h _).execChannelPacket
  | channelCredit => exact (h _).execChannelCredit
  | exchangeStep => exact (h _).execExchangeStep
  | score => exact (h _).execScore
  | end_ => exact (h _).execEnd
  | grant => exact (h _).execGrant
  | grantEnd => exact (h _).execGrantEnd
  | act => exact (h _).execAct
  | answer => exact (h _).execAnswer
  | cancel => exact (h _).execCancel
  | void => exact (h _).execVoid
  | evcPendSet => exact (h _).execEvcPendSet
  | evcPendClr => exact (h _).execEvcPendClr
  | evcMaskSet => exact (h _).execEvcMaskSet
  | evcMaskClr => exact (h _).execEvcMaskClr
  | evcSrcCfg => exact (h _).execEvcSrcCfg
  | evcSrcDest => exact (h _).execEvcSrcDest
  | evcVfVectors => exact (h _).execEvcVfVectors
  | filterExpiry => exact (h _).execFilterExpiry
  | eventDelivery => exact (h _).execEventDelivery
  | wfiWake => exact (h _).execWfiWake
  | handlerReturn => exact (h _).execHandlerReturn
  | moderationGapEnd => exact (h _).execModerationGapEnd
  | holdIntervalEnd => exact (h _).execHoldIntervalEnd
  | setCap => exact (h _).execSetCap
  | budgetRecompute => exact (h _).execBudgetRecompute
  | clampStart => exact (h _).execClampStart
  | clampEnd => exact (h _).execClampEnd
  | brake => exact (h _).execBrake
  | brakeRelease => exact (h _).execBrakeRelease
  | brakeReturn => exact (h _).execBrakeReturn
  | sensorSample => exact (h _).execSensorSample
  | thermalRowLeave => exact (h _).execThermalRowLeave
  | neighbourStep => exact (h _).execNeighbourStep
  | neighbourStepLift => exact (h _).execNeighbourStepLift
  | thermalTrip => exact (h _).execThermalTrip
  | coolantSample => exact (h _).execCoolantSample
  | coolantLift => exact (h _).execCoolantLift
  | railFault => exact (h _).execRailFault
  | breakerOpen => exact (h _).execBreakerOpen
  | pllUnlock => exact (h _).execPllUnlock
  | pllLost => exact (h _).execPllLost
  | moduleReset => exact (h _).execModuleReset
  | moduleResetDone => exact (h _).execModuleResetDone
  | snapshot => exact (h _).execSnapshot
  | snapRelease => exact (h _).execSnapRelease
  | engineReset => exact (h _).execEngineReset
  | engineResetDone => exact (h _).execEngineResetDone
  | partitionReset => exact (h _).execPartitionReset
  | partitionResetDone => exact (h _).execPartitionResetDone
  | policyWrite => exact (h _).execPolicyWrite
  | resetTimeout => exact (h _).execResetTimeout
  | dieWatchdog => exact (h _).execDieWatchdog
  | callerWdogWarn => exact (h _).execCallerWdogWarn
  | callerRestart => exact (h _).execCallerRestart
  | qsSample => exact (h _).execQsSample
  | mirrorStart => exact (h _).execMirrorStart
  | mirrorDone => exact (h _).execMirrorDone
  | mirrorTimeout => exact (h _).execMirrorTimeout
  | presenceLost => exact (h _).execPresenceLost
  | getTelemetry => exact (h _).execGetTelemetry
  | getLog => exact (h _).execGetLog
  | getSnapshot => exact (h _).execGetSnapshot
  | mctpSnapRelease => exact (h _).execMctpSnapRelease
  | fwTransfer => exact (h _).execFwTransfer
  | fwCommit => exact (h _).execFwCommit
  | getNonce => exact (h _).execGetNonce
  | keyProvision => exact (h _).execKeyProvision
  | keyRevoke => exact (h _).execKeyRevoke
  | vendorDisable => exact (h _).execVendorDisable
  | setCoord => exact (h _).execSetCoord
  | getMeasurements => exact (h _).execGetMeasurements
  | spdmRequest => exact (h _).execSpdmRequest
  | setEndpointId => exact (h _).execSetEndpointId
  | setdasa => exact (h _).execSetdasa
  | entdaa => exact (h _).execEntdaa
  | rstdaa => exact (h _).execRstdaa
  | fwInfo => exact (h _).execFwInfo
  | repairMap => exact (h _).execRepairMap
  | flr => exact (h _).execFlr
  | linkLoss => exact (h _).execLinkLoss
  | linkUp => exact (h _).execLinkUp
  | busMasterEnable => exact (h _).execBusMasterEnable
  | configurationWrite => exact (h _).execConfigurationWrite
  | pllRelock => exact (h _).execPllRelock
  | alwaysOnLoss => exact (h _).execAlwaysOnLoss
  | voltageReached => exact (h _).execVoltageReached
  | coreMemUe => exact (h _).execCoreMemUe
  | engineError => exact (h _).execEngineError

/-- A step is the idle step or a command with the queue's rest, and both keep the canonical form. -/
theorem step_canonical {s t : State} (hs : canonical s) (ht : step s = .next t) : canonical t := by
  unfold step at ht
  split at ht
  · obtain rfl := Host.Outcome.next.inj ht
    exact (Keeps.refl false s).tick.canonical hs
  · rename_i c rest _
    obtain ⟨u, hu, hkeeps⟩ := exec_answers c { s with pending := rest }
    obtain rfl := Host.Outcome.next.inj (ht.symm.trans hu)
    exact hkeeps.canonical hs

/-- Settles O56: no command leaves two entries for one address or an entry that says nothing, by what every operation of the model keeps. -/
theorem everyStepKeepsTheCanonicalForm : Obligations.EveryStepKeepsTheCanonicalForm := by
  unfold Obligations.EveryStepKeepsTheCanonicalForm
  exact fun _ _ => step_canonical

/-- Settles O57: after reset every memory and the pending set are empty. -/
theorem resetIsCanonical : Obligations.ResetIsCanonical := by
  unfold Obligations.ResetIsCanonical
  exact ⟨wf_empty, wf_empty, wf_empty, wf_empty, wf_empty, wf_empty, wf_empty, wf_empty, List.Pairwise.nil⟩

end Sys2Proof.Proofs
end

section
/-! PROOFS. BAR4 accesses (07 R206, R217; 14 R402; 15 R434): what a read returns and a write within one page leaves, through the bytes of the
page's copy. -/
namespace Sys2Proof.Proofs
open Sys2Proof Sys2Proof.Machine Sys2Proof.Safety

/-! ### Bytes and lines of a physical page -/

@[simp] theorem tierMem_setTierBad (m : MemUnit) (k u : Nat) (x : NSet) : tierMem (setTierBad k x m) u = tierMem m u := by
  unfold setTierBad
  split
  · rfl
  · split <;> rfl

@[simp] theorem tierBad_setTierMem (m : MemUnit) (k u : Nat) (x : Memory) : tierBad (setTierMem k x m) u = tierBad m u := by
  unfold setTierMem
  split
  · rfl
  · split <;> rfl

@[simp] theorem tierMem_setTierMem_self (m : MemUnit) (k : Nat) (x : Memory) : tierMem (setTierMem k x m) k = x := by
  by_cases h0 : k = 0
  · simp [tierMem, setTierMem, h0]
  · by_cases h1 : k = 1 <;> simp [tierMem, setTierMem, h0, h1]

@[simp] theorem tierBad_setTierBad_self (m : MemUnit) (k : Nat) (x : NSet) : tierBad (setTierBad k x m) k = x := by
  by_cases h0 : k = 0
  · simp [tierBad, setTierBad, h0]
  · by_cases h1 : k = 1 <;> simp [tierBad, setTierBad, h0, h1]

theorem tierMem_setTierMem_ne {m : MemUnit} {k u : Nat} {x : Memory} (hk : k ≤ 2) (hu : u ≤ 2) (h : u ≠ k) : tierMem (setTierMem k x m) u = tierMem m u := by
  grind [tierMem, setTierMem]

theorem tierBad_setTierBad_ne {m : MemUnit} {k u : Nat} {x : NSet} (hk : k ≤ 2) (hu : u ≤ 2) (h : u ≠ k) : tierBad (setTierBad k x m) u = tierBad m u := by
  grind [tierBad, setTierBad]

theorem nhas_naddAll {l : List Nat} {n : Nat} (h : n ∈ l) : ∀ s : NSet, nhas (naddAll l s) n = true := by
  have hkeep : ∀ (l : List Nat) (s : NSet), nhas s n = true → nhas (naddAll l s) n = true := by
    intro l
    induction l with
    | nil => exact fun _ hs => hs
    | cons m l ih => exact fun s hs => ih _ (by rw [nhas_nadd, hs, Bool.true_or])
  induction l with
  | nil => cases h
  | cons m l ih =>
    intro s
    rcases List.mem_cons.mp h with rfl | hl
    · exact hkeep l _ (by simp [nhas_nadd])
    · exact ih hl _

/-- The bytes of a write at an offset of a physical page go to the tier's addresses from there. -/
theorem tierMem_writePhys_self (k phys off : Nat) {bs : List Byte} (poison : Bool) (m : MemUnit) (hbs : bs ≠ []) :
    tierMem (writePhys k phys off bs poison m) k = mwrite (tierMem m k) (phys * pageBytes + off) bs := by
  simp only [writePhys, List.isEmpty_iff, hbs, if_false]
  split <;> simp

/-- A write at a physical page leaves the other tiers alone. -/
theorem writePhys_otherTier {k u phys off : Nat} {bs : List Byte} {poison : Bool} {m : MemUnit} (hk : k ≤ 2) (hu : u ≤ 2) (hne : u ≠ k) :
    tierMem (writePhys k phys off bs poison m) u = tierMem m u ∧ tierBad (writePhys k phys off bs poison m) u = tierBad m u := by
  simp only [writePhys]
  split
  · exact ⟨rfl, rfl⟩
  · split <;> simp [tierMem_setTierMem_ne hk hu hne, tierBad_setTierBad_ne hk hu hne]

/-- A poisoned write marks every line that it touches. -/
theorem tierBad_writePhys_poison {k phys off l : Nat} {bs : List Byte} {m : MemUnit} (hbs : bs ≠ []) (hpage : off + bs.length ≤ pageBytes)
    (hfirst : off / 64 ≤ l) (hlast : l ≤ (off + bs.length - 1) / 64) : nhas (tierBad (writePhys k phys off bs true m) k) (phys * 1024 + l) = true := by
  have hlen : 0 < bs.length := List.length_pos_iff.mpr hbs
  have hl : l < 1024 := by simp only [pageBytes] at hpage; omega
  simp only [writePhys, List.isEmpty_iff, hbs, if_false, if_true, tierBad_setTierBad_self]
  exact nhas_naddAll (List.mem_map.mpr ⟨l, by simp [hl, hfirst, hlast], rfl⟩) _

/-! ### The parts of an access -/

theorem rangeParts_onePage {a n : Nat} (hn : 0 < n) (hpage : a % pageBytes + n ≤ pageBytes) : rangeParts a n = [(a, n)] := by
  have hmin : min n (pageBytes - a % pageBytes) = n := by omega
  simp [rangeParts, pageParts, hmin, Nat.ne_of_gt hn]

theorem readRange_eq (s : State) (p : Nat) (q : Option Nat) (a n : Nat) : readRange s p q a n =
    ((rangeParts a n).flatMap (fun x => (readPart s p q x.1 x.2).1), (rangeParts a n).any fun x => (readPart s p q x.1 x.2).2) := by
  have hfold : ∀ (l : List (Nat × Nat)) (acc : List Byte × Bool),
      l.foldl (fun acc x => let y := readPart s p q x.1 x.2; (acc.1 ++ y.1, acc.2 || y.2)) acc =
        (acc.1 ++ l.flatMap (fun x => (readPart s p q x.1 x.2).1), acc.2 || l.any fun x => (readPart s p q x.1 x.2).2) := by
    intro l
    induction l with
    | nil => simp
    | cons x l ih => simp [ih, List.append_assoc, Bool.or_assoc]
  rw [readRange, hfold, List.nil_append, Bool.false_or]

theorem bar4Part_mapped {s : State} {p a n : Nat} (h : (objAt s p a).isSome = true) :
    bar4Part s p a n = ((readPart s p none a n).1, (readPart s p none a n).2, false) := by
  obtain ⟨y, hy⟩ := Option.isSome_iff_exists.mp h
  simp only [bar4Part, hy]

theorem modPMem_changes (p : Nat) (g : PMem → PMem) (s : State) :
    modPMem p g s = { s with ptns := (modPMem p g s).ptns } ∧ OtherPtns p s (modPMem p g s) ∧
      getPtn (modPMem p g s) p = { getPtn s p with mem := g (getPtn s p).mem } :=
  ⟨rfl, fun _ hq => getPtn_modPtn_ne s _ hq, getPtn_modPtn_self s ..⟩

/-- What a BAR4 read does to its partition: the flags of what it met. -/
def bar4Flags (ep um : Bool) (m : PMem) : PMem := { m with bar4Poison := m.bar4Poison || ep, bar4Unmapped := m.bar4Unmapped || um }

theorem bar4Flags_none (m : PMem) : bar4Flags false false m = m := by simp [bar4Flags]

/-- The flags of a BAR4 read are its partition's; without any the partition stays as it is. -/
theorem bar4Flags_frame (p : Nat) (bs : List Byte) (ep um : Bool) (s : State) :
    let t := readOut bs ep (if ep || um then modPMem p (bar4Flags ep um) s else s)
    t = { s with ptns := t.ptns, out := t.out } ∧ t.out = { s.out with read := bs, readEp := ep } ∧ OtherPtns p s t ∧
      getPtn t p = { getPtn s p with mem := bar4Flags ep um (getPtn s p).mem } := by
  split
  · obtain ⟨-, hothers, hown⟩ := modPMem_changes p (bar4Flags ep um) s
    exact ⟨rfl, rfl, hothers, hown⟩
  · rename_i hnone
    simp only [Bool.or_eq_true, not_or, Bool.not_eq_true] at hnone
    obtain ⟨rfl, rfl⟩ := hnone
    exact ⟨rfl, rfl, fun _ _ => rfl, by rw [bar4Flags_none]; rfl⟩

theorem bar4ReadGo_eq (a n p : Nat) (s : State) : bar4ReadGo a n p s =
    let xs := (rangeParts a n).map fun x => bar4Part s p x.1 x.2
    let ep := xs.any fun x => x.2.1
    let um := xs.any fun x => x.2.2
    readOut (xs.flatMap fun x => x.1) ep (if ep || um then modPMem p (bar4Flags ep um) s else s) := rfl

/-- The parts of a mapped range read as the range. -/
theorem bar4ReadGo_mapped {s : State} {p a n : Nat} (h : rangeMapped s p a n = true) : bar4ReadGo a n p s =
    readOut (readRange s p none a n).1 (readRange s p none a n).2
      (if (readRange s p none a n).2 || false then modPMem p (bar4Flags (readRange s p none a n).2 false) s else s) := by
  have hparts : (rangeParts a n).map (fun x => bar4Part s p x.1 x.2) =
      (rangeParts a n).map fun x => ((readPart s p none x.1 x.2).1, (readPart s p none x.1 x.2).2, false) :=
    List.map_congr_left fun x hx => bar4Part_mapped (List.all_eq_true.mp h x hx)
  have hnone : ((rangeParts a n).any fun _ => false) = false := List.any_eq_false.mpr fun _ _ => Bool.false_ne_true
  simp only [bar4ReadGo_eq, hparts, readRange_eq, List.flatMap_map, List.any_map, Function.comp_def, hnone]

theorem bar4ReadGo_unmapped {s : State} {p a n : Nat} (hn : 0 < n) (hpage : a % pageBytes + n ≤ pageBytes) (h : objAt s p a = none) :
    bar4ReadGo a n p s = readOut (List.replicate n 0) false (if false || true then modPMem p (bar4Flags false true) s else s) := by
  have hpart : bar4Part s p a n = (List.replicate n 0, false, true) := by simp only [bar4Part, h]
  simp only [bar4ReadGo_eq, rangeParts_onePage hn hpage, List.map_cons, List.map_nil, hpart, List.any_cons, List.any_nil, List.flatMap_cons, List.flatMap_nil,
    List.append_nil, Bool.or_false]

/-- What a BAR4 write does with one page's part. -/
def bar4WritePart (a : Nat) (bs : List Byte) (ep : Bool) (p : Nat) (s : State) (x : Nat × Nat) : State :=
  match objAt s p x.1 with
  | none => modPMem p (fun m => { m with bar4Unmapped := true }) s
  | some (_, o) =>
    if pageRO s p o x.1 then modPMem p (fun m => { m with bar4Ro := true }) s
    else writePart p x.1 ((bs.drop (x.1 - a)).take x.2) ep s

theorem writePart_fns (p a : Nat) (bs : List Byte) (ep : Bool) (s : State) (fns : Tbl Fn) :
    writePart p a bs ep { s with fns := fns } = { writePart p a bs ep s with fns := fns } := by
  unfold writePart
  rw [show objAt { s with fns := fns } p a = objAt s p a from rfl]
  cases objAt s p a <;> rfl

theorem bar4WritePart_fns (a : Nat) (bs : List Byte) (ep : Bool) (p : Nat) (s : State) (fns : Tbl Fn) (x : Nat × Nat) :
    bar4WritePart a bs ep p { s with fns := fns } x = { bar4WritePart a bs ep p s x with fns := fns } := by
  unfold bar4WritePart
  rw [show objAt { s with fns := fns } p x.1 = objAt s p x.1 from rfl]
  cases objAt s p x.1 with
  | none => rfl
  | some e =>
    show (if pageRO s p e.2 x.1 = true then _ else _) = _
    by_cases hro : pageRO s p e.2 x.1 = true
    · simp only [hro, if_true]
      rfl
    · simp only [hro, writePart_fns]
      rfl

/-- A write within one page writes that page's part, or sets the flag that says why it did not. -/
theorem bar4WriteGo_onePage {s : State} {p a : Nat} {bs : List Byte} {ep : Bool} (hbs : bs ≠ []) (hpage : a % pageBytes + bs.length ≤ pageBytes) :
    bar4WriteGo a bs ep p s = match objAt s p a with
      | none => modPMem p (fun m => { m with bar4Unmapped := true }) s
      | some (_, x) => if pageRO s p x a then modPMem p (fun m => { m with bar4Ro := true }) s else writePart p a bs ep s := by
  simp only [bar4WriteGo, rangeParts_onePage (List.length_pos_iff.mpr hbs) hpage, List.foldl_cons, List.foldl_nil, Nat.sub_self, List.drop_zero,
    List.take_length] <;> rfl

/-! ### Served accesses -/

section
variable {s : State} {fn : FnId} {p a : Nat} (hopen : barOpen s fn.val = true)
include hopen

theorem exec_bar4Read {n : Nat} (hready : isReady s = true) (hptn : bar4Ptn s fn.val = some p) : exec (.bar4Read fn a n) s = .next (bar4ReadGo a n p s) := by
  show Host.Outcome.next (bar4Access fn.val a (bar4ReadGo a n) (readOut (List.replicate n 0) false) s) = _
  simp [bar4Access, hopen, hready, hptn]

theorem exec_bar4Write {bs : List Byte} {ep : Bool} (hready : isReady s = true) (hptn : bar4Ptn s fn.val = some p) :
    exec (.bar4Write fn a bs ep) s = .next (bar4WriteGo a bs ep p (logPoisoned fn.val ep s)) := by
  show Host.Outcome.next (bar4Access fn.val a (fun p s => bar4WriteGo a bs ep p (logPoisoned fn.val ep s)) id s) = _
  simp [bar4Access, hopen, hready, hptn]

end

theorem logPoisoned_frame (fn : Nat) (ep : Bool) (s : State) : logPoisoned fn ep s = { s with fns := (logPoisoned fn ep s).fns } := by
  unfold logPoisoned; split <;> rfl

theorem logPoisoned_logs (fn : Nat) (ep : Bool) (s : State) : LogsPoison fn ep s (logPoisoned fn ep s) := by
  cases ep with
  | false => exact ⟨fun _ _ => rfl, by simp [logPoisoned]⟩
  | true => exact ⟨fun g hg => getFn_modFn_ne s _ hg, by simp [logPoisoned]⟩

theorem logsPoison_of_fns {f : Nat} {ep : Bool} {s t u : State} (h : LogsPoison f ep s t) (hu : u.fns = t.fns) : LogsPoison f ep s u := by
  unfold LogsPoison getFn
  rw [hu]
  exact h

/-- A write of one copy of a page: its bytes and its poisoned lines lie in that copy, and no other tier changes. -/
theorem writePart_onlyCopy {s : State} {p a o k phys : Nat} {x : Obj} {bs : List Byte} {ep : Bool} (hobj : objAt s p a = some (o, x))
    (hzero : (getPage s p (pageKey o ((a - x.base) / pageBytes))).zero = false)
    (hcopy : allCopies s p (getPage s p (pageKey o ((a - x.base) / pageBytes))) = [(k, phys)]) :
    (writePart p a bs ep s).mem = writePhys k phys (a % pageBytes) bs ep s.mem := by
  simp only [writePart, hobj, hzero, hcopy, Bool.false_eq_true, if_false, List.foldl_cons, List.foldl_nil]
  rfl

/-- A write does not look at the functions: logging the poison commutes with it. -/
theorem bar4WriteGo_logged (a : Nat) (bs : List Byte) (ep : Bool) (p fn : Nat) (s : State) :
    bar4WriteGo a bs ep p (logPoisoned fn ep s) = { bar4WriteGo a bs ep p s with fns := (logPoisoned fn ep s).fns } := by
  have hfold : ∀ (l : List (Nat × Nat)) (s : State) (fns : Tbl Fn), l.foldl (bar4WritePart a bs ep p) { s with fns := fns } =
      { l.foldl (bar4WritePart a bs ep p) s with fns := fns } := by
    intro l
    induction l with
    | nil => exact fun _ _ => rfl
    | cons x l ih => exact fun s fns => by rw [List.foldl_cons, bar4WritePart_fns, ih, List.foldl_cons]
  have hframe := logPoisoned_frame fn ep s
  generalize logPoisoned fn ep s = u at hframe ⊢
  rw [hframe]
  exact hfold _ s u.fns

/-- Settles O15: reads and writes of BAR4, case by case of what lies at the address. -/
theorem bar4AccessesReachTheObjectsBytes : Obligations.Bar4AccessesReachTheObjectsBytes := by
  unfold Obligations.Bar4AccessesReachTheObjectsBytes
  refine ⟨⟨?mapped, ?unmapped, ?early, ?unbound⟩, ?stored, ?readOnly, ?missed⟩
  case mapped =>
    intro fn a n p s hopen hready hptn hmapped
    refine ⟨_, exec_bar4Read hopen hready hptn, ?_⟩
    rw [bar4ReadGo_mapped hmapped]
    have hflags := bar4Flags_frame p (readRange s p none a n).1 (readRange s p none a n).2 false s
    simp only [bar4Flags, Bool.or_false] at hflags ⊢
    exact hflags
  case unmapped =>
    intro fn a n p s hopen hready hptn hn hpage hobj
    refine ⟨_, exec_bar4Read hopen hready hptn, ?_⟩
    rw [bar4ReadGo_unmapped hn hpage hobj]
    have hflags := bar4Flags_frame p (List.replicate n 0) false true s
    simp only [bar4Flags, Bool.or_false, Bool.or_true] at hflags ⊢
    exact hflags
  case early =>
    intro fn a n s hopen hready
    have hflag : getFn (flagUnmapped fn.val s) fn.val = { getFn s fn.val with unmapped := true } := getFn_modFn_self s ..
    refine ⟨readOut (List.replicate n 0) false (flagUnmapped fn.val s), ?_, rfl, hflag⟩
    show Host.Outcome.next (bar4Access fn.val a (bar4ReadGo a n) (readOut (List.replicate n 0) false) s) = _
    simp [bar4Access, hopen, hready]
  case unbound =>
    intro fn a n s hopen hready hptn
    refine ⟨readOut (List.replicate n 0) false (vfAccess fn.val a s), ?_, rfl⟩
    show Host.Outcome.next (bar4Access fn.val a (bar4ReadGo a n) (readOut (List.replicate n 0) false) s) = _
    simp [bar4Access, hopen, hready, hptn]
  case stored =>
    intro fn a bs ep p o k phys x s hopen hready hptn hbs hpage hobj hro hzero hk hcopy
    refine ⟨_, exec_bar4Write hopen hready hptn, ?_⟩
    rw [bar4WriteGo_logged, bar4WriteGo_onePage hbs hpage, hobj]
    simp only [hro, Bool.false_eq_true, if_false]
    have hmem : ({ writePart p a bs ep s with fns := (logPoisoned fn.val ep s).fns } : State).mem = writePhys k phys (a % pageBytes) bs ep s.mem :=
      writePart_onlyCopy hobj hzero hcopy
    obtain ⟨hframe, hothers, -⟩ := rangeWritten_writePart p a bs ep s
    refine ⟨?_, hothers, logsPoison_of_fns (logPoisoned_logs fn.val ep s) rfl, ?_, ?_, ?_, ?_⟩
    · conv_lhs => rw [hframe]
    · intro j b hb
      obtain ⟨hj, rfl⟩ := List.getElem?_eq_some_iff.mp hb
      rw [hmem, tierMem_writePhys_self _ _ _ _ _ hbs, mget_mwrite_inside _ _ _ _ hj]
    · intro c hc
      rw [hmem, tierMem_writePhys_self _ _ _ _ _ hbs, mget_mwrite_outside _ _ _ _ hc]
    · intro u hu hne
      rw [hmem]
      exact writePhys_otherTier hk hu hne
    · rintro rfl l hfirst hlast
      rw [hmem]
      exact tierBad_writePhys_poison hbs hpage hfirst hlast
  case readOnly =>
    intro fn a bs ep p o x s hopen hready hptn hbs hpage hobj hro
    refine ⟨_, exec_bar4Write hopen hready hptn, ?_⟩
    rw [bar4WriteGo_logged, bar4WriteGo_onePage hbs hpage, hobj]
    simp only [hro, if_true]
    obtain ⟨-, hothers, hown⟩ := modPMem_changes p (fun m => { m with bar4Ro := true }) s
    exact ⟨rfl, hothers, logsPoison_of_fns (logPoisoned_logs fn.val ep s) rfl, hown⟩
  case missed =>
    intro fn a bs ep p s hopen hready hptn hbs hpage hobj
    refine ⟨_, exec_bar4Write hopen hready hptn, ?_⟩
    rw [bar4WriteGo_logged, bar4WriteGo_onePage hbs hpage, hobj]
    obtain ⟨-, hothers, hown⟩ := modPMem_changes p (fun m => { m with bar4Unmapped := true }) s
    exact ⟨rfl, hothers, logsPoison_of_fns (logPoisoned_logs fn.val ep s) rfl, hown⟩

end Sys2Proof.Proofs
end

section
/-! PROOFS. What the work on pages and shards leaves as it was (07 R203-R206, R213, R224-R229): copies placed, moved, dropped and rewritten change
physical pages and the page map only, and a judged shard changes its own state beside its record. -/
namespace Sys2Proof.Proofs
open Sys2Proof Sys2Proof.Machine Sys2Proof.Safety

/-! ### Physical pages -/

/-- Between two memory units only bytes, poison marks and the use of physical pages differ, and what retained objects hold. -/
def PhysOnly (m n : MemUnit) : Prop :=
  n = { m with t0 := n.t0, t1 := n.t1, t2 := n.t2, bad0 := n.bad0, bad1 := n.bad1, bad2 := n.bad2, used0 := n.used0, used1 := n.used1, used2 := n.used2,
               retained := n.retained }

namespace PhysOnly

theorem refl (m : MemUnit) : PhysOnly m m := rfl

theorem trans {l m n : MemUnit} (h : PhysOnly l m) (k : PhysOnly m n) : PhysOnly l n := by
  rw [PhysOnly, k, h]

theorem retired {m n : MemUnit} (h : PhysOnly m n) (t : Nat) : tierRetired n t = tierRetired m t := by rw [h]; rfl

section
variable {l m : MemUnit} (h : PhysOnly l m)
include h

theorem setTierMem {t : Nat} {x : Memory} : PhysOnly l (Machine.setTierMem t x m) := h.trans (by
  unfold Machine.setTierMem
  split
  · rfl
  · split <;> rfl)

theorem setTierBad {t : Nat} {x : NSet} : PhysOnly l (Machine.setTierBad t x m) := h.trans (by
  unfold Machine.setTierBad
  split
  · rfl
  · split <;> rfl)

theorem setTierUsed {t : Nat} {x : NSet} : PhysOnly l (Machine.setTierUsed t x m) := h.trans (by
  unfold Machine.setTierUsed
  split
  · rfl
  · split <;> rfl)

theorem clearPhys {t phys : Nat} : PhysOnly l (Machine.clearPhys t phys m) := h.setTierMem.setTierBad

theorem writePhys {t phys off : Nat} {bs : List Byte} {poison : Bool} : PhysOnly l (Machine.writePhys t phys off bs poison m) := by
  simp only [Machine.writePhys]
  split
  · exact h
  · split
    · exact h.setTierMem.setTierBad
    · exact h.setTierMem.setTierBad

theorem copyPhys {t phys t' phys' : Nat} : PhysOnly l (Machine.copyPhys t phys t' phys' m) := h.clearPhys.setTierMem.setTierBad

theorem releasePhys {t phys : Nat} : PhysOnly l (Machine.releasePhys t phys m) := h.setTierUsed.clearPhys

theorem foldl {α : Type} {f : MemUnit → α → MemUnit} {xs : List α} (hf : ∀ {n a}, PhysOnly l n → PhysOnly l (f n a)) : PhysOnly l (xs.foldl f m) :=
  List.foldlRecOn xs f h fun _ hn _ _ => hf hn

theorem ite {c : Prop} [Decidable c] {n : MemUnit} (hn : PhysOnly l n) : PhysOnly l (if c then m else n) := by
  split
  · exact h
  · exact hn

end

end PhysOnly

/-! ### The page map -/

/-- Only physical pages and the page map of partition `p` changed, and free choices were drawn. -/
structure Repaged (p : Nat) (s t : State) : Prop where
  frame  : t = { s with ptns := t.ptns, mem := t.mem, free := t.free }
  others : OtherPtns p s t
  own    : getPtn t p = { getPtn s p with mem := { (getPtn s p).mem with pages := (getPtn t p).mem.pages } }
  phys   : PhysOnly s.mem t.mem

namespace Repaged

theorem refl (p : Nat) (s : State) : Repaged p s s := ⟨rfl, fun _ _ => rfl, rfl, .refl _⟩

theorem trans {p : Nat} {s t u : State} (h : Repaged p s t) (k : Repaged p t u) : Repaged p s u :=
  ⟨by rw [k.frame, h.frame], fun q hq => (k.others q hq).trans (h.others q hq), by rw [k.own, h.own], h.phys.trans k.phys⟩

section
variable {p : Nat} {s t u : State} (h : Repaged p s t)
include h

theorem getPtn_eq (q : Nat) : getPtn t q = { getPtn s q with mem := { (getPtn s q).mem with pages := (getPtn t q).mem.pages } } := by
  by_cases hq : q = p
  · rw [hq]; exact h.own
  · rw [h.others q hq]

theorem getObj (q o : Nat) : Machine.getObj t q o = Machine.getObj s q o := by rw [Machine.getObj, h.getPtn_eq]; rfl

theorem getShard (q o i : Nat) : Machine.getShard t q o i = Machine.getShard s q o i := by rw [Machine.getShard, h.getObj]; rfl

theorem qtrsOf (q : Nat) : Machine.qtrsOf t q = Machine.qtrsOf s q := by rw [Machine.qtrsOf, h.getPtn_eq]; rfl

theorem mirrorFree (hs : MirrorFree s) : MirrorFree t := fun q c => by rw [h.getPtn_eq]; exact hs q c

theorem rings : t.rings = s.rings := by rw [h.frame]

theorem dies : t.dies = s.dies := by rw [h.frame]

theorem flt : t.flt = s.flt := by rw [h.frame]

theorem evc : t.evc = s.evc := by rw [h.frame]

theorem ite {c : Prop} [Decidable c] (hu : Repaged p s u) : Repaged p s (if c then t else u) := by
  split
  · exact h
  · exact hu

theorem foldl {α : Type} {f : State → α → State} {l : List α} (hf : ∀ {u a}, Repaged p s u → Repaged p s (f u a)) : Repaged p s (l.foldl f t) :=
  List.foldlRecOn l f h fun _ hu _ _ => hf hu

theorem modPage {key : Nat} {g : PageEnt → PageEnt} : Repaged p s (Machine.modPage p key g t) :=
  h.trans ⟨rfl, fun _ hq => getPtn_modPtn_ne t _ hq, by rw [Machine.modPage, modPMem_eq, getPtn_modPtn_self], .refl _⟩

theorem modMem {g : MemUnit → MemUnit} (hg : PhysOnly t.mem (g t.mem)) : Repaged p s (Machine.modMem g t) :=
  h.trans ⟨rfl, fun _ _ => rfl, rfl, hg⟩

theorem drawn {n : Nat} : Repaged p s { t with free := n } := h.trans ⟨rfl, fun _ _ => rfl, rfl, .refl _⟩

theorem takePage {tier unit : Nat} : Repaged p s (Machine.takePage tier unit t).2 := h.drawn.modMem (PhysOnly.refl _).setTierUsed

theorem takeRepl {q : Nat} : Repaged p s (Machine.takeRepl q t).2 := h.drawn.modMem (PhysOnly.refl _).setTierUsed

theorem addCopy {o tier mode place k : Nat} : Repaged p s (Machine.addCopy p o tier mode place k t) := h.takeRepl.modPage.ite h.takePage.modPage

theorem dropCopies {key tier : Nat} : Repaged p s (Machine.dropCopies p key tier t) :=
  (h.modMem (PhysOnly.foldl (.refl _) fun m => m.releasePhys)).modPage

theorem freePage {key : Nat} : Repaged p s (Machine.freePage p key t) := (h.modMem (PhysOnly.foldl (.refl _) fun m => m.releasePhys)).modPage

theorem writePart {a : Nat} {bs : List Byte} {poison : Bool} : Repaged p s (Machine.writePart p a bs poison t) := by
  unfold Machine.writePart
  split
  · exact h
  · extract_lets key e cs m m'
    have hm : PhysOnly t.mem m' := PhysOnly.foldl (((PhysOnly.refl _).foldl fun m => m.clearPhys).ite (.refl _)) fun m => m.writePhys
    exact (h.modMem (g := fun _ => m') hm).modPage

theorem moveCopy {key tier phys new : Nat} : Repaged p s (Machine.moveCopy p key tier phys new t) :=
  (h.modMem (PhysOnly.refl _).setTierUsed.copyPhys.releasePhys).modPage

theorem replacePage {key tier phys : Nat} : Repaged p s (Machine.replacePage p key tier phys t) := by
  unfold Machine.replacePage
  extract_lets e o k others last busy
  have hlast : Repaged p s (last t) := by
    simp -zeta only [last]
    split
    · exact h.dropCopies
    · split
      · exact h
      · extract_lets u v
        have hv : Repaged p s v := (h.modPage.ite h).addCopy
        split
        · rename_i n _
          extract_lets w
          have hw : Repaged p s w := hv.modMem (PhysOnly.refl _).copyPhys
          exact (hw.modMem (PhysOnly.refl _).releasePhys).ite hw.dropCopies
        · exact h
  split
  · split
    · split
      rename_i i u htake
      have hu : Repaged p s u := by
        have hr := h.takeRepl (q := p)
        rw [htake] at hr
        exact hr
      extract_lets v w
      have hv : Repaged p s v := hu.modMem (PhysOnly.foldl (.refl _) fun m => m.copyPhys)
      have hw : Repaged p s w := hv.modMem (PhysOnly.foldl (.refl _) fun m => m.releasePhys)
      exact hw.modPage
    · exact hlast
  · split
    · exact h.moveCopy
    · split
      · exact h.takePage.moveCopy
      · exact hlast

theorem replaceRetained {phys : Nat} : Repaged p s (Machine.replaceRetained phys t) := by
  unfold Machine.replaceRetained
  extract_lets move
  have hmove {n : Nat} {u : State} (hu : Repaged p s u) : Repaged p s (move n u) :=
    hu.modMem (PhysOnly.releasePhys (PhysOnly.copyPhys (by exact rfl)))
  split
  · exact hmove h
  · exact h.ite (hmove h.takePage)

theorem rebuild {good bad : List (Nat × Option (Nat × Nat) × Bool)} : Repaged p s (Machine.rebuild good bad t) := h.foldl fun h => by
  split
  · exact (h.modMem (PhysOnly.refl _).copyPhys).ite h
  · exact h

theorem writeShard {o : Nat} {shard : Shard} {data : List DmaLine} : Repaged p s (Machine.writeShard p o shard data t) := by
  unfold Machine.writeShard
  extract_lets x u
  have hu : Repaged p s u := h.foldl fun h =>
    (((h.ite h.addCopy).foldl fun h => h.ite h.dropCopies).modMem (PhysOnly.foldl (.refl _) fun m => m.clearPhys)).modPage
  exact hu.foldl fun h => h.writePart.ite h

end

end Repaged

/-! ### Faults that are only logged (11 R329, R332) -/

/-- Recording a fault changes its logs, and signals. -/
theorem recordFault_logged (r : FaultRec) (s : State) : ∃ ns, Signalled ns (logged r s) (recordFault r s) := by
  have hpulse (n : Nat) (s : State) : ∃ ns, Signalled ns s (pulse n s) := by
    cases h : isListed n with
    | true => exact ⟨[n], pulse_signalled n s h⟩
    | false => exact ⟨[], by simp only [pulse, setPend, h, Bool.false_and, Bool.false_eq_true, if_false]; exact Signalled.refl s⟩
  unfold recordFault logged
  cases r.ptn with
  | none => exact hpulse ..
  | some p =>
    by_cases hcode : r.code = 0x0506
    · simp only [hcode, beq_self_eq_true, if_true]
      exact hpulse ..
    · simp only [beq_iff_eq, hcode, if_false]
      exact hpulse ..

/-- A logged fault leaves the rings, the movers, the tiers and the objects as they were. -/
structure OnlyLogged (s t : State) : Prop where
  rings : t.rings = s.rings
  dies  : t.dies = s.dies
  mem   : t.mem = s.mem
  ptn   : ∀ p, getPtn t p = { getPtn s p with flt := (getPtn t p).flt }

theorem onlyLogged_logged (r : FaultRec) (s : State) : OnlyLogged s (logged r s) := by
  unfold logged
  split
  · split
    · exact ⟨rfl, rfl, rfl, fun _ => rfl⟩
    · refine ⟨rfl, rfl, rfl, fun q => ?_⟩
      simp only [logPtn, modPFlt_eq, getPtn_modPtn]
      split
      · next hq => rw [hq]; rfl
      · rfl
  · exact ⟨rfl, rfl, rfl, fun _ => rfl⟩

/-- A fault with the action LOG, of no partition or outside mirror runs, is logged and does nothing more. -/
theorem onlyLogged_raise {r : FaultRec} {s : State} (haction : r.action = 0) (hmirror : r.ptn = none ∨ MirrorFree s) : OnlyLogged s (raise r s) := by
  have hraise : raise r s = recordFault r s := by
    simp only [raise, raisePlain, takeAction, haction]
    rcases hmirror with hnone | hfree
    · rw [hnone]
    · cases r.ptn with
      | none => rfl
      | some p =>
        have hm : mirroring (getPtn s p) = false := by
          unfold mirroring
          split
          · next c h => exact absurd h (hfree p c)
          · exact Bool.and_false _
        simp [hm]
  obtain ⟨ns, hsig⟩ := recordFault_logged r s
  obtain ⟨hptns, -, hrings, -, hdies, hmem, -⟩ := hsig.units
  have hlog := onlyLogged_logged r s
  rw [hraise]
  exact ⟨hrings.trans hlog.rings, hdies.trans hlog.dies, hmem.trans hlog.mem, fun p => by rw [getPtn_eq_of_ptns hptns]; exact hlog.ptn p⟩

/-! ### Judged shards (07 R224, R226, R230) -/

theorem getElem?_range_zip {α : Type} (l : List α) (i : Nat) : ((List.range l.length).zip l)[i]? = l[i]?.map fun x => (i, x) := by
  by_cases hi : i < l.length <;> simp [hi]

theorem getShard_modShard_self (p o i : Nat) (g : Shard → Shard) (s : State) : getShard (modShard p o i g s) p o i = (getShard s p o i).map g := by
  simp only [getShard, modShard, getObj, modObj, modPMem_eq, getPtn_modPtn_self, tget_tmod, if_true, List.getElem?_map, getElem?_range_zip]
  cases (tget {} (getPtn s p).mem.objs o).shards[i]? <;> simp

/-- A shard is judged with a result; the rings, the movers and the counts of memory are as before. -/
structure Judged (p o i : Nat) (st : ShardSt) (s t : State) : Prop where
  shard : (getShard t p o i).map (fun h => h.st) = some st
  rings : t.rings = s.rings
  dies  : t.dies = s.dies
  phys  : PhysOnly s.mem t.mem

/-- The state in which a shard without a passing copy is FAILED and counted. -/
def failedShard (p o i : Nat) (h : Shard) (s : State) : State :=
  let t := modShard p o i (fun h => { h with st := .failed }) s
  if h.st = .failed then t else modPMem p (fun m => { m with digestFail := satAdd 32 m.digestFail 1 }) t

/-- The record of DIGEST_MISMATCH. -/
def mismatchRec (o i : Nat) (ctx : Option Nat) (s : State) : FaultRec :=
  let r := (faultRec s 0x0404 o i).withDie (i % 8)
  match ctx with
  | some c => { r.withCtx s c with scope := 3 }
  | none => { r with scope := 0 }

section
variable {p o i : Nat} {h : Shard} {ctx : Option Nat} {s : State} (hget : getShard s p o i = some h)
include hget

theorem judgeShard_passes {good : List (Nat × Option (Nat × Nat) × Bool)} (hgood : (shardCopies s p o h).find? (copyPasses s p o h) = some good) :
    judgeShard p o i ctx s = (modShard p o i (fun h => { h with st := .verified })
      (((shardCopies s p o h).filter fun c => !copyPasses s p o h c).foldl (fun s c => rebuild good c s) s), true) := by
  simp only [judgeShard, hget, hgood]

theorem judgeShard_fails (hnone : (shardCopies s p o h).find? (copyPasses s p o h) = none) :
    judgeShard p o i ctx s = (raise (mismatchRec o i ctx s) (failedShard p o i h s), false) := by
  simp only [judgeShard, hget, hnone]
  rfl

theorem failedShard_fails : (getShard (failedShard p o i h s) p o i).map (fun h => h.st) = some .failed := by
  have hmod : (getShard (modShard p o i (fun h => { h with st := .failed }) s) p o i).map (fun h => h.st) = some .failed := by
    rw [getShard_modShard_self, hget]; rfl
  unfold failedShard
  split
  · exact hmod
  · rw [← hmod]
    simp only [getShard, getObj, modPMem_eq, getPtn_modPtn_self]

end

theorem failedShard_keeps (p o i : Nat) (h : Shard) (s : State) : (failedShard p o i h s).rings = s.rings ∧ (failedShard p o i h s).dies = s.dies ∧
    (failedShard p o i h s).mem = s.mem ∧ ∀ q, (getPtn (failedShard p o i h s) q).reset = (getPtn s q).reset := by
  have hreset (g : PMem → PMem) (u : State) (q : Nat) : (getPtn (modPMem p g u) q).reset = (getPtn u q).reset := by
    rw [modPMem_eq, getPtn_modPtn]
    split
    · next hq => rw [hq]
    · rfl
  unfold failedShard
  split
  · exact ⟨rfl, rfl, rfl, hreset _ s⟩
  · exact ⟨rfl, rfl, rfl, fun q => (hreset _ _ q).trans (hreset _ s q)⟩

theorem OnlyLogged.getObj {s t : State} (h : OnlyLogged s t) (p o : Nat) : Machine.getObj t p o = Machine.getObj s p o := by
  rw [Machine.getObj, h.ptn]; rfl

/-- A shard with a passing copy is VERIFIED, any other FAILED, also when that is logged. -/
theorem judged_judgeShard {p o i : Nat} {h : Shard} {ctx : Option Nat} {s : State} (hlog : policyOf s 0x0404 = 0) (hctx : ctx = none ∨ MirrorFree s)
    (hget : getShard s p o i = some h) :
    (judgeShard p o i ctx s).2 = (shardCopies s p o h).any (copyPasses s p o h) ∧
      Judged p o i (if (judgeShard p o i ctx s).2 then .verified else .failed) s (judgeShard p o i ctx s).1 := by
  cases hfind : (shardCopies s p o h).find? (copyPasses s p o h) with
  | some good =>
    have hany : (shardCopies s p o h).any (copyPasses s p o h) = true := List.any_eq_true.mpr ⟨good, List.mem_of_find?_eq_some hfind, List.find?_some hfind⟩
    have hbuilt : Repaged p s (((shardCopies s p o h).filter fun c => !copyPasses s p o h c).foldl (fun s c => rebuild good c s) s) :=
      (Repaged.refl p s).foldl fun h => h.rebuild
    rw [judgeShard_passes hget hfind]
    refine ⟨hany.symm, ?_, hbuilt.rings, hbuilt.dies, hbuilt.phys⟩
    rw [getShard_modShard_self, hbuilt.getShard, hget]
    rfl
  | none =>
    have hany : (shardCopies s p o h).any (copyPasses s p o h) = false :=
      List.any_eq_false.mpr fun c hc => List.find?_eq_none.mp hfind c hc
    obtain ⟨hrings, hdies, hmem, hreset⟩ := failedShard_keeps p o i h s
    have hfault : OnlyLogged (failedShard p o i h s) (raise (mismatchRec o i ctx s) (failedShard p o i h s)) := by
      refine onlyLogged_raise ?_ ?_
      · cases ctx <;> exact hlog
      · rcases hctx with rfl | hfree
        · exact .inl rfl
        · exact .inr fun q c => by rw [hreset]; exact hfree q c
    rw [judgeShard_fails hget hfind]
    refine ⟨hany.symm, ?_, hfault.rings.trans hrings, hfault.dies.trans hdies, ?_⟩
    · rw [getShard, hfault.getObj]
      exact failedShard_fails hget
    · rw [hfault.mem, hmem]
      exact .refl _

end Sys2Proof.Proofs
end

section
/-! PROOFS. Scrub passes and memory errors (07 R226, R227, R229, R232). -/
namespace Sys2Proof.Proofs
open Sys2Proof Sys2Proof.Machine Sys2Proof.Safety

/-! ### Scrub passes -/

section
variable {s : State} (hready : isReady s = true)
include hready

theorem exec_scrubPassStart : exec .scrubPassStart s = .next (scrubStart s) := by
  show Host.Outcome.next (if isReady s then scrubStart s else s) = _
  rw [if_pos hready]

theorem exec_scrubShardDone (p : PtnId) (o : ObjId) (i : Nat) : exec (.scrubShardDone p o i) s = .next (scrubShard p.val o.val i s) := by
  show Host.Outcome.next (if isReady s then scrubShard p.val o.val i s else s) = _
  rw [if_pos hready]

end

/-- A pass begins with the given shards. -/
def passBegun (es : List (Nat × Nat × Nat)) (m : MemUnit) : MemUnit := { m with scrubOn := true, scrubLeft := es }

/-- The tiers' unit when a pass has ended and none is due. -/
def passOver (m : MemUnit) : MemUnit := { m with scrubPasses := satAdd 32 m.scrubPasses 1, scrubOn := false, scrubDue := false, scrubLeft := [] }

theorem scrubEnd_ends {s : State} (hon : s.mem.scrubOn = true) (hleft : s.mem.scrubLeft = []) (hdue : s.mem.scrubDue = false) :
    scrubEnd s = pulse srcScrubPassDone (modMem passOver s) := by
  simp only [scrubEnd, hon, hleft, hdue, List.isEmpty_nil, Bool.and_self, if_true, Bool.false_and, Bool.false_eq_true, if_false]
  rfl

theorem scrubEnd_goesOn {s : State} (hleft : s.mem.scrubLeft ≠ []) : scrubEnd s = s := by
  simp [scrubEnd, hleft]

section
variable {s : State} (hint : s.mem.scrubInt ≠ 0) (hrate : s.mem.scrubRate ≠ 0)
include hint hrate

theorem scrubStart_starts (hoff : s.mem.scrubOn = false) :
    scrubStart s = scrubEnd (modMem (passBegun (verifiedShards s)) s) := by
  simp only [scrubStart, hint, hrate, hoff, or_self, if_false, Bool.false_eq_true]
  rfl

theorem scrubStart_late (hon : s.mem.scrubOn = true) :
    scrubStart s = pulse srcScrubLate (modMem (fun m => { m with scrubLate := true, scrubDue := true }) s) := by
  simp [scrubStart, hint, hrate, hon]

end

/-- A shard leaves the pass. -/
def leavesPass (e : Nat × Nat × Nat) (m : MemUnit) : MemUnit := { m with scrubLeft := m.scrubLeft.filter fun x => x != e }

section
variable {s : State} {p o i : Nat} {h : Shard} (hon : s.mem.scrubOn = true) (hmem : (p, o, i) ∈ s.mem.scrubLeft) (hget : getShard s p o i = some h)
include hon hmem hget

theorem scrubShard_unverified (hst : h.st ≠ .verified) : scrubShard p o i s = scrubEnd (modMem (leavesPass (p, o, i)) s) := by
  simp only [scrubShard, hon, hget, List.contains_iff_mem.mpr hmem, Bool.and_self, if_true, Option.map_some, Option.some.injEq, hst, if_false]
  rfl

theorem scrubShard_verified (hst : h.st = .verified) : scrubShard p o i s = scrubEnd (modMem (leavesPass (p, o, i)) (judgeShard p o i none s).1) := by
  simp only [scrubShard, hon, hget, List.contains_iff_mem.mpr hmem, Bool.and_self, if_true, Option.map_some, hst]
  rfl

end

theorem scrubEnd_ptns (s : State) : (scrubEnd s).ptns = s.ptns := by
  unfold scrubEnd
  split
  · exact (pulse_keeps ..).1
  · rfl

theorem getShard_of_ptns {s t : State} (h : t.ptns = s.ptns) (p o i : Nat) : getShard t p o i = getShard s p o i := by
  rw [getShard, getObj, getPtn_eq_of_ptns h]; rfl

theorem mem_pulse (n : Nat) (s : State) : (pulse n s).mem = s.mem := by
  cases h : isListed n with
  | true =>
    obtain ⟨-, -, -, -, -, hmem, -⟩ := (pulse_signalled n s h).units
    exact hmem
  | false => simp [pulse, setPend, h]

/-! ### Memory errors and retirement -/

/-- The times of a page's corrected errors within 24 hours (07 R229). -/
def recentErrors (s : State) (tier phys : Nat) : List Nat :=
  (tget [] s.mem.ceCount (tier * 2 ^ 32 + phys)).filter fun x => decide (s.time - x < 86400 * 100000000)

/-- A corrected error is counted in its tier, and with its time for its page. -/
def countedError (tier phys time : Nat) (times : List Nat) (m : MemUnit) : MemUnit :=
  let m := if tier = 0 then { m with ce0 := satAdd 32 m.ce0 1 } else if tier = 1 then { m with ce1 := satAdd 32 m.ce1 1 } else { m with ce2 := satAdd 32 m.ce2 1 }
  { m with ceCount := tset [] (tier * 2 ^ 32 + phys) (times ++ [time]) m.ceCount }

/-- An uncorrectable error poisons its line and is counted. -/
def poisonedLine (tier phys line : Nat) (m : MemUnit) : MemUnit :=
  { (setTierBad tier (nadd (phys * 1024 + line) (tierBad m tier)) m) with ue := satAdd 32 m.ue 1 }

theorem eccHit_corrected (tier phys line : Nat) (s : State) : eccHit tier phys line false s =
    let t := modMem (countedError tier phys s.time (recentErrors s tier phys)) s
    if 16 ≤ (recentErrors s tier phys).length + 1 then retirePage tier phys false t else t := rfl

theorem eccHit_uncorrectable (tier phys line : Nat) (s : State) : eccHit tier phys line true s =
    let t := modMem (poisonedLine tier phys line) s
    retirePage tier phys true (raiseMod 0x0406 phys (pack [(0, 2, tier), (8, 10, line)]) t) := rfl

theorem exec_eccError {s : State} (tier : Tier) (phys : Nat) (line : Fin 1024) (ue : Bool) (hup : switchedUp s = true) :
    exec (.eccError tier phys line ue) s = .next (eccHit (tierNo tier) phys line.val ue s) := by
  show Host.Outcome.next (if switchedUp s then eccHit (tierNo tier) phys line.val ue s else s) = _
  rw [if_pos hup]

/-- A fault of the module with the action LOG is recorded and signalled at the module's source. -/
theorem raiseMod_logged {code : Nat} (index detail : Nat) {s : State} (hlog : policyOf s code = 0) :
    raiseMod code index detail s = pulse srcModuleFault (logModule (faultRec s code index detail) s) := raise_of_log s hlog rfl

theorem policyOf_pulse (n code : Nat) (s : State) : policyOf (pulse n s) code = policyOf s code := by
  cases h : isListed n with
  | true =>
    obtain ⟨-, -, -, -, -, -, -, hflt, -⟩ := (pulse_signalled n s h).units
    rw [policyOf, hflt]; rfl
  | false => simp [pulse, setPend, h]

theorem mem_raiseMod {code : Nat} (index detail : Nat) {s : State} (hlog : policyOf s code = 0) : (raiseMod code index detail s).mem = s.mem := by
  rw [raiseMod_logged index detail hlog, mem_pulse]; rfl

theorem policyOf_raiseMod {code : Nat} (other index detail : Nat) {s : State} (hlog : policyOf s code = 0) :
    policyOf (raiseMod code index detail s) other = policyOf s other := by
  rw [raiseMod_logged index detail hlog, policyOf_pulse]; rfl

theorem isPending_raiseMod {code n : Nat} (index detail : Nat) {s : State} (hlog : policyOf s code = 0)
    (h : isPending s n = true ∨ n = srcModuleFault) : isPending (raiseMod code index detail s) n = true := by
  rw [raiseMod_logged index detail hlog]
  rcases h with h | rfl
  · exact (pulse_keeps ..).2.2 n h
  · exact isPending_pulse_self _ rfl

theorem tierRetired_setTierRetired_self {m : MemUnit} {t : Nat} {x : NSet} : tierRetired (setTierRetired t x m) t = x := by
  grind [tierRetired, setTierRetired]

/-- The state in which a page is marked as retired and its count of errors dropped. -/
def markedRetired (tier phys : Nat) (s : State) : State :=
  let full := decide (65536 ≤ retiredCount s.mem)
  let t := modMem (fun m => setTierRetired tier (nadd phys (tierRetired m tier)) m) s
  modMem (fun m => { m with ceCount := tdel (tier * 2 ^ 32 + phys) m.ceCount, unlisted := if full then nadd (tier * 2 ^ 32 + phys) m.unlisted else m.unlisted }) t

theorem markedRetired_marks (tier phys : Nat) (s : State) :
    nhas (tierRetired (markedRetired tier phys s).mem tier) phys = true ∧ (markedRetired tier phys s).mem.ue = s.mem.ue := by
  constructor
  · show nhas (tierRetired (setTierRetired tier (nadd phys (tierRetired s.mem tier)) s.mem) tier) phys = true
    rw [tierRetired_setTierRetired_self, nhas_nadd]
    simp
  · show (setTierRetired tier (nadd phys (tierRetired s.mem tier)) s.mem).ue = s.mem.ue
    unfold setTierRetired
    split
    · rfl
    · split <;> rfl

/-- The copy on a retired page moves. -/
def replaced (tier phys : Nat) (s : State) : State :=
  match ownerOf s tier phys with
  | some (p, key) => replacePage p key tier phys s
  | none => if retainedHas s tier phys then replaceRetained phys s else s

theorem replaced_repages (tier phys : Nat) (s : State) : ∃ p, Repaged p s (replaced tier phys s) := by
  unfold replaced
  split
  · exact ⟨_, (Repaged.refl _ s).replacePage⟩
  · exact ⟨0, (Repaged.refl 0 s).replaceRetained.ite (.refl 0 s)⟩

theorem retirePage_retires {s : State} {tier phys : Nat} {ue : Bool} (h : nhas (tierRetired s.mem tier) phys = false) : ∃ detail,
    retirePage tier phys ue s = pulse srcPageRetired (raiseMod 0x0407 phys detail (replaced tier phys (markedRetired tier phys s))) := by
  refine ⟨pack [(0, 2, tier), (2, 1, b2n ue), (3, 1, b2n (decide (65536 ≤ retiredCount s.mem)))], ?_⟩
  simp only [retirePage, h, Bool.false_eq_true, if_false]
  rfl

/-- A page that is to be retired is retired afterwards; the count of uncorrectable errors and what is pending stay. -/
theorem retirePage_keeps {s : State} (tier phys : Nat) (ue : Bool) (hlog : policyOf s 0x0407 = 0) :
    nhas (tierRetired (retirePage tier phys ue s).mem tier) phys = true ∧ (retirePage tier phys ue s).mem.ue = s.mem.ue ∧
      ∀ n, isPending s n = true → isPending (retirePage tier phys ue s) n = true := by
  cases h : nhas (tierRetired s.mem tier) phys with
  | true =>
    have hsame : retirePage tier phys ue s = s := by simp only [retirePage, h, if_true]
    rw [hsame]
    exact ⟨h, rfl, fun _ => id⟩
  | false =>
    obtain ⟨detail, hretire⟩ := retirePage_retires (ue := ue) h
    obtain ⟨p, hmoved⟩ := replaced_repages tier phys (markedRetired tier phys s)
    obtain ⟨hmarked, hue⟩ := markedRetired_marks tier phys s
    have hlog' : policyOf (replaced tier phys (markedRetired tier phys s)) 0x0407 = 0 := by
      rw [policyOf, hmoved.flt]; exact hlog
    rw [hretire]
    refine ⟨?_, ?_, fun n hn => (pulse_keeps ..).2.2 n (isPending_raiseMod phys detail hlog' (.inl ?_))⟩
    · rw [mem_pulse, mem_raiseMod phys detail hlog', hmoved.phys.retired]
      exact hmarked
    · rw [mem_pulse, mem_raiseMod phys detail hlog', hmoved.phys, ← hue]
    · rw [isPending, hmoved.evc]; exact hn

/-- Settles O21: a pass starts, is late, goes on or ends; an error is counted, and retires its page. -/
theorem scrubsAndMemoryErrors : Obligations.ScrubsAndMemoryErrors := by
  unfold Obligations.ScrubsAndMemoryErrors
  refine ⟨⟨?starts, ?late, ?off, ?empty, ?left, ?judged⟩, ?counted, ?sixteenth, ?uncorrectable⟩
  case starts =>
    intro s hready hint hrate hoff hsome
    rw [exec_scrubPassStart hready, scrubStart_starts hint hrate hoff, scrubEnd_goesOn hsome]
    rfl
  case late =>
    intro s hready hint hrate hon
    refine ⟨_, exec_scrubPassStart hready, ?_⟩
    rw [scrubStart_late hint hrate hon]
    exact pulse_signalled srcScrubLate _ rfl
  case off =>
    intro s hready hzero
    rw [exec_scrubPassStart hready, scrubStart, if_pos hzero]
  case empty =>
    intro s hready hint hrate hoff hdue hnone
    refine ⟨_, exec_scrubPassStart hready, ?_⟩
    rw [scrubStart_starts hint hrate hoff, scrubEnd_ends (s := modMem (passBegun (verifiedShards s)) s) rfl hnone hdue]
    have hsig := pulse_signalled srcScrubPassDone (modMem passOver (modMem (passBegun (verifiedShards s)) s)) rfl
    have hover : modMem passOver (modMem (passBegun (verifiedShards s)) s) =
        { s with mem := { s.mem with scrubOn := false, scrubLeft := [], scrubPasses := satAdd 32 s.mem.scrubPasses 1 } } := by
      simp only [modMem, passOver, passBegun, ← hdue]
    rw [hover] at hsig ⊢
    exact hsig
  case left =>
    intro p o i h s hready hon hmem hget hst hother
    obtain ⟨x, hx, hne⟩ := hother
    have hleft : (s.mem.scrubLeft.filter fun e => e != (p.val, o.val, i)) ≠ [] := List.ne_nil_of_mem (List.mem_filter.mpr ⟨hx, by simpa using hne⟩)
    rw [exec_scrubShardDone hready, scrubShard_unverified hon hmem hget hst, scrubEnd_goesOn hleft]
    rfl
  case judged =>
    intro p o i h s hlog hready hon hmem hget hst
    obtain ⟨hresult, hshard, -, -, hphys⟩ := judged_judgeShard hlog (.inl rfl) hget
    rw [hresult] at hshard
    refine ⟨_, exec_scrubShardDone hready p o i, ?_⟩
    rw [scrubShard_verified hon hmem hget hst]
    generalize (judgeShard p.val o.val i none s).1 = t at hshard hphys ⊢
    have hleft : (modMem (leavesPass (p.val, o.val, i)) t).mem.scrubLeft = s.mem.scrubLeft.filter fun e => e != (p.val, o.val, i) := by
      show t.mem.scrubLeft.filter _ = _
      rw [hphys]
    have hon' : (modMem (leavesPass (p.val, o.val, i)) t).mem.scrubOn = true := by
      show t.mem.scrubOn = true
      rw [hphys, ← hon]
    refine ⟨?_, fun hsome => ?_, fun hnone hdue => ?_⟩
    · rw [getShard_of_ptns (scrubEnd_ptns _)]
      exact hshard
    · rw [scrubEnd_goesOn (by rw [hleft]; exact hsome)]
      exact ⟨hleft, hon'⟩
    · have hdue' : (modMem (leavesPass (p.val, o.val, i)) t).mem.scrubDue = false := by
        show t.mem.scrubDue = false
        rw [hphys, ← hdue]
      rw [scrubEnd_ends hon' (hleft.trans hnone) hdue']
      refine ⟨by rw [mem_pulse]; rfl, ?_, isPending_pulse_self _ rfl⟩
      rw [mem_pulse]
      show satAdd 32 t.mem.scrubPasses 1 = _
      rw [hphys]
  case counted =>
    intro tier phys line s hup
    refine fun hfew => ⟨_, exec_eccError tier phys line false hup, ?_⟩
    have hstays : eccHit (tierNo tier) phys line.val false s =
        modMem (countedError (tierNo tier) phys s.time (recentErrors s (tierNo tier) phys)) s := by
      rw [eccHit_corrected]
      exact if_neg (by show ¬ 16 ≤ (List.filter _ _).length + 1; omega)
    rw [hstays]
    refine ⟨?_, ?_, ?_⟩
    · cases tier <;> rfl
    · cases tier <;> rfl
    · show tget [] (tset [] _ _ _) _ = _
      rw [tget_tset_self]
      rfl
  case sixteenth =>
    intro tier phys line s hup hlog hmany
    refine ⟨_, exec_eccError tier phys line false hup, ?_⟩
    have hretires : eccHit (tierNo tier) phys line.val false s = retirePage (tierNo tier) phys false
        (modMem (countedError (tierNo tier) phys s.time (recentErrors s (tierNo tier) phys)) s) := by
      rw [eccHit_corrected]
      exact if_pos (by show 16 ≤ (List.filter _ _).length + 1; omega)
    rw [hretires]
    exact (retirePage_keeps (s := modMem (countedError _ phys s.time _) s) _ _ _ hlog).1
  case uncorrectable =>
    intro tier phys line s hup hlog hretireLog
    refine ⟨_, exec_eccError tier phys line true hup, ?_⟩
    rw [eccHit_uncorrectable]
    generalize hu : modMem (poisonedLine (tierNo tier) phys line.val) s = u
    have hlogU : policyOf u 0x0406 = 0 := by rw [← hu]; exact hlog
    have hretireU : policyOf u 0x0407 = 0 := by rw [← hu]; exact hretireLog
    have hue : u.mem.ue = satAdd 32 s.mem.ue 1 := by rw [← hu]; rfl
    obtain ⟨hretired, hkept, hpending⟩ := retirePage_keeps (s := raiseMod 0x0406 phys (pack [(0, 2, tierNo tier), (8, 10, line.val)]) u) (tierNo tier) phys true
      (by rw [policyOf_raiseMod 0x0407 _ _ hlogU]; exact hretireU)
    refine ⟨?_, hretired, hpending _ (isPending_raiseMod _ _ hlogU (.inr rfl))⟩
    rw [hkept, mem_raiseMod _ _ hlogU, hue]

end Sys2Proof.Proofs
end

section
/-! PROOFS. The movers' queues (07 R213-R215, R451): movers at rest, heads that leave their queue, pages and shards that leave their command's
list, and what one page's work does to its entry of the page map. -/
namespace Sys2Proof.Proofs
open Sys2Proof Sys2Proof.Machine Sys2Proof.Safety

/-! ### Movers at rest -/

/-- No head of a serving mover is done at once. -/
def AtRest (s : State) : Prop := ∀ d, d < 8 → moverServes s d = true → headAtOnce s d = none

/-- Every serving mover marks the page it copies. -/
def markTransits (s : State) : State := ((List.range 8).filter (moverServes s)).foldl (fun s d => markTransit d s) s

theorem settleFuel_atRest {s : State} (h : AtRest s) (n : Nat) : settleFuel n s = s := by
  cases n with
  | zero => rfl
  | succ n =>
    have hnone : ((List.range 8).find? fun d => moverServes s d && (headAtOnce s d).isSome) = none := by
      refine List.find?_eq_none.mpr fun d hd => ?_
      cases hserves : moverServes s d with
      | true => simp [h d (List.mem_range.mp hd) hserves]
      | false => simp
    simp only [settleFuel, hnone]

theorem settleMovers_atRest {s : State} (h : AtRest s) : settleMovers s = markTransits s := by
  rw [settleMovers, settleFuel_atRest h]; rfl

/-- Movers that serve have nothing to do. -/
def Idle (s : State) : Prop := ∀ d, d < 8 → moverServes s d = true → (getDie s d).moverQ = []

theorem Idle.atRest {s : State} (h : Idle s) : AtRest s := fun d hd hserves => by simp only [headAtOnce, h d hd hserves]

theorem settleMovers_idle {s : State} (h : Idle s) : settleMovers s = s := by
  rw [settleMovers_atRest h.atRest, markTransits]
  refine List.foldlRecOn (motive := fun t => t = s) _ _ rfl fun t ht d hd => ?_
  obtain ⟨hmem, hserves⟩ := List.mem_filter.mp hd
  rw [ht]
  simp only [markTransit, h d (List.mem_range.mp hmem) hserves]

/-- Marking pages in TRANSIT changes the page maps only. -/
theorem foldl_markTransit_marks (ds : List Nat) (s : State) :
    ds.foldl (fun s d => markTransit d s) s = { s with ptns := (ds.foldl (fun s d => markTransit d s) s).ptns } ∧
      ∀ p o, getObj (ds.foldl (fun s d => markTransit d s) s) p o = getObj s p o := by
  refine List.foldlRecOn (motive := fun t => t = { s with ptns := t.ptns } ∧ ∀ p o, getObj t p o = getObj s p o) _ _ ⟨rfl, fun _ _ => rfl⟩
    fun t ht d _ => ?_
  obtain ⟨hframe, hobj⟩ := ht
  have hpage (p key : Nat) (g : PageEnt → PageEnt) :
      modPage p key g t = { s with ptns := (modPage p key g t).ptns } ∧ ∀ q o, getObj (modPage p key g t) q o = getObj s q o :=
    ⟨by conv_lhs => rw [modPage, modPMem, modPtn, hframe]
        rfl, fun q o => (((Repaged.refl p t).modPage).getObj q o).trans (hobj q o)⟩
  unfold markTransit
  split
  · exact ⟨hframe, hobj⟩
  · split
    · split
      · exact hpage ..
      · exact ⟨hframe, hobj⟩
    · exact ⟨hframe, hobj⟩

theorem markTransits_marks (s : State) :
    markTransits s = { s with ptns := (markTransits s).ptns } ∧ ∀ p o, getObj (markTransits s) p o = getObj s p o := foldl_markTransit_marks ..

/-! ### A head leaves its queue -/

theorem advanceMover_frame (d : Nat) (s : State) : advanceMover d s = { s with dies := (advanceMover d s).dies } := rfl

theorem moverServes_advanceMover (d e : Nat) (s : State) : moverServes (advanceMover d s) e = moverServes s e := rfl

theorem moverQ_advanceMover_ne {d e : Nat} (s : State) (h : e ≠ d) : (getDie (advanceMover d s) e).moverQ = (getDie s e).moverQ := by
  rw [advanceMover, getDie_modDie_ne _ _ h]

theorem mem_of_pickNext {x : Die} {q : List MoverItem} {i : MoverItem} (h : pickNext x q = some i) : i ∈ q := List.mem_of_find?_eq_some h

/-- What stays in the queue are the items after the head, in some order. -/
theorem moverQ_advanceMover_perm {d : Nat} {s : State} {i : MoverItem} {q : List MoverItem} (h : (getDie s d).moverQ = i :: q) :
    (getDie (advanceMover d s) d).moverQ.Perm q := by
  simp only [advanceMover, getDie_modDie_self, h]
  split
  · exact .refl _
  · next hpick => exact (List.perm_cons_erase (mem_of_pickNext hpick)).symm

/-- The last item of the movers leaves its queue, and they are idle. -/
theorem finishHead_last {d : Nat} {s : State} {i : MoverItem} (hq : (getDie s d).moverQ = [i]) (hother : ∀ e, e < 8 → e ≠ d → (getDie s e).moverQ = []) :
    finishHead d s = advanceMover d s ∧ (getDie (advanceMover d s) d).moverQ = [] := by
  have hempty : (getDie (advanceMover d s) d).moverQ = [] := (moverQ_advanceMover_perm hq).eq_nil
  refine ⟨settleMovers_idle fun e he _ => ?_, hempty⟩
  by_cases hed : e = d
  · rw [hed, hempty]
  · rw [moverQ_advanceMover_ne s hed, hother e he hed]

theorem findSome?_only {α β : Type} {f : α → Option β} {l : List α} {d : α} {v : β} (hd : d ∈ l) (hv : f d = some v)
    (hother : ∀ x ∈ l, x ≠ d → f x = none) : l.findSome? f = some v := by
  induction l with
  | nil => cases hd
  | cons x l ih =>
    rw [List.findSome?_cons]
    by_cases hx : x = d
    · rw [hx, hv]
    · rw [hother x List.mem_cons_self hx]
      exact ih ((List.mem_cons.mp hd).resolve_left (Ne.symm hx)) fun y hy => hother y (List.mem_cons_of_mem _ hy)

/-- The only item of the movers is the head that its end names. -/
theorem headItem_only {s : State} {p o u d : Nat} {i : MoverItem} (hp : i.ptn = p) (ho : i.obj = o) (hu : i.unit = u) (hwhole : i.whole = false)
    (hd : d < 8) (hserves : moverServes s d = true) (hq : (getDie s d).moverQ = [i]) (hother : ∀ e, e < 8 → e ≠ d → (getDie s e).moverQ = []) :
    headItem s p o u = some (d, i) := by
  refine findSome?_only (List.mem_range.mpr hd) ?_ fun e he hne => ?_
  · simp only [hq, hp, ho, hu, hwhole, hserves, and_self, if_true]
  · simp only [hother e (List.mem_range.mp he) hne]

/-! ### A page or shard leaves its command's list (07 R213 step 7) -/

/-- The command with one unit off its list and `n` more counted. -/
def unitOff (u n : Nat) (k : Cmd) : Cmd := { k with todo := k.todo.erase u, progress := k.progress + n }

/-- The status that a command ends with. -/
def finalStatus (k : Cmd) : Nat := if k.status ≠ 0 then k.status else if k.failed ≠ 0 then 0x08 else 0

/-- The result that a command ends with: the failed shards of an INTAKE or VERIFY, else the units counted. -/
def finalResult (k : Cmd) : Nat := if k.opcode = 0x45 ∨ k.opcode = 0x46 then k.failed else k.progress

/-- The command with nothing on its list, ended. -/
def finished (k : Cmd) : Cmd := { k with phase := .done, status := finalStatus k, result := w32 (finalResult k), todo := [] }

theorem sameEntry_unitOff (u n : Nat) : SameEntry (unitOff u n) := ⟨fun _ => rfl, fun _ => rfl, fun _ => rfl, fun _ => rfl, fun _ => rfl⟩

theorem sameEntry_end (st res : Nat) : SameEntry fun c => { c with phase := .done, status := st, result := w32 res, todo := [] } :=
  ⟨fun _ => rfl, fun _ => rfl, fun _ => rfl, fun _ => rfl, fun _ => rfl⟩

theorem unitDone_eq (i : MoverItem) (n : Nat) (s : State) : unitDone i n s =
    match (getCmd s i.ring i.idx).map (unitOff i.unit n) with
    | some k =>
      if k.todo.isEmpty && decide (k.phase ≠ .done) then endCmd i.ring i.idx (finalStatus k) (finalResult k) (modCmd i.ring i.idx (unitOff i.unit n) s)
      else modCmd i.ring i.idx (unitOff i.unit n) s
    | none => modCmd i.ring i.idx (unitOff i.unit n) s := by
  have hcmd : itemCmd (modCmd i.ring i.idx (unitOff i.unit n) s) i = (getCmd s i.ring i.idx).map (unitOff i.unit n) := by
    rw [itemCmd, getCmd_modCmd (sameEntry_unitOff ..), if_pos ⟨rfl, rfl⟩]
  rw [← hcmd]
  rfl

theorem unitDone_frame (i : MoverItem) (n : Nat) (s : State) : unitDone i n s = { s with rings := (unitDone i n s).rings } := by
  rw [unitDone_eq]
  split
  · split <;> rfl
  · rfl

/-- Other commands do not see a unit end. -/
theorem getCmd_unitDone_ne {i : MoverItem} {r idx : Nat} (n : Nat) (s : State) (h : i.ring = r → i.idx ≠ idx) :
    getCmd (unitDone i n s) r idx = getCmd s r idx := by
  have hne : ¬ (r = i.ring ∧ idx = i.idx) := fun ⟨hr, hi⟩ => h hr.symm hi.symm
  rw [unitDone_eq]
  split
  · split
    · rw [endCmd, getCmd_modCmd (sameEntry_end ..), if_neg hne, getCmd_modCmd (sameEntry_unitOff ..), if_neg hne]
    · rw [getCmd_modCmd (sameEntry_unitOff ..), if_neg hne]
  · rw [getCmd_modCmd (sameEntry_unitOff ..), if_neg hne]

section
variable {s : State} {i : MoverItem} {k : Cmd} (n : Nat) (hk : getCmd s i.ring i.idx = some k)
include hk

theorem getCmd_unitDone_last (htodo : k.todo.erase i.unit = []) (hphase : k.phase ≠ .done) :
    getCmd (unitDone i n s) i.ring i.idx = some (finished (unitOff i.unit n k)) := by
  have hempty : ((unitOff i.unit n k).todo.isEmpty && decide ((unitOff i.unit n k).phase ≠ .done)) = true := by simp [unitOff, htodo, hphase]
  rw [unitDone_eq, hk]
  simp only [Option.map_some, hempty, if_true]
  rw [endCmd, getCmd_modCmd (sameEntry_end ..), if_pos ⟨rfl, rfl⟩, getCmd_modCmd (sameEntry_unitOff ..), if_pos ⟨rfl, rfl⟩, hk]
  rfl

theorem getCmd_unitDone_more (htodo : k.todo.erase i.unit ≠ []) : getCmd (unitDone i n s) i.ring i.idx = some (unitOff i.unit n k) := by
  have hmore : ((unitOff i.unit n k).todo.isEmpty && decide ((unitOff i.unit n k).phase ≠ .done)) = false := by simp [unitOff, htodo]
  rw [unitDone_eq, hk]
  simp only [Option.map_some, hmore, Bool.false_eq_true, if_false]
  rw [getCmd_modCmd (sameEntry_unitOff ..), if_pos ⟨rfl, rfl⟩, hk]
  rfl

end

/-! ### A page's entry of the page map (07 R204, R210) -/

theorem getPage_modPage_self (p key : Nat) (g : PageEnt → PageEnt) (s : State) : getPage (modPage p key g s) p key = g (getPage s p key) := by
  simp only [getPage, modPage, modPMem_eq, getPtn_modPtn_self, tget_tmod, if_true]

theorem getPage_modPage_ne {p key q other : Nat} (g : PageEnt → PageEnt) (s : State) (h : other ≠ key ∨ q ≠ p) :
    getPage (modPage p key g s) q other = getPage s q other := by
  simp only [getPage, modPage, modPMem_eq, getPtn_modPtn]
  split
  · next hq =>
    obtain hne := h.resolve_right (not_not_intro hq)
    simp only [tget_tmod, hne, if_false, hq]
  · rfl

theorem getPage_modMem (g : MemUnit → MemUnit) (s : State) (p key : Nat) : getPage (modMem g s) p key = getPage s p key := rfl

theorem pageKey_inj {o k j : Nat} (h : pageKey o k = pageKey o j) : k = j := by unfold pageKey at h; omega

/-- The entry of a page without its copy in a tier. -/
def withoutCopy (t : Nat) (e : PageEnt) : PageEnt :=
  if t = 0 then { e with t0 := none, t0Repl := false } else if t = 1 then { e with t1 := none } else { e with t2 := none }

theorem getPage_dropCopies_self (p key t : Nat) (s : State) : getPage (dropCopies p key t s) p key = withoutCopy t (getPage s p key) :=
  getPage_modPage_self ..

theorem getPage_dropCopies_ne {p key q other : Nat} (t : Nat) (s : State) (h : other ≠ key ∨ q ≠ p) :
    getPage (dropCopies p key t s) q other = getPage s q other := getPage_modPage_ne _ _ h

theorem hasCopy_withoutCopy_self (t : Nat) (e : PageEnt) : hasCopy (withoutCopy t e) t = false := by grind [hasCopy, withoutCopy]

theorem hasCopy_withoutCopy_ne {t u : Nat} (e : PageEnt) (ht : t ≤ 2) (hu : u ≤ 2) (h : u ≠ t) : hasCopy (withoutCopy t e) u = hasCopy e u := by
  grind [hasCopy, withoutCopy]

/-- A copy placed in a tier stands in the page's entry. -/
theorem hasCopy_addCopy {p o t mode place k : Nat} {s : State} (hrepl : mode = 3 → t = 0) :
    hasCopy (getPage (addCopy p o t mode place k s) p (pageKey o k)) t = true := by
  unfold addCopy
  split
  · next hmode =>
    rw [getPage_modPage_self, hrepl hmode]
    rfl
  · rw [getPage_modPage_self]
    grind [hasCopy]

theorem getPage_addCopy_ne {p o t mode place k q key : Nat} {s : State} (h : key ≠ pageKey o k ∨ q ≠ p) :
    getPage (addCopy p o t mode place k s) q key = getPage s q key := by
  unfold addCopy
  split
  · exact getPage_modPage_ne _ _ h
  · exact getPage_modPage_ne _ _ h

end Sys2Proof.Proofs
end

section
/-! PROOFS. O20: the last page of a MIGRATE and finished shards (07 R213, R224, R230, R451). -/
namespace Sys2Proof.Proofs
open Sys2Proof Sys2Proof.Machine Sys2Proof.Safety

/-! ### The last unit of a command on otherwise idle movers -/

/-- The command ends, its head leaves the queue, and nothing else changes. -/
structure LastUnit (i : MoverItem) (d n : Nat) (k : Cmd) (s t : State) : Prop where
  frame : t = { s with rings := t.rings, dies := t.dies }
  queue : (getDie t d).moverQ = []
  cmd   : getCmd t i.ring i.idx = some (finished (unitOff i.unit n k))

theorem lastUnit_finishHead {i : MoverItem} {d : Nat} {k : Cmd} {s : State} (n : Nat) (hq : (getDie s d).moverQ = [i])
    (hother : ∀ e, e < 8 → e ≠ d → (getDie s e).moverQ = []) (hk : getCmd s i.ring i.idx = some k) (htodo : k.todo = [i.unit]) (hphase : k.phase = .running) :
    LastUnit i d n k s (finishHead d (unitDone i n s)) := by
  have hdies (e : Nat) : getDie (unitDone i n s) e = getDie s e := by rw [unitDone_frame]; rfl
  obtain ⟨hhead, hempty⟩ := finishHead_last (s := unitDone i n s) (i := i) (by rw [hdies, hq]) fun e he hne => by rw [hdies, hother e he hne]
  rw [hhead]
  refine ⟨by rw [advanceMover_frame, unitDone_frame], hempty, ?_⟩
  rw [advanceMover_frame]
  exact getCmd_unitDone_last n hk (by simp [htodo]) (by simp [hphase])

/-! ### Changes of an object that keep its shards -/

section
variable (p o : Nat) (g : Obj → Obj) (s : State)

theorem getPage_modObj (q key : Nat) : getPage (modObj p o g s) q key = getPage s q key := by
  simp only [getPage, modObj, modPMem_eq, getPtn_modPtn]
  split
  · next hq => rw [hq]
  · rfl

theorem qtrsOf_modObj (q : Nat) : qtrsOf (modObj p o g s) q = qtrsOf s q := by
  simp only [qtrsOf, modObj, modPMem_eq, getPtn_modPtn]
  split
  · next hq => rw [hq]
  · rfl

theorem mirrorFree_modObj (h : MirrorFree s) : MirrorFree (modObj p o g s) := fun q c => by
  simp only [modObj, modPMem_eq, getPtn_modPtn]
  split
  · exact h p c
  · exact h q c

theorem getObj_modObj (q x : Nat) : getObj (modObj p o g s) q x = if q = p ∧ x = o then g (getObj s p o) else getObj s q x := by
  simp only [getObj, modObj, modPMem_eq, getPtn_modPtn]
  by_cases hq : q = p
  · subst hq
    simp only [if_true, tget_tmod, true_and]
  · simp only [hq, if_false, false_and]

theorem getShard_modObj (hg : ∀ x, (g x).shards = x.shards) (q x i : Nat) : getShard (modObj p o g s) q x i = getShard s q x i := by
  simp only [getShard, getObj_modObj]
  split
  · next h => rw [hg, h.1, h.2]
  · rfl

end

/-- The object used at a time. -/
def touched (time : Nat) (x : Obj) : Obj := { x with lastUse := time }

/-- The copies of a shard and whether they pass rest on the tiers, the page map and the partition's quarters. -/
theorem shardCopies_congr {s t : State} {p : Nat} (hq : qtrsOf t p = qtrsOf s p) (hpage : ∀ key, getPage t p key = getPage s p key) (o : Nat) (h : Shard) :
    shardCopies t p o h = shardCopies s p o h := by
  simp only [shardCopies, readCopy, allCopies, t0Phys, hq, hpage]

theorem copyPasses_congr {s t : State} {p : Nat} (hmem : t.mem = s.mem) (hpage : ∀ key, getPage t p key = getPage s p key) (o : Nat) (h : Shard) :
    copyPasses t p o h = copyPasses s p o h := by
  funext l
  simp only [copyPasses, hmem, hpage]

/-! ### The page of a MIGRATE (07 R213) -/

/-- A page with room in its target is not preceded by evictions. -/
theorem evictFor_room {s : State} {p t mode place k : Nat} (own : Nat) (hroom : canPlace s p t mode place [k] = true) :
    evictFor p own t mode place k s = s := by
  unfold evictFor
  refine List.foldlRecOn (motive := fun u => u = s) _ _ rfl fun u hu e _ => ?_
  rw [hu, if_pos hroom]

theorem tier_of_readCopy {s : State} {p : Nat} {e : PageEnt} {q : Option Nat} {src : Nat × Nat} (h : readCopy s p e q = some src) : src.1 ≤ 2 := by
  have htier (c : Nat × Nat) (hc : c ∈ allCopies s p e) : c.1 ≤ 2 := by
    simp only [allCopies, List.mem_append, List.mem_map] at hc
    obtain (⟨i, -, rfl⟩ | ⟨i, -, rfl⟩) | ⟨i, -, rfl⟩ := hc <;> simp
  simp only [readCopy] at h
  split at h
  · simp only [Option.some.injEq] at h
    simp [← h]
  · exact htier src (List.mem_of_head? h)

/-- What a migrated page's entry says after the page's copy has been placed in tier `t`, from a copy in tier `src`. -/
structure Migrated (p o t src k : Nat) (s u : State) : Prop where
  rings   : u.rings = s.rings
  dies    : u.dies = s.dies
  placed  : hasCopy (getPage u p (pageKey o k)) t = true
  settled : (getPage u p (pageKey o k)).transit = none
  moved   : (getObj s p o).copyUp = false → src ≠ t → hasCopy (getPage u p (pageKey o k)) src = false

/-- The state in which the page's new copies hold the bytes of the copy that was read, and its old ones in the tier are released. -/
def recopied (p o t mode place k : Nat) (src : Nat × Nat) (s : State) : State :=
  let key := pageKey o k
  let old := (allCopies s p (getPage s p key)).filter fun c => c.1 == t
  let u := addCopy p o t mode place k (modPage p key (withoutCopy t) s)
  let new := (allCopies u p (getPage u p key)).filter fun c => c.1 == t
  modMem (fun m => old.foldl (fun m c => releasePhys c.1 c.2 m) (new.foldl (fun m c => copyPhys src.1 src.2 c.1 c.2 m) m)) u

section
variable {s : State} {p o t mode place k : Nat} {src : Nat × Nat}

theorem repaged_recopied : Repaged p s (recopied p o t mode place k src s) := by
  have hadded : Repaged p s (addCopy p o t mode place k (modPage p (pageKey o k) (withoutCopy t) s)) := (Repaged.refl p s).modPage.addCopy
  simp only [recopied]
  refine hadded.modMem ?_
  exact PhysOnly.foldl (PhysOnly.foldl (.refl _) fun m => m.copyPhys) fun m => m.releasePhys

theorem hasCopy_recopied (hrepl : mode = 3 → t = 0) : hasCopy (getPage (recopied p o t mode place k src s) p (pageKey o k)) t = true :=
  hasCopy_addCopy (s := modPage p (pageKey o k) (withoutCopy t) s) hrepl

/-- The state in which the page has left the tier it was read from, unless the object keeps its copies. -/
def copyLeft (p o t mode place k : Nat) (src : Nat × Nat) (s : State) : State :=
  let u := recopied p o t mode place k src s
  if !(getObj u p o).copyUp && src.1 != t then dropCopies p (pageKey o k) src.1 u else u

variable (hsrc : readCopy s p (getPage s p (pageKey o k)) none = some src)
include hsrc

theorem migratePage_eq (hroom : canPlace s p t mode place [k] = true) : migratePage p o t mode place k s =
    (true, touchObjs p [o] (modPage p (pageKey o k) (fun e => { e with transit := none }) (copyLeft p o t mode place k src s))) := by
  simp only [migratePage, evictFor_room o hroom, hroom, Bool.not_true, Bool.false_eq_true, if_false, hsrc]
  rfl

theorem hasCopy_copyLeft (ht : t ≤ 2) (hrepl : mode = 3 → t = 0) :
    hasCopy (getPage (copyLeft p o t mode place k src s) p (pageKey o k)) t = true := by
  simp only [copyLeft]
  split
  · next h =>
    obtain ⟨-, hne⟩ := Bool.and_eq_true_iff.mp h
    rw [getPage_dropCopies_self, hasCopy_withoutCopy_ne _ (tier_of_readCopy hsrc) ht (Ne.symm (bne_iff_ne.mp hne)), hasCopy_recopied hrepl]
  · exact hasCopy_recopied hrepl

theorem migratePage_places (ht : t ≤ 2) (hrepl : mode = 3 → t = 0) (hroom : canPlace s p t mode place [k] = true) :
    (migratePage p o t mode place k s).1 = true ∧ Migrated p o t src.1 k s (migratePage p o t mode place k s).2 := by
  rw [migratePage_eq hsrc hroom]
  have hleft : Repaged p s (copyLeft p o t mode place k src s) := repaged_recopied.dropCopies.ite repaged_recopied
  have hentry : getPage (touchObjs p [o] (modPage p (pageKey o k) (fun e => { e with transit := none }) (copyLeft p o t mode place k src s))) p (pageKey o k) =
      { getPage (copyLeft p o t mode place k src s) p (pageKey o k) with transit := none } := by
    rw [touchObjs, List.foldl_cons, List.foldl_nil, getPage_modObj, getPage_modPage_self]
  refine ⟨rfl, hleft.rings, hleft.dies, ?placed, by rw [hentry], fun hup hne => ?moved⟩
  case placed =>
    rw [hentry]
    exact hasCopy_copyLeft hsrc ht hrepl
  case moved =>
    have hdrop : copyLeft p o t mode place k src s = dropCopies p (pageKey o k) src.1 (recopied p o t mode place k src s) :=
      if_pos (by simp [repaged_recopied.getObj, hup, hne])
    rw [hentry, hdrop, getPage_dropCopies_self]
    exact hasCopy_withoutCopy_self ..

end

/-! ### A shard's end on its mover (07 R213, R224) -/

/-- The command with one more failed shard. -/
def oneFailed (k : Cmd) : Cmd := { k with failed := k.failed + 1 }

/-- A judged shard's command, whose failures are counted, ends with it. -/
theorem lastUnit_judged {i : MoverItem} {d p o shard : Nat} {k : Cmd} {st : ShardSt} {s u : State} {ok : Bool} (hjudged : Judged p o shard st s u)
    (hq : (getDie s d).moverQ = [i]) (hother : ∀ e, e < 8 → e ≠ d → (getDie s e).moverQ = []) (hk : getCmd s i.ring i.idx = some k)
    (htodo : k.todo = [i.unit]) (hphase : k.phase = .running) (t : State)
    (ht : t = finishHead d (unitDone i 1 (if ok then u else modCmd i.ring i.idx oneFailed u))) :
    (getDie t d).moverQ = [] ∧ (getShard t p o shard).map (fun h => h.st) = some st ∧
      (getCmd t i.ring i.idx).map (fun c => (c.phase, c.progress)) = some (.done, k.progress + 1) := by
  have hku : getCmd u i.ring i.idx = some k := (getCmd_of_rings hjudged.rings ..).trans hk
  have hdie (e : Nat) : getDie u e = getDie s e := by rw [getDie, hjudged.dies]; rfl
  cases ok with
  | true =>
    have hlast := lastUnit_finishHead (s := u) 1 (by rw [hdie, hq]) (fun e he hne => by rw [hdie, hother e he hne]) hku htodo hphase
    rw [if_pos rfl] at ht
    rw [← ht] at hlast
    exact ⟨hlast.queue, by rw [hlast.frame]; exact hjudged.shard, by rw [hlast.cmd]; rfl⟩
  | false =>
    have hsame : SameEntry oneFailed := ⟨fun _ => rfl, fun _ => rfl, fun _ => rfl, fun _ => rfl, fun _ => rfl⟩
    have hfailed : getCmd (modCmd i.ring i.idx oneFailed u) i.ring i.idx = some (oneFailed k) := by
      rw [getCmd_modCmd hsame, if_pos ⟨rfl, rfl⟩, hku]
      rfl
    have hlast := lastUnit_finishHead (s := modCmd i.ring i.idx oneFailed u) 1 (hdie d ▸ hq) (fun e he hne => hdie e ▸ hother e he hne) hfailed htodo hphase
    rw [if_neg Bool.false_ne_true] at ht
    rw [← ht] at hlast
    exact ⟨hlast.queue, by rw [hlast.frame]; exact hjudged.shard, by rw [hlast.cmd]; rfl⟩

/-- The first command that is found by its index is found among the live ones as well, when it lives. -/
theorem getCmd_of_find {s : State} {r idx : Nat} {k : Cmd} (h : (getRing s r).started.find? (fun k => k.idx == idx) = some k) (hgone : k.gone = false) :
    getCmd s r idx = some k := by
  obtain ⟨hidx, before, after, hlist, hbefore⟩ := List.find?_eq_some_iff_append.mp h
  refine List.find?_eq_some_iff_append.mpr ⟨by rw [hidx, hgone]; rfl, before, after, hlist, fun c hc => ?_⟩
  have hne := hbefore c hc
  simp only [Bool.not_eq_true'] at hne
  simp [hne]

/-- Settles O20: a page or shard is the only head of its mover, its command's last unit leaves with it, and a shard is judged as `judgeShard` judges. -/
theorem finishedPagesAndShards : Obligations.FinishedPagesAndShards := by
  refine ⟨?page, ?intake, ?verify, ?recheck⟩
  case page =>
    intro p o page d i k src s hp ho hu hwhole hd hserves hq hother hfind hgone hop htodo hphase hstatus hfailed htier hrepl hroom hsrc
    obtain ⟨hok, hmig⟩ := migratePage_places (s := s) (o := o.val) hsrc htier (fun h => (hrepl h).1) hroom
    obtain ⟨u, hu'⟩ : ∃ u, migratePage i.ptn i.obj (migTarget k).1 (migTarget k).2.1 (migTarget k).2.2 i.unit s = (true, u) := ⟨_, by
      rw [hp, ho, hu, ← hok]⟩
    have hmig : Migrated p.val o.val (migTarget k).1 src.1 page s u := by
      rw [hp, ho, hu] at hu'
      rw [hu'] at hmig
      exact hmig
    have hdie (e : Nat) : getDie u e = getDie s e := by rw [getDie, hmig.dies]; rfl
    have hlast := lastUnit_finishHead (s := u) (i := i) 1 (by rw [hdie, hq]) (fun e he hne => by rw [hdie, hother e he hne])
      ((getCmd_of_rings hmig.rings ..).trans (getCmd_of_find hfind hgone)) (by rw [htodo, hu]) hphase
    refine ⟨finishHead d (unitDone i 1 u), ?_, ?_, ?_, hlast.queue, ?_, ?_⟩
    · change execMigratePageDone p o page s = _
      rw [execMigratePageDone, headItem_only hp ho hu hwhole hd hserves hq hother]
      simp only [pageCopied, hfind, hop, ne_eq, not_true, if_false, hu']
    · rw [hlast.frame]; exact hmig.placed
    · rw [hlast.frame]; exact hmig.settled
    · rw [hlast.cmd]
      simp [finished, finalStatus, finalResult, unitOff, hstatus, hfailed, hop]
    · rw [hlast.frame]; exact hmig.moved
  case intake =>
    intro p o shard d i k h data s hlog hfree hp ho hu hwhole hd hserves hq hother hk hop htodo hphase hstatus hshard hdma x hroom
    have hwritten : Repaged p.val s (writeShard p.val o.val h data s) := (Repaged.refl p.val s).writeShard
    have hjudged := (judged_judgeShard (i := shard) (ctx := some i.ctx) (o := o.val) (p := p.val) (by rw [policyOf, hwritten.flt]; exact hlog)
      (.inr (hwritten.mirrorFree hfree)) ((hwritten.getShard ..).trans hshard)).2
    have hdie (e : Nat) : getDie (writeShard p.val o.val h data s) e = getDie s e := by rw [getDie, hwritten.dies]; rfl
    obtain ⟨hqueue, hst, hcmd⟩ := lastUnit_judged hjudged (hdie d ▸ hq) (fun e he hne => hdie e ▸ hother e he hne)
      ((getCmd_of_rings hwritten.rings ..).trans hk) (htodo.trans (by rw [hu])) hphase _ rfl
    refine ⟨_, ?_, hqueue, hst, hcmd⟩
    change execIntakeShardDone p o shard data s = _
    rw [execIntakeShardDone, headItem_only hp ho hu hwhole hd hserves hq hother]
    simp only [shardArrived, itemCmd, hp, ho, hu, hshard, hk, hop, hdma, x, hroom, ne_eq, not_true, Bool.true_eq_false, or_false, if_false, if_true]
    rfl
  case verify =>
    intro p o shard d i k h s hlog hfree hp ho hu hwhole hd hserves hq hother hk hop htodo hphase hstatus hshard
    have htouch : touchObjs p.val [o.val] s = modObj p.val o.val (touched s.time) s := rfl
    have hpage (key : Nat) : getPage (touchObjs p.val [o.val] s) p.val key = getPage s p.val key := by rw [htouch, getPage_modObj]
    have hshard' : getShard (touchObjs p.val [o.val] s) p.val o.val shard = some h := by
      rw [htouch, getShard_modObj _ _ (touched s.time) _ fun _ => rfl, hshard]
    have hfree' : MirrorFree (touchObjs p.val [o.val] s) := by rw [htouch]; exact mirrorFree_modObj _ _ _ _ hfree
    have hquarters : qtrsOf (touchObjs p.val [o.val] s) p.val = qtrsOf s p.val := by rw [htouch, qtrsOf_modObj]
    have hpolicy : policyOf (touchObjs p.val [o.val] s) 0x0404 = 0 := by rw [htouch]; exact hlog
    have hmem : (touchObjs p.val [o.val] s).mem = s.mem := rfl
    obtain ⟨hany, hjudged⟩ := judged_judgeShard (ctx := some i.ctx) hpolicy (.inr hfree') hshard'
    rw [shardCopies_congr hquarters hpage, copyPasses_congr hmem hpage] at hany
    obtain ⟨hqueue, hst, hcmd⟩ := lastUnit_judged hjudged hq hother hk (htodo.trans (by rw [hu])) hphase _ rfl
    refine ⟨_, ?_, hqueue, by rw [hst, hany], hcmd⟩
    change execVerifyShardDone p o shard s = _
    rw [execVerifyShardDone, headItem_only hp ho hu hwhole hd hserves hq hother]
    simp only [shardVerified, itemCmd, hp, ho, hu, hk, hop, ne_eq, not_true, if_false]
    rfl
  case recheck =>
    intro p o shard h s hlog hready hshard hnext hnov hserves
    obtain ⟨hany, hjudged⟩ := judged_judgeShard (ctx := none) hlog (.inl rfl) hshard
    refine ⟨recheckShard p.val o.val shard s, ?_, ?_⟩
    · change execRecheckShardDone p o shard s = _
      simp [execRecheckShardDone, hready, hserves, hnov, hnext]
    · rw [← hany]
      simp only [recheckShard]
      split
      · refine ⟨?_, hjudged.rings, hjudged.dies⟩
        rw [getShard_modObj]
        · exact hjudged.shard
        · exact fun _ => rfl
      · exact ⟨hjudged.shard, hjudged.rings, hjudged.dies⟩

end Sys2Proof.Proofs
end

section
/-! PROOFS. O18: the object commands OBJ_SET, OBJ_CLEAR and OBJ_QUERY (07 R207-R210; 08 R250; 11 R340). -/
namespace Sys2Proof.Proofs
open Sys2Proof Sys2Proof.Machine Sys2Proof.Safety

/-! ### What a started command reads -/

section
variable (s : State) (e : Entry) (op p : Nat) (c : Cmd)

theorem getObj_begun (o : Nat) : getObj (begun s e op) p o = getObj s p o := by rw [begun_frame]; rfl
theorem getPage_begun (key : Nat) : getPage (begun s e op) p key = getPage s p key := by rw [begun_frame]; rfl
theorem getDie_begun (d : Nat) : getDie (begun s e op) d = getDie s d := by rw [begun_frame]; rfl
theorem dies_begun : (begun s e op).dies = s.dies := by rw [begun_frame]
theorem mem_begun : (begun s e op).mem = s.mem := by rw [begun_frame]
theorem free_begun : (begun s e op).free = s.free := by rw [begun_frame]
theorem homeDie_begun : homeDie (begun s e op) p = homeDie s p := by rw [begun_frame]; rfl
theorem moverServes_begun (d : Nat) : moverServes (begun s e op) d = moverServes s d := by rw [begun_frame]; rfl
theorem heldBack_begun : heldBack (begun s e op) c = heldBack s c := by rw [begun_frame]; rfl
theorem objGate_begun (o : Nat) : objGate (begun s e op) c o = objGate s c o := by rw [begun_frame]; rfl
theorem objRuleBad_begun (x : Obj) : objRuleBad (begun s e op) p x = objRuleBad s p x := by rw [begun_frame]; rfl
theorem shadowBad_begun (x : Obj) : shadowBad (begun s e op) c x = shadowBad s c x := by rw [begun_frame]; rfl
theorem objOverlap_begun (x : Obj) : objOverlap (begun s e op) p x = objOverlap s p x := by rw [begun_frame]; rfl
theorem shardsHeld_begun : shardsHeld (begun s e op) = shardsHeld s := by rw [begun_frame]; rfl
theorem clearBusy_begun (o : Nat) : clearBusy (begun s e op) p o = clearBusy s p o := by rw [begun_frame]; rfl
theorem canPlace_begun (t mode place : Nat) (ks : List Nat) : canPlace (begun s e op) p t mode place ks = canPlace s p t mode place ks := by
  rw [begun_frame]; rfl

end

theorem getObj_endCmd (r i st res : Nat) (s : State) (p o : Nat) : getObj (endCmd r i st res s) p o = getObj s p o := rfl

theorem getPage_endCmd (r i st res : Nat) (s : State) (p key : Nat) : getPage (endCmd r i st res s) p key = getPage s p key := rfl

theorem dies_endCmd (r i st res : Nat) (s : State) : (endCmd r i st res s).dies = s.dies := rfl

theorem mem_endCmd (r i st res : Nat) (s : State) : (endCmd r i st res s).mem = s.mem := rfl

theorem mem_modObj (p o : Nat) (g : Obj → Obj) (s : State) : (modObj p o g s).mem = s.mem := rfl

theorem free_endCmd (r i st res : Nat) (s : State) : (endCmd r i st res s).free = s.free := rfl

theorem allCmds_modObj (p o : Nat) (g : Obj → Obj) (s : State) : allCmds (modObj p o g s) = allCmds s := rfl

theorem rings_modObj (p o : Nat) (g : Obj → Obj) (s : State) : (modObj p o g s).rings = s.rings := rfl

theorem out_modObj (p o : Nat) (g : Obj → Obj) (s : State) : (modObj p o g s).out = s.out := rfl

theorem rings_modDie (d : Nat) (g : Die → Die) (s : State) : (modDie d g s).rings = s.rings := rfl

theorem out_modDie (d : Nat) (g : Die → Die) (s : State) : (modDie d g s).out = s.out := rfl

theorem free_modObj (p o : Nat) (g : Obj → Obj) (s : State) : (modObj p o g s).free = s.free := rfl

theorem dies_modObj (p o : Nat) (g : Obj → Obj) (s : State) : (modObj p o g s).dies = s.dies := rfl

/-- A command whose mover takes it at once and that hands nothing to the movers. -/
theorem runEntry_served {s : State} {e : Entry} {op : Nat} {t : State} (h : Runs s e op) (hheld : heldBack s (newCmd s e op) = false)
    (hserve : serveObj (newCmd s e op) (begun s e op) = t) (hdies : t.dies = s.dies) : runEntry e op s toMover = t := by
  rw [runEntry_begun h]
  simp only [toMover, heldBack_begun, hheld, Bool.false_eq_true, if_false, hserve, hdies, dies_begun, if_true]

theorem objCmd_passes {c : Cmd} {s : State} {bad : Cmd → Bool} {go : Cmd → Nat → State → State} (hbad : bad c = false)
    (hgate : objGate s c (opf c.ops 2 0 16) = none) : objCmd bad go c s = go c (opf c.ops 2 0 16) s := by
  simp only [objCmd, hbad, Bool.false_eq_true, if_false, hgate]

/-- Only the objects, their pages and copies, the rings and the host's memory differ. -/
def ObjectFrame (s t : State) : Prop :=
  t = { s with rings := t.rings, out := { s.out with hostMem := t.out.hostMem }, ptns := t.ptns, mem := t.mem, free := t.free }

section
variable {s t : State}

theorem ObjectFrame.of_begun (s : State) (e : Entry) (op : Nat) : ObjectFrame s (begun s e op) := by
  have h := begun_frame s e op
  unfold ObjectFrame
  conv_lhs => rw [h]
  conv_rhs => rw [h]

variable (h : ObjectFrame s t)
include h

theorem ObjectFrame.repaged {u : State} {p : Nat} (k : Repaged p t u) : ObjectFrame s u := by
  have hout : u.out = t.out := by rw [k.frame]
  unfold ObjectFrame at h ⊢
  rw [k.rings, hout]
  conv_lhs => rw [k.frame, h]

theorem ObjectFrame.modObj (p o : Nat) (g : Obj → Obj) : ObjectFrame s (modObj p o g t) := by
  unfold ObjectFrame at h ⊢
  conv_lhs => rw [Machine.modObj, modPMem_eq, modPtn, h]
  rfl

theorem ObjectFrame.endCmd (r i st res : Nat) : ObjectFrame s (endCmd r i st res t) := by
  unfold ObjectFrame at h ⊢
  conv_lhs => rw [Machine.endCmd, modCmd, modRing, h]
  rfl

theorem ObjectFrame.tiersKept (hmem : t.mem = s.mem) (hfree : t.free = s.free) :
    t = { s with rings := t.rings, out := { s.out with hostMem := t.out.hostMem }, ptns := t.ptns } := by
  unfold ObjectFrame at h
  rw [hmem, hfree] at h
  exact h

end

/-! ### OBJ_SET (07 R207, R208) -/

/-- The state with the object that an OBJ_SET describes and a copy of each of its pages. -/
def created (c : Cmd) (s : State) : State :=
  (List.range (objOfOps c).pages).foldl (fun s k => addCopy c.ptn (opf c.ops 2 0 16) (objOfOps c).home (objOfOps c).placeMode (objOfOps c).place k s)
    (modObj c.ptn (opf c.ops 2 0 16) (fun _ => objOfOps c) s)

theorem repaged_created (c : Cmd) (s : State) : Repaged c.ptn (modObj c.ptn (opf c.ops 2 0 16) (fun _ => objOfOps c) s) (created c s) :=
  (Repaged.refl ..).foldl fun h => h.addCopy

theorem created_frame (c : Cmd) (s : State) : created c s = { s with ptns := (created c s).ptns, mem := (created c s).mem, free := (created c s).free } :=
  (repaged_created c s).frame

theorem rings_created (c : Cmd) (s : State) : (created c s).rings = s.rings := by rw [created_frame]

theorem out_created (c : Cmd) (s : State) : (created c s).out = s.out := by rw [created_frame]

theorem getObj_created (c : Cmd) (s : State) (k : Nat) :
    getObj (created c s) c.ptn k = if k = opf c.ops 2 0 16 then objOfOps c else getObj s c.ptn k := by
  rw [(repaged_created c s).getObj, getObj_modObj]
  simp only [true_and]

section
variable {c : Cmd} {s : State} (hset : objSetBad c = false) (hrule : objRuleBad s c.ptn (objOfOps c) = false) (hshadow : shadowBad s c (objOfOps c) = false)
include hset hrule hshadow

section
variable (hfree : (getObj s c.ptn (opf c.ops 2 0 16)).st = .free) (hman : (objOfOps c).manifest = 0)
include hfree hman

theorem objSet_creates (hoverlap : objOverlap s c.ptn (objOfOps c) = false)
    (hroom : canPlace s c.ptn (objOfOps c).home (objOfOps c).placeMode (objOfOps c).place (List.range (objOfOps c).pages) = true)
    (hshards : shardsHeld s ≤ 1048576) : objSet c s = endCmd c.ring c.idx 0 0 (created c s) := by
  have hnone : decide ((objOfOps c).manifest ≠ 0) = false := by simp [hman]
  have hmany : decide (1048576 < shardsHeld s + ([] : List Shard).length) = false := by simpa using hshards
  simp only [objSet, hset, Bool.false_eq_true, if_false, hfree, ne_eq, not_true, false_and, reduceCtorEq, objSetGo, decide_true, hnone, Bool.false_and,
    hrule, hshadow, hoverlap, hroom, hmany, Bool.not_true, Bool.or_false, if_true]
  rfl

theorem objSet_overlaps (hoverlap : objOverlap s c.ptn (objOfOps c) = true) : objSet c s = endCmd c.ring c.idx 4 0 s := by
  simp [objSet, objSetGo, hset, hfree, hman, hrule, hshadow, hoverlap]

end

/-- The object with the fields that OBJ_SET may change taken from `x`. -/
def retouched (x y : Obj) : Obj := { y with pin := x.pin, shared := x.shared, fbKind := x.fbKind, fbDeadline := x.fbDeadline, fbShadow := x.fbShadow }

theorem objSet_changes (hvalid : (getObj s c.ptn (opf c.ops 2 0 16)).st = .valid) (hctx : (getObj s c.ptn (opf c.ops 2 0 16)).ctx = c.ctx)
    (hman : (objOfOps c).manifest = (getObj s c.ptn (opf c.ops 2 0 16)).manifest)
    (hsame : objChanged (objOfOps c) (getObj s c.ptn (opf c.ops 2 0 16)) = false) :
    objSet c s = endCmd c.ring c.idx 0 0 (modObj c.ptn (opf c.ops 2 0 16) (retouched (objOfOps c)) s) := by
  simp [objSet, objSetGo, hset, hvalid, hctx, hman, hrule, hshadow, hsame]
  rfl

end

/-- Placed copies of the pages of a list stand in their entries. -/
theorem hasCopy_addCopies {p o t mode place : Nat} (hrepl : mode = 3 → t = 0) (ks : List Nat) (s : State) (k : Nat)
    (h : k ∈ ks ∨ hasCopy (getPage s p (pageKey o k)) t = true) :
    hasCopy (getPage (ks.foldl (fun s k => addCopy p o t mode place k s) s) p (pageKey o k)) t = true := by
  induction ks generalizing s with
  | nil => exact h.resolve_left List.not_mem_nil
  | cons j ks ih =>
    refine ih (addCopy p o t mode place j s) ?_
    by_cases hj : k = j
    · rw [hj]
      exact .inr (hasCopy_addCopy hrepl)
    · rw [getPage_addCopy_ne (.inl fun h => hj (pageKey_inj h))]
      exact h.imp_left fun hk => (List.mem_cons.mp hk).resolve_left hj

/-- A replicated object's home tier is T0. -/
theorem home_of_objRule {s : State} {p : Nat} {x : Obj} (h : objRuleBad s p x = false) : x.placeMode = 3 → x.home = 0 := fun hmode => by
  have hplace : placeValid s p x.home x.placeMode x.place = true := by
    simp only [objRuleBad, Bool.or_eq_false_iff, Bool.not_eq_false'] at h
    exact h.1.1.1
  simpa [placeValid, hmode] using hplace

theorem otherPtns_modObj (p o : Nat) (g : Obj → Obj) (s : State) : OtherPtns p s (modObj p o g s) := fun _ hq => getPtn_modPtn_ne s _ hq

/-! ### A command held back (08 R250; 11 R340) -/

theorem homeDie_lt (s : State) (p : Nat) : homeDie s p < 8 := by
  have h : ∀ q ∈ qtrsOf s p, q < 32 := fun q hq => List.mem_range.mp (List.mem_of_mem_filter hq)
  unfold homeDie
  cases hl : qtrsOf s p with
  | nil => simp
  | cons q qs =>
    have := h q (by simp [hl])
    simp only [List.headD_cons]
    omega

/-- The die with an item at the end of its mover's queue. -/
def queued (i : MoverItem) (x : Die) : Die := { x with moverQ := x.moverQ ++ [i] }

/-- The item of a command that waits for its home mover as a whole. -/
def waitingItem (c : Cmd) : MoverItem := ⟨c.ctx, c.ptn, c.ring, c.idx, opf c.ops 2 0 16, 0, true⟩

theorem toMover_stopped {c : Cmd} {s : State} (hstopped : moverServes s (homeDie s c.ptn) = false)
    (hother : ∀ k, k < 8 → k ≠ homeDie s c.ptn → (getDie s k).moverQ = []) : toMover c s = modDie (homeDie s c.ptn) (queued (waitingItem c)) s := by
  have hheld : heldBack s c = true := by simp [heldBack, hstopped]
  have hidle : Idle (modDie (homeDie s c.ptn) (queued (waitingItem c)) s) := fun d hd hserves => by
    have hne : d ≠ homeDie s c.ptn := fun h => by
      have hsame : moverServes (modDie (homeDie s c.ptn) (queued (waitingItem c)) s) d = moverServes s d := rfl
      rw [hsame, h, hstopped] at hserves
      cases hserves
    rw [getDie_modDie_ne _ _ hne, hother d hd hne]
  rw [toMover, if_pos hheld]
  exact settleMovers_idle hidle

/-! ### Released objects (07 R207, R210) -/

theorem getPage_freePage (p key k : Nat) (s : State) : getPage (freePage p key s) p k = if k = key then {} else getPage s p k := by
  unfold freePage
  split
  · next h => rw [h, getPage_modPage_self]
  · next h => rw [getPage_modPage_ne _ _ (.inl h), getPage_modMem]

theorem repaged_freePages (p : Nat) (ks : Tbl PageEnt) (s : State) : Repaged p s (ks.foldl (fun s e => freePage p e.1 s) s) :=
  (Repaged.refl p s).foldl fun h => h.freePage

theorem getPage_freePages (p k : Nat) (ks : Tbl PageEnt) (s : State) :
    getPage (ks.foldl (fun s e => freePage p e.1 s) s) p k = if k ∈ ks.map (·.1) then {} else getPage s p k := by
  induction ks generalizing s with
  | nil => rfl
  | cons e ks ih =>
    rw [List.foldl_cons, ih, getPage_freePage]
    by_cases hk : k = e.1
    · simp only [hk, List.map_cons, List.mem_cons, true_or, if_true, ite_self]
    · simp only [hk, List.map_cons, List.mem_cons, false_or, if_false]

/-- A key without an entry reads as the default. -/
theorem tget_of_not_mem {α : Type} (d : α) {t : Tbl α} {n : Nat} (h : n ∉ t.map (·.1)) : tget d t n = d := by
  induction t with
  | nil => rfl
  | cons e t ih =>
    obtain ⟨hne, hrest⟩ := not_or.mp (List.mem_cons.not.mp h)
    rw [tget, if_neg (Ne.symm hne), ih hrest]

/-- The state with an object's pages released. -/
def pagesFreed (p o : Nat) (s : State) : State := ((getPtn s p).mem.pages.filter fun e => e.1 / 2 ^ 26 == o).foldl (fun s e => freePage p e.1 s) s

theorem releaseObj_eq (p o : Nat) (s : State) : releaseObj p o s = modObj p o (fun _ => {}) (pagesFreed p o s) := rfl

theorem repaged_pagesFreed (p o : Nat) (s : State) : Repaged p s (pagesFreed p o s) := repaged_freePages ..

theorem getPage_releaseObj {p o k : Nat} (hk : k < 2 ^ 26) (s : State) : getPage (releaseObj p o s) p (pageKey o k) = {} := by
  rw [releaseObj_eq, getPage_modObj, pagesFreed, getPage_freePages]
  split
  · rfl
  · next hfresh =>
    refine tget_of_not_mem _ fun hmem => hfresh ?_
    obtain ⟨e, he, hkey⟩ := List.mem_map.mp hmem
    have hobj : pageKey o k / 2 ^ 26 = o := by unfold pageKey; omega
    exact List.mem_map.mpr ⟨e, List.mem_filter.mpr ⟨he, by rw [hkey, hobj]; exact beq_self_eq_true o⟩, hkey⟩

theorem getObj_releaseObj (p o k : Nat) (s : State) : getObj (releaseObj p o s) p k = if k = o then {} else getObj s p k := by
  rw [releaseObj_eq, getObj_modObj, (repaged_pagesFreed p o s).getObj]
  simp only [true_and]

theorem otherPtns_releaseObj (p o : Nat) (s : State) : OtherPtns p s (releaseObj p o s) := fun q hq =>
  (otherPtns_modObj p o _ _ q hq).trans ((repaged_pagesFreed p o s).others q hq)

theorem rings_releaseObj (p o : Nat) (s : State) : (releaseObj p o s).rings = s.rings := (repaged_pagesFreed p o s).rings

theorem releaseObj_frame (p o : Nat) (s : State) : releaseObj p o s = { s with ptns := (releaseObj p o s).ptns, mem := (releaseObj p o s).mem } := by
  have hfree : (pagesFreed p o s).free = s.free := List.foldlRecOn (motive := fun t : State => t.free = s.free) _ _ rfl fun t ht e _ => ht
  have hframe := (repaged_pagesFreed p o s).frame
  rw [hfree] at hframe
  rw [releaseObj_eq]
  conv_lhs => rw [modObj, modPMem_eq, modPtn, hframe]
  rfl

/-! ### OBJ_QUERY (07 R210) -/

/-- The state with other rings and another host. -/
def hosted (rings : Tbl Ring) (out : Out) (s : State) : State := { s with rings := rings, out := out }

theorem begun_hosted (s : State) (e : Entry) (op : Nat) : begun s e op = hosted (begun s e op).rings (begun s e op).out s := by
  have h := begun_frame s e op
  conv_lhs => rw [h]
  conv_rhs => rw [h]
  rfl

theorem writePart_hosted (p a : Nat) (bs : List Byte) (poison : Bool) (s : State) (rings : Tbl Ring) (out : Out) :
    writePart p a bs poison (hosted rings out s) = hosted rings out (writePart p a bs poison s) := by
  unfold writePart
  rw [show objAt (hosted rings out s) p a = objAt s p a from rfl]
  cases objAt s p a <;> rfl

theorem writeRange_hosted (p a : Nat) (bs : List Byte) (poison : Bool) (s : State) (rings : Tbl Ring) (out : Out) :
    writeRange p a bs poison (hosted rings out s) = hosted rings out (writeRange p a bs poison s) := by
  unfold writeRange
  generalize rangeParts a bs.length = parts
  induction parts generalizing s with
  | nil => rfl
  | cons x parts ih => rw [List.foldl_cons, writePart_hosted, ih, List.foldl_cons]

/-- What OBJ_QUERY of command `c` writes: the entry of its object and of the pages that it names. -/
def queryBytes (c : Cmd) (s : State) : List Byte :=
  let o := opf c.ops 2 0 16
  let first := opf c.ops 3 0 26
  let x := getObj s c.ptn o
  wordsBytes (objWords x ++ (List.range (opf c.ops 4 0 13)).flatMap fun i =>
    pageWords (getPage s c.ptn (pageKey o (first + i))) (pageRO s c.ptn x (x.base + (first + i) * pageBytes)))

theorem objQuery_writes {c : Cmd} {s : State} (hn : 0 < opf c.ops 4 0 13) (hmax : opf c.ops 4 0 13 ≤ 4096) (halign : opd c.ops 6 % 64 = 0)
    (hgate : objGate s c (opf c.ops 2 0 16) = none) (hlast : opf c.ops 3 0 26 + opf c.ops 4 0 13 ≤ (getObj s c.ptn (opf c.ops 2 0 16)).pages)
    (hdest : destOk s c.ptn c.ctx (opd c.ops 6) (64 + 16 * opf c.ops 4 0 13) = true) :
    objQuery c s = endCmd c.ring c.idx 0 (opf c.ops 4 0 13) (writeRange c.ptn (opd c.ops 6) (queryBytes c s) false s) := by
  have hbad : decide (opf c.ops 4 0 13 = 0 ∨ 4096 < opf c.ops 4 0 13 ∨ opd c.ops 6 % 64 ≠ 0) = false := decide_eq_false (by omega)
  have hfits : ¬ ((getObj s c.ptn (opf c.ops 2 0 16)).pages < opf c.ops 3 0 26 + opf c.ops 4 0 13 ∨
      destOk s c.ptn c.ctx (opd c.ops 6) (64 + 16 * opf c.ops 4 0 13) = false) := by
    rw [hdest]
    simpa using hlast
  rw [objQuery, objCmd_passes hbad hgate, if_neg hfits]
  rfl

theorem queryBytes_begun (c : Cmd) (s : State) (e : Entry) (op : Nat) : queryBytes c (begun s e op) = queryBytes c s := by rw [begun_frame]; rfl

theorem destOk_begun (s : State) (e : Entry) (op p c a n : Nat) : destOk (begun s e op) p c a n = destOk s p c a n := by rw [begun_frame]; rfl

theorem writeRange_begun (p a : Nat) (bs : List Byte) (s : State) (e : Entry) (op : Nat) :
    writeRange p a bs false (begun s e op) = hosted (begun s e op).rings (begun s e op).out (writeRange p a bs false s) := by
  conv_lhs => rw [begun_hosted, writeRange_hosted]

theorem rings_hosted (rings : Tbl Ring) (out : Out) (s : State) : (hosted rings out s).rings = rings := rfl

theorem out_hosted (rings : Tbl Ring) (out : Out) (s : State) : (hosted rings out s).out = out := rfl

theorem getPtn_hosted (rings : Tbl Ring) (out : Out) (s : State) (p : Nat) : getPtn (hosted rings out s) p = getPtn s p := rfl

/-! ### Movers that work for other commands (07 R213; 08 R250) -/

/-- The objects and the command that ring `r` holds at index `idx` are as before. -/
structure Untouched (r idx : Nat) (s t : State) : Prop where
  objs : ∀ p o, getObj t p o = getObj s p o
  cmd  : getCmd t r idx = getCmd s r idx

theorem Untouched.trans {r idx : Nat} {s t u : State} (h : Untouched r idx s t) (k : Untouched r idx t u) : Untouched r idx s u :=
  ⟨fun p o => (k.objs p o).trans (h.objs p o), k.cmd.trans h.cmd⟩

/-- A page or a shard of another command. -/
def ItemApart (r idx : Nat) (i : MoverItem) : Prop := i.whole = false ∧ (i.ring = r → i.idx ≠ idx)

/-- The movers hold pages and shards of other commands only. -/
def QueuesApart (r idx : Nat) (s : State) : Prop := ∀ d, d < 8 → ∀ i ∈ (getDie s d).moverQ, ItemApart r idx i

theorem getDie_of_dies {s t : State} (h : t.dies = s.dies) (d : Nat) : getDie t d = getDie s d := by rw [getDie, h]; rfl

theorem QueuesApart.of_dies {r idx : Nat} {s t : State} (h : QueuesApart r idx s) (hdies : t.dies = s.dies) : QueuesApart r idx t :=
  fun d hd i hi => h d hd i (by rwa [getDie_of_dies hdies] at hi)

theorem headAtOnce_queue {s : State} {d : Nat} {i : MoverItem} (h : headAtOnce s d = some i) : ∃ q, (getDie s d).moverQ = i :: q := by
  unfold headAtOnce at h
  split at h
  · cases h
  · next j q hq =>
    obtain ⟨-, hji⟩ := Option.ite_none_right_eq_some.mp h
    exact ⟨q, by rw [hq, Option.some.inj hji]⟩

section
variable {r idx : Nat} {s : State} {i : MoverItem}

theorem dies_unitDone (i : MoverItem) (n : Nat) (s : State) : (unitDone i n s).dies = s.dies := by rw [unitDone_frame]

theorem unitDone_untouched (n : Nat) (h : i.ring = r → i.idx ≠ idx) : Untouched r idx s (unitDone i n s) :=
  ⟨fun p o => by rw [unitDone_frame]; rfl, getCmd_unitDone_ne n s h⟩

theorem evictPage_untouched (t : Nat) (h : i.ring = r → i.idx ≠ idx) : Untouched r idx s (evictPage i t s) ∧ (evictPage i t s).dies = s.dies := by
  have hdropped : Repaged i.ptn s (dropCopies i.ptn (pageKey i.obj i.unit) t s) := (Repaged.refl ..).dropCopies
  simp only [evictPage]
  split
  · exact ⟨Untouched.trans ⟨hdropped.getObj, getCmd_of_rings hdropped.rings ..⟩ (unitDone_untouched 1 h), (dies_unitDone ..).trans hdropped.dies⟩
  · exact ⟨unitDone_untouched 0 h, dies_unitDone ..⟩

theorem doneAtOnce_untouched (h : ItemApart r idx i) : Untouched r idx s (doneAtOnce i s) ∧ (doneAtOnce i s).dies = s.dies := by
  obtain ⟨hwhole, hne⟩ := h
  simp only [doneAtOnce, hwhole, Bool.false_eq_true, if_false]
  split
  · exact ⟨⟨fun _ _ => rfl, rfl⟩, rfl⟩
  · split
    · exact evictPage_untouched _ hne
    · exact ⟨unitDone_untouched 1 hne, dies_unitDone ..⟩

end

theorem mem_moverQ_advanceMover {d e : Nat} {s : State} {i : MoverItem} (h : i ∈ (getDie (advanceMover d s) e).moverQ) : i ∈ (getDie s e).moverQ := by
  by_cases he : e = d
  · subst he
    cases hq : (getDie s e).moverQ with
    | nil => simp [advanceMover, getDie_modDie_self, hq] at h
    | cons j q => exact List.mem_cons_of_mem _ ((moverQ_advanceMover_perm hq).subset h)
  · rwa [moverQ_advanceMover_ne s he] at h

theorem settleFuel_untouched {r idx : Nat} : ∀ (n : Nat) (s : State), QueuesApart r idx s → Untouched r idx s (settleFuel n s)
  | 0, _, _ => ⟨fun _ _ => rfl, rfl⟩
  | n + 1, s, h => by
    rw [settleFuel]
    split
    · exact ⟨fun _ _ => rfl, rfl⟩
    · next d hd =>
      have hsel := List.find?_some hd
      simp only [Bool.and_eq_true] at hsel
      obtain ⟨i, hhead⟩ := Option.isSome_iff_exists.mp hsel.2
      obtain ⟨q, hq⟩ := headAtOnce_queue hhead
      obtain ⟨hdone, hdies⟩ := doneAtOnce_untouched (s := s) (h d (List.mem_range.mp (List.mem_of_find?_eq_some hd)) i (by rw [hq]; exact List.mem_cons_self))
      have hadv : Untouched r idx s (advanceMover d (doneAtOnce i s)) := hdone.trans ⟨fun _ _ => rfl, rfl⟩
      rw [hhead]
      refine hadv.trans (settleFuel_untouched n _ fun e he j hj => h e he j ?_)
      rw [← getDie_of_dies hdies]
      exact mem_moverQ_advanceMover hj

/-- The fuel that the movers' items give. -/
def itemsFuel (s : State) : Nat := (((List.range 8).map fun d => ((getDie s d).moverQ.map (itemFuel s)).sum).sum)

theorem settleMovers_eq (s : State) :
    settleMovers s = ((List.range 8).filter (moverServes s)).foldl (fun s d => markTransit d s) (settleFuel (itemsFuel s) s) := rfl

theorem settleMovers_untouched {r idx : Nat} {s : State} (h : QueuesApart r idx s) : Untouched r idx s (settleMovers s) := by
  obtain ⟨hframe, hobjs⟩ := foldl_markTransit_marks ((List.range 8).filter (moverServes s)) (settleFuel (itemsFuel s) s)
  have hrings : (((List.range 8).filter (moverServes s)).foldl (fun s d => markTransit d s) (settleFuel (itemsFuel s) s)).rings =
      (settleFuel (itemsFuel s) s).rings := by rw [hframe]
  rw [settleMovers_eq]
  exact (settleFuel_untouched _ s h).trans ⟨hobjs, getCmd_of_rings hrings r idx⟩

/-! ### OBJ_CLEAR (07 R207, R210) -/

theorem repaged_dropTransit (i : MoverItem) (s : State) : Repaged i.ptn s (dropTransit i s) :=
  ⟨rfl, fun q hq => by rw [dropTransit, modPMem_eq, getPtn_modPtn_ne _ _ hq], by rw [dropTransit, modPMem_eq, getPtn_modPtn_self], .refl _⟩

theorem dropTransits_untouched {r idx : Nat} (q : List MoverItem) (s : State) :
    Untouched r idx s (q.foldl (fun s i => dropTransit i s) s) ∧ (q.foldl (fun s i => dropTransit i s) s).dies = s.dies :=
  List.foldlRecOn (motive := fun t : State => Untouched r idx s t ∧ t.dies = s.dies) _ _ ⟨⟨fun _ _ => rfl, rfl⟩, rfl⟩ fun t ⟨ht, hdies⟩ i _ =>
    have h := repaged_dropTransit i t
    ⟨ht.trans ⟨h.getObj, getCmd_of_rings h.rings ..⟩, h.dies.trans hdies⟩

/-- Items taken off the movers leave the others and the commands as they are. -/
theorem takeItems_untouched {r idx : Nat} (sel : MoverItem → Bool) {s : State} (h : QueuesApart r idx s) :
    Untouched r idx s (takeItems sel s) ∧ QueuesApart r idx (takeItems sel s) := by
  refine List.foldlRecOn (motive := fun t => Untouched r idx s t ∧ QueuesApart r idx t) _ _ ⟨⟨fun _ _ => rfl, rfl⟩, h⟩ fun t ⟨ht, hq⟩ d _ => ?_
  obtain ⟨hdrop, hdies⟩ := dropTransits_untouched (r := r) (idx := idx) ((getDie t d).moverQ.filter sel)
    (modDie d (fun x => { x with moverQ := (getDie t d).moverQ.filter fun i => !sel i }) t)
  have hfiltered : Untouched r idx t (modDie d (fun x => { x with moverQ := (getDie t d).moverQ.filter fun i => !sel i }) t) := ⟨fun _ _ => rfl, rfl⟩
  refine ⟨ht.trans (hfiltered.trans hdrop), fun e he i hi => ?_⟩
  rw [getDie_of_dies hdies, getDie_modDie] at hi
  split at hi
  · next hed => exact hq e he i (hed ▸ List.mem_of_mem_filter hi)
  · exact hq e he i hi

theorem endCmds_untouched {r idx : Nat} {f : Cmd → Nat} (ks : List Cmd) (s : State) (h : ∀ k ∈ ks, k.ring = r → k.idx ≠ idx) :
    Untouched r idx s (ks.foldl (fun s k => endCmd k.ring k.idx 9 (f k) s) s) ∧ (ks.foldl (fun s k => endCmd k.ring k.idx 9 (f k) s) s).dies = s.dies :=
  List.foldlRecOn (motive := fun t : State => Untouched r idx s t ∧ t.dies = s.dies) _ _ ⟨⟨fun _ _ => rfl, rfl⟩, rfl⟩ fun t ⟨ht, hdies⟩ k hk =>
    ⟨ht.trans ⟨fun _ _ => rfl, by
      rw [endCmd, getCmd_modCmd (sameEntry_end ..), if_neg fun hsame => h k hk hsame.1.symm hsame.2.symm]⟩, hdies⟩

/-- Ending an object's mover commands leaves a command of another kind as it is. -/
theorem cancelObj_untouched {r idx : Nat} (p o : Nat) {s : State} (hq : QueuesApart r idx s)
    (h : ∀ k ∈ allCmds s, k.ring = r → k.idx = idx → k.opcode < 0x43) : Untouched r idx s (cancelObj p o s) ∧ QueuesApart r idx (cancelObj p o s) := by
  have hmine : ∀ k ∈ (allCmds s).filter (fun k => k.ptn == p && decide (k.phase ≠ .done) && decide (0x43 ≤ k.opcode) && decide (k.opcode ≤ 0x46) &&
      opf k.ops 2 0 16 == o), k.ring = r → k.idx ≠ idx := fun k hk hring hidx => by
    obtain ⟨hmem, hsel⟩ := List.mem_filter.mp hk
    have hlow := h k hmem hring hidx
    simp only [Bool.and_eq_true, decide_eq_true_eq] at hsel
    omega
  obtain ⟨hended, hdies⟩ := endCmds_untouched (f := fun k => k.progress) _ s hmine
  obtain ⟨htaken, hqueues⟩ := takeItems_untouched (fun i => i.ptn == p && i.obj == o && !i.whole) (hq.of_dies hdies)
  exact ⟨hended.trans htaken, hqueues⟩

/-- The object whose OBJ_CLEAR has begun. -/
def clearing (x : Obj) : Obj := { x with st := .clearing }

/-- The command that runs on. -/
def onward (k : Cmd) : Cmd := { k with phase := .running }

theorem objClear_clears {c : Cmd} {s : State} (hgate : objGate s c (opf c.ops 2 0 16) = none) (hbusy : clearBusy s c.ptn (opf c.ops 2 0 16) = false) :
    objClear c s = modCmd c.ring c.idx onward (cancelObj c.ptn (opf c.ops 2 0 16) (modObj c.ptn (opf c.ops 2 0 16) clearing s)) := by
  rw [objClear, objCmd_passes rfl hgate, if_neg (by rw [hbusy]; exact Bool.false_ne_true)]
  rfl

theorem sameEntry_onward : SameEntry onward := ⟨fun _ => rfl, fun _ => rfl, fun _ => rfl, fun _ => rfl, fun _ => rfl⟩

theorem dies_modCmd (r i : Nat) (g : Cmd → Cmd) (s : State) : (modCmd r i g s).dies = s.dies := rfl

theorem getObj_modCmd (r i : Nat) (g : Cmd → Cmd) (s : State) (p o : Nat) : getObj (modCmd r i g s) p o = getObj s p o := rfl

/-- A command whose mover takes it at once: what the movers then do at once for other commands does not touch it. -/
theorem runEntry_settled {s : State} {e : Entry} {op r idx : Nat} {u : State} (h : Runs s e op) (hheld : heldBack s (newCmd s e op) = false)
    (hserve : serveObj (newCmd s e op) (begun s e op) = u) (hapart : QueuesApart r idx u) :
    ∃ t, runEntry e op s toMover = t ∧ Untouched r idx u t := by
  rw [runEntry_begun h]
  simp only [toMover, heldBack_begun, hheld, Bool.false_eq_true, if_false, hserve]
  by_cases hdies : u.dies = (begun s e op).dies
  · exact ⟨u, if_pos hdies, fun _ _ => rfl, rfl⟩
  · exact ⟨settleMovers u, if_neg hdies, settleMovers_untouched hapart⟩

theorem exec_objSet {s t : State} {e : Entry} (h : runEntry e 0x40 s toMover = t) : exec (.objSet e) s = .next t := congrArg Host.Outcome.next h

theorem exec_objClear {s t : State} {e : Entry} (h : runEntry e 0x41 s toMover = t) : exec (.objClear e) s = .next t := congrArg Host.Outcome.next h

theorem exec_objQuery {s t : State} {e : Entry} (h : runEntry e 0x42 s toMover = t) : exec (.objQuery e) s = .next t := congrArg Host.Outcome.next h

/-- Settles O18: OBJ_SET and OBJ_QUERY by what the served command computes, OBJ_CLEAR since what the movers do next leaves the objects as they are. -/
theorem objectCommandsActOnTheirEntry : Obligations.ObjectCommandsActOnTheirEntry := by
  refine ⟨⟨?create, ?change, ?overlap, ?held⟩, ?clear, ?cleared, ?query⟩
  case create =>
    intro e s h c o x hheld hset hrule hfree hman hshadow hoverlap hroom hshards
    have hserve := objSet_creates (c := c) (s := begun s e 0x40) hset (by rw [objRuleBad_begun]; exact hrule) (by rw [shadowBad_begun]; exact hshadow)
      (by rw [getObj_begun]; exact hfree) hman (by rw [objOverlap_begun]; exact hoverlap) (by rw [canPlace_begun]; exact hroom)
      (by rw [shardsHeld_begun]; exact hshards)
    have hpages := repaged_created c (begun s e 0x40)
    have hstarted : Started s (created c (begun s e 0x40)) e c := started_of_rings (started_begun s e 0x40) (rings_created ..) (out_created ..)
    have hdies : (endCmd c.ring c.idx 0 0 (created c (begun s e 0x40))).dies = s.dies := by rw [dies_endCmd, hpages.dies, dies_modObj, dies_begun]
    have hended := ended_of_started h hstarted 0 0
    have hexec := exec_objSet (runEntry_served h hheld hserve hdies)
    refine ⟨_, hexec, ?_, hended, ?_, fun k hk => ?_, fun q hq => ?_, fun k hk => ?_⟩
    · exact (((ObjectFrame.of_begun s e 0x40).modObj ..).repaged hpages).endCmd ..
    · rw [getObj_endCmd, getObj_created]
      exact if_pos rfl
    · rw [getObj_endCmd, getObj_created]
      exact (if_neg hk).trans (getObj_begun ..)
    · rw [getPtn_endCmd, hpages.others q hq, otherPtns_modObj _ _ _ _ q hq, getPtn_begun]
    · rw [getPage_endCmd]
      exact hasCopy_addCopies (home_of_objRule hrule) _ _ k (.inl (List.mem_range.mpr hk))
  case change =>
    intro e s h c o x y hheld hset hrule hvalid hctx hman hshadow hsame
    have hserve := objSet_changes (c := c) (s := begun s e 0x40) hset (by rw [objRuleBad_begun]; exact hrule) (by rw [shadowBad_begun]; exact hshadow)
      (by rw [getObj_begun]; exact hvalid) (by rw [getObj_begun]; exact hctx) (by rw [getObj_begun]; exact hman) (by rw [getObj_begun]; exact hsame)
    have hstarted : Started s (modObj c.ptn (opf c.ops 2 0 16) (retouched (objOfOps c)) (begun s e 0x40)) e c :=
      started_of_rings (started_begun s e 0x40) (rings_modObj ..) (out_modObj ..)
    have hended := ended_of_started h hstarted 0 0
    have hexec := exec_objSet (runEntry_served h hheld hserve (by simp only [dies_endCmd, dies_modObj, dies_begun]))
    refine ⟨_, hexec, ?_, hended, fun q hq => ?_, fun k hk => ?_, ?_⟩
    · refine (((ObjectFrame.of_begun s e 0x40).modObj ..).endCmd ..).tiersKept ?_ ?_
      · rw [mem_endCmd, mem_modObj, mem_begun]
      · rw [free_endCmd, free_modObj, free_begun]
    · rw [getPtn_endCmd, otherPtns_modObj _ _ _ _ q hq, getPtn_begun]
    · rw [getObj_endCmd, getObj_modObj, if_neg fun h => hk h.2, getObj_begun]
    · rw [getObj_endCmd, getObj_modObj, if_pos ⟨rfl, rfl⟩, getObj_begun]
      rfl
  case overlap =>
    intro e s h c o x hheld hset hrule hfree hman hshadow hoverlap
    have hserve := objSet_overlaps (c := c) (s := begun s e 0x40) hset (by rw [objRuleBad_begun]; exact hrule) (by rw [shadowBad_begun]; exact hshadow)
      (by rw [getObj_begun]; exact hfree) hman (by rw [objOverlap_begun]; exact hoverlap)
    have hexec := exec_objSet (runEntry_served h hheld hserve (by rw [dies_endCmd, dies_begun]))
    exact ⟨_, hexec, only_ends h 4 0 rfl⟩
  case held =>
    intro e s h c d hstopped hother
    have hmover := toMover_stopped (c := c) (s := begun s e 0x40) (by rw [homeDie_begun, moverServes_begun]; exact hstopped) fun k hk hne => by
      rw [getDie_begun]; exact hother k hk (by rw [homeDie_begun] at hne; exact hne)
    rw [homeDie_begun] at hmover
    have hexec := exec_objSet ((runEntry_begun h toMover).trans hmover)
    have hstarted : Started s (modDie (homeDie s c.ptn) (queued (waitingItem c)) (begun s e 0x40)) e c :=
      started_of_rings (started_begun s e 0x40) (rings_modDie ..) (out_modDie ..)
    refine ⟨_, hexec, ?_, hstarted, ?_, fun k hk => ?_⟩
    · conv_lhs => rw [begun_frame]
      conv_rhs => rw [begun_frame]
      rfl
    · rw [getDie_modDie_self, getDie_begun]
      rfl
    · rw [getDie_modDie_ne _ _ hk, getDie_begun]
  case clear =>
    intro e s h c o hheld hgate hbusy hapart
    have hclear : objClear c (begun s e 0x41) = modCmd c.ring c.idx onward (cancelObj c.ptn o (modObj c.ptn o clearing (begun s e 0x41))) :=
      objClear_clears (by rw [objGate_begun]; exact hgate) (by rw [clearBusy_begun]; exact hbusy)
    obtain ⟨hcancelled, hqueues⟩ := cancelObj_untouched (r := c.ring) (idx := c.idx) c.ptn o (s := modObj c.ptn o clearing (begun s e 0x41))
      (QueuesApart.of_dies hapart ((dies_modObj ..).trans (dies_begun ..)))
      (fun k hk hring hidx => by
        rw [allCmds_modObj] at hk
        rw [started_unique h hk hring hidx]
        exact (by decide : 0x41 < 0x43))
    have hcmd : getCmd (objClear c (begun s e 0x41)) c.ring c.idx = some (onward c) := by
      rw [hclear, getCmd_modCmd sameEntry_onward, if_pos ⟨rfl, rfl⟩, hcancelled.cmd, getCmd_of_rings (rings_modObj ..)]
      exact congrArg (Option.map onward) (getCmd_of_started h (started_begun s e 0x41) rfl rfl)
    have hobjs (k : Nat) : getObj (objClear c (begun s e 0x41)) c.ptn k = if k = o then clearing (getObj s c.ptn o) else getObj s c.ptn k := by
      rw [hclear, getObj_modCmd, hcancelled.objs, getObj_modObj, getObj_begun, getObj_begun]
      simp only [true_and]
    have hapart' : QueuesApart c.ring c.idx (objClear c (begun s e 0x41)) := by
      rw [hclear]
      exact hqueues.of_dies (dies_modCmd ..)
    obtain ⟨t, ht, hkept⟩ := runEntry_settled (u := objClear c (begun s e 0x41)) h hheld rfl hapart'
    refine ⟨t, exec_objClear ht, ?_, hkept.cmd.trans hcmd, fun k hk => ?_⟩
    · rw [hkept.objs, hobjs]
      exact if_pos rfl
    · rw [hkept.objs, hobjs]
      exact if_neg hk
  case cleared =>
    intro p o s hclearing
    have hkeeps (t : State) (r : Tbl Ring) (ht : t = { releaseObj p.val o.val s with rings := r }) :
        t = { s with ptns := t.ptns, mem := t.mem, rings := t.rings } ∧ OtherPtns p.val s t ∧ getObj t p.val o.val = {} ∧
          (∀ k, k ≠ o.val → getObj t p.val k = getObj s p.val k) ∧ ∀ k, k < 2 ^ 26 → getPage t p.val (pageKey o.val k) = {} := by
      subst ht
      refine ⟨?_, otherPtns_releaseObj p.val o.val s, ?_, fun k hk => ?_, fun k hk => getPage_releaseObj hk s⟩
      · conv_lhs => rw [releaseObj_frame]
      · exact (getObj_releaseObj ..).trans (if_pos rfl)
      · exact (getObj_releaseObj ..).trans (if_neg hk)
    cases hfind : (allCmds s).find? fun k => k.ptn == p.val && k.opcode == 0x41 && decide (k.phase = .running) && opf k.ops 2 0 16 == o.val with
    | none =>
      obtain ⟨hframe, hothers, hfree, hobjs, hpages⟩ := hkeeps (releaseObj p.val o.val s) _ rfl
      refine ⟨releaseObj p.val o.val s, ?_, hframe, hothers, hfree, hobjs, hpages, fun c hc => nomatch hc⟩
      show execObjClearDone p o s = _
      simp only [execObjClearDone, hclearing, if_true, hfind]
    | some c =>
      obtain ⟨hframe, hothers, hfree, hobjs, hpages⟩ := hkeeps (endCmd c.ring c.idx 0 (getObj s p.val o.val).pages (releaseObj p.val o.val s)) _ rfl
      refine ⟨_, ?_, hframe, hothers, hfree, hobjs, hpages, fun k hk hcmd => ?_⟩
      · show execObjClearDone p o s = _
        simp only [execObjClearDone, hclearing, if_true, hfind]
      · obtain rfl := Option.some.inj hk
        rw [endCmd, getCmd_modCmd (sameEntry_end ..), if_pos ⟨rfl, rfl⟩, getCmd_of_rings (rings_releaseObj ..), hcmd]
        rfl
  case query =>
    intro e s h c o n first x hheld hn hmax halign hgate hlast hdest
    have hserve := objQuery_writes (c := c) (s := begun s e 0x42) hn hmax halign (by rw [objGate_begun]; exact hgate) (by rw [getObj_begun]; exact hlast)
      (by rw [destOk_begun]; exact hdest)
    have hwritten := rangeWritten_writeRange c.ptn (opd c.ops 6) (queryBytes c s) false s
    rw [queryBytes_begun, writeRange_begun] at hserve
    have hstarted : Started s (hosted (begun s e 0x42).rings (begun s e 0x42).out (writeRange c.ptn (opd c.ops 6) (queryBytes c s) false s)) e c :=
      started_of_rings (started_begun s e 0x42) (rings_hosted ..) (out_hosted ..)
    have hended := ended_of_started h hstarted 0 n
    have hexec := exec_objQuery (runEntry_served h hheld hserve (by rw [dies_endCmd, hosted, hwritten.frame]))
    refine ⟨_, hexec, ?_, hended, fun q hq => ?_, ?_⟩
    · rw [hosted, hwritten.frame, begun_frame]
      rfl
    · rw [getPtn_endCmd, getPtn_hosted, hwritten.others q hq]
    · show _ = (writeRange c.ptn (opd c.ops 6) (queryBytes c s) false s).mem
      rw [mem_endCmd]
      rfl

end Sys2Proof.Proofs
end

section
/-! PROOFS. O19: MIGRATE, INTAKE and VERIFY hand their units to the movers, and idle movers do an EVICT at once (07 R213, R451). -/
namespace Sys2Proof.Proofs
open Sys2Proof Sys2Proof.Machine Sys2Proof.Safety

/-! ### Units dealt to the movers -/

/-- The item of one page or shard of a command. -/
def unitItem (c : Cmd) (o u : Nat) : MoverItem := ⟨c.ctx, c.ptn, c.ring, c.idx, o, u, false⟩

/-- The command that runs with units to do. -/
def withTodo (todo : List Nat) (k : Cmd) : Cmd := { k with phase := .running, todo := todo }

theorem moverQ_putItems (is : List (Nat × MoverItem)) (s : State) (d : Nat) :
    (getDie (putItems is s) d).moverQ = (getDie s d).moverQ ++ (is.filter fun x => x.1 == d).map (·.2) := by
  induction is generalizing s with
  | nil => simp [putItems]
  | cons x is ih =>
    have hstep : putItems (x :: is) s = putItems is (modDie x.1 (queued x.2) s) := rfl
    rw [hstep, ih, getDie_modDie]
    by_cases hd : d = x.1
    · subst hd
      simp [queued]
    · simp [hd, Ne.symm hd]

theorem putItems_frame (is : List (Nat × MoverItem)) (s : State) : putItems is s = { s with dies := (putItems is s).dies } :=
  List.foldlRecOn (motive := fun t : State => t = { s with dies := t.dies }) _ _ rfl fun t ht x _ => by
    conv_lhs => rw [modDie, ht]
    rfl

/-- The state in which a command's units, each with its die, are on the movers. -/
def dealt (c : Cmd) (o : Nat) (us : List (Nat × Nat)) (s : State) : State :=
  putItems (us.map fun u => (u.1, unitItem c o u.2)) (modCmd c.ring c.idx (withTodo (us.map (·.2))) s)

theorem dealUnits_eq {us : List (Nat × Nat)} (h : us ≠ []) (c : Cmd) (o : Nat) (s : State) : dealUnits c o us s = dealt c o us s := by
  simp only [dealUnits, List.isEmpty_iff, h, if_false]
  rfl

theorem moverQ_dealt (c : Cmd) (o : Nat) (us : List (Nat × Nat)) (s : State) (d : Nat) :
    (getDie (dealt c o us s) d).moverQ = (getDie s d).moverQ ++ (us.filter fun u => u.1 == d).map fun u => unitItem c o u.2 := by
  rw [dealt, moverQ_putItems, List.filter_map, List.map_map]
  rfl

theorem dealt_frame (c : Cmd) (o : Nat) (us : List (Nat × Nat)) (s : State) :
    dealt c o us s = { s with rings := (modCmd c.ring c.idx (withTodo (us.map (·.2))) s).rings, dies := (dealt c o us s).dies } := by
  conv_lhs => rw [dealt, putItems_frame]
  rfl

section
variable {s t : State} {e : Entry} {op : Nat} (h : Runs s e op)
include h

theorem started_dealt (hrings : t.rings = (begun s e op).rings) (hout : t.out = (begun s e op).out) (o : Nat) (us : List (Nat × Nat)) :
    Started s (dealt (newCmd s e op) o us t) e (withTodo (us.map (·.2)) (newCmd s e op)) := by
  have hstarted : Started s t e (newCmd s e op) := started_of_rings (started_begun s e op) hrings hout
  refine started_of_rings (started_modCmd h hstarted rfl rfl (withTodo (us.map (·.2)))) ?_ ?_
  · rw [dealt_frame]; rfl
  · rw [dealt_frame]; rfl

end

/-- A head whose work takes time stays at the head of its queue. -/
theorem headAtOnce_waits {s : State} {d : Nat} (h : ∀ i ∈ (getDie s d).moverQ, i.whole = false ∧ ∃ k, itemCmd s i = some k ∧ k.opcode ≠ 0x44 ∧
      (k.opcode = 0x43 → placedAs s i.ptn (migTarget k).1 (migTarget k).2.1 (migTarget k).2.2 i.unit (getPage s i.ptn (pageKey i.obj i.unit)) = false)) :
    headAtOnce s d = none := by
  unfold headAtOnce
  split
  · rfl
  · next i q hq =>
    obtain ⟨hwhole, k, hk, hevict, hplaced⟩ := h i (by rw [hq]; exact List.mem_cons_self)
    simp only [hk, hwhole, Bool.false_eq_true, if_false]
    by_cases hop : k.opcode = 0x43
    · simp [hop, hplaced hop]
    · simp [hop, hevict]

/-- A command that deals units which take time: the movers only mark the pages that they copy. -/
theorem runEntry_dealt {s t : State} {e : Entry} {op : Nat} (h : Runs s e op) (hheld : heldBack s (newCmd s e op) = false)
    (hserve : serveObj (newCmd s e op) (begun s e op) = t) (hrest : AtRest t) :
    ∃ u, runEntry e op s toMover = u ∧ u = { t with ptns := u.ptns } ∧ ∀ p o, getObj u p o = getObj t p o := by
  rw [runEntry_begun h]
  simp only [toMover, heldBack_begun, hheld, Bool.false_eq_true, if_false, hserve]
  by_cases hdies : t.dies = (begun s e op).dies
  · exact ⟨t, if_pos hdies, rfl, fun _ _ => rfl⟩
  · exact ⟨markTransits t, (if_neg hdies).trans (settleMovers_atRest hrest), markTransits_marks t⟩

section
variable {s t : State} {e : Entry} {op o : Nat} {us : List (Nat × Nat)} (h : Runs s e op) (hidle : ∀ d, d < 8 → (getDie s d).moverQ = [])
  (hmarked : t = { begun s e op with ptns := t.ptns })

include hidle hmarked in
theorem moverQ_dealt_idle {d : Nat} (hd : d < 8) :
    (getDie (dealt (newCmd s e op) o us t) d).moverQ = (us.filter fun u => u.1 == d).map fun u => unitItem (newCmd s e op) o u.2 := by
  have hdies : t.dies = s.dies := by rw [hmarked]; exact dies_begun ..
  rw [moverQ_dealt, getDie_of_dies hdies, hidle d hd, List.nil_append]

include h hmarked in
theorem started_dealt_marked : Started s (dealt (newCmd s e op) o us t) e (withTodo (us.map (·.2)) (newCmd s e op)) :=
  started_dealt h (by rw [hmarked]) (by rw [hmarked]) o us

include h hidle hmarked

theorem atRest_dealt (hevict : op ≠ 0x44) (hplaced : op = 0x43 → ∀ u ∈ us, placedAs (dealt (newCmd s e op) o us t) (newCmd s e op).ptn
      (migTarget (newCmd s e op)).1 (migTarget (newCmd s e op)).2.1 (migTarget (newCmd s e op)).2.2 u.2
      (getPage (dealt (newCmd s e op) o us t) (newCmd s e op).ptn (pageKey o u.2)) = false) : AtRest (dealt (newCmd s e op) o us t) := fun d hd _ => by
  refine headAtOnce_waits fun i hi => ?_
  rw [moverQ_dealt_idle hidle hmarked hd] at hi
  obtain ⟨u, hu, rfl⟩ := List.mem_map.mp hi
  have hk := getCmd_of_started h (started_dealt_marked (o := o) (us := us) h hmarked) rfl rfl
  exact ⟨rfl, _, hk, hevict, fun hop => hplaced hop u (List.mem_of_mem_filter hu)⟩

/-- A command hands its units to idle movers, and runs. -/
theorem runEntry_deals (hheld : heldBack s (newCmd s e op) = false) (hserve : serveObj (newCmd s e op) (begun s e op) = dealt (newCmd s e op) o us t)
    (hrest : AtRest (dealt (newCmd s e op) o us t)) :
    ∃ u, runEntry e op s toMover = u ∧ u = { s with rings := u.rings, out := { s.out with hostMem := u.out.hostMem }, dies := u.dies, ptns := u.ptns } ∧
      Started s u e (withTodo (us.map (·.2)) (newCmd s e op)) ∧ (∀ p x, getObj u p x = getObj t p x) ∧
      ∀ d, d < 8 → (getDie u d).moverQ = (us.filter fun u => u.1 == d).map fun u => unitItem (newCmd s e op) o u.2 := by
  obtain ⟨u, hrun, hframe, hobjs⟩ := runEntry_dealt h hheld hserve hrest
  refine ⟨u, hrun, ?_, started_of_rings (started_dealt_marked h hmarked) (by rw [hframe]) (by rw [hframe]), fun p x => ?_, fun d hd => ?_⟩
  · rw [hframe, dealt_frame, hmarked, begun_frame]
  · rw [hobjs, dealt_frame]
    rfl
  · have hdies := congrArg State.dies hframe
    rw [getDie_of_dies (s := dealt (newCmd s e op) o us t) hdies, moverQ_dealt_idle hidle hmarked hd]

end

/-! ### MIGRATE, INTAKE and VERIFY -/

/-- The die of the mover that copies a page. -/
def copyDie (s : State) (c : Cmd) (k : Nat) : Nat :=
  match readCopy s c.ptn (getPage s c.ptn (pageKey (opf c.ops 2 0 16) k)) none with
  | some x => dieOfCopy x.1 x.2
  | none => homeDie s c.ptn

theorem pagesOf_ne_nil {c : Cmd} (h : rangeBad c = false) : pagesOf c ≠ [] := by
  simp only [rangeBad, decide_eq_false_iff_not, not_or] at h
  obtain ⟨hsome, -⟩ := h
  simp [pagesOf, hsome]

theorem migrate_deals {c : Cmd} {s : State} (hrange : rangeBad c = false)
    (hplace : placeValid s c.ptn (migTarget c).1 (migTarget c).2.1 (migTarget c).2.2 = true) (hgate : objGate s c (opf c.ops 2 0 16) = none)
    (hlast : opf c.ops 3 0 26 + opf c.ops 4 0 27 ≤ (getObj s c.ptn (opf c.ops 2 0 16)).pages) :
    migrate c s = dealt c (opf c.ops 2 0 16) ((pagesOf c).map fun k => (copyDie s c k, k)) s := by
  have hbad : (rangeBad c || !placeValid s c.ptn (migTarget c).1 (migTarget c).2.1 (migTarget c).2.2) = false := by rw [hrange, hplace]; rfl
  simp only [migrate]
  rw [objCmd_passes hbad hgate, if_neg (not_lt.mpr hlast)]
  exact dealUnits_eq (by simpa using pagesOf_ne_nil hrange) ..

theorem verify_deals {c : Cmd} {s : State} (hgate : objGate s c (opf c.ops 2 0 16) = none) (hsome : (getObj s c.ptn (opf c.ops 2 0 16)).shards ≠ []) :
    verify c s = dealt c (opf c.ops 2 0 16) ((List.range (getObj s c.ptn (opf c.ops 2 0 16)).shards.length).map fun i => (i % 8, i)) s := by
  have hlen : (getObj s c.ptn (opf c.ops 2 0 16)).shards.length ≠ 0 := by simpa using hsome
  rw [verify, objCmd_passes rfl hgate]
  simp only [hlen, if_false]
  exact dealUnits_eq (by simpa using hlen) ..

/-- The shard whose data has not arrived. -/
def awaited (h : Shard) : Shard := { h with st := .pending }

/-- The state with shards of an object PENDING. -/
def awaiting (p o : Nat) (is : List Nat) (s : State) : State := is.foldl (fun s i => modShard p o i awaited s) s

/-- The shards that an INTAKE names. -/
def shardsOf (c : Cmd) : List Nat := (List.range (opf c.ops 4 0 17)).map fun i => opf c.ops 3 0 16 + i

theorem intake_deals {c : Cmd} {s : State} (halign : opd c.ops 6 % 4096 = 0) (hsome : 0 < opf c.ops 4 0 17) (hgate : objGate s c (opf c.ops 2 0 16) = none)
    (hlast : opf c.ops 3 0 16 + opf c.ops 4 0 17 ≤ (getObj s c.ptn (opf c.ops 2 0 16)).shards.length)
    (hopen : ∀ i ∈ shardsOf c, (getObj s c.ptn (opf c.ops 2 0 16)).shards[i]?.map (fun h => h.st) ≠ some .verified) :
    intake c s = dealt c (opf c.ops 2 0 16) ((shardsOf c).map fun i => (i % 8, i)) (awaiting c.ptn (opf c.ops 2 0 16) (shardsOf c) s) := by
  have hbad : decide (opd c.ops 6 % 4096 ≠ 0 ∨ opf c.ops 4 0 17 = 0) = false := decide_eq_false (by omega)
  have hnone : (shardsOf c).any (fun i => match (getObj s c.ptn (opf c.ops 2 0 16)).shards[i]? with
      | some h => decide (h.st = .verified)
      | none => false) = false := by
    refine List.any_eq_false.mpr fun i hi => ?_
    have hst := hopen i hi
    cases hget : (getObj s c.ptn (opf c.ops 2 0 16)).shards[i]? with
    | none => simp
    | some h =>
      rw [hget] at hst
      simpa using hst
  have hunits : ((shardsOf c).map fun i => (i % 8, i)) ≠ [] := by simp [shardsOf]; omega
  simp only [intake]
  rw [objCmd_passes hbad hgate, if_neg (not_lt.mpr hlast)]
  refine (if_neg ?_).trans (dealUnits_eq hunits ..)
  rw [Bool.not_eq_true]
  exact hnone

theorem getShard_modShard (p o i j : Nat) (g : Shard → Shard) (s : State) :
    getShard (modShard p o i g s) p o j = (getShard s p o j).map fun h => if j = i then g h else h := by
  simp only [getShard, modShard, getObj, modObj, modPMem_eq, getPtn_modPtn_self, tget_tmod, if_true, List.getElem?_map, getElem?_range_zip]
  cases (tget {} (getPtn s p).mem.objs o).shards[j]? <;> simp

/-- Every shard that an INTAKE names is PENDING. -/
theorem awaiting_pending {p o i : Nat} (is : List Nat) (s : State) (hsome : (getShard s p o i).isSome = true)
    (h : i ∈ is ∨ (getShard s p o i).map (fun h => h.st) = some .pending) : (getShard (awaiting p o is s) p o i).map (fun h => h.st) = some .pending := by
  induction is generalizing s with
  | nil => exact h.resolve_left List.not_mem_nil
  | cons j is ih =>
    obtain ⟨x, hx⟩ := Option.isSome_iff_exists.mp hsome
    refine ih (modShard p o j awaited s) ?_ ?_
    · rw [getShard_modShard, hx]; rfl
    · rw [getShard_modShard, hx]
      by_cases hj : i = j
      · simp [hj, awaited]
      · rw [hx] at h
        simpa [hj] using h

theorem awaiting_frame (p o : Nat) (is : List Nat) (s : State) : awaiting p o is s = { s with ptns := (awaiting p o is s).ptns } :=
  List.foldlRecOn (motive := fun t : State => t = { s with ptns := t.ptns }) _ _ rfl fun t ht i _ => by
    conv_lhs => rw [modShard, modObj, modPMem_eq, modPtn, ht]
    rfl

/-- Units dealt with their dies are the units. -/
theorem units_dealt (f : Nat → Nat) (ks : List Nat) : (ks.map fun k => (f k, k)).map (·.2) = ks := by simp [Function.comp_def]

theorem copyDie_begun (s : State) (e : Entry) (op : Nat) (c : Cmd) (k : Nat) : copyDie (begun s e op) c k = copyDie s c k := by rw [begun_frame]; rfl

theorem placeValid_begun (s : State) (e : Entry) (op p t mode place : Nat) : placeValid (begun s e op) p t mode place = placeValid s p t mode place := by
  rw [begun_frame]; rfl

theorem exec_migrate {s t : State} {e : Entry} (h : runEntry e 0x43 s toMover = t) : exec (.migrate e) s = .next t := congrArg Host.Outcome.next h

theorem exec_intake {s t : State} {e : Entry} (h : runEntry e 0x45 s toMover = t) : exec (.intake e) s = .next t := congrArg Host.Outcome.next h

theorem exec_verify {s t : State} {e : Entry} (h : runEntry e 0x46 s toMover = t) : exec (.verify e) s = .next t := congrArg Host.Outcome.next h

theorem exec_evict {s t : State} {e : Entry} (h : runEntry e 0x44 s toMover = t) : exec (.evict e) s = .next t := congrArg Host.Outcome.next h

/-! ### EVICT by idle movers (07 R213) -/

/-- The units that the movers hold. -/
def heldUnits (s : State) : List Nat := (List.range 8).flatMap fun d => (getDie s d).moverQ.map fun i => i.unit

/-- When one member's list loses an element, so does the joined list. -/
theorem flatMap_perm_cons {α β : Type} {l : List α} {f g : α → List β} {d : α} {x : β} (hnodup : l.Nodup) (hd : d ∈ l)
    (hperm : (f d).Perm (x :: g d)) (hother : ∀ y ∈ l, y ≠ d → f y = g y) : (l.flatMap f).Perm (x :: l.flatMap g) := by
  induction l with
  | nil => cases hd
  | cons y l ih =>
    obtain ⟨hnot, hnodup⟩ := List.nodup_cons.mp hnodup
    rw [List.flatMap_cons, List.flatMap_cons]
    by_cases hy : y = d
    · subst hy
      have hrest : l.flatMap f = l.flatMap g := List.flatMap_congr fun z hz => hother z (List.mem_cons_of_mem _ hz) fun h => hnot (h ▸ hz)
      rw [hrest]
      exact hperm.append_right _
    · rw [hother y List.mem_cons_self hy]
      refine (List.Perm.append_left _ (ih hnodup ((List.mem_cons.mp hd).resolve_left (Ne.symm hy)) fun z hz => hother z (List.mem_cons_of_mem _ hz))).trans ?_
      exact List.perm_middle

theorem heldUnits_of_dies {s t : State} (h : t.dies = s.dies) : heldUnits t = heldUnits s := by simp only [heldUnits, getDie_of_dies h]

theorem heldUnits_advanceMover {d : Nat} {s : State} {i : MoverItem} {q : List MoverItem} (hd : d < 8) (hq : (getDie s d).moverQ = i :: q) :
    (heldUnits s).Perm (i.unit :: heldUnits (advanceMover d s)) := by
  refine flatMap_perm_cons List.nodup_range (List.mem_range.mpr hd) ?_ fun e _ hne => by rw [moverQ_advanceMover_ne s hne]
  rw [hq, List.map_cons]
  exact ((moverQ_advanceMover_perm hq).map _).symm.cons _

theorem heldUnits_nil {s : State} : heldUnits s = [] ↔ ∀ d, d < 8 → (getDie s d).moverQ = [] := by
  simp only [heldUnits, List.flatMap_eq_nil_iff, List.mem_range, List.map_eq_nil_iff]

/-- The EVICT with units to do and others counted. -/
def evicting (c : Cmd) (todo : List Nat) (n : Nat) : Cmd := { withTodo todo c with progress := n }

/-- A page's entry once it has been evicted from a tier. -/
def evicted (t : Nat) (e : PageEnt) : PageEnt := if hasCopy e t then withoutCopy t e else e

/-- How far an EVICT from tier `t` has come: the units on the movers are those on its list, the others are evicted and counted. -/
structure EvictStands (c : Cmd) (o t : Nat) (s v : State) : Prop where
  serves : ∀ d, moverServes v d = moverServes s d
  items  : ∀ d, d < 8 → ∀ i ∈ (getDie v d).moverQ, i = unitItem c o i.unit
  nodup  : (heldUnits v).Nodup
  named  : ∀ j ∈ heldUnits v, j ∈ pagesOf c
  pages  : ∀ j ∈ pagesOf c, getPage v c.ptn (pageKey o j) =
    if j ∈ heldUnits v then getPage s c.ptn (pageKey o j) else evicted t (getPage s c.ptn (pageKey o j))

/-- The count of the pages of a list that have a copy in a tier. -/
def copiesIn (s : State) (p o t : Nat) (js : List Nat) : Nat := (js.filter fun j => hasCopy (getPage s p (pageKey o j)) t).length

/-- Where the EVICT's own command stands, which counts `n` pages in all. -/
def EvictCounts (c : Cmd) (o t n : Nat) (s v : State) : Prop :=
  if heldUnits v = [] then (getCmd v c.ring c.idx).map (fun x => (x.phase, x.status, x.result)) = some (.done, 0, w32 n)
  else ∃ todo m, todo.Perm (heldUnits v) ∧ m + copiesIn s c.ptn o t (heldUnits v) = n ∧ getCmd v c.ring c.idx = some (evicting c todo m)

section
variable {c : Cmd} {o t n d u : Nat} {s v : State} {q : List MoverItem}

/-- A page that has another copy leaves the tier when it is its turn. -/
theorem evictPage_evicts (hother : ([0, 1, 2].any fun x => x != t && hasCopy (getPage v c.ptn (pageKey o u)) x) = true) :
    evictPage (unitItem c o u) t v = unitDone (unitItem c o u) (if hasCopy (getPage v c.ptn (pageKey o u)) t then 1 else 0)
      (if hasCopy (getPage v c.ptn (pageKey o u)) t then dropCopies c.ptn (pageKey o u) t v else v) := by
  simp only [evictPage]
  change (if hasCopy (getPage v c.ptn (pageKey o u)) t && [0, 1, 2].any (fun x => x != t && hasCopy (getPage v c.ptn (pageKey o u)) x) then _ else _) = _
  rw [hother, Bool.and_true]
  split <;> rfl

theorem getPage_evictPage (hother : ([0, 1, 2].any fun x => x != t && hasCopy (getPage v c.ptn (pageKey o u)) x) = true) (j : Nat) :
    getPage (evictPage (unitItem c o u) t v) c.ptn (pageKey o j) =
      if j = u then evicted t (getPage v c.ptn (pageKey o u)) else getPage v c.ptn (pageKey o j) := by
  have hdone (n : Nat) (w : State) : getPage (unitDone (unitItem c o u) n w) c.ptn (pageKey o j) = getPage w c.ptn (pageKey o j) := by
    rw [unitDone_frame]; rfl
  rw [evictPage_evicts hother, hdone]
  by_cases hj : j = u
  · subst hj
    rw [if_pos rfl, evicted]
    split
    · exact getPage_dropCopies_self ..
    · rfl
  · rw [if_neg hj]
    split
    · exact getPage_dropCopies_ne t v (.inl fun h => hj (pageKey_inj h))
    · rfl

end

theorem moverServes_of_flt {s t : State} (h : t.flt = s.flt) (d : Nat) : moverServes t d = moverServes s d := by simp only [moverServes, engStopped, h]

theorem copiesIn_perm {s : State} {p o t : Nat} {js ks : List Nat} (h : js.Perm ks) : copiesIn s p o t js = copiesIn s p o t ks := (h.filter _).length_eq

theorem copiesIn_cons (s : State) (p o t j : Nat) (js : List Nat) :
    copiesIn s p o t (j :: js) = (if hasCopy (getPage s p (pageKey o j)) t then 1 else 0) + copiesIn s p o t js := by
  unfold copiesIn
  rw [List.filter_cons]
  split
  · rw [List.length_cons, Nat.add_comm]
  · rw [Nat.zero_add]

section
variable {c : Cmd} {o t n d u : Nat} {s v : State} {q : List MoverItem}

/-- The page map after the turn of a page in an EVICT. -/
def turned (c : Cmd) (o t u : Nat) (v : State) : State := if hasCopy (getPage v c.ptn (pageKey o u)) t then dropCopies c.ptn (pageKey o u) t v else v

theorem repaged_turned (c : Cmd) (o t u : Nat) (v : State) : Repaged c.ptn v (turned c o t u v) := (Repaged.refl ..).dropCopies.ite (.refl ..)

variable (hstands : EvictStands c o t s v)
  (hother : ∀ j ∈ pagesOf c, ([0, 1, 2].any fun x => x != t && hasCopy (getPage s c.ptn (pageKey o j)) x) = true)
  (hd : d < 8) (hq : (getDie v d).moverQ = unitItem c o u :: q)

include hd hq in
theorem mem_heldUnits_head : u ∈ heldUnits v :=
  List.mem_flatMap.mpr ⟨d, List.mem_range.mpr hd, List.mem_map.mpr ⟨unitItem c o u, by rw [hq]; exact List.mem_cons_self, rfl⟩⟩

include hstands hd hq

theorem getPage_head : getPage v c.ptn (pageKey o u) = getPage s c.ptn (pageKey o u) := by
  have hheld := mem_heldUnits_head hd hq
  rw [hstands.pages u (hstands.named u hheld), if_pos hheld]

include hother

theorem evictPage_head : evictPage (unitItem c o u) t v =
    unitDone (unitItem c o u) (if hasCopy (getPage s c.ptn (pageKey o u)) t then 1 else 0) (turned c o t u v) := by
  rw [← getPage_head hstands hd hq]
  exact evictPage_evicts (by rw [getPage_head hstands hd hq]; exact hother u (hstands.named u (mem_heldUnits_head hd hq)))

theorem dies_evictPage_head : (evictPage (unitItem c o u) t v).dies = v.dies := by
  rw [evictPage_head hstands hother hd hq, dies_unitDone, (repaged_turned ..).dies]

theorem heldUnits_step : (heldUnits v).Perm (u :: heldUnits (advanceMover d (evictPage (unitItem c o u) t v))) := by
  have hdies := dies_evictPage_head hstands hother hd hq
  rw [← heldUnits_of_dies hdies]
  exact heldUnits_advanceMover hd (by rw [getDie_of_dies hdies]; exact hq)

theorem evictStands_step : EvictStands c o t s (advanceMover d (evictPage (unitItem c o u) t v)) := by
  have hperm := heldUnits_step hstands hother hd hq
  obtain ⟨hnot, hnodup⟩ := List.nodup_cons.mp (hperm.nodup_iff.mp hstands.nodup)
  have hmem (j : Nat) : j ∈ heldUnits v ↔ j = u ∨ j ∈ heldUnits (advanceMover d (evictPage (unitItem c o u) t v)) := hperm.mem_iff.trans List.mem_cons
  refine ⟨fun e => ?serves, fun e he i hi => hstands.items e he i ?items, hnodup, fun j hj => hstands.named j ((hmem j).mpr (.inr hj)), fun j hj => ?pages⟩
  case serves =>
    rw [moverServes_advanceMover, evictPage_head hstands hother hd hq, unitDone_frame, ← hstands.serves]
    exact moverServes_of_flt (repaged_turned ..).flt e
  case items =>
    rw [← getDie_of_dies (dies_evictPage_head hstands hother hd hq)]
    exact mem_moverQ_advanceMover hi
  case pages =>
    have hturn := getPage_evictPage (c := c) (v := v) (t := t) (o := o) (u := u)
      (by rw [getPage_head hstands hd hq]; exact hother u (hstands.named u (mem_heldUnits_head hd hq))) j
    refine hturn.trans ?_
    by_cases hju : j = u
    · subst hju
      rw [if_pos rfl, if_neg hnot, getPage_head hstands hd hq]
    · have hsame : j ∈ heldUnits v ↔ j ∈ heldUnits (advanceMover d (evictPage (unitItem c o u) t v)) := (hmem j).trans (or_iff_right hju)
      rw [if_neg hju, hstands.pages j hj]
      simp only [hsame]

theorem evictCounts_step (hop : c.opcode = 0x44) (hstatus : c.status = 0) (hfailed : c.failed = 0) (hcounts : EvictCounts c o t n s v) :
    EvictCounts c o t n s (advanceMover d (evictPage (unitItem c o u) t v)) := by
  have hperm := heldUnits_step hstands hother hd hq
  rw [EvictCounts, if_neg (List.ne_nil_of_mem (mem_heldUnits_head hd hq))] at hcounts
  obtain ⟨todo, m, htodo, hsum, hcmd⟩ := hcounts
  have hcmd : getCmd (turned c o t u v) (unitItem c o u).ring (unitItem c o u).idx = some (evicting c todo m) :=
    (getCmd_of_rings (repaged_turned ..).rings ..).trans hcmd
  have hleft : (todo.erase u).Perm (heldUnits (advanceMover d (evictPage (unitItem c o u) t v))) := by
    have := (htodo.trans hperm).erase u
    rwa [List.erase_cons_head] at this
  rw [copiesIn_perm hperm, copiesIn_cons] at hsum
  have hnext : getCmd (advanceMover d (evictPage (unitItem c o u) t v)) c.ring c.idx = getCmd (unitDone (unitItem c o u)
      (if hasCopy (getPage s c.ptn (pageKey o u)) t then 1 else 0) (turned c o t u v)) (unitItem c o u).ring (unitItem c o u).idx := by
    rw [evictPage_head hstands hother hd hq]; rfl
  rw [EvictCounts, hnext]
  split
  · next hnil =>
    rw [hnil] at hleft hsum
    rw [getCmd_unitDone_last _ hcmd hleft.eq_nil (by simp [evicting, withTodo])]
    have hn : m + (if hasCopy (getPage s c.ptn (pageKey o u)) t then 1 else 0) = n := by simpa [copiesIn] using hsum
    simp [finished, finalStatus, finalResult, unitOff, evicting, withTodo, hop, hstatus, hfailed, hn]
  · next hmore =>
    have hrest : todo.erase u ≠ [] := fun h => hmore (List.Perm.nil_eq (h ▸ hleft)).symm
    exact ⟨todo.erase u, _, hleft, by rw [Nat.add_assoc]; exact hsum, getCmd_unitDone_more _ hcmd hrest⟩

end

section
variable {c : Cmd} {o t n : Nat} {s v : State} (hop : c.opcode = 0x44) (ht : opf c.ops 5 0 2 = t)
include hop

theorem itemCmd_of_counts {u : Nat} (hcounts : EvictCounts c o t n s v) (hheld : u ∈ heldUnits v) :
    ∃ k, itemCmd v (unitItem c o u) = some k ∧ k.opcode = 0x44 ∧ k.ops = c.ops := by
  rw [EvictCounts, if_neg (List.ne_nil_of_mem hheld)] at hcounts
  obtain ⟨todo, m, -, -, hcmd⟩ := hcounts
  exact ⟨_, hcmd, hop, rfl⟩

theorem headAtOnce_evict {d u : Nat} {q : List MoverItem} (hcounts : EvictCounts c o t n s v) (hd : d < 8) (hq : (getDie v d).moverQ = unitItem c o u :: q) :
    headAtOnce v d = some (unitItem c o u) := by
  obtain ⟨k, hk, hevict, -⟩ := itemCmd_of_counts hop hcounts (mem_heldUnits_head hd hq)
  have hwhole : (unitItem c o u).whole = false := rfl
  simp [headAtOnce, hq, hk, hwhole, hevict]

include ht

theorem doneAtOnce_evict {d u : Nat} {q : List MoverItem} (hcounts : EvictCounts c o t n s v) (hd : d < 8) (hq : (getDie v d).moverQ = unitItem c o u :: q) :
    doneAtOnce (unitItem c o u) v = evictPage (unitItem c o u) t v := by
  obtain ⟨k, hk, hevict, hops⟩ := itemCmd_of_counts hop hcounts (mem_heldUnits_head hd hq)
  have htier : (migTarget k).1 = t := by rw [← ht, ← hops]; rfl
  have hwhole : (unitItem c o u).whole = false := rfl
  simp [doneAtOnce, hk, hwhole, hevict, htier]

/-- With as much fuel as there are units, idle movers evict them all. -/
theorem settleFuel_evicts (hstatus : c.status = 0) (hfailed : c.failed = 0)
    (hother : ∀ j ∈ pagesOf c, ([0, 1, 2].any fun x => x != t && hasCopy (getPage s c.ptn (pageKey o j)) x) = true)
    (hserves : ∀ d, d < 8 → moverServes s d = true) :
    ∀ (m : Nat) (v : State), (heldUnits v).length ≤ m → EvictStands c o t s v → EvictCounts c o t n s v →
      heldUnits (settleFuel m v) = [] ∧ EvictStands c o t s (settleFuel m v) ∧ EvictCounts c o t n s (settleFuel m v)
  | 0, v, hlen, hstands, hcounts => ⟨List.length_eq_zero_iff.mp (Nat.le_zero.mp hlen), hstands, hcounts⟩
  | m + 1, v, hlen, hstands, hcounts => by
    rw [settleFuel]
    split
    · next hnone =>
      refine ⟨heldUnits_nil.mpr fun d hd => ?_, hstands, hcounts⟩
      cases hq : (getDie v d).moverQ with
      | nil => rfl
      | cons i q =>
        have hi := hstands.items d hd i (by rw [hq]; exact List.mem_cons_self)
        rw [hi] at hq
        have hidle := List.find?_eq_none.mp hnone d (List.mem_range.mpr hd)
        simp [hstands.serves, hserves d hd, headAtOnce_evict hop hcounts hd hq] at hidle
    · next d hfind =>
      have hd := List.mem_range.mp (List.mem_of_find?_eq_some hfind)
      have hsel := List.find?_some hfind
      simp only [Bool.and_eq_true] at hsel
      obtain ⟨i, hhead⟩ := Option.isSome_iff_exists.mp hsel.2
      obtain ⟨q, hq⟩ := headAtOnce_queue hhead
      have hi := hstands.items d hd i (by rw [hq]; exact List.mem_cons_self)
      rw [hi] at hq
      rw [headAtOnce_evict hop hcounts hd hq]
      simp only [doneAtOnce_evict hop ht hcounts hd hq]
      refine settleFuel_evicts hstatus hfailed hother hserves m _ ?_ (evictStands_step hstands hother hd hq)
        (evictCounts_step hstands hother hd hq hop hstatus hfailed hcounts)
      have hlength := (heldUnits_step hstands hother hd hq).length_eq
      rw [List.length_cons] at hlength
      omega

end

/-- The items of pages and shards give one unit of fuel each. -/
theorem itemsFuel_eq {s : State} (h : ∀ d, d < 8 → ∀ i ∈ (getDie s d).moverQ, i.whole = false) : itemsFuel s = (heldUnits s).length := by
  rw [itemsFuel, heldUnits, List.length_flatMap]
  refine congrArg List.sum (List.map_congr_left fun d hd => ?_)
  rw [List.length_map, List.map_congr_left (g := fun _ => 1) fun i hi => by simp [itemFuel, h d (List.mem_range.mp hd) i hi]]
  simp

/-- Movers with empty queues mark nothing. -/
theorem foldl_markTransit_idle {s : State} (h : heldUnits s = []) {ds : List Nat} (hds : ∀ d ∈ ds, d < 8) :
    ds.foldl (fun s d => markTransit d s) s = s := by
  refine List.foldlRecOn (motive := fun t => t = s) _ _ rfl fun t ht d hd => ?_
  rw [ht, markTransit, heldUnits_nil.mp h d (hds d hd)]

/-- The die of the mover that discards a page's copy. -/
def evictDie (s : State) (c : Cmd) (t k : Nat) : Nat :=
  match (allCopies s c.ptn (getPage s c.ptn (pageKey (opf c.ops 2 0 16) k))).find? fun x => x.1 == t with
  | some x => dieOfCopy x.1 x.2
  | none => homeDie s c.ptn

theorem evictDie_lt {s : State} {c : Cmd} {k : Nat} (t : Nat)
    (h : ∀ x ∈ allCopies s c.ptn (getPage s c.ptn (pageKey (opf c.ops 2 0 16) k)), dieOfCopy x.1 x.2 < 8) : evictDie s c t k < 8 := by
  unfold evictDie
  split
  · next x hx => exact h x (List.mem_of_find?_eq_some hx)
  · exact homeDie_lt ..

theorem evictDie_begun (s : State) (e : Entry) (op : Nat) (c : Cmd) (t k : Nat) : evictDie (begun s e op) c t k = evictDie s c t k := by
  rw [begun_frame]; rfl

theorem evict_deals {c : Cmd} {s : State} (hrange : rangeBad c = false) (hgate : objGate s c (opf c.ops 2 0 16) = none)
    (hlast : opf c.ops 3 0 26 + opf c.ops 4 0 27 ≤ (getObj s c.ptn (opf c.ops 2 0 16)).pages)
    (hother : ∀ j ∈ pagesOf c, ([0, 1, 2].any fun x => x != opf c.ops 5 0 2 && hasCopy (getPage s c.ptn (pageKey (opf c.ops 2 0 16) j)) x) = true) :
    evict c s = dealt c (opf c.ops 2 0 16) ((pagesOf c).map fun k => (evictDie s c (opf c.ops 5 0 2) k, k)) s := by
  have hkeeps : (pagesOf c).any (fun k => hasCopy (getPage s c.ptn (pageKey (opf c.ops 2 0 16) k)) (opf c.ops 5 0 2) &&
      ([0, 1, 2].all fun u => u == opf c.ops 5 0 2 || !hasCopy (getPage s c.ptn (pageKey (opf c.ops 2 0 16) k)) u)) = false := by
    refine List.any_eq_false.mpr fun j hj => ?_
    obtain ⟨x, hx, hcopy⟩ := List.any_eq_true.mp (hother j hj)
    simp only [Bool.and_eq_true, bne_iff_ne] at hcopy
    rw [Bool.and_eq_true, List.all_eq_true, not_and]
    intro _ hall
    simpa [hcopy.1, hcopy.2] using hall x hx
  simp only [evict]
  rw [objCmd_passes hrange hgate, if_neg]
  · exact dealUnits_eq (by simpa using pagesOf_ne_nil hrange) ..
  · rw [not_or]
    exact ⟨not_lt.mpr hlast, by rw [hkeeps]; exact Bool.false_ne_true⟩

theorem hasCopy_evicted_self (t : Nat) (e : PageEnt) : hasCopy (evicted t e) t = false := by
  unfold evicted
  split
  · exact hasCopy_withoutCopy_self t e
  · next h => exact Bool.not_eq_true _ ▸ h

theorem hasCopy_evicted_ne {t u : Nat} (e : PageEnt) (ht : t ≤ 2) (hu : u ≤ 2) (h : u ≠ t) : hasCopy (evicted t e) u = hasCopy e u := by
  unfold evicted
  split
  · exact hasCopy_withoutCopy_ne e ht hu h
  · rfl

theorem tier_of_range {c : Cmd} (h : rangeBad c = false) : opf c.ops 5 0 2 ≤ 2 := by
  simp only [rangeBad, decide_eq_false_iff_not, not_or] at h
  obtain ⟨-, -, hne⟩ := h
  have hlt : opf c.ops 5 0 2 < 4 := by
    exact Nat.mod_lt _ (by decide)
  omega

theorem nodup_pagesOf (c : Cmd) : (pagesOf c).Nodup := List.Nodup.map (fun _ _ h => Nat.add_left_cancel h) List.nodup_range

/-- Units dealt to eight dies are on one of them each. -/
theorem dealt_perm {f : Nat → Nat} : ∀ ks : List Nat, (∀ k ∈ ks, f k < 8) → ((List.range 8).flatMap fun d => ks.filter fun k => f k == d).Perm ks
  | [], _ => by simp
  | k :: ks, h => by
    obtain ⟨hk, hks⟩ := List.forall_mem_cons.mp h
    refine (flatMap_perm_cons (g := fun d => ks.filter fun k => f k == d) (d := f k) (x := k) List.nodup_range (List.mem_range.mpr hk) ?_
      fun d _ hne => ?_).trans ((dealt_perm ks hks).cons k)
    · rw [List.filter_cons, if_pos (beq_self_eq_true _)]
    · rw [List.filter_cons, if_neg (by simpa using Ne.symm hne)]

section
variable {s : State} {e : Entry} {o t : Nat} {f : Nat → Nat} (h : Runs s e 0x44) (hidle : ∀ d, d < 8 → (getDie s d).moverQ = [])
  (hdie : ∀ k ∈ pagesOf (newCmd s e 0x44), f k < 8)

/-- The state in which an EVICT's pages are on the movers. -/
def evictDealt (s : State) (e : Entry) (o : Nat) (f : Nat → Nat) : State :=
  dealt (newCmd s e 0x44) o ((pagesOf (newCmd s e 0x44)).map fun k => (f k, k)) (begun s e 0x44)

include hidle in
theorem moverQ_evictDealt {d : Nat} (hd : d < 8) : (getDie (evictDealt s e o f) d).moverQ =
    ((pagesOf (newCmd s e 0x44)).filter fun k => f k == d).map (unitItem (newCmd s e 0x44) o) := by
  rw [evictDealt, moverQ_dealt_idle hidle rfl hd, List.filter_map, List.map_map]
  rfl

include hidle hdie in
theorem heldUnits_evictDealt : (heldUnits (evictDealt s e o f)).Perm (pagesOf (newCmd s e 0x44)) := by
  have heq : heldUnits (evictDealt s e o f) = (List.range 8).flatMap fun d => (pagesOf (newCmd s e 0x44)).filter fun k => f k == d :=
    List.flatMap_congr fun d hd => by
      rw [moverQ_evictDealt hidle (List.mem_range.mp hd), List.map_map]
      exact List.map_id _
  rw [heq]
  exact dealt_perm _ hdie

include hidle hdie in
theorem heldUnits_evictDealt_ne_nil (hsome : pagesOf (newCmd s e 0x44) ≠ []) : heldUnits (evictDealt s e o f) ≠ [] := fun hnil => by
  have hperm := heldUnits_evictDealt (o := o) hidle hdie
  rw [hnil] at hperm
  exact hsome hperm.nil_eq.symm

include hidle hdie in
theorem evictStands_evictDealt : EvictStands (newCmd s e 0x44) o t s (evictDealt s e o f) := by
  have hperm := heldUnits_evictDealt (o := o) hidle hdie
  refine ⟨fun d => ?serves, fun d hd i hi => ?items, hperm.nodup_iff.mpr (nodup_pagesOf _), fun j hj => hperm.mem_iff.mp hj, fun j hj => ?pages⟩
  case serves =>
    rw [evictDealt, dealt_frame, begun_frame]
    rfl
  case items =>
    rw [moverQ_evictDealt hidle hd] at hi
    obtain ⟨k, -, rfl⟩ := List.mem_map.mp hi
    rfl
  case pages =>
    rw [if_pos (hperm.mem_iff.mpr hj), evictDealt, dealt_frame, begun_frame]
    rfl

include h hidle hdie in
theorem evictCounts_evictDealt (hsome : pagesOf (newCmd s e 0x44) ≠ []) :
    EvictCounts (newCmd s e 0x44) o t (copiesIn s (newCmd s e 0x44).ptn o t (pagesOf (newCmd s e 0x44))) s (evictDealt s e o f) := by
  have hperm := heldUnits_evictDealt (o := o) hidle hdie
  have hstarted := started_dealt_marked (t := begun s e 0x44) (o := o) (us := (pagesOf (newCmd s e 0x44)).map fun k => (f k, k)) h rfl
  rw [units_dealt] at hstarted
  rw [EvictCounts, if_neg (heldUnits_evictDealt_ne_nil hidle hdie hsome)]
  refine ⟨_, 0, hperm.symm, ?_, getCmd_of_started h hstarted rfl rfl⟩
  rw [Nat.zero_add, copiesIn_perm hperm]

include h hidle hdie in
/-- Idle movers do an EVICT at once, unit after unit. -/
theorem runEntry_evicts (hserves : ∀ d, d < 8 → moverServes s d = true) (hsome : pagesOf (newCmd s e 0x44) ≠ [])
    (hserve : evict (newCmd s e 0x44) (begun s e 0x44) = evictDealt s e o f)
    (hnil : heldUnits (settleFuel (heldUnits (evictDealt s e o f)).length (evictDealt s e o f)) = []) :
    runEntry e 0x44 s toMover = settleFuel (heldUnits (evictDealt s e o f)).length (evictDealt s e o f) := by
  have hhome := homeDie_lt s (newCmd s e 0x44).ptn
  have hop : (newCmd s e 0x44).opcode = 0x44 := rfl
  have hheld : heldBack s (newCmd s e 0x44) = false := by simp [heldBack, hserves _ hhome, hidle _ hhome, queryWaits, hop]
  have hdies : (evictDealt s e o f).dies ≠ (begun s e 0x44).dies := fun hsame => by
    refine heldUnits_evictDealt_ne_nil (o := o) hidle hdie hsome ?_
    rw [heldUnits_of_dies (hsame.trans (dies_begun ..))]
    exact heldUnits_nil.mpr hidle
  have hserved : serveObj (newCmd s e 0x44) (begun s e 0x44) = evictDealt s e o f := hserve
  have hitems : ∀ d, d < 8 → ∀ i ∈ (getDie (evictDealt s e o f) d).moverQ, i.whole = false := fun d hd i hi => by
    rw [(evictStands_evictDealt (t := 0) hidle hdie).items d hd i hi]
    rfl
  rw [runEntry_begun h]
  simp only [toMover, heldBack_begun, hheld, Bool.false_eq_true, if_false, hserved, hdies]
  rw [settleMovers_eq, itemsFuel_eq hitems]
  exact foldl_markTransit_idle hnil fun d hd => List.mem_range.mp (List.mem_of_mem_filter hd)

end

/-- Settles O19: dealt units stay on movers whose heads take time, and an EVICT's units, done at once, leave the movers one by one. -/
theorem moverCommandsQueueAndEvict : Obligations.MoverCommandsQueueAndEvict := by
  refine ⟨⟨?migrate, ?intake, ?verify⟩, ?evict⟩
  case migrate =>
    intro e s h hidle c o t home hheld hrange hplace hgate hlast hpages
    have hserve := migrate_deals (c := c) (s := begun s e 0x43) hrange (by rw [placeValid_begun]; exact hplace) (by rw [objGate_begun]; exact hgate)
      (by rw [getObj_begun]; exact hlast)
    have hrest : AtRest (dealt c o ((pagesOf c).map fun k => (copyDie (begun s e 0x43) c k, k)) (begun s e 0x43)) := by
      refine atRest_dealt h hidle rfl (by decide) fun _ u hu => ?_
      obtain ⟨k, hk, rfl⟩ := List.mem_map.mp hu
      rw [dealt_frame, begun_frame]
      exact (hpages k hk).1
    obtain ⟨u, hrun, hframe, hstarted, -, hqueues⟩ := runEntry_deals h hidle rfl hheld hserve hrest
    refine ⟨u, exec_migrate hrun, hframe, ?_, fun d hd => ?_⟩
    · rwa [units_dealt] at hstarted
    · rw [hqueues d hd, List.filter_map, List.map_map]
      simp only [copyDie_begun]
      rfl
  case intake =>
    intro e s h hidle c o mine hheld halign hsome hgate hlast hopen
    have hserve := intake_deals (c := c) (s := begun s e 0x45) halign hsome (by rw [objGate_begun]; exact hgate) (by rw [getObj_begun]; exact hlast)
      (by rw [getObj_begun]; exact hopen)
    have hmarked := awaiting_frame c.ptn o (shardsOf c) (begun s e 0x45)
    obtain ⟨u, hrun, hframe, hstarted, hobjs, hqueues⟩ := runEntry_deals h hidle hmarked hheld hserve
      (atRest_dealt h hidle hmarked (by decide) fun hop => absurd hop (by decide))
    refine ⟨u, exec_intake hrun, hframe, ?_, fun i hi => ?_, fun d hd => ?_⟩
    · rwa [units_dealt] at hstarted
    · rw [getShard, hobjs]
      refine awaiting_pending _ _ ?_ (.inl hi)
      obtain ⟨j, hj, rfl⟩ := List.mem_map.mp hi
      have hj := List.mem_range.mp hj
      rw [getShard, getObj_begun]
      exact Option.isSome_iff_exists.mpr ⟨_, List.getElem?_eq_getElem (Nat.lt_of_lt_of_le (Nat.add_lt_add_left hj _) hlast)⟩
    · rw [hqueues d hd, List.filter_map, List.map_map]
      rfl
  case verify =>
    intro e s h hidle c o mine hheld hgate hsome
    have hserve := verify_deals (c := c) (s := begun s e 0x46) (by rw [objGate_begun]; exact hgate) (by rw [getObj_begun]; exact hsome)
    rw [getObj_begun] at hserve
    obtain ⟨u, hrun, hframe, hstarted, -, hqueues⟩ := runEntry_deals h hidle rfl hheld hserve
      (atRest_dealt h hidle rfl (by decide) fun hop => absurd hop (by decide))
    refine ⟨u, exec_verify hrun, hframe, ?_, fun d hd => ?_⟩
    · rwa [units_dealt] at hstarted
    · rw [hqueues d hd, List.filter_map, List.map_map]
      rfl
  case evict =>
    intro e s h hmovers c o k hrange hgate hlast hpages
    have hidle : ∀ d, d < 8 → (getDie s d).moverQ = [] := fun d hd => (hmovers d hd).1
    have hserves : ∀ d, d < 8 → moverServes s d = true := fun d hd => (hmovers d hd).2
    have hother : ∀ j ∈ pagesOf c, ([0, 1, 2].any fun u => u != k && hasCopy (getPage s c.ptn (pageKey o j)) u) = true := fun j hj => (hpages j hj).1
    have hserve : evict c (begun s e 0x44) = evictDealt s e o fun j => evictDie s c k j := by
      rw [evict_deals hrange (by rw [objGate_begun]; exact hgate) (by rw [getObj_begun]; exact hlast) fun j hj => by
        simp only [getPage_begun]; exact hother j hj]
      simp only [evictDie_begun]
      rfl
    have hdie : ∀ j ∈ pagesOf c, evictDie s c k j < 8 := fun j hj => evictDie_lt k (hpages j hj).2
    obtain ⟨hnil, hstands, hcounts⟩ := settleFuel_evicts (t := k) (s := s) rfl rfl rfl rfl hother hserves _ _ le_rfl
      (evictStands_evictDealt (o := o) hidle hdie) (evictCounts_evictDealt (t := k) h hidle hdie (pagesOf_ne_nil hrange))
    refine ⟨_, exec_evict (runEntry_evicts h hidle hdie hserves (pagesOf_ne_nil hrange) hserve hnil), fun j hj => ?_, ?_, heldUnits_nil.mp hnil⟩
    · rw [hstands.pages j hj, hnil, if_neg List.not_mem_nil]
      exact ⟨hasCopy_evicted_self .., fun u hu hne => hasCopy_evicted_ne _ (tier_of_range hrange) hu hne⟩
    · rw [EvictCounts, if_pos hnil] at hcounts
      exact hcounts

end Sys2Proof.Proofs
end

section
/-! PROOFS. O12: the MOD_PTN_CMD commands and their end (08 R231, R233, R234; 07 R230, R231; 13 R381). -/
namespace Sys2Proof.Proofs
open Sys2Proof Sys2Proof.Machine Sys2Proof.Safety

/-! ### Rails and dividers (13 R381, R384-R388) -/

/-- Only partitions' power settings and what rails, budgets and tickets stand at changed; no rail came on or went off. -/
structure Repowered (s t : State) : Prop where
  frame : t = { s with ptns := t.ptns, qtrs := t.qtrs }
  ptn   : ∀ p, getPtn t p = { getPtn s p with pwr := (getPtn t p).pwr }
  rail  : ∀ q, (getQtr t q).railOn = (getQtr s q).railOn

namespace Repowered

theorem refl (s : State) : Repowered s s := ⟨rfl, fun _ => rfl, fun _ => rfl⟩

theorem trans {s t u : State} (h : Repowered s t) (k : Repowered t u) : Repowered s u :=
  ⟨by rw [k.frame, h.frame], fun p => by rw [k.ptn, h.ptn], fun q => (k.rail q).trans (h.rail q)⟩

section
variable {s t : State} (h : Repowered s t)
include h

theorem foldl {α : Type} {f : State → α → State} {l : List α} (hf : ∀ {u a}, Repowered s u → Repowered s (f u a)) : Repowered s (l.foldl f t) :=
  List.foldlRecOn l f h fun _ hu _ _ => hf hu

theorem ite {c : Prop} [Decidable c] {u : State} (hu : Repowered s u) : Repowered s (if c then t else u) := by
  split
  · exact h
  · exact hu

theorem modQtr {q : Nat} {g : Qtr → Qtr} (hg : ∀ x, (g x).railOn = x.railOn) : Repowered s (Machine.modQtr q g t) :=
  h.trans ⟨rfl, fun _ => rfl, fun k => by
    rw [getQtr_modQtr]
    split
    · next hk => rw [hg, hk]
    · rfl⟩

theorem modPPwr {p : Nat} {g : PPwr → PPwr} : Repowered s (Machine.modPPwr p g t) :=
  h.trans ⟨rfl, fun q => by
    rw [modPPwr_eq, getPtn_modPtn]
    split
    · next hq => rw [hq]
    · rfl, fun _ => rfl⟩

theorem aimVolts {p mv : Nat} : Repowered s (Machine.aimVolts p mv t) := h.foldl fun h => h.modQtr fun _ => rfl

theorem takeBudgets {p : Nat} : Repowered s (Machine.takeBudgets p t) := h.foldl fun h => h.modQtr fun _ => rfl

theorem setTickets {p : Nat} : Repowered s (Machine.setTickets p t) := h.foldl fun h => h.modQtr fun _ => rfl

theorem setDivider {p d : Nat} : Repowered s (Machine.setDivider p d t) := h.modPPwr.setTickets.takeBudgets.aimVolts

theorem afterReturnStep {p d : Nat} : Repowered s (Machine.afterReturnStep p d t) := h.modPPwr

theorem takeDivider {p : Nat} : Repowered s (Machine.takeDivider p t) := by
  simp only [Machine.takeDivider]
  exact h.ite ((h.setDivider.ite h.aimVolts).ite ((h.ite (h.setDivider.afterReturnStep.ite h.aimVolts)).ite h.afterReturnStep.takeBudgets.aimVolts))

theorem retargetOne {p : Nat} : Repowered s (Machine.retargetOne t p) :=
  h.takeDivider.ite (h.ite ((h.aimVolts.ite h).ite h))

theorem retarget : Repowered s (Machine.retarget t) := h.foldl fun h => h.retargetOne

theorem railsTo {p : Nat} : Repowered s (Machine.railsTo p t) := (h.modPPwr).foldl fun h => h.modQtr fun _ => rfl

end

end Repowered

theorem qtrRails_frame (on : Bool) (mask : Nat) (s : State) : qtrRails on mask s = { s with qtrs := (qtrRails on mask s).qtrs } :=
  List.foldlRecOn (motive := fun t : State => t = { s with qtrs := t.qtrs }) (maskBits mask 32) _ rfl fun t ht _ _ => by rw [modQtr, ht]

theorem getPtn_qtrRails (on : Bool) (mask : Nat) (s : State) (p : Nat) : getPtn (qtrRails on mask s) p = getPtn s p := by rw [qtrRails_frame]; rfl

theorem mem_qtrRails (on : Bool) (mask : Nat) (s : State) : (qtrRails on mask s).mem = s.mem := by rw [qtrRails_frame]

/-- The mask's rails are on. -/
theorem railOn_qtrRails {mask q : Nat} (hq : q < 32) (hbit : bit mask q = true) (s : State) : (getQtr (qtrRails true mask s) q).railOn = true := by
  refine foldl_reaches (P := fun _ => True) (Q := fun t => (getQtr t q).railOn = true) (fun _ _ h => h) (fun t k ht => ?_)
    ⟨q, List.mem_filter.mpr ⟨List.mem_range.mpr hq, hbit⟩, fun t _ => by rw [getQtr_modQtr_self]⟩ trivial
  rw [getQtr_modQtr]
  split
  · rfl
  · exact ht

/-! ### A command is written (08 R233, R234) -/

theorem ptnWrite_served {fn : FnId} {s : State} (h : Served s fn (fn.val == 0) false) (go : State → State) :
    ptnWrite fn go s = .next (if s.ptnCmd.busy then s else go s) := by
  obtain ⟨hopen, hseen, hready⟩ := h
  rw [ptnWrite, hostAccess_served _ hopen hseen hready]

theorem ptnWrite_free {fn : FnId} {s : State} (h : Served s fn (fn.val == 0) false) (hfree : s.ptnCmd.busy = false) (go : State → State) :
    ptnWrite fn go s = .next (go s) := by
  rw [ptnWrite_served h, hfree, if_neg Bool.false_ne_true]

/-- The command is in progress after the write, and one with another result than OK changed nothing else. -/
def PtnAnswered (s t : State) : Prop := t.ptnCmd.busy = true ∧ (t.ptnCmd.resCode ≠ 0 → t = { s with ptnCmd := t.ptnCmd })

theorem ptnAnswered_refused (code info : Nat) (s : State) : PtnAnswered s (ptnResult code info s) := ⟨rfl, fun _ => rfl⟩

theorem ptnAnswered_done (s t : State) : PtnAnswered s (ptnResult 0 0 t) := ⟨rfl, fun h => absurd rfl h⟩

theorem ptnAnswered_ite {s t u : State} {c : Prop} [Decidable c] (ht : PtnAnswered s t) (hu : PtnAnswered s u) : PtnAnswered s (if c then t else u) := by
  split
  · exact ht
  · exact hu

theorem ptnAnswered_first {s t : State} {o : Option Nat} {f : Nat → State} (hsome : ∀ q, PtnAnswered s (f q)) (hnone : PtnAnswered s t) :
    PtnAnswered s (match o with | some q => f q | none => t) := by
  cases o with
  | some q => exact hsome q
  | none => exact hnone

theorem ptnCreate_answers (p : Nat) (s : State) : PtnAnswered s (ptnCreate p s) :=
  ptnAnswered_ite (ptnAnswered_refused ..) (ptnAnswered_first (fun _ => ptnAnswered_refused ..) (ptnAnswered_ite (ptnAnswered_refused ..) (ptnAnswered_done ..)))

theorem ptnGrow_answers (p : Nat) (s : State) : PtnAnswered s (ptnGrow p s) :=
  ptnAnswered_ite (ptnAnswered_refused ..) (ptnAnswered_first (fun _ => ptnAnswered_refused ..)
    (ptnAnswered_ite (ptnAnswered_refused ..) (ptnAnswered_ite (ptnAnswered_done ..) (ptnAnswered_done ..))))

theorem ptnShrink_answers (p : Nat) (s : State) : PtnAnswered s (ptnShrink p s) :=
  ptnAnswered_ite (ptnAnswered_refused ..) (ptnAnswered_first (fun _ => ptnAnswered_refused ..)
    (ptnAnswered_ite (ptnAnswered_refused ..) (ptnAnswered_ite (ptnAnswered_refused ..)
      (ptnAnswered_first (fun _ => ptnAnswered_refused ..) (ptnAnswered_done ..)))))

theorem ptnDestroy_answers (p : Nat) (s : State) : PtnAnswered s (ptnDestroy p s) :=
  ptnAnswered_ite (ptnAnswered_refused ..) (ptnAnswered_ite (ptnAnswered_refused ..) (ptnAnswered_done ..))

theorem ptnBind_answers (p vf : Nat) (s : State) : PtnAnswered s (ptnBind p vf s) :=
  ptnAnswered_ite (ptnAnswered_refused ..) (ptnAnswered_ite (ptnAnswered_refused ..) (ptnAnswered_ite (ptnAnswered_refused ..) (ptnAnswered_done ..)))

theorem ptnUnbind_answers (p : Nat) (s : State) : PtnAnswered s (ptnUnbind p s) :=
  ptnAnswered_ite (ptnAnswered_refused ..) (ptnAnswered_ite (ptnAnswered_refused ..) (ptnAnswered_done ..))

/-- Whatever its outcome, a write takes effect only while no command is in progress, and a refused command changes its status alone. -/
theorem ptnWrite_answers {fn : FnId} {s : State} {go : State → State} (h : Served s fn (fn.val == 0) false) (hgo : PtnAnswered s (go s)) :
    ∃ t, ptnWrite fn go s = .next t ∧ (s.ptnCmd.busy = true → t = s) ∧ (t.ptnCmd.resCode ≠ 0 → t = { s with ptnCmd := t.ptnCmd }) ∧
      (s.ptnCmd.busy = false → t.ptnCmd.busy = true) := by
  refine ⟨_, ptnWrite_served h go, ?_⟩
  cases s.ptnCmd.busy with
  | true => exact ⟨fun _ => rfl, fun _ => rfl, nofun⟩
  | false => exact ⟨nofun, hgo.2, fun _ => hgo.1⟩

/-- A command has made `u` and will show OK; the rails and dividers that follow it have moved. -/
structure PtnDone (u t : State) : Prop where
  frame : t = { u with ptnCmd := t.ptnCmd, ptns := t.ptns, qtrs := t.qtrs }
  cmd   : t.ptnCmd = { u.ptnCmd with busy := true, resCode := 0, resInfo := 0 }
  ptn   : ∀ p, getPtn t p = { getPtn u p with pwr := (getPtn t p).pwr }
  rail  : ∀ q, (getQtr t q).railOn = (getQtr u q).railOn

theorem PtnDone.frame_of {s u t : State} (h : PtnDone u t) (hu : u = { s with ptns := u.ptns, qtrs := u.qtrs, mem := u.mem }) :
    t = { s with ptnCmd := t.ptnCmd, ptns := t.ptns, qtrs := t.qtrs, mem := t.mem } ∧ t.ptnCmd = { s.ptnCmd with busy := true, resCode := 0, resInfo := 0 } := by
  obtain ⟨hframe, hcmd, -, -⟩ := h
  exact ⟨by rw [hframe, hu], by rw [hcmd, hu]⟩

theorem ptnDone_of_repowered {u v : State} (h : Repowered u v) : PtnDone u (ptnResult 0 0 v) := by
  obtain ⟨hframe, hptn, hrail⟩ := h
  refine ⟨?_, ?_, hptn, hrail⟩
  · rw [ptnResult, hframe]
  · rw [hframe]; rfl

/-- A command that is not refused, written while none is in progress. -/
theorem ptnWrite_done {fn : FnId} {s u v : State} {go : State → State} (h : Served s fn (fn.val == 0) false) (hfree : s.ptnCmd.busy = false)
    (hgo : go s = ptnResult 0 0 v) (hpwr : Repowered u v) : ∃ t, ptnWrite fn go s = .next t ∧ PtnDone u t :=
  ⟨_, (ptnWrite_free h hfree go).trans (congrArg _ hgo), ptnDone_of_repowered hpwr⟩

/-! ### CREATE (08 R234; 07 R230, R231) -/

/-- Only objects and pages of partition `p`, its T2 quota and the retained objects changed. -/
structure ObjectsBack (p : Nat) (s t : State) : Prop where
  frame  : t = { s with ptns := t.ptns, mem := t.mem }
  others : OtherPtns p s t
  own    : getPtn t p = { getPtn s p with mem := { (getPtn s p).mem with
    objs := (getPtn t p).mem.objs, pages := (getPtn t p).mem.pages, t2Quota := (getPtn t p).mem.t2Quota } }

theorem ObjectsBack.trans {p : Nat} {s t u : State} (h : ObjectsBack p s t) (k : ObjectsBack p t u) : ObjectsBack p s u :=
  ⟨by rw [k.frame, h.frame], fun q hq => (k.others q hq).trans (h.others q hq), by rw [k.own, h.own]⟩

theorem objectsBack_modPMem {p : Nat} {g : PMem → PMem} (s : State) (hg : ∀ m, g m = { m with objs := (g m).objs, pages := (g m).pages, t2Quota := (g m).t2Quota }) :
    ObjectsBack p s (modPMem p g s) :=
  ⟨rfl, otherPtns_modPtn p _ s, by rw [modPMem_eq, getPtn_modPtn_self, ← hg]⟩

theorem objectsBack_foldl {α : Type} {p : Nat} {g : α → PMem → PMem} (hg : ∀ a m, g a m = { m with objs := (g a m).objs, pages := (g a m).pages, t2Quota := (g a m).t2Quota })
    {s t : State} (h : ObjectsBack p s t) (l : List α) : ObjectsBack p s (l.foldl (fun t a => modPMem p (g a) t) t) :=
  List.foldlRecOn l _ h fun t ht a _ => ht.trans (objectsBack_modPMem t (hg a))

theorem objectsBack_returnObjects (p : Nat) (s : State) : ObjectsBack p s (returnObjects p s) := by
  have hretained (g : MemUnit → MemUnit) : ObjectsBack p s (modMem g s) := ⟨rfl, fun _ _ => rfl, rfl⟩
  simp only [returnObjects]
  refine (objectsBack_foldl (fun _ _ => ?_) (hretained _) _).trans (objectsBack_modPMem _ fun _ => ?_)
  · rfl
  · rfl

/-- Without retained objects of its number a partition without pages starts with no T2 pages in use. -/
theorem t2Quota_returnObjects {p : Nat} {s : State} (hnone : ∀ r ∈ s.mem.retained, r.ptn ≠ p) (hpages : (getPtn s p).mem.pages = []) :
    (getPtn (returnObjects p s) p).mem.t2Quota = 0 := by
  have hmine : (s.mem.retained.filter fun r => r.ptn == p) = [] := List.filter_eq_nil_iff.mpr fun r hr => by simpa using hnone r hr
  simp [returnObjects, hmine, tierUse, hpages]

/-- The partition as CREATE makes it. -/
def createdPtn (mask : Nat) (x : Ptn) : Ptn := { blankPtn x with exists_ := true, qtrs := mask, flt := {} }

/-- The partition is made, its rails are on, and the retained objects of its number are back. -/
def ptnMade (p : Nat) (s : State) : State := returnObjects p (qtrRails true s.ptnCmd.arg (modPtn p (createdPtn s.ptnCmd.arg) s))

theorem ptnCreate_done {p : Nat} {s : State} (hmask : s.ptnCmd.arg ≠ 0) (hfree : takenQtr s p s.ptnCmd.arg = none) (hnew : (getPtn s p).exists_ = false) :
    ptnCreate p s = ptnResult 0 0 (retarget (railsTo p (ptnMade p s))) := by
  simp [ptnCreate, hmask, hfree, hnew]; rfl

theorem ptnMade_frame (p : Nat) (s : State) : ptnMade p s = { s with ptns := (ptnMade p s).ptns, qtrs := (ptnMade p s).qtrs, mem := (ptnMade p s).mem } := by
  rw [ptnMade, (objectsBack_returnObjects ..).frame, qtrRails_frame]; rfl

theorem getPtn_ptnMade_ne {p q : Nat} (hq : q ≠ p) (s : State) : getPtn (ptnMade p s) q = getPtn s q := by
  rw [ptnMade, (objectsBack_returnObjects ..).others q hq, getPtn_qtrRails, getPtn_modPtn_ne s _ hq]

theorem getPtn_ptnMade_self (p : Nat) (s : State) : getPtn (ptnMade p s) p = { createdPtn s.ptnCmd.arg (getPtn s p) with mem :=
    { objs := (getPtn (ptnMade p s) p).mem.objs, pages := (getPtn (ptnMade p s) p).mem.pages, t2Quota := (getPtn (ptnMade p s) p).mem.t2Quota } } := by
  have hbare : getPtn (qtrRails true s.ptnCmd.arg (modPtn p (createdPtn s.ptnCmd.arg) s)) p = createdPtn s.ptnCmd.arg (getPtn s p) := by
    rw [getPtn_qtrRails, getPtn_modPtn_self]
  exact (objectsBack_returnObjects ..).own.trans (by rw [hbare]; rfl)

/-- The new partition holds the mask's quarters, serves no VF, and has no figure and no T1 quota. -/
structure FreshPtn (mask : Nat) (x : Ptn) : Prop where
  exists_ : x.exists_ = true
  qtrs    : x.qtrs = mask
  vf      : x.vf = 0
  fig     : x.fig = {}
  t1Quota : x.mem.t1Quota = 0

theorem ptnMade_makes (p : Nat) (s : State) : FreshPtn s.ptnCmd.arg (getPtn (ptnMade p s) p) := by
  rw [getPtn_ptnMade_self]
  exact ⟨rfl, rfl, rfl, rfl, rfl⟩

theorem t2Quota_ptnMade {p : Nat} {s : State} (hnone : ∀ r ∈ s.mem.retained, r.ptn ≠ p) : (getPtn (ptnMade p s) p).mem.t2Quota = 0 := by
  refine t2Quota_returnObjects (by rw [mem_qtrRails]; exact hnone) ?_
  rw [getPtn_qtrRails, getPtn_modPtn_self]
  rfl

theorem railOn_ptnMade {p q : Nat} {s : State} (hq : q < 32) (hbit : bit s.ptnCmd.arg q = true) : (getQtr (ptnMade p s) q).railOn = true := by
  rw [ptnMade, (objectsBack_returnObjects ..).frame]
  exact railOn_qtrRails hq hbit _

/-! ### GROW and SHRINK (08 R234; 07 R204) -/

/-- Only the memory unit differs. -/
def MemUnitOnly (s t : State) : Prop := t = { s with mem := t.mem }

theorem MemUnitOnly.foldl {α : Type} {s t : State} {f : State → α → State} (hf : ∀ t a, MemUnitOnly s t → MemUnitOnly s (f t a)) (h : MemUnitOnly s t) (l : List α) :
    MemUnitOnly s (l.foldl f t) :=
  List.foldlRecOn l f h fun t ht a _ => hf t a ht

theorem growRepl_frame (p : Nat) (qs : List Nat) (s : State) : MemUnitOnly s (growRepl p qs s) := by
  have hcopy (g : MemUnit → MemUnit) (t : State) (ht : MemUnitOnly s t) : MemUnitOnly s (modMem g t) := by rw [MemUnitOnly, modMem, ht]
  refine MemUnitOnly.foldl (fun t e ht => ?_) (show s = s from rfl) _
  split
  · exact ht.foldl (fun t q => hcopy _ t) qs
  · exact ht

/-- The quarters of a mask that a partition does not hold. -/
def newQtrs (mask qtrs : Nat) : Nat := bitsMask ((maskBits mask 32).filter fun q => !bit qtrs q)

/-- Adding the quarters that are new adds the whole mask. -/
theorem or_newQtrs (mask qtrs : Nat) : qtrs ||| newQtrs mask qtrs = qtrs ||| bitsMask (maskBits mask 32) := by
  refine Nat.eq_of_testBit_eq fun i => ?_
  rw [Nat.testBit_or, Nat.testBit_or, ← bit_eq_testBit, ← bit_eq_testBit, ← bit_eq_testBit]
  cases hi : bit qtrs i with
  | true => rfl
  | false => exact Bool.eq_iff_iff.mpr (by simp [newQtrs, bit_bitsMask, hi])

/-- The partition takes quarters, with a copy of every replicated page beneath each; it may have none to take. -/
def grown (p new : Nat) (s : State) : State :=
  if new = 0 then s else qtrRails true new (modPtn p (fun x => { x with qtrs := x.qtrs ||| new }) (growRepl p (maskBits new 32) s))

theorem ptnGrow_done {p : Nat} {s : State} (hmask : s.ptnCmd.arg ≠ 0) (hfree : takenQtr s p s.ptnCmd.arg = none) (hex : (getPtn s p).exists_ = true)
    (hempty : (getPtn s p).fig.st = .empty) :
    ∃ v, ptnGrow p s = ptnResult 0 0 v ∧ Repowered (grown p (newQtrs s.ptnCmd.arg (getPtn s p).qtrs) s) v := by
  have hgo : ptnGrow p s = ptnResult 0 0 (if newQtrs s.ptnCmd.arg (getPtn s p).qtrs = 0 then s else retarget (railsTo p (grown p (newQtrs s.ptnCmd.arg (getPtn s p).qtrs) s))) := by
    rw [apply_ite (ptnResult 0 0)]
    simp only [ptnGrow, hmask, if_false, hfree, hex, hempty, Bool.not_true, Bool.false_or, ne_eq, not_true_eq_false, decide_false, Bool.false_eq_true, grown]
    by_cases hnew : newQtrs s.ptnCmd.arg (getPtn s p).qtrs = 0
    · rw [if_pos hnew]; exact if_pos hnew
    · rw [if_neg hnew, if_neg hnew]; exact if_neg hnew
  refine ⟨_, hgo, ?_⟩
  split
  · next hnone => rw [grown, if_pos hnone]; exact .refl s
  · exact ((Repowered.refl _).railsTo (p := p)).retarget

/-- The partition holds the mask too, and nothing else of any partition changed. -/
structure Grown (p mask : Nat) (s t : State) : Prop where
  frame  : t = { s with ptns := t.ptns, qtrs := t.qtrs, mem := t.mem }
  own    : getPtn t p = { getPtn s p with qtrs := (getPtn s p).qtrs ||| mask }
  others : OtherPtns p s t

theorem grown_grows (p new : Nat) (s : State) : Grown p new s (grown p new s) := by
  rw [grown]
  split
  · next hnone => exact ⟨rfl, by rw [hnone, Nat.or_zero], fun _ _ => rfl⟩
  · have hset : growRepl p (maskBits new 32) s = { s with mem := (growRepl p (maskBits new 32) s).mem } := growRepl_frame ..
    have hold (q : Nat) : getPtn (growRepl p (maskBits new 32) s) q = getPtn s q := by rw [hset]; rfl
    refine ⟨?_, ?_, fun q hq => ?_⟩
    · rw [qtrRails_frame, modPtn, hset]
    · rw [getPtn_qtrRails, getPtn_modPtn_self, hold]
    · rw [getPtn_qtrRails, getPtn_modPtn_ne _ _ hq, hold]

/-- The partition gives quarters back. -/
def shrunk (p mask : Nat) (s : State) : State := qtrRails false mask (modPtn p (fun x => { x with qtrs := x.qtrs - mask }) s)

theorem ptnShrink_done {p : Nat} {s : State} (hmask : s.ptnCmd.arg ≠ 0)
    (hfree : ∀ q, q < 32 → bit s.ptnCmd.arg q = true → bit (getPtn s p).qtrs q = true ∧ pageBeneath s p q = false) (hsome : s.ptnCmd.arg ≠ (getPtn s p).qtrs)
    (hex : (getPtn s p).exists_ = true) (hempty : (getPtn s p).fig.st = .empty) : ptnShrink p s = ptnResult 0 0 (retarget (shrunk p s.ptnCmd.arg s)) := by
  have hmine : (maskBits s.ptnCmd.arg 32).find? (fun q => !bit (getPtn s p).qtrs q) = none := List.find?_eq_none.mpr fun q hq => by
    obtain ⟨hlt, hbit⟩ := List.mem_filter.mp hq
    simp [(hfree q (List.mem_range.mp hlt) hbit).1]
  have hclear : (maskBits s.ptnCmd.arg 32).find? (pageBeneath s p) = none := List.find?_eq_none.mpr fun q hq => by
    obtain ⟨hlt, hbit⟩ := List.mem_filter.mp hq
    simp [(hfree q (List.mem_range.mp hlt) hbit).2]
  simp [ptnShrink, hmask, hmine, hclear, hsome, hex, hempty]
  rfl

/-! ### DESTROY (08 R234; 07 R231) -/

theorem repaged_freeAllPages (p : Nat) (s : State) : Repaged p s (freeAllPages p s) := (Repaged.refl p s).foldl fun h => h.freePage

theorem free_freeAllPages (p : Nat) (s : State) : (freeAllPages p s).free = s.free :=
  List.foldlRecOn (motive := fun t : State => t.free = s.free) _ (fun t k => freePage p k t) rfl fun _ ht _ _ => ht

/-- The partition's pages are released, its rails go off, and its number keeps its settings alone. -/
def destroyed (p : Nat) (s : State) : State := modPtn p blankPtn (qtrRails false (getPtn s p).qtrs (freeAllPages p s))

theorem ptnDestroy_done {p : Nat} {s : State} (hex : (getPtn s p).exists_ = true) (hempty : (getPtn s p).fig.st = .empty) (hfree : ctxsOf s p = []) :
    ptnDestroy p s = ptnResult 0 0 (retarget (destroyed p s)) := by
  simp [ptnDestroy, hex, hempty, hfree]
  rfl

theorem destroyed_frame (p : Nat) (s : State) :
    destroyed p s = { s with ptns := (destroyed p s).ptns, qtrs := (destroyed p s).qtrs, mem := (destroyed p s).mem } := by
  rw [destroyed, modPtn, qtrRails_frame, (repaged_freeAllPages p s).frame, free_freeAllPages]

theorem getPtn_destroyed_self (p : Nat) (s : State) : getPtn (destroyed p s) p = blankPtn { getPtn s p with mem := (getPtn (freeAllPages p s) p).mem } := by
  rw [destroyed, getPtn_modPtn_self, getPtn_qtrRails, (repaged_freeAllPages p s).own]

theorem getPtn_destroyed_ne {p q : Nat} (hq : q ≠ p) (s : State) : getPtn (destroyed p s) q = getPtn s q := by
  rw [destroyed, getPtn_modPtn_ne _ _ hq, getPtn_qtrRails, (repaged_freeAllPages p s).others q hq]

/-! ### BIND_VF and UNBIND_VF (08 R234) -/

theorem ptnBind_done {p vf : Nat} {s : State} (hex : (getPtn s p).exists_ = true) (hunbound : (getPtn s p).vf = 0) (hpos : 0 < vf) (hle : vf ≤ 32)
    (henable : s.vfEnable = true) (hfree : ∀ e ∈ s.ptns, e.2.exists_ = true → e.2.vf ≠ vf) :
    ptnBind p vf s = ptnResult 0 0 (modPtn p (fun x => { x with vf := vf }) s) := by
  have htaken : (s.ptns.any fun e => e.2.exists_ && e.2.vf == vf) = false := List.any_eq_false.mpr fun e he => by simpa using hfree e he
  have hpos' : ¬ vf = 0 := by omega
  have hle' : ¬ 32 < vf := by omega
  simp [ptnBind, hex, hunbound, hpos', hle', henable, htaken]

theorem ptnUnbind_done {p : Nat} {s : State} (hex : (getPtn s p).exists_ = true)
    (hidle : ∀ e ∈ s.rings, e.2.assigned = true → e.2.ptn = p → e.2.cur.enable = false) :
    ptnUnbind p s = ptnResult 0 0 (modPtn p (fun x => { x with vf := 0 }) s) := by
  have hnone : (s.rings.any fun e => e.2.assigned && e.2.ptn == p && e.2.cur.enable) = false := List.any_eq_false.mpr fun e he => by
    simpa using hidle e he
  simp [ptnUnbind, hex, hnone]

/-- A command that changes its own partition alone and completes with OK. -/
theorem ptnResult_modPtn (p : Nat) (g : Ptn → Ptn) (s : State) : let t := ptnResult 0 0 (modPtn p g s)
    t = { s with ptnCmd := t.ptnCmd, ptns := t.ptns } ∧ t.ptnCmd = { s.ptnCmd with busy := true, resCode := 0, resInfo := 0 } ∧
      getPtn t p = g (getPtn s p) ∧ OtherPtns p s t :=
  ⟨rfl, rfl, getPtn_modPtn_self .., fun _ hq => getPtn_modPtn_ne s g hq⟩

/-- The command in progress ends and shows its status. -/
def ptnShown (s : State) : State := { s with ptnCmd := { s.ptnCmd with busy := false, code := s.ptnCmd.resCode, info := s.ptnCmd.resInfo } }

theorem exec_modPtnDone {s : State} (hbusy : s.ptnCmd.busy = true) : exec .modPtnDone s = .next (pulse srcPtnDone (ptnShown s)) :=
  congrArg Host.Outcome.next (if_pos hbusy)

/-! ### The statement -/

/-- Settles O12. Where no reason of 08 R234 refuses a command, its clause names the state that it makes (`ptnMade`, `grown`, `shrunk`, `destroyed`), and the
moves of rails and dividers that follow change power settings alone (`Repowered`); a refusal or a command in progress is `ptnWrite_answers`. -/
theorem partitionCommandsChangeTheirPartition : Obligations.PartitionCommandsChangeTheirPartition := by
  unfold Obligations.PartitionCommandsChangeTheirPartition
  refine ⟨⟨?create, ?grow, ?shrink, ?destroy, ?bind, ?unbind, ?done⟩, ?answers⟩
  case create =>
    intro fn p s h hfree hmask hqtrs hempty
    obtain ⟨t, hexec, hdone⟩ := ptnWrite_done h hfree (ptnCreate_done hmask hqtrs hempty) ((Repowered.refl (ptnMade p.val s)).railsTo.retarget)
    obtain ⟨hframe, hcmd⟩ := hdone.frame_of (ptnMade_frame p.val s)
    obtain ⟨hex, hheld, hvf, hfig, hquota⟩ := ptnMade_makes p.val s
    refine ⟨t, hexec, hframe, hcmd, ?_⟩
    rw [hdone.ptn p.val]
    exact ⟨hex, hheld, hvf, hfig, hquota, t2Quota_ptnMade, fun q hq hbit => (hdone.rail q).trans (railOn_ptnMade hq hbit),
      fun q hq => (hdone.ptn q).trans (by rw [getPtn_ptnMade_ne hq])⟩
  case grow =>
    intro fn p s h hfree hmask hqtrs hex hempty
    obtain ⟨v, hgo, hpwr⟩ := ptnGrow_done hmask hqtrs hex hempty
    obtain ⟨t, hexec, hdone⟩ := ptnWrite_done h hfree hgo hpwr
    obtain ⟨hset, hown, hothers⟩ := grown_grows p.val (newQtrs s.ptnCmd.arg (getPtn s p.val).qtrs) s
    obtain ⟨hframe, hcmd⟩ := hdone.frame_of hset
    exact ⟨t, hexec, hframe, hcmd, (hdone.ptn p.val).trans (by rw [hown, or_newQtrs]), fun q hq => (hdone.ptn q).trans (by rw [hothers q hq])⟩
  case shrink =>
    intro fn p s h hfree hmask hqtrs hsome hex hempty
    obtain ⟨t, hexec, hframe, hcmd, hptn, -⟩ := ptnWrite_done h hfree (ptnShrink_done hmask hqtrs hsome hex hempty) (Repowered.refl _).retarget
    exact ⟨t, hexec, hframe.trans (by rw [shrunk, qtrRails_frame, modPtn]), hcmd.trans (by rw [shrunk, qtrRails_frame, modPtn]),
      (hptn p.val).trans (by rw [shrunk, getPtn_qtrRails, getPtn_modPtn_self]),
      fun q hq => (hptn q).trans (by rw [shrunk, getPtn_qtrRails, getPtn_modPtn_ne _ _ hq])⟩
  case destroy =>
    intro fn p s h hfree hex hempty hctxs
    obtain ⟨t, hexec, hdone⟩ := ptnWrite_done h hfree (ptnDestroy_done hex hempty hctxs) (Repowered.refl (destroyed p.val s)).retarget
    obtain ⟨hframe, hcmd⟩ := hdone.frame_of (destroyed_frame p.val s)
    refine ⟨t, hexec, hframe, hcmd, ?_⟩
    rw [hdone.ptn p.val, getPtn_destroyed_self]
    exact ⟨rfl, rfl, rfl, rfl, fun q hq => (hdone.ptn q).trans (by rw [getPtn_destroyed_ne hq])⟩
  case bind =>
    intro fn p vf s h hfree hex hunbound hpos hle henable hnone
    exact ⟨_, (ptnWrite_free h hfree _).trans (congrArg _ (ptnBind_done hex hunbound hpos hle henable hnone)), ptnResult_modPtn ..⟩
  case unbind =>
    intro fn p s h hfree hex hidle
    exact ⟨_, (ptnWrite_free h hfree _).trans (congrArg _ (ptnUnbind_done hex hidle)), ptnResult_modPtn ..⟩
  case done =>
    intro s hbusy
    exact ⟨_, exec_modPtnDone hbusy, pulse_signalled srcPtnDone _ rfl⟩
  case answers =>
    intro fn p vf s c h hc
    rcases List.mem_cons.mp hc with rfl | hc
    · exact ptnWrite_answers h (ptnCreate_answers p.val s)
    rcases List.mem_cons.mp hc with rfl | hc
    · exact ptnWrite_answers h (ptnGrow_answers p.val s)
    rcases List.mem_cons.mp hc with rfl | hc
    · exact ptnWrite_answers h (ptnShrink_answers p.val s)
    rcases List.mem_cons.mp hc with rfl | hc
    · exact ptnWrite_answers h (ptnDestroy_answers p.val s)
    rcases List.mem_cons.mp hc with rfl | hc
    · exact ptnWrite_answers h (ptnBind_answers p.val vf s)
    · rw [List.mem_singleton.mp hc]
      exact ptnWrite_answers h (ptnUnbind_answers p.val s)

end Sys2Proof.Proofs
end

section
/-! PROOFS. The figure opcodes (08 R245): the statement speaks of every state, and fails for a context of a partition that the module does not have. -/
namespace Sys2Proof.Proofs
open Sys2Proof Sys2Proof.Machine Sys2Proof.Safety

/-- A FIG_REMOVE of slot 0 from ring 0. -/
def removeEntry : Entry := { ring := 0, hdr := 0, notify := false, tag := 7, ops := List.replicate 14 0 }

/-- Ring 0 is a command ring of context 0, which holds FIGURE_OPS; but the context names partition 32, one past the module's last, whose figure-done
source would have the number 0x500, which no source has. -/
def pastLastPtn : State :=
  { linkUp := true
    fns := [(0, { bme := true })]
    boot := { stage := .ready }
    ptns := [(32, { exists_ := true })]
    ctxs := [(0, { st := .enabled, ptn := 32, cur := { figOps := true } })]
    rings := [(0, { cur := { type := 0, enable := true, size := 6, ctx := 0, base := 0x10000, comp := 1 }, tail := 1, assigned := true }),
      (1, { cur := { type := 1, enable := true, size := 6, base := 0x20000 }, assigned := true })] }

theorem runs_pastLastPtn : Runs pastLastPtn removeEntry 0x11 := by
  unfold Runs
  decide +kernel

/-- No source is pending once the FIG_REMOVE has run. -/
theorem not_pending_pastLastPtn : ∀ t, exec (.figRemove removeEntry) pastLastPtn = .next t → isPending t (srcPtn 32 0) = false := by
  intro t h
  have hquiet : (match exec (.figRemove removeEntry) pastLastPtn with | .next t => isPending t (srcPtn 32 0) | _ => true) = false := by decide +kernel
  rw [h] at hquiet
  exact hquiet

/-- Refutes O24: the statement speaks of every state, and a FIG_REMOVE of a context whose partition number is 32 pends no source, because no partition
32 has one. No step leads to such a context (ENABLE takes a number below 32). -/
theorem not_figureOpcodesActForTheirRing : ¬ Obligations.FigureOpcodesActForTheirRing := by
  rintro ⟨-, -, hremove, -⟩
  obtain ⟨t, hexec, -, -, -, hpending⟩ := hremove removeEntry pastLastPtn runs_pastLastPtn (by decide) (by decide +kernel) (by decide +kernel)
  have hquiet := not_pending_pastLastPtn t hexec
  exact absurd (hpending.symm.trans hquiet) (by decide)

end Sys2Proof.Proofs
end

section
/-! PROOFS. Doorbells (00 R7; 08 R241) and the entries that end on their ring alone: NOP, FENCE, reserved opcodes, and entries with a set reserved
bit (08 R244, R245, R248, R260). -/
namespace Sys2Proof.Proofs
open Sys2Proof Sys2Proof.Machine Sys2Proof.Safety

/-! ### Doorbells (08 R241) -/

section
variable {s : State} {fn : FnId}

theorem doorbellAt_div (r i : Nat) (hi : i < 8) : (8 * r + i) / 8 = r := by omega

theorem bar2Access_served {off : Nat} (go : Nat → State → State) (hoff : off < 2 ^ 18) (h : Served s fn (seesRing s fn.val (off / 8)) false) :
    bar2Access fn off go s = go (off / 8) s := by
  obtain ⟨hopen, hsees, hup⟩ := h
  simp only [bar2Access, hostAccess_served _ hopen (show (decide (2 ^ 18 ≤ off) || seesRing s fn.val (off / 8)) = true by simp [hsees]) hup, if_pos hoff]

theorem wordAccess_doorbell (r : Nat) {size : Nat} (hsize : size = 4 ∨ size = 8) : wordAccess (8 * r) size = true := by
  have hmod8 : 8 * r % 8 = 0 := Nat.mul_mod_right 8 r
  have hmod4 : 8 * r % 4 = 0 := by omega
  rcases hsize with rfl | rfl <;> simp [wordAccess, hmod4, hmod8]

/-- A served doorbell write of 4 or 8 bytes rings the doorbell. -/
theorem exec_doorbellWrite {r : RingId} {size : Nat} (val : DWord) (h : Served s fn (seesRing s fn.val r.val) false) (hsize : size = 4 ∨ size = 8) :
    exec (.doorbellWrite fn ⟨8 * r.val, size⟩ val) s = .next (doorbell r.val (w32 val.toNat) s) := by
  have hdiv : 8 * r.val / 8 = r.val := doorbellAt_div r.val 0 (by omega)
  have hserved : Served s fn (seesRing s fn.val (8 * r.val / 8)) false := by rwa [hdiv]
  have hoff : 8 * r.val < 2 ^ 18 := by have := r.isLt; omega
  have haccess : doorbellAccess fn.val (8 * r.val) size val.toNat s = doorbell r.val (w32 val.toNat) s := by
    rw [doorbellAccess, if_pos (wordAccess_doorbell r.val hsize), bar2Access_served _ hoff hserved, hdiv, if_pos (by omega)]
  exact congrArg Host.Outcome.next haccess

/-- A narrower or unaligned write only sets the function's flag. -/
theorem exec_doorbellWrite_narrow {off size : Nat} (val : DWord) (hoff : off < 2 ^ 18) (hword : wordAccess off size = false)
    (h : Served s fn (seesRing s fn.val (off / 8)) false) : exec (.doorbellWrite fn ⟨off, size⟩ val) s = .next (flagSize fn.val s) := by
  have haccess : doorbellAccess fn.val off size val.toNat s = flagSize fn.val s := by
    rw [doorbellAccess, if_neg (by simp [hword]), bar2Access_served _ hoff h]
  exact congrArg Host.Outcome.next haccess

/-- The bytes of a doorbell, HEAD below TAIL. -/
theorem doorbellShown_bytes {r : RingId} (h : Served s fn (seesRing s fn.val r.val) false) :
    ((List.range 8).map fun i => BitVec.ofNat 8 (doorbellShown s fn.val (8 * r.val + i))) =
      leBytes 8 ((getRing s r.val).head + 2 ^ 32 * (getRing s r.val).tail) := by
  obtain ⟨-, hsees, hup⟩ := h
  have hready : isReady s = true := by simpa using hup
  have hshown : ∀ i, i < 8 → doorbellShown s fn.val (8 * r.val + i) =
      ((getRing s r.val).head + 2 ^ 32 * (getRing s r.val).tail) / 2 ^ (8 * i) % 256 := by
    intro i hi
    have hoff : 8 * r.val + i < 2 ^ 18 := by have := r.isLt; omega
    have hmod : (8 * r.val + i) % 8 = i := by omega
    rw [doorbellShown, doorbellAt_div _ _ hi, hmod, if_pos (by simp only [hoff, hsees, hready, decide_true, Bool.and_self])]
  generalize (getRing s r.val).head + 2 ^ 32 * (getRing s r.val).tail = n at hshown ⊢
  have hbyte : ∀ i, i < 8 → BitVec.ofNat 8 (doorbellShown s fn.val (8 * r.val + i)) = BitVec.ofNat 8 (n / 2 ^ (8 * i)) := by
    intro i hi
    rw [hshown i hi]
    exact BitVec.eq_of_toNat_eq (by simp [BitVec.toNat_ofNat])
  calc (List.range 8).map (fun i => BitVec.ofNat 8 (doorbellShown s fn.val (8 * r.val + i)))
      = (List.range 8).map (fun i => BitVec.ofNat 8 (n / 2 ^ (8 * i))) := List.map_congr_left fun i hi => hbyte i (List.mem_range.1 hi)
    _ = leBytes 8 n := by simp [List.range_succ, leBytes, Nat.div_div_eq_div_mul]

theorem exec_doorbellRead {r : RingId} (h : Served s fn (seesRing s fn.val r.val) false) :
    exec (.rcRead fn ⟨.doorbells, 8 * r.val⟩ 8) s = .next { s with out := { s.out with
      read := leBytes 8 ((getRing s r.val).head + 2 ^ 32 * (getRing s r.val).tail), readEp := false } } := by
  have hdiv : 8 * r.val / 8 = r.val := doorbellAt_div r.val 0 (by omega)
  have hserved : Served s fn (seesRing s fn.val (8 * r.val / 8)) false := by rwa [hdiv]
  have hoff : 8 * r.val < 2 ^ 18 := by have := r.isLt; omega
  have hread : doorbellRead fn.val (8 * r.val) 8 s =
      readOut (leBytes 8 ((getRing s r.val).head + 2 ^ 32 * (getRing s r.val).tail)) false s := by
    rw [doorbellRead, if_neg (by simp [h.1]), bar2Access_served _ hoff hserved, if_pos (wordAccess_doorbell r.val (.inr rfl)), doorbellShown_bytes h]
  exact congrArg Host.Outcome.next hread

end

/-- No ring holds a RESET completion. -/
def NoResets (s : State) : Prop := ∀ e ∈ s.rings, e.2.resets = []

theorem NoResets.modRing {s : State} (h : NoResets s) {r : Nat} {g : Ring → Ring} (hg : ∀ x, (g x).resets = x.resets) : NoResets (modRing r g s) := by
  have hring : (getRing s r).resets = [] := by
    by_cases hdef : getRing s r = {}
    · rw [hdef]
    · exact h _ (mem_of_tget_ne hdef)
  intro e he
  rcases mem_tmod he with rfl | hold
  · exact (hg _).trans hring
  · exact h e hold

theorem NoResets.flushHeld {s : State} (h : NoResets s) (r : Nat) (d : Bool) : flushHeld r d s = s := by
  have hnone : (s.rings.filter fun e => !e.2.resets.isEmpty && (e.1 == r || e.2.cur.comp == r)) = [] :=
    List.filter_eq_nil_iff.2 fun e he => by simp [h e he]
  simp only [Machine.flushHeld, hnone, List.map_nil, List.foldl_nil]

theorem noteFull_notDue {s : State} {r : Nat} (h : ringFull (getRing s r) = false ∨ (getRing s r).fullNoted = true) : noteFull r s = s := by
  rcases h with h | h <;> simp [noteFull, h]

theorem retryResets_none {s : State} {r : Nat} (h : ∀ e ∈ (getRing s r).resetEnts, e.2.2 = false) : retryResets r s = s := by
  have hnone : ((getRing s r).resetEnts.filter fun e => e.2.2 && ringHas (getRing s r) e.1) = [] :=
    List.filter_eq_nil_iff.2 fun e he => by simp [h e he]
  simp only [retryResets, hnone, List.foldl_nil, ite_self]

section
variable {s : State} {r v : Nat}

/-- A command ring takes a TAIL that leaves at most its size between its indices. -/
theorem doorbell_tail (hen : (getRing s r).cur.enable = true) (htype : (getRing s r).cur.type = 0) (htail : diff32 v (getRing s r).tail ≤ ringSize (getRing s r))
    (hhead : diff32 v (getRing s r).head ≤ ringSize (getRing s r)) (hresets : NoResets s) :
    doorbell r v s = modRing r (fun x => { x with tail := v }) s := by
  have hok : dbOk (getRing s r) v = true := by simp [dbOk, htype, htail, hhead]
  simp only [doorbell, hen, hok, htype, Bool.not_true, Bool.false_eq_true, if_false, if_true]
  exact (hresets.modRing (g := fun x => { x with tail := v }) fun _ => rfl).flushHeld _ _

/-- What an accepted HEAD makes of a ring of the other two types. -/
def headTaken (v : Nat) (x : Ring) : Ring := { x with head := v, recs := x.recs.map fun k => { k with needDb := false } }

/-- A completion or token ring takes a HEAD up to its TAIL. -/
theorem doorbell_head (hen : (getRing s r).cur.enable = true) (htype : (getRing s r).cur.type ≠ 0)
    (hhead : diff32 v (getRing s r).head ≤ diff32 (getRing s r).tail (getRing s r).head) (hresets : NoResets s)
    (hents : ∀ e ∈ (getRing s r).resetEnts, e.2.2 = false)
    (hfull : ringFull { getRing s r with head := v } = false ∨ (getRing s r).fullNoted = true) :
    doorbell r v s = { s with rings := (doorbell r v s).rings } ∧ OtherRings r s (doorbell r v s) ∧
      ∃ noted, getRing (doorbell r v s) r = { headTaken v (getRing s r) with fullNoted := noted } := by
  have hok : dbOk (getRing s r) v = true := by simp [dbOk, htype, hhead]
  have htaken : retryResets r (modRing r (headTaken v) s) = modRing r (headTaken v) s :=
    retryResets_none (by rw [getRing_modRing_self]; exact hents)
  have hbell : doorbell r v s = noteFull r (flushHeld r true (if ringFull (getRing (modRing r (headTaken v) s) r) then modRing r (headTaken v) s
      else modRing r (fun x => { x with fullNoted := false }) (modRing r (headTaken v) s))) := by
    rw [← htaken]
    simp only [doorbell, hen, hok, htype, Bool.not_true, Bool.false_eq_true, if_false]
    rfl
  have hquiet : NoResets (modRing r (headTaken v) s) := hresets.modRing fun _ => rfl
  have hnext : NoResets (modRing r (fun x => { x with fullNoted := false }) (modRing r (headTaken v) s)) := hquiet.modRing fun _ => rfl
  have hnow : getRing (modRing r (headTaken v) s) r = headTaken v (getRing s r) := getRing_modRing_self ..
  cases hf : ringFull (headTaken v (getRing s r)) with
  | true =>
    have hnoted : (getRing s r).fullNoted = true := hfull.resolve_left fun hroom => absurd (hf.symm.trans hroom) (by decide)
    have hend : doorbell r v s = modRing r (headTaken v) s := by
      rw [hbell, hnow, hf, if_pos rfl, hquiet.flushHeld, noteFull_notDue (.inr (by rw [hnow]; exact hnoted))]
    rw [hend]
    exact ⟨rfl, fun q hq => getRing_modRing_ne _ _ hq, _, hnow⟩
  | false =>
    have hend : doorbell r v s = modRing r (fun x => { x with fullNoted := false }) (modRing r (headTaken v) s) := by
      rw [hbell, hnow, hf, if_neg (by decide), hnext.flushHeld, noteFull_notDue (.inl _)]
      rw [getRing_modRing_self, hnow]; exact hf
    rw [hend]
    exact ⟨rfl, fun q hq => (getRing_modRing_ne _ _ hq).trans (getRing_modRing_ne _ _ hq), false, by rw [getRing_modRing_self, hnow]⟩

theorem doorbell_refused (hen : (getRing s r).cur.enable = true) (hbad : dbOk (getRing s r) v = false) :
    doorbell r v s = modRing r (fun x => { x with dbBad := true }) s := by
  simp [doorbell, hen, hbad]

theorem doorbell_disabled (hen : (getRing s r).cur.enable = false) : doorbell r v s = modRing r (fun x => { x with dbDisabled := true }) s := by
  simp [doorbell, hen]

end

/-! ### Entries that end on their ring alone (08 R244, R245, R260) -/

section
variable {s t : State} {e : Entry} {op : Nat}

/-- Only rings and host memory differ. -/
def RingsOnly (s t : State) : Prop := t = { s with rings := t.rings, out := { s.out with hostMem := t.out.hostMem } }

theorem RingsOnly.modRing (h : RingsOnly s t) (r : Nat) (g : Ring → Ring) : RingsOnly s (modRing r g t) := by
  show ({ t with rings := tmod {} r g t.rings } : State) = _
  generalize hrings : tmod {} r g t.rings = rings
  rw [show Machine.modRing r g t = { t with rings := rings } from hrings ▸ rfl, h]

theorem ringsOnly_begun (s : State) (e : Entry) (op : Nat) : RingsOnly s (begun s e op) := begun_frame s e op

theorem RingsOnly.modCmd (h : RingsOnly s t) (r i : Nat) (g : Cmd → Cmd) : RingsOnly s (modCmd r i g t) := h.modRing _ _

/-- The entry's command ends as it started, when no other started command of its ring has its index. -/
theorem begun_endCmd (hnone : getCmd s e.ring.val (getRing s e.ring.val).head = none) (st res : Nat) {t : State}
    (ht : t = endCmd (newCmd s e op).ring (newCmd s e op).idx st res (begun s e op)) : RingsOnly s t ∧ Ended s t e op st res := by
  obtain ⟨hring, hothers, hmem⟩ := started_begun s e op
  rw [ht]
  refine ⟨(ringsOnly_begun s e op).modCmd _ _ _, ?_, fun r hr => (getRing_modRing_ne _ _ hr).trans (hothers r hr), hmem⟩
  have hlast : lmodFirst (fun c => c.idx == (newCmd s e op).idx && !c.gone) (fun c => { c with phase := .done, status := st, result := w32 res, todo := [] })
      ((getRing s e.ring.val).started ++ [newCmd s e op]) =
        (getRing s e.ring.val).started ++ [{ newCmd s e op with phase := .done, status := st, result := w32 res }] :=
    lmodFirst_append_last hnone (by simp [newCmd])
  refine (getRing_modRing_self _ e.ring.val _).trans ?_
  rw [hring]
  simp only [hlast]

theorem runEntry_badHeader (hstart : canStart s e.ring.val = true) (hhdr : e.hdr ≠ 0) (go : Cmd → State → State) :
    runEntry e op s go = endCmd (newCmd s e op).ring (newCmd s e op).idx 1 0 (begun s e op) := by
  simp [runEntry, hstart, hhdr, begun]

theorem runEntry_badOperand (hstart : canStart s e.ring.val = true) (hhdr : e.hdr = 0) (hops : opsClean op e.ops = false) (go : Cmd → State → State) :
    runEntry e op s go = endCmd (newCmd s e op).ring (newCmd s e op).idx 2 0 (begun s e op) := by
  simp [runEntry, hstart, hhdr, hops, begun]

theorem exec_reservedOpcode (hstart : canStart s e.ring.val = true) (opc : Byte) (hlisted : opcodes.contains opc.toNat = false) :
    exec (.reservedOpcode e opc) s =
      .next (endCmd (newCmd s e opc.toNat).ring (newCmd s e opc.toNat).idx 1 0 (begun s e opc.toNat)) := by
  refine congrArg Host.Outcome.next ?_
  rw [if_pos (by rw [hstart, hlisted]; rfl)]
  rfl

end

/-! ### FENCE (08 R260) -/

section
variable {s : State} {e : Entry}

/-- The fence that the entry started as. -/
def fenceCmd (s : State) (e : Entry) : Cmd := { newCmd s e 1 with phase := .running }

/-- The state in which the fence runs. -/
def fenced (s : State) (e : Entry) : State := modCmd e.ring.val (getRing s e.ring.val).head (fun k => { k with phase := .running }) (begun s e 1)

theorem started_fenced (h : Runs s e 1) : Started s (fenced s e) e (fenceCmd s e) :=
  started_modCmd h (started_begun s e 1) rfl rfl _

theorem ringsOnly_fenced (s : State) (e : Entry) : RingsOnly s (fenced s e) := (ringsOnly_begun s e 1).modCmd _ _ _

theorem exec_fence (h : Runs s e 1) : exec (.fence e) s = .next (fenceDone e.ring.val (fenced s e)) :=
  congrArg Host.Outcome.next (runEntry_begun h _)

/-- Nothing of the ring is before the fence. -/
theorem fenceDone_alone (h : Runs s e 1) (hgone : ∀ k ∈ (getRing s e.ring.val).started, k.gone = true) :
    fenceDone e.ring.val (fenced s e) = endCmd e.ring.val (getRing s e.ring.val).head 0 0 (fenced s e) := by
  have hfirst : ((getRing (fenced s e) e.ring.val).started.filter fun k => !k.gone) = [fenceCmd s e] := by
    have hold : (getRing s e.ring.val).started.filter (fun k => !k.gone) = [] :=
      List.filter_eq_nil_iff.2 fun k hk => by simp [hgone k hk]
    rw [(started_fenced h).1]
    simp [List.filter_append, hold, fenceCmd, newCmd]
  have hrun : (fenceCmd s e).opcode = 1 ∧ (fenceCmd s e).phase = .running := ⟨rfl, rfl⟩
  simp only [fenceDone, hfirst, if_pos hrun]
  rfl

/-- An earlier command of the ring, which is no fence, is before it. -/
theorem fenceDone_behind (h : Runs s e 1) {k : Cmd} (hk : k ∈ (getRing s e.ring.val).started) (hgone : k.gone = false) :
    fenceDone e.ring.val (fenced s e) = fenced s e := by
  have hopen : fenceOpen (getRing s e.ring.val) = false := by
    have hstart := h.1
    simp only [canStart, Bool.and_eq_true, Bool.not_eq_true'] at hstart
    tauto
  have hmem : k ∈ (getRing s e.ring.val).started.filter fun j => !j.gone := List.mem_filter.2 ⟨hk, by simp [hgone]⟩
  obtain ⟨j, rest, hfirst⟩ := List.exists_cons_of_ne_nil (List.ne_nil_of_mem hmem)
  have hj : j ∈ (getRing s e.ring.val).started.filter fun j => !j.gone := hfirst ▸ List.mem_cons_self
  have hop : j.opcode ≠ 1 := by
    intro hop
    obtain ⟨hjmem, hjgone⟩ := List.mem_filter.1 hj
    exact absurd (List.any_eq_false.1 hopen j hjmem) (by simp [hop, hjgone])
  have hbefore : ((getRing (fenced s e) e.ring.val).started.filter fun k => !k.gone) = j :: (rest ++ [fenceCmd s e].filter fun k => !k.gone) := by
    rw [(started_fenced h).1, List.filter_append, hfirst]; rfl
  simp only [fenceDone, hbefore, hop, false_and, if_false]

end

/-- Settles O16: each doorbell access does what its ring's state makes of it, and NOP, FENCE and the entries that a check refuses end their own
command and change nothing else. -/
theorem doorbellsAndPlainEntries : Obligations.DoorbellsAndPlainEntries := by
  refine ⟨⟨?tail, ?head, ?refused, ?disabled, ?narrow, ?read⟩, ⟨?nop, ?fence, ?fenceWaits, ?reserved, ?header, ?operand⟩⟩
  case tail =>
    intro fn r size val s h hen htype htail hhead hresets hsize
    refine ⟨_, exec_doorbellWrite val h hsize, ?_⟩
    rw [doorbell_tail hen htype htail hhead hresets]
    exact ⟨rfl, fun q hq => getRing_modRing_ne _ _ hq, getRing_modRing_self ..⟩
  case head =>
    intro fn r size val s h hen htype hhead hresets hents hfull hsize
    obtain ⟨hframe, hothers, noted, hring⟩ := doorbell_head hen htype hhead hresets hents hfull
    refine ⟨_, exec_doorbellWrite val h hsize, hframe, hothers, ?_⟩
    rw [hring]
    exact ⟨rfl, rfl, rfl, rfl⟩
  case refused =>
    intro fn r size val s h hen hbad hsize
    refine ⟨_, exec_doorbellWrite val h hsize, ?_⟩
    rw [doorbell_refused hen hbad]
    exact ⟨rfl, fun q hq => getRing_modRing_ne _ _ hq, getRing_modRing_self ..⟩
  case disabled =>
    intro fn r size val s h hen hsize
    refine ⟨_, exec_doorbellWrite val h hsize, ?_⟩
    rw [doorbell_disabled hen]
    exact ⟨rfl, fun q hq => getRing_modRing_ne _ _ hq, getRing_modRing_self ..⟩
  case narrow =>
    intro fn off size val s hoff hword h
    exact ⟨_, exec_doorbellWrite_narrow val hoff hword h, rfl, getFn_modFn_self .., fun f hf => getFn_modFn_ne _ _ hf⟩
  case read =>
    intro fn r s h
    exact exec_doorbellRead h
  case nop =>
    intro e s h
    exact ⟨_, congrArg Host.Outcome.next (runEntry_begun h _), begun_endCmd h.2.2.2.1 0 0 rfl⟩
  case fence =>
    intro e s h hgone
    refine ⟨_, exec_fence h, ?_⟩
    rw [fenceDone_alone h hgone]
    exact ⟨(ringsOnly_fenced s e).modCmd _ _ _, started_modCmd h (started_fenced h) rfl rfl _⟩
  case fenceWaits =>
    intro e k s h hk hgone
    refine ⟨_, exec_fence h, ?_⟩
    rw [fenceDone_behind h hk hgone]
    exact ⟨ringsOnly_fenced s e, started_fenced h⟩
  case reserved =>
    intro e op s hstart hnone hlisted
    exact ⟨_, exec_reservedOpcode hstart op hlisted, begun_endCmd hnone 1 0 rfl⟩
  case header =>
    intro e s hstart hnone hhdr
    exact ⟨_, congrArg Host.Outcome.next (runEntry_badHeader hstart hhdr _), begun_endCmd hnone 1 0 rfl⟩
  case operand =>
    intro e s hstart hnone hhdr hops
    exact ⟨_, congrArg Host.Outcome.next (runEntry_badOperand hstart hhdr hops _), begun_endCmd hnone 2 0 rfl⟩

end Sys2Proof.Proofs
end

section
/-! PROOFS. A context reset begins (11 R332, R337, R339): what removing the context's work leaves of rings, contexts and the fault block, and what a
fault with the action CONTEXT makes of the context. -/
namespace Sys2Proof.Proofs
open Sys2Proof Sys2Proof.Machine Sys2Proof.Safety

/-! ### Removing work (11 R339) -/

/-- Rings, contexts and the fault block are as before. -/
structure HostSideKept (s t : State) : Prop where
  rings : t.rings = s.rings
  ctxs  : t.ctxs = s.ctxs
  flt   : t.flt = s.flt

namespace HostSideKept

theorem refl (s : State) : HostSideKept s s := ⟨rfl, rfl, rfl⟩

section
variable {s t : State} (h : HostSideKept s t)
include h

theorem trans {u : State} (k : HostSideKept t u) : HostSideKept s u := ⟨k.rings.trans h.rings, k.ctxs.trans h.ctxs, k.flt.trans h.flt⟩

theorem same {u : State} (hr : u.rings = t.rings := by rfl) (hc : u.ctxs = t.ctxs := by rfl) (hf : u.flt = t.flt := by rfl) : HostSideKept s u :=
  h.trans ⟨hr, hc, hf⟩

theorem foldl {α : Type} {f : State → α → State} {l : List α} (hf : ∀ {u a}, HostSideKept s u → HostSideKept s (f u a)) : HostSideKept s (l.foldl f t) :=
  List.foldlRecOn l f h fun _ hu _ _ => hf hu

theorem sends {u : State} (k : SendsOnly t u) : HostSideKept s u := h.trans ⟨by rw [k], by rw [k], by rw [k]⟩

theorem modPtn {p : Nat} {g : Ptn → Ptn} : HostSideKept s (modPtn p g t) := h.same

theorem modTab {p a : Nat} {g : KvTab → KvTab} : HostSideKept s (modTab p a g t) := by
  have hframe := (rangeWritten_modTab p a g t).frame
  exact h.trans ⟨by rw [hframe], by rw [hframe], by rw [hframe]⟩

theorem clearRecomputing {c : Nat} : HostSideKept s (clearRecomputing c t) := h.foldl fun hu => by
  split
  · exact hu.modTab
  · exact hu

theorem cancelSender {p x : Nat} {sel : XTok → Bool} : HostSideKept s (cancelSender p x sel t) := by
  refine HostSideKept.modPtn (h.foldl fun hu => ?_)
  split
  · exact hu
  · exact hu.sends (sendsOnly_sendUnits ..)

theorem voidHome {p x : Nat} {sel : Nat → Bool} : HostSideKept s (voidHome p x sel t) := (h.sends (sendsOnly_sendUnits ..)).modPtn

theorem dropExch {p c x : Nat} {run : Bool} : HostSideKept s (dropExch p c x run t) := by
  simp only [Machine.dropExch]
  split
  · exact h.cancelSender
  · exact h.cancelSender.voidHome.modPtn

theorem dropMoverItems {sel : MoverItem → Bool} : HostSideKept s (dropMoverItems sel t) :=
  h.foldl fun hu => HostSideKept.foldl (hu.same (u := Machine.modDie ..)) fun hv => hv.modPtn

end

end HostSideKept

/-- What removing a context's work makes of the state before its commands are marked. -/
theorem removeWork_marks (c : Nat) (s : State) : ∃ u, HostSideKept s u ∧ removeWork c s = markGone c u := by
  have hstreams {b : Bool} {p : Nat} {u : State} (h : HostSideKept s u) : HostSideKept s (if b then clearStreams p u else u) := by
    split
    · exact h.modPtn
    · exact h
  exact ⟨_, (((hstreams (HostSideKept.refl s).clearRecomputing).foldl fun h => h.dropExch).modPtn.dropMoverItems).modPtn, rfl⟩

/-- A context's command rings with every command marked as removed. -/
def markedRing (c : Nat) (x : Ring) : Ring :=
  if x.cur.type = 0 ∧ x.cur.ctx = c then { x with started := x.started.map fun k => { k with gone := true } } else x

theorem tget_map_marked (c n : Nat) : ∀ t : Tbl Ring, tget {} (t.map fun e => (e.1, markedRing c e.2)) n = markedRing c (tget {} t n)
  | [] => by
    show ({} : Ring) = markedRing c {}
    unfold markedRing
    split <;> rfl
  | (k, x) :: t => by
    simp only [List.map_cons, tget]
    split
    · rfl
    · exact tget_map_marked c n t

theorem getRing_markGone (c n : Nat) (s : State) : getRing (markGone c s) n = markedRing c (getRing s n) := by
  rw [getRing, getRing, ← tget_map_marked]
  have hmap : (markGone c s).rings = s.rings.map fun e => (e.1, markedRing c e.2) := by
    refine List.map_congr_left fun e _ => ?_
    unfold markedRing
    split <;> rfl
  rw [hmap]

theorem dmaErr_markedRing (c : Nat) (x : Ring) : (markedRing c x).dmaErr = x.dmaErr := by
  unfold markedRing
  split <;> rfl

theorem gone_markedRing {c : Nat} {x : Ring} (htype : x.cur.type = 0) (hctx : x.cur.ctx = c) : ∀ k ∈ (markedRing c x).started, k.gone = true := by
  intro k hk
  rw [markedRing, if_pos ⟨htype, hctx⟩] at hk
  obtain ⟨j, -, rfl⟩ := List.mem_map.1 hk
  rfl

/-! ### A reset of level 1 begins (11 R332, R337) -/

/-- The context is in a reset of level 1 for a cause: it is counted, and the commands of its rings are removed. -/
structure CtxResetBegun (c cause : Nat) (s t : State) : Prop where
  ctx   : ∃ engs, getCtx t c = { getCtx s c with st := .resetting, reset := some { level := 1, cause := cause, db := false, engs := engs } }
  count : t.flt.n1 = satAdd 32 s.flt.n1 1
  log   : t.flt.log = s.flt.log
  rings : ∀ n, getRing t n = markedRing c (getRing s n)

theorem beginCtxReset_begun {c cause : Nat} {s : State} (h : (getCtx s c).st = .enabled) : CtxResetBegun c cause s (beginCtxReset c 1 cause false s) := by
  simp only [beginCtxReset, h, if_true]
  obtain ⟨u, hu, hgone⟩ := removeWork_marks c (modFlt (fun f => { f with n1 := satAdd 32 f.n1 1 })
    (modCtx c (fun x => { x with st := .resetting, reset := some { level := 1, cause := cause, db := false, engs := enginesOf s c } }) s))
  rw [hgone]
  refine ⟨⟨enginesOf s c, ?_⟩, congrArg (fun f => f.n1) hu.flt, congrArg (fun f => f.log) hu.flt, fun n => ?_⟩
  · have hsame : getCtx (markGone c u) c = getCtx (modCtx c (fun x => { x with st := .resetting, reset := some { level := 1, cause := cause, db := false, engs := enginesOf s c } }) s) c := by
      rw [getCtx, show (markGone c u).ctxs = _ from hu.ctxs]; rfl
    rw [hsame, getCtx_modCtx_self]
  · rw [getRing_markGone, getRing, hu.rings]; rfl

/-- No partition is in a mirror run. -/
theorem mirroring_mirrorFree {s : State} (h : MirrorFree s) (p : Nat) : mirroring (getPtn s p) = false := by
  unfold mirroring
  split
  · next c hc => exact absurd hc (h p c)
  · exact Bool.and_false _

/-- Outside mirror runs a fault is recorded and its action taken. -/
theorem raise_eq_raisePlain {r : FaultRec} {s : State} (h : MirrorFree s) : raise r s = raisePlain r s := by
  simp only [raise]
  split
  · rw [mirroring_mirrorFree h, Bool.false_and, if_neg (by decide)]
  · rfl

/-- Recording a fault that is not LOG: its record is the newest, and contexts, rings, the stage and the count of context resets are as before. -/
theorem recordFault_newest {r : FaultRec} {s : State} (haction : r.action ≠ 0) :
    (recordFault r s).ctxs = s.ctxs ∧ (recordFault r s).rings = s.rings ∧ (recordFault r s).boot = s.boot ∧ (recordFault r s).flt.n1 = s.flt.n1 ∧
      (recordFault r s).flt.log.head? = some { r with seq := w32 s.flt.seq, time := s.time } := by
  have hlogged : (logged r s).ctxs = s.ctxs ∧ (logged r s).rings = s.rings ∧ (logged r s).boot = s.boot ∧ (logged r s).flt = (logModule r s).flt := by
    unfold logged
    split
    · split <;> exact ⟨rfl, rfl, rfl, rfl⟩
    · exact ⟨rfl, rfl, rfl, rfl⟩
  obtain ⟨hctxs', hrings', hboot', hflt'⟩ := hlogged
  obtain ⟨ns, hsig⟩ := recordFault_logged r s
  obtain ⟨-, hctxs, hrings, -, -, -, -, hflt, hboot, -⟩ := hsig.units
  refine ⟨hctxs.trans hctxs', hrings.trans hrings', hboot.trans hboot', ?_, ?_⟩
  · rw [hflt, hflt']; rfl
  · rw [hflt, hflt']; exact head_addRecord haction 4095 s.flt.seq s.time s.flt.log

/-- A fault with the action CONTEXT, raised outside mirror runs while READY, is the newest record and resets its ENABLED context. -/
theorem raise_resetsCtx {r : FaultRec} {c : Nat} {s : State} (hready : isReady s = true) (hfree : MirrorFree s) (hctx : r.ctx = some c) (haction : r.action = 1)
    (hen : (getCtx s c).st = .enabled) :
    (∃ engs, getCtx (raise r s) c = { getCtx s c with st := .resetting, reset := some { level := 1, cause := r.code, db := false, engs := engs } }) ∧
      (raise r s).flt.n1 = satAdd 32 s.flt.n1 1 ∧ (raise r s).flt.log.head? = some { r with seq := w32 s.flt.seq, time := s.time } ∧
      ∀ n, getRing (raise r s) n = markedRing c (getRing s n) := by
  obtain ⟨hctxs, hrings, hboot, hcount, hlog⟩ := recordFault_newest (r := r) (s := s) (by rw [haction]; decide)
  have hready' : isReady (recordFault r s) = true := by rw [isReady, hboot]; exact hready
  have hsame : getCtx (recordFault r s) c = getCtx s c := by rw [getCtx, hctxs]; rfl
  have hbegun := beginCtxReset_begun (c := c) (cause := r.code) (s := recordFault r s) (by rw [hsame]; exact hen)
  rw [raise_eq_raisePlain hfree]
  have hbegins : raisePlain r s = beginCtxReset c 1 r.code false (recordFault r s) := by
    simp only [raisePlain, takeAction, haction, hctx, hready', if_true]
  rw [hbegins]
  obtain ⟨⟨engs, hst⟩, hn, hnewest, hmarked⟩ := hbegun
  refine ⟨⟨engs, by rw [hst, hsame]⟩, by rw [hn, hcount], by rw [hnewest]; exact hlog, fun n => ?_⟩
  rw [hmarked, getRing, hrings]; rfl

end Sys2Proof.Proofs
end

section
/-! PROOFS. Completions, command timeouts and DMA failures of rings (08 R242, R243, R247, R249, R258, R259; 11 R345). -/
namespace Sys2Proof.Proofs
open Sys2Proof Sys2Proof.Machine Sys2Proof.Safety

/-! ### Faults that are only logged, outside mirror runs (11 R329, R332) -/

theorem mirrorFree_of_reset {s t : State} (hreset : ∀ q, (getPtn t q).reset = (getPtn s q).reset) (h : MirrorFree s) : MirrorFree t :=
  fun q c => by rw [hreset]; exact h q c

/-- A fault with the action LOG is logged and signalled. -/
theorem raise_signals {r : FaultRec} {s : State} (haction : r.action = 0) (hfree : MirrorFree s) : ∃ ns, Signalled ns (logged r s) (raise r s) := by
  have hraise : raise r s = recordFault r s := by
    rw [raise_eq_raisePlain hfree]
    simp only [raisePlain, takeAction, haction]
  rw [hraise]
  exact recordFault_logged r s

theorem logged_keeps (r : FaultRec) (s : State) :
    (logged r s).rings = s.rings ∧ (logged r s).out = s.out ∧ (logged r s).flt.policy = s.flt.policy ∧
      ∀ q, (getPtn (logged r s) q).reset = (getPtn s q).reset := by
  have hown (p q : Nat) : (getPtn (logPtn p r (logModule r s)) q).reset = (getPtn s q).reset := by
    rw [logPtn, modPFlt, getPtn_modPtn]
    split
    · next h => rw [h]; rfl
    · rfl
  unfold logged
  split
  · split
    · exact ⟨rfl, rfl, rfl, fun _ => rfl⟩
    · exact ⟨rfl, rfl, rfl, hown _⟩
  · exact ⟨rfl, rfl, rfl, fun _ => rfl⟩

/-- What COMPLETION_RING_FULL at the action LOG leaves as before: all but its ring's note. -/
structure OnlyNoted (n : Nat) (s t : State) : Prop where
  ring   : ∃ b, getRing t n = { getRing s n with fullNoted := b }
  others : OtherRings n s t
  mem    : t.out.hostMem = s.out.hostMem
  policy : t.flt.policy = s.flt.policy
  reset  : ∀ q, (getPtn t q).reset = (getPtn s q).reset

theorem noteFull_notes {n : Nat} {s : State} (hlog : policyOf s 0x0503 = 0) (hfree : MirrorFree s) : OnlyNoted n s (noteFull n s) := by
  simp only [noteFull]
  split
  · obtain ⟨ns, hsig⟩ := raise_signals (r := ((faultRec s 0x0503 0 0).withCtx s (getRing s n).cur.ctx).withRing n)
      (s := modRing n (fun y => { y with fullNoted := true }) s) hlog hfree
    obtain ⟨hrings, hout, hpolicy, hreset⟩ := logged_keeps (((faultRec s 0x0503 0 0).withCtx s (getRing s n).cur.ctx).withRing n)
      (modRing n (fun y => { y with fullNoted := true }) s)
    generalize raise _ _ = t at hsig ⊢
    generalize logged _ _ = u at hsig hrings hout hpolicy hreset
    obtain ⟨hptns', -, hrings', -, -, -, -, hflt', -⟩ := hsig.units
    have hmem' : t.out.hostMem = u.out.hostMem := by rw [hsig.1]
    have hring (q : Nat) : getRing t q = getRing (modRing n (fun y => { y with fullNoted := true }) s) q := by rw [getRing, hrings', hrings]; rfl
    refine ⟨⟨true, by rw [hring, getRing_modRing_self]⟩, fun q hq => by rw [hring, getRing_modRing_ne _ _ hq], by rw [hmem', hout]; rfl, by rw [hflt', hpolicy]; rfl,
      fun q => ?_⟩
    rw [getPtn_eq_of_ptns hptns']; exact hreset q
  · exact ⟨⟨_, rfl⟩, fun _ _ => rfl, rfl, rfl, fun _ => rfl⟩

/-! ### A completion (08 R242, R247, R249) -/

theorem mread_mwrite_self (m : Memory) (a : Nat) (bs : List Byte) {m' : Memory} (h : ∀ i, i < bs.length → mget m' (a + i) = mget (mwrite m a bs) (a + i)) :
    mread m' a bs.length = bs := by
  have hread : ∀ (n b : Nat) (cs : List Byte), cs.length = n → (∀ i (hi : i < cs.length), mget m' (b + i) = cs[i]) → mread m' b n = cs := by
    intro n
    induction n with
    | zero => intro b cs hlen _; rw [List.length_eq_zero_iff.1 hlen]; rfl
    | succ n ih =>
      intro b cs hlen hget
      match cs, hlen with
      | c :: cs, hlen =>
        have hhead : mget m' b = c := hget 0 (Nat.succ_pos _)
        have htail : mread m' (b + 1) n = cs := ih (b + 1) cs (Nat.succ.inj hlen) fun i hi => by
          have := hget (i + 1) (Nat.succ_lt_succ hi)
          rwa [← Nat.add_assoc, Nat.add_right_comm] at this
        rw [mread, hhead, htail]
  exact hread _ a bs rfl fun i hi => (h i hi).trans (mget_mwrite_inside bs m a i hi)

theorem length_compBytes (tag status detail opcode result info idx ring phase time : Nat) :
    (compBytes tag status detail opcode result info idx ring phase time).length = 32 := by
  simp [compBytes, wordsBytes, Laws.leBytes_length]

/-- Host memory after an entry at an address and a write-back of an index, if the ring has one. -/
def entryWritten (m : Memory) (a : Nat) (bytes : List Byte) (wb idx : Nat) : Memory :=
  if wb = 0 then mwrite m a bytes else mwrite (mwrite m a bytes) wb (leBytes 4 idx)

theorem mget_entryWritten_apart (m : Memory) (a : Nat) (bytes : List Byte) {wb : Nat} (idx : Nat) {i : Nat} (h : wb = 0 ∨ i < wb ∨ wb + 4 ≤ i) :
    mget (entryWritten m a bytes wb idx) i = mget (mwrite m a bytes) i := by
  unfold entryWritten
  split
  · rfl
  · next hwb => exact mget_mwrite_outside _ _ _ _ (by rw [Laws.leBytes_length]; exact h.resolve_left hwb)

theorem mget_entryWritten_outside (m : Memory) {a : Nat} {bytes : List Byte} {wb : Nat} (idx : Nat) {i : Nat} (h : i < a ∨ a + bytes.length ≤ i)
    (hwb : wb = 0 ∨ i < wb ∨ wb + 4 ≤ i) : mget (entryWritten m a bytes wb idx) i = mget m i :=
  (mget_entryWritten_apart m a bytes idx hwb).trans (mget_mwrite_outside _ _ _ _ h)

theorem mread_entryWritten (m : Memory) {a : Nat} {bytes : List Byte} {wb : Nat} (idx : Nat) (h : wb = 0 ∨ wb + 4 ≤ a ∨ a + bytes.length ≤ wb) :
    mread (entryWritten m a bytes wb idx) a bytes.length = bytes :=
  mread_mwrite_self m a bytes fun i hi => mget_entryWritten_apart m a bytes idx (by omega)

theorem signalRing_signals (r : Nat) (idle : Bool) (s : State) : Signalled [] s (signalRing r idle s) := by
  simp only [signalRing]
  split
  · exact signalHost_signalled _ _ _ _ s
  · exact Signalled.refl s

section
variable {s : State} {r : Nat}

theorem flushResets_none (h : (getRing s r).resets = []) (d : Bool) : flushResets r d s = s := by
  simp only [flushResets, h, List.foldl_nil]

theorem fenceDone_ended {c : Cmd} {rest : List Cmd} (h : (getRing s r).started = c :: rest) (hdone : c.phase = .done) (hgone : c.gone = false) : fenceDone r s = s := by
  have hfirst : ((getRing s r).started.filter fun k => !k.gone) = c :: rest.filter fun k => !k.gone := by simp [h, hgone]
  simp only [fenceDone, hfirst]
  exact if_neg fun hrun => by rw [hdone] at hrun; exact absurd hrun.2 (by decide)

/-- The state in which the completion of a ring's first command is written. -/
def completed (r : Nat) (c : Cmd) (rest : List Cmd) (s : State) : State :=
  modPMem c.ptn (fun m => { m with unver := m.unver.filter fun e => !(e.1 == c.ring && e.2.1 == c.idx) })
    (putCompletion r c (modRing r (fun y => { y with started := rest }) s))

theorem completeFirst_completed {c : Cmd} {rest : List Cmd} (h : (getRing s r).started = c :: rest) (hdone : c.phase = .done) (hgone : c.gone = false)
    (hresets : (getRing s r).resets = []) (hreach : ringReach s (getRing s r).cur.comp = true) (hfull : ringFull (getRing s (getRing s r).cur.comp) = false) :
    completeFirst r s = noteFull (getRing s r).cur.comp (completed r c rest s) := by
  have hsame : fenceDone r (flushResets r false s) = s := by rw [flushResets_none hresets, fenceDone_ended h hdone hgone]
  simp only [completeFirst, hsame, h]
  rw [if_neg (by simp [hgone, hdone, hresets, hreach, hfull])]
  rfl

/-- One entry at a ring's TAIL: its bytes and the write-back in host memory, and TAIL in the ring. -/
theorem putEntry_puts (n : Nat) (bytes : List Byte) (s : State) :
    (∀ q, getRing (putEntry n bytes s) q = if q = n then { getRing s n with tail := w32 ((getRing s n).tail + 1) } else getRing s q) ∧
      (putEntry n bytes s).ptns = s.ptns ∧ (putEntry n bytes s).flt = s.flt ∧
      (putEntry n bytes s).out.hostMem =
        entryWritten s.out.hostMem ((getRing s n).cur.base + (getRing s n).tail % ringSize (getRing s n) * 32) bytes (getRing s n).cur.wb
          (w32 ((getRing s n).tail + 1)) := by
  have hwb : (getRing (modRing n (fun x => { x with tail := w32 (x.tail + 1) }) (hostWrite ((getRing s n).cur.base + (getRing s n).tail % ringSize (getRing s n) * 32) bytes s)) n).cur =
      (getRing s n).cur := by rw [getRing_modRing_self]; rfl
  refine ⟨fun q => ?_, ?_, ?_, ?_⟩
  · have hrings : (putEntry n bytes s).rings = (modRing n (fun x => { x with tail := w32 (x.tail + 1) }) s).rings := by
      rw [putEntry, writeBack_frame]; rfl
    rw [getRing, hrings]
    exact getRing_modRing ..
  · rw [putEntry, writeBack_frame]; rfl
  · rw [putEntry, writeBack_frame]; rfl
  · rw [putEntry, hostMem_writeBack, hwb]; rfl

theorem putCompletion_puts {n : Nat} (c : Cmd) (hcomp : (getRing s r).cur.comp = n) :
    let bytes := compBytes c.tag c.status c.detail c.opcode c.result c.info c.idx r (phaseOf (getRing s n) (getRing s n).tail) s.time
    (putCompletion r c s).rings = (putEntry n bytes s).rings ∧ (putCompletion r c s).ptns = (putEntry n bytes s).ptns ∧
      (putCompletion r c s).flt = (putEntry n bytes s).flt ∧ (putCompletion r c s).out.hostMem = (putEntry n bytes s).out.hostMem := by
  intro bytes
  simp only [putCompletion, hcomp]
  split
  · have hsig := signalRing_signals n (ringIdleNow s n) (putEntry n bytes s)
    obtain ⟨hptns, -, hrings, -, -, -, -, hflt, -⟩ := hsig.units
    exact ⟨hrings, hptns, hflt, by rw [hsig.1]⟩
  · exact ⟨rfl, rfl, rfl, rfl⟩

end

/-- What the completion of a ring's first command leaves in the two rings and in host memory. -/
theorem completed_completes {s : State} {r : Nat} {c : Cmd} {rest : List Cmd} (hne : (getRing s r).cur.comp ≠ r) :
    let n := (getRing s r).cur.comp
    let x := getRing s n
    let t := completed r c rest s
    (∀ q, getRing t q = if q = n then { x with tail := w32 (x.tail + 1) } else if q = r then { getRing s r with started := rest } else getRing s q) ∧
      t.flt = s.flt ∧ (∀ q, (getPtn t q).reset = (getPtn s q).reset) ∧
      t.out.hostMem =
        entryWritten s.out.hostMem (x.cur.base + x.tail % ringSize x * 32)
          (compBytes c.tag c.status c.detail c.opcode c.result c.info c.idx r (phaseOf x x.tail) s.time) x.cur.wb (w32 (x.tail + 1)) := by
  intro n x t
  obtain ⟨hrings, hptns, hflt, hmem⟩ := putCompletion_puts (s := modRing r (fun y => { y with started := rest }) s) (r := r) (n := n) c
    (by rw [getRing_modRing_self])
  obtain ⟨hring', hptns', hflt', hmem'⟩ := putEntry_puts n (compBytes c.tag c.status c.detail c.opcode c.result c.info c.idx r (phaseOf x x.tail) s.time)
    (modRing r (fun y => { y with started := rest }) s)
  have hx : getRing (modRing r (fun y => { y with started := rest }) s) n = x := getRing_modRing_ne _ _ hne
  rw [hx] at hring' hmem' hrings hptns hflt hmem
  refine ⟨fun q => ?_, hflt.trans hflt', fun q => ?_, hmem.trans hmem'⟩
  · have hq : getRing t q = getRing (putCompletion r c (modRing r (fun y => { y with started := rest }) s)) q := rfl
    rw [hq, getRing, hrings]
    refine (hring' q).trans ?_
    rw [getRing_modRing]
  · have hown : ∀ u : State, (getPtn (modPMem c.ptn (fun m => { m with unver := m.unver.filter fun e => !(e.1 == c.ring && e.2.1 == c.idx) }) u) q).reset = (getPtn u q).reset := by
      intro u
      rw [modPMem, getPtn_modPtn]
      split
      · next h => rw [h]
      · rfl
    refine (hown _).trans ?_
    rw [getPtn_eq_of_ptns (hptns.trans hptns')]; rfl

/-! ### CMD_TIMEOUT and RING_DMA (08 R243, R258) -/

/-- The record of a class names an engine and a die, and nothing else differs. -/
theorem classEngine_keeps (s : State) (c : Cmd) (k : Nat) (r : FaultRec) :
    (classEngine s c k r).ctx = r.ctx ∧ (classEngine s c k r).action = r.action ∧ (classEngine s c k r).code = r.code := by
  unfold classEngine
  split <;> exact ⟨rfl, rfl, rfl⟩

/-- The context's count of timeouts goes up. -/
def timeoutCounted (c : Nat) (s : State) : State := modCtx c (fun x => { x with timeouts := satAdd 16 x.timeouts 1 }) s

theorem classEngine_timeoutCounted (c : Cmd) (k d : Nat) (r : FaultRec) (s : State) : classEngine (timeoutCounted d s) c k r = classEngine s c k r := rfl

theorem ptnOfCtx_timeoutCounted (d : Nat) (s : State) : ptnOfCtx (timeoutCounted d s) d = ptnOfCtx s d := by
  rw [ptnOfCtx, timeoutCounted, getCtx_modCtx_self]; rfl

theorem cmdTimeout_raises {r idx k : Nat} {c : Cmd} {s : State} (hcmd : getCmd s r idx = some c) (htimed : timed s c k = true) :
    cmdTimeout r idx k s = raise (classEngine s c k (((faultRec s 0x0501 idx k).withCtx s c.ctx).withRing r)) (timeoutCounted c.ctx s) := by
  have hrec : ((faultRec (timeoutCounted c.ctx s) 0x0501 idx k).withCtx (timeoutCounted c.ctx s) c.ctx) = (faultRec s 0x0501 idx k).withCtx s c.ctx := by
    rw [FaultRec.withCtx, ptnOfCtx_timeoutCounted]; rfl
  simp only [cmdTimeout, hcmd, htimed, if_true]
  show raise (classEngine (timeoutCounted c.ctx s) c k (((faultRec (timeoutCounted c.ctx s) 0x0501 idx k).withCtx (timeoutCounted c.ctx s) c.ctx).withRing r)) _ = _
  rw [hrec, classEngine_timeoutCounted]
  rfl

section
variable {s : State} {r : Nat}

/-- The function's AER has logged a failed DMA, and the ring has DMA_ERR. -/
def dmaLogged (r : Nat) (f : DmaFail) (s : State) : State := logDma (ringFn s r) f (modRing r (fun x => { x with dmaErr := true }) s)

theorem dmaErr_dmaLogged (f : DmaFail) : (getRing (dmaLogged r f s) r).dmaErr = true := by
  show (getRing (modRing r (fun x => { x with dmaErr := true }) s) r).dmaErr = true
  rw [getRing_modRing_self]

theorem ringDma_raises {idx : Nat} {f : DmaFail} (hen : (getRing s r).cur.enable = true) (hfresh : resetEntAt (getRing s r) idx ≠ some true) :
    ringDma r idx false f s = raise (((faultRec s 0x0502 idx (dmaDetail f)).withCtx s (getRing s r).cur.ctx).withRing r) (holdReset r idx (dmaLogged r f s)) := by
  simp only [ringDma, hen, hfresh, Bool.not_true, Bool.false_eq_true, if_false]
  rfl

theorem ringDma_held {idx : Nat} {f : DmaFail} (hen : (getRing s r).cur.enable = true) (hheld : resetEntAt (getRing s r) idx = some true) :
    ringDma r idx false f s = dmaLogged r f s := by
  simp only [ringDma, hen, hheld, Bool.not_true, Bool.false_eq_true, if_false, if_true]
  rfl

end

/-- Settles O17: a completion goes into its ring's next entry; a timeout and a DMA failure raise their fault, which at the action CONTEXT begins the
context's reset; and a RESET entry that is held already raises none. -/
theorem completionsTimeoutsAndDmaFailures : Obligations.CompletionsTimeoutsAndDmaFailures := by
  refine ⟨?completion, ?timeout, ?dma, ?heldDma⟩
  case completion =>
    intro r c rest s hready hstarted hdone hgone hresets hlog hfree cr x a hne hreach hfull hapart
    have hexec : exec (.completionWrite r) s = .next (noteFull cr (completed r.val c rest s)) := by
      refine congrArg Host.Outcome.next ?_
      rw [if_pos hready, completeFirst_completed hstarted hdone hgone hresets hreach hfull]
    obtain ⟨hrings, hflt, hreset, hmem⟩ := completed_completes (s := s) (r := r.val) (c := c) (rest := rest) hne
    obtain ⟨⟨noted, hring⟩, hothers, hmem', -, -⟩ := noteFull_notes (n := cr) (s := completed r.val c rest s)
      (by rw [policyOf, hflt]; exact hlog) (mirrorFree_of_reset hreset hfree)
    refine ⟨_, hexec, ?_⟩
    generalize noteFull cr (completed r.val c rest s) = t at hring hothers hmem'
    have hr : getRing t r.val = { getRing s r.val with started := rest } := by
      rw [hothers r.val (Ne.symm hne), hrings, if_neg (Ne.symm hne), if_pos rfl]
    have hcr : getRing t cr = { x with tail := w32 (x.tail + 1), fullNoted := noted } := by rw [hring, hrings, if_pos rfl]
    have hlen := length_compBytes c.tag c.status c.detail c.opcode c.result c.info c.idx r.val (phaseOf x x.tail) s.time
    rw [hmem] at hmem'
    refine ⟨by rw [hr], by rw [hr], by rw [hcr], by rw [hcr], ?_, ?_, fun q hqr hqc => ?_⟩
    · rw [hmem', ← hlen]
      exact mread_entryWritten _ _ (by rw [hlen]; exact hapart)
    · intro i hi hwb
      rw [hmem']
      exact mget_entryWritten_outside _ _ (by rw [hlen]; exact hi) hwb
    · rw [hothers q hqc, hrings, if_neg hqc, if_neg hqr]
  case timeout =>
    intro r idx k c s hready hcmd htimed hpolicy hen hfree
    obtain ⟨hctx, haction, hcode⟩ := classEngine_keeps s c k.val (((faultRec s 0x0501 idx.toNat k.val).withCtx s c.ctx).withRing r.val)
    have hself : getCtx (timeoutCounted c.ctx s) c.ctx = { getCtx s c.ctx with timeouts := satAdd 16 (getCtx s c.ctx).timeouts 1 } := getCtx_modCtx_self ..
    obtain ⟨⟨engs, hst⟩, -, hnewest, -⟩ := raise_resetsCtx (s := timeoutCounted c.ctx s) hready hfree hctx (haction.trans hpolicy) (by rw [hself]; exact hen)
    have hexec : exec (.cmdTimeout r idx k) s = .next (cmdTimeout r.val idx.toNat k.val s) := congrArg Host.Outcome.next (if_pos hready)
    refine ⟨_, hexec, ?_⟩
    rw [cmdTimeout_raises hcmd htimed]
    rw [hself, hcode] at hst
    exact ⟨by rw [hst], by rw [hst], ⟨engs, by rw [hst]; rfl⟩, hnewest⟩
  case dma =>
    intro r idx f s hready hen hfresh hpolicy hfree hctx
    have hexec : exec (.ringDma r idx false f) s = .next (ringDma r.val idx.toNat false f s) := congrArg Host.Outcome.next (if_pos hready)
    obtain ⟨⟨engs, hst⟩, -, hnewest, hrings⟩ := raise_resetsCtx (r := ((faultRec s 0x0502 idx.toNat (dmaDetail f)).withCtx s (getRing s r.val).cur.ctx).withRing r.val)
      (s := holdReset r.val idx.toNat (dmaLogged r.val f s)) hready hfree rfl hpolicy hctx
    refine ⟨_, hexec, ?_⟩
    rw [ringDma_raises hen hfresh]
    refine ⟨?_, by rw [hst], hnewest⟩
    rw [hrings, dmaErr_markedRing, holdReset, getRing_modRing_self]
    exact dmaErr_dmaLogged f
  case heldDma =>
    intro r idx f s hready hen hheld
    have hexec : exec (.ringDma r idx false f) s = .next (ringDma r.val idx.toNat false f s) := congrArg Host.Outcome.next (if_pos hready)
    refine ⟨_, hexec, ?_⟩
    rw [ringDma_held hen hheld]
    refine ⟨rfl, dmaErr_dmaLogged f, fun htimeout => ?_, fun g hg => getFn_modFn_ne _ _ hg⟩
    rw [dmaLogged, logDma, getFn_modFn_self]
    simp [htimeout]

end Sys2Proof.Proofs
end

section
/-! PROOFS. What ends beneath a context reset keeps of the rings, the fault policies and the partitions' resets (08 R239; 11 R339): every ring's
settings stay, a disabled ring at rest stays at rest, and no enabled command ring leaves its context. -/
namespace Sys2Proof.Proofs
open Sys2Proof Sys2Proof.Machine Sys2Proof.Safety

/-! ### Tables with one value changed -/

section
variable {α : Type}

theorem mem_tput_or {n : Nat} {v : α} (d : α) {e : Nat × α} : ∀ {t : Tbl α}, e ∈ t → e ∈ tput n v t ∨ (e.1 = n ∧ e.2 = tget d t n ∧ (n, v) ∈ tput n v t)
  | [], h => absurd h List.not_mem_nil
  | (k, w) :: t, h => by
    simp only [tput, tget]
    split
    · exact .inl (List.mem_cons_of_mem _ h)
    · next hlt =>
      split
      · next hk =>
        rcases List.mem_cons.1 h with rfl | h
        · exact .inr ⟨hk, rfl, List.mem_cons_self⟩
        · exact .inl (List.mem_cons_of_mem _ h)
      · rcases List.mem_cons.1 h with rfl | h
        · exact .inl List.mem_cons_self
        · rcases mem_tput_or d h with hmem | ⟨hkey, hval, hnew⟩
          · exact .inl (List.mem_cons_of_mem _ hmem)
          · exact .inr ⟨hkey, hval, List.mem_cons_of_mem _ hnew⟩

theorem mem_tdel_or {n : Nat} {e : Nat × α} : ∀ {t : Tbl α}, e ∈ t → e ∈ tdel n t ∨ e.1 = n
  | [], h => absurd h List.not_mem_nil
  | (k, w) :: t, h => by
    simp only [tdel]
    split
    · next hk =>
      rcases List.mem_cons.1 h with rfl | h
      · exact .inr hk
      · exact mem_tdel_or h
    · rcases List.mem_cons.1 h with rfl | h
      · exact .inl List.mem_cons_self
      · exact (mem_tdel_or h).imp_left (List.mem_cons_of_mem _)

/-- An entry of a table with one value changed: it stays, its value is the one that was changed, or it left with the default. -/
theorem mem_tmod_or [DecidableEq α] {d : α} {n : Nat} {f : α → α} {e : Nat × α} {t : Tbl α} (h : e ∈ t) :
    e ∈ tmod d n f t ∨ (e.1 = n ∧ e.2 = tget d t n ∧ (n, f (tget d t n)) ∈ tmod d n f t) ∨ (e.1 = n ∧ f (tget d t n) = d) := by
  unfold tmod tset
  split
  · next hd => exact (mem_tdel_or h).imp_right fun hkey => .inr ⟨hkey, hd⟩
  · exact (mem_tput_or d h).imp_right .inl

end

/-! ### Rings that are tended -/

/-- A disabled ring at rest: nothing started, and equal indices. -/
def AtRestRing (x : Ring) : Prop := x.cur.enable = false ∧ x.started = [] ∧ x.head = x.tail

theorem atRestRing_default : AtRestRing {} := ⟨rfl, rfl, rfl⟩

/-- Every ring keeps its settings, a disabled ring at rest stays so, no command ring of a context is lost but by coming to rest, and policies and
partition resets are as before. -/
structure Tended (s t : State) : Prop where
  cur    : ∀ n, (getRing t n).cur = (getRing s n).cur
  rest   : ∀ n, AtRestRing (getRing s n) → AtRestRing (getRing t n)
  listed : ∀ c n, n ∈ ringsOfCtx s c 0 → n ∈ ringsOfCtx t c 0 ∨ AtRestRing (getRing t n)
  origin : ∀ c n, n ∈ ringsOfCtx t c 0 → n ∈ ringsOfCtx s c 0
  policy : t.flt.policy = s.flt.policy
  reset  : ∀ q, (getPtn t q).reset = (getPtn s q).reset

theorem mem_ringsOfCtx {s : State} {c n : Nat} :
    n ∈ ringsOfCtx s c 0 ↔ ∃ x, (n, x) ∈ s.rings ∧ x.cur.enable = true ∧ x.cur.type = 0 ∧ x.cur.ctx = c := by
  simp [ringsOfCtx, and_assoc]

namespace Tended

theorem refl (s : State) : Tended s s := ⟨fun _ => rfl, fun _ => id, fun _ _ => .inl, fun _ _ => id, rfl, fun _ => rfl⟩

theorem trans {s t u : State} (h : Tended s t) (k : Tended t u) : Tended s u where
  cur n := (k.cur n).trans (h.cur n)
  rest n := k.rest n ∘ h.rest n
  listed c n hn := (h.listed c n hn).elim (k.listed c n) fun hrest => .inr (k.rest n hrest)
  origin c n := h.origin c n ∘ k.origin c n
  policy := k.policy.trans h.policy
  reset q := (k.reset q).trans (h.reset q)

section
variable {s t u : State} (h : Tended s t)
include h

theorem same (hrings : u.rings = t.rings := by rfl) (hpolicy : u.flt.policy = t.flt.policy := by rfl)
    (hreset : ∀ q, (getPtn u q).reset = (getPtn t q).reset := by intro q; rfl) : Tended s u := by
  have hring (n : Nat) : getRing u n = getRing t n := by rw [getRing, hrings]; rfl
  have hlist (c : Nat) : ringsOfCtx u c 0 = ringsOfCtx t c 0 := by rw [ringsOfCtx, hrings]; rfl
  exact h.trans ⟨fun n => by rw [hring], fun n hn => by rwa [hring], fun c n hn => .inl (by rwa [hlist]), fun c n hn => by rwa [hlist] at hn, hpolicy, hreset⟩

theorem mirrorFree (hs : MirrorFree s) : MirrorFree t := mirrorFree_of_reset h.reset hs

theorem ite {c : Prop} [Decidable c] (hu : Tended s u) : Tended s (if c then t else u) := by
  split
  · exact h
  · exact hu

theorem foldl {α : Type} {f : State → α → State} {l : List α} (hf : ∀ {u a}, Tended s u → Tended s (f u a)) : Tended s (l.foldl f t) :=
  List.foldlRecOn l f h fun _ hu _ _ => hf hu

theorem signalled {ns : List Nat} (k : Signalled ns t u) : Tended s u := by
  obtain ⟨hptns, -, hrings, -, -, -, -, hflt, -⟩ := k.units
  exact h.same hrings (by rw [hflt]) fun q => by rw [getPtn_eq_of_ptns hptns]

theorem modPtn {p : Nat} {g : Ptn → Ptn} (hg : ∀ x, (g x).reset = x.reset := by intro x; rfl) : Tended s (modPtn p g t) :=
  h.same rfl rfl fun q => by
    rw [getPtn_modPtn]
    split
    · next hq => rw [hg, hq]
    · rfl

/-- A change of a ring that keeps its settings and, of a disabled ring, its rest. -/
theorem modRing {r : Nat} {g : Ring → Ring} (hcur : ∀ x, (g x).cur = x.cur := by intro x; rfl)
    (hrest : AtRestRing (getRing t r) → AtRestRing (g (getRing t r)) := by exact id) : Tended s (modRing r g t) := by
  have hnow (n : Nat) : (getRing (Machine.modRing r g t) n).cur = (getRing t n).cur := by
    rw [getRing_modRing]
    split
    · next hn => rw [hcur, hn]
    · rfl
  refine h.trans ⟨hnow, fun n hn => ?_, fun c n hn => ?_, fun c n hn => ?_, rfl, fun _ => rfl⟩
  · rw [getRing_modRing]
    split
    · next hnr => rw [hnr] at hn; exact hrest hn
    · exact hn
  · obtain ⟨x, hx, hset⟩ := mem_ringsOfCtx.1 hn
    rcases mem_tmod_or (d := {}) (n := r) (f := g) hx with hmem | ⟨hkey, hval, hnew⟩ | ⟨hkey, hdef⟩
    · exact .inl (mem_ringsOfCtx.2 ⟨x, hmem, hset⟩)
    · obtain rfl : n = r := hkey
      refine .inl (mem_ringsOfCtx.2 ⟨_, hnew, ?_⟩)
      rw [hcur, ← hval]; exact hset
    · refine .inr ?_
      rw [show n = r from hkey, getRing_modRing_self, show g (getRing t r) = {} from hdef]
      exact atRestRing_default
  · obtain ⟨x, hx, hset⟩ := mem_ringsOfCtx.1 hn
    rcases mem_tmod hx with heq | hold
    · obtain ⟨rfl, rfl⟩ := Prod.mk.inj heq
      rw [hcur] at hset
      refine mem_ringsOfCtx.2 ⟨_, mem_of_tget_ne fun hdef => ?_, hset⟩
      rw [hdef] at hset
      exact absurd hset.1 (by decide)
    · exact mem_ringsOfCtx.2 ⟨x, hold, hset⟩

theorem repaged {p : Nat} (k : Repaged p t u) : Tended s u := h.same k.rings (by rw [k.flt]) fun q => by rw [k.getPtn_eq]

theorem rangeWritten {p : Nat} (k : RangeWritten p t u) : Tended s u :=
  h.same (by rw [k.frame]) (by rw [k.frame]) fun q => by
    by_cases hq : q = p
    · rw [hq, k.own]
    · rw [k.others q hq]

/-! #### Started commands -/

theorem modCmd {r i : Nat} {g : Cmd → Cmd} : Tended s (modCmd r i g t) :=
  h.modRing (hrest := fun ⟨hen, hstarted, hind⟩ => ⟨hen, by simp only [hstarted, lmodFirst], hind⟩)

theorem endCmd {r i st res : Nat} : Tended s (endCmd r i st res t) := h.modCmd

theorem endWaiting {op id : Nat} : Tended s (endWaiting op id t) := h.foldl fun h => h.endCmd

/-! #### Entries of rings (08 R242; 11 R345) -/

theorem hostWrite {a : Nat} {bs : List Byte} : Tended s (hostWrite a bs t) := h.same

theorem writeBack {r idx : Nat} : Tended s (writeBack r idx t) := by
  rw [writeBack_frame]; exact h.same

theorem signalRing {r : Nat} {idle : Bool} : Tended s (signalRing r idle t) := h.signalled (signalRing_signals r idle t)

theorem putEntry {r : Nat} {bytes : List Byte} (hen : (getRing t r).cur.enable = true) : Tended s (putEntry r bytes t) :=
  Tended.writeBack (h.hostWrite.modRing (hrest := fun hrest => absurd (hen.symm.trans hrest.1) (by decide)))

theorem putResetEntry {r : Nat} {bytes : List Byte} (hen : (getRing t r).cur.enable = true) : Tended s (putResetEntry r bytes t) := (h.putEntry hen).modRing

theorem putReset {r : Nat} {c : ResetComp} (hen : (getRing t (getRing t r).cur.comp).cur.enable = true) : Tended s (putReset r c t) :=
  (h.putResetEntry hen).signalRing

theorem flushResets {r : Nat} {d : Bool} : Tended s (flushResets r d t) := h.foldl fun {u a} h => by
  dsimp only
  split
  · next hgo =>
    have hen : (getRing u (getRing u r).cur.comp).cur.enable = true := by
      have hreach := hgo.2.1
      simp only [ringReach, Bool.and_eq_true] at hreach
      exact hreach.1
    have hu := h.modRing (r := r) (g := fun x => { x with resets := x.resets.tail })
    refine hu.putReset ?_
    have hcur (n : Nat) := ((Tended.refl u).modRing (r := r) (g := fun x => { x with resets := x.resets.tail })).cur n
    rw [hcur, hcur]; exact hen
  · exact h

theorem addReset {r : Nat} {c : ResetComp} : Tended s (addReset r c t) := h.modRing.flushResets

theorem resetRing {r level cause : Nat} {db : Bool} : Tended s (resetRing r level cause db t) := by
  have hrest : Tended s (Machine.modRing r (fun x => { x with head := x.tail, started := [] }) t) :=
    h.modRing (hrest := fun hrest => ⟨hrest.1, rfl, rfl⟩)
  exact (hrest.writeBack.ite hrest).addReset

theorem noteFull {r : Nat} (hlog : policyOf s 0x0503 = 0) (hfree : MirrorFree s) : Tended s (noteFull r t) := by
  simp only [Machine.noteFull]
  split
  · obtain ⟨ns, hsig⟩ := raise_signals (r := ((faultRec t 0x0503 0 0).withCtx t (getRing t r).cur.ctx).withRing r)
      (s := Machine.modRing r (fun y => { y with fullNoted := true }) t) (by rw [← hlog, policyOf, ← h.policy]; rfl) (h.mirrorFree hfree)
    obtain ⟨hrings, -, hpolicy, hreset⟩ := logged_keeps (((faultRec t 0x0503 0 0).withCtx t (getRing t r).cur.ctx).withRing r)
      (Machine.modRing r (fun y => { y with fullNoted := true }) t)
    exact ((h.modRing (r := r) (g := fun y => { y with fullNoted := true })).same hrings hpolicy hreset).signalled hsig
  · exact h

/-! #### Token records (09 R289-R294) -/

theorem putRec {r : Nat} {k : TokRec} (hen : (getRing t r).cur.enable = true) : Tended s (putRec r k t) := (h.putResetEntry hen).ite (h.putEntry hen)

theorem makeRec {r : Nat} {k : TokRec} : Tended s (makeRec r k t) := by
  simp only [Machine.makeRec]
  split
  · next hgo =>
    refine h.putRec ?_
    simp only [recRoom, ringReach, Bool.and_eq_true] at hgo
    obtain ⟨⟨-, ⟨hen, -⟩, -⟩, -⟩ := hgo
    exact hen
  · exact h.modRing

theorem makeRecNow {r : Nat} {k : TokRec} : Tended s (makeRecNow r k t) := by
  simp only [Machine.makeRecNow]
  exact h.makeRec.ite h.makeRec.signalRing

theorem clearMade {r : Nat} : Tended s (clearMade r t) := h.modRing

theorem eachSignals {act : State → State} (hact : ∀ {u}, Tended s u → Tended s (act u)) : Tended s (eachSignals act t) :=
  (hact h).foldl fun h => h.clearMade.foldl fun h => h.makeRecNow

theorem emitRec {p b r type value pos detail flags : Nat} : Tended s (emitRec p b r type value pos detail flags t) := by
  simp only [Machine.emitRec]
  exact h.ite h.modRing.modPtn

theorem emitRecNow {p b r type value pos detail flags : Nat} : Tended s (emitRecNow p b r type value pos detail flags t) := by
  simp only [Machine.emitRecNow]
  exact (h.eachSignals fun h => h.emitRec).ite h.emitRec

theorem closeRows {p b type value detail : Nat} : Tended s (closeRows p b type value detail t) := h.foldl fun h => h.emitRecNow.modPtn

theorem resetBatches {c level cause : Nat} {records : Bool} : Tended s (resetBatches c level cause records t) :=
  h.foldl fun h => (Tended.modPtn (h.closeRows.ite h)).modPtn

theorem passAlpha {c b : Nat} : Tended s (passAlpha c b t) := h.foldl fun {u a} h => by
  have hu : Tended s (Machine.modAdapter a.1 (fun x => { x with oldAlpha := tdel b x.oldAlpha }) u) := h.same
  exact hu.endWaiting.ite hu

theorem recountRefs : Tended s (recountRefs t) := by
  refine Tended.foldl (h.foldl fun {u a} h => ?_) fun {u a} h => ?_
  · dsimp only
    split
    · exact (h.same (u := Machine.modAdapter a.1 (fun _ => {}) u)).endWaiting
    · exact h.same
  · dsimp only
    split
    · exact (h.same (u := Machine.modSteer a.1 (fun _ => {}) u)).endWaiting
    · exact h.same

theorem recsWaitDb {c : Nat} : Tended s (recsWaitDb c t) := h.foldl fun h => h.modRing

/-! #### Movers (07 R213, R250) -/

theorem modDie {d : Nat} {g : Die → Die} : Tended s (modDie d g t) := h.same

theorem dropTransit {i : MoverItem} : Tended s (dropTransit i t) := h.modPtn

theorem takeItems {sel : MoverItem → Bool} : Tended s (takeItems sel t) := h.foldl fun h => h.modDie.foldl fun h => h.dropTransit

theorem putItems {is : List (Nat × MoverItem)} : Tended s (putItems is t) := h.foldl fun h => h.modDie

theorem dealUnits {c : Cmd} {o : Nat} {us : List (Nat × Nat)} : Tended s (dealUnits c o us t) := h.endCmd.ite h.modCmd.putItems

theorem objCmd {bad : Cmd → Bool} {go : Cmd → Nat → State → State} {c : Cmd} (hgo : ∀ {a o u}, Tended s u → Tended s (go a o u)) :
    Tended s (objCmd bad go c t) := by
  simp only [Machine.objCmd]
  split
  · exact h.endCmd
  · split
    · exact h.endCmd
    · exact hgo h

theorem addCopy {p o tier mode place k : Nat} : Tended s (addCopy p o tier mode place k t) := h.repaged (Repaged.refl p t).addCopy

theorem dropCopies {p key tier : Nat} : Tended s (dropCopies p key tier t) := h.repaged (Repaged.refl p t).dropCopies

theorem objSetGo {c : Cmd} {o : Nat} : Tended s (objSetGo c o t) := by
  simp only [Machine.objSetGo]
  split
  · exact h.endCmd
  · have hset : Tended s (Machine.modObj c.ptn o (fun y => { y with pin := (objOfOps c).pin, shared := (objOfOps c).shared, fbKind := (objOfOps c).fbKind, fbDeadline := (objOfOps c).fbDeadline, fbShadow := (objOfOps c).fbShadow }) t) := h.modPtn
    refine h.endCmd.ite (Tended.ite (h.endCmd.ite (h.endCmd.ite (Tended.endCmd (Tended.foldl h.modPtn fun h => h.addCopy)))) (h.endCmd.ite hset.endCmd))

theorem objSet {c : Cmd} : Tended s (objSet c t) := by
  simp only [Machine.objSet]
  exact h.endCmd.ite (h.endCmd.ite (h.endCmd.ite h.objSetGo))

theorem cancelObj {p o : Nat} : Tended s (cancelObj p o t) := (h.foldl fun h => h.endCmd).takeItems

theorem objClear {c : Cmd} : Tended s (objClear c t) := h.objCmd fun h => h.endCmd.ite (Tended.cancelObj h.modPtn).modCmd

theorem objQuery {c : Cmd} : Tended s (objQuery c t) := h.objCmd fun h => h.endCmd.ite (h.rangeWritten (rangeWritten_writeRange ..)).endCmd

theorem migrate {c : Cmd} : Tended s (migrate c t) := by
  simp only [Machine.migrate]
  exact h.objCmd fun h => h.endCmd.ite h.dealUnits

theorem evict {c : Cmd} : Tended s (evict c t) := h.objCmd fun h => h.endCmd.ite h.dealUnits

theorem intake {c : Cmd} : Tended s (intake c t) := by
  simp only [Machine.intake]
  exact h.objCmd fun h => h.endCmd.ite (h.endCmd.ite (Tended.dealUnits (h.foldl fun h => h.modPtn)))

theorem verify {c : Cmd} : Tended s (verify c t) := h.objCmd fun h => h.endCmd.ite h.dealUnits

theorem serveObj {c : Cmd} : Tended s (serveObj c t) := by
  unfold Machine.serveObj
  split
  · exact h.objSet
  · exact h.objClear
  · exact h.objQuery
  · exact h.migrate
  · exact h.evict
  · exact h.intake
  · exact h.verify
  · exact h

theorem unitDone {i : MoverItem} {count : Nat} : Tended s (unitDone i count t) := by
  simp only [Machine.unitDone]
  split
  · exact h.modCmd.endCmd.ite h.modCmd
  · exact h.modCmd

theorem doneAtOnce {i : MoverItem} : Tended s (doneAtOnce i t) := by
  unfold Machine.doneAtOnce
  split
  · exact h
  · exact (h.ite h.serveObj).ite (Tended.ite (h.dropCopies.unitDone.ite h.unitDone) h.unitDone)

theorem settleFuel {n : Nat} : Tended s (settleFuel n t) := by
  induction n generalizing t with
  | zero => exact h
  | succ n ih =>
    simp only [Machine.settleFuel]
    split
    · exact h
    · refine ih (Tended.modDie ?_)
      split
      · exact h.doneAtOnce
      · exact h

theorem markTransit {d : Nat} : Tended s (markTransit d t) := by
  unfold Machine.markTransit
  split
  · exact h
  · split
    · exact Tended.ite h.modPtn h
    · exact h

theorem settleMovers : Tended s (settleMovers t) := h.settleFuel.foldl fun h => h.markTransit

theorem purgeMoverItems {sel : MoverItem → Bool} : Tended s (purgeMoverItems sel t) := h.takeItems.settleMovers

end

end Tended

end Sys2Proof.Proofs
end

section
/-! PROOFS. CTX_CMD, the end of a context reset, and the commit registers (00 R10; 08 R236, R240, R262; 11 R339). -/
namespace Sys2Proof.Proofs
open Sys2Proof Sys2Proof.Machine Sys2Proof.Safety

/-! ### CTX_CMD (08 R236) -/

section
variable {s : State} {fn : FnId}

theorem exec_enable {c : CtxId} {p : PtnId} (h : Served s fn (fn.val == 0) false) (hst : (getCtx s c.val).st = .disabled)
    (hex : (getPtn s p.val).exists_ = true) (hheld : heldElsewhere s c.val p.val = false) :
    exec (.enable fn c p) s = .next (modCtx c.val (fun x => { x with st := .enabled, ptn := p.val, code := 0 }) s) := by
  obtain ⟨hopen, hpf, hup⟩ := h
  have hpf' : fn.val = 0 := by simpa using hpf
  have henable : ctxEnable fn.val c.val p.val s = modCtx c.val (fun x => { x with st := .enabled, ptn := p.val, code := 0 }) s := by
    simp [ctxEnable, hst, hpf', hex, hheld]
  exact congrArg Host.Outcome.next ((hostAccess_served _ hopen (by simp [seesCtx, hpf']) hup).trans henable)

theorem exec_disable {c : CtxId} (h : Served s fn (fn.val == 0) false) (hst : (getCtx s c.val).st = .enabled) (hholds : ctxHolds s c.val = false) :
    exec (.disable fn c) s = .next (modCtx c.val (fun x => { x with st := .disabled, code := 0 }) s) := by
  obtain ⟨hopen, hpf, hup⟩ := h
  have hpf' : fn.val = 0 := by simpa using hpf
  have hdisable : ctxDisable fn.val c.val s = modCtx c.val (fun x => { x with st := .disabled, code := 0 }) s := by
    simp [ctxDisable, hst, hpf', hholds]
  exact congrArg Host.Outcome.next ((hostAccess_served _ hopen (by simp [seesCtx, hpf']) hup).trans hdisable)

theorem exec_reset {c : CtxId} (h : Served s fn (seesCtx s fn.val c.val) false) (hst : (getCtx s c.val).st = .enabled) :
    exec (.reset fn c) s = .next (ctxCode c.val 0 (raise (hostResetCtx c.val 1 s) s)) := by
  obtain ⟨hopen, hsees, hup⟩ := h
  have hreset : ctxReset c.val s = ctxCode c.val 0 (raise (hostResetCtx c.val 1 s) s) := by simp [ctxReset, hst]
  exact congrArg Host.Outcome.next ((hostAccess_served _ hopen hsees hup).trans hreset)

end

/-! ### The end of a context reset (08 R262; 11 R339) -/

/-- Nothing of a ring is started, and its indices are equal. -/
def EmptiedRing (x : Ring) : Prop := x.started = [] ∧ x.head = x.tail

section
variable {s : State} {r n : Nat}

theorem getRing_putEntry_ne {bytes : List Byte} (h : n ≠ r) : getRing (putEntry r bytes s) n = getRing s n := by
  rw [(putEntry_puts r bytes s).1, if_neg h]

/-- A RESET completion is an entry of its completion ring, which the module keeps. -/
theorem rings_putReset (c : ResetComp) : ∃ bytes, (putReset r c s).rings = (putResetEntry (getRing s r).cur.comp bytes s).rings :=
  ⟨_, (signalRing_signals (getRing s r).cur.comp (ringIdleNow s (getRing s r).cur.comp)
    (putResetEntry (getRing s r).cur.comp (compBytes 0 0x1F c.level 0 c.count c.cause c.first r
      (phaseOf (getRing s (getRing s r).cur.comp) (getRing s (getRing s r).cur.comp).tail) s.time) s)).units.2.2.1⟩

theorem getRing_putReset_ne {c : ResetComp} (h : n ≠ (getRing s r).cur.comp) : getRing (putReset r c s) n = getRing s n := by
  obtain ⟨bytes, hrings⟩ := rings_putReset (s := s) (r := r) c
  rw [getRing, hrings]
  exact (getRing_modRing_ne _ _ h).trans (getRing_putEntry_ne h)

theorem cur_putReset (c : ResetComp) (n : Nat) : (getRing (putReset r c s) n).cur = (getRing s n).cur := by
  by_cases h : n = (getRing s r).cur.comp
  · obtain ⟨bytes, hrings⟩ := rings_putReset (s := s) (r := r) c
    have hput : getRing (putReset r c s) n = getRing (putResetEntry (getRing s r).cur.comp bytes s) n := by rw [getRing, hrings]; rfl
    rw [hput, h, putResetEntry, getRing_modRing_self, (putEntry_puts _ bytes s).1, if_pos rfl]
  · rw [getRing_putReset_ne h]

theorem emptied_flushResets {d : Bool} (hcomp : n ≠ (getRing s r).cur.comp) (h : EmptiedRing (getRing s n)) : EmptiedRing (getRing (flushResets r d s) n) := by
  have hboth : (getRing (flushResets r d s) r).cur = (getRing s r).cur ∧ EmptiedRing (getRing (flushResets r d s) n) := by
    refine List.foldlRecOn (motive := fun u => (getRing u r).cur = (getRing s r).cur ∧ EmptiedRing (getRing u n)) _ _ ⟨rfl, h⟩ fun u ⟨hu, hempty⟩ c _ => ?_
    dsimp only
    split
    · have hcur : (getRing (modRing r (fun x => { x with resets := x.resets.tail }) u) r).cur = (getRing s r).cur := by rw [getRing_modRing_self]; exact hu
      refine ⟨(cur_putReset ..).trans hcur, ?_⟩
      rw [getRing_putReset_ne (by rw [hcur]; exact hcomp), getRing_modRing]
      split
      · next hnr => rw [hnr] at hempty; exact hempty
      · exact hempty
    · exact ⟨hu, hempty⟩
  exact hboth.2

/-- A ring that a reset empties is not its own completion ring. -/
theorem emptied_resetRing {level cause : Nat} {db : Bool} (hcomp : n ≠ (getRing s r).cur.comp) (h : n = r ∨ EmptiedRing (getRing s n)) :
    EmptiedRing (getRing (resetRing r level cause db s) n) := by
  have hnow (u : State) (hrings : u.rings = (modRing r (fun x => { x with head := x.tail, started := [] }) s).rings) :
      n ≠ (getRing u r).cur.comp ∧ EmptiedRing (getRing u n) := by
    have hring (q : Nat) : getRing u q = getRing (modRing r (fun x => { x with head := x.tail, started := [] }) s) q := by rw [getRing, hrings]; rfl
    refine ⟨by rw [hring, getRing_modRing_self]; exact hcomp, ?_⟩
    rw [hring, getRing_modRing]
    split
    · exact ⟨rfl, rfl⟩
    · next hne => exact h.resolve_left hne
  simp only [resetRing, addReset]
  refine emptied_flushResets ?_ ?_ <;> rw [getRing_modRing]
  · rw [if_pos rfl]
    refine (hnow _ ?_).1
    split
    · rw [writeBack_frame]
    · rfl
  · have hempty := (hnow (if canDma (modRing r (fun x => { x with head := x.tail, started := [] }) s) (ringFn (modRing r (fun x => { x with head := x.tail, started := [] }) s) r) then
        writeBack r (getRing s r).tail (modRing r (fun x => { x with head := x.tail, started := [] }) s) else modRing r (fun x => { x with head := x.tail, started := [] }) s)
      (by split
          · rw [writeBack_frame]
          · rfl)).2
    split
    · next hnr => rw [hnr] at hempty; exact hempty
    · exact hempty

end

/-- A ring's RESET entry, and what its completion ring's fullness is noted for. -/
def resetEntry (level cause : Nat) (db : Bool) (s : State) (r : Nat) : State := noteFull (getRing s r).cur.comp (resetRing r level cause db s)

section
variable {s : State} (hlog : policyOf s 0x0503 = 0) (hfree : MirrorFree s)
include hlog hfree

theorem Tended.resetEntry {t : State} (h : Tended s t) {r level cause : Nat} {db : Bool} : Tended s (resetEntry level cause db t r) :=
  (Tended.resetRing h).noteFull hlog hfree

theorem emptied_resetEntry {t : State} (h : Tended s t) {n r level cause : Nat} {db : Bool} (hcomp : n ≠ (getRing s r).cur.comp)
    (hn : n = r ∨ EmptiedRing (getRing t n)) : EmptiedRing (getRing (resetEntry level cause db t r) n) := by
  have hcur : (getRing t r).cur = (getRing s r).cur := h.cur r
  have hreset : Tended s (Machine.resetRing r level cause db t) := h.resetRing
  have hempty := emptied_resetRing (level := level) (cause := cause) (db := db) (by rw [hcur]; exact hcomp) hn
  obtain ⟨⟨noted, hring⟩, hothers, -⟩ := noteFull_notes (n := (getRing t r).cur.comp) (by rw [policyOf, hreset.policy]; exact hlog) (hreset.mirrorFree hfree)
  rw [Proofs.resetEntry, hothers n (by rw [hcur]; exact hcomp)]
  exact hempty

/-- The RESET entries of rings that are no completion rings of each other empty every one of them. -/
theorem emptied_resetEntries {level cause : Nat} {db : Bool} {n : Nat} {l : List Nat} {t : State} (h : Tended s t)
    (hcomp : ∀ r ∈ l, n ≠ (getRing s r).cur.comp) (hn : n ∈ l ∨ EmptiedRing (getRing t n)) :
    EmptiedRing (getRing (l.foldl (resetEntry level cause db) t) n) := by
  induction l generalizing t with
  | nil => exact hn.resolve_left List.not_mem_nil
  | cons r l ih =>
    refine ih (h.resetEntry hlog hfree) (fun q hq => hcomp q (List.mem_cons_of_mem _ hq)) ?_
    by_cases hl : n ∈ l
    · exact .inl hl
    · exact .inr (emptied_resetEntry hlog hfree h (hcomp r List.mem_cons_self) (hn.imp_left fun hmem => (List.mem_cons.1 hmem).resolve_right hl))

end

/-- The end of a context's reset empties its command rings. -/
theorem emptied_ctxReset {s : State} {c level cause : Nat} {db : Bool} (hlog : policyOf s 0x0503 = 0) (hfree : MirrorFree s)
    (hcomp : ∀ n ∈ ringsOfCtx s c 0, (getRing s n).cur.comp ∉ ringsOfCtx s c 0) {n : Nat} (hn : n ∈ ringsOfCtx s c 0) :
    EmptiedRing (getRing (Machine.resetEntries c level cause db s) n) := by
  have hbefore : ∃ u, Tended s u ∧ Machine.resetEntries c level cause db s = (ringsOfCtx u c 0).foldl (resetEntry level cause db) u := by
    refine ⟨_, ?_, rfl⟩
    have hcount : Tended s (recountRefs ((batchesOfCtx (purgeMoverItems (fun i => i.ctx == c) s) c).foldl (fun s b => passAlpha c b s)
        (resetBatches c level cause true (purgeMoverItems (fun i => i.ctx == c) s)))) :=
      Tended.recountRefs (Tended.foldl (Tended.resetBatches (Tended.refl s).purgeMoverItems) fun h => h.passAlpha)
    exact hcount.recsWaitDb.ite hcount
  obtain ⟨u, hu, hentries⟩ := hbefore
  rw [hentries]
  refine emptied_resetEntries hlog hfree hu (fun r hr heq => hcomp r (hu.origin c r hr) (heq ▸ hn)) ?_
  exact (hu.listed c n hn).imp_right fun hrest => hrest.2

theorem finishCtxReset_ends {c : Nat} {r : CtxReset} {s : State} (hst : (getCtx s c).st = .resetting) (hreset : (getCtx s c).reset = some r) :
    finishCtxReset c s = modCtx c (fun x => { x with st := .enabled }) (modCtx c (fun x => { x with reset := none }) (Machine.resetEntries c r.level r.cause r.db s)) := by
  simp only [finishCtxReset, hst, if_true, serveCtxReset, hreset]

/-! ### Commits (00 R10) -/

/-- The contexts of a list change, and no other. -/
theorem foldl_modCtx {g : Ctx → Ctx} (hg : ∀ x, g (g x) = g x) : ∀ (l : List Nat) (s : State),
    l.foldl (fun s c => modCtx c g s) s = { s with ctxs := (l.foldl (fun s c => modCtx c g s) s).ctxs } ∧
      ∀ c, getCtx (l.foldl (fun s c => modCtx c g s) s) c = if c ∈ l then g (getCtx s c) else getCtx s c
  | [], s => ⟨rfl, fun c => by simp⟩
  | d :: l, s => by
    obtain ⟨hframe, hctx⟩ := foldl_modCtx hg l (modCtx d g s)
    refine ⟨hframe, fun c => (hctx c).trans ?_⟩
    rw [getCtx_modCtx]
    by_cases hc : c = d
    · subst hc
      simp [hg]
    · simp [hc]

section
variable {s : State} {fn : FnId}

theorem exec_ctxCommit {c : CtxId} (h : Served s fn (seesCtx s fn.val c.val) false) : exec (.ctxCommit fn c) s = .next (ctxCommitNow c.val s) := by
  obtain ⟨hopen, hsees, hup⟩ := h
  exact congrArg Host.Outcome.next (hostAccess_served _ hopen hsees hup)

theorem exec_attCommit {p : PtnId} (h : Served s fn (seesPtn s fn.val p.val) false) : exec (.attCommit fn p) s = .next (attCommitNow p.val s) := by
  obtain ⟨hopen, hsees, hup⟩ := h
  exact congrArg Host.Outcome.next (hostAccess_served _ hopen hsees hup)

theorem exec_ringCommit {r : RingId} (val : Word) (h : Served s fn (seesRing s fn.val r.val) false) :
    exec (.ringCommit fn r val) s = .next (writeRingCtl r.val val.toNat s) := by
  obtain ⟨hopen, hsees, hup⟩ := h
  exact congrArg Host.Outcome.next (hostAccess_served _ hopen hsees hup)

end

/-- A context's set in effect, with nothing staged. -/
def ctxSetTaken (c : Nat) (s : State) : State := modCtx c (fun x => { x with cur := x.sh, staged := none }) s

/-- A ring that a set enables. -/
def ringEnabled (n : RingSh) (x : Ring) : Ring :=
  { x with cur := n, staged := none, head := 0, tail := 0, started := [], fullNoted := false, parkNoted := false, resets := [], resetEnts := [], recs := [], made := [] }

/-- RING_CTL's shadow fields written. -/
def ringShWritten (r v : Nat) (s : State) : State := modRing r (fun x => { x with sh := ringCtlSh v x.sh }) s

section
variable {s : State} {r v : Nat}

/-- The check of a set reads nothing of the shadow fields. -/
theorem ringSetBad_ringShWritten {n : RingSh} (hnew : n.enable = true) (hoff : (getRing s r).cur.enable = false) :
    ringSetBad (ringShWritten r v s) r n = ringSetBad s r n := by
  have hring (q : Nat) : (getRing (ringShWritten r v s) q).cur = (getRing s q).cur ∧ (getRing (ringShWritten r v s) q).assigned = (getRing s q).assigned ∧
      (getRing (ringShWritten r v s) q).ptn = (getRing s q).ptn := by
    rw [ringShWritten, getRing_modRing]
    split
    · next h => rw [h]; exact ⟨rfl, rfl, rfl⟩
    · exact ⟨rfl, rfl, rfl⟩
  have hctx (c : Nat) : getCtx (ringShWritten r v s) c = getCtx s c := rfl
  obtain ⟨hcur, hassigned, hptn⟩ := hring r
  simp only [ringSetBad, hcur, hassigned, hptn, (hring n.comp).1, hctx, hoff, hnew, Bool.false_and, Bool.false_eq_true, if_false, if_true]

/-- A commit while the ring's partition runs stages the shadow fields. -/
theorem writeRingCtl_stages (hbit : bit v 16 = true) (hassigned : (getRing s r).assigned = true) (hruns : ptnRuns (getPtn s (getRing s r).ptn) = true) :
    writeRingCtl r v s = modRing r (fun x => { x with staged := some x.sh }) (ringShWritten r v s) := by
  have hself : getRing (ringShWritten r v s) r = { getRing s r with sh := ringCtlSh v (getRing s r).sh } := getRing_modRing_self ..
  have hgo : ((getRing (ringShWritten r v s) r).assigned && ptnRuns (getPtn (ringShWritten r v s) (getRing (ringShWritten r v s) r).ptn)) = true := by
    rw [hself]; exact Bool.and_eq_true_iff.2 ⟨hassigned, hruns⟩
  show (if !bit v 16 then ringShWritten r v s else if _ then _ else _) = _
  rw [hbit, if_neg (by decide)]
  exact if_pos hgo

/-- A commit that enables a ring while its partition does not run takes effect. -/
theorem writeRingCtl_enables (hbit : bit v 16 = true) (hruns : ptnRuns (getPtn s (getRing s r).ptn) = false)
    (hgood : ringSetBad s r (ringCtlSh v (getRing s r).sh) = false) (hnew : (ringCtlSh v (getRing s r).sh).enable = true) (hoff : (getRing s r).cur.enable = false) :
    ∃ g : Ring → Ring, writeRingCtl r v s = modRing r g (ringShWritten r v s) ∧
      g (getRing (ringShWritten r v s) r) = ringEnabled (ringCtlSh v (getRing s r).sh) (getRing (ringShWritten r v s) r) := by
  have hself : getRing (ringShWritten r v s) r = { getRing s r with sh := ringCtlSh v (getRing s r).sh } := getRing_modRing_self ..
  have hstay : ¬((getRing (ringShWritten r v s) r).assigned && ptnRuns (getPtn (ringShWritten r v s) (getRing (ringShWritten r v s) r).ptn)) = true := by
    rw [hself]
    show ¬((getRing s r).assigned && ptnRuns (getPtn s (getRing s r).ptn)) = true
    rw [hruns, Bool.and_false]; decide
  have hwrite : writeRingCtl r v s = ringTake r (getRing (ringShWritten r v s) r).sh (ringShWritten r v s) := by
    show (if !bit v 16 then ringShWritten r v s else if _ then _ else _) = _
    rw [hbit, if_neg (by decide)]
    exact if_neg hstay
  have hsh : (getRing (ringShWritten r v s) r).sh = ringCtlSh v (getRing s r).sh := by rw [hself]
  rw [hwrite, hsh]
  refine ⟨_, if_neg ?_, ?_⟩
  · rw [ringSetBad_ringShWritten hnew hoff, hgood]; decide
  · refine if_pos ?_
    rw [hself, hnew]
    show (true && !(getRing s r).cur.enable) = true
    rw [hoff]; rfl

end

/-- Settles O14: each command and each commit does what the context's or ring's state makes of it; a RESET raises HOST_RESET, whose action begins the
reset, and its end writes the RESET entries, which empty the context's rings. -/
theorem contextCommandsAndCommits : Obligations.ContextCommandsAndCommits := by
  refine ⟨⟨?enable, ?disable, ?reset, ?resetDone⟩, ?ctxStages, ?ctxTakes, ?attStages, ?attTakes, ?ringStages, ?ringTakes⟩
  case enable =>
    intro fn c p s h hst hex hheld
    exact ⟨_, exec_enable h hst hex hheld, rfl, fun d hd => getCtx_modCtx_ne _ _ hd, getCtx_modCtx_self ..⟩
  case disable =>
    intro fn c s h hst hholds
    exact ⟨_, exec_disable h hst hholds, rfl, fun d hd => getCtx_modCtx_ne _ _ hd, getCtx_modCtx_self ..⟩
  case reset =>
    intro fn c s h hst hfree
    have hready : isReady s = true := by simpa using h.2.2
    obtain ⟨⟨engs, hctx⟩, hcount, hnewest, hrings⟩ := raise_resetsCtx (r := hostResetCtx c.val 1 s) (c := c.val) hready hfree rfl rfl hst
    refine ⟨_, exec_reset h hst, ?_⟩
    generalize raise (hostResetCtx c.val 1 s) s = u at hctx hcount hnewest hrings
    have hself : getCtx (ctxCode c.val 0 u) c.val = { getCtx u c.val with code := 0 } := getCtx_modCtx_self ..
    rw [hself, hctx]
    refine ⟨rfl, rfl, ⟨engs, rfl⟩, hcount, fun r htype howner => ?_, hnewest⟩
    rw [show getRing (ctxCode c.val 0 u) r = getRing u r from rfl, hrings]
    exact gone_markedRing htype howner
  case resetDone =>
    intro c r s hready hst hreset hlevel hlog hfree hcomp
    have hexec : exec (.contextResetDone c) s = .next (finishCtxReset c.val s) := by
      refine congrArg Host.Outcome.next ?_
      simp only [hreset]
      exact if_pos ⟨hlevel, hready⟩
    refine ⟨_, hexec, ?_⟩
    rw [finishCtxReset_ends hst hreset]
    refine ⟨by rw [getCtx_modCtx_self], by rw [getCtx_modCtx_self, getCtx_modCtx_self], fun n hn => ?_⟩
    exact emptied_ctxReset (level := r.level) (cause := r.cause) (db := r.db) hlog hfree hcomp hn
  case ctxStages =>
    intro fn c s h hst hruns
    refine ⟨_, exec_ctxCommit h, ?_⟩
    have hcommit : ctxCommitNow c.val s = modCtx c.val (fun x => { x with staged := some x.sh }) s := by simp [ctxCommitNow, hst, hruns]
    rw [hcommit]
    exact ⟨rfl, fun d hd => getCtx_modCtx_ne _ _ hd, getCtx_modCtx_self ..⟩
  case ctxTakes =>
    intro fn c s h hst hruns hptn
    refine ⟨_, ctxSetTaken c.val s, exec_ctxCommit h, rfl, fun d hd => getCtx_modCtx_ne _ _ hd, getCtx_modCtx_self .., ?_⟩
    have hcommit : ctxCommitNow c.val s = pulse (srcPtn (getCtx s c.val).ptn 4) (ctxSetTaken c.val s) := by simp [ctxCommitNow, hst, hruns, ctxSetTaken]
    rw [hcommit]
    exact pulse_signalled _ _ (isListed_srcPtn hptn (by decide))
  case attStages =>
    intro fn p s h hruns
    refine ⟨_, exec_attCommit h, ?_⟩
    obtain ⟨hframe, hctx⟩ := foldl_modCtx (g := fun x => { x with attStaged := some x.attSh }) (fun _ => rfl) (ctxsOf s p.val) s
    have hcommit : attCommitNow p.val s = modAtt p.val (fun a => { a with pending := true })
        ((ctxsOf s p.val).foldl (fun s c => modCtx c (fun x => { x with attStaged := some x.attSh }) s) s) := by
      rw [attCommitNow, if_pos hruns]; rfl
    rw [hcommit]
    generalize (ctxsOf s p.val).foldl (fun s c => modCtx c (fun x => { x with attStaged := some x.attSh }) s) s = u at hframe hctx
    rw [hframe]
    refine ⟨rfl, fun q hq => getPtn_modPtn_ne _ _ hq, getPtn_modPtn_self .., fun c hc => ?_, fun c hc => ?_⟩
    · have := hctx c; rw [if_pos hc] at this; exact this
    · have := hctx c; rw [if_neg hc] at this; exact this
  case attTakes =>
    intro fn p s h hruns
    obtain ⟨hframe, hctx⟩ := foldl_modCtx (g := fun x => { x with attCur := x.attSh, attStaged := none }) (fun _ => rfl) (ctxsOf s p.val) s
    have hcommit : attCommitNow p.val s = pulse (srcPtn p.val 4) (modAtt p.val (fun a => { a with pending := false })
        ((ctxsOf s p.val).foldl (fun s c => modCtx c (fun x => { x with attCur := x.attSh, attStaged := none }) s) s)) := by
      rw [attCommitNow, if_neg (by rw [hruns]; decide)]; rfl
    rw [exec_attCommit h, hcommit]
    generalize (ctxsOf s p.val).foldl (fun s c => modCtx c (fun x => { x with attCur := x.attSh, attStaged := none }) s) s = u at hframe hctx
    rw [hframe]
    refine ⟨_, modAtt p.val (fun a => { a with pending := false }) { s with ctxs := u.ctxs }, rfl, rfl, fun q hq => getPtn_modPtn_ne _ _ hq, getPtn_modPtn_self ..,
      fun c hc => ?_, fun c hc => ?_, pulse_signalled _ _ (isListed_srcPtn p.isLt (by decide))⟩
    · have := hctx c; rw [if_pos hc] at this; exact this
    · have := hctx c; rw [if_neg hc] at this; exact this
  case ringStages =>
    intro fn r val s h hbit hassigned hruns
    refine ⟨_, exec_ringCommit val h, ?_⟩
    rw [writeRingCtl_stages hbit hassigned hruns]
    refine ⟨rfl, fun q hq => (getRing_modRing_ne _ _ hq).trans (getRing_modRing_ne _ _ hq), ?_⟩
    rw [getRing_modRing_self, ringShWritten, getRing_modRing_self]
  case ringTakes =>
    intro fn r val s h hbit hruns n hgood hnew hoff
    obtain ⟨g, hwrite, hg⟩ := writeRingCtl_enables hbit hruns hgood hnew hoff
    refine ⟨_, exec_ringCommit val h, ?_⟩
    rw [hwrite]
    refine ⟨rfl, fun q hq => (getRing_modRing_ne _ _ hq).trans (getRing_modRing_ne _ _ hq), ?_⟩
    rw [getRing_modRing_self, hg, ringShWritten, getRing_modRing_self]
    rfl

end Sys2Proof.Proofs
end

section
/-! PROOFS. The figure engine's service of its queue (08 R250-R252): work that joins a taken engine waits, and the one command of a free engine's queue
begins. -/
namespace Sys2Proof.Proofs
open Sys2Proof Sys2Proof.Machine Sys2Proof.Safety

/-! ### A partition's engine changes -/

/-- Only partition `p`'s figure engine changed, to `f`. -/
structure EngineIs (p : Nat) (f : Fe) (s t : State) : Prop where
  only : OnlyPtn p s t
  own  : getPtn t p = { getPtn s p with fe := f }

section
variable {p : Nat} {f : Fe} {s t : State}

theorem engineIs_modFe (p : Nat) (g : Fe → Fe) (s : State) : EngineIs p (g (getPtn s p).fe) s (modFe p g s) :=
  ⟨onlyPtn_modPtn p _ s, getPtn_modPtn_self ..⟩

theorem EngineIs.modFe (h : EngineIs p f s t) (g : Fe → Fe) : EngineIs p (g f) s (modFe p g t) :=
  ⟨h.only.trans (onlyPtn_modPtn p _ t), by rw [modFe_eq, getPtn_modPtn_self, h.own]⟩

theorem EngineIs.getCtx_eq (h : EngineIs p f s t) (c : Nat) : getCtx t c = getCtx s c := by rw [h.only.frame]; rfl

theorem EngineIs.rings (h : EngineIs p f s t) : t.rings = s.rings := by rw [h.only.frame]

theorem EngineIs.canServe_eq (h : EngineIs p f s t) : canServe t p = canServe s p := by
  have hready : isReady t = isReady s := by rw [h.only.frame]; rfl
  have hflt : t.flt = s.flt := by rw [h.only.frame]
  simp only [canServe, h.own, hready, hflt]

theorem EngineIs.fe (h : EngineIs p f s t) : (getPtn t p).fe = f := by rw [h.own]

end

/-! ### Ready contexts and priorities (08 R251) -/

theorem mem_nadd_iff {n m : Nat} {l : NSet} : m ∈ nadd n l ↔ m = n ∨ m ∈ l := by
  refine ⟨mem_of_mem_nadd, ?_⟩
  induction l with
  | nil => simp [nadd]
  | cons k l ih =>
    intro h
    simp only [nadd]
    split
    · simpa using h
    · split
      · next hk => rcases h with rfl | h <;> simp_all
      · rcases h with rfl | h
        · exact List.mem_cons_of_mem _ (ih (.inl rfl))
        · rcases List.mem_cons.1 h with rfl | h
          · exact List.mem_cons_self
          · exact List.mem_cons_of_mem _ (ih (.inr h))

theorem mem_naddAll_iff {m : Nat} {l : List Nat} {s : NSet} : m ∈ naddAll l s ↔ m ∈ l ∨ m ∈ s := by
  simp only [naddAll]
  induction l generalizing s with
  | nil => simp
  | cons k l ih => rw [List.foldl_cons, ih, mem_nadd_iff, List.mem_cons]; tauto

theorem mem_readyCtxs {s : State} {p c : Nat} :
    c ∈ readyCtxs s p ↔ (c ∈ (getPtn s p).fe.saved.map (fun v => v.run.ctx) ∨ c ∈ (getPtn s p).fe.queue.map (fun r => r.ctx)) ∧ (getCtx s c).st = .enabled := by
  simp only [readyCtxs, List.mem_filter, mem_naddAll_iff, decide_eq_true_eq, List.not_mem_nil, or_false]

theorem topPrio_le {s : State} {cs : List Nat} {n : Nat} : topPrio s cs ≤ n ↔ ∀ c ∈ cs, (getCtx s c).cur.prio ≤ n := by
  have hfold : ∀ (cs : List Nat) (a : Nat), cs.foldl (fun m c => max m (getCtx s c).cur.prio) a ≤ n ↔ a ≤ n ∧ ∀ c ∈ cs, (getCtx s c).cur.prio ≤ n := by
    intro cs
    induction cs with
    | nil => simp
    | cons c cs ih => intro a; rw [List.foldl_cons, ih, Nat.max_le, List.forall_mem_cons, and_assoc]
  rw [topPrio, hfold]
  exact ⟨fun h => h.2, fun h => ⟨Nat.zero_le n, h⟩⟩

theorem prio_le_topPrio {s : State} {cs : List Nat} {c : Nat} (h : c ∈ cs) : (getCtx s c).cur.prio ≤ topPrio s cs := topPrio_le.1 (Nat.le_refl _) c h

theorem topPrio_of_ctxs {s t : State} (h : ∀ c, getCtx t c = getCtx s c) (cs : List Nat) : topPrio t cs = topPrio s cs := by
  simp only [topPrio, h]

/-! ### Work joins the queue (08 R250, R251) -/

section
variable {s : State} {p : Nat}

/-- Work that joins a taken engine waits: no running command gives way to it. -/
theorem enqueueWork_taken {r : Running} (h : engineTaken s p r.ctx = true) : enqueueWork p r s = modFe p (fun f => { f with queue := f.queue ++ [r] }) s := by
  have hjoin := engineIs_modFe p (fun f => { f with queue := f.queue ++ [r] }) s
  rw [enqueueWork]
  generalize modFe p (fun f => { f with queue := f.queue ++ [r] }) s = t at hjoin
  simp only [engineTaken, Bool.and_eq_true, Bool.or_eq_true, decide_eq_true_eq] at h
  obtain ⟨hmode, hrun⟩ := h
  simp only [kick, hjoin.fe]
  split
  · next hidle => exact absurd hidle hmode
  · next k hm hk =>
    refine if_neg (Nat.not_lt.2 ?_)
    have hprio : topPrio s (r.ctx :: readyCtxs s p) ≤ (getCtx s k.ctx).cur.prio := by
      have hall := hrun.resolve_left fun hne => hne hm
      rw [hk] at hall
      simpa using hall
    rw [hjoin.getCtx_eq, topPrio_of_ctxs hjoin.getCtx_eq]
    refine topPrio_le.2 fun c hc => Nat.le_trans (prio_le_topPrio ?_) hprio
    rw [mem_readyCtxs, hjoin.fe, hjoin.getCtx_eq] at hc
    obtain ⟨hqueued, hst⟩ := hc
    simp only [List.map_append, List.mem_append, List.map_cons, List.map_nil, List.mem_singleton] at hqueued
    rw [List.mem_cons, mem_readyCtxs]
    tauto
  · rfl

/-- The context of the only waiting command has the turn. -/
theorem pickCtx_only {c : Nat} (h : readyCtxs s p = [c]) (n : Nat) : pickCtx (n + 1) p s = (some c, modFe p (fun f => { f with last := c }) s) := by
  have hcs : ([c].filter fun d => (getCtx s d).cur.prio == topPrio s [c]) = [c] := by simp [topPrio]
  have hfirst (a b : Option Nat) (ha : ∀ d, a = some d → d = c) (hb : ∀ d, b = some d → d = c) : (a <|> b <|> some c) = some c := by
    cases a with
    | some d => rw [ha d rfl]; rfl
    | none => cases b with
      | some d => rw [hb d rfl]; rfl
      | none => rfl
  have hfind (q : Nat → Bool) : ∀ d, [c].find? q = some d → d = c := fun d hd => List.mem_singleton.1 (List.mem_of_find?_eq_some hd)
  rw [pickCtx]
  simp only [h, hcs]
  rw [show ([c].head? : Option Nat) = some c from rfl, hfirst _ _ (hfind _) (hfind _)]
  simp

theorem readyCtxs_only {r : Running} (hqueue : (getPtn s p).fe.queue = [r]) (hsaved : (getPtn s p).fe.saved = []) (hen : (getCtx s r.ctx).st = .enabled) :
    readyCtxs s p = [r.ctx] := by
  simp [readyCtxs, hqueue, hsaved, naddAll, nadd, hen]

/-- One look at a queue of one command takes it, as the command that was to follow or in its context's turn. -/
theorem serveFuel_only {r : Running} (hqueue : (getPtn s p).fe.queue = [r]) (hsaved : (getPtn s p).fe.saved = []) (hserve : canServe s p = true)
    (hen : (getCtx s r.ctx).st = .enabled) (n : Nat) :
    ∃ u l, EngineIs p { (getPtn s p).fe with queue := [], next := none, last := l } s u ∧
      serveFuel (n + 1) p s = if (beginWork p r u).2 then serveFuel n p (beginWork p r u).1 else (beginWork p r u).1 := by
  have hforget := engineIs_modFe p (fun f => { f with next := none }) s
  have hpick := pickCtx_only (readyCtxs_only (r := r) (by rw [hforget.fe]; exact hqueue) (by rw [hforget.fe]; exact hsaved) (by rw [hforget.getCtx_eq]; exact hen))
    (((readyCtxs s p).map fun c => (getCtx s c).debt / sliceCycles s c + 1).sum)
  have hlast := hforget.modFe fun f => { f with last := r.ctx }
  have hnone : ([r].filter fun q => decide (q ≠ r)) = [] := by simp
  have hself : [r].find? (fun q => q.ctx == r.ctx) = some r := by simp
  have hqueue' : (getPtn (modFe p (fun f => { f with last := r.ctx }) (modFe p (fun f => { f with next := none }) s)) p).fe.queue = [r] := by rw [hlast.fe]; exact hqueue
  have hsaved' : (getPtn (modFe p (fun f => { f with last := r.ctx }) (modFe p (fun f => { f with next := none }) s)) p).fe.saved = [] := by rw [hlast.fe]; exact hsaved
  have hturn : EngineIs p { (getPtn s p).fe with queue := [], next := none, last := r.ctx } s
      (modFe p (fun f => { f with queue := f.queue.filter fun q => decide (q ≠ r) }) (modFe p (fun f => { f with last := r.ctx }) (modFe p (fun f => { f with next := none }) s))) := by
    have h := hlast.modFe fun f => { f with queue := f.queue.filter fun q => decide (q ≠ r) }
    rw [hqueue, hnone] at h
    exact h
  have hfollow : EngineIs p { (getPtn s p).fe with queue := [], next := none, last := (getPtn s p).fe.last } s
      (modFe p (fun f => { f with next := none, queue := f.queue.filter fun q => decide (q ≠ r) }) s) := by
    have h := engineIs_modFe p (fun f => { f with next := none, queue := f.queue.filter fun q => decide (q ≠ r) }) s
    rw [hqueue, hnone] at h
    exact h
  rw [serveFuel, if_neg (by rw [hserve]; decide)]
  cases hnext : (getPtn s p).fe.next with
  | none =>
    refine ⟨_, _, hturn, ?_⟩
    simp only [hnext, pickFuel, hpick, hqueue', hsaved', hself, List.find?_nil]
  | some e =>
    by_cases he : (r.ring, r.idx) = e
    · refine ⟨_, _, hfollow, ?_⟩
      subst he
      simp only [hnext, hqueue, hsaved, List.find?_cons, beq_self_eq_true]
    · refine ⟨_, _, hturn, ?_⟩
      have hmiss : [r].find? (fun q => (q.ring, q.idx) == e) = none := by simp [he]
      simp only [hnext, hsaved, hqueue, hmiss, pickFuel, hpick, hqueue', hsaved', hself, List.find?_nil]

/-- A free engine's queue of one command: the command is taken from it, and begins unless its service ends it. -/
theorem serve_only {r : Running} (hqueue : (getPtn s p).fe.queue = [r]) (hsaved : (getPtn s p).fe.saved = []) (hserve : canServe s p = true)
    (hen : (getCtx s r.ctx).st = .enabled) :
    ∃ u l, EngineIs p { (getPtn s p).fe with mode := .idle, queue := [], next := none, last := l } s u ∧
      ((beginWork p r u).2 = false → serve p s = (beginWork p r u).1) := by
  have hidle := engineIs_modFe p (fun f => { f with mode := .idle }) s
  have hserved : serve p s = serveFuel ((getPtn s p).fe.queue.length + (getPtn s p).fe.saved.length + 1) p (modFe p (fun f => { f with mode := .idle }) s) := rfl
  rw [hserved]
  generalize modFe p (fun f => { f with mode := .idle }) s = t at hidle
  obtain ⟨u, l, htaken, hfuel⟩ := serveFuel_only (s := t) (p := p) (r := r) (by rw [hidle.fe]; exact hqueue) (by rw [hidle.fe]; exact hsaved)
    (by rw [hidle.canServe_eq]; exact hserve) (by rw [hidle.getCtx_eq]; exact hen) ((getPtn s p).fe.queue.length + (getPtn s p).fe.saved.length)
  refine ⟨u, l, ⟨hidle.only.trans htaken.only, ?_⟩, fun hbegins => ?_⟩
  · rw [htaken.own, hidle.own]
  · rw [hfuel, hbegins]; rfl

/-- Work that joins a free engine begins, unless its service ends it. -/
theorem enqueueWork_free {r : Running} (h : EngineFree s p) (hen : (getCtx s r.ctx).st = .enabled) :
    ∃ u l, EngineIs p { (getPtn s p).fe with mode := .idle, queue := [], next := none, last := l } s u ∧
      ((beginWork p r u).2 = false → enqueueWork p r s = (beginWork p r u).1) := by
  obtain ⟨hmode, hqueue, hsaved, hserve⟩ := h
  have hjoin := engineIs_modFe p (fun f => { f with queue := f.queue ++ [r] }) s
  have henq : enqueueWork p r s = kick p (modFe p (fun f => { f with queue := f.queue ++ [r] }) s) := rfl
  rw [henq]
  generalize modFe p (fun f => { f with queue := f.queue ++ [r] }) s = t at hjoin
  obtain ⟨u, l, htaken, hbegins⟩ := serve_only (s := t) (p := p) (r := r) (by rw [hjoin.fe, hqueue]; rfl) (by rw [hjoin.fe]; exact hsaved)
    (by rw [hjoin.canServe_eq]; exact hserve) (by rw [hjoin.getCtx_eq]; exact hen)
  refine ⟨u, l, ⟨hjoin.only.trans htaken.only, ?_⟩, fun hfalse => ?_⟩
  · rw [htaken.own, hjoin.own]
  · rw [kick_idle (by rw [hjoin.fe]; exact hmode)]; exact hbegins hfalse

end

/-! ### A command's turn begins (08 R251, R252) -/

/-- The engine runs `r`, in its context's turn. -/
def runningFe (r : Running) (f : Fe) : Fe := { f with mode := .run, run := some r, turn := some r.ctx, sliceEnd := none, noSave := false, next := none }

/-- The engine of `p` runs `r`, whose command is running, and a new turn has paid its context's debt. -/
structure TurnBegun (p : Nat) (r : Running) (s t : State) : Prop where
  frame  : t = { s with rings := t.rings, ptns := t.ptns, ctxs := t.ctxs }
  others : OtherPtns p s t
  own    : getPtn t p = { getPtn s p with fe := runningFe r (getPtn s p).fe }
  ctx    : getCtx t r.ctx = { getCtx s r.ctx with
    debt := if (getPtn s p).fe.turn = some r.ctx then (getCtx s r.ctx).debt else (getCtx s r.ctx).debt - sliceCycles s r.ctx }
  ctxs   : OtherCtxs r.ctx s t
  rings  : t.rings = (modCmd r.ring r.idx (fun k => { k with phase := .running }) s).rings

/-- A command, an engine and a context that change. -/
theorem turn_frame (ring idx c p : Nat) (g : Cmd → Cmd) (f : Fe → Fe) (x : Ctx → Ctx) (s : State) :
    let t := modCmd ring idx g (modFe p f (modCtx c x s))
    t = { s with rings := t.rings, ptns := t.ptns, ctxs := t.ctxs } ∧ OtherPtns p s t ∧ getPtn t p = { getPtn s p with fe := f (getPtn s p).fe } ∧
      getCtx t c = x (getCtx s c) ∧ OtherCtxs c s t ∧ t.rings = (modCmd ring idx g s).rings := by
  refine ⟨rfl, fun q hq => ?_, ?_, ?_, fun d hd => ?_, rfl⟩
  · rw [modCmd, getPtn_modRing, modFe_eq, getPtn_modPtn_ne _ _ hq, getPtn_modCtx]
  · rw [modCmd, getPtn_modRing, modFe_eq, getPtn_modPtn_self, getPtn_modCtx]
  · rw [modCmd, getCtx_modRing, modFe_eq, getCtx_modPtn, getCtx_modCtx_self]
  · rw [modCmd, getCtx_modRing, modFe_eq, getCtx_modPtn, getCtx_modCtx_ne _ _ hd]

theorem beginTurn_begun (p : Nat) (r : Running) (s : State) : TurnBegun p r s (beginTurn p r s) := by
  simp only [beginTurn]
  split
  · next h =>
    refine ⟨rfl, fun q hq => ?_, ?_, ?_, fun _ _ => rfl, rfl⟩
    · rw [modCmd, getPtn_modRing, modFe_eq, getPtn_modPtn_ne _ _ hq]
    · rw [modCmd, getPtn_modRing, modFe_eq, getPtn_modPtn_self]; rfl
    · rw [if_pos h]; rfl
  · next h =>
    obtain ⟨hframe, hothers, hown, hctx, hctxs, hrings⟩ := turn_frame r.ring r.idx r.ctx p (fun k => { k with phase := .running }) (runningFe r)
      (fun x => { x with debt := x.debt - sliceCycles s r.ctx }) s
    exact ⟨hframe, hothers, hown, by rw [if_neg h]; exact hctx, hctxs, hrings⟩

section
variable {s : State} {p : Nat} {r : Running} {k : Cmd}

/-- A FIG_RUN that the engine serves begins. -/
theorem beginWork_figRun (hcmd : getCmd s r.ring r.idx = some k) (hop : r.opcode = 0x16) : beginWork p r s = (beginTurn p r s, false) := by
  have h21 : ¬ r.opcode = 0x21 := by rw [hop]; decide
  have h28 : ¬ (r.opcode = 0x28 ∧ r.chunk = none) := fun h => absurd (hop.symm.trans h.1) (by decide)
  simp only [beginWork, hcmd, h21, h28, if_false]

end

end Sys2Proof.Proofs
end

section
/-! PROOFS. A batch's boundary phases and its records (09 R266 phases 3-6, R288-R294): of the module's other parts they move only the rows' states, the
token rings and the memory of the rows' sequences. The batch's settings, the rows' descriptors, the figure engine's work and the started commands stay,
but for commands that wait for an adapter or a steering set. -/
namespace Sys2Proof.Proofs
open Sys2Proof Sys2Proof.Machine Sys2Proof.Safety

/-! ### Commands that no recount ends -/

/-- No directory command of this opcode waits for standing rows to go (05 R146, R165). -/
def Settled (op : Nat) : Prop := op ≠ 0x30 ∧ op ≠ 0x31 ∧ op ≠ 0x33

/-- A command other than those that wait for a directory stays as it is, and stays the only one of its index. -/
def CmdsKept (s t : State) : Prop :=
  ∀ r i op id, Settled op → OneEntry r i op id s → OneEntry r i op id t ∧ getCmd t r i = getCmd s r i

theorem CmdsKept.refl (s : State) : CmdsKept s s := fun _ _ _ _ _ h => ⟨h, rfl⟩

theorem CmdsKept.trans {s t u : State} (h : CmdsKept s t) (k : CmdsKept t u) : CmdsKept s u := fun r i op id hop hone =>
  have ht := h r i op id hop hone
  have hu := k r i op id hop ht.1
  ⟨hu.1, hu.2.trans ht.2⟩

theorem cmdsKept_of_rings {s t : State} (h : t.rings = s.rings) : CmdsKept s t := fun r i _ _ _ hone => ⟨hone.of_rings h, getCmd_of_rings h r i⟩

theorem cmdsKept_modRing (n : Nat) {g : Ring → Ring} (hg : ∀ x, (g x).started = x.started) (s : State) : CmdsKept s (modRing n g s) := by
  refine fun r i op id _ hone => ⟨fun k hk => ?_, ?_⟩
  · rcases mem_allCmds_modRing hk with hold | ⟨hnew, hgone⟩
    · exact hone k hold
    · rw [hg] at hnew
      exact hone k (mem_allCmds_of_started hnew hgone)
  · rw [getCmd, getCmd, getRing_modRing]
    split
    · next h => rw [hg, h]
    · rfl

theorem cmdsKept_endWaiting {o : Nat} (ho : o = 0x30 ∨ o = 0x31 ∨ o = 0x33) (n : Nat) (s : State) : CmdsKept s (endWaiting o n s) := by
  refine fun r i op id hop hone => ⟨oneEntry_endWaiting o n hone, getCmd_endWaiting_other hone fun h => ?_⟩
  obtain ⟨h30, h31, h33⟩ := hop
  rw [← h.1] at h30 h31 h33
  tauto

/-! ### Records and the commands that wait for a directory (05 R146, R165; 09 R289-R294) -/

/-- Partitions, contexts and policies are as before, and every command but those that wait for a directory. -/
structure RecordsMoved (s t : State) : Prop where
  ptns   : t.ptns = s.ptns
  ctxs   : t.ctxs = s.ctxs
  policy : t.flt.policy = s.flt.policy
  cmds   : CmdsKept s t

namespace RecordsMoved

theorem refl (s : State) : RecordsMoved s s := ⟨rfl, rfl, rfl, .refl s⟩

section
variable {s t u : State} (h : RecordsMoved s t)
include h

theorem trans (k : RecordsMoved t u) : RecordsMoved s u := ⟨k.ptns.trans h.ptns, k.ctxs.trans h.ctxs, k.policy.trans h.policy, h.cmds.trans k.cmds⟩

theorem same (hptns : u.ptns = t.ptns := by rfl) (hctxs : u.ctxs = t.ctxs := by rfl) (hpolicy : u.flt.policy = t.flt.policy := by rfl)
    (hrings : u.rings = t.rings := by rfl) : RecordsMoved s u := h.trans ⟨hptns, hctxs, hpolicy, cmdsKept_of_rings hrings⟩

theorem ite {c : Prop} [Decidable c] (hu : RecordsMoved s u) : RecordsMoved s (if c then t else u) := by
  split
  · exact h
  · exact hu

theorem foldl {α : Type} {f : State → α → State} {l : List α} (hf : ∀ {u a}, RecordsMoved s u → RecordsMoved s (f u a)) : RecordsMoved s (l.foldl f t) :=
  List.foldlRecOn l f h fun _ hu _ _ => hf hu

theorem modRing {n : Nat} {g : Ring → Ring} (hg : ∀ x, (g x).started = x.started := by intro x; rfl) : RecordsMoved s (modRing n g t) :=
  h.trans ⟨rfl, rfl, rfl, cmdsKept_modRing n hg t⟩

theorem signalled {ns : List Nat} (k : Signalled ns t u) : RecordsMoved s u := by
  obtain ⟨hptns, hctxs, hrings, -, -, -, -, hflt, -⟩ := k.units
  exact h.same hptns hctxs (by rw [hflt]) hrings

theorem endWaiting {o n : Nat} (ho : o = 0x30 ∨ o = 0x31 ∨ o = 0x33) : RecordsMoved s (endWaiting o n t) := by
  have hframe := endWaiting_frame o n t
  exact h.trans ⟨by rw [hframe], by rw [hframe], by rw [hframe], cmdsKept_endWaiting ho n t⟩

theorem hostWrite {a : Nat} {bs : List Byte} : RecordsMoved s (hostWrite a bs t) := h.same

theorem putEntry {n : Nat} {bytes : List Byte} : RecordsMoved s (putEntry n bytes t) := by
  have htail : RecordsMoved s (Machine.modRing n (fun x => { x with tail := w32 (x.tail + 1) })
      (Machine.hostWrite ((getRing t n).cur.base + (getRing t n).tail % ringSize (getRing t n) * 32) bytes t)) := h.hostWrite.modRing
  simp only [Machine.putEntry]
  generalize Machine.modRing _ _ _ = u at htail ⊢
  rw [writeBack_frame]
  exact htail.same

theorem putRec {n : Nat} {k : TokRec} : RecordsMoved s (putRec n k t) := by
  simp only [Machine.putRec, putResetEntry]
  exact h.putEntry.modRing.ite h.putEntry

theorem makeRec {n : Nat} {k : TokRec} : RecordsMoved s (makeRec n k t) := by
  simp only [Machine.makeRec]
  exact h.putRec.ite h.modRing

theorem signalRing {n : Nat} {idle : Bool} : RecordsMoved s (signalRing n idle t) := h.signalled (signalRing_signals n idle t)

theorem makeRecNow {n : Nat} {k : TokRec} : RecordsMoved s (makeRecNow n k t) := by
  simp only [Machine.makeRecNow]
  exact h.makeRec.ite h.makeRec.signalRing

theorem clearMade {n : Nat} : RecordsMoved s (clearMade n t) := h.modRing

theorem boundaryRecs {n : Nat} : RecordsMoved s (boundaryRecs n t) := by
  have hmade : RecordsMoved s
      ((sortBy (fun (a b : TokRec) => decide (a.row ≤ b.row)) (getRing t n).made).foldl (fun t k => Machine.makeRec n k t) (Machine.clearMade n t)) :=
    h.clearMade.foldl fun h => h.makeRec
  exact hmade.ite hmade.signalRing

theorem passAlpha {c n : Nat} : RecordsMoved s (passAlpha c n t) := h.foldl fun {u a} h => by
  have hu : RecordsMoved s (Machine.modAdapter a.1 (fun x => { x with oldAlpha := tdel n x.oldAlpha }) u) := h.same
  exact (hu.endWaiting (.inl rfl)).ite hu

theorem recountRefs : RecordsMoved s (recountRefs t) := by
  refine RecordsMoved.foldl (h.foldl fun {u a} h => ?_) fun {u a} h => ?_
  · dsimp only
    split
    · exact (h.same (u := Machine.modAdapter a.1 (fun _ => {}) u)).endWaiting (.inr (.inl rfl))
    · exact h.same
  · dsimp only
    split
    · exact (h.same (u := Machine.modSteer a.1 (fun _ => {}) u)).endWaiting (.inr (.inr rfl))
    · exact h.same

end

/-- The records that a change has made go out. -/
theorem eachSignals (act : State → State) (s : State) : RecordsMoved (act s) (eachSignals act s) :=
  (RecordsMoved.refl (act s)).foldl fun h => h.clearMade.foldl fun h => h.makeRecNow

theorem withRingSignals (act : State → State) (s : State) : RecordsMoved (act s) (withRingSignals act s) :=
  (RecordsMoved.refl (act s)).foldl fun h => h.boundaryRecs

end RecordsMoved

/-! ### Rows of a table -/

theorem tget_map_kept {α β : Type} {d : α} {f : Nat × α → Nat × α} (view : α → β) (hkey : ∀ e, (f e).1 = e.1) (hview : ∀ e, view (f e).2 = view e.2) (n : Nat) :
    ∀ t : Tbl α, view (tget d (t.map f) n) = view (tget d t n)
  | [] => rfl
  | (k, v) :: t => by
    have hk : (f (k, v)).1 = k := hkey (k, v)
    rw [List.map_cons]
    cases hf : f (k, v) with
    | mk k' v' =>
      rw [hf] at hk
      obtain rfl : k' = k := hk
      have hv : view v' = view v := by rw [← hview (k', v), hf]
      simp only [tget]
      split
      · exact hv
      · exact tget_map_kept view hkey hview n t

/-- A fault that the allocation pass finds for a row names its page table (06 R199). -/
theorem allocRow_code {p c a code det : Nat} {dup : Bool} {fresh : List Nat} {s : State} (h : (allocRow p c a dup fresh s).1 = .fault code det) :
    code = 0x0303 ∨ code = 0x0304 := by
  have hfault {n d : Nat} (h : KvOut.fault n d = .fault code det) : n = code := (KvOut.fault.inj h).1
  simp only [allocRow] at h
  split at h
  · exact .inr (hfault h).symm
  · split at h
    · exact .inr (hfault h).symm
    · split at h
      · exact .inl (hfault h).symm
      · split at h
        · exact .inr (hfault h).symm
        · split at h
          · exact .inr (hfault h).symm
          · split at h
            · exact absurd h (by simp)
            · split at h <;> exact absurd h (by simp)

/-! ### What stays while a batch's rows move -/

theorem getBatch_modBatch_self (p b : Nat) (g : Batch → Batch) (s : State) : getBatch (modBatch p b g s) p b = g (getBatch s p b) := by
  rw [getBatch, modBatch, getPtn_modPtn_self]
  exact tget_tmod_self ..

/-- Beside the commands: other partitions, the engine's work, resets, policies, the contexts' partitions, and the batch but for its rows and segments. -/
structure BatchStays (p b : Nat) (s t : State) : Prop where
  others : OtherPtns p s t
  fe     : (getPtn t p).fe = (getPtn s p).fe
  reset  : (getPtn t p).reset = (getPtn s p).reset
  batch  : getBatch t p b = { getBatch s p b with rows := (getBatch t p b).rows, segs := (getBatch t p b).segs }
  homes  : ∀ c, ptnOfCtx t c = ptnOfCtx s c
  policy : t.flt.policy = s.flt.policy

/-- The rows moved, and every row has the descriptor that `D` names. -/
structure RowsMoved (p b : Nat) (D : Nat → RowDesc) (s t : State) : Prop where
  stays : BatchStays p b s t
  descs : ∀ r, (getRow (getBatch t p b) r).desc = D r
  cmds  : CmdsKept s t

/-- The descriptors of a batch's rows. -/
def descsOf (s : State) (p b : Nat) (r : Nat) : RowDesc := (getRow (getBatch s p b) r).desc

/-- Faults of the batch's rows take no action beyond their records, which stand in the batch's partition. -/
structure RowsQuiet (p b : Nat) (s : State) : Prop where
  policies : RowPolicies s
  mirror   : MirrorFree s
  home     : ptnOfCtx s (getBatch s p b).ctx = p

namespace BatchStays

theorem refl (p b : Nat) (s : State) : BatchStays p b s s := ⟨fun _ _ => rfl, rfl, rfl, rfl, fun _ => rfl, rfl⟩

section
variable {p b : Nat} {s t u : State}

theorem trans (h : BatchStays p b s t) (k : BatchStays p b t u) : BatchStays p b s u where
  others q hq := (k.others q hq).trans (h.others q hq)
  fe := k.fe.trans h.fe
  reset := k.reset.trans h.reset
  batch := by rw [k.batch, h.batch]
  homes c := (k.homes c).trans (h.homes c)
  policy := k.policy.trans h.policy

theorem quiet (h : BatchStays p b s t) (hs : RowsQuiet p b s) : RowsQuiet p b t where
  policies := by
    have hpolicy (code : Nat) : policyOf t code = policyOf s code := by rw [policyOf, h.policy]; rfl
    simpa only [RowPolicies, hpolicy] using hs.policies
  mirror := mirrorFree_of_reset (fun q => by
    by_cases hq : q = p
    · rw [hq, h.reset]
    · rw [h.others q hq]) hs.mirror
  home := by rw [h.homes, h.batch]; exact hs.home

/-- A change of parts that no batch, engine or policy reads. -/
theorem of_same (hptns : t.ptns = s.ptns := by rfl) (hctxs : t.ctxs = s.ctxs := by rfl) (hpolicy : t.flt.policy = s.flt.policy := by rfl) : BatchStays p b s t := by
  have hptn (q : Nat) : getPtn t q = getPtn s q := getPtn_eq_of_ptns hptns q
  refine ⟨fun q _ => hptn q, by rw [hptn], by rw [hptn], ?_, fun c => ?_, hpolicy⟩
  · rw [getBatch, getBatch, hptn]
  · rw [ptnOfCtx, ptnOfCtx, getCtx, getCtx, hctxs]

/-- A change of the partition that its batches, engine and reset do not see. -/
theorem of_modPtn {g : Ptn → Ptn} (hb : ∀ x, (g x).batches = x.batches := by intro x; rfl) (hf : ∀ x, (g x).fe = x.fe := by intro x; rfl)
    (hr : ∀ x, (g x).reset = x.reset := by intro x; rfl) : BatchStays p b s (modPtn p g s) := by
  refine ⟨fun q hq => getPtn_modPtn_ne _ _ hq, ?_, ?_, ?_, fun _ => rfl, rfl⟩
  · rw [getPtn_modPtn_self, hf]
  · rw [getPtn_modPtn_self, hr]
  · rw [getBatch, getBatch, getPtn_modPtn_self, hb]

/-- A change of the batch's rows or segments. -/
theorem of_modBatch {g : Batch → Batch} (hg : ∀ x, g x = { x with rows := (g x).rows, segs := (g x).segs } := by intro x; rfl) :
    BatchStays p b s (modBatch p b g s) := by
  refine ⟨fun q hq => getPtn_modPtn_ne _ _ hq, by rw [modBatch, getPtn_modPtn_self], by rw [modBatch, getPtn_modPtn_self], ?_, fun _ => rfl, rfl⟩
  rw [getBatch_modBatch_self]
  exact hg _

end

end BatchStays

namespace RowsMoved

theorem refl (p b : Nat) (s : State) : RowsMoved p b (descsOf s p b) s s := ⟨.refl p b s, fun _ => rfl, .refl s⟩

section
variable {p b : Nat} {D : Nat → RowDesc} {s t u : State} (h : RowsMoved p b D s t)
include h

/-- A change that leaves the rows where they are. -/
theorem step (hstays : BatchStays p b t u) (hrows : (getBatch u p b).rows = (getBatch t p b).rows) (hcmds : CmdsKept t u) : RowsMoved p b D s u :=
  ⟨h.stays.trans hstays, fun r => by rw [← h.descs r, getRow, hrows]; rfl, h.cmds.trans hcmds⟩

theorem same (hptns : u.ptns = t.ptns := by rfl) (hctxs : u.ctxs = t.ctxs := by rfl) (hpolicy : u.flt.policy = t.flt.policy := by rfl)
    (hrings : u.rings = t.rings := by rfl) : RowsMoved p b D s u :=
  h.step (.of_same hptns hctxs hpolicy) (by rw [getBatch, getBatch, getPtn_eq_of_ptns hptns p]) (cmdsKept_of_rings hrings)

theorem ite {c : Prop} [Decidable c] (hu : RowsMoved p b D s u) : RowsMoved p b D s (if c then t else u) := by
  split
  · exact h
  · exact hu

theorem foldl {α : Type} {f : State → α → State} {l : List α} (hf : ∀ {u a}, RowsMoved p b D s u → RowsMoved p b D s (f u a)) : RowsMoved p b D s (l.foldl f t) :=
  List.foldlRecOn l f h fun _ hu _ _ => hf hu

theorem quiet (hs : RowsQuiet p b s) : RowsQuiet p b t := h.stays.quiet hs

theorem modPtn {g : Ptn → Ptn} (hb : ∀ x, (g x).batches = x.batches := by intro x; rfl) (hf : ∀ x, (g x).fe = x.fe := by intro x; rfl)
    (hr : ∀ x, (g x).reset = x.reset := by intro x; rfl) : RowsMoved p b D s (modPtn p g t) :=
  h.step (.of_modPtn hb hf hr) (by rw [getBatch, getBatch, getPtn_modPtn_self, hb]) (cmdsKept_of_rings rfl)

theorem modCtx {c : Nat} {g : Ctx → Ctx} (hg : ∀ x, (g x).ptn = x.ptn := by intro x; rfl) : RowsMoved p b D s (modCtx c g t) := by
  refine h.step ⟨fun _ _ => rfl, rfl, rfl, rfl, fun d => ?_, rfl⟩ rfl (cmdsKept_of_rings rfl)
  rw [ptnOfCtx, getCtx_modCtx]
  split
  · next hd => rw [hg, hd]; rfl
  · rfl

theorem recordsMoved (k : RecordsMoved t u) : RowsMoved p b D s u :=
  h.step (.of_same k.ptns k.ctxs k.policy) (by rw [getBatch, getBatch, getPtn_eq_of_ptns k.ptns p]) k.cmds

theorem modRing {n : Nat} {g : Ring → Ring} (hg : ∀ x, (g x).started = x.started := by intro x; rfl) : RowsMoved p b D s (modRing n g t) :=
  h.recordsMoved ((RecordsMoved.refl t).modRing hg)

theorem signalled {ns : List Nat} (k : Signalled ns t u) : RowsMoved p b D s u := h.recordsMoved ((RecordsMoved.refl t).signalled k)

theorem rangeWritten (k : RangeWritten p t u) : RowsMoved p b D s u := by
  have hrings : u.rings = t.rings := by rw [k.frame]
  have hbatch : getBatch u p b = getBatch t p b := by rw [getBatch, getBatch, k.own]
  refine h.step ⟨k.others, by rw [k.own], by rw [k.own], by rw [hbatch], fun c => by rw [k.frame]; rfl, by rw [k.frame]⟩ (by rw [hbatch]) (cmdsKept_of_rings hrings)

theorem modRow {r : Nat} {g : BRow → BRow} (hg : ∀ x, (g x).desc = x.desc := by intro x; rfl) : RowsMoved p b D s (modRow p b r g t) := by
  refine ⟨h.stays.trans .of_modBatch, fun n => ?_, h.cmds.trans (cmdsKept_of_rings rfl)⟩
  rw [← h.descs n, Machine.modRow, getBatch_modBatch_self, getRow, tget_tmod]
  split
  · next hn => rw [hg, hn]; rfl
  · rfl

theorem setSegs {l : List Segment} : RowsMoved p b D s (modBatch p b (fun x => { x with segs := l }) t) :=
  h.step .of_modBatch (by rw [getBatch_modBatch_self]) (cmdsKept_of_rings rfl)

/-! #### Records (09 R289-R294) -/

theorem emitRec {r type value pos detail flags : Nat} : RowsMoved p b D s (emitRec p b r type value pos detail flags t) := by
  simp only [Machine.emitRec]
  exact h.ite h.modRing.modRow

theorem rowRecord {r type value detail flags : Nat} : RowsMoved p b D s (rowRecord p b r type value detail flags t) := by
  simp only [Machine.rowRecord]
  exact h.ite h.emitRec

theorem killRow {r : Nat} : RowsMoved p b D s (killRow p b r t) := h.modRow

theorem finishRow {r : Nat} : RowsMoved p b D s (finishRow p b r t) := h.modRow

/-! #### Rows' faults (05 R155; 06 R199; 09 R272, R279; 11 R332) -/

theorem logged {r : FaultRec} (hp : r.ptn = some p) : RowsMoved p b D s (logged r t) := by
  have hmodule : RowsMoved p b D s (logModule r t) := h.same
  simp only [Safety.logged, hp]
  exact hmodule.ite hmodule.modPtn

/-- A fault whose action is LOG or ROW, outside mirror runs, is recorded and signalled. -/
theorem raise {r : FaultRec} (hfree : MirrorFree t) (hp : r.ptn = some p) (haction : r.action = 0 ∨ r.action = 6) : RowsMoved p b D s (raise r t) := by
  have hrecord : Machine.raise r t = recordFault r t := by
    rw [raise_eq_raisePlain hfree]
    rcases haction with haction | haction <;> simp only [raisePlain, takeAction, haction]
  obtain ⟨ns, hsig⟩ := recordFault_logged r t
  rw [hrecord]
  exact (h.logged hp).signalled hsig

/-- Faults of rows at their boundary phases. -/
theorem rowFault {r code index detail : Nat} {die : Option Nat} {kill : Bool} (hs : RowsQuiet p b s)
    (hcode : code ∈ [0x0301, 0x0302, 0x0303, 0x0304, 0x0305, 0x0601, 0x0602]) : RowsMoved p b D s (rowFault p b r code index detail die kill t) := by
  have ht := h.quiet hs
  have haction : policyOf t code = 6 := ht.policies.1 code hcode
  simp only [Machine.rowFault, haction, if_true]
  have hraised := h.raise (r := { (((faultRec t code index detail).withCtx t (getBatch t p b).ctx).withRing (getRow (getBatch t p b) r).desc.ring).withRow r with die := die })
    ht.mirror (congrArg some ht.home) (.inr haction)
  exact hraised.rowRecord.killRow.ite hraised.rowRecord

/-! #### Deadlines and references (05 R146, R153-R155; 09 R266, R279) -/

theorem deadlines {tb : Nat} : RowsMoved p b D s (deadlines p b tb t) := h.foldl fun h => h.rowRecord.killRow

theorem passAlpha {c n : Nat} : RowsMoved p b D s (passAlpha c n t) := h.recordsMoved (RecordsMoved.refl t).passAlpha

theorem recountRefs : RowsMoved p b D s (recountRefs t) := h.recordsMoved (RecordsMoved.refl t).recountRefs

theorem buildSegments (hs : RowsQuiet p b s) : RowsMoved p b D s (buildSegments p b t) := by
  simp only [Machine.buildSegments]
  exact h.setSegs.recountRefs.foldl fun h => (h.rowFault hs (by decide)).ite ((h.rowFault hs (by decide)).ite h)

theorem checkMasks (hs : RowsQuiet p b s) : RowsMoved p b D s (checkMasks p b t) := by
  refine h.foldl fun {u a} h => ?_
  exact (h.rowFault hs (by decide)).ite h

/-! #### The allocation pass (06 R193-R196, R199) -/

theorem modAtt {g : Att → Att} : RowsMoved p b D s (modAtt p g t) := h.modPtn

theorem modTab {a : Nat} {g : KvTab → KvTab} : RowsMoved p b D s (modTab p a g t) := h.rangeWritten (rangeWritten_modTab ..)

theorem writeEnt {a e w : Nat} : RowsMoved p b D s (writeEnt p a e w t) := h.rangeWritten (rangeWritten_writeEnt ..)

theorem returnPages {c a : Nat} {mark : Nat → Nat} {es : List Nat} : RowsMoved p b D s (returnPages p c a es mark t) :=
  h.foldl fun h => h.modAtt.modCtx.writeEnt

theorem dropBlock {c a n : Nat} : RowsMoved p b D s (dropBlock p c a n t) := by
  have hback : RowsMoved p b D s (Machine.returnPages p c a (validEnts t p a (readTab t p a) n) dropMark t) := h.returnPages
  have hleft : RowsMoved p b D s (Machine.leaveList p a (Machine.returnPages p c a (validEnts t p a (readTab t p a) n) dropMark t)) := hback.ite hback.modAtt
  simp only [Machine.dropBlock]
  generalize Machine.leaveList _ _ _ = u at hleft ⊢
  exact hleft.modTab.modCtx.modAtt

theorem makeRoom {fuel c a n : Nat} {fresh : List Nat} : RowsMoved p b D s (makeRoom fuel p c a n fresh t).2 := by
  induction fuel generalizing t with
  | zero => exact h
  | succ fuel ih =>
    simp only [Machine.makeRoom]
    split
    · exact h
    · split
      · exact h
      · exact ih h.dropBlock

theorem takeKvPage {a e : Nat} : RowsMoved p b D s (takeKvPage p a t e) :=
  (h.same (u := (drawChoice (poolFree (getPtn t p).att) t).2)).modAtt.writeEnt

theorem allocBlock {c a n : Nat} {fresh : List Nat} : RowsMoved p b D s (allocBlock p c a n fresh t).2 := by
  simp only [Machine.allocBlock]
  split
  · exact h
  · have hroom := h.makeRoom (fuel := (getPtn t p).att.poolUsed.length + 1) (c := c) (a := a) (n := (blockGaps t p a n).length) (fresh := fresh)
    split
    · next heq => rwa [heq] at hroom
    · next heq =>
      rw [heq] at hroom
      dsimp only
      exact (hroom.foldl fun h => h.takeKvPage).modCtx.modAtt

theorem allocBlocks {c a : Nat} {fresh bs : List Nat} : RowsMoved p b D s (allocBlocks p c a fresh bs t).2 := by
  induction bs generalizing t with
  | nil => exact h
  | cons n bs ih =>
    have hblock := h.allocBlock (c := c) (a := a) (n := n) (fresh := fresh)
    simp only [Machine.allocBlocks]
    split
    · next heq =>
      rw [heq] at hblock
      exact ih hblock
    · next heq => rwa [heq] at hblock

theorem dropPoisoned {c a : Nat} {es : List Nat} : RowsMoved p b D s (dropPoisoned p c a es t) := by
  simp only [Machine.dropPoisoned]
  split
  · exact h
  · exact h.returnPages.modTab

theorem allocRow {c a : Nat} {dup : Bool} {fresh : List Nat} : RowsMoved p b D s (allocRow p c a dup fresh t).2.2 := by
  simp only [Machine.allocRow]
  split
  · exact h
  · split
    · exact h
    · split
      · exact h
      · split
        · exact h
        · split
          · exact h.dropPoisoned
          · split
            · exact h.dropPoisoned
            · exact h.dropPoisoned.allocBlocks

theorem rowOutcome {r : Nat} {o : KvOut} (hs : RowsQuiet p b s) (ho : ∀ code det, o = .fault code det → code = 0x0303 ∨ code = 0x0304) :
    RowsMoved p b D s (rowOutcome p b r o t) := by
  have hmissing : RowsMoved p b D s (Machine.rowOutcome p b r .missing t) := by
    unfold Machine.rowOutcome
    exact RowsMoved.ite (RowsMoved.modRow (RowsMoved.ite h h.rowRecord)) h.modRow
  cases o with
  | ok => exact hmissing
  | missing => exact hmissing
  | exhausted n =>
    have hnoted : RowsMoved p b D s (if (getRow (getBatch t p b) r).exhNoted then t else Machine.rowFault p b r 0x0305 0 n none false t) :=
      h.ite (h.rowFault hs (by decide))
    exact hnoted.modRow
  | fault code det =>
    rcases ho code det rfl with rfl | rfl
    · exact h.rowFault hs (by decide)
    · exact h.rowFault hs (by decide)

/-- What the pass finds for its rows: pages moved, and no fault but the two of a row's page table. -/
theorem allocRows {c : Nat} {table : Nat → Nat} {dup : Nat → Bool} {rows : List Nat} {found : List (Nat × KvOut)} {fresh : List Nat}
    (hfound : ∀ e ∈ found, ∀ code det, e.2 = .fault code det → code = 0x0303 ∨ code = 0x0304) :
    let r := rows.foldl (fun (acc : List (Nat × KvOut) × List Nat × State) r =>
      let y := Machine.allocRow p c (table r) (dup r) acc.2.1 acc.2.2
      (acc.1 ++ [(r, y.1)], y.2.1, y.2.2)) (found, fresh, t)
    RowsMoved p b D s r.2.2 ∧ ∀ e ∈ r.1, ∀ code det, e.2 = .fault code det → code = 0x0303 ∨ code = 0x0304 := by
  induction rows generalizing t found fresh with
  | nil => exact ⟨h, hfound⟩
  | cons r rows ih =>
    refine ih h.allocRow fun e he code det hout => ?_
    rcases List.mem_append.1 he with hold | hnew
    · exact hfound e hold code det hout
    · rw [List.mem_singleton.1 hnew] at hout
      exact allocRow_code hout

theorem allocPass (hs : RowsQuiet p b s) : RowsMoved p b D s (allocPass p b t) := by
  obtain ⟨hpass, hcodes⟩ := h.allocRows (c := (getBatch t p b).ctx) (table := fun r => (getRow (getBatch t p b) r).desc.pageTable)
    (dup := tableTaken t p b) (rows := rowsIn (getBatch t p b) rowLive) (found := []) (fresh := []) (by simp)
  simp only [Machine.allocPass]
  exact List.foldlRecOn _ _ hpass fun _ hu e he => hu.rowOutcome hs (hcodes e he)

/-! #### Admission (09 R265, R293) -/

theorem admitRing {n : Nat} (hs : RowsQuiet p b s) : RowsMoved p b D s (admitRing p b n t) := by
  simp only [Machine.admitRing]
  generalize (rowsIn (getBatch t p b) fun y => rowLive y && !y.sat && y.desc.ring == n) = rows
  generalize List.foldl _ ((0 : Nat), ([] : List Nat)) rows = r
  have hparked : RowsMoved p b D s (rows.foldl (fun s i => Machine.modRow p b i (fun y => { y with parked := r.2.contains i }) s) t) := h.foldl fun h => h.modRow
  generalize List.foldl _ t rows = u at hparked ⊢
  split
  · exact hparked.modRing
  · split
    · exact hparked
    · have hu := hparked.quiet hs
      have hctx : (getBatch t p b).ctx = (getBatch u p b).ctx := by rw [h.stays.batch, hparked.stays.batch]
      refine RowsMoved.modRing (hparked.raise hu.mirror ?_ (.inl hu.policies.2))
      exact congrArg some (by rw [hctx]; exact hu.home)

theorem seatRows : RowsMoved p b D s (seatRows p b t) := by
  refine ⟨h.stays.trans .of_modBatch, fun r => ?_, h.cmds.trans (cmdsKept_of_rings rfl)⟩
  rw [← h.descs r, Machine.seatRows, getBatch_modBatch_self, getRow]
  exact tget_map_kept (fun x : BRow => x.desc) (fun e => by split <;> rfl) (fun e => by split <;> rfl) r _

theorem admitRows (hs : RowsQuiet p b s) : RowsMoved p b D s (admitRows p b t) := by
  refine RowsMoved.seatRows ?_
  exact h.foldl fun h => h.admitRing hs

/-- The boundary phases move the batch's rows (09 R266). -/
theorem rowPhases {tb : Nat} {replaced : Bool} (hs : RowsQuiet p b s) : RowsMoved p b D s (rowPhases p b tb replaced t) := by
  have hbuilt : RowsMoved p b D s (if replaced then Machine.buildSegments p b (Machine.deadlines p b tb t) else Machine.deadlines p b tb t) :=
    (h.deadlines.buildSegments hs).ite h.deadlines
  have hchecked := hbuilt.checkMasks hs
  exact ((hchecked.allocPass hs).admitRows hs).ite hchecked

end

end RowsMoved

end Sys2Proof.Proofs
end

section
/-! PROOFS. FIG_RUN, BATCH_RUN and RECOMPUTE as they start (06 R197; 08 R245, R246, R250-R252). -/
namespace Sys2Proof.Proofs
open Sys2Proof Sys2Proof.Machine Sys2Proof.Safety

/-! ### What a command reads once it has started -/

section
variable {s : State} {e : Entry} {op : Nat}

theorem getBatch_begun (p b : Nat) : getBatch (begun s e op) p b = getBatch s p b := by rw [getBatch, getPtn_begun]; rfl

theorem readyCtxs_of_fe {s t : State} {p : Nat} (hfe : (getPtn t p).fe = (getPtn s p).fe) (hctx : ∀ c, getCtx t c = getCtx s c) :
    readyCtxs t p = readyCtxs s p := by
  simp only [readyCtxs, hfe, hctx]

theorem engineTaken_of_fe {s t : State} {p : Nat} (hfe : (getPtn t p).fe = (getPtn s p).fe) (hctx : ∀ c, getCtx t c = getCtx s c) (c : Nat) :
    engineTaken t p c = engineTaken s p c := by
  rw [engineTaken, engineTaken, hfe, readyCtxs_of_fe hfe hctx, Bool.eq_iff_iff]
  simp only [Bool.and_eq_true, Bool.or_eq_true, decide_eq_true_eq, Option.all_eq_true, topPrio_of_ctxs hctx, hctx]

theorem engineTaken_begun (p c : Nat) : engineTaken (begun s e op) p c = engineTaken s p c :=
  engineTaken_of_fe (by rw [getPtn_begun]) (getCtx_begun s e op) c

theorem canServe_begun (p : Nat) : canServe (begun s e op) p = canServe s p := by
  rw [canServe, getPtn_begun, begun_frame]; rfl

theorem engineFree_begun {p : Nat} (h : EngineFree s p) : EngineFree (begun s e op) p := by
  obtain ⟨hmode, hqueue, hsaved, hserve⟩ := h
  refine ⟨?_, ?_, ?_, ?_⟩
  · rw [getPtn_begun]; exact hmode
  · rw [getPtn_begun]; exact hqueue
  · rw [getPtn_begun]; exact hsaved
  · rw [canServe_begun]; exact hserve

theorem loadedMap_begun (p : Nat) : loadedMap (begun s e op) p = loadedMap s p := by rw [loadedMap, getPtn_begun]; rfl

theorem tableOk_begun (p c a : Nat) (m : Option AttMap) : tableOk (begun s e op) p c a m = tableOk s p c a m := by rw [begun_frame]; rfl

/-- The context of a command that starts is ENABLED. -/
theorem ctx_enabled (h : Runs s e op) : (getCtx s (newCmd s e op).ctx).st = .enabled := by
  have hstart := h.1
  simp only [canStart, Bool.and_eq_true, decide_eq_true_eq] at hstart
  tauto

/-- A command that joins the queue of its partition's taken engine waits there. -/
theorem enqueueWork_waits {w : Running} {p : Nat} (hctx : w.ctx = (newCmd s e op).ctx) (h : engineTaken s p (newCmd s e op).ctx = true) {t : State}
    (ht : t = enqueueWork p w (begun s e op)) :
    t = { s with rings := t.rings, out := { s.out with hostMem := t.out.hostMem }, ptns := t.ptns } ∧ Started s t e (newCmd s e op) ∧ OtherPtns p s t ∧
      getPtn t p = { getPtn s p with fe := { (getPtn s p).fe with queue := (getPtn s p).fe.queue ++ [w] } } := by
  rw [enqueueWork_taken (by rw [hctx, engineTaken_begun]; exact h)] at ht
  have hjoin := engineIs_modFe p (fun f => { f with queue := f.queue ++ [w] }) (begun s e op)
  rw [← ht] at hjoin
  refine ⟨?_, started_of_rings (started_begun s e op) hjoin.rings (by rw [hjoin.only.frame]), fun q hq => ?_, ?_⟩
  · rw [hjoin.only.frame, begun_frame]
  · rw [hjoin.only.others q hq, getPtn_begun]
  · rw [hjoin.own, getPtn_begun]

end

/-! ### FIG_RUN (08 R245, R250) -/

section
variable {s : State} {e : Entry}

theorem exec_figRun (h : Runs s e 0x16) : exec (.figRun e) s = .next (figRunGo (newCmd s e 0x16) (begun s e 0x16)) :=
  congrArg Host.Outcome.next (runEntry_begun h figRunGo)

section
variable {c : Cmd} {u : State}

theorem withPorts_unread {a st : Nat} {go : List PortEnt → State → State} (h : readDesc u c a 8192 = .error st) : withPorts c a go u = endCmd c.ring c.idx st 0 u := by
  simp only [withPorts, withDesc, h]

theorem withPorts_bad {a : Nat} {b : List Byte} {go : List PortEnt → State → State} (h : readDesc u c a 8192 = .ok b)
    (hbad : ((pieces 16 512 b).map decPort).any portBad = true) : withPorts c a go u = endCmd c.ring c.idx 2 0 u := by
  simp only [withPorts, withDesc, h, hbad, if_true]

theorem withPorts_good {a : Nat} {b : List Byte} {go : List PortEnt → State → State} (h : readDesc u c a 8192 = .ok b)
    (hgood : ((pieces 16 512 b).map decPort).any portBad = false) : withPorts c a go u = go ((pieces 16 512 b).map decPort) u := by
  simp only [withPorts, withDesc, h, hgood, Bool.false_eq_true, if_false]

end

theorem figRunGo_noTarget {c : Cmd} (h : opw c.ops 2 = 0) (u : State) : figRunGo c u = endCmd c.ring c.idx 2 0 u := if_pos h

theorem figRunGo_ports {c : Cmd} (h : opw c.ops 2 ≠ 0) (u : State) :
    figRunGo c u = withPorts c (opd c.ops 4) (fun ps s => enqueueWork c.ptn (workOf c (opw c.ops 2) ps 0) s) u := if_neg h

/-- A FIG_RUN on a free engine begins its context's turn. -/
theorem enqueueWork_begins {w : Running} {p : Nat} (h : Runs s e 0x16) (hring : w.ring = (newCmd s e 0x16).ring) (hidx : w.idx = (newCmd s e 0x16).idx)
    (hctx : w.ctx = (newCmd s e 0x16).ctx) (hop : w.opcode = 0x16) (hfree : EngineFree s p) {t : State} (ht : t = enqueueWork p w (begun s e 0x16)) :
    t = { s with rings := t.rings, out := { s.out with hostMem := t.out.hostMem }, ptns := t.ptns, ctxs := t.ctxs } ∧
      Started s t e { newCmd s e 0x16 with phase := .running } ∧ OtherPtns p s t ∧ OtherCtxs w.ctx s t ∧
      getCtx t w.ctx = { getCtx s w.ctx with
        debt := if (getPtn s p).fe.turn = some w.ctx then (getCtx s w.ctx).debt else (getCtx s w.ctx).debt - sliceCycles s w.ctx } ∧
      (getPtn t p).fe.mode = .run ∧ (getPtn t p).fe.run = some w ∧ (getPtn t p).fe.queue = [] := by
  have hen : (getCtx (begun s e 0x16) w.ctx).st = .enabled := by rw [getCtx_begun, hctx]; exact ctx_enabled h
  obtain ⟨u, l, htaken, hserved⟩ := enqueueWork_free (r := w) (engineFree_begun (e := e) (op := 0x16) hfree) hen
  have hstarted : Started s u e (newCmd s e 0x16) := started_of_rings (started_begun s e 0x16) htaken.rings (by rw [htaken.only.frame])
  have hcmd : getCmd u w.ring w.idx = some (newCmd s e 0x16) := by
    rw [hring, hidx]; exact getCmd_of_started h hstarted rfl rfl
  have hbegin := beginWork_figRun (p := p) hcmd hop
  replace ht : t = beginTurn p w u := by rw [ht, hserved (by rw [hbegin]), hbegin]
  have hturn := beginTurn_begun p w u
  rw [← ht] at hturn
  have hgetCtx (c : Nat) : getCtx u c = getCtx s c := (htaken.getCtx_eq c).trans (getCtx_begun s e 0x16 c)
  have hown : getPtn u p = { getPtn s p with fe := { (getPtn s p).fe with mode := .idle, queue := [], next := none, last := l } } := by
    rw [htaken.own, getPtn_begun]
  refine ⟨?_, ?_, fun q hq => ?_, fun c hc => ?_, ?_, ?_, ?_, ?_⟩
  · rw [hturn.frame, htaken.only.frame, begun_frame]
  · refine started_of_rings (started_modCmd h hstarted rfl rfl fun k => { k with phase := .running }) ?_ (by rw [hturn.frame]; rfl)
    rw [hturn.rings, hring, hidx]; rfl
  · rw [hturn.others q hq, htaken.only.others q hq, getPtn_begun]
  · rw [hturn.ctxs c hc, hgetCtx]
  · rw [hturn.ctx, hown, hgetCtx, sliceCycles, hgetCtx]; rfl
  · rw [hturn.own]; rfl
  · rw [hturn.own]; rfl
  · rw [hturn.own, hown]; rfl

end

/-! ### BATCH_RUN as it starts (08 R245; 09 R264) -/

section
variable {s : State} {e : Entry}

theorem exec_batchRun (h : Runs s e 0x21) : exec (.batchRun e) s = .next (batchRunGo (newCmd s e 0x21) (begun s e 0x21)) :=
  congrArg Host.Outcome.next (runEntry_begun h batchRunGo)

section
variable {c : Cmd} {u : State} {go : Nat → Batch → State → State}

theorem onBatch_closed (h : (getBatch u c.ptn (opf c.ops 2 0 6)).open_ = false) : onBatch c go u = endCmd c.ring c.idx 0x11 0 u := by
  simp only [onBatch, h, Bool.not_false, if_true]

theorem onBatch_foreign (hopen : (getBatch u c.ptn (opf c.ops 2 0 6)).open_ = true) (h : (getBatch u c.ptn (opf c.ops 2 0 6)).ctx ≠ c.ctx) :
    onBatch c go u = endCmd c.ring c.idx 3 0 u := by
  simp only [onBatch, hopen, h, Bool.not_true, Bool.false_eq_true, ne_eq, not_false_eq_true, if_false, if_true]

theorem onBatch_mine (hopen : (getBatch u c.ptn (opf c.ops 2 0 6)).open_ = true) (h : (getBatch u c.ptn (opf c.ops 2 0 6)).ctx = c.ctx) :
    onBatch c go u = go (opf c.ops 2 0 6) (getBatch u c.ptn (opf c.ops 2 0 6)) u := by
  simp only [onBatch, hopen, h, Bool.not_true, Bool.false_eq_true, ne_eq, not_true_eq_false, if_false]

end

theorem batchRunGo_refused {c : Cmd} {u : State}
    (h : opf c.ops 3 0 16 = 0 ∨ (getBatch u c.ptn (opf c.ops 2 0 6)).open_ = false ∨ (getBatch u c.ptn (opf c.ops 2 0 6)).ctx ≠ c.ctx) :
    batchRunGo c u = endCmd c.ring c.idx (if opf c.ops 3 0 16 = 0 then 2 else if (getBatch u c.ptn (opf c.ops 2 0 6)).open_ then 3 else 0x11) 0 u := by
  rw [batchRunGo]
  by_cases hzero : opf c.ops 3 0 16 = 0
  · rw [if_pos hzero, if_pos hzero]
  · rw [if_neg hzero, if_neg hzero]
    cases hopen : (getBatch u c.ptn (opf c.ops 2 0 6)).open_ with
    | false => rw [onBatch_closed hopen, if_neg (by decide)]
    | true =>
      rcases h with h | h | h
      · exact absurd h hzero
      · rw [hopen] at h; exact absurd h (by decide)
      · rw [onBatch_foreign hopen h, if_pos rfl]

theorem batchRunGo_mine {c : Cmd} {u : State} (hsteps : opf c.ops 3 0 16 ≠ 0) (hopen : (getBatch u c.ptn (opf c.ops 2 0 6)).open_ = true)
    (hctx : (getBatch u c.ptn (opf c.ops 2 0 6)).ctx = c.ctx) :
    batchRunGo c u = enqueueWork c.ptn (workOf c (opf c.ops 3 0 16) (getBatch u c.ptn (opf c.ops 2 0 6)).ports (opf c.ops 2 0 6)) u := by
  rw [batchRunGo, if_neg hsteps, onBatch_mine hopen hctx]

end

/-! ### RECOMPUTE as it starts (06 R197) -/

section
variable {s : State} {e : Entry}

theorem exec_recompute (h : Runs s e 0x28) : exec (.recompute e) s = .next (recomputeGo (newCmd s e 0x28) (begun s e 0x28)) :=
  congrArg Host.Outcome.next (runEntry_begun h recomputeGo)

section
variable {c : Cmd} {u : State} {m : AttMap}

theorem recomputeGo_noMap (h : loadedMap u c.ptn = none) : recomputeGo c u = endCmd c.ring c.idx 0x0D 0 u := by
  simp only [recomputeGo, h]

theorem recomputeGo_whole (hmap : loadedMap u c.ptn = some m) (hmine : tableMine u c (opd c.ops 2) = true)
    (hok : tableOk u c.ptn c.ctx (opd c.ops 2) (some m) = true) (hidle : (readTab u c.ptn (opd c.ops 2)).recomputing = false)
    (hnone : hasMissing (readTab u c.ptn (opd c.ops 2)) (kvP m.d m.kvFmt) = false) : recomputeGo c u = endCmd c.ring c.idx 0 0 u := by
  simp only [recomputeGo, hmap, hmine, hok, hidle, hnone, Bool.not_true, Bool.not_false, Bool.or_self, Bool.false_eq_true, if_false, if_true]

theorem recomputeGo_joins {b : List Byte} (hmap : loadedMap u c.ptn = some m) (hmine : tableMine u c (opd c.ops 2) = true)
    (hok : tableOk u c.ptn c.ctx (opd c.ops 2) (some m) = true) (hidle : (readTab u c.ptn (opd c.ops 2)).recomputing = false)
    (hsome : hasMissing (readTab u c.ptn (opd c.ops 2)) (kvP m.d m.kvFmt) = true) (hread : readDesc u c (opd c.ops 4) 8192 = .ok b)
    (hgood : ((pieces 16 512 b).map decPort).any portBad = false) :
    recomputeGo c u = enqueueWork c.ptn (workOf c 0 ((pieces 16 512 b).map decPort) 0) (modTab c.ptn (opd c.ops 2) (fun h => { h with recomputing := true }) u) := by
  simp only [recomputeGo, hmap, hmine, hok, hidle, hsome, Bool.not_true, Bool.or_self, Bool.false_eq_true, if_false]
  exact withPorts_good hread hgood

end

theorem modTab_begun (p a : Nat) (g : KvTab → KvTab) (op : Nat) :
    modTab p a g (begun s e op) = hosted (begun s e op).rings (begun s e op).out (modTab p a g s) := by
  rw [modTab, readTab_begun]
  exact writeRange_begun p a _ s e op

/-- A RECOMPUTE marks its sequence and joins the queue of its partition's taken engine. -/
theorem recompute_joins {w : Running} {p a : Nat} (hctx : w.ctx = (newCmd s e 0x28).ctx) (h : engineTaken s p (newCmd s e 0x28).ctx = true) {t : State}
    (ht : t = enqueueWork p w (modTab p a (fun h => { h with recomputing := true }) (begun s e 0x28))) :
    t = { s with rings := t.rings, out := { s.out with hostMem := t.out.hostMem }, ptns := t.ptns, mem := t.mem } ∧ Started s t e (newCmd s e 0x28) ∧
      OtherPtns p s t ∧ (getPtn t p).fe.queue = (getPtn s p).fe.queue ++ [w] ∧ t.mem = (modTab p a (fun h => { h with recomputing := true }) s).mem := by
  have hmem : (modTab p a (fun h => { h with recomputing := true }) (begun s e 0x28)).mem = (modTab p a (fun h => { h with recomputing := true }) s).mem := by
    rw [modTab_begun]; rfl
  have hmarked := rangeWritten_modTab p a (fun h => { h with recomputing := true }) (begun s e 0x28)
  generalize modTab p a (fun h => { h with recomputing := true }) (begun s e 0x28) = u at ht hmem hmarked
  have hfe : (getPtn u p).fe = (getPtn s p).fe := by rw [hmarked.own, getPtn_begun]
  have hgetCtx (c : Nat) : getCtx u c = getCtx s c := by rw [hmarked.frame]; exact getCtx_begun s e 0x28 c
  have htaken : engineTaken u p w.ctx = true := by rw [engineTaken_of_fe hfe hgetCtx, hctx]; exact h
  rw [enqueueWork_taken htaken] at ht
  have hjoin := engineIs_modFe p (fun f => { f with queue := f.queue ++ [w] }) u
  rw [← ht] at hjoin
  refine ⟨?_, started_of_rings (started_begun s e 0x28) ?_ ?_, fun q hq => ?_, ?_, ?_⟩
  · rw [hjoin.only.frame, hmarked.frame, begun_frame]
  · rw [hjoin.rings, hmarked.frame]
  · rw [hjoin.only.frame, hmarked.frame]
  · rw [hjoin.only.others q hq, hmarked.others q hq, getPtn_begun]
  · rw [hjoin.fe, hfe]
  · rw [hjoin.only.frame]; exact hmem

end

end Sys2Proof.Proofs
end

section
/-! PROOFS. A BATCH_RUN on a free engine begins its batch's step (08 R250; 09 R264). -/
namespace Sys2Proof.Proofs
open Sys2Proof Sys2Proof.Machine Sys2Proof.Safety

theorem oneEntry_begun {s : State} {e : Entry} {op : Nat} (h : Runs s e op) :
    OneEntry e.ring.val (getRing s e.ring.val).head op (opf e.ops 2 0 16) (begun s e op) := fun k hk hring hidx => by
  rw [started_unique h hk hring hidx]; exact ⟨rfl, rfl⟩

/-- A batch step begins: the rows move, and the step stands at its first pass. -/
theorem startStep_begins (p b : Nat) (s : State) :
    OtherPtns p s (startStep p b s) ∧ CmdsKept s (startStep p b s) ∧
      (getBatch (startStep p b s) p b).step = some { passNo := if (getBatch s p b).desc.maxDraft = 0 then 0 else 1 } := by
  have hmoved : RowsMoved p b (descsOf s p b) s (eachSignals (deadlines p b s.time) s) :=
    (RowsMoved.refl p b s).deadlines.recordsMoved (.eachSignals _ s)
  simp only [startStep]
  generalize eachSignals (deadlines p b s.time) s = u at hmoved ⊢
  have hpartner := hmoved.modPtn (g := fun x => { x with partner := tmap {} (fun w => { w with seg := 0 }) x.partner })
  generalize modPtn p _ u = v at hpartner ⊢
  refine ⟨fun q hq => ?_, hpartner.cmds.trans (cmdsKept_of_rings rfl), ?_⟩
  · rw [modBatch, getPtn_modPtn_ne _ _ hq, hpartner.stays.others q hq]
  · rw [getBatch_modBatch_self, hpartner.stays.batch]

section
variable {s : State} {p : Nat} {r : Running} {k : Cmd}

/-- A BATCH_RUN that the engine serves begins, with a step if its batch has none in progress. -/
theorem beginWork_batchRun (hcmd : getCmd s r.ring r.idx = some k) (hop : r.opcode = 0x21) (hopen : (getBatch s p r.batch).open_ = true)
    (hctx : (getBatch s p r.batch).ctx = r.ctx) (hstep : (getBatch s p r.batch).step = none) :
    beginWork p r s = (beginTurn p r (startStep p r.batch s), false) := by
  simp only [beginWork, hcmd, hop, hopen, hctx, hstep, beq_self_eq_true, Bool.and_self, if_true, Option.isSome_none, Bool.false_eq_true, if_false]

end

theorem sameEntry_phase (ph : Phase) : SameEntry fun k => { k with phase := ph } :=
  ⟨fun _ => rfl, fun _ => rfl, fun _ => rfl, fun _ => rfl, fun _ => rfl⟩

/-- A BATCH_RUN on a free engine: the command runs, and its batch's step has begun. -/
theorem batchRun_begins {s : State} {e : Entry} {w : Running} {p : Nat} (h : Runs s e 0x21) (hring : w.ring = (newCmd s e 0x21).ring)
    (hidx : w.idx = (newCmd s e 0x21).idx) (hctx : w.ctx = (newCmd s e 0x21).ctx) (hop : w.opcode = 0x21) (hfree : EngineFree s p)
    (hopen : (getBatch s p w.batch).open_ = true) (hmine : (getBatch s p w.batch).ctx = w.ctx) (hstep : (getBatch s p w.batch).step = none) {t : State}
    (ht : t = enqueueWork p w (begun s e 0x21)) :
    OtherPtns p s t ∧ (getPtn t p).fe.mode = .run ∧ (getPtn t p).fe.run = some w ∧
      getCmd t (newCmd s e 0x21).ring (newCmd s e 0x21).idx = some { newCmd s e 0x21 with phase := .running } ∧
      (getBatch t p w.batch).step = some { passNo := if (getBatch s p w.batch).desc.maxDraft = 0 then 0 else 1 } := by
  have hen : (getCtx (begun s e 0x21) w.ctx).st = .enabled := by rw [getCtx_begun, hctx]; exact ctx_enabled h
  obtain ⟨u, l, htaken, hserved⟩ := enqueueWork_free (r := w) (engineFree_begun (e := e) (op := 0x21) hfree) hen
  have hbatch : getBatch u p w.batch = getBatch s p w.batch := by
    rw [getBatch, htaken.own]; exact getBatch_begun p w.batch
  have hone : OneEntry e.ring.val (getRing s e.ring.val).head 0x21 (opf e.ops 2 0 16) u := (oneEntry_begun h).of_rings htaken.rings
  have hcmd : getCmd u (newCmd s e 0x21).ring (newCmd s e 0x21).idx = some (newCmd s e 0x21) := by
    rw [getCmd_of_rings htaken.rings]
    exact getCmd_of_started h (started_begun s e 0x21) rfl rfl
  have hbegin := beginWork_batchRun (p := p) (by rw [hring, hidx]; exact hcmd) hop (by rw [hbatch]; exact hopen) (by rw [hbatch]; exact hmine) (by rw [hbatch]; exact hstep)
  replace ht : t = beginTurn p w (startStep p w.batch u) := by rw [ht, hserved (by rw [hbegin]), hbegin]
  obtain ⟨hothers, hcmds, hfirst⟩ := startStep_begins p w.batch u
  have hkept : getCmd (startStep p w.batch u) (newCmd s e 0x21).ring (newCmd s e 0x21).idx = some (newCmd s e 0x21) :=
    (hcmds _ _ _ _ ⟨by decide, by decide, by decide⟩ hone).2.trans hcmd
  have hturn := beginTurn_begun p w (startStep p w.batch u)
  rw [← ht] at hturn
  generalize startStep p w.batch u = v at hothers hfirst hkept hturn
  refine ⟨fun q hq => ?_, ?_, ?_, ?_, ?_⟩
  · rw [hturn.others q hq, hothers q hq, htaken.only.others q hq, getPtn_begun]
  · rw [hturn.own]; rfl
  · rw [hturn.own]; rfl
  · rw [getCmd_of_rings hturn.rings, hring, hidx, getCmd_modCmd (sameEntry_phase .running), if_pos ⟨rfl, rfl⟩, hkept]
    rfl
  · rw [getBatch, hturn.own, ← hbatch]; exact hfirst

end Sys2Proof.Proofs
end

section
/-! PROOFS. Slices, stops at bow positions, saves and restores of the figure engine (08 R251-R257; 02 R69). -/
namespace Sys2Proof.Proofs
open Sys2Proof Sys2Proof.Machine Sys2Proof.Safety

/-! ### Save areas and bow positions (08 R253, R256) -/

section
variable {s t : State} {p c : Nat}

/-- What the choice of a save area reads. -/
theorem saveArea_congr (hfigure : (getPtn t p).figure = (getPtn s p).figure) (hmem : (getPtn t p).mem = (getPtn s p).mem)
    (hqtrs : (getPtn t p).qtrs = (getPtn s p).qtrs) (hsaved : (getPtn t p).fe.saved = (getPtn s p).fe.saved) (hctx : (getCtx t c).cur = (getCtx s c).cur) :
    saveArea t p c = saveArea s p c := by
  simp only [saveArea, savePages, qtrsOf, getObj, hfigure, hmem, hqtrs, hsaved, hctx]
  rfl

theorem hasBows_congr (hfigure : (getPtn t p).figure = (getPtn s p).figure) : hasBows t p = hasBows s p := by
  simp only [hasBows, hfigure]

theorem EngineIs.saveArea_eq {f : Fe} (h : EngineIs p f s t) (hsaved : f.saved = (getPtn s p).fe.saved) : saveArea t p c = saveArea s p c :=
  saveArea_congr (by rw [h.own]) (by rw [h.own]) (by rw [h.own]) (by rw [h.own]; exact hsaved) (by rw [h.getCtx_eq])

theorem EngineIs.hasBows_eq {f : Fe} (h : EngineIs p f s t) : hasBows t p = hasBows s p := hasBows_congr (by rw [h.own])

/-- A running command that can be saved is asked to stop at its next bow position. -/
theorem requestStop_savable {r : Running} {park : Bool} (hmode : (getPtn s p).fe.mode = .run) (hrun : (getPtn s p).fe.run = some r) (hsave : (getPtn s p).fe.noSave = false)
    (harea : hasBows s p = false ∨ (saveArea s p r.ctx).isSome = true) : requestStop p park s = modFe p (fun f => { f with mode := .stopping park }) s := by
  have hcan : ¬ (hasBows s p && (saveArea s p r.ctx).isNone) = true := by
    rcases harea with harea | harea
    · rw [harea, Bool.false_and]; decide
    · rw [Option.isNone_eq_false_iff.2 harea, Bool.and_false]; decide
  simp only [requestStop, hmode, hrun, hsave, hcan, Bool.false_eq_true, if_false]

/-- A running command without a usable save area runs on, and SAVE_UNUSABLE is set. -/
theorem requestStop_unusable {r : Running} {park : Bool} (hmode : (getPtn s p).fe.mode = .run) (hrun : (getPtn s p).fe.run = some r) (hsave : (getPtn s p).fe.noSave = false)
    (hbows : hasBows s p = true) (harea : saveArea s p r.ctx = none) :
    requestStop p park s = modCtx r.ctx (fun x => { x with saveUnus := true }) (modFe p (fun f => { f with noSave := true }) s) := by
  simp only [requestStop, hmode, hrun, hsave, hbows, harea, Option.isNone_none, Bool.and_self, Bool.false_eq_true, if_false, if_true]

/-! ### The end of a slice (08 R251, R252) -/

/-- Another context that is ready has the running command's priority or a higher one. -/
def rivalReady (s : State) (p : Nat) (r : Running) : Bool := (readyCtxs s p).any fun c => c != r.ctx && decide ((getCtx s r.ctx).cur.prio ≤ (getCtx s c).cur.prio)

/-- The engine whose slice has ended. -/
def slicedFe (time : Nat) (f : Fe) : Fe := { f with turn := none, sliceEnd := some (f.sliceEnd.getD time) }

section
variable {r : Running}

theorem sliceEnds_alone (hmode : (getPtn s p).fe.mode = .run) (hrun : (getPtn s p).fe.run = some r) (h : rivalReady s p r = false) :
    sliceEnds p s = modCtx r.ctx (fun x => { x with debt := x.debt - sliceCycles s r.ctx }) s := by
  unfold rivalReady at h
  simp only [sliceEnds, hmode, hrun, h, Bool.false_eq_true, if_false]

theorem sliceEnds_rival (hmode : (getPtn s p).fe.mode = .run) (hrun : (getPtn s p).fe.run = some r) (h : rivalReady s p r = true) :
    sliceEnds p s = requestStop p false (modFe p (slicedFe s.time) s) := by
  unfold rivalReady at h
  simp only [sliceEnds, hmode, hrun, h, if_true]
  rfl

end

theorem sliceEnds_idle (h : (getPtn s p).fe.run = none) : sliceEnds p s = modFe p (fun f => { f with turn := none }) s := by
  simp only [sliceEnds, h]
  cases (getPtn s p).fe.mode <;> rfl

end

theorem exec_sliceEnd {s : State} (p : PtnId) (h : isReady s = true) : exec (.sliceEnd p) s = .next (sliceEnds p.val s) := congrArg Host.Outcome.next (if_pos h)

section
variable {s : State} {p : Nat} {r : Running}

theorem sliceEnds_newSlice (hmode : (getPtn s p).fe.mode = .run) (hrun : (getPtn s p).fe.run = some r) (h : rivalReady s p r = false) {t : State} (ht : t = sliceEnds p s) :
    t = { s with ctxs := t.ctxs } ∧ OtherCtxs r.ctx s t ∧ getCtx t r.ctx = { getCtx s r.ctx with debt := (getCtx s r.ctx).debt - sliceCycles s r.ctx } := by
  rw [ht, sliceEnds_alone hmode hrun h]
  exact ⟨rfl, fun d hd => getCtx_modCtx_ne _ _ hd, getCtx_modCtx_self ..⟩

theorem sliceEnds_stops (hmode : (getPtn s p).fe.mode = .run) (hrun : (getPtn s p).fe.run = some r) (h : rivalReady s p r = true) (hsave : (getPtn s p).fe.noSave = false)
    (harea : hasBows s p = false ∨ (saveArea s p r.ctx).isSome = true) {t : State} (ht : t = sliceEnds p s) :
    t = { s with ptns := t.ptns } ∧ OtherPtns p s t ∧
      getPtn t p = { getPtn s p with fe := { slicedFe s.time (getPtn s p).fe with mode := .stopping false } } := by
  have hslice := engineIs_modFe p (slicedFe s.time) s
  rw [sliceEnds_rival hmode hrun h, requestStop_savable (r := r) (by rw [hslice.fe]; exact hmode) (by rw [hslice.fe]; exact hrun) (by rw [hslice.fe]; exact hsave)
    (by rw [hslice.hasBows_eq, hslice.saveArea_eq rfl]; exact harea)] at ht
  have hstop := hslice.modFe fun f => { f with mode := .stopping false }
  rw [← ht] at hstop
  exact ⟨hstop.only.frame, hstop.only.others, hstop.own⟩

theorem sliceEnds_runsOn (hmode : (getPtn s p).fe.mode = .run) (hrun : (getPtn s p).fe.run = some r) (h : rivalReady s p r = true) (hsave : (getPtn s p).fe.noSave = false)
    (hbows : hasBows s p = true) (harea : saveArea s p r.ctx = none) {t : State} (ht : t = sliceEnds p s) :
    t = { s with ptns := t.ptns, ctxs := t.ctxs } ∧ OtherPtns p s t ∧ OtherCtxs r.ctx s t ∧ getCtx t r.ctx = { getCtx s r.ctx with saveUnus := true } ∧
      getPtn t p = { getPtn s p with fe := { slicedFe s.time (getPtn s p).fe with noSave := true } } := by
  have hslice := engineIs_modFe p (slicedFe s.time) s
  rw [sliceEnds_rival hmode hrun h, requestStop_unusable (r := r) (by rw [hslice.fe]; exact hmode) (by rw [hslice.fe]; exact hrun) (by rw [hslice.fe]; exact hsave)
    (by rw [hslice.hasBows_eq]; exact hbows) (by rw [hslice.saveArea_eq rfl]; exact harea)] at ht
  have hkeeps := hslice.modFe fun f => { f with noSave := true }
  generalize modFe p (fun f => { f with noSave := true }) (modFe p (slicedFe s.time) s) = u at ht hkeeps
  rw [ht]
  refine ⟨?_, fun q hq => ?_, fun d hd => ?_, ?_, ?_⟩
  · rw [hkeeps.only.frame]; rfl
  · rw [getPtn_modCtx]; exact hkeeps.only.others q hq
  · rw [getCtx_modCtx_ne _ _ hd, hkeeps.getCtx_eq]
  · rw [getCtx_modCtx_self, hkeeps.getCtx_eq]
  · rw [getPtn_modCtx]; exact hkeeps.own

end

/-! ### The stop at a bow position (08 R253-R255) -/

theorem exec_preemptStop {s : State} (p : PtnId) (rep : Option Nat) (hready : isReady s = true) (hruns : ptnRuns (getPtn s p.val) = true) (hc1 : c1Runs s p.val = true) :
    exec (.preemptStop p rep) s = .next (preempt p.val rep s) := by
  refine congrArg Host.Outcome.next (if_pos ?_)
  simp [hready, hruns, hc1]

section
variable {s : State} {p i : Nat} {rep : Option Nat} {e : Rt} {park : Bool} {x : BowPoint}

/-- Cores that have reached the next bow position, with every attention pipe idle, make the stop complete. -/
theorem preempt_stops (he : rtOf s p = some e) (hmode : (getPtn s p).fe.mode = .stopping park) (hbow : nextBow e.f s p = some (i, x))
    (hall : allAt e.f (runSteps e (some x.position) none (roundFuel e.f) s) p x.position = true)
    (hidle : pipesIdle (runSteps e (some x.position) none (roundFuel e.f) s) p = true) :
    preempt p rep s = bowStop p e.f e.run i x park rep (runSteps e (some x.position) none (roundFuel e.f) s) := by
  simp only [preempt, he, hmode, hbow, hall, hidle, Bool.and_self, if_true]

theorem bowStop_leftover {f : Figure} {r : Running} {c : Nat} (h : (rep <|> leftoverCore f s p x) = some c) :
    bowStop p f r i x park rep s = raise (((faultRec s 0x0205 r.idx c).withCtx s r.ctx).withRing r.ring) s := by
  simp only [bowStop, h]

/-- BOW_STATE at the action LOG is logged and signalled (11 R329). -/
theorem bowState_signalled {r : Running} {c : Nat} (hlog : policyOf s 0x0205 = 0) (hfree : MirrorFree s) (hp : ptnOfCtx s r.ctx < 32) :
    Signalled [srcPtn (ptnOfCtx s r.ctx) 1] (logged (((faultRec s 0x0205 r.idx c).withCtx s r.ctx).withRing r.ring) s)
      (raise (((faultRec s 0x0205 r.idx c).withCtx s r.ctx).withRing r.ring) s) := by
  have hrecord : raise (((faultRec s 0x0205 r.idx c).withCtx s r.ctx).withRing r.ring) s = recordFault (((faultRec s 0x0205 r.idx c).withCtx s r.ctx).withRing r.ring) s := by
    have haction : (((faultRec s 0x0205 r.idx c).withCtx s r.ctx).withRing r.ring).action = 0 := hlog
    rw [raise_eq_raisePlain hfree]
    simp only [raisePlain, takeAction, haction]
  rw [hrecord]
  exact recordFault_signalled (((faultRec s 0x0205 r.idx c).withCtx s r.ctx).withRing r.ring) s fun q hq => by cases hq; exact hp

/-- At a bow position without leftovers the engine saves, or runs on where it cannot. -/
theorem bowStop_saves {f : Figure} {r : Running} (h : (rep <|> leftoverCore f s p x) = none) (hop : r.opcode ≠ 0x21) {t : State} (ht : t = bowStop p f r i x park rep s) :
    if (saveArea s p r.ctx).isSome then (getPtn t p).fe.mode = .saving i park
    else (getPtn t p).fe.mode = .run ∧ (getPtn t p).fe.noSave = true ∧ (getCtx t r.ctx).saveUnus = true := by
  simp only [bowStop, h, hop, false_and, if_false] at ht
  split
  · next harea =>
    rw [ht, if_pos harea, modFe_eq, getPtn_modPtn_self]
  · next harea =>
    rw [ht, if_neg harea, getPtn_modCtx, modFe_eq, getPtn_modPtn_self, getCtx_modCtx_self]
    exact ⟨rfl, rfl, rfl⟩

end

/-! ### The save (08 R255, R256) -/

/-- Work that is over leaves an engine that does not park: beside its partition nothing changes, and its saved work stays. -/
theorem leaveEngine_only {s : State} {p : Nat} (h : (getPtn s p).pwr.parkWant = false) :
    OnlyPtn p s (leaveEngine p s) ∧ (getPtn (leaveEngine p s) p).fe.run = none ∧ (getPtn (leaveEngine p s) p).fe.saved = (getPtn s p).fe.saved := by
  have hfreed := engineIs_modFe p (fun f => { f with run := none, resume := none, sliceEnd := none, noSave := false, mode := .idle }) s
  have hwant : (getPtn (modFe p (fun f => { f with run := none, resume := none, sliceEnd := none, noSave := false, mode := .idle }) s) p).pwr.parkWant = false := by
    rw [hfreed.own]; exact h
  simp only [leaveEngine, hwant, Bool.false_eq_true, if_false]
  split
  · have hgap := hfreed.modFe fun f => { f with mode := .gap }
    exact ⟨hgap.only, by rw [hgap.fe], by rw [hgap.fe]⟩
  · exact ⟨hfreed.only, by rw [hfreed.fe], by rw [hfreed.fe]⟩

/-- What is kept of a command that stops at bow point `i`. -/
def savedAt (s : State) (p i : Nat) (r : Running) (f : Figure) : Saved :=
  { run := r, epoch := (getPtn s p).fig.epoch, point := i, area := some (getCtx s r.ctx).cur.saveObj,
    cores := (figCores f).map fun c => coreSave c (getCore s p c) (bowRangesOf f (f.bowPoints.getD i ⟨0, 0, 0⟩)),
    moved := (getPtn s p).flow.moved, barrier := (getPtn s p).barrier }

theorem savedAt_cores (s : State) (p i : Nat) (r : Running) (f : Figure) : (savedAt s p i r f).cores.map (fun c => c.core) = figCores f := by
  rw [savedAt, List.map_map]
  exact List.map_id _

theorem exec_saveDone {s : State} (p : PtnId) (h : isReady s = true) : exec (.saveDone p) s = .next (saveEnd p.val s) := congrArg Host.Outcome.next (if_pos h)

section
variable {s : State} {p i : Nat} {park : Bool} {r : Running} {f : Figure}

theorem rangeWritten_saveQuarter (p base q m : Nat) (ls : List (List Byte × Bool)) (s : State) : RangeWritten p s (saveQuarter p base q m ls s) :=
  RangeWritten.foldl (fun _ _ => rangeWritten_writeRange ..) _ s

/-- The save writes the area, keeps the command, and leaves the engine. -/
theorem saveEnd_saves (hmode : (getPtn s p).fe.mode = .saving i park) (hrun : (getPtn s p).fe.run = some r) (hfigure : (getPtn s p).figure = some f)
    (harea : inTransit s p (getObj s p (getCtx s r.ctx).cur.saveObj).base ((getObj s p (getCtx s r.ctx).cur.saveObj).pages * pageBytes) = false) :
    ∃ u, RangeWritten p s u ∧ saveEnd p s = leaveEngine p (modCtx r.ctx (fun c => { c with preempts := satAdd 32 c.preempts 1 })
      (modCmd r.ring r.idx (fun k => { k with phase := .saved }) (modFe p (fun g => { g with saved := g.saved ++ [savedAt s p i r f] }) (clearStreams p u)))) := by
  simp only [saveEnd, hmode, hrun, hfigure, harea, Bool.false_eq_true, if_false]
  exact ⟨_, RangeWritten.foldl (fun _ _ => rangeWritten_saveQuarter ..) _ s, rfl⟩

/-- A save that ends frees the engine and keeps the command. -/
theorem saveEnd_frees {k : Cmd} (hmode : (getPtn s p).fe.mode = .saving i park) (hrun : (getPtn s p).fe.run = some r) (hfigure : (getPtn s p).figure = some f)
    (hcmd : getCmd s r.ring r.idx = some k) (hwant : (getPtn s p).pwr.parkWant = false)
    (harea : inTransit s p (getObj s p (getCtx s r.ctx).cur.saveObj).base ((getObj s p (getCtx s r.ctx).cur.saveObj).pages * pageBytes) = false)
    {t : State} (ht : t = saveEnd p s) :
    (getPtn t p).fe.run = none ∧ (getPtn t p).fe.saved = (getPtn s p).fe.saved ++ [savedAt s p i r f] ∧ getCmd t r.ring r.idx = some { k with phase := .saved } ∧
      (getCtx t r.ctx).preempts = satAdd 32 (getCtx s r.ctx).preempts 1 ∧ OtherPtns p s t := by
  obtain ⟨u, hwritten, hend⟩ := saveEnd_saves hmode hrun hfigure harea
  rw [hend] at ht
  obtain ⟨hcleared, hclearedOwn⟩ : OnlyPtn p u (clearStreams p u) ∧ getPtn (clearStreams p u) p =
      { getPtn u p with cores := tmap {} (fun e : Core => { restCore e with bufs := [] }) (getPtn u p).cores, barrier := 0, flow := {} } :=
    ⟨onlyPtn_modPtn p _ u, getPtn_modPtn_self ..⟩
  generalize clearStreams p u = v at ht hcleared hclearedOwn
  have hkept := engineIs_modFe p (fun g => { g with saved := g.saved ++ [savedAt s p i r f] }) v
  generalize modFe p (fun g => { g with saved := g.saved ++ [savedAt s p i r f] }) v = w at ht hkept
  have hfe : (getPtn w p).fe = { (getPtn s p).fe with saved := (getPtn s p).fe.saved ++ [savedAt s p i r f] } := by
    rw [hkept.fe, hclearedOwn, hwritten.own]
  have hpwr : (getPtn w p).pwr = (getPtn s p).pwr := by rw [hkept.own, hclearedOwn, hwritten.own]
  have hothers : OtherPtns p s w := fun q hq => by rw [hkept.only.others q hq, hcleared.others q hq, hwritten.others q hq]
  have hrings : w.rings = s.rings := by rw [hkept.rings, hcleared.frame, hwritten.frame]
  have hctx : getCtx w r.ctx = getCtx s r.ctx := by rw [hkept.getCtx_eq, hcleared.frame, hwritten.frame]; rfl
  have hptn (q : Nat) : getPtn (modCtx r.ctx (fun c => { c with preempts := satAdd 32 c.preempts 1 })
      (modCmd r.ring r.idx (fun k => { k with phase := .saved }) w)) q = getPtn w q := by rw [getPtn_modCtx, modCmd, getPtn_modRing]
  obtain ⟨hleft, hnone, hsaved⟩ := leaveEngine_only (p := p)
    (s := modCtx r.ctx (fun c => { c with preempts := satAdd 32 c.preempts 1 }) (modCmd r.ring r.idx (fun k => { k with phase := .saved }) w))
    (by rw [hptn, hpwr]; exact hwant)
  rw [← ht] at hleft hnone hsaved
  refine ⟨hnone, ?_, ?_, ?_, fun q hq => ?_⟩
  · rw [hsaved, hptn, hfe]
  · have hring : t.rings = (modCmd r.ring r.idx (fun k => { k with phase := .saved }) w).rings := by rw [hleft.frame]; rfl
    rw [getCmd_of_rings hring, getCmd_modCmd (sameEntry_phase .saved), if_pos ⟨rfl, rfl⟩, getCmd_of_rings hrings, hcmd]; rfl
  · have hnow : getCtx t r.ctx = getCtx (modCtx r.ctx (fun c => { c with preempts := satAdd 32 c.preempts 1 }) (modCmd r.ring r.idx (fun k => { k with phase := .saved }) w)) r.ctx := by
      rw [hleft.frame]; rfl
    rw [hnow, getCtx_modCtx_self, modCmd, getCtx_modRing, hctx]
  · rw [hleft.others q hq, hptn, hothers q hq]

end

end Sys2Proof.Proofs
end

section
/-! PROOFS. The end of a switch gap and of a restore (08 R251, R255; 02 R69). -/
namespace Sys2Proof.Proofs
open Sys2Proof Sys2Proof.Machine Sys2Proof.Safety

/-! ### The switch gap (08 R251) -/

theorem exec_switchGapEnd {s : State} (p : PtnId) (h : isReady s = true) (hmode : (getPtn s p.val).fe.mode = .gap) : exec (.switchGapEnd p) s = .next (serve p.val s) := by
  show execSwitchGapEnd p s = _
  simp only [execSwitchGapEnd, h, hmode, if_true]

/-- The gap's end begins the only waiting FIG_RUN. -/
theorem serve_figRun {s : State} {p : Nat} {r : Running} {k : Cmd} (hqueue : (getPtn s p).fe.queue = [r]) (hsaved : (getPtn s p).fe.saved = [])
    (hserve : canServe s p = true) (hen : (getCtx s r.ctx).st = .enabled) (hcmd : getCmd s r.ring r.idx = some k) (hop : r.opcode = 0x16) {t : State} (ht : t = serve p s) :
    (getPtn t p).fe.mode = .run ∧ (getPtn t p).fe.run = some r ∧ (getPtn t p).fe.queue = [] ∧ getCmd t r.ring r.idx = some { k with phase := .running } ∧ OtherPtns p s t := by
  obtain ⟨u, l, htaken, hserved⟩ := serve_only hqueue hsaved hserve hen
  have hcmd' : getCmd u r.ring r.idx = some k := (getCmd_of_rings htaken.rings ..).trans hcmd
  have hbegin := beginWork_figRun (p := p) hcmd' hop
  replace ht : t = beginTurn p r u := by rw [ht, hserved (by rw [hbegin]), hbegin]
  have hturn := beginTurn_begun p r u
  rw [← ht] at hturn
  refine ⟨by rw [hturn.own]; rfl, by rw [hturn.own]; rfl, ?_, ?_, fun q hq => ?_⟩
  · rw [hturn.own, htaken.own]; rfl
  · rw [getCmd_of_rings hturn.rings, getCmd_modCmd (sameEntry_phase .running), if_pos ⟨rfl, rfl⟩, hcmd']; rfl
  · rw [hturn.others q hq, htaken.only.others q hq]

/-! ### The restore (08 R255, R257) -/

/-- Only cores of the partition that the list names changed. -/
structure CoresBack (p : Nat) (cs : List Nat) (s t : State) : Prop where
  only  : OnlyPtn p s t
  own   : getPtn t p = { getPtn s p with cores := (getPtn t p).cores }
  cores : ∀ n, n ∉ cs → getCore t p n = getCore s p n

section
variable {p : Nat} {cs : List Nat} {s t u : State}

theorem CoresBack.refl (p : Nat) (cs : List Nat) (s : State) : CoresBack p cs s s := ⟨⟨rfl, fun _ _ => rfl⟩, rfl, fun _ _ => rfl⟩

theorem CoresBack.trans (h : CoresBack p cs s t) (k : CoresBack p cs t u) : CoresBack p cs s u :=
  ⟨h.only.trans k.only, by rw [k.own, h.own], fun n hn => (k.cores n hn).trans (h.cores n hn)⟩

theorem coresBack_modCore {c : Nat} (hc : c ∈ cs) (g : Core → Core) (s : State) : CoresBack p cs s (modCore p c g s) := by
  refine ⟨onlyPtn_modPtn p _ s, by rw [modCore, getPtn_modPtn_self], fun n hn => ?_⟩
  have hne : n ≠ c := fun h => hn (h ▸ hc)
  rw [getCore, modCore, getPtn_modPtn_self]
  exact tget_tmod_ne {} g _ hne

/-- One quarter's ranges come back to cores that the save names. -/
theorem coresBack_quarterBack (p base q m : Nat) (cores : List CoreSave) (gs : List BowRange) (s : State) :
    CoresBack p (cores.map fun c => c.core) s (quarterBack p base q m cores gs s) := by
  refine List.foldlRecOn (motive := fun acc : Nat × State => CoresBack p (cores.map fun c => c.core) s acc.2) gs _ (b := (1, s)) (.refl _ _ s) fun acc hacc g _ => ?_
  dsimp only
  split
  · exact hacc
  · next v hv =>
    have hcore : g.core ∈ cores.map fun c => c.core := List.mem_map.2 ⟨v, List.mem_of_find?_eq_some hv, by simpa using List.find?_some hv⟩
    exact hacc.trans (coresBack_modCore hcore _ acc.2)

/-- The partition with the barriers and the flits under way of a save. -/
def resumed (v : Saved) (x : Ptn) : Ptn := { x with barrier := v.barrier, flow := { x.flow with moved := v.moved } }

theorem takeBack_coresBack (p : Nat) (v : Saved) (s : State) : CoresBack p (v.cores.map fun c => c.core) (modPtn p (resumed v) s) (takeBack p v s) := by
  have hsteps : CoresBack p (v.cores.map fun c => c.core) (modPtn p (resumed v) s)
      (v.cores.foldl (fun s c => modCore p c.core (fun x => { x with step := c.step }) s) (modPtn p (resumed v) s)) :=
    List.foldlRecOn v.cores _ (.refl _ _ _) fun u hu c hc => hu.trans (coresBack_modCore (List.mem_map.2 ⟨c, hc, rfl⟩) _ u)
  simp only [takeBack]
  rw [show modPtn p (fun x => { x with barrier := v.barrier, flow := { x.flow with moved := v.moved } }) s = modPtn p (resumed v) s from rfl]
  generalize List.foldl (fun s (c : CoreSave) => modCore p c.core (fun x => { x with step := c.step }) s) (modPtn p (resumed v) s) v.cores = u at hsteps ⊢
  split
  · exact List.foldlRecOn _ _ hsteps fun w hw m _ => hw.trans (coresBack_quarterBack ..)
  · exact hsteps

end

theorem exec_restoreDone {s : State} (p : PtnId) (h : isReady s = true) : exec (.restoreDone p) s = .next (restoreEnd p.val s) := congrArg Host.Outcome.next (if_pos h)

/-- A drain, or a ready context of higher priority, stops the command that has come back. -/
def runsBack (p : Nat) (s : State) : State := if (getPtn s p).fig.st = .draining then requestStop p false s else kick p s

section
variable {s : State} {p : Nat} {v : Saved}

theorem restoreEnd_restores (hmode : (getPtn s p).fe.mode = .restoring) (hresume : (getPtn s p).fe.resume = some v) :
    restoreEnd p s = runsBack p (beginTurn p v.run (modFe p (fun f => { f with resume := none }) (takeBack p v s))) := by
  simp only [restoreEnd, hmode, hresume]
  rfl

/-- The command that comes back runs on, or stops again. -/
theorem runsBack_stopping {r : Running} (hmode : (getPtn s p).fe.mode = .run) (hrun : (getPtn s p).fe.run = some r) : Stopping p s (runsBack p s) := by
  unfold runsBack
  split
  · exact requestStop_stopping p false s
  · simp only [kick, hmode, hrun]
    split
    · exact requestStop_stopping p false s
    · exact .refl p s

theorem runsBack_runs {r : Running} (hmode : (getPtn s p).fe.mode = .run) (hrun : (getPtn s p).fe.run = some r) (hst : (getPtn s p).fig.st ≠ .draining)
    (hprio : topPrio s (readyCtxs s p) ≤ (getCtx s r.ctx).cur.prio) : runsBack p s = s := by
  rw [runsBack, if_neg hst]
  simp only [kick, hmode, hrun, Nat.not_lt.2 hprio, if_false]

end

/-- The state before a restored command runs: its cores are back, and its turn has begun. -/
structure CameBack (p : Nat) (v : Saved) (s t : State) : Prop where
  others : OtherPtns p s t
  own    : getPtn t p = { getPtn s p with fe := runningFe v.run { (getPtn s p).fe with resume := none }, cores := (getPtn (takeBack p v s) p).cores, barrier := v.barrier,
                                          flow := { (getPtn s p).flow with moved := v.moved } }
  cores  : ∀ n, n ∉ v.cores.map (fun c => c.core) → getCore t p n = getCore s p n
  ctxs   : ∀ c, getCtx t c = { getCtx s c with debt := (getCtx t c).debt }

theorem beginTurn_cameBack (p : Nat) (v : Saved) (s : State) : CameBack p v s (beginTurn p v.run (modFe p (fun f => { f with resume := none }) (takeBack p v s))) := by
  have hback := takeBack_coresBack p v s
  have htaken := engineIs_modFe p (fun f => { f with resume := none }) (takeBack p v s)
  have hturn := beginTurn_begun p v.run (modFe p (fun f => { f with resume := none }) (takeBack p v s))
  generalize modFe p (fun f => { f with resume := none }) (takeBack p v s) = u at htaken hturn
  generalize beginTurn p v.run u = t at hturn ⊢
  generalize hw : takeBack p v s = w at hback htaken
  have hown : getPtn t p = { getPtn s p with fe := runningFe v.run { (getPtn s p).fe with resume := none }, cores := (getPtn w p).cores, barrier := v.barrier,
                                             flow := { (getPtn s p).flow with moved := v.moved } } := by
    rw [hturn.own, htaken.own, hback.own, getPtn_modPtn_self]; rfl
  have hctx (c : Nat) : getCtx u c = getCtx s c := by rw [htaken.getCtx_eq, hback.only.frame]; rfl
  refine ⟨fun q hq => ?_, by rw [hw]; exact hown, fun n hn => ?_, fun c => ?_⟩
  · rw [hturn.others q hq, htaken.only.others q hq, hback.only.others q hq, getPtn_modPtn_ne _ _ hq]
  · have hcore : getCore t p n = getCore w p n := by rw [getCore, hown]; rfl
    rw [hcore, hback.cores n hn, getCore, getPtn_modPtn_self]; rfl
  · by_cases hc : c = v.run.ctx
    · rw [hc, hturn.ctx, hctx]
    · rw [hturn.ctxs c hc, hctx]

/-- A restore that ends: the command runs with its cores back, and stops again for a drain or for a context of higher priority. -/
theorem restoreEnd_runs {s : State} {p : Nat} {v : Saved} (hmode : (getPtn s p).fe.mode = .restoring) (hresume : (getPtn s p).fe.resume = some v) {t : State}
    (ht : t = restoreEnd p s) :
    (getPtn t p).fe.run = some v.run ∧ (getPtn t p).fe.resume = none ∧ OtherPtns p s t ∧ (getPtn t p).cores = (getPtn (takeBack p v s) p).cores ∧
      (getPtn t p).barrier = v.barrier ∧ (getPtn t p).flow = { (getPtn s p).flow with moved := v.moved } ∧
      (∀ n, n ∉ v.cores.map (fun c => c.core) → getCore t p n = getCore s p n) ∧
      ((getPtn s p).fig.st ≠ .draining → topPrio s (readyCtxs s p) ≤ (getCtx s v.run.ctx).cur.prio → (getPtn t p).fe.mode = .run) ∧
      ((getPtn s p).fig.st = .draining → (hasBows s p = false ∨ (saveArea s p v.run.ctx).isSome = true) → (getPtn t p).fe.mode = .stopping false) := by
  rw [restoreEnd_restores hmode hresume] at ht
  have hcame := beginTurn_cameBack p v s
  generalize beginTurn p v.run (modFe p (fun f => { f with resume := none }) (takeBack p v s)) = u at ht hcame
  have hfe : (getPtn u p).fe = runningFe v.run { (getPtn s p).fe with resume := none } := by rw [hcame.own]
  have hrun : (getPtn u p).fe.mode = .run ∧ (getPtn u p).fe.run = some v.run := by rw [hfe]; exact ⟨rfl, rfl⟩
  have hfig : (getPtn u p).fig = (getPtn s p).fig := by rw [hcame.own]
  have hcur (c : Nat) : (getCtx u c).cur = (getCtx s c).cur ∧ (getCtx u c).st = (getCtx s c).st := by rw [hcame.ctxs]; exact ⟨rfl, rfl⟩
  have hstop := runsBack_stopping hrun.1 hrun.2
  rw [← ht] at hstop
  refine ⟨?run, ?resume, fun q hq => (hstop.others q hq).trans (hcame.others q hq), ?coresBack, ?barrier, ?flow, fun n hn => ?otherCores, fun hst hprio => ?runsOn,
    fun hst harea => ?stops⟩
  case run => rw [hstop.own]; exact hrun.2
  case resume => rw [hstop.own]; show (getPtn u p).fe.resume = none; rw [hfe]; rfl
  case coresBack => rw [hstop.own]; show (getPtn u p).cores = _; rw [hcame.own]
  case barrier => rw [hstop.own]; show (getPtn u p).barrier = _; rw [hcame.own]
  case flow => rw [hstop.own]; show (getPtn u p).flow = _; rw [hcame.own]
  case otherCores =>
    have hsame : getCore t p n = getCore u p n := by rw [getCore, hstop.own]; rfl
    rw [hsame, hcame.cores n hn]
  case runsOn =>
    have hready : readyCtxs u p = readyCtxs s p := by simp only [readyCtxs, hfe, runningFe, (hcur _).2]
    have htop : topPrio u (readyCtxs u p) = topPrio s (readyCtxs s p) := by rw [hready]; simp only [topPrio, (hcur _).1]
    rw [ht, runsBack_runs hrun.1 hrun.2 (by rw [hfig]; exact hst) (by rw [htop, (hcur _).1]; exact hprio)]
    exact hrun.1
  case stops =>
    have hsave : saveArea u p v.run.ctx = saveArea s p v.run.ctx :=
      saveArea_congr (by rw [hcame.own]) (by rw [hcame.own]) (by rw [hcame.own]) (by rw [hfe]; rfl) (hcur _).1
    have hbows : hasBows u p = hasBows s p := hasBows_congr (by rw [hcame.own])
    rw [ht, runsBack, if_pos (by rw [hfig]; exact hst), requestStop_savable hrun.1 hrun.2 (by rw [hfe]; rfl) (by rw [hsave, hbows]; exact harea), modFe_eq, getPtn_modPtn_self]

end Sys2Proof.Proofs
end

section
/-! PROOFS. Figure work is queued, refused, sliced, saved at bow points and restored (08 R250-R257; 06 R197). -/
namespace Sys2Proof.Proofs
open Sys2Proof Sys2Proof.Machine Sys2Proof.Safety

/-- Settles O34: work that joins a taken engine waits behind its queue (`enqueueWork_waits`, `recompute_joins`), work on a free one begins its context's turn
(`enqueueWork_begins`, `batchRun_begins`); a slice's end asks the command to stop or begins a new slice, a stop at a bow position leads to the save
(`bowStop_saves`), whose end frees the engine (`saveEnd_frees`), and the gap's end and the restore begin the next command (`serve_figRun`, `restoreEnd_runs`). -/
theorem figureWorkSlicesAndSaves : Obligations.FigureWorkSlicesAndSaves := by
  unfold Obligations.FigureWorkSlicesAndSaves
  refine ⟨⟨?noTarget, ?badPorts, ?figRun, ?batchRun, ?recompute⟩, ?sliceEnd, ?sliceIdle, ?preemptStop, ?saveDone, ?gapEnd, ?restoreDone⟩
  case noTarget =>
    intro e s h hzero
    rw [exec_figRun h]
    exact ⟨_, rfl, only_ends h 2 0 (figRunGo_noTarget hzero _)⟩
  case badPorts =>
    intro e s h hsome
    rw [exec_figRun h, figRunGo_ports hsome]
    refine ⟨fun st hread => ⟨_, rfl, only_ends h st 0 (withPorts_unread hread)⟩, fun b hread hbad => ⟨_, rfl, only_ends h 2 0 (withPorts_bad hread hbad)⟩⟩
  case figRun =>
    intro e b s h hsome c ps w hread hgood
    rw [exec_figRun h, figRunGo_ports hsome]
    refine ⟨fun htaken => ⟨_, rfl, enqueueWork_waits (w := w) rfl htaken (withPorts_good hread hgood)⟩,
      fun hfree => ⟨_, rfl, enqueueWork_begins (w := w) h rfl rfl rfl rfl hfree (withPorts_good hread hgood)⟩⟩
  case batchRun =>
    intro e s h
    rw [exec_batchRun h]
    refine ⟨fun hbad => ⟨_, rfl, only_ends h _ 0 ?_⟩, fun hsteps hopen hmine htaken => ⟨_, rfl, enqueueWork_waits rfl htaken ?_⟩,
      fun hsteps hopen hmine hfree hstep => ⟨_, rfl, batchRun_begins h rfl rfl rfl rfl hfree hopen hmine hstep ?_⟩⟩
    · have hgo := batchRunGo_refused (c := newCmd s e 0x21) (u := begun s e 0x21) (by rw [getBatch_begun]; exact hbad)
      rwa [getBatch_begun] at hgo
    · have hgo := batchRunGo_mine (c := newCmd s e 0x21) (u := begun s e 0x21) hsteps (by rw [getBatch_begun]; exact hopen) (by rw [getBatch_begun]; exact hmine)
      rwa [getBatch_begun] at hgo
    · have hgo := batchRunGo_mine (c := newCmd s e 0x21) (u := begun s e 0x21) hsteps (by rw [getBatch_begun]; exact hopen) (by rw [getBatch_begun]; exact hmine)
      rwa [getBatch_begun] at hgo
  case recompute =>
    intro e s h
    rw [exec_recompute h]
    refine ⟨fun hnone => ⟨_, rfl, only_ends h 0x0D 0 (recomputeGo_noMap (by rw [loadedMap_begun]; exact hnone))⟩, fun m hmap hmine hok hidle => ?_⟩
    rw [← loadedMap_begun (e := e) (op := 0x28)] at hmap
    rw [← tableMine_begun s e 0x28] at hmine
    rw [← tableOk_begun (e := e) (op := 0x28)] at hok
    rw [← readTab_begun s e 0x28] at hidle
    refine ⟨fun hwhole => ⟨_, rfl, only_ends h 0 0 (recomputeGo_whole hmap hmine hok hidle (by rw [readTab_begun]; exact hwhole))⟩,
      fun b hmissing hread hgood htaken => ⟨_, rfl, ?_⟩⟩
    exact recompute_joins rfl htaken (recomputeGo_joins hmap hmine hok hidle (by rw [readTab_begun]; exact hmissing) hread hgood)
  case sliceEnd =>
    intro p r s hready hmode hrun
    rw [exec_sliceEnd p hready]
    exact ⟨fun h => ⟨_, rfl, sliceEnds_newSlice hmode hrun h rfl⟩, fun h hsave harea => ⟨_, rfl, sliceEnds_stops hmode hrun h hsave harea rfl⟩,
      fun h hsave hbows harea => ⟨_, rfl, sliceEnds_runsOn hmode hrun h hsave hbows harea rfl⟩⟩
  case sliceIdle =>
    intro p s hready hrun
    rw [exec_sliceEnd p hready, sliceEnds_idle hrun]
    have hturn := engineIs_modFe p.val (fun f => { f with turn := none }) s
    exact ⟨_, rfl, hturn.only.frame, hturn.only.others, hturn.own⟩
  case preemptStop =>
    intro p rep e park i x s hready hruns hc1 he hmode hbow s1 hall hidle
    rw [exec_preemptStop p rep hready hruns hc1, preempt_stops he hmode hbow hall hidle]
    refine ⟨fun c hleft hlog hfree hp => ⟨_, rfl, ?_⟩, fun hnone hop => ⟨_, rfl, bowStop_saves hnone hop rfl⟩⟩
    rw [bowStop_leftover hleft]
    exact bowState_signalled hlog hfree hp
  case saveDone =>
    intro p i park r f k s hready hmode hrun hfigure hcmd hwant harea
    rw [exec_saveDone p hready]
    obtain ⟨hnone, hsaved, hphase, hcount, hothers⟩ := saveEnd_frees hmode hrun hfigure hcmd hwant harea rfl
    exact ⟨_, savedAt s p.val i r f, rfl, hnone, hsaved, rfl, rfl, rfl, rfl, savedAt_cores .., hphase, hcount, hothers⟩
  case gapEnd =>
    intro p s hready hmode
    rw [exec_switchGapEnd p hready hmode]
    refine ⟨fun hqueue hsaved => ?_, fun r k hqueue hsaved hserve hen hcmd hop => ⟨_, rfl, serve_figRun hqueue hsaved hserve hen hcmd hop rfl⟩⟩
    obtain ⟨honly, hown⟩ := serve_nil hqueue hsaved
    exact ⟨_, rfl, honly.frame, honly.others, hown⟩
  case restoreDone =>
    intro p v s hready hmode hresume
    rw [exec_restoreDone p hready]
    exact ⟨_, rfl, restoreEnd_runs hmode hresume rfl⟩

end Sys2Proof.Proofs
end

section
/-! PROOFS. BATCH_OPEN and ROW_SET (08 R246; 09 R263, R266-R270). -/
namespace Sys2Proof.Proofs
open Sys2Proof Sys2Proof.Machine Sys2Proof.Safety

/-! ### Writes at distinct places -/

section
variable {σ α β : Type} {get : σ → Nat → β} {put : σ → Nat × α → σ} {f : α → β} (hput : ∀ s e n, get (put s e) n = if n = e.1 then f e.2 else get s n)
include hput

theorem get_foldl_of_not_mem {n : Nat} : ∀ (l : List (Nat × α)) (s : σ), n ∉ l.map Prod.fst → get (l.foldl put s) n = get s n
  | [], _, _ => rfl
  | e :: l, s, h => by
    rw [List.map_cons, List.mem_cons, not_or] at h
    rw [List.foldl_cons, get_foldl_of_not_mem l _ h.2, hput, if_neg h.1]

theorem get_foldl_of_mem {n : Nat} {v : α} : ∀ (l : List (Nat × α)) (s : σ), (l.map Prod.fst).Nodup → (n, v) ∈ l → get (l.foldl put s) n = f v
  | [], _, _, h => absurd h List.not_mem_nil
  | e :: l, s, hnodup, h => by
    rw [List.map_cons, List.nodup_cons] at hnodup
    rw [List.foldl_cons]
    rcases List.mem_cons.1 h with rfl | h
    · rw [get_foldl_of_not_mem hput l _ hnodup.1, hput, if_pos rfl]
    · exact get_foldl_of_mem l _ hnodup.2 h

end

theorem nodup_of_distinct : ∀ {l : List Nat}, distinct l = true → l.Nodup
  | [], _ => List.nodup_nil
  | x :: l, h => by
    simp only [distinct, Bool.and_eq_true, Bool.not_eq_true', List.contains_eq_mem, decide_eq_false_iff_not] at h
    exact List.nodup_cons.2 ⟨h.1, nodup_of_distinct h.2⟩

theorem length_pieces (k n : Nat) (b : List Byte) : (pieces k n b).length = n := by rw [pieces, List.length_map, List.length_range]

/-! ### What a command reads of rings and descriptors -/

section
variable {s : State} {e : Entry} {op : Nat}

theorem cur_begun (n : Nat) : (getRing (begun s e op) n).cur = (getRing s n).cur := by
  obtain ⟨hring, hothers, -⟩ := started_begun s e op
  by_cases hn : n = e.ring.val
  · rw [hn, hring]
  · rw [hothers n hn]

theorem ringsOk_begun (c : Nat) (rs : List RowDesc) : ringsOk (begun s e op) c rs = ringsOk s c rs := by simp only [ringsOk, cur_begun]

theorem slotMismatch_begun (p : Nat) (d : BDesc) : slotMismatch (begun s e op) p d = slotMismatch s p d := by
  rw [slotMismatch, slotMismatch, getPtn_begun, loadedMap_begun]

theorem openBatches_begun (p : Nat) : openBatches (begun s e op) p = openBatches s p := by rw [openBatches, openBatches, getPtn_begun]

/-- A command that has started, and what its end leaves of it. -/
theorem getCmd_begun (h : Runs s e op) : getCmd (begun s e op) (newCmd s e op).ring (newCmd s e op).idx = some (newCmd s e op) :=
  getCmd_of_started h (started_begun s e op) rfl rfl

theorem sameEntry_ended (st res : Nat) : SameEntry fun k => { k with phase := .done, status := st, result := w32 res, todo := [] } :=
  ⟨fun _ => rfl, fun _ => rfl, fun _ => rfl, fun _ => rfl, fun _ => rfl⟩

theorem getCmd_endCmd_self {r i : Nat} {k : Cmd} (st res : Nat) (h : getCmd s r i = some k) :
    getCmd (endCmd r i st res s) r i = some { k with phase := .done, status := st, result := w32 res, todo := [] } := by
  rw [endCmd, getCmd_modCmd (sameEntry_ended st res), if_pos ⟨rfl, rfl⟩, h]; rfl

theorem oneEntry_endCmd {r i o id : Nat} (q j st res : Nat) (h : OneEntry r i o id s) : OneEntry r i o id (endCmd q j st res s) :=
  oneEntry_modCmd (sameEntry_ended st res) q j h

/-- Work that leaves a command's index to it keeps the command. -/
theorem CmdsKept.getCmd_eq {t : State} {r i o id : Nat} (h : CmdsKept s t) (ho : Settled o) (hone : OneEntry r i o id s) : getCmd t r i = getCmd s r i :=
  (h r i o id ho hone).2

theorem CmdsKept.oneEntry {t : State} {r i o id : Nat} (h : CmdsKept s t) (ho : Settled o) (hone : OneEntry r i o id s) : OneEntry r i o id t :=
  (h r i o id ho hone).1

/-- The opcodes of the batch commands. -/
theorem settled_batch {op : Nat} (h : op = 0x20 ∨ op = 0x22 ∨ op = 0x23) : Settled op := by
  rcases h with rfl | rfl | rfl <;> exact ⟨by decide, by decide, by decide⟩

section
variable {c : Cmd} {a n : Nat} {b : List Byte} {go : List Byte → State → State}

theorem withDesc_read (h : readDesc s c a n = .ok b) : withDesc c a n go s = go b s := by simp only [withDesc, h]

theorem withList_read (h : readList s c a n = .ok b) : withList c a n go s = go b s := by simp only [withList, h]

end

theorem getPtn_modBatch_ne {p q : Nat} (b : Nat) (g : Batch → Batch) (hq : q ≠ p) : getPtn (modBatch p b g s) q = getPtn s q := getPtn_modPtn_ne _ _ hq

/-- The entry has started as its command, and the command's batch `b` was changed by `g`. -/
structure Touched (s : State) (e : Entry) (op b : Nat) (g : Batch → Batch) (u : State) : Prop where
  frame   : u = { s with rings := u.rings, out := { s.out with hostMem := u.out.hostMem }, ptns := u.ptns }
  started : Started s u e (newCmd s e op)
  others  : OtherPtns (newCmd s e op).ptn s u
  own     : getPtn u (newCmd s e op).ptn = { getPtn s (newCmd s e op).ptn with batches := (getPtn u (newCmd s e op).ptn).batches }
  batch   : getBatch u (newCmd s e op).ptn b = g (getBatch s (newCmd s e op).ptn b)
  one     : OneEntry (newCmd s e op).ring (newCmd s e op).idx op (opf e.ops 2 0 16) u
  cmd     : getCmd u (newCmd s e op).ring (newCmd s e op).idx = some (newCmd s e op)

theorem touched_modBatch (h : Runs s e op) (b : Nat) (g : Batch → Batch) : Touched s e op b g (modBatch (newCmd s e op).ptn b g (begun s e op)) := by
  have hone := oneEntry_begun h
  have hcmd := getCmd_begun h
  have hstarted := started_begun s e op
  have hframe := begun_frame s e op
  have hbatch : getBatch (begun s e op) (newCmd s e op).ptn b = getBatch s (newCmd s e op).ptn b := getBatch_begun ..
  have hptn (q : Nat) : getPtn (begun s e op) q = getPtn s q := getPtn_begun s e op q
  generalize begun s e op = v at hone hcmd hstarted hframe hbatch hptn ⊢
  have honly : OnlyPtn (newCmd s e op).ptn v (modBatch (newCmd s e op).ptn b g v) := onlyPtn_modPtn _ _ v
  have hself : getBatch (modBatch (newCmd s e op).ptn b g v) (newCmd s e op).ptn b = g (getBatch v (newCmd s e op).ptn b) := getBatch_modBatch_self ..
  have hown : getPtn (modBatch (newCmd s e op).ptn b g v) (newCmd s e op).ptn = { getPtn v (newCmd s e op).ptn with
      batches := (getPtn (modBatch (newCmd s e op).ptn b g v) (newCmd s e op).ptn).batches } := by rw [modBatch, getPtn_modPtn_self]
  generalize modBatch (newCmd s e op).ptn b g v = u at honly hself hown ⊢
  have hrings : u.rings = v.rings := by rw [honly.frame]
  refine ⟨?_, started_of_rings hstarted hrings (by rw [honly.frame]), fun q hq => ?_, ?_, ?_, hone.of_rings hrings, ?_⟩
  · rw [honly.frame, hframe]
  · rw [honly.others q hq, hptn]
  · rw [hown, hptn]
  · rw [hself, hbatch]
  · rw [getCmd_of_rings hrings, hcmd]

section
variable {b : Nat} {g : Batch → Batch} {u : State} (k : Touched s e op b g u)
include k

theorem Touched.fe : (getPtn u (newCmd s e op).ptn).fe = (getPtn s (newCmd s e op).ptn).fe := by rw [k.own]

/-- The rows of a batch of the command's context raise only what the policies before the command bring. -/
theorem Touched.quiet (hpolicies : RowPolicies s) (hfree : MirrorFree s) (hctx : (g (getBatch s (newCmd s e op).ptn b)).ctx = (newCmd s e op).ctx) :
    RowsQuiet (newCmd s e op).ptn b u where
  policies := by
    have hpolicy (code : Nat) : policyOf u code = policyOf s code := by rw [policyOf, k.frame]; rfl
    simpa only [RowPolicies, hpolicy] using hpolicies
  mirror := mirrorFree_of_reset (fun q => by
    by_cases hq : q = (newCmd s e op).ptn
    · rw [hq, k.own]
    · rw [k.others q hq]) hfree
  home := by
    have hptn : ptnOfCtx u (newCmd s e op).ctx = (newCmd s e op).ptn := by rw [ptnOfCtx, k.frame]; rfl
    rw [k.batch, hctx, hptn]

/-- A command that waits for its batch's boundary. -/
theorem Touched.waits (h : Runs s e op) {t : State} (ht : t = modCmd (newCmd s e op).ring (newCmd s e op).idx (fun k => { k with phase := .waiting }) u) :
    t = { s with rings := t.rings, out := { s.out with hostMem := t.out.hostMem }, ptns := t.ptns } ∧ Started s t e { newCmd s e op with phase := .waiting } ∧
      OtherPtns (newCmd s e op).ptn s t ∧ getBatch t (newCmd s e op).ptn b = g (getBatch s (newCmd s e op).ptn b) := by
  refine ⟨?_, ?_, fun q hq => ?_, ?_⟩
  · rw [ht, k.frame]; rfl
  · rw [ht]; exact started_modCmd h k.started rfl rfl _
  · rw [ht, modCmd, getPtn_modRing, k.others q hq]
  · rw [ht, getBatch, modCmd, getPtn_modRing]; exact k.batch

end

end

/-! ### BATCH_OPEN (08 R246; 09 R263, R267, R268) -/

/-- The batch that a descriptor, its row descriptors and a port table open. -/
def openedBatch (c : Nat) (bs : List Byte) (ps : List PortEnt) (x : Batch) : Batch :=
  { open_ := true, ctx := c, gen := (x.gen + 1) % 65536, desc := decBDesc bs, ports := ps,
    rows :=
      let rs := (pieces 64 (decBDesc bs).rows (bs.drop (rowsOff bs))).map decRow
      ((List.range rs.length).zip rs).foldl (fun t e => tset {} e.1 (newRow e.2) t) [] }

/-- The rows of an opened batch have the descriptors read for them. -/
theorem openedBatch_desc {c r : Nat} {bs : List Byte} {ps : List PortEnt} {x : Batch} {d : RowDesc}
    (h : ((pieces 64 (decBDesc bs).rows (bs.drop (rowsOff bs))).map decRow)[r]? = some d) : (getRow (openedBatch c bs ps x) r).desc = d := by
  simp only [openedBatch, getRow]
  generalize (pieces 64 (decBDesc bs).rows (bs.drop (rowsOff bs))).map decRow = rs at h ⊢
  have hlt : r < rs.length := (List.getElem?_eq_some_iff.1 h).1
  have hkeys : (((List.range rs.length).zip rs).map Prod.fst) = List.range rs.length := List.map_fst_zip (by rw [List.length_range])
  have hmem : (r, d) ∈ (List.range rs.length).zip rs := by
    refine List.mem_iff_getElem?.2 ⟨r, ?_⟩
    rw [List.getElem?_zip_eq_some]
    exact ⟨by rw [List.getElem?_range hlt], h⟩
  refine get_foldl_of_mem (get := fun t n => (tget {} t n : BRow).desc) (put := fun t e => tset {} e.1 (newRow e.2) t) (f := fun d => d) (fun t e n => ?_) _ []
    (by rw [hkeys]; exact List.nodup_range) hmem
  by_cases hn : n = e.1
  · rw [if_pos hn, hn, tget_tset_self]; rfl
  · rw [if_neg hn, tget_tset_ne _ _ _ hn]

section
variable {s : State} {c : Cmd}

theorem batchOpenGo_refused (h : (getBatch s c.ptn (opf c.ops 2 0 6)).open_ = true ∨ 8 ≤ (openBatches s c.ptn).length) :
    batchOpenGo c s = endCmd c.ring c.idx (if (getBatch s c.ptn (opf c.ops 2 0 6)).open_ then 0x11 else 6) 0 s := by
  cases hopen : (getBatch s c.ptn (opf c.ops 2 0 6)).open_ with
  | true => simp only [batchOpenGo, hopen, if_true]
  | false =>
    have hmany : 8 ≤ (openBatches s c.ptn).length := h.resolve_left (by rw [hopen]; decide)
    simp only [batchOpenGo, hopen, hmany, Bool.false_eq_true, if_false, if_true]

theorem batchOpenGo_reads {h bs pb : List Byte} (hclosed : (getBatch s c.ptn (opf c.ops 2 0 6)).open_ = false) (hfew : (openBatches s c.ptn).length < 8)
    (hread : readDesc s c (opd c.ops 4) 64 = .ok h) (hhead : headBad h = false)
    (hrows : readDesc s c (opd c.ops 4) (rowsOff h + 64 * bits (wordAt h 1) 0 13) = .ok bs) (hvmap : vmapBad bs = false)
    (hslot : slotMismatch s c.ptn (decBDesc bs) = false) (hports : readDesc s c (opd c.ops 6) 8192 = .ok pb) (hgood : ((pieces 16 512 pb).map decPort).any portBad = false) :
    batchOpenGo c s = openGo c (opf c.ops 2 0 6) bs ((pieces 16 512 pb).map decPort) s := by
  simp only [batchOpenGo, hclosed, Nat.not_le.2 hfew, Bool.false_eq_true, if_false]
  rw [withDesc_read hread]
  simp only [hhead, Bool.false_eq_true, if_false]
  rw [withDesc_read hrows]
  simp only [hvmap, hslot, Bool.or_self, Bool.false_eq_true, if_false]
  exact withPorts_good hports hgood

theorem openGo_opens {b : Nat} {bs : List Byte} {ps : List PortEnt} (hrows : (pieces 64 (decBDesc bs).rows (bs.drop (rowsOff bs))).any (rowBad (decBDesc bs).maxDraft) = false)
    (hrings : ringsOk s c.ctx ((pieces 64 (decBDesc bs).rows (bs.drop (rowsOff bs))).map decRow) = true) :
    openGo c b bs ps s = endCmd c.ring c.idx 0 (getBatch (modBatch c.ptn b (openedBatch c.ctx bs ps) s) c.ptn b).gen
      (withRingSignals (standingPhases c.ptn b true) (modBatch c.ptn b (openedBatch c.ctx bs ps) s)) := by
  simp only [openGo, hrows, hrings, Bool.not_true, Bool.false_eq_true, if_false]
  rfl

end

theorem exec_batchOpen {s : State} {e : Entry} (h : Runs s e 0x20) : exec (.batchOpen e) s = .next (batchOpenGo (newCmd s e 0x20) (begun s e 0x20)) :=
  congrArg Host.Outcome.next (runEntry_begun h batchOpenGo)

/-- The phases of a batch that stands, and its rings' signals. -/
theorem standingPhases_moved {p b : Nat} {u : State} (hquiet : RowsQuiet p b u) :
    RowsMoved p b (descsOf u p b) u (withRingSignals (standingPhases p b true) u) := by
  have hphases : RowsMoved p b (descsOf u p b) u (standingPhases p b true u) := (RowsMoved.refl p b u).rowPhases hquiet
  exact hphases.recordsMoved (RecordsMoved.withRingSignals (standingPhases p b true) u)

/-- The batch that BATCH_OPEN opens, and the command that returns its generation. -/
theorem batchOpen_opens {s : State} {e : Entry} (h : Runs s e 0x20) {b : Nat} {bs : List Byte} {ps : List PortEnt} (hpolicies : RowPolicies s) (hfree : MirrorFree s) {t : State}
    (hrows : (pieces 64 (decBDesc bs).rows (bs.drop (rowsOff bs))).any (rowBad (decBDesc bs).maxDraft) = false)
    (hrings : ringsOk s (newCmd s e 0x20).ctx ((pieces 64 (decBDesc bs).rows (bs.drop (rowsOff bs))).map decRow) = true)
    (ht : t = openGo (newCmd s e 0x20) b bs ps (begun s e 0x20)) :
    let c := newCmd s e 0x20
    let gen := ((getBatch s c.ptn b).gen + 1) % 65536
    OtherPtns c.ptn s t ∧ (getBatch t c.ptn b).open_ = true ∧ (getBatch t c.ptn b).ctx = c.ctx ∧ (getBatch t c.ptn b).gen = gen ∧
      (getBatch t c.ptn b).desc = decBDesc bs ∧ (getBatch t c.ptn b).ports = ps ∧ (getBatch t c.ptn b).step = none ∧
      (∀ r d, ((pieces 64 (decBDesc bs).rows (bs.drop (rowsOff bs))).map decRow)[r]? = some d → (getRow (getBatch t c.ptn b) r).desc = d) ∧
      getCmd t c.ring c.idx = some { c with phase := .done, result := gen } := by
  intro c gen
  rw [openGo_opens hrows (by rw [ringsOk_begun]; exact hrings)] at ht
  have hopened := touched_modBatch h b (openedBatch c.ctx bs ps)
  generalize modBatch (newCmd s e 0x20).ptn b (openedBatch (newCmd s e 0x20).ctx bs ps) (begun s e 0x20) = u at ht hopened
  have hmoved := standingPhases_moved (hopened.quiet hpolicies hfree rfl)
  generalize withRingSignals (standingPhases (newCmd s e 0x20).ptn b true) u = v at ht hmoved
  have hstays := hmoved.stays.batch
  rw [hopened.batch] at hstays ht
  have hv : getBatch t c.ptn b = getBatch v c.ptn b := by rw [ht, getBatch, getPtn_endCmd]; rfl
  refine ⟨fun q hq => ?_, ?_, ?_, ?_, ?_, ?_, ?_, fun r d hd => ?_, ?_⟩
  · rw [ht, getPtn_endCmd, hmoved.stays.others q hq, hopened.others q hq]
  · rw [hv, hstays]; rfl
  · rw [hv, hstays]; rfl
  · rw [hv, hstays]; rfl
  · rw [hv, hstays]; rfl
  · rw [hv, hstays]; rfl
  · rw [hv, hstays]; rfl
  · rw [hv, hmoved.descs, descsOf, hopened.batch]; exact openedBatch_desc hd
  · have hend := getCmd_endCmd_self 0 gen ((hmoved.cmds.getCmd_eq (settled_batch (.inl rfl)) hopened.one).trans hopened.cmd)
    have hgen : w32 gen = gen := by
      show ((getBatch s c.ptn b).gen + 1) % 65536 % 2 ^ 32 = ((getBatch s c.ptn b).gen + 1) % 65536
      omega
    rw [hgen] at hend
    rw [ht]
    exact hend

end Sys2Proof.Proofs
end

section
/-! PROOFS. ROW_SET (08 R246; 09 R266, R269, R270). -/
namespace Sys2Proof.Proofs
open Sys2Proof Sys2Proof.Machine Sys2Proof.Safety

/-! ### Rows are replaced (09 R270, R295) -/

/-- Descriptors after the replacements of a list. -/
def descsAfter (l : List (Nat × RowDesc)) (D : Nat → RowDesc) : Nat → RowDesc := l.foldl (fun D e => Function.update D e.1 e.2) D

theorem descsAfter_of_mem {l : List (Nat × RowDesc)} {D : Nat → RowDesc} {r : Nat} {d : RowDesc} (hnodup : (l.map Prod.fst).Nodup) (h : (r, d) ∈ l) : descsAfter l D r = d :=
  get_foldl_of_mem (get := fun (D : Nat → RowDesc) n => D n) (f := fun d => d) (fun D e n => by rw [Function.update_apply]) l D hnodup h

theorem descsAfter_of_not_mem {l : List (Nat × RowDesc)} {D : Nat → RowDesc} {r : Nat} (h : r ∉ l.map Prod.fst) : descsAfter l D r = D r :=
  get_foldl_of_not_mem (get := fun (D : Nat → RowDesc) n => D n) (f := fun d => d) (fun D e n => by rw [Function.update_apply]) l D h

section
variable {p b : Nat} {D : Nat → RowDesc} {s t : State}

theorem RowsMoved.replaceRow (h : RowsMoved p b D s t) (r : Nat) (d : RowDesc) : RowsMoved p b (Function.update D r d) s (replaceRow p b r d t) := by
  have hclosed : RowsMoved p b D s (if (getRow (getBatch t p b) r).st = .empty then t else Machine.rowRecord p b r 6 0 1 0 t) := h.ite h.rowRecord
  simp only [Machine.replaceRow]
  generalize (if (getRow (getBatch t p b) r).st = .empty then t else Machine.rowRecord p b r 6 0 1 0 t) = u at hclosed ⊢
  have hset : BatchStays p b u (Machine.modRow p b r (fun _ => newRow d) u) := .of_modBatch
  refine ⟨hclosed.stays.trans hset, fun n => ?_, hclosed.cmds.trans (cmdsKept_of_rings rfl)⟩
  rw [Machine.modRow, getBatch_modBatch_self, getRow, tget_tmod, Function.update_apply]
  split
  · rfl
  · exact hclosed.descs n

/-- A change of the batch that keeps its context keeps its rows' faults quiet. -/
theorem RowsQuiet.modBatch (h : RowsQuiet p b s) {g : Batch → Batch} (hg : ∀ x, (g x).ctx = x.ctx) : RowsQuiet p b (modBatch p b g s) where
  policies := h.policies
  mirror := mirrorFree_of_reset (fun q => by
    by_cases hq : q = p
    · rw [hq, Machine.modBatch, getPtn_modPtn_self]
    · rw [getPtn_modBatch_ne _ _ hq]) h.mirror
  home := by
    rw [getBatch_modBatch_self, hg]
    exact h.home

theorem RowsMoved.replaceRows : ∀ (l : List (Nat × RowDesc)) {D : Nat → RowDesc} {t : State}, RowsMoved p b D s t →
    RowsMoved p b (descsAfter l D) s (l.foldl (fun s d => Machine.replaceRow p b d.1 d.2 s) t)
  | [], _, _, h => h
  | e :: l, _, _, h => RowsMoved.replaceRows l (h.replaceRow e.1 e.2)

end

/-! ### ROW_SET (09 R269) -/

/-- The rows that a list names, and the list's row descriptors. -/
def setRows (c : Cmd) (bs : List Byte) : List Nat := (pieces 2 (opf c.ops 3 0 13) bs).map leNat
def setDescs (c : Cmd) (bs : List Byte) : List RowDesc :=
  (pieces 64 (opf c.ops 3 0 13) (bs.drop (alignUp (2 * opf c.ops 3 0 13) 64))).map decRow

theorem length_setRows (c : Cmd) (bs : List Byte) : (setRows c bs).length = opf c.ops 3 0 13 := by rw [setRows, List.length_map, length_pieces]

theorem length_setDescs (c : Cmd) (bs : List Byte) : (setDescs c bs).length = opf c.ops 3 0 13 := by rw [setDescs, List.length_map, length_pieces]

theorem fst_setZip (c : Cmd) (bs : List Byte) : ((setRows c bs).zip (setDescs c bs)).map Prod.fst = setRows c bs :=
  List.map_fst_zip (by rw [length_setRows, length_setDescs])

theorem length_setZip (c : Cmd) (bs : List Byte) : ((setRows c bs).zip (setDescs c bs)).length = opf c.ops 3 0 13 := by
  rw [List.length_zip, length_setRows, length_setDescs, Nat.min_self]

/-- A list of row descriptors that ROW_SET takes for its batch. -/
structure RowSetOk (s : State) (c : Cmd) (x : Batch) (bs : List Byte) : Prop where
  some     : 0 < opf c.ops 3 0 13
  most     : opf c.ops 3 0 13 ≤ 4096
  isOpen   : x.open_ = true
  mine     : x.ctx = c.ctx
  distinct : distinct (setRows c bs) = true
  rows     : ∀ r ∈ setRows c bs, r < x.desc.rows
  good     : (pieces 64 (opf c.ops 3 0 13) (bs.drop (alignUp (2 * opf c.ops 3 0 13) 64))).any (rowBad x.desc.maxDraft) = false
  rings    : ringsOk s c.ctx (setDescs c bs) = true

/-- The replacements that wait for the batch's boundary. -/
def pendRows (c : Cmd) (bs : List Byte) (x : Batch) : Batch := { x with rowSets := x.rowSets ++ [(c.ring, c.idx, (setRows c bs).zip (setDescs c bs))] }

section
variable {s : State} {c : Cmd} {bs : List Byte}

theorem rowSetGo_sets (h : RowSetOk s c (getBatch s c.ptn (opf c.ops 2 0 6)) bs)
    (hread : readList s c (opd c.ops 4) (alignUp (2 * opf c.ops 3 0 13) 64 + 64 * opf c.ops 3 0 13) = .ok bs) :
    rowSetGo c s =
      if (getBatch s c.ptn (opf c.ops 2 0 6)).step.isSome then modCmd c.ring c.idx (fun k => { k with phase := .waiting }) (modBatch c.ptn (opf c.ops 2 0 6) (pendRows c bs) s)
      else withRingSignals (fun s => standingPhases c.ptn (opf c.ops 2 0 6) true (passAlpha c.ctx (opf c.ops 2 0 6) (applyRowSets c.ptn (opf c.ops 2 0 6) s)))
        (modBatch c.ptn (opf c.ops 2 0 6) (pendRows c bs) s) := by
  obtain ⟨hsome, hmost, hopen, hmine, hdistinct, hrows, hgood, hrings⟩ := h
  have hcount : ¬ (opf c.ops 3 0 13 = 0 ∨ 4096 < opf c.ops 3 0 13) := by omega
  have hlow : (setRows c bs).any (fun r => decide ((getBatch s c.ptn (opf c.ops 2 0 6)).desc.rows ≤ r)) = false := by
    simpa using hrows
  unfold setRows at hdistinct hlow
  unfold setDescs at hrings
  simp only [rowSetGo, if_neg hcount, onBatch_mine hopen hmine]
  rw [withList_read hread]
  simp only [rowSetList, hdistinct, hlow, hgood, hrings, Bool.not_true, Bool.or_self, Bool.false_eq_true, if_false]
  rfl

/-- One list of replacements applies, and its command ends with the number of rows replaced. -/
theorem applyRowSets_one {p b r i : Nat} {l : List (Nat × RowDesc)} (h : (getBatch s p b).rowSets = [(r, i, l)]) :
    applyRowSets p b s = endCmd r i 0 l.length (l.foldl (fun s d => replaceRow p b d.1 d.2 s) (modBatch p b (fun x => { x with rowSets := [] }) s)) := by
  simp only [applyRowSets, h, List.foldl_cons, List.foldl_nil]

end

theorem exec_rowSet {s : State} {e : Entry} (h : Runs s e 0x22) : exec (.rowSet e) s = .next (rowSetGo (newCmd s e 0x22) (begun s e 0x22)) :=
  congrArg Host.Outcome.next (runEntry_begun h rowSetGo)

section
variable {s : State} {e : Entry} {bs : List Byte} {b : Nat}

/-- Between steps the rows are replaced at once, and the command ends with their number. -/
theorem rowSet_replaces (h : Runs s e 0x22) (hok : RowSetOk s (newCmd s e 0x22) (getBatch s (newCmd s e 0x22).ptn b) bs)
    (hsets : (getBatch s (newCmd s e 0x22).ptn b).rowSets = []) (hpolicies : RowPolicies s) (hfree : MirrorFree s) {t : State}
    (ht : t = withRingSignals (fun s' => standingPhases (newCmd s e 0x22).ptn b true (passAlpha (newCmd s e 0x22).ctx b (applyRowSets (newCmd s e 0x22).ptn b s')))
      (modBatch (newCmd s e 0x22).ptn b (pendRows (newCmd s e 0x22) bs) (begun s e 0x22))) :
    let c := newCmd s e 0x22
    let x := getBatch s c.ptn b
    OtherPtns c.ptn s t ∧ (getBatch t c.ptn b).open_ = true ∧ (getBatch t c.ptn b).gen = x.gen ∧ (getBatch t c.ptn b).rowSets = [] ∧
      (∀ d ∈ (setRows c bs).zip (setDescs c bs), (getRow (getBatch t c.ptn b) d.1).desc = d.2) ∧
      (∀ r, r ∉ setRows c bs → (getRow (getBatch t c.ptn b) r).desc = (getRow x r).desc) ∧
      getCmd t c.ring c.idx = some { c with phase := .done, result := opf c.ops 3 0 13 } := by
  intro c x
  have hpended := touched_modBatch h b (pendRows c bs)
  change t = withRingSignals (fun s' => standingPhases c.ptn b true (passAlpha c.ctx b (applyRowSets c.ptn b s'))) (modBatch (newCmd s e 0x22).ptn b (pendRows c bs) (begun s e 0x22)) at ht
  generalize modBatch (newCmd s e 0x22).ptn b (pendRows c bs) (begun s e 0x22) = u at ht hpended
  have hpend : getBatch u c.ptn b = pendRows c bs x := hpended.batch
  have hquiet : RowsQuiet c.ptn b u := hpended.quiet hpolicies hfree hok.mine
  obtain ⟨w, v, y, happly, hreplaced, hmoved, hend⟩ : ∃ w v y, applyRowSets c.ptn b u = y ∧ w = modBatch c.ptn b (fun y => { y with rowSets := [] }) u ∧
      RowsMoved c.ptn b (descsAfter ((setRows c bs).zip (setDescs c bs)) (descsOf w c.ptn b)) w v ∧ y = endCmd c.ring c.idx 0 (opf c.ops 3 0 13) v := by
    refine ⟨_, _, _, applyRowSets_one (by rw [hpend, pendRows, hsets]; rfl), rfl, (RowsMoved.refl ..).replaceRows _, ?_⟩
    rw [length_setZip]
  have hw : getBatch w c.ptn b = { x with rowSets := [] } := by rw [hreplaced, getBatch_modBatch_self, hpend]; rfl
  have hyv : BatchStays c.ptn b v y := by rw [hend]; exact .of_same
  have hy : getBatch y c.ptn b = getBatch v c.ptn b := by rw [hend, getBatch, getPtn_endCmd]; rfl
  have hquietY : RowsQuiet c.ptn b y := hyv.quiet (hmoved.quiet (hreplaced ▸ hquiet.modBatch fun _ => rfl))
  have hphases : RowsMoved c.ptn b (descsOf y c.ptn b) y t := by
    have hboundary : RowsMoved c.ptn b (descsOf y c.ptn b) y (standingPhases c.ptn b true (passAlpha c.ctx b (applyRowSets c.ptn b u))) := by
      rw [happly]; exact (RowsMoved.refl c.ptn b y).passAlpha.rowPhases hquietY
    rw [ht]
    exact hboundary.recordsMoved (RecordsMoved.withRingSignals (fun s' => standingPhases c.ptn b true (passAlpha c.ctx b (applyRowSets c.ptn b s'))) u)
  have hbatch : getBatch t c.ptn b = { x with rowSets := [], rows := (getBatch t c.ptn b).rows, segs := (getBatch t c.ptn b).segs } := by
    rw [hphases.stays.batch, hy, hmoved.stays.batch, hw]
  have hdesc (r : Nat) : (getRow (getBatch t c.ptn b) r).desc = descsAfter ((setRows c bs).zip (setDescs c bs)) (descsOf w c.ptn b) r := by
    rw [hphases.descs, descsOf, hy, hmoved.descs]
  refine ⟨fun q hq => ?_, ?_, ?_, ?_, fun d hd => ?_, fun r hr => ?_, ?_⟩
  · rw [hphases.stays.others q hq, hyv.others q hq, hmoved.stays.others q hq, hreplaced, getPtn_modBatch_ne _ _ hq, hpended.others q hq]
  · rw [hbatch]; exact hok.isOpen
  · rw [hbatch]
  · rw [hbatch]
  · rw [hdesc]
    exact descsAfter_of_mem (by rw [fst_setZip]; exact nodup_of_distinct hok.distinct) hd
  · rw [hdesc, descsAfter_of_not_mem (by rw [fst_setZip]; exact hr), descsOf, hw]; rfl
  · have honeW : OneEntry c.ring c.idx 0x22 (opf e.ops 2 0 16) w := by rw [hreplaced]; exact hpended.one.of_rings rfl
    have hcmdV : getCmd v c.ring c.idx = some c := by
      rw [hmoved.cmds.getCmd_eq (settled_batch (.inr (.inl rfl))) honeW, hreplaced]; exact (getCmd_of_rings rfl ..).trans hpended.cmd
    have hcmdY := getCmd_endCmd_self 0 (opf c.ops 3 0 13) hcmdV
    have honeY := oneEntry_endCmd c.ring c.idx 0 (opf c.ops 3 0 13) (hmoved.cmds.oneEntry (settled_batch (.inr (.inl rfl))) honeW)
    rw [← hend] at hcmdY honeY
    have hcount : w32 (opf c.ops 3 0 13) = opf c.ops 3 0 13 := Nat.mod_eq_of_lt (Nat.lt_of_le_of_lt hok.most (by decide))
    rw [hphases.cmds.getCmd_eq (settled_batch (.inr (.inl rfl))) honeY, hcmdY, hcount]; rfl

end

end Sys2Proof.Proofs
end

section
/-! PROOFS. BATCH_CLOSE and CANCEL (08 R246; 09 R263, R295; 10 R325). -/
namespace Sys2Proof.Proofs
open Sys2Proof Sys2Proof.Machine Sys2Proof.Safety

/-! ### A batch's waiting and saved BATCH_RUNs end (08 R246) -/

/-- The command is a BATCH_RUN of batch `b`. -/
def runsBatch (b : Nat) (r : Running) : Bool := r.opcode == 0x21 && r.batch == b

/-- The engine without the batch's saved BATCH_RUNs and, if `queued`, without its waiting ones. -/
def withoutRuns (b : Nat) (queued : Bool) (f : Fe) : Fe :=
  { f with saved := f.saved.filter fun v => !runsBatch b v.run, queue := if queued then f.queue.filter fun r => !runsBatch b r else f.queue }

/-- The BATCH_RUNs that leave the engine so. -/
def droppedRuns (b : Nat) (queued : Bool) (f : Fe) : List Running :=
  (f.saved.filter fun v => runsBatch b v.run).map (fun v => v.run) ++ (if queued then f.queue.filter (runsBatch b) else [])

/-- Figure work ends with a status and the steps that it completed. -/
def endRuns (status : Nat) (l : List Running) (s : State) : State := l.foldl (fun s r => endCmd r.ring r.idx status r.done s) s

theorem dropRuns_eq (p b status : Nat) (queued : Bool) (s : State) :
    dropRuns p b status queued s = endRuns status (droppedRuns b queued (getPtn s p).fe) (modFe p (withoutRuns b queued) s) := rfl

/-- A command as it started, but for how it ended. -/
def UpToEnd (c k : Cmd) : Prop := k = { c with phase := k.phase, status := k.status, result := k.result, todo := k.todo }

section
variable {r i o id status : Nat}

theorem endRuns_rings (l : List Running) (s : State) : endRuns status l s = { s with rings := (endRuns status l s).rings } := by
  induction l generalizing s with
  | nil => rfl
  | cons a l ih =>
    show endRuns status l (endCmd a.ring a.idx status a.done s) = { s with rings := (endRuns status l (endCmd a.ring a.idx status a.done s)).rings }
    rw [ih]; rfl

theorem oneEntry_endRuns : ∀ (l : List Running) {t : State}, OneEntry r i o id t → OneEntry r i o id (endRuns status l t)
  | [], _, h => h
  | a :: l, _, h => oneEntry_endRuns l (oneEntry_endCmd a.ring a.idx status a.done h)

theorem getCmd_endCmd_other {s : State} {q j st res : Nat} (h : (q, j) ≠ (r, i)) : getCmd (endCmd q j st res s) r i = getCmd s r i := by
  rw [endCmd, getCmd_modCmd (sameEntry_ended st res), if_neg]
  rintro ⟨rfl, rfl⟩
  exact h rfl

/-- A command that is not among the work that ends stays as it is. -/
theorem getCmd_endRuns_other : ∀ (l : List Running) (s : State), (∀ a ∈ l, (a.ring, a.idx) ≠ (r, i)) → getCmd (endRuns status l s) r i = getCmd s r i
  | [], _, _ => rfl
  | a :: l, _, h => (getCmd_endRuns_other l _ fun x hx => h x (List.mem_cons_of_mem a hx)).trans (getCmd_endCmd_other (h a List.mem_cons_self))

/-- A command among it has at most ended. -/
theorem getCmd_endRuns_upToEnd {c : Cmd} : ∀ (l : List Running) (s : State), (∃ k, getCmd s r i = some k ∧ UpToEnd c k) →
    ∃ k, getCmd (endRuns status l s) r i = some k ∧ UpToEnd c k
  | [], _, h => h
  | a :: l, s, h => by
    refine getCmd_endRuns_upToEnd l (endCmd a.ring a.idx status a.done s) ?_
    obtain ⟨k, hk, hup⟩ := h
    by_cases ha : (a.ring, a.idx) = (r, i)
    · obtain ⟨rfl, rfl⟩ := Prod.mk.inj ha
      refine ⟨_, getCmd_endCmd_self status a.done hk, ?_⟩
      unfold UpToEnd at hup ⊢
      rw [hup]
    · exact ⟨k, (getCmd_endCmd_other ha).trans hk, hup⟩

end

/-- The state after a batch's runs were dropped: only rings and the partition's engine changed. -/
theorem dropRuns_engine (p b status : Nat) (queued : Bool) (s : State) :
    OtherPtns p s (dropRuns p b status queued s) ∧
      getPtn (dropRuns p b status queued s) p = { getPtn s p with fe := withoutRuns b queued (getPtn s p).fe } := by
  have hdropped := engineIs_modFe p (withoutRuns b queued) s
  rw [dropRuns_eq]
  generalize modFe p (withoutRuns b queued) s = u at hdropped ⊢
  rw [endRuns_rings]
  exact ⟨hdropped.only.others, hdropped.own⟩

/-! ### A batch closes (09 R263, R295) -/

/-- Rows that are unfinished receive their last record. -/
def closedRows (p b detail : Nat) (l : List Nat) (s : State) : State := l.foldl (fun s r => finishRow p b r (rowRecord p b r 6 0 detail 0 s)) s

theorem closedRows_moved (p b detail : Nat) (l : List Nat) (s : State) : RowsMoved p b (descsOf s p b) s (closedRows p b detail l s) :=
  (RowsMoved.refl p b s).foldl fun h => h.rowRecord.finishRow

/-- The batch's number is free again; CANCEL advances its generation. -/
def freed (detail : Nat) (x : Batch) : Batch := { gen := if detail = 2 then (x.gen + 1) % 65536 else x.gen }

theorem freeBatch_freed (p b detail : Nat) (s : State) :
    OtherPtns p s (freeBatch p b (if detail = 2 then bumpGen p b s else s)) ∧
      getBatch (freeBatch p b (if detail = 2 then bumpGen p b s else s)) p b = freed detail (getBatch s p b) ∧
      (getPtn (freeBatch p b (if detail = 2 then bumpGen p b s else s)) p).fe = (getPtn s p).fe ∧
      (freeBatch p b (if detail = 2 then bumpGen p b s else s)).rings = s.rings := by
  unfold freeBatch bumpGen freed
  split
  · refine ⟨fun q hq => ?_, ?_, ?_, rfl⟩
    · rw [getPtn_modBatch_ne _ _ hq, getPtn_modBatch_ne _ _ hq]
    · rw [getBatch_modBatch_self, getBatch_modBatch_self]
    · rw [modBatch, getPtn_modPtn_self, modBatch, getPtn_modPtn_self]
  · refine ⟨fun q hq => getPtn_modBatch_ne _ _ hq, ?_, ?_, rfl⟩
    · rw [getBatch_modBatch_self]
    · rw [modBatch, getPtn_modPtn_self]

/-- The command whose batch closes ends with OK. -/
def endClosing (e : Option (Nat × Nat)) (s : State) : State := match e with | some e => endCmd e.1 e.2 0 0 s | none => s

theorem endClosing_rings (e : Option (Nat × Nat)) (s : State) : endClosing e s = { s with rings := (endClosing e s).rings } := by
  unfold endClosing
  split <;> rfl

section
variable {p b detail : Nat} {s : State}

theorem closeBatch_eq (hsets : (getBatch s p b).rowSets = []) :
    closeBatch p b detail s =
      (let w := endClosing (getBatch s p b).closing (closedRows p b detail (unfinishedRows (getBatch s p b)) (dropRuns p b 0x11 true s))
       recountRefs (passAlpha (getBatch s p b).ctx b (freeBatch p b (if detail = 2 then bumpGen p b w else w)))) := by
  simp only [closeBatch, hsets, List.foldl_nil]
  rfl

/-- A batch without waiting replacements that closes: beside its partition nothing is left of it but its generation, and its runs leave the engine. -/
structure Closed (p b detail : Nat) (s t : State) : Prop where
  others : OtherPtns p s t
  batch  : getBatch t p b = freed detail (getBatch s p b)
  fe     : (getPtn t p).fe = withoutRuns b true (getPtn s p).fe

theorem Closed.recordsMoved {t u : State} (h : Closed p b detail s t) (k : RecordsMoved t u) : Closed p b detail s u := by
  have hptn (q : Nat) : getPtn u q = getPtn t q := getPtn_eq_of_ptns k.ptns q
  exact ⟨fun q hq => (hptn q).trans (h.others q hq), by rw [getBatch, hptn]; exact h.batch, by rw [hptn]; exact h.fe⟩

/-- The commands as a batch closes: `w` is the state in which its rows have their last records and its closing command has ended. -/
theorem closeBatch_closed (hsets : (getBatch s p b).rowSets = []) :
    Closed p b detail s (closeBatch p b detail s) ∧
      CmdsKept (endClosing (getBatch s p b).closing (closedRows p b detail (unfinishedRows (getBatch s p b)) (dropRuns p b 0x11 true s))) (closeBatch p b detail s) := by
  obtain ⟨hothers, hown⟩ := dropRuns_engine p b 0x11 true s
  have hbatch : getBatch (dropRuns p b 0x11 true s) p b = getBatch s p b := by rw [getBatch, hown]; rfl
  rw [closeBatch_eq hsets]
  dsimp only
  have hrows := closedRows_moved p b detail (unfinishedRows (getBatch s p b)) (dropRuns p b 0x11 true s)
  generalize dropRuns p b 0x11 true s = d at hothers hown hbatch hrows ⊢
  generalize closedRows p b detail (unfinishedRows (getBatch s p b)) d = v at hrows ⊢
  have hptn (q : Nat) : getPtn (endClosing (getBatch s p b).closing v) q = getPtn v q := by rw [endClosing_rings]; rfl
  generalize endClosing (getBatch s p b).closing v = w at hptn ⊢
  obtain ⟨hfreeOthers, hfreeBatch, hfreeFe, hfreeRings⟩ := freeBatch_freed p b detail w
  generalize freeBatch p b (if detail = 2 then bumpGen p b w else w) = z at hfreeOthers hfreeBatch hfreeFe hfreeRings ⊢
  have hmoved := (RecordsMoved.refl z).passAlpha (c := (getBatch s p b).ctx) (n := b) |>.recountRefs
  have hclosed : Closed p b detail s z := by
    refine ⟨fun q hq => ?_, ?_, ?_⟩
    · rw [hfreeOthers q hq, hptn, hrows.stays.others q hq, hothers q hq]
    · have hw : getBatch w p b = getBatch v p b := by rw [getBatch, hptn]; rfl
      rw [hfreeBatch, hw, hrows.stays.batch, hbatch]; rfl
    · rw [hfreeFe, hptn, hrows.stays.fe, hown]
  exact ⟨hclosed.recordsMoved hmoved, (cmdsKept_of_rings hfreeRings).trans hmoved.cmds⟩

end

/-! ### BATCH_CLOSE (08 R246; 10 R325) -/

section
variable {s : State} {c : Cmd}

theorem batchCloseGo_refused (h : (getBatch s c.ptn (opf c.ops 2 0 6)).open_ = false ∨ (getBatch s c.ptn (opf c.ops 2 0 6)).ctx ≠ c.ctx ∨
      (getBatch s c.ptn (opf c.ops 2 0 6)).closing.isSome = true ∨ (getBatch s c.ptn (opf c.ops 2 0 6)).cancel.isSome = true) :
    batchCloseGo c s = endCmd c.ring c.idx
      (if (getBatch s c.ptn (opf c.ops 2 0 6)).open_ && (getBatch s c.ptn (opf c.ops 2 0 6)).ctx != c.ctx then 3 else 0x11) 0 s := by
  cases hopen : (getBatch s c.ptn (opf c.ops 2 0 6)).open_ with
  | false => rw [batchCloseGo, onBatch_closed hopen, Bool.false_and, if_neg (by decide)]
  | true =>
    by_cases hctx : (getBatch s c.ptn (opf c.ops 2 0 6)).ctx = c.ctx
    · have hbusy : ((getBatch s c.ptn (opf c.ops 2 0 6)).closing.isSome || (getBatch s c.ptn (opf c.ops 2 0 6)).cancel.isSome) = true := by
        rw [hopen] at h
        simpa [hctx] using h
      rw [batchCloseGo, onBatch_mine hopen hctx, if_pos hbusy, if_neg (by simp [hctx])]
    · rw [batchCloseGo, onBatch_foreign hopen hctx, if_pos (by simp [hctx])]

theorem stepRuns_modBatch (p b n : Nat) (g : Batch → Batch) : stepRuns (modBatch p n g s) p b = stepRuns s p b := by
  rw [stepRuns, modBatch, getPtn_modPtn_self]; rfl

section
variable {x : Batch} (hx : getBatch s c.ptn (opf c.ops 2 0 6) = x) (hopen : x.open_ = true) (hctx : x.ctx = c.ctx) (hclosing : x.closing = none) (hcancel : x.cancel = none)
include hx hopen hctx hclosing hcancel

/-- BATCH_CLOSE waits for the boundary of a step in progress, and otherwise closes the batch. -/
theorem batchCloseGo_closes (hop : opf c.ops 2 8 1 = 0) :
    batchCloseGo c s =
      (let u := modBatch c.ptn (opf c.ops 2 0 6) (fun y => { y with closing := some (c.ring, c.idx) }) s
       if x.step.isSome then modCmd c.ring c.idx (fun k => { k with phase := .waiting }) u else withRingSignals (closeBatch c.ptn (opf c.ops 2 0 6) 0) u) := by
  subst hx
  simp only [batchCloseGo, onBatch_mine hopen hctx, hclosing, hcancel, hop, Option.isSome_none, Bool.or_self, Bool.false_eq_true, if_false, Nat.zero_ne_one]

/-- CANCEL waits for the bow point of a step that is being computed, and otherwise calls the batch off. -/
theorem batchCloseGo_cancels (hop : opf c.ops 2 8 1 = 1) :
    batchCloseGo c s =
      (let u := modBatch c.ptn (opf c.ops 2 0 6) (fun y => { y with cancel := some (c.ring, c.idx) }) s
       if x.step.isSome && stepRuns s c.ptn (opf c.ops 2 0 6) then modCmd c.ring c.idx (fun k => { k with phase := .waiting }) u
       else cancelBatch c.ptn (opf c.ops 2 0 6) u) := by
  subst hx
  simp only [batchCloseGo, onBatch_mine hopen hctx, hclosing, hcancel, hop, stepRuns_modBatch, Option.isSome_none, Bool.or_self, Bool.false_eq_true, if_false, if_true]

end

end

theorem stepRuns_begun (s : State) (e : Entry) (op p b : Nat) : stepRuns (begun s e op) p b = stepRuns s p b := by
  rw [stepRuns, stepRuns, getPtn_begun]

theorem exec_batchClose {s : State} {e : Entry} (h : Runs s e 0x23) : exec (.batchClose e) s = .next (batchCloseGo (newCmd s e 0x23) (begun s e 0x23)) :=
  congrArg Host.Outcome.next (runEntry_begun h batchCloseGo)

section
variable {s : State} {e : Entry} {b : Nat}

/-- Between steps BATCH_CLOSE closes the batch and ends. -/
theorem batchClose_closes (h : Runs s e 0x23) (hsets : (getBatch s (newCmd s e 0x23).ptn b).rowSets = []) {t : State}
    (ht : t = withRingSignals (closeBatch (newCmd s e 0x23).ptn b 0)
      (modBatch (newCmd s e 0x23).ptn b (fun y => { y with closing := some ((newCmd s e 0x23).ring, (newCmd s e 0x23).idx) }) (begun s e 0x23))) :
    let c := newCmd s e 0x23
    OtherPtns c.ptn s t ∧ getBatch t c.ptn b = { gen := (getBatch s c.ptn b).gen } ∧ (getPtn t c.ptn).fe = withoutRuns b true (getPtn s c.ptn).fe ∧
      getCmd t c.ring c.idx = some { c with phase := .done } := by
  intro c
  have htouched := touched_modBatch h b fun y => { y with closing := some (c.ring, c.idx) }
  change t = withRingSignals (closeBatch c.ptn b 0) (modBatch (newCmd s e 0x23).ptn b (fun y => { y with closing := some (c.ring, c.idx) }) (begun s e 0x23)) at ht
  generalize modBatch (newCmd s e 0x23).ptn b (fun y => { y with closing := some (c.ring, c.idx) }) (begun s e 0x23) = u at ht htouched
  have hfe := htouched.fe
  obtain ⟨-, -, hothers, -, hbatch, hone, hcmd⟩ := htouched
  obtain ⟨hclosed, hkept⟩ := closeBatch_closed (p := c.ptn) (b := b) (detail := 0) (s := u) (by rw [hbatch]; exact hsets)
  have hsignals := RecordsMoved.withRingSignals (closeBatch c.ptn b 0) u
  rw [← ht] at hsignals
  have hdone := hclosed.recordsMoved hsignals
  have hcmds := hkept.trans hsignals.cmds
  have hrows := closedRows_moved c.ptn b 0 (unfinishedRows (getBatch u c.ptn b)) (dropRuns c.ptn b 0x11 true u)
  refine ⟨fun q hq => (hdone.others q hq).trans (hothers q hq), ?_, ?_, ?_⟩
  · rw [hdone.batch, hbatch]; rfl
  · rw [hdone.fe, hfe]
  · have honeD : OneEntry c.ring c.idx 0x23 (opf e.ops 2 0 16) (dropRuns c.ptn b 0x11 true u) := oneEntry_endRuns _ (hone.of_rings rfl)
    obtain ⟨k, hk, hup⟩ := getCmd_endRuns_upToEnd (status := 0x11) (c := c) (droppedRuns b true (getPtn u c.ptn).fe) (modFe c.ptn (withoutRuns b true) u)
      ⟨c, (getCmd_of_rings rfl ..).trans hcmd, rfl⟩
    rw [← dropRuns_eq] at hk
    have hkRows := (hrows.cmds.getCmd_eq (settled_batch (.inr (.inr rfl))) honeD).trans hk
    have honeRows := hrows.cmds.oneEntry (settled_batch (.inr (.inr rfl))) honeD
    generalize closedRows c.ptn b 0 (unfinishedRows (getBatch u c.ptn b)) (dropRuns c.ptn b 0x11 true u) = v at hcmds hkRows honeRows
    have hend : endClosing (getBatch u c.ptn b).closing v = endCmd c.ring c.idx 0 0 v := by rw [hbatch]; rfl
    rw [hend] at hcmds
    rw [hcmds.getCmd_eq (settled_batch (.inr (.inr rfl))) (oneEntry_endCmd _ _ 0 0 honeRows), getCmd_endCmd_self 0 0 hkRows, hup]
    rfl

/-! ### CANCEL (10 R325) -/

theorem cancelSender_moved {p x : Nat} {sel : XTok → Bool} {D : Nat → RowDesc} {s t : State} (h : RowsMoved p b D s t) : RowsMoved p b D s (cancelSender p x sel t) := by
  have hsends : SendsOnly t ((((getExch t p x).toks.filter sel).map fun k => (k.step, k.batch, k.gen)).eraseDups.foldl (fun s k => match tableFor (getExch t p x) k.1 with
      | none => s
      | some y => sendUnits (some (getBatch s p k.2.1).ctx) ((homesOf y).map fun h => (h.1, 7, bareUnit s x k.1 y.epoch k.2.2 k.2.1 p h.2)) s) t) := by
    refine SendsOnly.foldl (fun s k => ?_) _ t
    split
    · exact .refl s
    · exact sendsOnly_sendUnits _ _ s
  simp only [cancelSender]
  generalize List.foldl _ t _ = u at hsends ⊢
  have hsent : RowsMoved p b D s u := h.same (by rw [hsends]) (by rw [hsends]) (by rw [hsends]) (by rw [hsends])
  exact hsent.modPtn

theorem cancelTokens_moved (p b : Nat) (s : State) : RowsMoved p b (descsOf s p b) s (cancelTokens p b s) := (RowsMoved.refl p b s).foldl fun h => cancelSender_moved h

/-- A batch that no running or restored command belongs to is cancelled at once. -/
theorem cancelBatch_idle {p : Nat} {s : State} {r i : Nat} (hrun : (getPtn s p).fe.run = none) (hresume : (getPtn s p).fe.resume = none)
    (hcancel : (getBatch (cancelTokens p b s) p b).cancel = some (r, i)) :
    cancelBatch p b s = eachSignals (closeBatch p b 2) (dropRuns p b 9 false (endCmd r i 0 0 (cancelTokens p b s))) := by
  simp only [cancelBatch, hrun, hresume, hcancel]

/-- CANCEL of a batch whose runs only wait closes it under the next generation and ends. -/
theorem batchClose_cancels (h : Runs s e 0x23) (hsets : (getBatch s (newCmd s e 0x23).ptn b).rowSets = []) (hclosing : (getBatch s (newCmd s e 0x23).ptn b).closing = none)
    (hrun : (getPtn s (newCmd s e 0x23).ptn).fe.run = none) (hresume : (getPtn s (newCmd s e 0x23).ptn).fe.resume = none)
    (hsaved : (getPtn s (newCmd s e 0x23).ptn).fe.saved = [])
    (hqueue : ∀ r ∈ (getPtn s (newCmd s e 0x23).ptn).fe.queue, (r.ring, r.idx) ≠ ((newCmd s e 0x23).ring, (newCmd s e 0x23).idx)) {t : State}
    (ht : t = cancelBatch (newCmd s e 0x23).ptn b
      (modBatch (newCmd s e 0x23).ptn b (fun y => { y with cancel := some ((newCmd s e 0x23).ring, (newCmd s e 0x23).idx) }) (begun s e 0x23))) :
    let c := newCmd s e 0x23
    OtherPtns c.ptn s t ∧ getBatch t c.ptn b = { gen := ((getBatch s c.ptn b).gen + 1) % 65536 } ∧ getCmd t c.ring c.idx = some { c with phase := .done } := by
  intro c
  have htouched := touched_modBatch h b fun y => { y with cancel := some (c.ring, c.idx) }
  change t = cancelBatch c.ptn b (modBatch (newCmd s e 0x23).ptn b (fun y => { y with cancel := some (c.ring, c.idx) }) (begun s e 0x23)) at ht
  generalize modBatch (newCmd s e 0x23).ptn b (fun y => { y with cancel := some (c.ring, c.idx) }) (begun s e 0x23) = u at ht htouched
  have hfe := htouched.fe
  obtain ⟨-, -, hothers, -, hbatch, hone, hcmd⟩ := htouched
  have htokens := cancelTokens_moved c.ptn b u
  rw [cancelBatch_idle (r := c.ring) (i := c.idx) (by rw [hfe]; exact hrun) (by rw [hfe]; exact hresume) (by rw [htokens.stays.batch, hbatch])] at ht
  generalize cancelTokens c.ptn b u = a at ht htokens
  have honeA := oneEntry_endCmd c.ring c.idx 0 0 (htokens.cmds.oneEntry (settled_batch (.inr (.inr rfl))) hone)
  have hcmdA := getCmd_endCmd_self 0 0 ((htokens.cmds.getCmd_eq (settled_batch (.inr (.inr rfl))) hone).trans hcmd)
  have hptnA (q : Nat) : getPtn (endCmd c.ring c.idx 0 0 a) q = getPtn a q := getPtn_endCmd ..
  generalize endCmd c.ring c.idx 0 0 a = v at ht honeA hcmdA hptnA
  -- no command of the batch is saved, so that none ends with CANCELLED
  replace hsaved : (getPtn s c.ptn).fe.saved = [] := hsaved
  have hfeV : (getPtn v c.ptn).fe = (getPtn s c.ptn).fe := by rw [hptnA, htokens.stays.fe, hfe]
  obtain ⟨hothersD, hownD⟩ := dropRuns_engine c.ptn b 9 false v
  have honeD : OneEntry c.ring c.idx 0x23 (opf e.ops 2 0 16) (dropRuns c.ptn b 9 false v) := oneEntry_endRuns _ (honeA.of_rings rfl)
  have hcmdD : getCmd (dropRuns c.ptn b 9 false v) c.ring c.idx = getCmd v c.ring c.idx := by
    rw [dropRuns_eq, hfeV]
    refine (getCmd_endRuns_other _ _ ?_).trans (getCmd_of_rings rfl ..)
    simp [droppedRuns, hsaved]
  generalize dropRuns c.ptn b 9 false v = d at ht hothersD hownD honeD hcmdD
  have hbatchD : getBatch d c.ptn b = { getBatch s c.ptn b with cancel := some (c.ring, c.idx), rows := (getBatch a c.ptn b).rows, segs := (getBatch a c.ptn b).segs } := by
    have hd : getBatch d c.ptn b = getBatch a c.ptn b := by rw [getBatch, hownD, hptnA]; rfl
    rw [hd, htokens.stays.batch, hbatch]
  have hfeD : (getPtn d c.ptn).fe = withoutRuns b false (getPtn s c.ptn).fe := by rw [hownD, hfeV]
  -- the batch closes, and the commands of its waiting runs end
  obtain ⟨hclosed, hkept⟩ := closeBatch_closed (p := c.ptn) (b := b) (detail := 2) (s := d) (by rw [hbatchD]; exact hsets)
  have hsignals := RecordsMoved.eachSignals (closeBatch c.ptn b 2) d
  rw [← ht] at hsignals
  have hdone := hclosed.recordsMoved hsignals
  have hcmds := hkept.trans hsignals.cmds
  rw [show (getBatch d c.ptn b).closing = none by rw [hbatchD]; exact hclosing] at hcmds
  refine ⟨fun q hq => ?_, ?_, ?_⟩
  · rw [hdone.others q hq, hothersD q hq, hptnA, htokens.stays.others q hq, hothers q hq]
  · rw [hdone.batch, hbatchD]; rfl
  · have hrows := closedRows_moved c.ptn b 2 (unfinishedRows (getBatch d c.ptn b)) (dropRuns c.ptn b 0x11 true d)
    have honeR : OneEntry c.ring c.idx 0x23 (opf e.ops 2 0 16) (dropRuns c.ptn b 0x11 true d) := oneEntry_endRuns _ (honeD.of_rings rfl)
    have hcmdR : getCmd (dropRuns c.ptn b 0x11 true d) c.ring c.idx = getCmd d c.ring c.idx := by
      rw [dropRuns_eq, hfeD]
      refine (getCmd_endRuns_other _ _ fun r hr => ?_).trans (getCmd_of_rings rfl ..)
      simp only [droppedRuns, withoutRuns, hsaved, List.filter_nil, List.map_nil, List.nil_append, if_true, Bool.false_eq_true, if_false] at hr
      exact hqueue r (List.mem_filter.1 hr).1
    have hcmdRows := (hrows.cmds.getCmd_eq (settled_batch (.inr (.inr rfl))) honeR).trans (hcmdR.trans (hcmdD.trans hcmdA))
    have honeRows := hrows.cmds.oneEntry (settled_batch (.inr (.inr rfl))) honeR
    exact (hcmds.getCmd_eq (settled_batch (.inr (.inr rfl))) honeRows).trans hcmdRows

end

end Sys2Proof.Proofs
end

section
/-! PROOFS. BATCH_OPEN, ROW_SET and BATCH_CLOSE open, replace and close (08 R246; 09 R263-R270, R295; 10 R325). -/
namespace Sys2Proof.Proofs
open Sys2Proof Sys2Proof.Machine Sys2Proof.Safety

/-- Settles O36: the phases that run at once move the rows of the batch and keep the rest (`RowsMoved`), so that an opened batch holds what was read for it
(`batchOpen_opens`) and a ROW_SET's rows are those of its list (`rowSet_replaces`); a batch that closes leaves its generation and its runs leave the engine
(`batchClose_closes`, `batchClose_cancels`), and a command that meets a step in progress waits (`Touched.waits`). -/
theorem batchesOpenReplaceAndClose : Obligations.BatchesOpenReplaceAndClose := by
  unfold Obligations.BatchesOpenReplaceAndClose
  refine ⟨⟨?batchOpen, ?rowSet⟩, ?batchClose⟩
  case batchOpen =>
    intro e s h
    rw [exec_batchOpen h]
    refine ⟨fun hbad => ⟨_, rfl, only_ends h _ 0 ?_⟩, fun hd bs pb hclosed hfew hpolicies hfree hread hhead hrowsRead hvmap hslot hports hgood hrows hrings => ⟨_, rfl, ?_⟩⟩
    · have hgo := batchOpenGo_refused (c := newCmd s e 0x20) (s := begun s e 0x20) (by rw [getBatch_begun, openBatches_begun]; exact hbad)
      rwa [getBatch_begun] at hgo
    · exact batchOpen_opens h hpolicies hfree hrows hrings (batchOpenGo_reads (by rw [getBatch_begun]; exact hclosed) (by rw [openBatches_begun]; exact hfew) hread hhead
        hrowsRead hvmap (by rw [slotMismatch_begun]; exact hslot) hports hgood)
  case rowSet =>
    intro e bs s h c b n x ns es hsome hmost hopen hmine hread hdistinct hrows hgood hrings
    rw [exec_rowSet h]
    have hok : RowSetOk s c x bs := ⟨hsome, hmost, hopen, hmine, hdistinct, hrows, hgood, hrings⟩
    have hokBegun : RowSetOk (begun s e 0x22) c (getBatch (begun s e 0x22) c.ptn (opf c.ops 2 0 6)) bs := by
      rw [getBatch_begun]
      exact ⟨hsome, hmost, hopen, hmine, hdistinct, hrows, hgood, by rw [ringsOk_begun]; exact hrings⟩
    rw [rowSetGo_sets hokBegun hread, getBatch_begun]
    refine ⟨fun hstep => ⟨_, rfl, (touched_modBatch h b (pendRows c bs)).waits h (if_pos hstep)⟩, fun hstep hsets hpolicies hfree => ⟨_, rfl, ?_⟩⟩
    exact rowSet_replaces h hok hsets hpolicies hfree (if_neg (Option.not_isSome_iff_eq_none.2 hstep))
  case batchClose =>
    intro e s h c b x
    rw [exec_batchClose h]
    refine ⟨fun hbad => ⟨_, rfl, only_ends h _ 0 ?refused⟩, fun hopen hmine hclosing hcancel hop hstep => ⟨_, rfl, (touched_modBatch h b fun y => { y with closing := some (c.ring, c.idx) }).waits h ?closeWaits⟩,
      fun hopen hmine hclosing hcancel hop hstep hsets => ?closes,
      fun hopen hmine hclosing hcancel hop hstep hruns => ⟨_, rfl, (touched_modBatch h b fun y => { y with cancel := some (c.ring, c.idx) }).waits h ?cancelWaits⟩,
      fun hopen hmine hclosing hcancel hop hrun hresume hsaved hsets hqueue => ⟨_, rfl, batchClose_cancels h hsets hclosing hrun hresume hsaved hqueue ?cancels⟩⟩
    case refused =>
      have hgo := batchCloseGo_refused (c := c) (s := begun s e 0x23) (by rw [getBatch_begun]; exact hbad)
      rwa [getBatch_begun] at hgo
    case closeWaits => exact (batchCloseGo_closes (getBatch_begun ..) hopen hmine hclosing hcancel hop).trans (if_pos hstep)
    case closes =>
      have hnow := (batchCloseGo_closes (getBatch_begun (s := s) (e := e) (op := 0x23) c.ptn (opf c.ops 2 0 6)) hopen hmine hclosing hcancel hop).trans
        (if_neg (Option.not_isSome_iff_eq_none.2 hstep))
      obtain ⟨hothers, hbatch, hfe, hcmd⟩ := batchClose_closes h hsets hnow
      exact ⟨_, rfl, hothers, hbatch, by rw [hfe]; rfl, by rw [hfe]; rfl, hcmd⟩
    case cancelWaits =>
      refine (batchCloseGo_cancels (getBatch_begun ..) hopen hmine hclosing hcancel hop).trans (if_pos ?_)
      rw [stepRuns_begun, Bool.and_eq_true]
      exact ⟨hstep, hruns⟩
    case cancels =>
      refine (batchCloseGo_cancels (getBatch_begun ..) hopen hmine hclosing hcancel hop).trans (if_neg ?_)
      have hidle : stepRuns s c.ptn (opf c.ops 2 0 6) = false := by simp only [stepRuns, hrun]
      rw [stepRuns_begun, hidle, Bool.and_false]
      decide

end Sys2Proof.Proofs
end
